-- ==== Sys2Proof/Word.lean ====
section
/-! DEFINITION. The word types of the X3 and the token of its fabric (R4, R5, R25, R26). -/

namespace Sys2Proof

/-- A payload, a register, a word of a memory tile. -/
abbrev Word := BitVec 64

/-- The smallest addressable unit. -/
abbrev Byte := BitVec 8

/-- A token: mark, format tag, coordinate and payload (R25).  Marks 0-3 are data heads, 4 end-of-stream,
5 drain, 6 configuration, 7 poison (R26). -/
structure Token where
  mark : BitVec 3
  tag : BitVec 3
  coord : BitVec 32
  payload : Word
  deriving DecidableEq, Repr

end Sys2Proof
end

