-- ==== Sys2Proof/Syntax.lean ====
section
/-! DEFINITION. The instructions of the X3 as terms: one constructor for each row of the opcode table, with
the operand forms of R152, R153, R155, R156 and R157 spelled out as types (07_encodings.md). -/

namespace Sys2Proof

/-- A 5-bit source code (R152). -/
inductive Src where
  /-- g0-g7, presence kept (codes 0-7). -/
  | g (n : Fin 8)
  /-- g0!-g7!, presence taken (codes 8-15). -/
  | take (n : Fin 8)
  /-- k0-k7 (codes 16-23). -/
  | k (n : Fin 8)
  /-- The head of i0-i3 (codes 24-27). -/
  | ch (n : Fin 4)
  /-- z, the all-zero payload (code 28). -/
  | z
  /-- one, the value 1 in every lane of the rule's format (code 29). -/
  | one
  /-- bt, the beat index (code 30). -/
  | bt
  /-- cx, the coordinate of the beat (code 31). -/
  | cx
  deriving DecidableEq, Repr

/-- A source with its peek bit (R155). -/
structure Opd where
  src : Src
  peek : Bool
  deriving DecidableEq, Repr

/-- The output destinations, codes 8-14 (R153). -/
inductive ODst where
  | o (n : Fin 4)
  | o01
  | o23
  | oall
  deriving DecidableEq, Repr

/-- The destinations 0-15 (R153). -/
inductive Dst where
  | g (n : Fin 8)
  | out (d : ODst)
  | z
  deriving DecidableEq, Repr

/-- The destinations of MAC: an accumulator (16-19) or, in the feed form, an output (8-14) (R213, R231). -/
inductive MacDst where
  | acc (n : Fin 4)
  | out (d : ODst)
  deriving DecidableEq, Repr

/-- The scopes of FENCE, codes 0-4 (R134, R155). -/
inductive Scope where
  | elem
  | sec
  | qtr
  | dev
  | dom
  deriving DecidableEq, Repr

/-- The three sweep classes (R19, R82). -/
inductive SweepClass where
  | quick
  | steady
  | deep
  deriving DecidableEq, Repr

/-- Where a loader placed the ring regions of an image: the free choice of R415.  `bases` are the virtual
bases of the regions in ring order; `tables` are the translation-store words the loader wrote to map them,
as (quarter, word index, value); `root` is the table root it wrote for the tenant, if it wrote one. -/
structure LoadPlan where
  bases : List Nat
  tables : List (Nat × Nat × BitVec 64)
  root : Option (BitVec 64)
  deriving DecidableEq, Repr


/-- Every row of the opcode table: the 176 slot instructions, one 32-bit word each, then the 109 steps
that have no word (host commands and events of the device).  Each slot instruction begins with its
trigger index `t` (R151). -/
inductive Instr where
  -- Class 0: flow and predicates
  /-- `NOP` (R184): Reads and dequeues its operands and applies the trigger's predicate and pulse effects, doing nothing else. -/
  | nop (t : Fin 64) (a : Opd) (b : Opd)
  /-- `MOV` (R185): Forwards or writes source A whole at each beat. -/
  | mov (t : Fin 64) (d : Dst) (a : Opd)
  /-- `MOVT` (R186): Forwards source A with a new tag taken from source B. -/
  | movt (t : Fin 64) (d : Dst) (a : Opd) (b : Opd)
  /-- `FORK` (R187): Sends source A to each named output that the selector in source B picks. -/
  | fork (t : Fin 64) (d : ODst) (a : Opd) (b : Opd)
  /-- `SEL` (R188): Forwards source A if p0 is 1, otherwise source B. -/
  | sel (t : Fin 64) (d : Dst) (a : Opd) (b : Opd)
  /-- `MRG` (R189): Forwards and dequeues the data head of source A, or otherwise that of source B. -/
  | mrg (t : Fin 64) (d : Dst) (a : Fin 4) (b : Fin 4)
  /-- `SPLIT` (R187): Sends source A to exactly one output chosen by source B. -/
  | split (t : Fin 64) (d : ODst) (a : Opd) (b : Opd)
  /-- `DROP` (R190): Clears a register's presence or dequeues a channel token of any mark. -/
  | drop (t : Fin 64) (a : Src)
  /-- `MARK` (R191): Sends one token per beat with the mark code given in source B. -/
  | mark (t : Fin 64) (d : ODst) (a : Opd) (b : Opd)
  /-- `EMIT` (R192): Sends one end-of-stream token on each named output at each beat. -/
  | emit (t : Fin 64) (d : ODst) (a : Opd) (b : Opd)
  /-- `TAGS` (R193): Writes the tag, mark and coordinate of source A as a payload. -/
  | tags (t : Fin 64) (d : Dst) (a : Opd)
  /-- `PSET` (R194): Sets pN when source A AND source B is nonzero at any beat. -/
  | pset (t : Fin 64) (d : Fin 8) (a : Opd) (b : Opd)
  /-- `PCLR` (R194): Clears pN when source A AND source B is nonzero at any beat. -/
  | pclr (t : Fin 64) (d : Fin 8) (a : Opd) (b : Opd)
  /-- `CTR` (R195): Counts source A up by one, wrapping to zero at source B. -/
  | ctr (t : Fin 64) (d : Dst) (a : Opd) (b : Opd)
  /-- `SIG` (R196): Sends one pulse per beat on a control output. -/
  | sig (t : Fin 64) (d : Fin 4) (a : Opd) (b : Opd)
  /-- `HALT` (R197): Stops rule processing in the element for the rest of the unit. -/
  | halt (t : Fin 64)
  -- Class 1: integer
  /-- `ADD` (R199): Lane-wise wrapping integer addition. -/
  | add (t : Fin 64) (d : Dst) (a : Opd) (b : Opd) (bc : Bool)
  /-- `SUB` (R199): Lane-wise wrapping integer subtraction. -/
  | sub (t : Fin 64) (d : Dst) (a : Opd) (b : Opd) (bc : Bool)
  /-- `ADDS` (R199): Lane-wise saturating integer addition. -/
  | adds (t : Fin 64) (d : Dst) (a : Opd) (b : Opd) (bc : Bool)
  /-- `SUBS` (R199): Lane-wise saturating integer subtraction. -/
  | subs (t : Fin 64) (d : Dst) (a : Opd) (b : Opd) (bc : Bool)
  /-- `MUL` (R199): Lane-wise low half of the integer product. -/
  | mul (t : Fin 64) (d : Dst) (a : Opd) (b : Opd) (bc : Bool)
  /-- `MULH` (R199): Lane-wise high half of the signed product. -/
  | mulh (t : Fin 64) (d : Dst) (a : Opd) (b : Opd) (bc : Bool)
  /-- `MULHU` (R199): Lane-wise high half of the unsigned product. -/
  | mulhu (t : Fin 64) (d : Dst) (a : Opd) (b : Opd) (bc : Bool)
  /-- `MAD` (R199): Lane-wise multiply-add into the destination register. -/
  | mad (t : Fin 64) (d : Fin 8) (a : Opd) (b : Opd) (bc : Bool)
  /-- `NEG` (R199): Lane-wise wrapping negation. -/
  | neg (t : Fin 64) (d : Dst) (a : Opd)
  /-- `ABS` (R199): Lane-wise saturating absolute value. -/
  | abs (t : Fin 64) (d : Dst) (a : Opd)
  /-- `MIN` (R200): Lane-wise signed minimum. -/
  | min (t : Fin 64) (d : Dst) (a : Opd) (b : Opd) (bc : Bool)
  /-- `MAX` (R200): Lane-wise signed maximum. -/
  | max (t : Fin 64) (d : Dst) (a : Opd) (b : Opd) (bc : Bool)
  /-- `MINU` (R200): Lane-wise unsigned minimum. -/
  | minu (t : Fin 64) (d : Dst) (a : Opd) (b : Opd) (bc : Bool)
  /-- `MAXU` (R200): Lane-wise unsigned maximum. -/
  | maxu (t : Fin 64) (d : Dst) (a : Opd) (b : Opd) (bc : Bool)
  /-- `AND` (R201): Bitwise AND of the payloads. -/
  | and (t : Fin 64) (d : Dst) (a : Opd) (b : Opd) (bc : Bool)
  /-- `OR` (R201): Bitwise OR of the payloads. -/
  | or (t : Fin 64) (d : Dst) (a : Opd) (b : Opd) (bc : Bool)
  /-- `XOR` (R201): Bitwise XOR of the payloads. -/
  | xor (t : Fin 64) (d : Dst) (a : Opd) (b : Opd) (bc : Bool)
  /-- `SHL` (R202): Lane-wise logical left shift. -/
  | shl (t : Fin 64) (d : Dst) (a : Opd) (b : Opd) (bc : Bool)
  /-- `SHR` (R202): Lane-wise logical right shift. -/
  | shr (t : Fin 64) (d : Dst) (a : Opd) (b : Opd) (bc : Bool)
  /-- `SAR` (R202): Lane-wise arithmetic right shift. -/
  | sar (t : Fin 64) (d : Dst) (a : Opd) (b : Opd) (bc : Bool)
  /-- `ROT` (R202): Lane-wise left rotation. -/
  | rot (t : Fin 64) (d : Dst) (a : Opd) (b : Opd) (bc : Bool)
  /-- `CLZ` (R203): Lane-wise count of leading zeros. -/
  | clz (t : Fin 64) (d : Dst) (a : Opd)
  /-- `POPC` (R203): Lane-wise count of set bits. -/
  | popc (t : Fin 64) (d : Dst) (a : Opd)
  /-- `BFX` (R204): Extracts a bit field from every lane under a control word. -/
  | bfx (t : Fin 64) (d : Dst) (a : Opd) (b : Opd)
  /-- `IDX` (R205): Writes an arithmetic sequence across the lanes. -/
  | idx (t : Fin 64) (d : Dst) (a : Opd) (b : Opd)
  /-- `SATN` (R206): Clamps each lane to a given bit width. -/
  | satn (t : Fin 64) (d : Dst) (a : Opd) (b : Opd)
  /-- `CMPEQ` (R207): Writes pN true when every lane of every beat is equal. -/
  | cmpeq (t : Fin 64) (d : Fin 8) (a : Opd) (b : Opd) (bc : Bool)
  /-- `CMPNE` (R207): Writes pN true when every lane of every beat differs. -/
  | cmpne (t : Fin 64) (d : Fin 8) (a : Opd) (b : Opd) (bc : Bool)
  /-- `CMPLT` (R207): Signed lane-wise less-than test into pN. -/
  | cmplt (t : Fin 64) (d : Fin 8) (a : Opd) (b : Opd) (bc : Bool)
  /-- `CMPLE` (R207): Signed lane-wise less-or-equal test into pN. -/
  | cmple (t : Fin 64) (d : Fin 8) (a : Opd) (b : Opd) (bc : Bool)
  /-- `CMPLTU` (R207): Unsigned lane-wise less-than test into pN. -/
  | cmpltu (t : Fin 64) (d : Fin 8) (a : Opd) (b : Opd) (bc : Bool)
  /-- `CMPLEU` (R207): Unsigned lane-wise less-or-equal test into pN. -/
  | cmpleu (t : Fin 64) (d : Fin 8) (a : Opd) (b : Opd) (bc : Bool)
  -- Class 2: floating point
  /-- `FADD` (R217): Lane-wise floating add with one rounding. -/
  | fadd (t : Fin 64) (d : Dst) (a : Opd) (b : Opd) (bc : Bool)
  /-- `FSUB` (R217): Lane-wise floating subtract with one rounding. -/
  | fsub (t : Fin 64) (d : Dst) (a : Opd) (b : Opd) (bc : Bool)
  /-- `FMUL` (R217): Lane-wise floating multiply with one rounding. -/
  | fmul (t : Fin 64) (d : Dst) (a : Opd) (b : Opd) (bc : Bool)
  /-- `FFMA` (R217): Lane-wise fused multiply-add into the destination register. -/
  | ffma (t : Fin 64) (d : Fin 8) (a : Opd) (b : Opd) (bc : Bool)
  /-- `FFMS` (R217): Lane-wise fused multiply-subtract into the destination register. -/
  | ffms (t : Fin 64) (d : Fin 8) (a : Opd) (b : Opd) (bc : Bool)
  /-- `FMIN` (R218): Lane-wise floating minimum ignoring a single NaN. -/
  | fmin (t : Fin 64) (d : Dst) (a : Opd) (b : Opd) (bc : Bool)
  /-- `FMAX` (R218): Lane-wise floating maximum ignoring a single NaN. -/
  | fmax (t : Fin 64) (d : Dst) (a : Opd) (b : Opd) (bc : Bool)
  /-- `FABS` (R219): Clears the sign bit of each float lane. -/
  | fabs (t : Fin 64) (d : Dst) (a : Opd)
  /-- `FNEG` (R219): Inverts the sign bit of each float lane. -/
  | fneg (t : Fin 64) (d : Dst) (a : Opd)
  /-- `FCLS` (R219): Writes the class code of each float lane. -/
  | fcls (t : Fin 64) (d : Dst) (a : Opd)
  /-- `FSCL` (R219): Scales each float lane by a power of two. -/
  | fscl (t : Fin 64) (d : Dst) (a : Opd) (b : Opd) (bc : Bool)
  /-- `FFRC` (R219): Writes the fractional part of each float lane. -/
  | ffrc (t : Fin 64) (d : Dst) (a : Opd)
  /-- `FCMPEQ` (R220): Floating equality test into pN. -/
  | fcmpeq (t : Fin 64) (d : Fin 8) (a : Opd) (b : Opd) (bc : Bool)
  /-- `FCMPLT` (R220): Floating less-than test into pN. -/
  | fcmplt (t : Fin 64) (d : Fin 8) (a : Opd) (b : Opd) (bc : Bool)
  /-- `FCMPLE` (R220): Floating less-or-equal test into pN. -/
  | fcmple (t : Fin 64) (d : Fin 8) (a : Opd) (b : Opd) (bc : Bool)
  /-- `FCMPUN` (R220): Unordered (NaN) test into pN. -/
  | fcmpun (t : Fin 64) (d : Fin 8) (a : Opd) (b : Opd) (bc : Bool)
  /-- `FRCP` (R222): Correctly rounded reciprocal, delivered late. -/
  | frcp (t : Fin 64) (d : Dst) (a : Opd)
  /-- `FRSQ` (R222): Correctly rounded reciprocal square root, delivered late. -/
  | frsq (t : Fin 64) (d : Dst) (a : Opd)
  /-- `FSQRT` (R222): Correctly rounded square root, delivered late. -/
  | fsqrt (t : Fin 64) (d : Dst) (a : Opd)
  /-- `FDIV` (R217): Correctly rounded division, delivered late. -/
  | fdiv (t : Fin 64) (d : Dst) (a : Opd) (b : Opd) (bc : Bool)
  /-- `FEXP2` (R222): Correctly rounded 2 to the x, delivered late. -/
  | fexp2 (t : Fin 64) (d : Dst) (a : Opd)
  /-- `FLOG2` (R222): Correctly rounded base-2 logarithm, delivered late. -/
  | flog2 (t : Fin 64) (d : Dst) (a : Opd)
  /-- `FSIN` (R222): Correctly rounded sine, delivered late. -/
  | fsin (t : Fin 64) (d : Dst) (a : Opd)
  /-- `FCOS` (R222): Correctly rounded cosine, delivered late. -/
  | fcos (t : Fin 64) (d : Dst) (a : Opd)
  /-- `FTANH` (R222): Correctly rounded hyperbolic tangent, delivered late. -/
  | ftanh (t : Fin 64) (d : Dst) (a : Opd)
  /-- `FRND` (R219): Rounds each float lane to an integral value. -/
  | frnd (t : Fin 64) (d : Dst) (a : Opd)
  /-- `FTOI` (R221): Converts float lanes to integer lanes of the same width. -/
  | ftoi (t : Fin 64) (d : Dst) (a : Opd) (b : Opd)
  /-- `ITOF` (R221): Converts integer lanes to float lanes of the same width. -/
  | itof (t : Fin 64) (d : Dst) (a : Opd) (b : Opd)
  -- Class 3: bricks and formats
  /-- `MAC` (R229): Multiplies an A token by the brick micro-block into an accumulator, or in feed form forwards it with the pairing. -/
  | mac (t : Fin 64) (d : MacDst) (a : Opd) (wa : Fin 8) (wb : Fin 8)
  /-- `MACN` (R229): Subtracts the brick products of an A token from an accumulator. -/
  | macn (t : Fin 64) (d : Fin 4) (a : Opd) (wa : Fin 8) (wb : Fin 8)
  /-- `MACZ` (R229): Writes the brick products of an A token into an accumulator slot. -/
  | macz (t : Fin 64) (d : Fin 4) (a : Opd) (wa : Fin 8) (wb : Fin 8)
  /-- `WLD` (R228): Loads the micro-block into the bricks. -/
  | wld (t : Fin 64) (a : Opd) (b : Opd)
  /-- `ACRD` (R235): Reads accumulator lanes scaled and rounded into a result format. -/
  | acrd (t : Fin 64) (d : Dst) (a : Fin 4) (b : Opd) (sr : Bool)
  /-- `ACCLR` (R236): Zeroes an accumulator and sets its type to none. -/
  | acclr (t : Fin 64) (d : Fin 4)
  /-- `ACMV` (R236): Copies one accumulator and its type into another. -/
  | acmv (t : Fin 64) (d : Fin 4) (a : Fin 4)
  /-- `CVT` (R237): Converts a window of lanes into another format. -/
  | cvt (t : Fin 64) (d : Dst) (a : Opd) (b : Opd) (sr : Bool)
  /-- `QDEC` (R240): Decodes four QN4 lanes into INT16 numerators. -/
  | qdec (t : Fin 64) (d : Dst) (a : Opd) (b : Opd)
  /-- `QENC` (R241): Codes one 64-weight block into a burst of four QN4 tokens. -/
  | qenc (t : Fin 64) (d : ODst) (a : Opd) (b : Opd) (sr : Bool)
  /-- `MXS` (R239): Applies the latched MX scale of the current burst. -/
  | mxs (t : Fin 64) (d : Dst) (a : Fin 4) (pk : Bool)
  /-- `PACK` (R242): Packs two operands into lanes of half the width. -/
  | pack (t : Fin 64) (d : Dst) (a : Opd) (b : Opd)
  /-- `UNPK` (R242): Unpacks half of the lanes into lanes of double width. -/
  | unpk (t : Fin 64) (d : Dst) (a : Opd) (b : Opd)
  /-- `SHFL` (R243): Rearranges lanes by index nibbles. -/
  | shfl (t : Fin 64) (d : Dst) (a : Opd) (b : Opd)
  /-- `BCST` (R243): Broadcasts one lane into every lane. -/
  | bcst (t : Fin 64) (d : Dst) (a : Opd) (b : Opd)
  /-- `RMAX` (R244): Reduces all lanes and beats to their maximum. -/
  | rmax (t : Fin 64) (d : Dst) (a : Opd)
  /-- `RSUM` (R244): Reduces all lanes and beats to their rounded sum. -/
  | rsum (t : Fin 64) (d : Dst) (a : Opd)
  /-- `RSEX` (R245): Updates the online softmax pair in a register. -/
  | rsex (t : Fin 64) (d : Fin 8) (a : Opd)
  /-- `SCALE` (R238): Multiplies each lane by an E8M0 power of two. -/
  | scale (t : Fin 64) (d : Dst) (a : Opd) (b : Opd)
  -- Class 4: stores and atomics
  /-- `LD` (R254): Loads an AB word ignoring its full-empty bit. -/
  | ld (t : Fin 64) (d : Dst) (a : Opd)
  /-- `ST` (R254): Stores an AB word ignoring its full-empty bit. -/
  | st (t : Fin 64) (d : Fin 4) (a : Opd) (b : Opd)
  /-- `LDS` (R254): Loads an AB word once it is full, leaving it full. -/
  | lds (t : Fin 64) (d : Dst) (a : Opd)
  /-- `LDE` (R254): Loads an AB word once it is full and empties it. -/
  | lde (t : Fin 64) (d : Dst) (a : Opd)
  /-- `STF` (R254): Stores an AB word and sets it full. -/
  | stf (t : Fin 64) (d : Fin 4) (a : Opd) (b : Opd)
  /-- `STE` (R254): Stores an AB word once it is empty and sets it full. -/
  | ste (t : Fin 64) (d : Fin 4) (a : Opd) (b : Opd)
  /-- `PUSH` (R256): Appends a token to a TF tile's FIFO. -/
  | push (t : Fin 64) (d : Fin 4) (a : Opd) (b : Opd)
  /-- `POP` (R256): Takes the head token of a TF tile's FIFO. -/
  | pop (t : Fin 64) (d : Dst) (a : Opd)
  /-- `AMOADD` (R258): Atomic lane-wise integer add at an AB word. -/
  | amoadd (t : Fin 64) (d : Dst) (a : Opd) (b : Opd)
  /-- `AMOMIN` (R258): Atomic lane-wise minimum at an AB word. -/
  | amomin (t : Fin 64) (d : Dst) (a : Opd) (b : Opd)
  /-- `AMOMAX` (R258): Atomic lane-wise maximum at an AB word. -/
  | amomax (t : Fin 64) (d : Dst) (a : Opd) (b : Opd)
  /-- `AMOAND` (R258): Atomic bitwise AND at an AB word. -/
  | amoand (t : Fin 64) (d : Dst) (a : Opd) (b : Opd)
  /-- `AMOOR` (R258): Atomic bitwise OR at an AB word. -/
  | amoor (t : Fin 64) (d : Dst) (a : Opd) (b : Opd)
  /-- `AMOXOR` (R258): Atomic bitwise XOR at an AB word. -/
  | amoxor (t : Fin 64) (d : Dst) (a : Opd) (b : Opd)
  /-- `AMOSWP` (R258): Atomic swap at an AB word. -/
  | amoswp (t : Fin 64) (d : Dst) (a : Opd) (b : Opd)
  /-- `AMOCAS` (R259): Atomic compare-and-swap at an AB word. -/
  | amocas (t : Fin 64) (d : Fin 8) (a : Opd) (b : Opd)
  /-- `FAMOADD` (R260): Atomic floating add at an AB word under RNE. -/
  | famoadd (t : Fin 64) (d : Dst) (a : Opd) (b : Opd)
  /-- `FAMOMIN` (R260): Atomic floating minimum at an AB word. -/
  | famomin (t : Fin 64) (d : Dst) (a : Opd) (b : Opd)
  /-- `FAMOMAX` (R260): Atomic floating maximum at an AB word. -/
  | famomax (t : Fin 64) (d : Dst) (a : Opd) (b : Opd)
  /-- `BUFQ` (R261): Returns a buffer's state and outstanding delivery count. -/
  | bufq (t : Fin 64) (d : Dst) (a : Opd)
  /-- `BUFSET` (R261): Requests a buffer state change. -/
  | bufset (t : Fin 64) (a : Opd) (b : Opd)
  /-- `FENCE` (R134): Holds later stamp=wave memory events until earlier events reach the scope. -/
  | fence (t : Fin 64) (scope : Scope)
  /-- `LDC` (R263): Reads a word through the section cache, filling on a miss. -/
  | ldc (t : Fin 64) (d : Dst) (a : Opd) (ef : Bool)
  /-- `STC` (R264): Writes a word into the section cache and marks the line dirty. -/
  | stc (t : Fin 64) (d : Fin 4) (a : Opd) (b : Opd) (ef : Bool)
  /-- `CINV` (R265): Discards cached lines of a range without write-back. -/
  | cinv (t : Fin 64) (a : Opd) (b : Opd)
  /-- `CWB` (R265): Writes back dirty cached lines of a range as posted writes. -/
  | cwb (t : Fin 64) (a : Opd) (b : Opd)
  /-- `CHOLD` (R266): Loads a retention register and pins lines in its range. -/
  | chold (t : Fin 64) (a : Opd) (b : Opd)
  /-- `CFREE` (R266): Clears a retention register and unpins its lines. -/
  | cfree (t : Fin 64) (a : Opd)
  /-- `LDW` (R268): Reads one sweep or deep word as a stamped window item. -/
  | ldw (t : Fin 64) (d : Dst) (a : Opd)
  -- Class 5: riders and engine packets
  /-- `BRD_RD` (R270): Sends a transport rider packet to a sweep or deep binding. -/
  | brdRd (t : Fin 64) (n : Fin 32) (a : Src) (b : Src)
  /-- `BRD_FL` (R270): Sends a filter rider packet. -/
  | brdFl (t : Fin 64) (n : Fin 32) (a : Src) (b : Src)
  /-- `BRD_RED` (R270): Sends a reduce rider packet. -/
  | brdRed (t : Fin 64) (n : Fin 32) (a : Src) (b : Src)
  /-- `BRD_UPD` (R270): Sends an update rider packet. -/
  | brdUpd (t : Fin 64) (n : Fin 32) (a : Src) (b : Src)
  /-- `BRD_GAT` (R270): Sends a gather carriage packet. -/
  | brdGat (t : Fin 64) (n : Fin 32) (a : Src) (b : Src)
  /-- `BRD_SCA` (R270): Sends a scatter-add carriage packet. -/
  | brdSca (t : Fin 64) (n : Fin 32) (a : Src) (b : Src)
  /-- `BRD_LUT` (R270): Sends a LUT-MAC rider packet. -/
  | brdLut (t : Fin 64) (n : Fin 32) (a : Src) (b : Src)
  /-- `TBLB` (R272): Broadcasts one LUT table row to every bank of a span. -/
  | tblb (t : Fin 64) (n : Fin 32) (a : Src) (b : Src)
  /-- `RIDQ` (R273): Asks a port for a class's cursor, free carriages and budget balance. -/
  | ridq (t : Fin 64) (n : Fin 32) (a : Src)
  /-- `RCAN` (R274): Cancels the section's riders with a given done binding. -/
  | rcan (t : Fin 64) (n : Fin 32) (a : Src)
  /-- `CLAIM` (R275): Claims a free operand slot of the quarter. -/
  | claim (t : Fin 64) (d : Dst)
  /-- `RLSE` (R276): Releases an operand slot held by the job. -/
  | rlse (t : Fin 64) (a : Src)
  /-- `SLQ` (R277): Returns the state of an operand slot. -/
  | slq (t : Fin 64) (d : Dst) (a : Src)
  /-- `CPY` (R279): Sends a copy packet to the copy engine. -/
  | cpy (t : Fin 64) (n : Fin 32) (a : Src) (b : Src)
  /-- `COLL` (R280): Starts a collective on a group. -/
  | coll (t : Fin 64) (n : Fin 32) (a : Src) (b : Src)
  /-- `PORT` (R281): Sends source A as a token to the engine behind a binding. -/
  | port (t : Fin 64) (n : Fin 32) (a : Opd)
  /-- `WREM` (R282): Writes one word of a remote section. -/
  | wrem (t : Fin 64) (n : Fin 32) (a : Opd) (b : Opd) (full : Bool)
  /-- `SNDM` (R283): Sends a whole burst as a message to a remote TF tile. -/
  | sndm (t : Fin 64) (n : Fin 32) (a : Fin 4) (b : Src)
  /-- `DRN` (R284): Asks an engine for a token once earlier packets have completed. -/
  | drn (t : Fin 64) (n : Fin 32) (a : Src)
  /-- `CNTI` (R285): Takes one from the unit's tile count per beat. -/
  | cnti (t : Fin 64)
  -- Class 6: geometry and coordinate streams
  /-- `ORI2` (R294): Exact 2-D orientation of three points. -/
  | ori2 (t : Fin 64) (d : ODst) (a : Fin 4) (stg : Bool) (nfm : Bool)
  /-- `ORI2S` (R301): 2-D orientation with symbolic perturbation. -/
  | ori2s (t : Fin 64) (d : ODst) (a : Fin 4) (stg : Bool) (nfm : Bool)
  /-- `ORI3` (R294): Exact 3-D orientation of four points. -/
  | ori3 (t : Fin 64) (d : ODst) (a : Fin 4) (stg : Bool) (nfm : Bool)
  /-- `ORI3S` (R300): 3-D orientation with symbolic perturbation. -/
  | ori3s (t : Fin 64) (d : ODst) (a : Fin 4) (stg : Bool) (nfm : Bool)
  /-- `INCR` (R294): Exact in-circle test of four points. -/
  | incr (t : Fin 64) (d : ODst) (a : Fin 4) (stg : Bool) (nfm : Bool)
  /-- `INCRS` (R300): In-circle test with symbolic perturbation. -/
  | incrs (t : Fin 64) (d : ODst) (a : Fin 4) (stg : Bool) (nfm : Bool)
  /-- `INSP` (R294): Exact in-sphere test of five points. -/
  | insp (t : Fin 64) (d : ODst) (a : Fin 4) (stg : Bool) (nfm : Bool)
  /-- `INSPS` (R300): In-sphere test with symbolic perturbation. -/
  | insps (t : Fin 64) (d : ODst) (a : Fin 4) (stg : Bool) (nfm : Bool)
  /-- `SEGX` (R295): Exact classification of two segments' intersection. -/
  | segx (t : Fin 64) (d : ODst) (a : Fin 4) (stg : Bool) (nfm : Bool)
  /-- `SEGXS` (R301): Segment intersection with symbolic perturbation. -/
  | segxs (t : Fin 64) (d : ODst) (a : Fin 4) (stg : Bool) (nfm : Bool)
  /-- `BAND` (R306): Intersects two coordinate-aligned bitmaps. -/
  | band (t : Fin 64) (d : Dst) (a : Opd) (b : Opd)
  /-- `BPOS` (R307): Finds the next set position of a bitmap. -/
  | bpos (t : Fin 64) (d : Dst) (a : Opd) (b : Opd)
  /-- `CCMP` (R308): Compares two coordinates into pN. -/
  | ccmp (t : Fin 64) (d : Fin 8) (a : Opd) (b : Opd)
  /-- `CMRG` (R309): Forwards the channel head with the smaller coordinate. -/
  | cmrg (t : Fin 64) (d : Dst) (a : Fin 4) (b : Fin 4)
  /-- `CSET` (R310): Forwards source A with a replaced coordinate. -/
  | cset (t : Fin 64) (d : Dst) (a : Opd) (b : Opd)
  /-- `CGET` (R310): Splits a coordinate into row and column. -/
  | cget (t : Fin 64) (d : Dst) (a : Opd) (b : Opd)
  /-- `RTE` (R311): Routes source A to an output chosen by its coordinate. -/
  | rte (t : Fin 64) (d : ODst) (a : Opd) (b : Opd)
  -- Class 7: system
  /-- `TRAP` (R348): Stops the element with a software trap record. -/
  | trap (t : Fin 64) (a : Opd)
  /-- `BRK` (R351): Stops the picker at a breakpoint when debug is set. -/
  | brk (t : Fin 64)
  /-- `CSRR` (R349): Reads a system register. -/
  | csrr (t : Fin 64) (d : Dst) (a : Opd)
  /-- `CSRW` (R349): Writes a system register. -/
  | csrw (t : Fin 64) (a : Opd) (b : Opd)
  /-- `FRZ` (R350): Freezes a unit's section into an image. -/
  | frz (t : Fin 64) (d : Dst) (a : Opd) (b : Opd)
  /-- `THAW` (R350): Restores a frozen image onto a placement. -/
  | thaw (t : Fin 64) (d : Dst) (a : Opd) (b : Opd)
  /-- `SNAP` (R352): Requests a snapshot at the end of the current unit. -/
  | snap (t : Fin 64) (d : Dst) (a : Opd)
  /-- `TLBI` (R350): Invalidates the tenant's translations over a range. -/
  | tlbi (t : Fin 64) (d : Dst) (a : Opd) (b : Opd)
  /-- `CFGW` (R353): Writes one checked configuration word. -/
  | cfgw (t : Fin 64) (d : Dst) (a : Opd) (b : Opd)
  /-- `CANC` (R354): Cancels a launch, graph, phase or job. -/
  | canc (t : Fin 64) (d : Dst) (a : Opd)
  /-- `PERF` (R355): Returns a performance counter. -/
  | perf (t : Fin 64) (d : Dst) (a : Opd)
  /-- `TIME` (R355): Returns a cycle, step or window count. -/
  | time (t : Fin 64) (d : Dst) (a : Opd)
  /-- `IDLE` (R355): Stops the picker until an event or a cycle limit. -/
  | idle (t : Fin 64) (a : Opd)
  /-- `ATTN` (R355): Posts an attention record to the queue's completion ring. -/
  | attn (t : Fin 64) (a : Opd)
  /-- `LOG` (R356): Appends a 16-byte record to the job's log ring. -/
  | log (t : Fin 64) (a : Opd) (b : Opd)
  -- Steps without a word: each names the thing it happens to and any input it brings
  /-- `PEEK_CONTINUE_IDLE_WAKE` (R355): An idled element's picker restarts on a wake event or its cycle limit expiring. -/
  | peekContinueIdleWake (u : Nat) (e : Nat)
  /-- `BREAKPOINT_RESUME` (R351): A write of 1 to EDBG[1] resumes a picker stopped by BRK. -/
  | breakpointResume (u : Nat) (e : Nat)
  /-- `QUEUE_RECORD_ARRIVAL` (R327): A 64-byte posted write reaches a queue window and is enqueued, discarded or answered with overrun. -/
  | queueRecordArrival (q : Nat) (rec : List Byte)
  /-- `QUEUE_ARBITER_TAKE` (R332): Every 8 cycles the arbiter takes one head record from an eligible queue by priority and deficit round-robin. -/
  | queueArbiterTake
  /-- `OPEN` (R329): Opens a queue for a tenant with its rings and attributes. -/
  | hostOpen
  /-- `LOAD` (R329): Reads, checks and stores an image under a handle. -/
  | hostLoad (plan : LoadPlan)
  /-- `PHASE` (R329): Appends one phase to the queue's pending job. -/
  | hostPhase
  /-- `RUN` (R329): Submits the pending job on an image into the job table. -/
  | hostRun
  /-- `WAIT` (R329): Holds the queue until a job completes or an event counter reaches a threshold. -/
  | hostWait
  /-- `SIGNAL` (R329): Adds to a job's event counter or posts a completion record only. -/
  | hostSignal
  /-- `CANCEL` (R329): Cancels a launch, graph, phase or job of the tenant. -/
  | hostCancel
  /-- `CLOSE` (R329): Moves a queue to closing until its jobs and records are done. -/
  | hostClose
  /-- `QUEUE_CLOSED` (R329): A closing queue becomes closed once its jobs have completed and its records are written, freeing its images. -/
  | queueClosed (q : Nat)
  /-- `QUEUE_WAIT_RELEASE` (R329): A queue held by WAIT becomes eligible when its condition holds. -/
  | queueWaitRelease (q : Nat)
  /-- `RING_READ_INDEX_WRITE` (R329): The host advances a ring's read index, letting waiting records land. -/
  | ringReadIndexWrite (q : Nat) (ring : Nat) (idx : Nat)
  /-- `NODE_ARM` (R77): The sequencer takes an ARM node and arms the section's units. -/
  | nodeArm (job : Nat)
  /-- `NODE_WAIT` (R77): The sequencer waits for a launch to complete or a counter to reach a threshold. -/
  | nodeWait (job : Nat)
  /-- `NODE_WAIT_RELEASE` (R77): A waiting WAIT node's condition holds and the walk proceeds. -/
  | nodeWaitRelease (job : Nat)
  /-- `NODE_SIGNAL` (R77): The sequencer adds to an event counter or posts a completion record. -/
  | nodeSignal (job : Nat)
  /-- `NODE_LOOP` (R77): The sequencer returns to a target node or falls through. -/
  | nodeLoop (job : Nat)
  /-- `NODE_END` (R77): The sequencer ends the graph's walk. -/
  | nodeEnd (job : Nat)
  /-- `UNIT_PLACEMENT` (R337): The allocator places a waiting unit on a free rectangle of blocks and arms it. -/
  | unitPlacement (u : Nat)
  /-- `SECTION_ROTATION` (R346): A hot placement is moved to a cooler rectangle before the next unit. -/
  | sectionRotation (u : Nat)
  /-- `TILE_COUNT_EXPIRY` (R72): The unit's tile count reaches zero and drain begins. -/
  | tileCountExpiry (u : Nat)
  /-- `ELEMENT_DRAIN_PASS` (R72): An element forwards drain once drain has passed all its inputs and nothing is in progress. -/
  | elementDrainPass (u : Nat) (e : Nat)
  /-- `CYCLE_DRAIN_INJECT` (R72): The sequencer injects drain into a route cycle once its elements have no live trigger. -/
  | cycleDrainInject (u : Nat) (e : Nat) (ch : Nat)
  /-- `PORT_DRAIN_PASS` (R72): A port binding passes drain after every rider or packet sent through it has completed. -/
  | portDrainPass (u : Nat) (n : Nat)
  /-- `UNIT_END` (R72): All parts of the section have drained and the unit ends, reporting to its launch. -/
  | unitEnd (u : Nat)
  /-- `LAUNCH_COMPLETE` (R78): All units of a launch have ended and the launch completes with its status. -/
  | launchComplete (l : Nat)
  /-- `GRAPH_COMPLETE` (R78): A graph completes once END is taken and its launches have completed. -/
  | graphComplete (job : Nat)
  /-- `PHASE_COMPLETE` (R78): A phase completes with its last graph, and the next graph starts. -/
  | phaseComplete (job : Nat)
  /-- `JOB_COMPLETE` (R78): A job completes, releasing its slots and posting its completion record. -/
  | jobComplete (job : Nat)
  /-- `SLOT_ZERO_COMPLETE` (R118): A released operand slot finishes zeroing and becomes free. -/
  | slotZeroComplete (quarter : Nat) (slot : Nat)
  /-- `WATCHDOG_EXPIRY` (R73): After 2^24 idle cycles the section watchdog writes a report record. -/
  | watchdogExpiry (u : Nat)
  /-- `STARVE_BIT_SET` (R74): A slot's starve count reaches 2^20 and sets its starve bit. -/
  | starveBitSet (u : Nat) (e : Nat) (slot : Nat)
  /-- `CONFIG_TOKEN_CONSUME` (R61): A configuration token at a channel head writes its k-register between firings. -/
  | configTokenConsume (u : Nat) (e : Nat) (ch : Nat)
  /-- `PULSE_ARRIVAL` (R62): A control pulse adds one to a control input's counter, saturating at 32. -/
  | pulseArrival (u : Nat) (route : Nat)
  /-- `INGRESS_TOKEN` (R28): A token enters a section at an ingress port and is checked against the palette. -/
  | ingressToken (u : Nat) (n : Nat) (tok : Token)
  /-- `CHANNEL_TOKEN_ARRIVAL` (R68): A token arrives at an element input channel and passes the merge or whole-burst logic. -/
  | channelTokenArrival (u : Nat) (route : Nat)
  /-- `LATE_RESULT_WRITE` (R224): A late result reaches its destination after its latency. -/
  | lateResultWrite (u : Nat) (e : Nat) (idx : Nat)
  /-- `FE_WAIT_COMPLETE` (R126): A waiting LDS, LDE or STE completes once its full-empty condition holds. -/
  | feWaitComplete (u : Nat) (tile : Nat) (idx : Nat)
  /-- `GUARD_POISON_RETURN` (R406): 16 cycles after a dropped copy, a guard poison token returns as its completion. -/
  | guardPoisonReturn (idx : Nat)
  /-- `STAGE_B_RESULT` (R297): A predicate instance finishes stage B in the bricks, certifying or escalating. -/
  | stageBResult (u : Nat) (e : Nat) (idx : Nat)
  /-- `EXACT_UNIT_RESULT` (R298): The block's exact unit decides an escalated instance. -/
  | exactUnitResult (block : Nat)
  /-- `PREDICATE_RESULT_SEND` (R304): A predicate result token leaves the reorder window in instance order. -/
  | predicateResultSend (u : Nat) (e : Nat)
  /-- `SYSTOLIC_TOKEN_PROCESS` (R232): A systolic element pairs an A token with a partial-sum vector and passes both on. -/
  | systolicTokenProcess (u : Nat) (e : Nat)
  /-- `SOUTH_EDGE_ADD` (R233): A south-edge element adds a vector into its accumulator and pulses c3 after a tail. -/
  | southEdgeAdd (u : Nat) (e : Nat)
  /-- `CORNER_TURN_EMIT` (R318): A full or closed corner turn emits its block in column order. -/
  | cornerTurnEmit (u : Nat) (route : Nat)
  /-- `SLOT_STREAM_REQUEST` (R119): A slot-stream binding serves a request by streaming slot words as a burst. -/
  | slotStreamRequest (u : Nat) (n : Nat)
  /-- `BUFFER_DELIVERY_COMPLETE` (R114): A delivery to a buffer completes and the buffer may turn ready. -/
  | bufferDeliveryComplete (u : Nat) (buf : Nat)
  /-- `CACHE_FILL_RETURN` (R263): A section-cache fill item is served and the line is filled. -/
  | cacheFillReturn (u : Nat) (idx : Nat)
  /-- `CACHE_WALK_END` (R265): The 128-cycle tag walk of CINV or CWB ends. -/
  | cacheWalkEnd (u : Nat) (idx : Nat)
  /-- `WINDOW_EXTEND` (R116): In window mode a 32 KiB transport rider extends a window's head. -/
  | windowExtend (u : Nat) (idx : Nat)
  /-- `RIDER_PACKET_CHECK` (R86): The sweep port checks a rider word and refuses it at once if malformed. -/
  | riderPacketCheck (u : Nat) (n : Nat)
  /-- `RIDER_TRANSLATE` (R88): The port translates a rider's span before boarding, holding it on a fault. -/
  | riderTranslate (rider : Nat)
  /-- `TRANSLATION_WALK` (R363): A page walk finishes, from the store or after a table-fetch rider. -/
  | translationWalk (rider : Nat)
  /-- `STEP_BOUNDARY` (R91): A class's step count advances; riders board, stamps are given and the visit begins. -/
  | stepBoundary (cls : SweepClass)
  /-- `RIDER_ALIGHT` (R92): A rider alights after its last band, delivers its data and sends its completion token. -/
  | riderAlight (rider : Nat)
  /-- `ITEM_ACCEPT` (R105): A GAT or SCA item is translated and accepted into the update window. -/
  | itemAccept (u : Nat) (n : Nat)
  /-- `CARRIAGE_CLOSE` (R99): An end-of-stream token closes a GAT or SCA carriage to further items. -/
  | carriageClose (rider : Nat)
  /-- `BUDGET_WINDOW_BOUNDARY` (R340): A new budget window begins and every limited balance is refilled. -/
  | budgetWindowBoundary
  /-- `CLASS_STOP` (R110): A held class stops sweeping once its riders have alighted and items are served. -/
  | classStop (cls : SweepClass)
  /-- `IDLE_PAUSE` (R110): A stacked class pauses after 65,536 idle steps. -/
  | idlePause (cls : SweepClass)
  /-- `CLASS_RESUME` (R110): A paused or held class resumes sweeping. -/
  | classResume (cls : SweepClass)
  /-- `RING_CLASS_CHANGE` (R20): A ring joins its new class once no carriage holds a rider over it. -/
  | ringClassChange (ring : Nat)
  /-- `COPY_START` (R279): The copy engine starts a copy after budget and checks. -/
  | copyStart (quarter : Nat)
  /-- `COPY_COMPLETE` (R279): A copy finishes its sectors and returns its completion token. -/
  | copyComplete (quarter : Nat)
  /-- `COLLECTIVE_COMPLETE` (R395): A collective completes and sets destination words full. -/
  | collectiveComplete (id : Nat)
  /-- `COLLECTIVE_MEMBER_TIMEOUT` (R395): A member silent for 100 µs fails the collective. -/
  | collectiveMemberTimeout (id : Nat)
  /-- `REMOTE_WRITE_ARRIVAL` (R393): A WREM or SNDM reaches its destination package and is performed or refused. -/
  | remoteWriteArrival (id : Nat)
  /-- `REMOTE_ACK_TIMEOUT` (R394): A WREM or SNDM not acknowledged within 100 µs fails. -/
  | remoteAckTimeout (id : Nat)
  /-- `MESSAGE_ARRIVAL` (R257): A message is written whole into a TF tile or held for room. -/
  | messageArrival (id : Nat)
  /-- `MESSAGE_HOLD_EXPIRY` (R257): A held message finds no room within 4 µs and is refused. -/
  | messageHoldExpiry (id : Nat)
  /-- `DRN_COMPLETION` (R284): An engine sends the DRN token once earlier packets have completed. -/
  | drnCompletion (u : Nat) (n : Nat)
  /-- `INGRESS_BUCKET_PASS` (R343): A token passes an ingress bucket and is charged to its tenant's budget. -/
  | ingressBucketPass (point : Nat)
  /-- `BUCKET_RATE_RECOMPUTE` (R344): Once per quick step the power controller recomputes every bucket rate. -/
  | bucketRateRecompute
  /-- `GATE_STATE_CHANGE` (R76): A gated register half moves between power states between firings. -/
  | gateStateChange (u : Nat) (e : Nat)
  /-- `GATE_WRITE` (R76): A write to a GATE register requests a power state for gated halves. -/
  | gateWrite (quarter : Nat) (v : Word)
  /-- `RCLQ` (R325): A write to RCLQ posts a ring class-change request. -/
  | rclq (v : Word)
  /-- `SWPC_WRITE` (R110): A write to SWPC sets idle pause and holds of the classes. -/
  | swpcWrite (v : Word)
  /-- `BWLD_WRITE` (R320): A write to a block-world register changes unoccupied blocks' world and zeroes their tiles. -/
  | bwldWrite (quarter : Nat) (v : Word)
  /-- `FRES_RETRY` (R373): FRES action 0 resolves a held fault by retry. -/
  | fresRetry (serial : Nat)
  /-- `FRES_UNRESOLVABLE` (R373): FRES action 1 declares a held fault unresolvable. -/
  | fresUnresolvable (serial : Nat)
  /-- `HOST_TLBI` (R365): A write to TLBC starts a host TLBI over a tenant's range. -/
  | hostTlbi (v : Word)
  /-- `TLBI_COMPLETE` (R365): A TLBI finishes its waits and write-backs and writes its result. -/
  | tlbiComplete (id : Nat)
  /-- `SCTL_FREEZE` (R374): SCTL op 0 freezes a unit's section into an image. -/
  | sctlFreeze (v : Word)
  /-- `SCTL_THAW` (R376): SCTL op 1 thaws an image onto a placement. -/
  | sctlThaw (v : Word)
  /-- `SCTL_MOVE` (R378): SCTL op 0 with move freezes and at once thaws a section on a new placement. -/
  | sctlMove (v : Word)
  /-- `TRANSLATION_STORE_WRITE` (R362): A host write to a translation store entry reaches all four stores. -/
  | translationStoreWrite (quarter : Nat) (addr : Nat) (v : Word)
  /-- `LOGD_READ` (R356): A read of LOGD returns and clears the dropped-log count. -/
  | logdRead
  /-- `HREF_READ` (R323): A read of HREF returns and clears the refused-write count. -/
  | hrefRead
  /-- `FDROP_READ` (R372): A read of FDROP returns and clears the dropped-report count. -/
  | fdropRead
  /-- `REGISTER_WRITE` (R322): A write to a system register without behaviour of its own replaces or ignores fields. -/
  | registerWrite (n : Nat) (v : Word)
  /-- `SOCTL_WRITE` (R392): A write to SOCTL retrains a scale-out port. -/
  | soctlWrite (port : Nat) (v : Word)
  /-- `ATTESTATION_REPORT` (R400): A write to AREQ produces and writes a signed attestation report. -/
  | attestationReport
  /-- `BOOTC` (R402): A write to BOOTC starts the check of a recovery image. -/
  | bootc (v : Word)
  /-- `HOST_LINK_TRAIN` (R387): The host link trains Plovlink 3 or falls back to Plovlink 2. -/
  | hostLinkTrain
  /-- `HOST_LINK_DOWN` (R390): The host link goes down and host-bound traffic waits. -/
  | hostLinkDown
  /-- `SCALEOUT_PORT_TRAIN` (R392): A scale-out port trains in domain or Ethernet mode or stays down. -/
  | scaleoutPortTrain (port : Nat)
  /-- `ETH_FRAME_SEND` (R397): An Ethernet port sends an owned send descriptor's frame. -/
  | ethFrameSend (port : Nat)
  /-- `ETH_FRAME_RECEIVE` (R397): An Ethernet frame fills an owned receive descriptor or is dropped. -/
  | ethFrameReceive (port : Nat) (bytes : List Byte)
  /-- `POWER_GOOD` (R402): Power-good starts bring-up from the boot ROM. -/
  | powerGood
  /-- `BOOT_STATE_ADVANCE` (R402): A bring-up stage completes and the device enters its next state. -/
  | bootStateAdvance
  /-- `BANK_FAILURE` (R384): A failed bank withdraws its ring and writes loss records. -/
  | bankFailure (ring : Nat)
  /-- `REGION_FAILURE` (R385): A failed tile, bus or switch region fences blocks and stops their units. -/
  | regionFailure (block : Nat)
  /-- `REMOTE_ACKNOWLEDGEMENT` (R136): The acknowledgement or refusal of a WREM or SNDM returns from the destination package to the sending package, completing FENCE .dom waits, releasing a WREM.full and yielding the SNDM completion token. -/
  | remoteAcknowledgement (id : Nat)
  /-- `SCALEOUT_LINK_DOWN` (R392): A scale-out port loses its link and SOST shows it down until it trains again. -/
  | scaleoutLinkDown (port : Nat)
  /-- `ELEMENT_STATUS_IDLE_SET` (R75): An element that has not fired for 2^24 cycles sets the idle bit of its status word. -/
  | elementStatusIdleSet (u : Nat) (e : Nat)
  /-- `POWER_LOSS` (R101): The module loses power, losing the LUT table subarrays and all other volatile state until the next power-good. -/
  | powerLoss
  deriving DecidableEq, Repr

end Sys2Proof
end

