-- ==== Sys2Proof/WellFormed.lean ====
section
/-! DEFINITION. When an instruction is one the spec's tables admit: operand codes (R152-R154, R176, R177, R212,
R213, R248, R249, R252, R291, R347) and peek bits (R155).  Field widths are already in the types of Syntax.lean.
A step without a word admits every input. -/

namespace Sys2Proof

/-- The source is the head of an input channel (codes 24-27). -/
def Src.isCh : Src → Bool
  | .ch _ => true
  | _ => false

/-- A peek bit needs a channel source (R155). -/
def Opd.peekOk (o : Opd) : Bool := !o.peek || o.src.isCh

/-- What DROP takes: codes 0-15 and 24-27 (R176). -/
def Src.dropOk : Src → Bool
  | .g _ => true
  | .take _ => true
  | .ch _ => true
  | _ => false

/-- The first of a register pair: gN, gN! or kN with N even (R252). -/
def Src.pairOk : Src → Bool
  | .g n => n.val % 2 == 0
  | .take n => n.val % 2 == 0
  | .k n => n.val % 2 == 0
  | _ => false

/-- The first of four registers: z, kM or gM with M at most 4 (R252). -/
def Src.quadOk : Src → Bool
  | .g n => n.val ≤ 4
  | .k n => n.val ≤ 4
  | .z => true
  | _ => false


/-- The operand codes are ones the instruction's table admits. -/
def Instr.operandsOk : Instr → Bool
  | .nop _ _ _ => true
  | .mov _ _ _ => true
  | .movt _ _ _ _ => true
  | .fork _ _ _ _ => true
  | .sel _ _ _ _ => true
  | .mrg _ _ a b => a != b
  | .split _ _ _ _ => true
  | .drop _ a => a.dropOk
  | .mark _ _ _ _ => true
  | .emit _ _ _ _ => true
  | .tags _ _ _ => true
  | .pset _ _ _ _ => true
  | .pclr _ _ _ _ => true
  | .ctr _ _ _ _ => true
  | .sig _ _ _ _ => true
  | .halt _ => true
  | .add _ _ _ _ _ => true
  | .sub _ _ _ _ _ => true
  | .adds _ _ _ _ _ => true
  | .subs _ _ _ _ _ => true
  | .mul _ _ _ _ _ => true
  | .mulh _ _ _ _ _ => true
  | .mulhu _ _ _ _ _ => true
  | .mad _ _ _ _ _ => true
  | .neg _ _ _ => true
  | .abs _ _ _ => true
  | .min _ _ _ _ _ => true
  | .max _ _ _ _ _ => true
  | .minu _ _ _ _ _ => true
  | .maxu _ _ _ _ _ => true
  | .and _ _ _ _ _ => true
  | .or _ _ _ _ _ => true
  | .xor _ _ _ _ _ => true
  | .shl _ _ _ _ _ => true
  | .shr _ _ _ _ _ => true
  | .sar _ _ _ _ _ => true
  | .rot _ _ _ _ _ => true
  | .clz _ _ _ => true
  | .popc _ _ _ => true
  | .bfx _ _ _ _ => true
  | .idx _ _ _ _ => true
  | .satn _ _ _ _ => true
  | .cmpeq _ _ _ _ _ => true
  | .cmpne _ _ _ _ _ => true
  | .cmplt _ _ _ _ _ => true
  | .cmple _ _ _ _ _ => true
  | .cmpltu _ _ _ _ _ => true
  | .cmpleu _ _ _ _ _ => true
  | .fadd _ _ _ _ _ => true
  | .fsub _ _ _ _ _ => true
  | .fmul _ _ _ _ _ => true
  | .ffma _ _ _ _ _ => true
  | .ffms _ _ _ _ _ => true
  | .fmin _ _ _ _ _ => true
  | .fmax _ _ _ _ _ => true
  | .fabs _ _ _ => true
  | .fneg _ _ _ => true
  | .fcls _ _ _ => true
  | .fscl _ _ _ _ _ => true
  | .ffrc _ _ _ => true
  | .fcmpeq _ _ _ _ _ => true
  | .fcmplt _ _ _ _ _ => true
  | .fcmple _ _ _ _ _ => true
  | .fcmpun _ _ _ _ _ => true
  | .frcp _ _ _ => true
  | .frsq _ _ _ => true
  | .fsqrt _ _ _ => true
  | .fdiv _ _ _ _ _ => true
  | .fexp2 _ _ _ => true
  | .flog2 _ _ _ => true
  | .fsin _ _ _ => true
  | .fcos _ _ _ => true
  | .ftanh _ _ _ => true
  | .frnd _ _ _ => true
  | .ftoi _ _ _ _ => true
  | .itof _ _ _ _ => true
  | .mac _ _ _ _ _ => true
  | .macn _ _ _ _ _ => true
  | .macz _ _ _ _ _ => true
  | .wld _ _ _ => true
  | .acrd _ _ _ _ _ => true
  | .acclr _ _ => true
  | .acmv _ _ _ => true
  | .cvt _ _ _ _ _ => true
  | .qdec _ _ _ _ => true
  | .qenc _ _ _ _ _ => true
  | .mxs _ _ _ _ => true
  | .pack _ _ _ _ => true
  | .unpk _ _ _ _ => true
  | .shfl _ _ _ _ => true
  | .bcst _ _ _ _ => true
  | .rmax _ _ _ => true
  | .rsum _ _ _ => true
  | .rsex _ _ _ => true
  | .scale _ _ _ _ => true
  | .ld _ _ _ => true
  | .st _ _ _ _ => true
  | .lds _ _ _ => true
  | .lde _ _ _ => true
  | .stf _ _ _ _ => true
  | .ste _ _ _ _ => true
  | .push _ _ _ _ => true
  | .pop _ _ _ => true
  | .amoadd _ _ _ _ => true
  | .amomin _ _ _ _ => true
  | .amomax _ _ _ _ => true
  | .amoand _ _ _ _ => true
  | .amoor _ _ _ _ => true
  | .amoxor _ _ _ _ => true
  | .amoswp _ _ _ _ => true
  | .amocas _ _ _ _ => true
  | .famoadd _ _ _ _ => true
  | .famomin _ _ _ _ => true
  | .famomax _ _ _ _ => true
  | .bufq _ _ _ => true
  | .bufset _ _ _ => true
  | .fence _ _ => true
  | .ldc _ _ _ _ => true
  | .stc _ _ _ _ _ => true
  | .cinv _ _ _ => true
  | .cwb _ _ _ => true
  | .chold _ _ _ => true
  | .cfree _ _ => true
  | .ldw _ _ _ => true
  | .brdRd _ _ a b => a.pairOk && b.quadOk
  | .brdFl _ _ a b => a.pairOk && b.quadOk
  | .brdRed _ _ a b => a.pairOk && b.quadOk
  | .brdUpd _ _ a b => a.pairOk && b.quadOk
  | .brdGat _ _ a b => a.pairOk && b.quadOk
  | .brdSca _ _ a b => a.pairOk && b.quadOk
  | .brdLut _ _ a b => a.pairOk && b.quadOk
  | .tblb _ _ a _ => a.pairOk
  | .ridq _ _ _ => true
  | .rcan _ _ _ => true
  | .claim _ _ => true
  | .rlse _ _ => true
  | .slq _ _ _ => true
  | .cpy _ _ a _ => a.pairOk
  | .coll _ _ a _ => a.pairOk
  | .port _ _ _ => true
  | .wrem _ _ _ _ _ => true
  | .sndm _ _ _ _ => true
  | .drn _ _ _ => true
  | .cnti _ => true
  | .ori2 _ _ _ _ _ => true
  | .ori2s _ _ _ _ _ => true
  | .ori3 _ _ _ _ _ => true
  | .ori3s _ _ _ _ _ => true
  | .incr _ _ _ _ _ => true
  | .incrs _ _ _ _ _ => true
  | .insp _ _ _ _ _ => true
  | .insps _ _ _ _ _ => true
  | .segx _ _ _ _ _ => true
  | .segxs _ _ _ _ _ => true
  | .band _ _ _ _ => true
  | .bpos _ _ _ _ => true
  | .ccmp _ _ _ _ => true
  | .cmrg _ _ a b => a != b
  | .cset _ _ _ _ => true
  | .cget _ _ _ _ => true
  | .rte _ _ _ _ => true
  | .trap _ _ => true
  | .brk _ => true
  | .csrr _ _ _ => true
  | .csrw _ _ _ => true
  | .frz _ _ _ _ => true
  | .thaw _ _ _ _ => true
  | .snap _ _ _ => true
  | .tlbi _ _ _ _ => true
  | .cfgw _ _ _ _ => true
  | .canc _ _ _ => true
  | .perf _ _ _ => true
  | .time _ _ _ => true
  | .idle _ _ => true
  | .attn _ _ => true
  | .log _ _ _ => true
  | .peekContinueIdleWake _ _ => true
  | .breakpointResume _ _ => true
  | .queueRecordArrival _ _ => true
  | .queueArbiterTake => true
  | .hostOpen => true
  | .hostLoad _ => true
  | .hostPhase => true
  | .hostRun => true
  | .hostWait => true
  | .hostSignal => true
  | .hostCancel => true
  | .hostClose => true
  | .queueClosed _ => true
  | .queueWaitRelease _ => true
  | .ringReadIndexWrite _ _ _ => true
  | .nodeArm _ => true
  | .nodeWait _ => true
  | .nodeWaitRelease _ => true
  | .nodeSignal _ => true
  | .nodeLoop _ => true
  | .nodeEnd _ => true
  | .unitPlacement _ => true
  | .sectionRotation _ => true
  | .tileCountExpiry _ => true
  | .elementDrainPass _ _ => true
  | .cycleDrainInject _ _ _ => true
  | .portDrainPass _ _ => true
  | .unitEnd _ => true
  | .launchComplete _ => true
  | .graphComplete _ => true
  | .phaseComplete _ => true
  | .jobComplete _ => true
  | .slotZeroComplete _ _ => true
  | .watchdogExpiry _ => true
  | .starveBitSet _ _ _ => true
  | .configTokenConsume _ _ _ => true
  | .pulseArrival _ _ => true
  | .ingressToken _ _ _ => true
  | .channelTokenArrival _ _ => true
  | .lateResultWrite _ _ _ => true
  | .feWaitComplete _ _ _ => true
  | .guardPoisonReturn _ => true
  | .stageBResult _ _ _ => true
  | .exactUnitResult _ => true
  | .predicateResultSend _ _ => true
  | .systolicTokenProcess _ _ => true
  | .southEdgeAdd _ _ => true
  | .cornerTurnEmit _ _ => true
  | .slotStreamRequest _ _ => true
  | .bufferDeliveryComplete _ _ => true
  | .cacheFillReturn _ _ => true
  | .cacheWalkEnd _ _ => true
  | .windowExtend _ _ => true
  | .riderPacketCheck _ _ => true
  | .riderTranslate _ => true
  | .translationWalk _ => true
  | .stepBoundary _ => true
  | .riderAlight _ => true
  | .itemAccept _ _ => true
  | .carriageClose _ => true
  | .budgetWindowBoundary => true
  | .classStop _ => true
  | .idlePause _ => true
  | .classResume _ => true
  | .ringClassChange _ => true
  | .copyStart _ => true
  | .copyComplete _ => true
  | .collectiveComplete _ => true
  | .collectiveMemberTimeout _ => true
  | .remoteWriteArrival _ => true
  | .remoteAckTimeout _ => true
  | .messageArrival _ => true
  | .messageHoldExpiry _ => true
  | .drnCompletion _ _ => true
  | .ingressBucketPass _ => true
  | .bucketRateRecompute => true
  | .gateStateChange _ _ => true
  | .gateWrite _ _ => true
  | .rclq _ => true
  | .swpcWrite _ => true
  | .bwldWrite _ _ => true
  | .fresRetry _ => true
  | .fresUnresolvable _ => true
  | .hostTlbi _ => true
  | .tlbiComplete _ => true
  | .sctlFreeze _ => true
  | .sctlThaw _ => true
  | .sctlMove _ => true
  | .translationStoreWrite _ _ _ => true
  | .logdRead => true
  | .hrefRead => true
  | .fdropRead => true
  | .registerWrite _ _ => true
  | .soctlWrite _ _ => true
  | .attestationReport => true
  | .bootc _ => true
  | .hostLinkTrain => true
  | .hostLinkDown => true
  | .scaleoutPortTrain _ => true
  | .ethFrameSend _ => true
  | .ethFrameReceive _ _ => true
  | .powerGood => true
  | .bootStateAdvance => true
  | .bankFailure _ => true
  | .regionFailure _ => true
  | .remoteAcknowledgement _ => true
  | .scaleoutLinkDown _ => true
  | .elementStatusIdleSet _ _ => true
  | .powerLoss => true

/-- No peek bit stands on a source that is no channel (R155). -/
def Instr.peeksOk : Instr → Bool
  | .nop _ a b => a.peekOk && b.peekOk
  | .mov _ _ a => a.peekOk
  | .movt _ _ a b => a.peekOk && b.peekOk
  | .fork _ _ a b => a.peekOk && b.peekOk
  | .sel _ _ a b => a.peekOk && b.peekOk
  | .mrg _ _ _ _ => true
  | .split _ _ a b => a.peekOk && b.peekOk
  | .drop _ _ => true
  | .mark _ _ a b => a.peekOk && b.peekOk
  | .emit _ _ a b => a.peekOk && b.peekOk
  | .tags _ _ a => a.peekOk
  | .pset _ _ a b => a.peekOk && b.peekOk
  | .pclr _ _ a b => a.peekOk && b.peekOk
  | .ctr _ _ a b => a.peekOk && b.peekOk
  | .sig _ _ a b => a.peekOk && b.peekOk
  | .halt _ => true
  | .add _ _ a b _ => a.peekOk && b.peekOk
  | .sub _ _ a b _ => a.peekOk && b.peekOk
  | .adds _ _ a b _ => a.peekOk && b.peekOk
  | .subs _ _ a b _ => a.peekOk && b.peekOk
  | .mul _ _ a b _ => a.peekOk && b.peekOk
  | .mulh _ _ a b _ => a.peekOk && b.peekOk
  | .mulhu _ _ a b _ => a.peekOk && b.peekOk
  | .mad _ _ a b _ => a.peekOk && b.peekOk
  | .neg _ _ a => a.peekOk
  | .abs _ _ a => a.peekOk
  | .min _ _ a b _ => a.peekOk && b.peekOk
  | .max _ _ a b _ => a.peekOk && b.peekOk
  | .minu _ _ a b _ => a.peekOk && b.peekOk
  | .maxu _ _ a b _ => a.peekOk && b.peekOk
  | .and _ _ a b _ => a.peekOk && b.peekOk
  | .or _ _ a b _ => a.peekOk && b.peekOk
  | .xor _ _ a b _ => a.peekOk && b.peekOk
  | .shl _ _ a b _ => a.peekOk && b.peekOk
  | .shr _ _ a b _ => a.peekOk && b.peekOk
  | .sar _ _ a b _ => a.peekOk && b.peekOk
  | .rot _ _ a b _ => a.peekOk && b.peekOk
  | .clz _ _ a => a.peekOk
  | .popc _ _ a => a.peekOk
  | .bfx _ _ a b => a.peekOk && b.peekOk
  | .idx _ _ a b => a.peekOk && b.peekOk
  | .satn _ _ a b => a.peekOk && b.peekOk
  | .cmpeq _ _ a b _ => a.peekOk && b.peekOk
  | .cmpne _ _ a b _ => a.peekOk && b.peekOk
  | .cmplt _ _ a b _ => a.peekOk && b.peekOk
  | .cmple _ _ a b _ => a.peekOk && b.peekOk
  | .cmpltu _ _ a b _ => a.peekOk && b.peekOk
  | .cmpleu _ _ a b _ => a.peekOk && b.peekOk
  | .fadd _ _ a b _ => a.peekOk && b.peekOk
  | .fsub _ _ a b _ => a.peekOk && b.peekOk
  | .fmul _ _ a b _ => a.peekOk && b.peekOk
  | .ffma _ _ a b _ => a.peekOk && b.peekOk
  | .ffms _ _ a b _ => a.peekOk && b.peekOk
  | .fmin _ _ a b _ => a.peekOk && b.peekOk
  | .fmax _ _ a b _ => a.peekOk && b.peekOk
  | .fabs _ _ a => a.peekOk
  | .fneg _ _ a => a.peekOk
  | .fcls _ _ a => a.peekOk
  | .fscl _ _ a b _ => a.peekOk && b.peekOk
  | .ffrc _ _ a => a.peekOk
  | .fcmpeq _ _ a b _ => a.peekOk && b.peekOk
  | .fcmplt _ _ a b _ => a.peekOk && b.peekOk
  | .fcmple _ _ a b _ => a.peekOk && b.peekOk
  | .fcmpun _ _ a b _ => a.peekOk && b.peekOk
  | .frcp _ _ a => a.peekOk
  | .frsq _ _ a => a.peekOk
  | .fsqrt _ _ a => a.peekOk
  | .fdiv _ _ a b _ => a.peekOk && b.peekOk
  | .fexp2 _ _ a => a.peekOk
  | .flog2 _ _ a => a.peekOk
  | .fsin _ _ a => a.peekOk
  | .fcos _ _ a => a.peekOk
  | .ftanh _ _ a => a.peekOk
  | .frnd _ _ a => a.peekOk
  | .ftoi _ _ a b => a.peekOk && b.peekOk
  | .itof _ _ a b => a.peekOk && b.peekOk
  | .mac _ _ a _ _ => a.peekOk
  | .macn _ _ a _ _ => a.peekOk
  | .macz _ _ a _ _ => a.peekOk
  | .wld _ a b => a.peekOk && b.peekOk
  | .acrd _ _ _ b _ => b.peekOk
  | .acclr _ _ => true
  | .acmv _ _ _ => true
  | .cvt _ _ a b _ => a.peekOk && b.peekOk
  | .qdec _ _ a b => a.peekOk && b.peekOk
  | .qenc _ _ a b _ => a.peekOk && b.peekOk
  | .mxs _ _ _ _ => true
  | .pack _ _ a b => a.peekOk && b.peekOk
  | .unpk _ _ a b => a.peekOk && b.peekOk
  | .shfl _ _ a b => a.peekOk && b.peekOk
  | .bcst _ _ a b => a.peekOk && b.peekOk
  | .rmax _ _ a => a.peekOk
  | .rsum _ _ a => a.peekOk
  | .rsex _ _ a => a.peekOk
  | .scale _ _ a b => a.peekOk && b.peekOk
  | .ld _ _ a => a.peekOk
  | .st _ _ a b => a.peekOk && b.peekOk
  | .lds _ _ a => a.peekOk
  | .lde _ _ a => a.peekOk
  | .stf _ _ a b => a.peekOk && b.peekOk
  | .ste _ _ a b => a.peekOk && b.peekOk
  | .push _ _ a b => a.peekOk && b.peekOk
  | .pop _ _ a => a.peekOk
  | .amoadd _ _ a b => a.peekOk && b.peekOk
  | .amomin _ _ a b => a.peekOk && b.peekOk
  | .amomax _ _ a b => a.peekOk && b.peekOk
  | .amoand _ _ a b => a.peekOk && b.peekOk
  | .amoor _ _ a b => a.peekOk && b.peekOk
  | .amoxor _ _ a b => a.peekOk && b.peekOk
  | .amoswp _ _ a b => a.peekOk && b.peekOk
  | .amocas _ _ a b => a.peekOk && b.peekOk
  | .famoadd _ _ a b => a.peekOk && b.peekOk
  | .famomin _ _ a b => a.peekOk && b.peekOk
  | .famomax _ _ a b => a.peekOk && b.peekOk
  | .bufq _ _ a => a.peekOk
  | .bufset _ a b => a.peekOk && b.peekOk
  | .fence _ _ => true
  | .ldc _ _ a _ => a.peekOk
  | .stc _ _ a b _ => a.peekOk && b.peekOk
  | .cinv _ a b => a.peekOk && b.peekOk
  | .cwb _ a b => a.peekOk && b.peekOk
  | .chold _ a b => a.peekOk && b.peekOk
  | .cfree _ a => a.peekOk
  | .ldw _ _ a => a.peekOk
  | .brdRd _ _ _ _ => true
  | .brdFl _ _ _ _ => true
  | .brdRed _ _ _ _ => true
  | .brdUpd _ _ _ _ => true
  | .brdGat _ _ _ _ => true
  | .brdSca _ _ _ _ => true
  | .brdLut _ _ _ _ => true
  | .tblb _ _ _ _ => true
  | .ridq _ _ _ => true
  | .rcan _ _ _ => true
  | .claim _ _ => true
  | .rlse _ _ => true
  | .slq _ _ _ => true
  | .cpy _ _ _ _ => true
  | .coll _ _ _ _ => true
  | .port _ _ a => a.peekOk
  | .wrem _ _ a b _ => a.peekOk && b.peekOk
  | .sndm _ _ _ _ => true
  | .drn _ _ _ => true
  | .cnti _ => true
  | .ori2 _ _ _ _ _ => true
  | .ori2s _ _ _ _ _ => true
  | .ori3 _ _ _ _ _ => true
  | .ori3s _ _ _ _ _ => true
  | .incr _ _ _ _ _ => true
  | .incrs _ _ _ _ _ => true
  | .insp _ _ _ _ _ => true
  | .insps _ _ _ _ _ => true
  | .segx _ _ _ _ _ => true
  | .segxs _ _ _ _ _ => true
  | .band _ _ a b => a.peekOk && b.peekOk
  | .bpos _ _ a b => a.peekOk && b.peekOk
  | .ccmp _ _ a b => a.peekOk && b.peekOk
  | .cmrg _ _ _ _ => true
  | .cset _ _ a b => a.peekOk && b.peekOk
  | .cget _ _ a b => a.peekOk && b.peekOk
  | .rte _ _ a b => a.peekOk && b.peekOk
  | .trap _ a => a.peekOk
  | .brk _ => true
  | .csrr _ _ a => a.peekOk
  | .csrw _ a b => a.peekOk && b.peekOk
  | .frz _ _ a b => a.peekOk && b.peekOk
  | .thaw _ _ a b => a.peekOk && b.peekOk
  | .snap _ _ a => a.peekOk
  | .tlbi _ _ a b => a.peekOk && b.peekOk
  | .cfgw _ _ a b => a.peekOk && b.peekOk
  | .canc _ _ a => a.peekOk
  | .perf _ _ a => a.peekOk
  | .time _ _ a => a.peekOk
  | .idle _ a => a.peekOk
  | .attn _ a => a.peekOk
  | .log _ a b => a.peekOk && b.peekOk
  | .peekContinueIdleWake _ _ => true
  | .breakpointResume _ _ => true
  | .queueRecordArrival _ _ => true
  | .queueArbiterTake => true
  | .hostOpen => true
  | .hostLoad _ => true
  | .hostPhase => true
  | .hostRun => true
  | .hostWait => true
  | .hostSignal => true
  | .hostCancel => true
  | .hostClose => true
  | .queueClosed _ => true
  | .queueWaitRelease _ => true
  | .ringReadIndexWrite _ _ _ => true
  | .nodeArm _ => true
  | .nodeWait _ => true
  | .nodeWaitRelease _ => true
  | .nodeSignal _ => true
  | .nodeLoop _ => true
  | .nodeEnd _ => true
  | .unitPlacement _ => true
  | .sectionRotation _ => true
  | .tileCountExpiry _ => true
  | .elementDrainPass _ _ => true
  | .cycleDrainInject _ _ _ => true
  | .portDrainPass _ _ => true
  | .unitEnd _ => true
  | .launchComplete _ => true
  | .graphComplete _ => true
  | .phaseComplete _ => true
  | .jobComplete _ => true
  | .slotZeroComplete _ _ => true
  | .watchdogExpiry _ => true
  | .starveBitSet _ _ _ => true
  | .configTokenConsume _ _ _ => true
  | .pulseArrival _ _ => true
  | .ingressToken _ _ _ => true
  | .channelTokenArrival _ _ => true
  | .lateResultWrite _ _ _ => true
  | .feWaitComplete _ _ _ => true
  | .guardPoisonReturn _ => true
  | .stageBResult _ _ _ => true
  | .exactUnitResult _ => true
  | .predicateResultSend _ _ => true
  | .systolicTokenProcess _ _ => true
  | .southEdgeAdd _ _ => true
  | .cornerTurnEmit _ _ => true
  | .slotStreamRequest _ _ => true
  | .bufferDeliveryComplete _ _ => true
  | .cacheFillReturn _ _ => true
  | .cacheWalkEnd _ _ => true
  | .windowExtend _ _ => true
  | .riderPacketCheck _ _ => true
  | .riderTranslate _ => true
  | .translationWalk _ => true
  | .stepBoundary _ => true
  | .riderAlight _ => true
  | .itemAccept _ _ => true
  | .carriageClose _ => true
  | .budgetWindowBoundary => true
  | .classStop _ => true
  | .idlePause _ => true
  | .classResume _ => true
  | .ringClassChange _ => true
  | .copyStart _ => true
  | .copyComplete _ => true
  | .collectiveComplete _ => true
  | .collectiveMemberTimeout _ => true
  | .remoteWriteArrival _ => true
  | .remoteAckTimeout _ => true
  | .messageArrival _ => true
  | .messageHoldExpiry _ => true
  | .drnCompletion _ _ => true
  | .ingressBucketPass _ => true
  | .bucketRateRecompute => true
  | .gateStateChange _ _ => true
  | .gateWrite _ _ => true
  | .rclq _ => true
  | .swpcWrite _ => true
  | .bwldWrite _ _ => true
  | .fresRetry _ => true
  | .fresUnresolvable _ => true
  | .hostTlbi _ => true
  | .tlbiComplete _ => true
  | .sctlFreeze _ => true
  | .sctlThaw _ => true
  | .sctlMove _ => true
  | .translationStoreWrite _ _ _ => true
  | .logdRead => true
  | .hrefRead => true
  | .fdropRead => true
  | .registerWrite _ _ => true
  | .soctlWrite _ _ => true
  | .attestationReport => true
  | .bootc _ => true
  | .hostLinkTrain => true
  | .hostLinkDown => true
  | .scaleoutPortTrain _ => true
  | .ethFrameSend _ => true
  | .ethFrameReceive _ _ => true
  | .powerGood => true
  | .bootStateAdvance => true
  | .bankFailure _ => true
  | .regionFailure _ => true
  | .remoteAcknowledgement _ => true
  | .scaleoutLinkDown _ => true
  | .elementStatusIdleSet _ _ => true
  | .powerLoss => true

/-- An instruction the spec's tables admit. -/
def Instr.wellFormed (i : Instr) : Bool := i.operandsOk && i.peeksOk

/-- The instruction has a word: it is one of the 176 opcodes (R159).  The rest are steps of the device. -/
def Instr.hasWord : Instr → Bool
  | .nop _ _ _ => true
  | .mov _ _ _ => true
  | .movt _ _ _ _ => true
  | .fork _ _ _ _ => true
  | .sel _ _ _ _ => true
  | .mrg _ _ _ _ => true
  | .split _ _ _ _ => true
  | .drop _ _ => true
  | .mark _ _ _ _ => true
  | .emit _ _ _ _ => true
  | .tags _ _ _ => true
  | .pset _ _ _ _ => true
  | .pclr _ _ _ _ => true
  | .ctr _ _ _ _ => true
  | .sig _ _ _ _ => true
  | .halt _ => true
  | .add _ _ _ _ _ => true
  | .sub _ _ _ _ _ => true
  | .adds _ _ _ _ _ => true
  | .subs _ _ _ _ _ => true
  | .mul _ _ _ _ _ => true
  | .mulh _ _ _ _ _ => true
  | .mulhu _ _ _ _ _ => true
  | .mad _ _ _ _ _ => true
  | .neg _ _ _ => true
  | .abs _ _ _ => true
  | .min _ _ _ _ _ => true
  | .max _ _ _ _ _ => true
  | .minu _ _ _ _ _ => true
  | .maxu _ _ _ _ _ => true
  | .and _ _ _ _ _ => true
  | .or _ _ _ _ _ => true
  | .xor _ _ _ _ _ => true
  | .shl _ _ _ _ _ => true
  | .shr _ _ _ _ _ => true
  | .sar _ _ _ _ _ => true
  | .rot _ _ _ _ _ => true
  | .clz _ _ _ => true
  | .popc _ _ _ => true
  | .bfx _ _ _ _ => true
  | .idx _ _ _ _ => true
  | .satn _ _ _ _ => true
  | .cmpeq _ _ _ _ _ => true
  | .cmpne _ _ _ _ _ => true
  | .cmplt _ _ _ _ _ => true
  | .cmple _ _ _ _ _ => true
  | .cmpltu _ _ _ _ _ => true
  | .cmpleu _ _ _ _ _ => true
  | .fadd _ _ _ _ _ => true
  | .fsub _ _ _ _ _ => true
  | .fmul _ _ _ _ _ => true
  | .ffma _ _ _ _ _ => true
  | .ffms _ _ _ _ _ => true
  | .fmin _ _ _ _ _ => true
  | .fmax _ _ _ _ _ => true
  | .fabs _ _ _ => true
  | .fneg _ _ _ => true
  | .fcls _ _ _ => true
  | .fscl _ _ _ _ _ => true
  | .ffrc _ _ _ => true
  | .fcmpeq _ _ _ _ _ => true
  | .fcmplt _ _ _ _ _ => true
  | .fcmple _ _ _ _ _ => true
  | .fcmpun _ _ _ _ _ => true
  | .frcp _ _ _ => true
  | .frsq _ _ _ => true
  | .fsqrt _ _ _ => true
  | .fdiv _ _ _ _ _ => true
  | .fexp2 _ _ _ => true
  | .flog2 _ _ _ => true
  | .fsin _ _ _ => true
  | .fcos _ _ _ => true
  | .ftanh _ _ _ => true
  | .frnd _ _ _ => true
  | .ftoi _ _ _ _ => true
  | .itof _ _ _ _ => true
  | .mac _ _ _ _ _ => true
  | .macn _ _ _ _ _ => true
  | .macz _ _ _ _ _ => true
  | .wld _ _ _ => true
  | .acrd _ _ _ _ _ => true
  | .acclr _ _ => true
  | .acmv _ _ _ => true
  | .cvt _ _ _ _ _ => true
  | .qdec _ _ _ _ => true
  | .qenc _ _ _ _ _ => true
  | .mxs _ _ _ _ => true
  | .pack _ _ _ _ => true
  | .unpk _ _ _ _ => true
  | .shfl _ _ _ _ => true
  | .bcst _ _ _ _ => true
  | .rmax _ _ _ => true
  | .rsum _ _ _ => true
  | .rsex _ _ _ => true
  | .scale _ _ _ _ => true
  | .ld _ _ _ => true
  | .st _ _ _ _ => true
  | .lds _ _ _ => true
  | .lde _ _ _ => true
  | .stf _ _ _ _ => true
  | .ste _ _ _ _ => true
  | .push _ _ _ _ => true
  | .pop _ _ _ => true
  | .amoadd _ _ _ _ => true
  | .amomin _ _ _ _ => true
  | .amomax _ _ _ _ => true
  | .amoand _ _ _ _ => true
  | .amoor _ _ _ _ => true
  | .amoxor _ _ _ _ => true
  | .amoswp _ _ _ _ => true
  | .amocas _ _ _ _ => true
  | .famoadd _ _ _ _ => true
  | .famomin _ _ _ _ => true
  | .famomax _ _ _ _ => true
  | .bufq _ _ _ => true
  | .bufset _ _ _ => true
  | .fence _ _ => true
  | .ldc _ _ _ _ => true
  | .stc _ _ _ _ _ => true
  | .cinv _ _ _ => true
  | .cwb _ _ _ => true
  | .chold _ _ _ => true
  | .cfree _ _ => true
  | .ldw _ _ _ => true
  | .brdRd _ _ _ _ => true
  | .brdFl _ _ _ _ => true
  | .brdRed _ _ _ _ => true
  | .brdUpd _ _ _ _ => true
  | .brdGat _ _ _ _ => true
  | .brdSca _ _ _ _ => true
  | .brdLut _ _ _ _ => true
  | .tblb _ _ _ _ => true
  | .ridq _ _ _ => true
  | .rcan _ _ _ => true
  | .claim _ _ => true
  | .rlse _ _ => true
  | .slq _ _ _ => true
  | .cpy _ _ _ _ => true
  | .coll _ _ _ _ => true
  | .port _ _ _ => true
  | .wrem _ _ _ _ _ => true
  | .sndm _ _ _ _ => true
  | .drn _ _ _ => true
  | .cnti _ => true
  | .ori2 _ _ _ _ _ => true
  | .ori2s _ _ _ _ _ => true
  | .ori3 _ _ _ _ _ => true
  | .ori3s _ _ _ _ _ => true
  | .incr _ _ _ _ _ => true
  | .incrs _ _ _ _ _ => true
  | .insp _ _ _ _ _ => true
  | .insps _ _ _ _ _ => true
  | .segx _ _ _ _ _ => true
  | .segxs _ _ _ _ _ => true
  | .band _ _ _ _ => true
  | .bpos _ _ _ _ => true
  | .ccmp _ _ _ _ => true
  | .cmrg _ _ _ _ => true
  | .cset _ _ _ _ => true
  | .cget _ _ _ _ => true
  | .rte _ _ _ _ => true
  | .trap _ _ => true
  | .brk _ => true
  | .csrr _ _ _ => true
  | .csrw _ _ _ => true
  | .frz _ _ _ _ => true
  | .thaw _ _ _ _ => true
  | .snap _ _ _ => true
  | .tlbi _ _ _ _ => true
  | .cfgw _ _ _ _ => true
  | .canc _ _ _ => true
  | .perf _ _ _ => true
  | .time _ _ _ => true
  | .idle _ _ => true
  | .attn _ _ => true
  | .log _ _ _ => true
  | .peekContinueIdleWake _ _ => false
  | .breakpointResume _ _ => false
  | .queueRecordArrival _ _ => false
  | .queueArbiterTake => false
  | .hostOpen => false
  | .hostLoad _ => false
  | .hostPhase => false
  | .hostRun => false
  | .hostWait => false
  | .hostSignal => false
  | .hostCancel => false
  | .hostClose => false
  | .queueClosed _ => false
  | .queueWaitRelease _ => false
  | .ringReadIndexWrite _ _ _ => false
  | .nodeArm _ => false
  | .nodeWait _ => false
  | .nodeWaitRelease _ => false
  | .nodeSignal _ => false
  | .nodeLoop _ => false
  | .nodeEnd _ => false
  | .unitPlacement _ => false
  | .sectionRotation _ => false
  | .tileCountExpiry _ => false
  | .elementDrainPass _ _ => false
  | .cycleDrainInject _ _ _ => false
  | .portDrainPass _ _ => false
  | .unitEnd _ => false
  | .launchComplete _ => false
  | .graphComplete _ => false
  | .phaseComplete _ => false
  | .jobComplete _ => false
  | .slotZeroComplete _ _ => false
  | .watchdogExpiry _ => false
  | .starveBitSet _ _ _ => false
  | .configTokenConsume _ _ _ => false
  | .pulseArrival _ _ => false
  | .ingressToken _ _ _ => false
  | .channelTokenArrival _ _ => false
  | .lateResultWrite _ _ _ => false
  | .feWaitComplete _ _ _ => false
  | .guardPoisonReturn _ => false
  | .stageBResult _ _ _ => false
  | .exactUnitResult _ => false
  | .predicateResultSend _ _ => false
  | .systolicTokenProcess _ _ => false
  | .southEdgeAdd _ _ => false
  | .cornerTurnEmit _ _ => false
  | .slotStreamRequest _ _ => false
  | .bufferDeliveryComplete _ _ => false
  | .cacheFillReturn _ _ => false
  | .cacheWalkEnd _ _ => false
  | .windowExtend _ _ => false
  | .riderPacketCheck _ _ => false
  | .riderTranslate _ => false
  | .translationWalk _ => false
  | .stepBoundary _ => false
  | .riderAlight _ => false
  | .itemAccept _ _ => false
  | .carriageClose _ => false
  | .budgetWindowBoundary => false
  | .classStop _ => false
  | .idlePause _ => false
  | .classResume _ => false
  | .ringClassChange _ => false
  | .copyStart _ => false
  | .copyComplete _ => false
  | .collectiveComplete _ => false
  | .collectiveMemberTimeout _ => false
  | .remoteWriteArrival _ => false
  | .remoteAckTimeout _ => false
  | .messageArrival _ => false
  | .messageHoldExpiry _ => false
  | .drnCompletion _ _ => false
  | .ingressBucketPass _ => false
  | .bucketRateRecompute => false
  | .gateStateChange _ _ => false
  | .gateWrite _ _ => false
  | .rclq _ => false
  | .swpcWrite _ => false
  | .bwldWrite _ _ => false
  | .fresRetry _ => false
  | .fresUnresolvable _ => false
  | .hostTlbi _ => false
  | .tlbiComplete _ => false
  | .sctlFreeze _ => false
  | .sctlThaw _ => false
  | .sctlMove _ => false
  | .translationStoreWrite _ _ _ => false
  | .logdRead => false
  | .hrefRead => false
  | .fdropRead => false
  | .registerWrite _ _ => false
  | .soctlWrite _ _ => false
  | .attestationReport => false
  | .bootc _ => false
  | .hostLinkTrain => false
  | .hostLinkDown => false
  | .scaleoutPortTrain _ => false
  | .ethFrameSend _ => false
  | .ethFrameReceive _ _ => false
  | .powerGood => false
  | .bootStateAdvance => false
  | .bankFailure _ => false
  | .regionFailure _ => false
  | .remoteAcknowledgement _ => false
  | .scaleoutLinkDown _ => false
  | .elementStatusIdleSet _ _ => false
  | .powerLoss => false

end Sys2Proof
end

