-- ==== Sys2Proof/Decode.lean ====
section
/-! DEFINITION. The 32-bit slot word: decoder, rejecting by name, and encoder (07_encodings.md, R151-R161, with
the forms of R175-R177, R211-R213, R248, R249, R252, R291, R347).  A decoding error is the loader's reason
(R173): 0x03 unassigned opcode, 0x04 operand, 0x05 modifier; of several the lowest is given. -/

namespace Sys2Proof

/-- Why a slot word is no instruction (R173). -/
inductive DecodeError where
  /-- Fewer than four bytes. -/
  | short
  /-- Reason 0x03 (R161). -/
  | unassignedOpcode
  /-- Reason 0x04. -/
  | operand
  /-- Reason 0x05 (R155-R157). -/
  | modifier
  deriving DecidableEq, Repr

/-- The loader's reason code of a decoding error (R173). -/
def DecodeError.reason : DecodeError → Nat
  | .short => 0x01
  | .unassignedOpcode => 0x03
  | .operand => 0x04
  | .modifier => 0x05

/-- The six fields of a slot word (R151): trigger index, opcode, destination or binding, source A, source B and
modifier. -/
structure Fields where
  t : Nat
  op : Nat
  d : Nat
  a : Nat
  b : Nat
  m : Nat
  deriving DecidableEq, Repr

/-- Bits [hi:lo] of a number, `lo` given and `n` bits wide. -/
def bitsAt (x lo n : Nat) : Nat := x / 2 ^ lo % 2 ^ n

/-- The fields of a word (R151). -/
def Fields.ofWord (w : Nat) : Fields where
  t := bitsAt w 26 6
  op := bitsAt w 18 8
  d := bitsAt w 13 5
  a := bitsAt w 8 5
  b := bitsAt w 3 5
  m := bitsAt w 0 3

/-- The word of six fields (R151). -/
def Fields.toWord (f : Fields) : Nat :=
  f.t * 2 ^ 26 + f.op * 2 ^ 18 + f.d * 2 ^ 13 + f.a * 2 ^ 8 + f.b * 2 ^ 3 + f.m

/-- A bit as a number. -/
def bitNat (b : Bool) : Nat := if b then 1 else 0

/-! Operand codes, both ways. -/

/-- R152. -/
def Src.code : Src → Nat
  | .g n => n.val
  | .take n => 8 + n.val
  | .k n => 16 + n.val
  | .ch n => 24 + n.val
  | .z => 28
  | .one => 29
  | .bt => 30
  | .cx => 31

/-- R152: every 5-bit code is a source. -/
def Src.ofCode (c : Nat) : Src :=
  if c < 8 then .g (Fin.ofNat 8 c)
  else if c < 16 then .take (Fin.ofNat 8 (c - 8))
  else if c < 24 then .k (Fin.ofNat 8 (c - 16))
  else if c < 28 then .ch (Fin.ofNat 4 (c - 24))
  else if c = 28 then .z
  else if c = 29 then .one
  else if c = 30 then .bt
  else .cx

/-- R153, codes 8-14. -/
def ODst.code : ODst → Nat
  | .o n => 8 + n.val
  | .o01 => 12
  | .o23 => 13
  | .oall => 14

/-- R153, codes 8-14. -/
def ODst.ofCode (c : Nat) : Option ODst :=
  if c < 8 then none
  else if c < 12 then some (.o (Fin.ofNat 4 (c - 8)))
  else if c = 12 then some .o01
  else if c = 13 then some .o23
  else if c = 14 then some .oall
  else none

/-- R153, codes 0-15. -/
def Dst.code : Dst → Nat
  | .g n => n.val
  | .out d => d.code
  | .z => 15

/-- R153, codes 0-15. -/
def Dst.ofCode (c : Nat) : Option Dst :=
  if c < 8 then some (.g (Fin.ofNat 8 c))
  else if c = 15 then some .z
  else (ODst.ofCode c).map .out

/-- R213: 16-19 or 8-14. -/
def MacDst.code : MacDst → Nat
  | .acc n => 16 + n.val
  | .out d => d.code

/-- R213: 16-19 or 8-14. -/
def MacDst.ofCode (c : Nat) : Option MacDst :=
  if c < 16 then (ODst.ofCode c).map .out
  else if c < 20 then some (.acc (Fin.ofNat 4 (c - 16)))
  else none

/-- A number below `n` starting at code `lo`. -/
def finOfCode (n : Nat) [NeZero n] (lo c : Nat) : Option (Fin n) :=
  if lo ≤ c ∧ c < lo + n then some (Fin.ofNat n (c - lo)) else none

/-- R134, R155. -/
def Scope.code : Scope → Nat
  | .elem => 0
  | .sec => 1
  | .qtr => 2
  | .dev => 3
  | .dom => 4

/-- R134, R155: codes 5-7 are refused. -/
def Scope.ofCode : Nat → Option Scope
  | 0 => some .elem
  | 1 => some .sec
  | 2 => some .qtr
  | 3 => some .dev
  | 4 => some .dom
  | _ => none

/-! Reading a word.  Each shape answers the instruction its operand fields give, if they are codes of its table,
and whether the modifier bits that the shape does not use are zero. -/

/-- What the fields give: the instruction, if the operand fields are admitted, and whether the modifier is. -/
structure Read where
  instr : Option Instr
  modOk : Bool
  deriving DecidableEq, Repr

namespace Fields

/-- The trigger index as a number below 64. -/
def ti (f : Fields) : Fin 64 := Fin.ofNat 64 f.t
/-- Modifier bit 0. -/
def m0 (f : Fields) : Bool := f.m % 2 == 1
/-- Modifier bit 1. -/
def m1 (f : Fields) : Bool := f.m / 2 % 2 == 1
/-- Modifier bit 2. -/
def m2 (f : Fields) : Bool := f.m / 4 % 2 == 1
/-- Source A without a peek bit. -/
def sa (f : Fields) : Src := Src.ofCode f.a
/-- Source B without a peek bit. -/
def sb (f : Fields) : Src := Src.ofCode f.b
/-- Source A with its peek bit, modifier bit 2 (R155). -/
def pa (f : Fields) : Opd := ⟨Src.ofCode f.a, f.m2⟩
/-- Source B with its peek bit, modifier bit 1 (R155). -/
def pb (f : Fields) : Opd := ⟨Src.ofCode f.b, f.m1⟩
/-- The binding of a format P word. -/
def bind (f : Fields) : Fin 32 := Fin.ofNat 32 f.d
/-- Brick pairing wa of a format M word, bits [7:5] (R156). -/
def wa (f : Fields) : Fin 8 := Fin.ofNat 8 (f.b / 4)
/-- Brick pairing wb of a format M word, bits [4:2] (R156). -/
def wb (f : Fields) : Fin 8 := Fin.ofNat 8 (f.b % 4 * 2 + f.m / 4)
/-- The destination, when its code is admitted. -/
def dst (f : Fields) : Option Dst := Dst.ofCode f.d
/-- The output destination, when its code is admitted. -/
def odst (f : Fields) : Option ODst := ODst.ofCode f.d

/-- A field the form does not write: destination 15, source 28 (R175). -/
def only (c : Bool) (i : Option Instr) : Option Instr := if c then i else none

/-- No modifier bit 0. -/
def no0 (f : Fields) : Bool := !f.m0
/-- No modifier bits 1 and 0. -/
def no10 (f : Fields) : Bool := !f.m0 && !f.m1
/-- No modifier bits at all. -/
def noM (f : Fields) : Bool := f.m == 0

def rT (mk : Fin 64 → Instr) (f : Fields) : Read :=
  ⟨only (f.d == 15 && f.a == 28 && f.b == 28) (some (mk f.ti)), f.noM⟩
def rA (mk : Fin 64 → Opd → Instr) (f : Fields) : Read :=
  ⟨only (f.d == 15 && f.b == 28) (some (mk f.ti f.pa)), f.no10⟩
def rAs (mk : Fin 64 → Src → Instr) (f : Fields) : Read :=
  ⟨only (f.d == 15 && f.b == 28) (some (mk f.ti f.sa)), f.noM⟩
def rAB (mk : Fin 64 → Opd → Opd → Instr) (f : Fields) : Read :=
  ⟨only (f.d == 15) (some (mk f.ti f.pa f.pb)), f.no0⟩
def rDA (mk : Fin 64 → Dst → Opd → Instr) (f : Fields) : Read :=
  ⟨only (f.b == 28) (f.dst.map fun d => mk f.ti d f.pa), f.no10⟩
def rDAm (mk : Fin 64 → Dst → Opd → Bool → Instr) (f : Fields) : Read :=
  ⟨only (f.b == 28) (f.dst.map fun d => mk f.ti d f.pa f.m0), !f.m1⟩
def rDAs (mk : Fin 64 → Dst → Src → Instr) (f : Fields) : Read :=
  ⟨only (f.b == 28) (f.dst.map fun d => mk f.ti d f.sa), f.noM⟩
def rD (mk : Fin 64 → Dst → Instr) (f : Fields) : Read :=
  ⟨only (f.a == 28 && f.b == 28) (f.dst.map fun d => mk f.ti d), f.noM⟩
def rDAB (mk : Fin 64 → Dst → Opd → Opd → Instr) (f : Fields) : Read :=
  ⟨f.dst.map fun d => mk f.ti d f.pa f.pb, f.no0⟩
def rDABm (mk : Fin 64 → Dst → Opd → Opd → Bool → Instr) (f : Fields) : Read :=
  ⟨f.dst.map fun d => mk f.ti d f.pa f.pb f.m0, true⟩
def rOAB (mk : Fin 64 → ODst → Opd → Opd → Instr) (f : Fields) : Read :=
  ⟨f.odst.map fun d => mk f.ti d f.pa f.pb, f.no0⟩
def rOABm (mk : Fin 64 → ODst → Opd → Opd → Bool → Instr) (f : Fields) : Read :=
  ⟨f.odst.map fun d => mk f.ti d f.pa f.pb f.m0, true⟩
/-- A register or predicate destination, codes 0-7. -/
def rRAB (mk : Fin 64 → Fin 8 → Opd → Opd → Instr) (f : Fields) : Read :=
  ⟨(finOfCode 8 0 f.d).map fun d => mk f.ti d f.pa f.pb, f.no0⟩
def rRABm (mk : Fin 64 → Fin 8 → Opd → Opd → Bool → Instr) (f : Fields) : Read :=
  ⟨(finOfCode 8 0 f.d).map fun d => mk f.ti d f.pa f.pb f.m0, true⟩
def rRA (mk : Fin 64 → Fin 8 → Opd → Instr) (f : Fields) : Read :=
  ⟨only (f.b == 28) ((finOfCode 8 0 f.d).map fun d => mk f.ti d f.pa), f.no10⟩
/-- Two different channels, no peek bits (R176, R291). -/
def rDCC (mk : Fin 64 → Dst → Fin 4 → Fin 4 → Instr) (f : Fields) : Read :=
  ⟨f.dst.bind fun d => (finOfCode 4 24 f.a).bind fun a => (finOfCode 4 24 f.b).map fun b => mk f.ti d a b, f.noM⟩
/-- A four-valued destination field starting at code `lo`: a control output (0) or a memory port (20). -/
def rNAB (lo : Nat) (mk : Fin 64 → Fin 4 → Opd → Opd → Instr) (f : Fields) : Read :=
  ⟨(finOfCode 4 lo f.d).map fun d => mk f.ti d f.pa f.pb, f.no0⟩
def rNABm (lo : Nat) (mk : Fin 64 → Fin 4 → Opd → Opd → Bool → Instr) (f : Fields) : Read :=
  ⟨(finOfCode 4 lo f.d).map fun d => mk f.ti d f.pa f.pb f.m0, true⟩
/-- Format M with its peek in bit 1 (R156). -/
def rMac (mk : Fin 64 → MacDst → Opd → Fin 8 → Fin 8 → Instr) (f : Fields) : Read :=
  ⟨(MacDst.ofCode f.d).map fun d => mk f.ti d ⟨f.sa, f.m1⟩ f.wa f.wb, f.no0⟩
def rMacN (mk : Fin 64 → Fin 4 → Opd → Fin 8 → Fin 8 → Instr) (f : Fields) : Read :=
  ⟨(finOfCode 4 16 f.d).map fun d => mk f.ti d ⟨f.sa, f.m1⟩ f.wa f.wb, f.no0⟩
/-- ACRD: the source A field is an accumulator number (R213). -/
def rAcrd (mk : Fin 64 → Dst → Fin 4 → Opd → Bool → Instr) (f : Fields) : Read :=
  ⟨f.dst.bind fun d => (finOfCode 4 0 f.a).map fun a => mk f.ti d a f.pb f.m0, !f.m2⟩
def rAcclr (mk : Fin 64 → Fin 4 → Instr) (f : Fields) : Read :=
  ⟨only (f.a == 28 && f.b == 28) ((finOfCode 4 16 f.d).map fun d => mk f.ti d), f.noM⟩
def rAcmv (mk : Fin 64 → Fin 4 → Fin 4 → Instr) (f : Fields) : Read :=
  ⟨only (f.b == 28) ((finOfCode 4 16 f.d).bind fun d => (finOfCode 4 0 f.a).map fun a => mk f.ti d a), f.noM⟩
def rMxs (mk : Fin 64 → Dst → Fin 4 → Bool → Instr) (f : Fields) : Read :=
  ⟨only (f.b == 28) (f.dst.bind fun d => (finOfCode 4 24 f.a).map fun a => mk f.ti d a f.m2), f.no10⟩
/-- FENCE: the modifier is the scope (R155). -/
def rFence (mk : Fin 64 → Scope → Instr) (f : Fields) : Read :=
  ⟨only (f.d == 15 && f.a == 28 && f.b == 28) (some (mk f.ti ((Scope.ofCode f.m).getD .elem))),
   (Scope.ofCode f.m).isSome⟩
/-- Format P with two sources and no peek (R249). -/
def rP2 (mk : Fin 64 → Fin 32 → Src → Src → Instr) (f : Fields) : Read :=
  ⟨some (mk f.ti f.bind f.sa f.sb), f.noM⟩
def rP1 (mk : Fin 64 → Fin 32 → Src → Instr) (f : Fields) : Read :=
  ⟨only (f.b == 28) (some (mk f.ti f.bind f.sa)), f.noM⟩
def rPort (mk : Fin 64 → Fin 32 → Opd → Instr) (f : Fields) : Read :=
  ⟨only (f.b == 28) (some (mk f.ti f.bind f.pa)), f.no10⟩
def rWrem (mk : Fin 64 → Fin 32 → Opd → Opd → Bool → Instr) (f : Fields) : Read :=
  ⟨some (mk f.ti f.bind f.pa f.pb f.m0), true⟩
def rSndm (mk : Fin 64 → Fin 32 → Fin 4 → Src → Instr) (f : Fields) : Read :=
  ⟨(finOfCode 4 24 f.a).map fun a => mk f.ti f.bind a f.sb, f.noM⟩
/-- Format G (R157): bits [7:3] not zero or modifier bit 0 set is a modifier error. -/
def rGeo (mk : Fin 64 → ODst → Fin 4 → Bool → Bool → Instr) (f : Fields) : Read :=
  ⟨f.odst.bind fun d => (finOfCode 4 24 f.a).map fun a => mk f.ti d a f.m2 f.m1, f.b == 0 && f.no0⟩

/-! The fields of an instruction, shape by shape; `op` is its opcode. -/

def wT (op : Nat) (t : Fin 64) : Fields := ⟨t.val, op, 15, 28, 28, 0⟩
def wA (op : Nat) (t : Fin 64) (a : Opd) : Fields := ⟨t.val, op, 15, a.src.code, 28, bitNat a.peek * 4⟩
def wAs (op : Nat) (t : Fin 64) (a : Src) : Fields := ⟨t.val, op, 15, a.code, 28, 0⟩
/-- Any destination code with two sources and bit 0. -/
def wCAB (op : Nat) (t : Fin 64) (d : Nat) (a b : Opd) (m0 : Bool) : Fields :=
  ⟨t.val, op, d, a.src.code, b.src.code, bitNat a.peek * 4 + bitNat b.peek * 2 + bitNat m0⟩
/-- Any destination code with source A and bit 0. -/
def wCA (op : Nat) (t : Fin 64) (d : Nat) (a : Opd) (m0 : Bool) : Fields :=
  ⟨t.val, op, d, a.src.code, 28, bitNat a.peek * 4 + bitNat m0⟩
def wAB (op : Nat) (t : Fin 64) (a b : Opd) : Fields := wCAB op t 15 a b false
def wDA (op : Nat) (t : Fin 64) (d : Dst) (a : Opd) : Fields := wCA op t d.code a false
def wDAm (op : Nat) (t : Fin 64) (d : Dst) (a : Opd) (m0 : Bool) : Fields := wCA op t d.code a m0
def wDAs (op : Nat) (t : Fin 64) (d : Dst) (a : Src) : Fields := ⟨t.val, op, d.code, a.code, 28, 0⟩
def wD (op : Nat) (t : Fin 64) (d : Dst) : Fields := ⟨t.val, op, d.code, 28, 28, 0⟩
def wDAB (op : Nat) (t : Fin 64) (d : Dst) (a b : Opd) : Fields := wCAB op t d.code a b false
def wDABm (op : Nat) (t : Fin 64) (d : Dst) (a b : Opd) (m0 : Bool) : Fields := wCAB op t d.code a b m0
def wOAB (op : Nat) (t : Fin 64) (d : ODst) (a b : Opd) : Fields := wCAB op t d.code a b false
def wOABm (op : Nat) (t : Fin 64) (d : ODst) (a b : Opd) (m0 : Bool) : Fields := wCAB op t d.code a b m0
def wRAB (op : Nat) (t : Fin 64) (d : Fin 8) (a b : Opd) : Fields := wCAB op t d.val a b false
def wRABm (op : Nat) (t : Fin 64) (d : Fin 8) (a b : Opd) (m0 : Bool) : Fields := wCAB op t d.val a b m0
def wRA (op : Nat) (t : Fin 64) (d : Fin 8) (a : Opd) : Fields := wCA op t d.val a false
def wDCC (op : Nat) (t : Fin 64) (d : Dst) (a b : Fin 4) : Fields := ⟨t.val, op, d.code, 24 + a.val, 24 + b.val, 0⟩
def wNAB (lo op : Nat) (t : Fin 64) (d : Fin 4) (a b : Opd) : Fields := wCAB op t (lo + d.val) a b false
def wNABm (lo op : Nat) (t : Fin 64) (d : Fin 4) (a b : Opd) (m0 : Bool) : Fields := wCAB op t (lo + d.val) a b m0
/-- Format M: wa in word bits [7:5], wb in [4:2], the peek in [1] (R156). -/
def wM (op : Nat) (t : Fin 64) (d : Nat) (a : Opd) (wa wb : Fin 8) : Fields :=
  ⟨t.val, op, d, a.src.code, wa.val * 4 + wb.val / 2, wb.val % 2 * 4 + bitNat a.peek * 2⟩
def wMac (op : Nat) (t : Fin 64) (d : MacDst) (a : Opd) (wa wb : Fin 8) : Fields := wM op t d.code a wa wb
def wMacN (op : Nat) (t : Fin 64) (d : Fin 4) (a : Opd) (wa wb : Fin 8) : Fields := wM op t (16 + d.val) a wa wb
def wAcrd (op : Nat) (t : Fin 64) (d : Dst) (a : Fin 4) (b : Opd) (sr : Bool) : Fields :=
  ⟨t.val, op, d.code, a.val, b.src.code, bitNat b.peek * 2 + bitNat sr⟩
def wAcclr (op : Nat) (t : Fin 64) (d : Fin 4) : Fields := ⟨t.val, op, 16 + d.val, 28, 28, 0⟩
def wAcmv (op : Nat) (t : Fin 64) (d a : Fin 4) : Fields := ⟨t.val, op, 16 + d.val, a.val, 28, 0⟩
def wMxs (op : Nat) (t : Fin 64) (d : Dst) (a : Fin 4) (pk : Bool) : Fields :=
  ⟨t.val, op, d.code, 24 + a.val, 28, bitNat pk * 4⟩
def wFence (op : Nat) (t : Fin 64) (s : Scope) : Fields := ⟨t.val, op, 15, 28, 28, s.code⟩
def wP2 (op : Nat) (t : Fin 64) (n : Fin 32) (a b : Src) : Fields := ⟨t.val, op, n.val, a.code, b.code, 0⟩
def wP1 (op : Nat) (t : Fin 64) (n : Fin 32) (a : Src) : Fields := ⟨t.val, op, n.val, a.code, 28, 0⟩
def wPort (op : Nat) (t : Fin 64) (n : Fin 32) (a : Opd) : Fields := wCA op t n.val a false
def wWrem (op : Nat) (t : Fin 64) (n : Fin 32) (a b : Opd) (m0 : Bool) : Fields := wCAB op t n.val a b m0
def wSndm (op : Nat) (t : Fin 64) (n : Fin 32) (a : Fin 4) (b : Src) : Fields := ⟨t.val, op, n.val, 24 + a.val, b.code, 0⟩
def wGeo (op : Nat) (t : Fin 64) (d : ODst) (a : Fin 4) (stg nfm : Bool) : Fields :=
  ⟨t.val, op, d.code, 24 + a.val, 0, bitNat stg * 4 + bitNat nfm * 2⟩

end Fields


/-- The opcodes of class 0, by index (R159). -/
def readClass0 (f : Fields) (idx : Nat) : Option Read :=
  match idx with
  | 0 => some (f.rAB .nop)
  | 1 => some (f.rDA .mov)
  | 2 => some (f.rDAB .movt)
  | 3 => some (f.rOAB .fork)
  | 4 => some (f.rDAB .sel)
  | 5 => some (f.rDCC .mrg)
  | 6 => some (f.rOAB .split)
  | 7 => some (f.rAs .drop)
  | 8 => some (f.rOAB .mark)
  | 9 => some (f.rOAB .emit)
  | 10 => some (f.rDA .tags)
  | 11 => some (f.rRAB .pset)
  | 12 => some (f.rRAB .pclr)
  | 13 => some (f.rDAB .ctr)
  | 14 => some (f.rNAB 0 .sig)
  | 15 => some (f.rT .halt)
  | _ => none

/-- The opcodes of class 1, by index (R159). -/
def readClass1 (f : Fields) (idx : Nat) : Option Read :=
  match idx with
  | 0 => some (f.rDABm .add)
  | 1 => some (f.rDABm .sub)
  | 2 => some (f.rDABm .adds)
  | 3 => some (f.rDABm .subs)
  | 4 => some (f.rDABm .mul)
  | 5 => some (f.rDABm .mulh)
  | 6 => some (f.rDABm .mulhu)
  | 7 => some (f.rRABm .mad)
  | 8 => some (f.rDA .neg)
  | 9 => some (f.rDA .abs)
  | 10 => some (f.rDABm .min)
  | 11 => some (f.rDABm .max)
  | 12 => some (f.rDABm .minu)
  | 13 => some (f.rDABm .maxu)
  | 14 => some (f.rDABm .and)
  | 15 => some (f.rDABm .or)
  | 16 => some (f.rDABm .xor)
  | 17 => some (f.rDABm .shl)
  | 18 => some (f.rDABm .shr)
  | 19 => some (f.rDABm .sar)
  | 20 => some (f.rDABm .rot)
  | 21 => some (f.rDA .clz)
  | 22 => some (f.rDA .popc)
  | 23 => some (f.rDAB .bfx)
  | 24 => some (f.rDAB .idx)
  | 25 => some (f.rDAB .satn)
  | 26 => some (f.rRABm .cmpeq)
  | 27 => some (f.rRABm .cmpne)
  | 28 => some (f.rRABm .cmplt)
  | 29 => some (f.rRABm .cmple)
  | 30 => some (f.rRABm .cmpltu)
  | 31 => some (f.rRABm .cmpleu)
  | _ => none

/-- The opcodes of class 2, by index (R159). -/
def readClass2 (f : Fields) (idx : Nat) : Option Read :=
  match idx with
  | 0 => some (f.rDABm .fadd)
  | 1 => some (f.rDABm .fsub)
  | 2 => some (f.rDABm .fmul)
  | 3 => some (f.rRABm .ffma)
  | 4 => some (f.rRABm .ffms)
  | 5 => some (f.rDABm .fmin)
  | 6 => some (f.rDABm .fmax)
  | 7 => some (f.rDA .fabs)
  | 8 => some (f.rDA .fneg)
  | 9 => some (f.rDA .fcls)
  | 10 => some (f.rDABm .fscl)
  | 11 => some (f.rDA .ffrc)
  | 12 => some (f.rRABm .fcmpeq)
  | 13 => some (f.rRABm .fcmplt)
  | 14 => some (f.rRABm .fcmple)
  | 15 => some (f.rRABm .fcmpun)
  | 16 => some (f.rDA .frcp)
  | 17 => some (f.rDA .frsq)
  | 18 => some (f.rDA .fsqrt)
  | 19 => some (f.rDABm .fdiv)
  | 20 => some (f.rDA .fexp2)
  | 21 => some (f.rDA .flog2)
  | 22 => some (f.rDA .fsin)
  | 23 => some (f.rDA .fcos)
  | 24 => some (f.rDA .ftanh)
  | 25 => some (f.rDA .frnd)
  | 26 => some (f.rDAB .ftoi)
  | 27 => some (f.rDAB .itof)
  | _ => none

/-- The opcodes of class 3, by index (R159). -/
def readClass3 (f : Fields) (idx : Nat) : Option Read :=
  match idx with
  | 0 => some (f.rMac .mac)
  | 1 => some (f.rMacN .macn)
  | 2 => some (f.rMacN .macz)
  | 3 => some (f.rAB .wld)
  | 4 => some (f.rAcrd .acrd)
  | 5 => some (f.rAcclr .acclr)
  | 6 => some (f.rAcmv .acmv)
  | 7 => some (f.rDABm .cvt)
  | 8 => some (f.rDAB .qdec)
  | 9 => some (f.rOABm .qenc)
  | 10 => some (f.rMxs .mxs)
  | 11 => some (f.rDAB .pack)
  | 12 => some (f.rDAB .unpk)
  | 13 => some (f.rDAB .shfl)
  | 14 => some (f.rDAB .bcst)
  | 15 => some (f.rDA .rmax)
  | 16 => some (f.rDA .rsum)
  | 17 => some (f.rRA .rsex)
  | 18 => some (f.rDAB .scale)
  | _ => none

/-- The opcodes of class 4, by index (R159). -/
def readClass4 (f : Fields) (idx : Nat) : Option Read :=
  match idx with
  | 0 => some (f.rDA .ld)
  | 1 => some (f.rNAB 20 .st)
  | 2 => some (f.rDA .lds)
  | 3 => some (f.rDA .lde)
  | 4 => some (f.rNAB 20 .stf)
  | 5 => some (f.rNAB 20 .ste)
  | 6 => some (f.rNAB 20 .push)
  | 7 => some (f.rDA .pop)
  | 8 => some (f.rDAB .amoadd)
  | 9 => some (f.rDAB .amomin)
  | 10 => some (f.rDAB .amomax)
  | 11 => some (f.rDAB .amoand)
  | 12 => some (f.rDAB .amoor)
  | 13 => some (f.rDAB .amoxor)
  | 14 => some (f.rDAB .amoswp)
  | 15 => some (f.rRAB .amocas)
  | 16 => some (f.rDAB .famoadd)
  | 17 => some (f.rDAB .famomin)
  | 18 => some (f.rDAB .famomax)
  | 19 => some (f.rDA .bufq)
  | 20 => some (f.rAB .bufset)
  | 21 => some (f.rFence .fence)
  | 22 => some (f.rDAm .ldc)
  | 23 => some (f.rNABm 20 .stc)
  | 24 => some (f.rAB .cinv)
  | 25 => some (f.rAB .cwb)
  | 26 => some (f.rAB .chold)
  | 27 => some (f.rA .cfree)
  | 28 => some (f.rDA .ldw)
  | _ => none

/-- The opcodes of class 5, by index (R159). -/
def readClass5 (f : Fields) (idx : Nat) : Option Read :=
  match idx with
  | 0 => some (f.rP2 .brdRd)
  | 1 => some (f.rP2 .brdFl)
  | 2 => some (f.rP2 .brdRed)
  | 3 => some (f.rP2 .brdUpd)
  | 4 => some (f.rP2 .brdGat)
  | 5 => some (f.rP2 .brdSca)
  | 6 => some (f.rP2 .brdLut)
  | 7 => some (f.rP2 .tblb)
  | 8 => some (f.rP1 .ridq)
  | 9 => some (f.rP1 .rcan)
  | 10 => some (f.rD .claim)
  | 11 => some (f.rAs .rlse)
  | 12 => some (f.rDAs .slq)
  | 13 => some (f.rP2 .cpy)
  | 14 => some (f.rP2 .coll)
  | 15 => some (f.rPort .port)
  | 16 => some (f.rWrem .wrem)
  | 17 => some (f.rSndm .sndm)
  | 18 => some (f.rP1 .drn)
  | 19 => some (f.rT .cnti)
  | _ => none

/-- The opcodes of class 6, by index (R159). -/
def readClass6 (f : Fields) (idx : Nat) : Option Read :=
  match idx with
  | 0 => some (f.rGeo .ori2)
  | 1 => some (f.rGeo .ori2s)
  | 2 => some (f.rGeo .ori3)
  | 3 => some (f.rGeo .ori3s)
  | 4 => some (f.rGeo .incr)
  | 5 => some (f.rGeo .incrs)
  | 6 => some (f.rGeo .insp)
  | 7 => some (f.rGeo .insps)
  | 8 => some (f.rGeo .segx)
  | 9 => some (f.rGeo .segxs)
  | 10 => some (f.rDAB .band)
  | 11 => some (f.rDAB .bpos)
  | 12 => some (f.rRAB .ccmp)
  | 13 => some (f.rDCC .cmrg)
  | 14 => some (f.rDAB .cset)
  | 15 => some (f.rDAB .cget)
  | 16 => some (f.rOAB .rte)
  | _ => none

/-- The opcodes of class 7, by index (R159). -/
def readClass7 (f : Fields) (idx : Nat) : Option Read :=
  match idx with
  | 0 => some (f.rA .trap)
  | 1 => some (f.rT .brk)
  | 2 => some (f.rDA .csrr)
  | 3 => some (f.rAB .csrw)
  | 4 => some (f.rDAB .frz)
  | 5 => some (f.rDAB .thaw)
  | 6 => some (f.rDA .snap)
  | 7 => some (f.rDAB .tlbi)
  | 8 => some (f.rDAB .cfgw)
  | 9 => some (f.rDA .canc)
  | 10 => some (f.rDA .perf)
  | 11 => some (f.rDA .time)
  | 12 => some (f.rA .idle)
  | 13 => some (f.rA .attn)
  | 14 => some (f.rAB .log)
  | _ => none

/-- The opcode map: value = 0x20 * class + index (R159); an unassigned value reads as nothing (R161). -/
def readFields (f : Fields) : Option Read :=
  match f.op / 32 with
  | 0 => readClass0 f (f.op % 32)
  | 1 => readClass1 f (f.op % 32)
  | 2 => readClass2 f (f.op % 32)
  | 3 => readClass3 f (f.op % 32)
  | 4 => readClass4 f (f.op % 32)
  | 5 => readClass5 f (f.op % 32)
  | 6 => readClass6 f (f.op % 32)
  | 7 => readClass7 f (f.op % 32)
  | _ => none

/-- The instruction of six fields, or the loader's lowest reason against them (R173). -/
def decodeFields (f : Fields) : Except DecodeError Instr :=
  match readFields f with
  | none => .error .unassignedOpcode
  | some r =>
    match r.instr with
    | none => .error .operand
    | some i =>
      if !i.operandsOk then .error .operand
      else if !r.modOk || !i.peeksOk then .error .modifier
      else .ok i

/-- The instruction of a slot word. -/
def decode (w : BitVec 32) : Except DecodeError Instr := decodeFields (Fields.ofWord w.toNat)

/-- A little-endian word of four bytes (R5). -/
def wordOfBytes (b0 b1 b2 b3 : Byte) : BitVec 32 :=
  BitVec.ofNat 32 (b0.toNat + 2 ^ 8 * b1.toNat + 2 ^ 16 * b2.toNat + 2 ^ 24 * b3.toNat)

/-- The instruction at the head of a list of bytes, and the bytes after it. -/
def decodeBytes : List Byte → Except DecodeError (Instr × List Byte)
  | b0 :: b1 :: b2 :: b3 :: rest =>
    match decode (wordOfBytes b0 b1 b2 b3) with
    | .ok i => .ok (i, rest)
    | .error e => .error e
  | _ => .error .short

/-- The fields of an instruction that has a word, from the same tables (R151-R160). -/
def Instr.fields : Instr → Option Fields
  | .nop t a b => some (Fields.wAB 0x00 t a b)
  | .mov t d a => some (Fields.wDA 0x01 t d a)
  | .movt t d a b => some (Fields.wDAB 0x02 t d a b)
  | .fork t d a b => some (Fields.wOAB 0x03 t d a b)
  | .sel t d a b => some (Fields.wDAB 0x04 t d a b)
  | .mrg t d a b => some (Fields.wDCC 0x05 t d a b)
  | .split t d a b => some (Fields.wOAB 0x06 t d a b)
  | .drop t a => some (Fields.wAs 0x07 t a)
  | .mark t d a b => some (Fields.wOAB 0x08 t d a b)
  | .emit t d a b => some (Fields.wOAB 0x09 t d a b)
  | .tags t d a => some (Fields.wDA 0x0A t d a)
  | .pset t d a b => some (Fields.wRAB 0x0B t d a b)
  | .pclr t d a b => some (Fields.wRAB 0x0C t d a b)
  | .ctr t d a b => some (Fields.wDAB 0x0D t d a b)
  | .sig t d a b => some (Fields.wNAB 0 0x0E t d a b)
  | .halt t => some (Fields.wT 0x0F t)
  | .add t d a b bc => some (Fields.wDABm 0x20 t d a b bc)
  | .sub t d a b bc => some (Fields.wDABm 0x21 t d a b bc)
  | .adds t d a b bc => some (Fields.wDABm 0x22 t d a b bc)
  | .subs t d a b bc => some (Fields.wDABm 0x23 t d a b bc)
  | .mul t d a b bc => some (Fields.wDABm 0x24 t d a b bc)
  | .mulh t d a b bc => some (Fields.wDABm 0x25 t d a b bc)
  | .mulhu t d a b bc => some (Fields.wDABm 0x26 t d a b bc)
  | .mad t d a b bc => some (Fields.wRABm 0x27 t d a b bc)
  | .neg t d a => some (Fields.wDA 0x28 t d a)
  | .abs t d a => some (Fields.wDA 0x29 t d a)
  | .min t d a b bc => some (Fields.wDABm 0x2A t d a b bc)
  | .max t d a b bc => some (Fields.wDABm 0x2B t d a b bc)
  | .minu t d a b bc => some (Fields.wDABm 0x2C t d a b bc)
  | .maxu t d a b bc => some (Fields.wDABm 0x2D t d a b bc)
  | .and t d a b bc => some (Fields.wDABm 0x2E t d a b bc)
  | .or t d a b bc => some (Fields.wDABm 0x2F t d a b bc)
  | .xor t d a b bc => some (Fields.wDABm 0x30 t d a b bc)
  | .shl t d a b bc => some (Fields.wDABm 0x31 t d a b bc)
  | .shr t d a b bc => some (Fields.wDABm 0x32 t d a b bc)
  | .sar t d a b bc => some (Fields.wDABm 0x33 t d a b bc)
  | .rot t d a b bc => some (Fields.wDABm 0x34 t d a b bc)
  | .clz t d a => some (Fields.wDA 0x35 t d a)
  | .popc t d a => some (Fields.wDA 0x36 t d a)
  | .bfx t d a b => some (Fields.wDAB 0x37 t d a b)
  | .idx t d a b => some (Fields.wDAB 0x38 t d a b)
  | .satn t d a b => some (Fields.wDAB 0x39 t d a b)
  | .cmpeq t d a b bc => some (Fields.wRABm 0x3A t d a b bc)
  | .cmpne t d a b bc => some (Fields.wRABm 0x3B t d a b bc)
  | .cmplt t d a b bc => some (Fields.wRABm 0x3C t d a b bc)
  | .cmple t d a b bc => some (Fields.wRABm 0x3D t d a b bc)
  | .cmpltu t d a b bc => some (Fields.wRABm 0x3E t d a b bc)
  | .cmpleu t d a b bc => some (Fields.wRABm 0x3F t d a b bc)
  | .fadd t d a b bc => some (Fields.wDABm 0x40 t d a b bc)
  | .fsub t d a b bc => some (Fields.wDABm 0x41 t d a b bc)
  | .fmul t d a b bc => some (Fields.wDABm 0x42 t d a b bc)
  | .ffma t d a b bc => some (Fields.wRABm 0x43 t d a b bc)
  | .ffms t d a b bc => some (Fields.wRABm 0x44 t d a b bc)
  | .fmin t d a b bc => some (Fields.wDABm 0x45 t d a b bc)
  | .fmax t d a b bc => some (Fields.wDABm 0x46 t d a b bc)
  | .fabs t d a => some (Fields.wDA 0x47 t d a)
  | .fneg t d a => some (Fields.wDA 0x48 t d a)
  | .fcls t d a => some (Fields.wDA 0x49 t d a)
  | .fscl t d a b bc => some (Fields.wDABm 0x4A t d a b bc)
  | .ffrc t d a => some (Fields.wDA 0x4B t d a)
  | .fcmpeq t d a b bc => some (Fields.wRABm 0x4C t d a b bc)
  | .fcmplt t d a b bc => some (Fields.wRABm 0x4D t d a b bc)
  | .fcmple t d a b bc => some (Fields.wRABm 0x4E t d a b bc)
  | .fcmpun t d a b bc => some (Fields.wRABm 0x4F t d a b bc)
  | .frcp t d a => some (Fields.wDA 0x50 t d a)
  | .frsq t d a => some (Fields.wDA 0x51 t d a)
  | .fsqrt t d a => some (Fields.wDA 0x52 t d a)
  | .fdiv t d a b bc => some (Fields.wDABm 0x53 t d a b bc)
  | .fexp2 t d a => some (Fields.wDA 0x54 t d a)
  | .flog2 t d a => some (Fields.wDA 0x55 t d a)
  | .fsin t d a => some (Fields.wDA 0x56 t d a)
  | .fcos t d a => some (Fields.wDA 0x57 t d a)
  | .ftanh t d a => some (Fields.wDA 0x58 t d a)
  | .frnd t d a => some (Fields.wDA 0x59 t d a)
  | .ftoi t d a b => some (Fields.wDAB 0x5A t d a b)
  | .itof t d a b => some (Fields.wDAB 0x5B t d a b)
  | .mac t d a wa wb => some (Fields.wMac 0x60 t d a wa wb)
  | .macn t d a wa wb => some (Fields.wMacN 0x61 t d a wa wb)
  | .macz t d a wa wb => some (Fields.wMacN 0x62 t d a wa wb)
  | .wld t a b => some (Fields.wAB 0x63 t a b)
  | .acrd t d a b sr => some (Fields.wAcrd 0x64 t d a b sr)
  | .acclr t d => some (Fields.wAcclr 0x65 t d)
  | .acmv t d a => some (Fields.wAcmv 0x66 t d a)
  | .cvt t d a b sr => some (Fields.wDABm 0x67 t d a b sr)
  | .qdec t d a b => some (Fields.wDAB 0x68 t d a b)
  | .qenc t d a b sr => some (Fields.wOABm 0x69 t d a b sr)
  | .mxs t d a pk => some (Fields.wMxs 0x6A t d a pk)
  | .pack t d a b => some (Fields.wDAB 0x6B t d a b)
  | .unpk t d a b => some (Fields.wDAB 0x6C t d a b)
  | .shfl t d a b => some (Fields.wDAB 0x6D t d a b)
  | .bcst t d a b => some (Fields.wDAB 0x6E t d a b)
  | .rmax t d a => some (Fields.wDA 0x6F t d a)
  | .rsum t d a => some (Fields.wDA 0x70 t d a)
  | .rsex t d a => some (Fields.wRA 0x71 t d a)
  | .scale t d a b => some (Fields.wDAB 0x72 t d a b)
  | .ld t d a => some (Fields.wDA 0x80 t d a)
  | .st t d a b => some (Fields.wNAB 20 0x81 t d a b)
  | .lds t d a => some (Fields.wDA 0x82 t d a)
  | .lde t d a => some (Fields.wDA 0x83 t d a)
  | .stf t d a b => some (Fields.wNAB 20 0x84 t d a b)
  | .ste t d a b => some (Fields.wNAB 20 0x85 t d a b)
  | .push t d a b => some (Fields.wNAB 20 0x86 t d a b)
  | .pop t d a => some (Fields.wDA 0x87 t d a)
  | .amoadd t d a b => some (Fields.wDAB 0x88 t d a b)
  | .amomin t d a b => some (Fields.wDAB 0x89 t d a b)
  | .amomax t d a b => some (Fields.wDAB 0x8A t d a b)
  | .amoand t d a b => some (Fields.wDAB 0x8B t d a b)
  | .amoor t d a b => some (Fields.wDAB 0x8C t d a b)
  | .amoxor t d a b => some (Fields.wDAB 0x8D t d a b)
  | .amoswp t d a b => some (Fields.wDAB 0x8E t d a b)
  | .amocas t d a b => some (Fields.wRAB 0x8F t d a b)
  | .famoadd t d a b => some (Fields.wDAB 0x90 t d a b)
  | .famomin t d a b => some (Fields.wDAB 0x91 t d a b)
  | .famomax t d a b => some (Fields.wDAB 0x92 t d a b)
  | .bufq t d a => some (Fields.wDA 0x93 t d a)
  | .bufset t a b => some (Fields.wAB 0x94 t a b)
  | .fence t scope => some (Fields.wFence 0x95 t scope)
  | .ldc t d a ef => some (Fields.wDAm 0x96 t d a ef)
  | .stc t d a b ef => some (Fields.wNABm 20 0x97 t d a b ef)
  | .cinv t a b => some (Fields.wAB 0x98 t a b)
  | .cwb t a b => some (Fields.wAB 0x99 t a b)
  | .chold t a b => some (Fields.wAB 0x9A t a b)
  | .cfree t a => some (Fields.wA 0x9B t a)
  | .ldw t d a => some (Fields.wDA 0x9C t d a)
  | .brdRd t n a b => some (Fields.wP2 0xA0 t n a b)
  | .brdFl t n a b => some (Fields.wP2 0xA1 t n a b)
  | .brdRed t n a b => some (Fields.wP2 0xA2 t n a b)
  | .brdUpd t n a b => some (Fields.wP2 0xA3 t n a b)
  | .brdGat t n a b => some (Fields.wP2 0xA4 t n a b)
  | .brdSca t n a b => some (Fields.wP2 0xA5 t n a b)
  | .brdLut t n a b => some (Fields.wP2 0xA6 t n a b)
  | .tblb t n a b => some (Fields.wP2 0xA7 t n a b)
  | .ridq t n a => some (Fields.wP1 0xA8 t n a)
  | .rcan t n a => some (Fields.wP1 0xA9 t n a)
  | .claim t d => some (Fields.wD 0xAA t d)
  | .rlse t a => some (Fields.wAs 0xAB t a)
  | .slq t d a => some (Fields.wDAs 0xAC t d a)
  | .cpy t n a b => some (Fields.wP2 0xAD t n a b)
  | .coll t n a b => some (Fields.wP2 0xAE t n a b)
  | .port t n a => some (Fields.wPort 0xAF t n a)
  | .wrem t n a b full => some (Fields.wWrem 0xB0 t n a b full)
  | .sndm t n a b => some (Fields.wSndm 0xB1 t n a b)
  | .drn t n a => some (Fields.wP1 0xB2 t n a)
  | .cnti t => some (Fields.wT 0xB3 t)
  | .ori2 t d a stg nfm => some (Fields.wGeo 0xC0 t d a stg nfm)
  | .ori2s t d a stg nfm => some (Fields.wGeo 0xC1 t d a stg nfm)
  | .ori3 t d a stg nfm => some (Fields.wGeo 0xC2 t d a stg nfm)
  | .ori3s t d a stg nfm => some (Fields.wGeo 0xC3 t d a stg nfm)
  | .incr t d a stg nfm => some (Fields.wGeo 0xC4 t d a stg nfm)
  | .incrs t d a stg nfm => some (Fields.wGeo 0xC5 t d a stg nfm)
  | .insp t d a stg nfm => some (Fields.wGeo 0xC6 t d a stg nfm)
  | .insps t d a stg nfm => some (Fields.wGeo 0xC7 t d a stg nfm)
  | .segx t d a stg nfm => some (Fields.wGeo 0xC8 t d a stg nfm)
  | .segxs t d a stg nfm => some (Fields.wGeo 0xC9 t d a stg nfm)
  | .band t d a b => some (Fields.wDAB 0xCA t d a b)
  | .bpos t d a b => some (Fields.wDAB 0xCB t d a b)
  | .ccmp t d a b => some (Fields.wRAB 0xCC t d a b)
  | .cmrg t d a b => some (Fields.wDCC 0xCD t d a b)
  | .cset t d a b => some (Fields.wDAB 0xCE t d a b)
  | .cget t d a b => some (Fields.wDAB 0xCF t d a b)
  | .rte t d a b => some (Fields.wOAB 0xD0 t d a b)
  | .trap t a => some (Fields.wA 0xE0 t a)
  | .brk t => some (Fields.wT 0xE1 t)
  | .csrr t d a => some (Fields.wDA 0xE2 t d a)
  | .csrw t a b => some (Fields.wAB 0xE3 t a b)
  | .frz t d a b => some (Fields.wDAB 0xE4 t d a b)
  | .thaw t d a b => some (Fields.wDAB 0xE5 t d a b)
  | .snap t d a => some (Fields.wDA 0xE6 t d a)
  | .tlbi t d a b => some (Fields.wDAB 0xE7 t d a b)
  | .cfgw t d a b => some (Fields.wDAB 0xE8 t d a b)
  | .canc t d a => some (Fields.wDA 0xE9 t d a)
  | .perf t d a => some (Fields.wDA 0xEA t d a)
  | .time t d a => some (Fields.wDA 0xEB t d a)
  | .idle t a => some (Fields.wA 0xEC t a)
  | .attn t a => some (Fields.wA 0xED t a)
  | .log t a b => some (Fields.wAB 0xEE t a b)
  | .peekContinueIdleWake _ _ => none
  | .breakpointResume _ _ => none
  | .queueRecordArrival _ _ => none
  | .queueArbiterTake => none
  | .hostOpen => none
  | .hostLoad _ => none
  | .hostPhase => none
  | .hostRun => none
  | .hostWait => none
  | .hostSignal => none
  | .hostCancel => none
  | .hostClose => none
  | .queueClosed _ => none
  | .queueWaitRelease _ => none
  | .ringReadIndexWrite _ _ _ => none
  | .nodeArm _ => none
  | .nodeWait _ => none
  | .nodeWaitRelease _ => none
  | .nodeSignal _ => none
  | .nodeLoop _ => none
  | .nodeEnd _ => none
  | .unitPlacement _ => none
  | .sectionRotation _ => none
  | .tileCountExpiry _ => none
  | .elementDrainPass _ _ => none
  | .cycleDrainInject _ _ _ => none
  | .portDrainPass _ _ => none
  | .unitEnd _ => none
  | .launchComplete _ => none
  | .graphComplete _ => none
  | .phaseComplete _ => none
  | .jobComplete _ => none
  | .slotZeroComplete _ _ => none
  | .watchdogExpiry _ => none
  | .starveBitSet _ _ _ => none
  | .configTokenConsume _ _ _ => none
  | .pulseArrival _ _ => none
  | .ingressToken _ _ _ => none
  | .channelTokenArrival _ _ => none
  | .lateResultWrite _ _ _ => none
  | .feWaitComplete _ _ _ => none
  | .guardPoisonReturn _ => none
  | .stageBResult _ _ _ => none
  | .exactUnitResult _ => none
  | .predicateResultSend _ _ => none
  | .systolicTokenProcess _ _ => none
  | .southEdgeAdd _ _ => none
  | .cornerTurnEmit _ _ => none
  | .slotStreamRequest _ _ => none
  | .bufferDeliveryComplete _ _ => none
  | .cacheFillReturn _ _ => none
  | .cacheWalkEnd _ _ => none
  | .windowExtend _ _ => none
  | .riderPacketCheck _ _ => none
  | .riderTranslate _ => none
  | .translationWalk _ => none
  | .stepBoundary _ => none
  | .riderAlight _ => none
  | .itemAccept _ _ => none
  | .carriageClose _ => none
  | .budgetWindowBoundary => none
  | .classStop _ => none
  | .idlePause _ => none
  | .classResume _ => none
  | .ringClassChange _ => none
  | .copyStart _ => none
  | .copyComplete _ => none
  | .collectiveComplete _ => none
  | .collectiveMemberTimeout _ => none
  | .remoteWriteArrival _ => none
  | .remoteAckTimeout _ => none
  | .messageArrival _ => none
  | .messageHoldExpiry _ => none
  | .drnCompletion _ _ => none
  | .ingressBucketPass _ => none
  | .bucketRateRecompute => none
  | .gateStateChange _ _ => none
  | .gateWrite _ _ => none
  | .rclq _ => none
  | .swpcWrite _ => none
  | .bwldWrite _ _ => none
  | .fresRetry _ => none
  | .fresUnresolvable _ => none
  | .hostTlbi _ => none
  | .tlbiComplete _ => none
  | .sctlFreeze _ => none
  | .sctlThaw _ => none
  | .sctlMove _ => none
  | .translationStoreWrite _ _ _ => none
  | .logdRead => none
  | .hrefRead => none
  | .fdropRead => none
  | .registerWrite _ _ => none
  | .soctlWrite _ _ => none
  | .attestationReport => none
  | .bootc _ => none
  | .hostLinkTrain => none
  | .hostLinkDown => none
  | .scaleoutPortTrain _ => none
  | .ethFrameSend _ => none
  | .ethFrameReceive _ _ => none
  | .powerGood => none
  | .bootStateAdvance => none
  | .bankFailure _ => none
  | .regionFailure _ => none
  | .remoteAcknowledgement _ => none
  | .scaleoutLinkDown _ => none
  | .elementStatusIdleSet _ _ => none
  | .powerLoss => none

/-- The slot word of an instruction that has one. -/
def encode (i : Instr) : Option (BitVec 32) := i.fields.map fun f => BitVec.ofNat 32 f.toWord

/-- The four bytes of a word as memory holds them (R5). -/
def bytesOfWord (w : BitVec 32) : List Byte :=
  [w.extractLsb' 0 8, w.extractLsb' 8 8, w.extractLsb' 16 8, w.extractLsb' 24 8]

/-- The instruction an instruction-table word of `nbits` bits stands for, its bits numbered as the table numbers
them; every slot word has 32 bits. -/
def decodeTableWord (nbits w : Nat) : Option Instr :=
  match decodeBytes (bytesOfWord (BitVec.ofNat 32 (w % 2 ^ nbits))) with
  | .ok (i, _) => some i
  | .error _ => none

end Sys2Proof
end

