-- ==== Sys2Proof/Machine/Assoc.lean ====
section
/-! DEFINITION. Sparse data by number: a list of (key, value) pairs with strictly rising keys.  Everything the
device holds under a number - units, elements, queues, jobs, riders, words of a tile - is kept this way, and no
entry equal to the default of its table is listed where a default is given. -/

namespace Sys2Proof.Machine

/-- A table by number, keys strictly rising. -/
abbrev Assoc (α : Type) := List (Nat × α)

namespace Assoc

/-- The entry under a key. -/
def get? {α : Type} : Assoc α → Nat → Option α
  | [], _ => none
  | (k, v) :: t, n => if k = n then some v else get? t n

/-- The entry under a key, or the default. -/
def getD {α : Type} (m : Assoc α) (n : Nat) (d : α) : α := (get? m n).getD d

/-- The entry under a key written, in key order. -/
def set {α : Type} : Assoc α → Nat → α → Assoc α
  | [], n, v => [(n, v)]
  | (k, w) :: t, n, v =>
    if n < k then (n, v) :: (k, w) :: t
    else if n = k then (n, v) :: t
    else (k, w) :: set t n v

/-- Every entry under a key removed. -/
def erase {α : Type} : Assoc α → Nat → Assoc α
  | [], _ => []
  | (k, w) :: t, n => if k = n then erase t n else (k, w) :: erase t n

/-- A write that keeps the table free of default entries. -/
def put {α : Type} [DecidableEq α] (m : Assoc α) (n : Nat) (v d : α) : Assoc α :=
  if v = d then erase m n else set m n v

/-- An entry changed where it stands. -/
def upd {α : Type} : Assoc α → Nat → (α → α) → Assoc α
  | [], _, _ => []
  | (k, w) :: t, n, f => if k = n then (k, f w) :: t else (k, w) :: upd t n f

/-- Every value changed. -/
def mapVals {α : Type} (m : Assoc α) (f : Nat → α → α) : Assoc α := m.map fun p => (p.1, f p.1 p.2)

/-- The values. -/
def vals {α : Type} (m : Assoc α) : List α := m.map Prod.snd

/-- The keys. -/
def keys {α : Type} (m : Assoc α) : List Nat := m.map Prod.fst

/-- Keys strictly rise. -/
def sorted {α : Type} : Assoc α → Bool
  | [] => true
  | [_] => true
  | (k, _) :: (k', v') :: t => decide (k < k') && sorted ((k', v') :: t)

end Assoc

/-- The `n`-th place of a list changed. -/
def listUpd {α : Type} : List α → Nat → (α → α) → List α
  | [], _, _ => []
  | x :: t, 0, f => f x :: t
  | x :: t, n + 1, f => x :: listUpd t n f

/-- The `n`-th place of a list taken out. -/
def listDel {α : Type} : List α → Nat → List α
  | [], _ => []
  | _ :: t, 0 => t
  | x :: t, n + 1 => x :: listDel t n

/-- An element put in a list before the first one it precedes. -/
def insertBy {α : Type} (lt : α → α → Bool) (x : α) : List α → List α
  | [] => [x]
  | y :: t => if lt x y then x :: y :: t else y :: insertBy lt x t

/-- A list in order, equal elements as they stood. -/
def sortBy {α : Type} (lt : α → α → Bool) (l : List α) : List α := l.foldl (fun acc x => insertBy lt x acc) []

end Sys2Proof.Machine
end

