-- ==== Sys2Proof/Machine/Flags.lean ====
section
/-! DEFINITION. The sticky flags of an element (R40) and the rounding modes of a section (R36). -/

namespace Sys2Proof.Machine

/-- The eight flags (R40), bit 0 invalid to bit 7 nfgeom. -/
abbrev Flags := BitVec 8

namespace Flags
/-- An invalid operation, or a signalling NaN consumed. -/
def invalid : Flags := 0x01
/-- An exact infinity from a finite operand. -/
def divzero : Flags := 0x02
/-- A rounded result beyond the greatest finite value, where an infinity exists. -/
def overflow : Flags := 0x04
/-- Tiny and inexact, or flushed. -/
def underflow : Flags := 0x08
/-- A rounding changed the value. -/
def inexact : Flags := 0x10
/-- An argument outside an instruction's reduced range. -/
def range : Flags := 0x20
/-- A value clamped to the destination's range. -/
def saturation : Flags := 0x40
/-- A masked non-finite geometry input. -/
def nfgeom : Flags := 0x80

/-- The flag `f` when the condition holds, else no flag. -/
def when (c : Bool) (f : Flags) : Flags := if c then f else 0
end Flags

/-- The rounding modes (R36); `sr` is the stochastic rounding of one firing. -/
inductive RMode where
  | rne
  | rtz
  | rup
  | rdn
  | sr
  deriving DecidableEq, Repr

/-- The rounding mode of a section's configuration, bits [1:0] (R36, R167). -/
def RMode.ofCode (c : Nat) : RMode :=
  match c % 4 with
  | 0 => .rne
  | 1 => .rtz
  | 2 => .rup
  | _ => .rdn

/-- One draw of the stochastic generator, the new state (R38). -/
def srDraw (st : BitVec 32) : BitVec 32 :=
  if st.getLsbD 0 then (st >>> 1) ^^^ 0x80200003 else st >>> 1

/-- The stochastic state at arming, for a section's seed and a section-relative element number (R38). -/
def srSeed (seed : BitVec 32) (e : Nat) : BitVec 32 :=
  let x := seed ^^^ BitVec.ofNat 32 (e * 0x9E3779B9)
  if x = 0 then 1 else x

end Sys2Proof.Machine
end

