-- ==== Sys2Proof/Machine/Real.lean ====
section
/-! DEFINITION. Exact arithmetic: a dyadic real is an integer times a power of two.  Everything the X3 adds and
multiplies is one of these; quotients, roots and the functions of R222 are cut to a dyadic real that lies strictly
between the same two neighbours of every result format, so that rounding it rounds the exact value (R11, R37). -/

namespace Sys2Proof.Machine

/-- The real number m * 2^e. -/
structure Dy where
  m : Int
  e : Int
  deriving DecidableEq, Repr

namespace Dy

/-- Zero. -/
def zero : Dy := ⟨0, 0⟩

/-- The integer significand of `x` at exponent `e`, which is at most `x.e`. -/
def at_ (x : Dy) (e : Int) : Int := x.m * 2 ^ (x.e - e).toNat

/-- x + y. -/
def add (x y : Dy) : Dy :=
  if x.m = 0 then y else if y.m = 0 then x else
  let e := min x.e y.e
  ⟨x.at_ e + y.at_ e, e⟩

/-- -x. -/
def neg (x : Dy) : Dy := ⟨-x.m, x.e⟩

/-- x - y. -/
def sub (x y : Dy) : Dy := x.add y.neg

/-- x * y. -/
def mul (x y : Dy) : Dy := ⟨x.m * y.m, x.e + y.e⟩

/-- |x|. -/
def abs (x : Dy) : Dy := ⟨x.m.natAbs, x.e⟩

/-- x < y. -/
def lt (x y : Dy) : Bool :=
  let e := min x.e y.e
  x.at_ e < y.at_ e

/-- x ≤ y. -/
def le (x y : Dy) : Bool := !(y.lt x)

/-- x = y. -/
def eq (x y : Dy) : Bool :=
  let e := min x.e y.e
  x.at_ e == y.at_ e

/-- The exact sum of a list. -/
def sum (l : List Dy) : Dy := l.foldl add zero

/-- floor(x * 2^k), as an integer. -/
def floorAt (x : Dy) (k : Int) : Int :=
  if 0 ≤ x.e + k then x.m * 2 ^ (x.e + k).toNat else x.m / 2 ^ (-(x.e + k)).toNat

end Dy

/-- The number of bits of a natural number. -/
def bitLen (n : Nat) : Nat := if n = 0 then 0 else n.log2 + 1

/-- One step of the integer square root: try bit `k` of the root. -/
def isqrtGo (n : Nat) : Nat → Nat → Nat
  | 0, r => r
  | k + 1, r =>
    let r' := r + 2 ^ k
    if r' * r' ≤ n then isqrtGo n k r' else isqrtGo n k r

/-- The greatest r with r * r ≤ n. -/
def isqrt (n : Nat) : Nat := isqrtGo n (bitLen n / 2 + 1) 0

/-- m * 2^e rounded towards the middle of its interval: `exact` says that the value is m * 2^e itself, otherwise
it lies strictly between m * 2^e and (m + 1) * 2^e, and (2 m + 1) * 2^(e - 1) stands for it. -/
def jam (exact : Bool) (m : Nat) (e : Int) : Dy :=
  if exact then ⟨m, e⟩ else ⟨2 * m + 1, e - 1⟩

/-- The quotient of two positive dyadic magnitudes, cut to at least 128 bits. -/
def divMag (x y : Dy) : Dy :=
  let k := 130 + bitLen y.m.natAbs
  let n := x.m.natAbs * 2 ^ k
  let q := n / y.m.natAbs
  jam (q * y.m.natAbs == n) q (x.e - y.e - k)

/-- A positive dyadic magnitude with an even exponent. -/
def evenExp (x : Dy) : Nat × Int :=
  if x.e % 2 = 0 then (x.m.natAbs, x.e) else (2 * x.m.natAbs, x.e - 1)

/-- The square root of a positive dyadic magnitude, cut to at least 128 bits. -/
def sqrtMag (x : Dy) : Dy :=
  let (m, e) := evenExp x
  let n := m * 2 ^ 260
  let r := isqrt n
  jam (r * r == n) r (e / 2 - 130)

/-- 1 / sqrt(x) of a positive dyadic magnitude, cut to at least 128 bits. -/
def rsqrtMag (x : Dy) : Dy :=
  let (m, e) := evenExp x
  let k := 130 + bitLen m
  let n := 2 ^ (2 * k)
  let r := isqrt (n / m)
  jam (r * r * m == n) r (-(e / 2) - k)

end Sys2Proof.Machine
end

