-- ==== Sys2Proof/Machine/Round.lean ====
section
/-! DEFINITION. The floating formats of the catalogue, their lanes as real values, and the one rounding function
(02_tokens_and_numbers.md, R29, R30, R36, R37, R39). -/

namespace Sys2Proof.Machine

/-- What a floating format has besides finite values (R30). -/
inductive Specials where
  /-- Infinities and NaNs, as IEEE 754 and E5M2 have them. -/
  | ieee
  /-- E4M3: no infinity, one NaN pattern per sign. -/
  | e4m3
  /-- E3M2, E2M3, E2M1: neither. -/
  | none
  deriving DecidableEq, Repr

/-- A floating format: width, fraction bits, bias, special values, greatest finite value and whether the flush
bit applies to it (R30, R36). -/
structure FFmt where
  w : Nat
  mb : Nat
  bias : Nat
  spec : Specials
  maxM : Nat
  maxE : Int
  flush : Bool
  deriving DecidableEq, Repr

namespace FFmt

def fp64 : FFmt := ⟨64, 52, 1023, .ieee, 2 ^ 53 - 1, 971, true⟩
def fp32 : FFmt := ⟨32, 23, 127, .ieee, 2 ^ 24 - 1, 104, true⟩
def fp16 : FFmt := ⟨16, 10, 15, .ieee, 2 ^ 11 - 1, 5, true⟩
def bf16 : FFmt := ⟨16, 7, 127, .ieee, 2 ^ 8 - 1, 120, true⟩
def e4m3 : FFmt := ⟨8, 3, 7, .e4m3, 14, 5, false⟩
def e5m2 : FFmt := ⟨8, 2, 15, .ieee, 7, 13, false⟩
def e3m2 : FFmt := ⟨6, 2, 3, .none, 7, 2, false⟩
def e2m3 : FFmt := ⟨6, 3, 1, .none, 15, -1, false⟩
def e2m1 : FFmt := ⟨4, 1, 1, .none, 3, 1, false⟩

/-- The exponent of the last place of a subnormal, 1 - bias - mb. -/
def emin (f : FFmt) : Int := 1 - (f.bias : Int) - (f.mb : Int)

/-- Exponent field width. -/
def eb (f : FFmt) : Nat := f.w - 1 - f.mb

/-- The sign bit. -/
def signBit (f : FFmt) (neg : Bool) : Nat := if neg then 2 ^ (f.w - 1) else 0

/-- The quiet bit, the top fraction bit. -/
def quietBit (f : FFmt) : Nat := 2 ^ (f.mb - 1)

/-- The exponent field of infinities and NaNs. -/
def eTop (f : FFmt) : Nat := 2 ^ f.eb - 1

/-- An infinity. -/
def infBits (f : FFmt) (neg : Bool) : Nat := f.signBit neg + f.eTop * 2 ^ f.mb

/-- The greatest finite value. -/
def maxDy (f : FFmt) : Dy := ⟨f.maxM, f.maxE⟩

/-- Its bits. -/
def maxBits (f : FFmt) (neg : Bool) : Nat :=
  f.signBit neg + (f.maxE - f.emin + 1).toNat * 2 ^ f.mb + (f.maxM - 2 ^ f.mb)

/-- The least positive normal value, 2^(1 - bias). -/
def minNormal (f : FFmt) : Dy := ⟨1, 1 - f.bias⟩

/-- The X3's default NaN: positive, only the top fraction bit set; 0x7F in E4M3 (R30). -/
def defaultNaN (f : FFmt) : Nat :=
  match f.spec with
  | .ieee => f.eTop * 2 ^ f.mb + f.quietBit
  | .e4m3 => 0x7F
  | .none => 0

end FFmt

/-- What a lane holds: a NaN with sign, quietness and fraction, an infinity, or a finite value with its sign
(m * 2^e; m = 0 is a signed zero). -/
inductive FVal where
  | nan (neg quiet : Bool) (frac : Nat)
  | inf (neg : Bool)
  | fin (neg : Bool) (m : Nat) (e : Int)
  deriving DecidableEq, Repr

namespace FVal

def isNaN : FVal → Bool
  | .nan _ _ _ => true
  | _ => false

/-- A signalling NaN. -/
def isSNaN : FVal → Bool
  | .nan _ q _ => !q
  | _ => false

def isInf : FVal → Bool
  | .inf _ => true
  | _ => false

def isZero : FVal → Bool
  | .fin _ m _ => m == 0
  | _ => false

def isFinite : FVal → Bool
  | .fin _ _ _ => true
  | _ => false

/-- The sign bit. -/
def isNeg : FVal → Bool
  | .nan n _ _ => n
  | .inf n => n
  | .fin n _ _ => n

/-- The exact value of a finite lane, zero for the rest. -/
def dy : FVal → Dy
  | .fin n m e => ⟨if n then -(m : Int) else m, e⟩
  | _ => Dy.zero

/-- The value with its sign inverted. -/
def neg' : FVal → FVal
  | .nan n q f => .nan (!n) q f
  | .inf n => .inf (!n)
  | .fin n m e => .fin (!n) m e

end FVal

/-- A lane of a floating format (R30, R39); `flush` is the section's flush bit. -/
def FFmt.decode (f : FFmt) (flush : Bool) (bits : Nat) : FVal :=
  let neg := bits / 2 ^ (f.w - 1) % 2 == 1
  let ex := bits / 2 ^ f.mb % 2 ^ f.eb
  let fr := bits % 2 ^ f.mb
  let finite : FVal :=
    if ex = 0 then
      if flush && f.flush then .fin neg 0 0 else .fin neg fr f.emin
    else .fin neg (2 ^ f.mb + fr) (f.emin + (ex - 1 : Nat))
  match f.spec with
  | .ieee =>
    if ex = f.eTop then (if fr = 0 then .inf neg else .nan neg (f.quietBit ≤ fr) fr) else finite
  | .e4m3 => if ex = f.eTop && fr == 7 then .nan neg true 7 else finite
  | .none => finite

/-- m / 2^sh rounded to an integer for a value of sign `neg`, and whether it changed (the case of R37). -/
def roundNat (mode : RMode) (neg : Bool) (draw : BitVec 32) (m sh : Nat) : Nat × Bool :=
  let lo := m / 2 ^ sh
  let rem := m % 2 ^ sh
  if rem = 0 then (lo, false)
  else
    let up :=
      match mode with
      | .rne => decide (2 ^ sh < 2 * rem) || (2 * rem == 2 ^ sh && lo % 2 == 1)
      | .rtz => false
      | .rup => !neg
      | .rdn => neg
      | .sr => decide (draw.toNat / 2 ^ 8 < rem * 2 ^ 24 / 2 ^ sh)
    (if up then lo + 1 else lo, true)

/-- m * 2^e rounded to a multiple of 2^q: the multiple and whether it changed. -/
def roundAt (mode : RMode) (neg : Bool) (draw : BitVec 32) (m : Nat) (e q : Int) : Nat × Bool :=
  if q ≤ e then (m * 2 ^ (e - q).toNat, false) else roundNat mode neg draw m (q - e).toNat

/-- Bits and flags of one lane. -/
structure Lane where
  bits : Nat
  fl : Flags
  deriving DecidableEq, Repr

/-- The last place of the grid at a positive magnitude m * 2^e (R37, the top exponent extended without bound). -/
def FFmt.ulp (f : FFmt) (m : Nat) (e : Int) : Int := max (e + m.log2 - f.mb) f.emin

/-- The bits of n * 2^q, a value of the grid not above the greatest finite one. -/
def FFmt.encode (f : FFmt) (neg : Bool) (n : Nat) (q : Int) : Nat :=
  let ef := (q - f.emin + 1).toNat
  f.signBit neg +
    (if n < 2 ^ f.mb then n
     else if n < 2 ^ (f.mb + 1) then ef * 2 ^ f.mb + (n - 2 ^ f.mb)
     else (ef + 1) * 2 ^ f.mb)

/-- round(x, fmt, mode) for the finite x of sign `neg` and magnitude m * 2^e; a zero keeps the sign its caller
gives it (R37, R412). `flush` is the section's flush bit. -/
def FFmt.round (f : FFmt) (flush : Bool) (mode : RMode) (draw : BitVec 32) (neg : Bool) (m : Nat) (e : Int) : Lane :=
  if m = 0 then ⟨f.signBit neg, 0⟩
  else
    let q := f.ulp m e
    let (n, ch) := roundAt mode neg draw m e q
    let a : Dy := ⟨m, e⟩
    let v : Dy := ⟨n, q⟩
    let big := f.maxDy.lt v
    let keep := mode == .rtz || (mode == .rup && neg) || (mode == .rdn && !neg)
    let tiny := a.lt f.minNormal && ch
    let flushed := flush && f.flush && n != 0 && v.lt f.minNormal
    let fl := Flags.when ch Flags.inexact ||| Flags.when tiny Flags.underflow
    if big then
      match f.spec with
      | .ieee => ⟨if keep then f.maxBits neg else f.infBits neg, fl ||| Flags.overflow⟩
      | _ => ⟨f.maxBits neg, fl ||| Flags.saturation⟩
    else if flushed then ⟨f.signBit neg, fl ||| Flags.underflow ||| Flags.inexact⟩
    else ⟨f.encode neg n q, fl⟩

/-- round of an exact real; `zneg` is the sign of an exact zero (R412). -/
def FFmt.roundDy (f : FFmt) (flush : Bool) (mode : RMode) (draw : BitVec 32) (zneg : Bool) (x : Dy) : Lane :=
  f.round flush mode draw (if x.m = 0 then zneg else decide (x.m < 0)) x.m.natAbs x.e

end Sys2Proof.Machine
end

