-- ==== Sys2Proof/Machine/Formats.lean ====
section
/-! DEFINITION. The format catalogue, lanes, the section palette and the conversions between formats
(02_tokens_and_numbers.md, R28-R31, R35, R36, R39). -/

namespace Sys2Proof.Machine

/-- The catalogue formats (R29). -/
inductive Fmt where
  | raw64
  | fp64
  | fp32
  | fp16
  | bf16
  | e4m3
  | e5m2
  | e3m2
  | e2m3
  | e2m1
  | mxint8
  | int64
  | int32
  | int16
  | int8
  | uint8
  | int4
  | uint4
  | qn4
  | sign
  | bitmap
  | coord
  deriving DecidableEq, Repr

namespace Fmt

/-- The format of a catalogue code; codes 0x16-0x1E are reserved and 0x1F marks an empty entry (R28, R29). -/
def ofCode : Nat → Option Fmt
  | 0x00 => some raw64
  | 0x01 => some fp64
  | 0x02 => some fp32
  | 0x03 => some fp16
  | 0x04 => some bf16
  | 0x05 => some e4m3
  | 0x06 => some e5m2
  | 0x07 => some e3m2
  | 0x08 => some e2m3
  | 0x09 => some e2m1
  | 0x0A => some mxint8
  | 0x0B => some int64
  | 0x0C => some int32
  | 0x0D => some int16
  | 0x0E => some int8
  | 0x0F => some uint8
  | 0x10 => some int4
  | 0x11 => some uint4
  | 0x12 => some qn4
  | 0x13 => some sign
  | 0x14 => some bitmap
  | 0x15 => some coord
  | _ => none

/-- Lane width in bits (R29). -/
def laneW : Fmt → Nat
  | raw64 => 64
  | fp64 => 64
  | fp32 => 32
  | fp16 => 16
  | bf16 => 16
  | e4m3 => 8
  | e5m2 => 8
  | e3m2 => 6
  | e2m3 => 6
  | e2m1 => 4
  | mxint8 => 8
  | int64 => 64
  | int32 => 32
  | int16 => 16
  | int8 => 8
  | uint8 => 8
  | int4 => 4
  | uint4 => 4
  | qn4 => 4
  | sign => 8
  | bitmap => 1
  | coord => 32

/-- Lane count (R29). -/
def lanes : Fmt → Nat
  | e3m2 => 10
  | e2m3 => 10
  | f => 64 / f.laneW

/-- The floating format of a float code. -/
def float? : Fmt → Option FFmt
  | fp64 => some .fp64
  | fp32 => some .fp32
  | fp16 => some .fp16
  | bf16 => some .bf16
  | e4m3 => some .e4m3
  | e5m2 => some .e5m2
  | e3m2 => some .e3m2
  | e2m3 => some .e2m3
  | e2m1 => some .e2m1
  | _ => none

/-- FP64, FP32, FP16 or BF16. -/
def isWide (f : Fmt) : Bool := f == fp64 || f == fp32 || f == fp16 || f == bf16

/-- The five INT formats. -/
def isSInt (f : Fmt) : Bool := f == int64 || f == int32 || f == int16 || f == int8 || f == int4

/-- The two UINT formats. -/
def isUInt (f : Fmt) : Bool := f == uint8 || f == uint4

/-- The seven integer formats. -/
def isInt (f : Fmt) : Bool := f.isSInt || f.isUInt

/-- Least lane value of an integer format, or of MXINT8 in 64ths. -/
def loVal (f : Fmt) : Int := if f.isUInt then 0 else -(2 ^ (f.laneW - 1))

/-- Greatest lane value of an integer format, or of MXINT8 in 64ths. -/
def hiVal (f : Fmt) : Int := if f.isUInt then 2 ^ f.laneW - 1 else 2 ^ (f.laneW - 1) - 1

end Fmt

/-! Lanes of a payload (R29). -/

/-- Lane `i` of width `w`. -/
def laneBits (x : Word) (w i : Nat) : Nat := x.toNat / 2 ^ (w * i) % 2 ^ w

/-- A w-bit number read in two's complement. -/
def sintOf (w n : Nat) : Int := if n < 2 ^ (w - 1) then n else (n : Int) - 2 ^ w

/-- An integer modulo 2^w (`to_bits` of R11). -/
def toBitsN (w : Nat) (v : Int) : Nat := (v % 2 ^ w).toNat

/-- The lanes, lane 0 first, packed from bit 0 upward; bits above the last lane are zero (R29). -/
def packLanes (w : Nat) : List Nat → Nat
  | [] => 0
  | x :: xs => x % 2 ^ w + 2 ^ w * packLanes w xs

/-- A payload from its lanes. -/
def ofLanes (w : Nat) (l : List Nat) : Word := BitVec.ofNat 64 (packLanes w l)

/-- A payload whose lane `i` is `f i`. -/
def genLanes (fm : Fmt) (f : Nat → Nat) : Word := ofLanes fm.laneW ((List.range fm.lanes).map f)

/-- `one` in a format: the integer 1, 1.0, or the bit pattern 1 in each lane (R178). -/
def oneLane : Fmt → Nat
  | .fp64 => 0x3FF0000000000000
  | .fp32 => 0x3F800000
  | .fp16 => 0x3C00
  | .bf16 => 0x3F80
  | .e4m3 => 0x38
  | .e5m2 => 0x3C
  | .e3m2 => 0x0C
  | .e2m3 => 0x08
  | .e2m1 => 0x2
  | .mxint8 => 64
  | _ => 1

/-- The value of an integer lane by its own reading: sint for INT formats, uint for the rest (R178). -/
def intLane (f : Fmt) (bits : Nat) : Int := if f.isSInt then sintOf f.laneW bits else bits

/-- The value of a lane for a conversion or a brick: float formats by R30, integers exactly, MXINT8 as n / 64,
anything else as an unsigned number (R39). -/
def laneVal (f : Fmt) (flush : Bool) (bits : Nat) : FVal :=
  match f.float? with
  | some ff => ff.decode flush bits
  | none =>
    if f = .mxint8 then
      let n := sintOf 8 bits
      .fin (n < 0) n.natAbs (-6)
    else
      let n := intLane f bits
      .fin (n < 0) n.natAbs 0

/-! The palette (R28). -/

/-- Entry `t` of a section's palette, one byte each. -/
def palEntry (pal : Word) (t : Nat) : Nat := laneBits pal 8 (t % 8)

/-- The format of entry `t`, none where it is empty. -/
def palFmt (pal : Word) (t : Nat) : Option Fmt := Fmt.ofCode (palEntry pal t % 32)

/-- Entry `t` is MX-scaled: the mx bit, or codes 0x07-0x0A whatever it holds (R28). -/
def palMx (pal : Word) (t : Nat) : Bool :=
  let e := palEntry pal t
  e / 32 % 2 == 1 || (7 ≤ e % 32 && e % 32 ≤ 10)

/-- The twin tag of a format: the lowest entry holding it with the mx bit clear (R215). -/
def twinTag (pal : Word) (f : Fmt) : Option (BitVec 3) :=
  ((List.range 8).find? fun t => palFmt pal t == some f && palEntry pal t / 32 % 2 == 0).map fun t => BitVec.ofNat 3 t

/-! Conversions (R39). -/

/-- A NaN carried into another float format: source sign and top payload bits, quiet. -/
def nanTo (src dst : FFmt) (neg : Bool) (frac : Nat) : Nat :=
  let fr := if src.mb ≤ dst.mb then frac * 2 ^ (dst.mb - src.mb) else frac / 2 ^ (src.mb - dst.mb)
  dst.signBit neg + dst.eTop * 2 ^ dst.mb + (if fr % (2 * dst.quietBit) < dst.quietBit then fr + dst.quietBit else fr)

/-- A real rounded to a whole number of 2^q and clamped to [lo, hi] (R39): the number and the flags. -/
def roundClamp (mode : RMode) (draw : BitVec 32) (neg : Bool) (m : Nat) (e q : Int) (lo hi : Int) : Int × Flags :=
  let (n, ch) := if m = 0 then (0, false) else roundAt mode neg draw m e q
  let v : Int := if neg then -(n : Int) else n
  let c := max lo (min v hi)
  (c, Flags.when ch Flags.inexact ||| Flags.when (c != v) Flags.saturation)

/-- A value converted into a catalogue format (R39): `sf` is the float format it comes from, if it is one, `clip`
says that a finite value saturated in a format without infinity is also inexact, `draw` is the stochastic draw. -/
def convVal (sf : Option FFmt) (clip : Bool) (dst : Fmt) (flush : Bool) (mode : RMode) (draw : BitVec 32) (v : FVal) :
    Lane :=
  match dst.float? with
  | some df =>
    match v with
    | .nan neg quiet frac =>
      let fl := Flags.when (!quiet) Flags.invalid
      match df.spec with
      | .ieee =>
        match sf with
        | some sf => ⟨nanTo sf df neg frac, fl⟩
        | none => ⟨df.defaultNaN, fl⟩
      | .e4m3 => ⟨df.signBit neg + 0x7F, fl⟩
      | .none => ⟨0, Flags.invalid⟩
    | .inf neg =>
      match df.spec with
      | .ieee => ⟨df.infBits neg, 0⟩
      | _ => ⟨df.maxBits neg, Flags.saturation⟩
    | .fin neg m e =>
      let r := df.round flush mode draw neg m e
      if clip && r.fl &&& Flags.saturation != 0 then ⟨r.bits, r.fl ||| Flags.inexact⟩ else r
  | none =>
    let q : Int := if dst = .mxint8 then -6 else 0
    match v with
    | .nan _ _ _ => ⟨0, Flags.invalid⟩
    | .inf neg => ⟨toBitsN dst.laneW (if neg then dst.loVal else dst.hiVal), Flags.invalid ||| Flags.saturation⟩
    | .fin neg m e =>
      let (n, fl) := roundClamp mode draw neg m e q dst.loVal dst.hiVal
      ⟨toBitsN dst.laneW n, fl⟩

/-- One lane of CVT: lane bits of `src` into `dst` (R39).  The caller has excluded RAW64 and the formats CVT
refuses. -/
def convertLane (src dst : Fmt) (flush : Bool) (mode : RMode) (draw : BitVec 32) (bits : Nat) : Lane :=
  convVal src.float? src.float?.isSome dst flush mode draw (laneVal src flush bits)

/-- CVT converts this pair of formats, neither of them RAW64 (R39). -/
def cvtPair (src dst : Fmt) : Bool :=
  let bad := fun f => f == Fmt.qn4 || f == Fmt.sign || f == Fmt.bitmap || f == Fmt.coord || f == Fmt.raw64
  !bad src && !bad dst

/-- The grid of every real with at most `w` significant bits: round(v, SIGW(w), RNE) (R226). -/
def sigw (w : Nat) (x : Dy) : Dy :=
  if x.m = 0 then x
  else
    let k := bitLen x.m.natAbs
    if k ≤ w then x
    else
      let (n, _) := roundNat .rne false 0 x.m.natAbs (k - w)
      ⟨if x.m < 0 then -(n : Int) else n, x.e + (k - w : Nat)⟩

/-- The natural width of a format (R226). -/
def natWidth : Fmt → Nat
  | .fp64 => 53
  | .fp32 => 24
  | .fp16 => 11
  | .bf16 => 8
  | .e4m3 => 4
  | .e5m2 => 3
  | .e3m2 => 3
  | .e2m3 => 4
  | .e2m1 => 2
  | .mxint8 => 8
  | .int64 => 64
  | .int32 => 32
  | .int16 => 16
  | .int8 => 8
  | .uint8 => 9
  | .int4 => 4
  | .uint4 => 5
  | .qn4 => 9
  | _ => 64

/-- The width of a pairing code (R156). -/
def pairWidth : Nat → Nat
  | 0 => 2
  | 1 => 4
  | 2 => 6
  | 3 => 8
  | 4 => 12
  | 5 => 16
  | 6 => 24
  | _ => 53

/-- The QN4 numerators (R32). -/
def qn4 (c : Nat) : Int :=
  match c % 16 with
  | 0 => -128
  | 1 => -91
  | 2 => -69
  | 3 => -53
  | 4 => -40
  | 5 => -28
  | 6 => -16
  | 7 => -5
  | 8 => 5
  | 9 => 16
  | 10 => 28
  | 11 => 40
  | 12 => 53
  | 13 => 69
  | 14 => 91
  | _ => 128

end Sys2Proof.Machine
end

