-- ==== Sys2Proof/Machine/State.lean ====
section
/-! DEFINITION. Everything the manual gives the machine to hold, as plain data, and the machine right after reset.
The chapters are 04 (elements, units, work), 05 (sweep, stores), 09 (bricks), 11 (geometry), 15 (host, registers),
16 (translation, faults, freeze) and 17 (links, bring-up); INVENTORY.md lists every piece with its rule. -/

namespace Sys2Proof.Machine

/-! ## Elements -/

/-- A data register g0-g7: contents, presence, pending, tag (R61, R66, R67). -/
structure GReg where
  val : Word := 0
  present : Bool := false
  pending : Bool := false
  tag : BitVec 3 := 0
  deriving DecidableEq, Repr

/-- The type of an accumulator (R225, R230). -/
inductive AccTy where
  | none
  | int32
  | fp32
  | fp64
  deriving DecidableEq, Repr

/-- An accumulator: its type and its 256 lanes of 32 bits, lanes that are zero not listed; an FP64 lane i is the
32-bit lanes 2i (low half) and 2i + 1 (R61, R225). -/
structure Acc where
  ty : AccTy := .none
  lanes : Assoc (BitVec 32) := []
  deriving DecidableEq, Repr

/-- The micro-block: rows, columns, format, weight lanes by number (a weight not listed is +0), QN4 block codes
(R225, R228). -/
structure MicroBlock where
  k : Nat := 1
  n : Nat := 1
  fmt : Fmt := .int8
  w : Assoc Nat := []
  bq : List Nat := [0, 0, 0, 0, 0, 0]
  deriving DecidableEq, Repr

/-- An input channel: the tokens its rules see, the tokens still in front of an intersection merge (R68), the last
data coordinate that reached the merge, whether the rest of a burst is being discarded (R70), whether a burst is
open at the tail of the queue (R70), and whether drain has passed (R72). -/
structure Chan where
  q : List Token := []
  raw : List Token := []
  last : Option (BitVec 32) := none
  skip : Bool := false
  passed : Bool := false
  deriving DecidableEq, Repr

/-- The power state of a gated half (R76). -/
inductive Gate where
  | on
  | retention
  | off
  deriving DecidableEq, Repr

/-- What the picker of an element is doing: running, stopped for the rest of the unit by HALT or a trap (R197,
R371), stopped by BRK (R351), or waiting under IDLE, with the cycle at which IDLE's limit ends, if it has one, and
what could wake it as it stood then (R355). -/
inductive Picker where
  | run
  | halted
  | trapped
  | brk
  | idle (limit : Option Nat) (sig : List Nat)
  deriving DecidableEq, Repr

/-- One operand as read: the channel token it is, its 64-bit payload, its tag when it is tagged, and whether it is
the source `one` (R152, R178). -/
structure OpVal where
  tok : Option Token := none
  bits : Word := 0
  tag : Option (BitVec 3) := none
  isOne : Bool := false
  deriving DecidableEq, Repr

/-- What a firing reads at its first beat and keeps: its register operands, its destination register, p0, and the
registers of a pair and a quad (R65, R188, R199, R252). -/
structure Captured where
  a : OpVal := {}
  b : OpVal := {}
  dst : GReg := {}
  p0 : Bool := false
  words : List Word := []
  /-- The trigger entry and the slot descriptor of the firing (R63, R165). -/
  entry : BitVec 64 := 0
  desc : BitVec 32 := 0
  deriving DecidableEq, Repr

/-- What a firing carries from beat to beat: whether a test held so far, gathered words, a count, the first poison
token, a token, and tokens of an instance that is not whole yet (R293; R374 names this a firing's partial state). -/
structure Carry where
  ok : Bool := true
  any : Bool := false
  ws : List Word := []
  n : Nat := 0
  poison : Option Token := none
  tok : Option Token := none
  toks : List Token := []
  deriving DecidableEq, Repr

/-- A firing that waits at a beat with the datapath held: for credit, for a token, or frozen (R182, R293, R374). -/
structure Firing where
  slot : Nat
  beat : Nat
  cap : Captured
  carry : Carry
  deriving DecidableEq, Repr

/-- Where a late result goes (R224, R253). -/
inductive LateDst where
  | reg (n : Fin 8)
  | out (d : ODst)
  | none
  deriving DecidableEq, Repr

/-- A result under way: its destination, the token it will be once known (payload and tag are what a register
takes), whether a token is due at all, the cycle before which it does not arrive, whether it is its firing's last,
the number of the request that brings it, and the accumulator it was read from. -/
structure Late where
  dst : LateDst
  tok : Option Token := none
  send : Bool := true
  due : Nat := 0
  last : Bool := true
  req : Nat := 0
  /-- The accumulator an ACRD still reads (R64, R235). -/
  acc : Option (Fin 4) := none
  /-- Mark, tag and coordinate of the token that is to come; where `poisoned`, the copy of a poison operand that an
  output receives whatever comes (R181). -/
  pre : Token := ⟨0, 0, 0, 0⟩
  poisoned : Bool := false
  /-- Flags raised when the result returns (R260). -/
  fl : Flags := 0
  deriving DecidableEq, Repr

/-- The predicates, each with its S variant (R291). -/
inductive Pred where
  | ori2
  | ori3
  | incr
  | insp
  | segx
  deriving DecidableEq, Repr

/-- Where an instance of a predicate stands: escalated to stage B, at the exact unit, or decided with the token it
sends (R296-R299, R304, R305). -/
inductive GeoStage where
  | inB
  | inC
  | known (t : Token)
  deriving DecidableEq, Repr

/-- An entry of the reorder window: the instance's predicate, whether it is an S variant, whether stages are
reported, its points as coordinates with their indices, its output, the tag T of its firing, its stage, and the cycle
at which stage B ends, its request reached the exact unit, or its result is known (R304, R315, R316). -/
structure GeoInst where
  pred : Pred
  sym : Bool
  stg : Bool
  pts : List (List Dy × BitVec 32)
  dst : ODst
  tag : BitVec 3
  stage : GeoStage
  due : Nat
  deriving DecidableEq, Repr

/-- A vector of partial sums of a systolic column (R232); at the south edge with the columns of the micro-block that
made its last sums (R233, R234). -/
structure PsVec where
  lanes : List (BitVec 32)
  fp : Bool
  poison : Bool
  n : Nat := 1
  deriving DecidableEq, Repr

/-- What `.element` fixes (R168): systolic, gated, pair modes (0 off, 1 intersect, 2 union, 3 leftjoin) and
whole-burst inputs. -/
structure ElemCfg where
  systolic : Bool := false
  gated : Bool := false
  m01 : Nat := 0
  m23 : Nat := 0
  whole : BitVec 4 := 0
  deriving DecidableEq, Repr

/-- An element (R61, R74, R75, R76, R225): configuration, registers, queues and what is under way in it. -/
structure Elem where
  cfg : ElemCfg := {}
  /-- Slot words of the valid slots. -/
  slots : Assoc (BitVec 32) := []
  /-- Slot descriptors (R165); one not listed is zero. -/
  desc : Assoc (BitVec 32) := []
  /-- Valid trigger entries (R162). -/
  trig : Assoc (BitVec 64) := []
  g : Vector GReg 8 := Vector.replicate 8 {}
  k : Vector Word 8 := Vector.replicate 8 0
  /-- p0-p6; p7 reads 1. -/
  p : BitVec 8 := 0
  acc : Vector Acc 4 := Vector.replicate 4 {}
  ins : Vector Chan 4 := Vector.replicate 4 {}
  /-- The counters of c0-c3, 0-32. -/
  ctl : Vector Nat 4 := Vector.replicate 4 0
  wave : BitVec 8 := 0
  fl : Flags := 0
  sr : BitVec 32 := 1
  mb : MicroBlock := {}
  mx : Vector (BitVec 8) 4 := Vector.replicate 4 127
  /-- Starve bits, and per slot the cycle since which its trigger has held unfired (R74). -/
  starve : BitVec 32 := 0
  starveAt : Assoc Nat := []
  /-- The cycle of the last starve bits set, and the bits set in it (R10). -/
  starveNow : Nat × BitVec 32 := (0, 0)
  last : BitVec 5 := 0
  idleBit : Bool := false
  gate : Gate := .on
  /-- g4-g7 while the half is in retention or off are kept in `g`; nothing can reach them (R76). -/
  pick : Picker := .run
  firing : Option Firing := none
  late : List Late := []
  /-- The cycle up to which a firing holds the datapath. -/
  busy : Nat := 0
  win : List GeoInst := []
  /-- Stage B runs in the bricks until this cycle (R305). -/
  brickBusy : Nat := 0
  /-- Partial-sum vectors from the north, the vectors taken southward and not yet gone (R232), additions due at
  the south edge with their token's coordinate and mark (R233), and whether a token is in process until `sysBusy`. -/
  psIn : List PsVec := []
  south : List (PsVec × Token) := []
  sysBusy : Nat := 0
  /-- Fences in force: scope and the number below which requests are the element's earlier ones (R134). -/
  fences : List (Scope × Nat) := []
  /-- WLD holds the datapath until this cycle (R234). -/
  wldBusy : Nat := 0
  /-- The tag walk of CINV or CWB runs until this cycle (R265). -/
  walkEnd : Nat := 0
  /-- The element has passed drain (R72). -/
  drained : Bool := false
  /-- A fault holds a request of this element, so it fires nothing (R269). -/
  heldBy : Option Nat := none
  /-- PERF counters 0-3, and the cycle from which a held trigger whose resources are busy is still to be counted in counter 1,
  with the cycle in which the last of them is free where that is known (R355). -/
  perf : Vector Nat 4 := Vector.replicate 4 0
  heldAt : Option (Nat × Option Nat) := none
  /-- Packages to which a WREM of the element has been refused or has failed (R394). -/
  farFailed : List Nat := []
  /-- The cycle of the last firing (R75). -/
  lastFire : Nat := 0
  /-- Configuration words that cannot be corrected: slot words 0-31, trigger entries 32-95, descriptors 96-127, k-registers
  128-135 (R174). -/
  badCfg : List Nat := []
  deriving DecidableEq, Repr

/-! ## Sections, tiles, routes, bindings -/

/-- The roles of a memory tile (R111). -/
inductive Role where
  | ab
  | tf
  | cb
  deriving DecidableEq, Repr

/-- An end of a route (R169). -/
inductive Endpoint where
  | chan (row col ch : Nat)
  | tile (i : Nat)
  | port (n : Nat)
  | none
  deriving DecidableEq, Repr

/-- A route: ends, admitted tags, corner turn side (0 none) and divert target (R57, R169). -/
structure Route where
  src : Endpoint
  dst : Endpoint
  admits : BitVec 8
  turn : Nat
  divert : Endpoint
  deriving DecidableEq, Repr

/-- The kinds of an edge-port binding (R167). -/
inductive BindKind where
  | unbound
  | host
  | sweep
  | deep
  | copy
  | coll
  | remote
  | seq
  | slot
  deriving DecidableEq, Repr

/-- A binding's configuration (R167). -/
structure BindCfg where
  kind : BindKind := .unbound
  stack : Nat := 0
  deriving DecidableEq, Repr

/-- A buffer table entry's configuration (R113, R167). -/
structure BufCfg where
  valid : Bool := false
  row : Nat := 0
  col : Nat := 0
  rows : Nat := 0
  cols : Nat := 0
  base : Nat := 0
  size : Nat := 0
  deriving DecidableEq, Repr

/-- An element record of an image (R168). -/
structure ElemRec where
  row : Nat
  col : Nat
  cfg : ElemCfg
  slots : Assoc (BitVec 32)
  desc : Assoc (BitVec 32)
  trig : Assoc (BitVec 64)
  /-- Source byte of each k-register: 0 the image value, 1-4 a launch argument. -/
  ksrc : List Nat
  k : List Word
  deriving DecidableEq, Repr

/-- The accesses a tile serves (R254, R256, R258-R260). -/
inductive MemOp where
  | ld
  | lds
  | lde
  | st
  | stf
  | ste
  | amoAdd
  | amoMin
  | amoMax
  | amoAnd
  | amoOr
  | amoXor
  | amoSwp
  | amoCas
  | famoAdd
  | famoMin
  | famoMax
  | push
  | pop
  deriving DecidableEq, Repr

/-- A request to a memory tile, one beat (R250-R254).  `id` numbers it and names the late result it brings. -/
structure MemReq where
  id : Nat
  e : Nat
  slot : Nat
  port : Nat
  stamp : Bool
  tile : Nat
  word : Nat
  op : MemOp
  data : Word := 0
  exp : Word := 0
  fmt : Option Fmt := none
  flush : Bool := false
  tok : Token := ⟨0, 0, 0, 0⟩
  hasDst : Bool := false
  beat : Nat := 0
  deriving DecidableEq, Repr

/-- A memory tile: words not listed are zero, `full` lists the words whose bit is full, `waiting` the requests set
aside, `fifo` the tokens of a TF tile, `bad` words with an uncorrectable error (R111, R112, R253, R256, R383). -/
structure Tile where
  words : Assoc Word := []
  full : Assoc Unit := []
  waiting : List MemReq := []
  fifo : List Token := []
  bad : List Nat := []
  /-- Places of the FIFO, 0 at its head, whose token cannot be corrected (R383). -/
  badFifo : List Nat := []
  passed : Bool := false
  deriving DecidableEq, Repr

/-- A section's configuration (R167). -/
structure SecCfg where
  rows : Nat
  cols : Nat
  mode : Nat
  flush : Bool
  seed : BitVec 32
  pal : Word
  roles : List Role
  routes : List Route
  binds : List BindCfg
  bufs : List BufCfg
  elems : List ElemRec
  /-- Window mode of the CB tiles, for a version 2 image (R116, R172). -/
  window : Bool
  /-- What the image's data records put into its tiles (R58, R407). -/
  tiles : Assoc Tile := []
  deriving DecidableEq, Repr

/-- What is on a route: tokens in flight, pulses in flight, those among them that a fence of their sender holds back,
by the number at which they were sent (R145), and its corner turn (R81, R318): the tokens it holds in
order of arrival, and, once it emits, those still to leave in column order with a mark behind them. -/
structure RouteSt where
  toks : List Token := []
  pulses : Nat := 0
  fenced : List Nat := []
  turn : List Token := []
  order : List Token := []
  deriving DecidableEq, Repr

/-- The states of a buffer (R114). -/
inductive BufPhase where
  | empty
  | filling
  | ready
  | draining
  deriving DecidableEq, Repr

/-- A buffer: its state, its outstanding deliveries, and whether a BUFSET made it filling (R113, R114). -/
structure BufSt where
  phase : BufPhase := .empty
  count : Nat := 0
  byCmd : Bool := false
  /-- Deliveries that have landed and are not yet counted off. -/
  landed : Nat := 0
  deriving DecidableEq, Repr

/-- A rider or TBLB packet waiting at its binding (R270, R272). -/
structure Packet where
  id : Nat
  e : Nat
  slot : Nat
  tblb : Bool
  w0 : Word
  w1 : Word
  par : List Word
  row : List Word := []
  deriving DecidableEq, Repr

/-- A request for words of an operand slot that an element sent by PORT and that stands in its binding's queue: the element,
its number, whether its slot is stamp=wave, and its place, 1 at the head (R119, R122, R134). -/
structure OwnReq where
  e : Nat
  num : Nat
  wave : Bool
  place : Nat
  deriving DecidableEq, Repr

/-- An edge-port binding at run time: its input queue of 16 tokens (R414), its packets (R270), tokens that have
entered while the unit is frozen, the open carriage it feeds, the number of its next item, DRN requests it answers (done
binding, tag), packets and riders sent and not yet completed, whether drain has passed. -/
structure BindSt where
  inq : List Token := []
  packets : List Packet := []
  /-- Under a frozen binding, the rider that each token comes from, 0 where it comes from none (R90, R374). -/
  deliver : List (Nat × Token) := []
  /-- Requests that elements sent into `inq` and that stand there (R122, R134). -/
  own : List OwnReq := []
  carriage : Option Nat := none
  items : Nat := 0
  /-- Requests for a completion token, with how many things must complete first (R284). -/
  drn : List (Nat × Nat × List Nat) := []
  /-- Numbers of the packets, riders, copies or writes sent through it and not yet completed. -/
  open_ : List Nat := []
  passed : Bool := false
  deriving DecidableEq, Repr

/-- A way of the section cache: superblock, per line valid and dirty, the 32 words, evict-first, last use (R115). -/
structure Way where
  sb : Nat
  valid : BitVec 4 := 0
  dirty : BitVec 4 := 0
  data : Assoc Word := []
  ef : Bool := false
  used : Nat := 0
  /-- Words that cannot be corrected, by number in the superblock (R383). -/
  bad : List Nat := []
  deriving DecidableEq, Repr

/-- An access of the section cache that waits for a fill (R263, R264). -/
structure CacheWait where
  item : Nat
  e : Nat
  slot : Nat := 0
  wave : Bool := false
  store : Bool
  va : Nat
  data : Word := 0
  ef : Bool := false
  late : Nat := 0
  /-- A read in window mode at or beyond the head of its window (R116). -/
  direct : Bool := false
  /-- The number at which it was issued (R122, R134). -/
  num : Nat := 0
  deriving DecidableEq, Repr

/-- A window of a CB tile in window mode: base, tail and head addresses, the words it holds, the transport rider under way
that extends it, and the words that could not be read, by address, with their causes (R109, R116, R383). -/
structure CbWin where
  base : Nat
  tail : Nat
  head : Nat
  lastRead : Nat
  data : Assoc Word := []
  used : Nat := 0
  ext : Option Nat := none
  bad : List (Nat × Nat) := []
  deriving DecidableEq, Repr

/-- A tag walk under way: its element and slot, whether the slot is stamp=wave, whether it writes back, its range, the
cycle of its end (R265), and the number at which it was issued (R122, R134). -/
structure CacheWalk where
  e : Nat
  slot : Nat
  wave : Bool
  wb : Bool
  lo : Nat
  hi : Nat
  fin : Nat
  num : Nat
  deriving DecidableEq, Repr

/-- The section cache (R115-R117). -/
structure Cache where
  ways : List Way := []
  waits : List CacheWait := []
  /-- Lines whose fill items were served and have not come back: item, line address, eight words (R263). -/
  fills : List (Nat × Nat × List Word) := []
  /-- Retention registers: base and length of the range each holds (R266). -/
  ret : List (Option (Nat × Nat)) := [none, none, none, none, none, none, none, none]
  /-- Lines whose pins an unmap dropped (R365). -/
  unpin : List Nat := []
  wins : Assoc (List CbWin) := []
  walks : List CacheWalk := []
  deriving DecidableEq, Repr

/-- The life of a unit. -/
inductive UnitPhase where
  /-- Waiting for placement (R337). -/
  | waiting
  /-- Armed and running. -/
  | running
  /-- Draining (R72). -/
  | draining
  /-- Frozen, its image at the given virtual address; it was draining (R374). -/
  | frozen (image : Nat) (draining : Bool)
  /-- Ended. -/
  | ended
  deriving DecidableEq, Repr

/-- A freeze whose wave has passed and whose readout is still to come (R374 step 4): the virtual address of its image, or of a
move the quarter it must go to, if one is given (R378); the element and late result that receive the outcome, none for SRES. -/
structure Readout where
  image : Nat
  move : Bool
  quarter : Option Nat
  who : Option (Nat × Nat × Nat)
  deriving DecidableEq, Repr

/-- A unit: one arming of one section (04, 15, 16). -/
structure UnitSt where
  job : Nat
  tenant : Nat
  secure : Bool
  priv : Bool
  debug : Bool
  launch : Nat
  section_ : Nat
  replica : Nat
  serial : Nat
  args : List Word
  tiles0 : Nat
  cfg : SecCfg
  phase : UnitPhase
  /-- The quarter of its graph (R337). -/
  quarter : Nat
  /-- Device block number of the north-west block (R14). -/
  nw : Nat := 0
  elems : Assoc Elem := []
  mem : Assoc Tile := []
  flight : Assoc RouteSt := []
  bind : Assoc BindSt := []
  bufs : Assoc BufSt := []
  cache : Cache := {}
  /-- Memory requests under way to their tiles (R122, R125). -/
  reqs : List MemReq := []
  /-- Tile count left; none where no count is kept (R72). -/
  count : Option Nat := none
  cancelled : Bool := false
  failed : Bool := false
  uflag : Flags := 0
  armedAt : Nat := 0
  /-- The cycle since which the watchdog has seen nothing move (R73). -/
  quietAt : Nat := 0
  snapFlag : Bool := false
  snapSerial : Option Nat := none
  lastSnap : Nat := 0
  riders : Nat := 0
  drops : Nat := 0
  /-- FRES actions recorded for the thaw: serial and whether unresolvable (R374). -/
  resolved : List (Nat × Bool) := []
  /-- Ranges that a TLBI has unmapped since the section was frozen (R365, R367). -/
  unmapped : List (Nat × Nat) := []
  /-- A freeze that waits to be read out (R374). -/
  readout : Option Readout := none
  /-- A freeze whose image is on its way into memory: the management-path request that writes it, the element and late
  result that receive the outcome, none for SRES, and the size in 64 KiB (R94, R374). -/
  imaging : Option (Nat × Option (Nat × Nat × Nat) × Nat) := none
  /-- The management-path request that writes its snapshot, once it is taken (R94, R379). -/
  snapping : Option Nat := none
  prio : Nat := 0
  order : Nat := 0
  deriving DecidableEq, Repr

/-! ## Work -/

/-- The status of a level (R78, R324). -/
inductive Status where
  | running
  | done
  | cancelled
  | failed
  deriving DecidableEq, Repr

/-- A launch (R78). -/
structure Launch where
  job : Nat
  graph : Nat
  node : Nat
  units : Nat
  ended : Nat := 0
  cancel : Bool := false
  fail : Bool := false
  status : Status := .running
  deriving DecidableEq, Repr

/-- A graph of an image: quarter, node records of 32 bytes, argument blocks of four words (R77, R170). -/
structure Graph where
  quarter : Nat
  nodes : List (List Byte)
  args : List (List Word)
  deriving DecidableEq, Repr

/-- An accepted image (R166-R170, R329). -/
structure Image where
  queue : Nat
  secs : List SecCfg
  graphs : List Graph
  /-- Where its regions lie: physical address and size of each page. -/
  regions : List (Nat × Nat) := []
  deriving DecidableEq, Repr

/-- A walk of a graph (R77): node, remaining turns of each LOOP, the launch each ARM node armed last, all
launches of the walk, whether it waits, was cancelled, or met a bad node, and whether END is taken. -/
structure Walk where
  graph : Nat
  node : Nat := 0
  loops : Assoc Nat := []
  armed : Assoc Nat := []
  launches : List Nat := []
  cancel : Bool := false
  bad : Bool := false
  ended : Bool := false
  completed : Nat := 0
  deriving DecidableEq, Repr

/-- An entry of the job table (R329, R336). -/
structure Job where
  tenant : Nat
  secure : Bool
  priv : Bool
  debug : Bool
  queue : Nat
  hostTag : BitVec 32
  prio : Nat
  image : Nat
  phases : List (List Nat)
  phase : Nat := 0
  pos : Nat := 0
  walk : Option Walk := none
  counters : Assoc Word := []
  /-- Graph cancels that wait for the run they mark (R354). -/
  marks : List Nat := []
  phaseCancel : Bool := false
  jobCancel : Bool := false
  graphWorst : Status := .done
  phaseWorst : Status := .done
  graphStatus : Status := .running
  phaseStatus : Status := .running
  graphsDone : Nat := 0
  phasesDone : Nat := 0
  armed : Nat := 0
  active : Bool := true
  status : Status := .running
  since : Option Nat := none
  /-- Its place among the RUNs of the device (R335). -/
  order : Nat := 0
  /-- Entries of its host receive ring, oldest first: section, replica, binding and token (R281). -/
  recv : List (Nat × Nat × Nat × Token) := []
  deriving DecidableEq, Repr

/-! ## Host interface -/

/-- A ring in host memory: base, size in records, write and read index, records that wait in the host port. -/
structure Ring where
  base : Nat := 0
  size : Nat := 0
  wr : Nat := 0
  rd : Nat := 0
  waiting : List (List Byte) := []
  deriving DecidableEq, Repr

inductive QState where
  | closed
  | opened
  | closing
  deriving DecidableEq, Repr

/-- A host queue (R326-R333). -/
structure Queue where
  st : QState := .closed
  tenant : Nat := 0
  prio : Nat := 0
  secure : Bool := false
  priv : Bool := false
  debug : Bool := false
  credit : Nat := 0
  used : Nat := 0
  /-- Records with whether they came through the management view. -/
  recs : List (List Byte × Bool) := []
  comp : Ring := {}
  log : Ring := {}
  fault : Ring := {}
  pending : List (List Nat) := []
  wait : Option (List Byte) := none
  /-- The CLOSE that it has not completed. -/
  close : Option (List Byte) := none
  /-- Jobs it submitted that have not completed. -/
  jobs : List Nat := []
  /-- Since which window its head record is eligible, and the whole windows for which it was before that (R333). -/
  since : Option Nat := none
  aged : Nat := 0
  /-- The cycle of the last record that came through the user view, and how many at the tail came in it (R357). -/
  userNow : Nat × Nat := (0, 0)
  deriving DecidableEq, Repr

/-- The host port and the arbiter (R326-R332). -/
structure HostPort where
  queues : Assoc Queue := []
  /-- The commands the arbiter took and that have not run, in the order they were taken: queue, record, management view
  (R332). -/
  taken : List (Nat × List Byte × Bool) := []
  deficit : Assoc Nat := []
  turn : Nat := 0
  lastQ : Assoc Nat := []
  images : Assoc Image := []
  nextTake : Nat := 0
  /-- LOADs that have been checked, by queue: the image, and the management-path request that fills its regions (R94,
  R313). -/
  loads : Assoc (Image × Nat) := []
  /-- The cycle in which a CANCEL last took effect (R354). -/
  cancelAt : Option Nat := none
  /-- Of each quarter's sequencer, the job whose graph it walked last, and in which cycle (R331). -/
  walked : Assoc (Nat × Nat) := []
  deriving DecidableEq, Repr

/-! ## Sweep memory -/

/-- A page as a walk gives it (R361). -/
structure Page where
  va : Nat
  size : Nat
  pa : Nat
  read : Bool
  write : Bool
  secure : Bool
  sealed : Bool
  deriving DecidableEq, Repr

/-- An entry of a translation cache (R106, R363). -/
structure TlbEntry where
  tenant : Nat
  page : Page
  deriving DecidableEq, Repr

/-- Where a rider stands (R88, R89, R373); last, off its carriage, its data on their way out of the port (R131). -/
inductive RPhase where
  | arrived
  | held (serial : Nat)
  | ready
  | aboard
  | alighted
  | leaving
  deriving DecidableEq, Repr

/-- Whose rider it is: of a packet; of a walk, which fetches a line of a page table for the rider, item or copy `who`
(R363); of a window, which it extends (R116). -/
inductive RideFor where
  | packet
  | table (who : Nat)
  | window
  deriving DecidableEq, Repr

/-- The kinds of rider (R85). -/
inductive RKind where
  | rd
  | fl
  | red
  | upd
  | gat
  | sca
  | lut
  | tblb
  deriving DecidableEq, Repr

/-- A rider, a carriage or a TBLB at a port (05). -/
structure Rider where
  u : Nat
  e : Nat
  slot : Nat
  bind : Nat
  port : Nat
  job : Nat
  tenant : Nat
  secure : Bool
  kind : RKind
  op : Nat
  base : Nat
  len : Nat
  doneB : Nat
  delivB : Nat
  tag : BitVec 3
  aux3 : Nat
  aux16 : Nat
  par : List Word
  row : List Word := []
  phase : RPhase := .arrived
  pages : List Page := []
  cls : SweepClass := .quick
  stampS : Nat := 0
  stampQ : Nat := 0
  /-- The step of its last visit, its first line in visit order, its carriage number (R92). -/
  last : Nat := 0
  firstLine : Nat := 0
  car : Nat := 0
  /-- Result so far: flags, cause and first unapplied item, count, lines failed. -/
  fl : Flags := 0
  cause : Nat := 0
  firstBad : Option Nat := none
  count : Nat := 0
  /-- RED: exact sum, seen values. FL, GAT: match buffer. LUT and RD op 0 deliver from `out`. -/
  sum : Dy := Dy.zero
  mm : Option Word := none
  seenNaN : Bool := false
  infPos : Bool := false
  infNeg : Bool := false
  /-- Every element so far is -0 (R412). -/
  allNeg : Bool := true
  out : List Token := []
  buf : Nat := 0
  stopped : Bool := false
  pend : Assoc (List Int) := []
  /-- Carriages: closed by end-of-stream, next item number, items accepted and not served, failed items. -/
  closed : Bool := false
  nextItem : Nat := 0
  waiting : Nat := 0
  heldItem : Option Token := none
  cancelled : Bool := false
  buffer : Option Nat := none
  /-- A reduction has applied an element (R412). -/
  applied : Bool := false
  /-- A rider of the machine's own: whose it is, the words it has read by number in its span, the lines that could not be
  read with their causes (R109, R116, R363). -/
  what : RideFor := .packet
  got : Assoc Word := []
  bad : List (Nat × Nat) := []
  deriving DecidableEq, Repr

/-- What a window item does at its visit (R94, R105). -/
inductive ItemKind where
  /-- LDW, for the late result of an element. -/
  | ldw (late : Nat)
  /-- A line fill, or a direct read, of the section cache. -/
  | fill
  /-- A masked line write. -/
  | wb
  /-- A gather or scatter-add item of a carriage. -/
  | gat (rider item : Nat) (coord : BitVec 32)
  | sca (rider : Nat) (item : Nat) (f : Fmt) (v : Word)
  /-- A management-path write of `n` bytes: the item's words, and zero between them (R94, R313). -/
  | mput (n : Nat)
  /-- A management-path read of `n` bytes of an image, from byte `off` of it on (R94, R376). -/
  | mget (n off : Nat)
  deriving DecidableEq, Repr

/-- A window item: sender, virtual and physical address, class, order of acceptance, stamp when it has one, and
for a write its words (address offset, word) (R94, R104, R105, R127). -/
structure Item where
  u : Nat
  e : Nat
  slot : Nat
  wave : Bool
  kind : ItemKind
  va : Nat
  pa : Option Nat := none
  sealed : Bool := false
  cls : SweepClass := .quick
  port : Nat := 0
  stamp : Option (Nat × Nat) := none
  words : List (Nat × Word) := []
  /-- When it was accepted: cycle, and place among what was accepted (R91). -/
  acc : Nat × Nat := (0, 0)
  held : Option Nat := none
  tenant : Nat := 0
  secure : Bool := false
  /-- The number at which the firing that made it issued its request (R71, R122, R134). -/
  ord : Nat := 0
  /-- The management-path request it belongs to, 0 for none (R94). -/
  man : Nat := 0
  /-- It must lie in the deep tier (R374, R379). -/
  deepOnly : Bool := false
  /-- The job, section and replica that a record of its loss names (R368, R369). -/
  sec : Nat × Nat × Nat := (0, 0, 0)
  deriving DecidableEq, Repr

/-- A class of the sweep (R82, R110, R338): step count, whether it is stopped, idle steps so far, whether the step that
runs began with something to do, the tenant that boarded first last time, and the first step whose band is visited after it
has resumed. -/
structure ClassSt where
  step : Nat := 0
  stopped : Bool := false
  idle : Nat := 0
  busy : Bool := false
  turn : Nat := 0
  lead : Nat := 0
  deriving DecidableEq, Repr

/-- A walk that waits for lines of page tables (R360, R363): the address it translates, the table root it began with, and by
address the lines that riders have fetched for it: the cause that failed the line, or 0 and its words. -/
structure Walking where
  va : Nat
  root : Word
  lines : Assoc (Nat × List Word) := []
  deriving DecidableEq, Repr

/-- What a freeze image or a snapshot is read for: a thaw of unit `u`, with the quarter it must lie in, if one, and the element
and late result that receive its outcome, none for SRES (R376, R411); the contents of a section after its blocks have failed
(R381). -/
inductive ImgUse where
  | thaw (u : Nat) (q : Option Nat) (who : Option (Nat × Nat × Nat))
  | rollback (job section_ replica : Nat)
  deriving DecidableEq, Repr

/-- An image that is read over the management path (R94, R376): whose it is, where it lies, how much of it is asked for, the
words read by offset, a word of zero not listed, and whether a part of it could not be read. -/
structure ImgRead where
  tenant : Nat
  secure : Bool
  va : Nat
  len : Nat
  words : Assoc Word := []
  bad : Bool := false
  use : ImgUse
  deriving DecidableEq, Repr

/-- A RIDQ that the port answers at the next boundary: unit, answer binding, tag, class (R273). -/
structure Ridq where
  u : Nat
  bind : Nat
  tag : BitVec 3
  cls : Nat
  deriving DecidableEq, Repr

/-- The sweep: classes, riders, window items, posted ring change, queries, LUT tables and accumulators. -/
structure Sweep where
  quick : ClassSt := {}
  steady : ClassSt := {}
  deep : ClassSt := {}
  riders : Assoc Rider := []
  items : Assoc Item := []
  ridq : List Ridq := []
  /-- Ring and whether it asks for the quick class (R325); granted, it waits for that class's next boundary (R20). -/
  ringReq : Option (Nat × Bool) := none
  ringGo : Bool := false
  /-- Walks that wait for lines of page tables, by the rider, item or copy that is translated (R363). -/
  fetched : Assoc Walking := []
  /-- Images being read, by their management-path request (R94, R376). -/
  reads : Assoc ImgRead := []
  /-- Management-path requests that have failed and whose asker has not learned of it. -/
  manBad : List Nat := []
  /-- LUT table words of 64 bits: by ring-bank row number and word (R101). -/
  lut : Assoc Word := []
  /-- LUT accumulators by bank, set and output (R100). -/
  lutAcc : Assoc Int := []
  /-- Base-die line caches: dirty words by physical word address (R104). -/
  lineCache : Assoc Word := []
  /-- Rows that hold ciphertext: 2 KiB row number and the key they are sealed under (R108). -/
  seals : Assoc Nat := []
  /-- Uncorrectable 32-byte sectors (R109). -/
  badSec : Assoc Unit := []
  deriving DecidableEq, Repr

/-! ## Engines -/

/-- A copy at its engine (R279). -/
structure Copy where
  u : Nat
  e : Nat
  slot : Nat
  bind : Nat
  tenant : Nat
  job : Nat
  secure : Bool
  src : Word
  dst : Word
  len : Nat
  doneB : Nat
  tag : BitVec 3
  started : Bool := false
  sector : Nat := 0
  held : Option Nat := none
  pages : List Page := []
  cause : Nat := 0
  buffer : Option Nat := none
  deriving DecidableEq, Repr

/-- A copy engine: waiting copies by number, the tenant served last (R279, R338). -/
structure CopyEng where
  copies : Assoc Copy := []
  turn : Nat := 0
  deriving DecidableEq, Repr

/-- An operand slot: its holder, or the cycle its zeroing ends; a release that waits; its words (R118). -/
structure OpSlot where
  job : Option Nat := none
  zeroAt : Option Nat := none
  release : Bool := false
  words : Assoc Word := []
  bad : List Nat := []
  deriving DecidableEq, Repr

/-- A remote write or message sent and not acknowledged (R282, R283, R394). -/
structure Remote where
  u : Nat
  e : Nat
  slot : Nat
  bind : Nat
  message : Bool
  full : Bool
  window : Nat
  entry : Word
  addr : Nat
  toks : List Token
  doneB : Nat
  tag : BitVec 3
  sentAt : Nat
  /-- A .full write waits for the earlier writes to its package (R394). -/
  after : List Nat := []
  beat : Nat := 0
  /-- The slot that sent it is stamp=wave (R122). -/
  wave : Bool := false
  deriving DecidableEq, Repr

/-- Traffic that has arrived from another package: a write or a message, the destination it names, the sender's
tenant; of a message how many of its tokens have passed their ingress point, none where they are still to join it, and the
cycle since which it waits for room (R257, R342, R393). -/
structure Arrival where
  message : Bool
  full : Bool
  entry : Word
  tenant : Nat
  addr : Nat
  toks : List Token
  passed : Option Nat := none
  since : Nat
  deriving DecidableEq, Repr

/-- A collective this package takes part in (R280, R395). -/
structure Coll where
  u : Nat
  e : Nat
  slot : Nat
  bind : Nat
  w0 : Word
  w1 : Word
  root : Nat
  sentAt : Nat
  deriving DecidableEq, Repr

/-- A copy that a guard dropped: its sender, done binding and the cycle of its poison token (R406). -/
structure GuardPoison where
  u : Nat
  e : Nat
  bind : Nat
  doneB : Nat
  num : Nat
  due : Nat
  deriving DecidableEq, Repr

/-! ## Faults, freezing, translation -/

/-- What a held fault holds (R373). -/
inductive Held where
  | rider (id : Nat)
  | carriage (id : Nat)
  | item (id : Nat)
  | copy (quarter id : Nat)
  deriving DecidableEq, Repr

/-- A kind 0 fault in force: what it holds, its cause and detail, its unit. -/
structure FaultSt where
  what : Held
  cause : Nat
  detail : Nat
  va : Nat
  u : Nat
  pa : Nat := 0
  deriving DecidableEq, Repr

/-- A TLBI in progress: tenant, range, where its result goes (an element's late result or TLBS), and the
write-back items it waits for once step 4 is done (R365). -/
structure Tlbi where
  tenant : Nat
  lo : Nat
  hi : Nat
  u : Nat := 0
  e : Nat := 0
  late : Option Nat := none
  wrote : Bool := false
  wbs : List Nat := []
  deriving DecidableEq, Repr

/-- A snapshot (R379, R381): the section it belongs to, its serial, and where its image lies. -/
structure Snapshot where
  job : Nat
  section_ : Nat
  replica : Nat
  serial : Nat
  tenant : Nat
  secure : Bool
  addr : Nat
  size : Nat
  deriving DecidableEq, Repr

/-- A section's contents that carry over from unit to unit (R111, R346, R381): where they stand, or none when the
next placement is free. -/
structure Resident where
  job : Nat
  section_ : Nat
  replica : Nat
  tenant : Nat
  secure : Bool
  nw : Option Nat
  mem : Assoc Tile
  bufs : Assoc BufSt
  cache : Cache
  elems : Assoc Elem
  cfg : SecCfg
  snap : Nat
  /-- The configuration and the k-registers are those of a snapshot (R381). -/
  restored : Bool := false
  deriving DecidableEq, Repr

/-! ## Device -/

/-- The two public keys of a key slot (R398): Ed25519 and ML-DSA-65. -/
structure KeyPair where
  ed : BitVec 256 := 0
  ml : BitVec 15616 := 0
  deriving DecidableEq, Repr, Inhabited

/-- The bring-up state (R402). -/
structure Boot where
  powered : Bool := true
  code : Nat := 0
  err : Nat := 0
  sigOk : Bool := false
  fw : BitVec 32 := 0
  /-- The firmware image that has verified, and the keys of slots 1-7 that its bundles have loaded (R398, R400). -/
  firmware : List Byte := []
  keys : Assoc KeyPair := []
  /-- Bytes written to the boot window, by offset. -/
  window : Assoc Byte := []
  image : Option Nat := none
  /-- The host link has trained since power-on. -/
  linked : Bool := false
  deriving DecidableEq, Repr

/-- The power controller's inputs and state (R342-R345): block temperatures, fabric power, bucket credit in 1/256
tokens with the cycle it was brought up to date, budget limits in force, and the quick step of the last recomputation of the rates. -/
structure Power where
  temp : Assoc Nat := []
  pnow : List Nat := [0, 0, 0, 0]
  credit : Assoc Nat := []
  creditAt : Assoc Nat := []
  limit : Assoc Nat := []
  /-- Of a budget whose limit was written: the cycle of the write and the limit before it (R341). -/
  written : Assoc (Nat × Nat) := []
  rated : Nat := 0
  deriving DecidableEq, Repr

/-- A token that waits at an ingress point: the unit and binding it goes to, and the rider whose data it is, 0 where it is
none's (R90, R131, R342, R343); of a message from another package the number it arrived under, 0 else (R257). -/
structure Ingress where
  tenant : Nat
  u : Nat
  n : Nat
  tok : Token
  src : Nat := 0
  msg : Nat := 0
  deriving DecidableEq, Repr

/-- An ingress point: its tokens in order of arrival, and the tenant it served last (R343). -/
structure IngressPt where
  q : List Ingress := []
  turn : Nat := 0
  deriving DecidableEq, Repr

/-- An Ethernet port's ring positions (R397). -/
structure EthSt where
  send : Nat := 0
  recv : Nat := 0
  /-- Frames that have left, oldest first. -/
  sent : List (List Byte) := []
  deriving DecidableEq, Repr

/-- The device clocks (R324, R340). -/
structure Clk where
  cyc : Nat := 0
  win : Nat := 0
  deriving DecidableEq, Repr

/-- The element whose firing an instruction is: unit, element, slot, and whether the memory requests of the firing
stay under way for a later step (R122).  The model's own. -/
structure Focus where
  u : Nat
  e : Nat
  slot : Nat
  defer : Bool := false
  deriving DecidableEq, Repr

/-- A word that an error strikes which its code cannot correct: a word of a unit's memory tile, of an operand slot, a token of a
tile's FIFO, a word of the section cache or of a window, a 32-byte sector of sweep or deep memory, a configuration word of an element
by its number (R109, R174, R383). -/
inductive Decay where
  | tile (u t w : Nat)
  /-- Place `k` of a TF tile's FIFO. -/
  | fifo (u t k : Nat)
  /-- Word `w` of way `k` of the section cache. -/
  | way (u k w : Nat)
  /-- Word `w` of window `k` of the section cache, from its base on. -/
  | window (u k w : Nat)
  | slot (quarter n w : Nat)
  | sector (n : Nat)
  | config (u e n : Nat)
  deriving DecidableEq, Repr

/-- What happens next.  The device's agents act at the same time and the manual fixes no order between them; the
agenda holds happenings that are already determined. The model's own. -/
inductive What where
  /-- The picker of an element runs (R64). -/
  | fire (u e : Nat) (defer : Bool)
  /-- A step of the table that has no word. -/
  | event (i : Instr)
  /-- A memory request reaches its tile (R125). -/
  | serve (u i : Nat)
  /-- The host writes its own memory. -/
  | hostStore (pa : Nat) (bytes : List Byte)
  /-- The block temperatures and fabric powers change (R345). -/
  | climate (temp : Assoc Nat) (pnow : List Nat)
  /-- A stored word fails (R109, R174, R383). -/
  | decay (d : Decay)
  /-- Time passes. -/
  | pass
  deriving DecidableEq, Repr, Inhabited

/-- A happening, and the cycles that pass before it. -/
structure Happening where
  wait : Nat
  what : What
  deriving DecidableEq, Repr, Inhabited

/-- The X3. -/
structure State where
  clk : Clk := {}
  boot : Boot := {}
  /-- System registers that hold a value of their own, by number; one not listed holds its reset value (R324,
  R325, R341, R344, R345, R358, R391). -/
  regs : Assoc Word := []
  /-- Of a register that counts, by number: the cycle in which it last counted, and what it held before that cycle (R10). -/
  counted : Assoc (Nat × Word) := []
  /-- Every byte of sweep memory, the deep tier and host memory that is not zero, by physical address (R18). -/
  mem : List Host.Cell := []
  /-- The translation stores, identical in the four quarters: words by number (R362). -/
  store : Assoc Word := []
  /-- Translation caches, most recently used entry first: sweep ports 0-11, the deep port 12, copy engines 16-19
  (R106, R363). -/
  tcache : Assoc (List TlbEntry) := []
  /-- Operand slots by 512 * quarter + number (R16, R118). -/
  slots : Assoc OpSlot := []
  /-- Of each quarter, the cycle in which a CLAIM was last given a slot, and the element's device number (R404). -/
  claimed : Assoc (Nat × Nat) := []
  units : Assoc UnitSt := []
  launches : Assoc Launch := []
  jobs : Assoc Job := []
  host : HostPort := {}
  sweep : Sweep := {}
  copies : Vector CopyEng 4 := Vector.replicate 4 {}
  remotes : Assoc Remote := []
  arrivals : Assoc Arrival := []
  colls : Assoc Coll := []
  guards : Assoc GuardPoison := []
  faults : Assoc FaultSt := []
  /-- Loss records whose agents wait for a place in a fault ring, oldest first: queue and record (R372). -/
  losses : List (Nat × List Byte) := []
  nextSerial : Nat := 1
  tlbis : Assoc Tlbi := []
  snaps : List Snapshot := []
  snapNext : Nat := 1
  snapPos : Assoc Nat := []
  residents : List Resident := []
  /-- Exact units by block: requests in order of arrival, as unit, element, cycle of arrival (R298, R316). -/
  exact : Assoc (List (Nat × Nat × Nat)) := []
  exactCnt : Assoc Nat := []
  /-- Domain window table by 64 * tenant + window (R393). -/
  windows : Assoc Word := []
  /-- Collective group table bytes, by offset (R395). -/
  groups : Assoc Byte := []
  /-- The key generation of each tenant that has one (R401). -/
  keys : Assoc Nat := []
  keyNext : Nat := 1
  power : Power := {}
  /-- Ingress points by 16 * quarter + point (R342). -/
  ingress : Assoc IngressPt := []
  /-- Tokens held at ingress ports for the next unit of a section, oldest first (R72). -/
  heldIn : List Ingress := []
  eth : Vector EthSt 8 := Vector.replicate 8 {}
  /-- The model's own fields. -/
  agenda : List Happening := []
  focus : Option Focus := none
  freeCtr : Nat := 0
  nextId : Nat := 1
  deriving DecidableEq, Repr

/-- Why a step can stop with a fault. -/
inductive Fault where
  /-- A slot instruction run while no element is in focus, or one that does not exist: raised by every slot
  instruction's meaning, never by a step of the machine, which puts the element it picks in focus.  Safe: the
  machine has no such firing. -/
  | noElement
  /-- The picked slot holds a word that is no instruction: raised by the step.  The loader and CFGW admit no such
  word (R161), so no state the machine reaches gives it.  Safe. -/
  | undecodable
  deriving DecidableEq, Repr

/-- Why an instruction has no meaning in the model. -/
inductive Refusal where
  /-- An instruction not modelled, by its mnemonic: raised by the arm of exec that names it.  Safe. -/
  | notModelled (mnemonic : String)
  deriving DecidableEq, Repr

/-- The machine right after power-good (R402): the boot ROM runs, nothing is open, armed or aboard. -/
def State.reset : State := {}

end Sys2Proof.Machine
end

