-- ==== Sys2Proof/Machine/Memory.lean ====
section
/-! DEFINITION. Memory by 48-bit physical address: sweep tier, deep tier and host memory (R18), in one canonical
form, little-endian (R5). An address that is not listed reads 0: bring-up zeroes sweep and deep memory (R402). -/

namespace Sys2Proof.Machine

/-- Bytes by address: addresses strictly rising, no byte zero. -/
abbrev Memory := List Host.Cell

namespace Memory

/-- What an address that is not listed reads as. -/
def blank : Byte := 0

/-- The byte at an address. -/
def read : Memory → Nat → Byte
  | [], _ => blank
  | (k, v) :: t, a => if k = a then v else read t a

/-- A byte written: a blank byte takes its entry out. -/
def write : Memory → Nat → Byte → Memory
  | [], a, b => if b = blank then [] else [(a, b)]
  | (k, v) :: t, a, b =>
    if a < k then (if b = blank then (k, v) :: t else (a, b) :: (k, v) :: t)
    else if a = k then (if b = blank then t else (a, b) :: t)
    else (k, v) :: write t a b

/-- Every address in the list is above `lo`, they rise strictly, and no byte is blank. -/
def wfFrom : Nat → Memory → Bool
  | _, [] => true
  | lo, (k, v) :: t => decide (lo ≤ k) && (v != blank) && wfFrom (k + 1) t

/-- The canonical form. -/
def wf (m : Memory) : Bool := wfFrom 0 m

/-- Bytes written upward from an address. -/
def writeBytes : Memory → Nat → List Byte → Memory
  | m, _, [] => m
  | m, a, b :: bs => writeBytes (write m a b) (a + 1) bs

/-- `n` bytes upward from an address. -/
def readBytes (m : Memory) (a : Nat) : Nat → List Byte
  | 0 => []
  | n + 1 => read m a :: readBytes m (a + 1) n

end Memory

/-- A little-endian number from its bytes (R5). -/
def natOfBytes : List Byte → Nat
  | [] => 0
  | b :: bs => b.toNat + 256 * natOfBytes bs

/-- The `n` little-endian bytes of a number (R5). -/
def bytesOfNat : Nat → Nat → List Byte
  | 0, _ => []
  | n + 1, x => BitVec.ofNat 8 x :: bytesOfNat n (x / 256)

namespace Memory

/-- An 8-byte word. -/
def word (m : Memory) (a : Nat) : Word := BitVec.ofNat 64 (natOfBytes (readBytes m a 8))

/-- An 8-byte word written. -/
def setWord (m : Memory) (a : Nat) (w : Word) : Memory := writeBytes m a (bytesOfNat 8 w.toNat)

end Memory

/-! The physical address map (R17, R18). -/

/-- What a physical address names. -/
inductive Target where
  | sweep
  | deep
  | host
  | nothing
  deriving DecidableEq, Repr

/-- R18. -/
def targetOf (pa : Nat) : Target :=
  if pa < 0x009000000000 then .sweep
  else if pa < 0x020000000000 then .nothing
  else if pa < 0x040000000000 then .deep
  else if pa < 0x800000000000 then .nothing
  else .host

/-- The ring of a sweep address (R17). -/
def ringOf (pa : Nat) : Nat := pa / 2 ^ 31

/-- The stack of a sweep address (R17). -/
def stackOf (pa : Nat) : Nat := ringOf pa / 24

/-- The band of a sweep or deep address (R17, R83). -/
def bandOf (pa : Nat) : Nat :=
  if targetOf pa = .deep then (pa - 0x020000000000) / 2 ^ 25 % 65536 else pa / 2 ^ 15 % 65536

/-- The bank within its ring of a sweep address (R17). -/
def bankOf (pa : Nat) : Nat := pa / 2 ^ 11 % 16

end Sys2Proof.Machine
end

