-- ==== Sys2Proof/Machine/Ops.lean ====
section
/-! DEFINITION. The named operations over the state: elements and their registers, units, tiles, bindings. Every
meaning reads and writes the machine through these (04_execution.md). -/

namespace Sys2Proof.Machine

/-! ## Elements of a unit -/

/-- Elements across a section: eight to a block (R15). -/
def SecCfg.width (c : SecCfg) : Nat := 8 * c.cols

/-- Elements of a section. -/
def SecCfg.elemCount (c : SecCfg) : Nat := 64 * c.rows * c.cols

/-- Memory tiles across a section: four to a block (R14, R15). -/
def SecCfg.tileWidth (c : SecCfg) : Nat := 4 * c.cols

/-- Memory tiles of a section. -/
def SecCfg.tileCount (c : SecCfg) : Nat := 16 * c.rows * c.cols

/-- Row and column of a section-relative element number (R15). -/
def SecCfg.rowOf (c : SecCfg) (e : Nat) : Nat := e / c.width
def SecCfg.colOf (c : SecCfg) (e : Nat) : Nat := e % c.width

/-- The element as arming leaves it where no record configures it (R38, R61, R168). -/
def Elem.blank (seed : BitVec 32) (e : Nat) : Elem := { sr := srSeed seed e }

/-- Element `e` of a unit. -/
def UnitSt.elem (u : UnitSt) (e : Nat) : Elem := u.elems.getD e (Elem.blank u.cfg.seed e)

/-- Element `e` written. -/
def UnitSt.setElem (u : UnitSt) (e : Nat) (x : Elem) : UnitSt := { u with elems := u.elems.set e x }

/-- A memory tile, as a configuration begins with it where nothing was written. -/
def UnitSt.tile (u : UnitSt) (t : Nat) : Tile := u.mem.getD t {}

def UnitSt.setTile (u : UnitSt) (t : Nat) (x : Tile) : UnitSt := { u with mem := u.mem.set t x }

/-- A binding at run time. -/
def UnitSt.bindSt (u : UnitSt) (n : Nat) : BindSt := u.bind.getD n {}

def UnitSt.setBind (u : UnitSt) (n : Nat) (x : BindSt) : UnitSt := { u with bind := u.bind.set n x }

/-- A binding's configuration. -/
def SecCfg.bindCfg (c : SecCfg) (n : Nat) : BindCfg := (c.binds[n]?).getD {}

/-- A route at run time. -/
def UnitSt.route (u : UnitSt) (r : Nat) : RouteSt := u.flight.getD r {}

def UnitSt.setRoute (u : UnitSt) (r : Nat) (x : RouteSt) : UnitSt := { u with flight := u.flight.set r x }

/-- A buffer at run time. -/
def UnitSt.buf (u : UnitSt) (b : Nat) : BufSt := u.bufs.getD b {}

def UnitSt.setBuf (u : UnitSt) (b : Nat) (x : BufSt) : UnitSt := { u with bufs := u.bufs.set b x }

/-- The role of a tile (R111). -/
def SecCfg.role (c : SecCfg) (t : Nat) : Role := (c.roles[t]?).getD .ab

namespace State

/-- A unit by number. -/
def unit? (s : State) (u : Nat) : Option UnitSt := s.units.get? u

/-- A unit written. -/
def setUnit (s : State) (u : Nat) (x : UnitSt) : State := { s with units := s.units.set u x }

/-- A unit changed where it is. -/
def modUnit (s : State) (u : Nat) (f : UnitSt → UnitSt) : State := { s with units := s.units.upd u f }

/-- The configuration of a unit's section; of no unit, an empty one. -/
def cfgOf (s : State) (u : Nat) : SecCfg :=
  match s.unit? u with
  | some x => x.cfg
  | none => { rows := 0, cols := 0, mode := 0, flush := false, seed := 0, pal := 0, roles := [], routes := [],
              binds := [], bufs := [], elems := [], window := false }

/-- Element `e` of unit `u`; of no unit, a blank element. -/
def elem (s : State) (u e : Nat) : Elem :=
  match s.unit? u with
  | some x => x.elem e
  | none => Elem.blank 0 e

/-- Element `e` of unit `u` changed. -/
def modElem (s : State) (u e : Nat) (f : Elem → Elem) : State :=
  s.modUnit u fun x => x.setElem e (f (x.elem e))

/-- The element exists: its unit holds a placement and its number lies in the section. -/
def elemExists (s : State) (u e : Nat) : Bool :=
  match s.unit? u with
  | some x => decide (e < x.cfg.elemCount)
  | none => false

/-- Flags raised in an element (R40). -/
def raise (s : State) (u e : Nat) (f : Flags) : State := s.modElem u e fun x => { x with fl := x.fl ||| f }

/-- A fresh number for a request, rider, unit or launch. -/
def bumpId (s : State) : State := { s with nextId := s.nextId + 1 }

end State

/-! ## Registers of an element -/

namespace Elem

/-- p0-p6 as held, p7 always 1 (R61). -/
def pred (x : Elem) (n : Nat) : Bool := n == 7 || x.p.getLsbD n

/-- A predicate written; a write to p7 is discarded (R154). -/
def setPred (x : Elem) (n : Nat) (b : Bool) : Elem :=
  if n = 7 then x
  else { x with p := if b then x.p ||| (1#8 <<< n) else x.p &&& ~~~(1#8 <<< n) }

/-- A register written: contents, tag, presence set (R66). -/
def setG (x : Elem) (n : Fin 8) (v : Word) (tag : BitVec 3) : Elem :=
  { x with g := x.g.set n { x.g[n] with val := v, tag := tag, present := true } }

/-- A register's presence cleared; contents and tag stay (R66, R190). -/
def clearG (x : Elem) (n : Fin 8) : Elem := { x with g := x.g.set n { x.g[n] with present := false } }

/-- A register marked pending or not (R67). -/
def pendG (x : Elem) (n : Fin 8) (b : Bool) : Elem := { x with g := x.g.set n { x.g[n] with pending := b } }

/-- A channel written. -/
def setChan (x : Elem) (n : Fin 4) (c : Chan) : Elem := { x with ins := x.ins.set n c }

/-- Pulses counted on a control input, up to 32 (R62). -/
def addPulse (x : Elem) (n : Fin 4) (k : Nat) : Elem := { x with ctl := x.ctl.set n (min 32 (x.ctl[n] + k)) }

/-- A PERF counter raised (R355). -/
def addPerf (x : Elem) (n : Fin 4) (k : Nat) : Elem := { x with perf := x.perf.set n (x.perf[n] + k) }

/-- Cycles, up to the present one, in which a trigger held and a resource of its rule was busy, and which PERF counter 1 does
not have yet (R355). -/
def heldFor (x : Elem) (now : Nat) : Nat :=
  match x.heldAt with
  | some (c, none) => now - c
  | some (c, some d) => min now d - c
  | none => 0

end Elem

/-! ## Tokens -/

end Sys2Proof.Machine

namespace Sys2Proof.Token

/-- A data head: marks 0-3 (R26). -/
def isData (t : Token) : Bool := decide (t.mark.toNat < 4)
def isEos (t : Token) : Bool := t.mark == 4
def isDrain (t : Token) : Bool := t.mark == 5
def isConfig (t : Token) : Bool := t.mark == 6
def isPoison (t : Token) : Bool := t.mark == 7
/-- Marks 1 and 3. -/
def isHead (t : Token) : Bool := t.mark == 1 || t.mark == 3
/-- Marks 2 and 3. -/
def isTail (t : Token) : Bool := t.mark == 2 || t.mark == 3

/-- End-of-stream (R26). -/
def eos : Token := ⟨4, 0, 0, 0⟩
/-- Drain (R26). -/
def drain : Token := ⟨5, 0, 0, 0⟩
/-- Poison with a cause (R27). -/
def poison (cause : Nat) (coord : BitVec 32) : Token := ⟨7, 0, coord, BitVec.ofNat 64 cause⟩

end Sys2Proof.Token

namespace Sys2Proof.Machine

/-! ## Trigger entries and slot descriptors (R162, R165) -/

/-- A field of a 64-bit trigger entry. -/
def trigField (w : BitVec 64) (lo n : Nat) : Nat := w.toNat / 2 ^ lo % 2 ^ n

namespace Trig
def pmask (w : BitVec 64) : BitVec 8 := w.extractLsb' 0 8
def pval (w : BitVec 64) : BitVec 8 := w.extractLsb' 8 8
def rmask (w : BitVec 64) : BitVec 8 := w.extractLsb' 16 8
def cmask (w : BitVec 64) : BitVec 4 := w.extractLsb' 24 4
/-- Condition on iK. -/
def cond (w : BitVec 64) (k : Nat) : Nat := trigField w (28 + 3 * k) 3
def tag (w : BitVec 64) : BitVec 3 := w.extractLsb' 40 3
def ncode (w : BitVec 64) : Nat := trigField w 43 3
/-- N = 2^ncode. -/
def n (w : BitVec 64) : Nat := 2 ^ ncode w
def pset (w : BitVec 64) : BitVec 8 := w.extractLsb' 46 8
def pclr (w : BitVec 64) : BitVec 8 := w.extractLsb' 54 8
def space (w : BitVec 64) : Nat := trigField w 62 2
end Trig

namespace Desc
def own (w : BitVec 32) : BitVec 8 := w.extractLsb' 0 8
def pred (w : BitVec 32) : BitVec 8 := w.extractLsb' 8 8
def succ (w : BitVec 32) : BitVec 8 := w.extractLsb' 16 8
def ordered (w : BitVec 32) : Bool := w.getLsbD 24
def stamp (w : BitVec 32) : Bool := w.getLsbD 25
end Desc

/-- The trigger entry of an index; an empty one is zero. -/
def Elem.trigger (x : Elem) (t : Nat) : BitVec 64 := x.trig.getD t 0

/-- The descriptor of a slot; one not given is zero (R165). -/
def Elem.descOf (x : Elem) (s : Nat) : BitVec 32 := x.desc.getD s 0

/-! ## Outputs and credit (R57, R180, R413) -/

/-- The outputs a destination names, ascending (R153). -/
def outsOf : ODst → List Nat
  | .o n => [n.val]
  | .o01 => [0, 1]
  | .o23 => [2, 3]
  | .oall => [0, 1, 2, 3]

/-- The route out of an endpoint, with its number. -/
def SecCfg.routeFrom (c : SecCfg) (ep : Endpoint) : Option (Nat × Route) :=
  let i := c.routes.findIdx fun r => r.src == ep
  (c.routes[i]?).map fun r => (i, r)

/-- The endpoint of a channel or control of an element; channel numbers are R169's. -/
def SecCfg.endAt (c : SecCfg) (e ch : Nat) : Endpoint := .chan (c.rowOf e) (c.colOf e) ch

/-- The element number of an endpoint's row and column. -/
def SecCfg.elemAt (c : SecCfg) (row col : Nat) : Nat := row * c.width + col

/-- Places of a queue that a route's target offers, and the places taken: an input channel has 32 (R61), a tile
16,384 (R111), a binding 16 (R414); a corner turn stands in front of its target with its own places, and none while it
emits (R318). -/
def UnitSt.space (u : UnitSt) (i : Nat) (r : Route) : Nat :=
  let st := u.route i
  if r.turn ≠ 0 then (if st.order.isEmpty then r.turn * r.turn - (st.turn.length + st.toks.length) else 0)
  else
    match r.dst with
    | .chan row col ch =>
      let x := (u.elem (u.cfg.elemAt row col)).ins[Fin.ofNat 4 ch]
      32 - (x.q.length + x.raw.length + st.toks.length)
    | .tile t => 16384 - ((u.tile t).fifo.length + st.toks.length)
    | .port n => 16 - ((u.bindSt n).inq.length + st.toks.length)
    | .none => 0

/-- Output tokens that late results of an element will still send on an output; their credit is taken. -/
def Elem.lateOn (x : Elem) (o : Nat) : Nat :=
  (x.late.filter fun l =>
    match l.dst with
    | .out d => l.send && (outsOf d).contains o
    | _ => false).length

/-- Output `o` of element `e` has credit for `n` more tokens; an output that feeds no route always has (R413). -/
def UnitSt.credit (u : UnitSt) (e o n : Nat) : Bool :=
  match u.cfg.routeFrom (u.cfg.endAt e (4 + o)) with
  | none => true
  | some (i, r) => decide (n + (u.elem e).lateOn o ≤ u.space i r)

/-- A token sent on an output: it is in flight on the output's route, or discarded where there is none (R413). -/
def UnitSt.send (u : UnitSt) (e o : Nat) (t : Token) : UnitSt :=
  let u := u.setElem e ((u.elem e).addPerf 3 1)
  match u.cfg.routeFrom (u.cfg.endAt e (4 + o)) with
  | none => u
  | some (i, _) => let st := u.route i; u.setRoute i { st with toks := st.toks ++ [t] }

/-- A pulse on its way over a route; under number `num` where a fence of its sender may hold it back (R145). -/
def RouteSt.addPulse (st : RouteSt) : Option Nat → RouteSt
  | none => { st with pulses := st.pulses + 1 }
  | some k => { st with fenced := st.fenced ++ [k] }

/-- A pulse sent on a control output (R62, R196, R413). -/
def UnitSt.pulse (u : UnitSt) (e n : Nat) (num : Option Nat) : UnitSt :=
  match u.cfg.routeFrom (u.cfg.endAt e (12 + n)) with
  | none => u
  | some (i, _) => u.setRoute i ((u.route i).addPulse num)

/-! ## System registers that hold a value of their own (R324) -/

/-- The reset value of a register (R110, R325, R341, R344, R345, R324, R360, R380, R391). -/
def regReset (n : Nat) : Word :=
  if n = 0x0106 then 0x3
  else if 0x0300 ≤ n ∧ n < 0x0304 then BitVec.ofNat 64 (300 + 95 * 2 ^ 12 + 5 * 2 ^ 20 + 2 ^ 24)
  else if n = 0x0500 then 0x3
  else if 0x1000 ≤ n ∧ n < 0x2000 then 0x7FFFFFFFFFFFFFFF
  else if 0x2000 ≤ n ∧ n < 0x2040 then BitVec.ofNat 64 (0xFFFF + 4096 * 2 ^ 16 + 0xFFFF * 2 ^ 32)
  else 0

namespace State

/-- A register held under its number. -/
def reg (s : State) (n : Nat) : Word := s.regs.getD n (regReset n)

/-- A register written. -/
def setReg (s : State) (n : Nat) (v : Word) : State := { s with regs := s.regs.put n v (regReset n) }

/-- What a count held before this cycle (R10). -/
def heldBefore (s : State) (n : Nat) : Word :=
  let c := s.counted.getD n (0, s.reg n)
  if c.1 = s.clk.cyc then c.2 else s.reg n

/-- A count raised by one; a count that reaches 2^64 - 1 holds there (R324). -/
def countUp (s : State) (n : Nat) : State :=
  let v := s.reg n
  { s with counted := s.counted.set n (s.clk.cyc, s.heldBefore n) }.setReg n (if v = BitVec.allOnes 64 then v else v + 1)

/-- A read that clears a count: it returns what the count held before this cycle, and leaves what was counted in it (R8,
R10). -/
def clearCount (s : State) (n : Nat) : State × Word :=
  let old := s.heldBefore n
  ({ s with counted := s.counted.set n (s.clk.cyc, 0) }.setReg n (s.reg n - old), old)

/-- The host link is up (R387, R390). -/
def linkUp (s : State) : Bool := (s.reg 0x0601).toNat % 4 != 0

/-! ## Records to the host (R329, R330, R369, R372, R390) -/

/-- The address of host physical memory (R18). -/
def hostAddr (h : Nat) : Nat := 0x800000000000 + h % 2 ^ 47

end State

/-- A ring has room for one more record. -/
def Ring.room (r : Ring) : Bool := decide ((r.wr + 2 ^ 32 - r.rd % 2 ^ 32) % 2 ^ 32 < r.size)

/-- The records that can land: those at the front of `recs` while the ring has room, with their places. -/
def Ring.land (recSize : Nat) : Ring → List (List Byte) → Memory → Ring × Memory
  | r, [], m => ({ r with waiting := [] }, m)
  | r, x :: xs, m =>
    if r.room then
      Ring.land recSize { r with wr := (r.wr + 1) % 2 ^ 32 } xs
        (m.writeBytes (State.hostAddr (r.base + recSize * (r.wr % r.size))) x)
    else ({ r with waiting := x :: xs }, m)

/-- The three rings of a queue. -/
inductive RingSel where
  | comp
  | log
  | fault
  deriving DecidableEq, Repr

/-- Bytes of one record of a ring (R328, R330). -/
def RingSel.recSize : RingSel → Nat
  | .comp => 32
  | .log => 16
  | .fault => 64

def Queue.ring (q : Queue) : RingSel → Ring
  | .comp => q.comp
  | .log => q.log
  | .fault => q.fault

def Queue.setRing (q : Queue) (w : RingSel) (r : Ring) : Queue :=
  match w with
  | .comp => { q with comp := r }
  | .log => { q with log := r }
  | .fault => { q with fault := r }

namespace State

def queue (s : State) (q : Nat) : Queue := s.host.queues.getD q {}

def setQueue (s : State) (q : Nat) (x : Queue) : State :=
  { s with host := { s.host with queues := s.host.queues.set q x } }

/-- Every waiting record of one ring lands that can; with the link down all wait (R329, R390). -/
def flushRing (s : State) (q : Nat) (w : RingSel) : State :=
  if s.linkUp then
    let x := s.queue q
    let r := x.ring w
    let p := Ring.land w.recSize r r.waiting s.mem
    { s.setQueue q (x.setRing w p.1) with mem := p.2 }
  else s

/-- A record goes to a ring behind the records that wait. -/
def putRecord (s : State) (q : Nat) (w : RingSel) (rec : List Byte) : State :=
  let x := s.queue q
  let r := x.ring w
  (s.setQueue q (x.setRing w { r with waiting := r.waiting ++ [rec] })).flushRing q w

/-- Records of a queue that wait in the host port, all rings together (R329, R372). -/
def waitingRecs (s : State) (q : Nat) : Nat :=
  let x := s.queue q
  x.comp.waiting.length + x.fault.waiting.length

/-- The fault ring of a queue has room, or fewer than 64 records wait (R372). -/
def ringRoom (s : State) (q : Nat) : Bool :=
  let r := (s.queue q).fault
  (s.linkUp && r.waiting.isEmpty && r.room) || decide (s.waitingRecs q < 64)

/-- A record of a kind that is never dropped finds a place: no earlier one waits at its agent (R372). -/
def faultRoom (s : State) (q : Nat) : Bool := s.ringRoom q && !s.losses.any fun p => p.1 == q

end State

/-- The fields of a fault record (R369). -/
structure FaultRec where
  kind : Nat
  agent : Nat
  cause : Nat
  job : Nat
  section_ : Nat := 0
  replica : Nat := 0
  flags : Nat := 0
  place : Nat := 0
  slot : Nat := 0
  detail : Nat := 0
  unit : Nat := 0
  item : Nat := 0
  va : Nat := 0
  snap : Nat := 0
  serial : Nat := 0
  pa : Nat := 0
  deriving DecidableEq, Repr

/-- The 64 bytes of a fault record at quick step `step` (R369). -/
def FaultRec.bytes (r : FaultRec) (step : Nat) : List Byte :=
  bytesOfNat 1 r.kind ++ bytesOfNat 1 r.agent ++ bytesOfNat 2 r.cause ++ bytesOfNat 2 r.job ++
  bytesOfNat 2 r.section_ ++ bytesOfNat 1 r.replica ++ bytesOfNat 1 r.flags ++ bytesOfNat 2 r.place ++
  bytesOfNat 1 r.slot ++ bytesOfNat 1 r.detail ++ bytesOfNat 2 0 ++ bytesOfNat 4 r.unit ++
  bytesOfNat 4 r.item ++ bytesOfNat 8 r.va ++ bytesOfNat 4 r.snap ++ bytesOfNat 4 r.serial ++
  bytesOfNat 8 step ++ bytesOfNat 8 r.pa ++ bytesOfNat 8 0

/-- The loss record of a request over sweep or deep memory (R368, R369, R384). -/
def Item.lossRec (i : Item) (cause pa : Nat) : FaultRec where
  kind := 3
  agent := if i.port = 12 then 2 else 1
  cause := cause
  job := i.sec.1
  section_ := i.sec.2.1
  replica := i.sec.2.2
  place := i.port
  va := i.va
  pa := pa

/-- Grid row and column of a device block number (R14): its quarter's corner and its place in the quarter. -/
def blockRow (b : Nat) : Nat := 8 * (b / 128) + b % 64 / 8
def blockCol (b : Nat) : Nat := 8 * (b / 64 % 2) + b % 8
/-- The device block number at a grid row and column of blocks. -/
def blockAt (r c : Nat) : Nat := (2 * (r / 8) + c / 8) * 64 + r % 8 * 8 + c % 8

/-- Device row and column of element `e` of a unit (R14, R15). -/
def UnitSt.devRow (u : UnitSt) (e : Nat) : Nat := 8 * blockRow u.nw + u.cfg.rowOf e
def UnitSt.devCol (u : UnitSt) (e : Nat) : Nat := 8 * blockCol u.nw + u.cfg.colOf e

/-- The quarter of a device row and column. -/
def quarterAt (row col : Nat) : Nat := 2 * (row / 64) + col / 64

/-- The device-wide element number of element `e` of a unit (R14). -/
def UnitSt.devElem (u : UnitSt) (e : Nat) : Nat :=
  quarterAt (u.devRow e) (u.devCol e) * 4096 + u.devRow e % 64 * 64 + u.devCol e % 64

/-- The quarter of element `e`. -/
def UnitSt.quarterOf (u : UnitSt) (e : Nat) : Nat := quarterAt (u.devRow e) (u.devCol e)

/-- The device-wide block number of element `e`. -/
def UnitSt.blockOf (u : UnitSt) (e : Nat) : Nat := blockAt (u.devRow e / 8) (u.devCol e / 8)

namespace State

def job (s : State) (j : Nat) : Option Job := s.jobs.get? j
def modJob (s : State) (j : Nat) (f : Job → Job) : State := { s with jobs := s.jobs.upd j f }
def modLaunch (s : State) (l : Nat) (f : Launch → Launch) : State := { s with launches := s.launches.upd l f }

/-- The queue that submitted a job. -/
def queueOf (s : State) (j : Nat) : Nat :=
  match s.job j with
  | some x => x.queue
  | none => 0

/-- A fault record goes to the job's fault queue; a report that finds no place is dropped and counted (R372). -/
def putFault (s : State) (r : FaultRec) : State :=
  let q := s.queueOf r.job
  if r.kind = 2 ∧ ¬ s.faultRoom q then s.countUp 0x0503
  else s.putRecord q .fault (r.bytes s.sweep.quick.step)

/-- A loss record is written, or waits at its agent for a place (R372). -/
def putLoss (s : State) (r : FaultRec) : State :=
  let q := s.queueOf r.job
  if s.faultRoom q then s.putFault r else { s with losses := s.losses ++ [(q, r.bytes s.sweep.quick.step)] }

/-- Loss records that waited are written where there is room now, in their order (R372). -/
def postLosses (s : State) : State :=
  s.losses.foldl (fun (t : State) p =>
    if t.ringRoom p.1 && !t.losses.any fun q => q.1 == p.1 then t.putRecord p.1 .fault p.2 else { t with losses := t.losses ++ [p] })
    { s with losses := [] }

/-- The part of a fault record that names an element of a unit. -/
def elemRec (x : UnitSt) (e slot : Nat) : FaultRec where
  kind := 1
  agent := 0
  cause := 0
  job := x.job
  section_ := x.section_
  replica := x.replica
  place := x.devElem e
  slot := slot
  unit := x.serial
  snap := x.lastSnap

/-! ## Completion tokens and their bindings (R72, R87, R278, R413) -/

/-- A completion token (R87): status, flags, cause, count, index. -/
def compTok (status : Nat) (flags : Flags) (cause count index : Nat) (tag : BitVec 3) : Token :=
  ⟨3, tag, BitVec.ofNat 32 index,
   BitVec.ofNat 64 (status % 256 + 2 ^ 8 * flags.toNat + 2 ^ 16 * (cause % 65536) + 2 ^ 32 * (count % 2 ^ 32))⟩

/-- The ingress point of the engine behind a binding: sweep ports 0-11, deep port 12, host port 13, copy engine 14,
collective and remote paths 15 (R342); the manual names none for the sequencer and the slot streams (log 21). -/
def pointOf (c : SecCfg) (n : Nat) : Nat :=
  match (c.bindCfg n).kind with
  | .sweep => (c.bindCfg n).stack
  | .deep => 12
  | .host => 13
  | .copy => 14
  | .coll => 15
  | .remote => 15
  | .seq => 13
  | .slot => 14
  | .unbound => 13

/-- A token as an ingress port admits it: a data head whose tag names an empty palette entry and a configuration token
whose coordinate names no k-register become poison (R27, R28, R174). -/
def admitTok (c : SecCfg) (t : Token) : Token :=
  if t.isData && (palFmt c.pal t.tag.toNat).isNone then Token.poison 0x30 t.coord
  else if t.isConfig && t.coord.toNat / 8 != 0 then Token.poison 0x30 t.coord
  else t

/-- Tokens an engine has for binding `n`, at ingress point `pt` of the section's quarter: they wait there (R342), or
are discarded where the binding feeds no route or its unit has ended (R377, R413). `src` is the rider whose data they are,
0 for any other token. -/
def deliverFrom (s : State) (src pt u n : Nat) (ts : List Token) : State :=
  match s.unit? u with
  | none => s
  | some x =>
    if x.phase = .ended || (x.cfg.routeFrom (.port n)).isNone then s
    else
      let k := 16 * (x.nw / 64) + pt
      let p := s.ingress.getD k {}
      let new := ts.map fun t => ({ tenant := x.tenant, u := u, n := n, tok := admitTok x.cfg t, src := src } : Ingress)
      { s with ingress := s.ingress.set k { p with q := p.q ++ new } }

/-- Tokens for a binding that are no rider's data. -/
def deliverTo (s : State) (pt u n : Nat) (ts : List Token) : State := s.deliverFrom 0 pt u n ts

/-- Tokens of a rider that have not left its port: at its ingress point, or under a frozen binding (R90, R131, R374). -/
def undelivered (s : State) (id : Nat) (r : Rider) : Nat :=
  let waits := match s.unit? r.u with
    | some x => ((x.bindSt r.delivB).deliver.filter fun p => p.1 == id).length
    | none => 0
  (s.ingress.map fun p => (p.2.q.filter fun i => i.src == id && i.u == r.u).length).foldl (· + ·) waits

/-- What was sent through binding `n` under number `id` has completed. -/
def settleSent (s : State) (u n id : Nat) : State :=
  s.modUnit u fun x =>
    let b := x.bindSt n
    x.setBind n { b with open_ := b.open_.filter fun i => i != id
                         carriage := if b.carriage = some id then none else b.carriage }

/-- What was sent under number `id` through binding `n` completes with a token on its done binding. -/
def complete (s : State) (u n id doneB : Nat) (t : Token) : State := (s.settleSent u n id).deliverTo (pointOf (s.cfgOf u) n) u doneB [t]

/-- Faults that hold something no longer there are no longer held (R373). -/
def dropFaults (s : State) (gone : Held → Bool) : State :=
  { s with faults := s.faults.filter fun p => !gone p.2.what }

/-- A rider is gone from its port, and what it held there with it. -/
def dropRider (s : State) (id : Nat) : State :=
  let s := { s with sweep := { s.sweep with riders := s.sweep.riders.erase id, fetched := s.sweep.fetched.erase id } }
  s.dropFaults fun h => h == .rider id || h == .carriage id

/-- A window item is over. -/
def dropItem (s : State) (id : Nat) : State :=
  { s with sweep := { s.sweep with items := s.sweep.items.erase id, fetched := s.sweep.fetched.erase id } }

/-- A rider leaves its port: its completion token is sent (R87). -/
def finishRider (s : State) (id : Nat) (r : Rider) (t : Token) : State := (s.dropRider id).complete r.u r.bind id r.doneB t

/-- A copy leaves its engine: its completion token is sent. -/
def finishCopy (s : State) (q : Fin 4) (id : Nat) (c : Copy) (t : Token) : State :=
  let e := s.copies[q]
  let s := { s with copies := s.copies.set q { e with copies := e.copies.erase id }
                    sweep := { s.sweep with fetched := s.sweep.fetched.erase id } }
  (s.dropFaults fun h => h == .copy q.val id).complete c.u c.bind id c.doneB t

/-! ## Cancelling and trapping (R79, R371, R373, R377) -/

/-- Nothing is added to what is under way for a register: it is pending until the last of that is written, and no longer
pending where nothing is (R371). -/
def endPending (x : Elem) (n : Fin 8) : Elem :=
  let mine := fun (l : Late) => l.dst == .reg n
  match x.late.reverse.findIdx? mine with
  | none => x.pendG n false
  | some i => { x with late := listUpd x.late (x.late.length - 1 - i) fun l => { l with last := true } }

/-- Late results that no request will bring any more: a register left pending by one keeps the contents, tag and
presence it has, and what earlier beats of its firing bring is still written (R371).  Number 0 is no request. -/
def dropLates (x : Elem) (gone : List Nat) : Elem :=
  let mine := fun (l : Late) => l.req != 0 && gone.contains l.req
  (x.late.filter mine).foldl
    (fun (y : Elem) l => match l.dst with
      | .reg n => if l.last then endPending y n else y
      | _ => y) { x with late := x.late.filter fun l => !mine l }

/-- Items at a binding up to the end of their stream, and what stands behind (R79, R274). -/
def takeStream : List Token → List Token × List Token
  | [] => ([], [])
  | t :: rest =>
    if t.isDrain then ([], t :: rest)
    else if t.isEos then ([t], rest)
    else
      let r := takeStream rest
      (t :: r.1, r.2)

/-- A rider that is cancelled: one not aboard is withdrawn with cause 0x11; a carriage aboard is closed as if by its
end-of-stream, and what it has not accepted is withdrawn, its index the first withdrawn item; a span rider aboard
finishes (R79, R274). -/
def cancelRider (s : State) (id : Nat) : State :=
  match s.sweep.riders.get? id with
  | none => s
  | some r =>
    if r.what != .packet || r.phase == .leaving then s
    else if r.phase != .aboard && r.phase != .alighted then
      s.finishRider id r (compTok 3 r.fl 0x11 0 0 r.tag)
    else if (r.kind == .gat || r.kind == .sca) && !r.closed then
      let b := match s.unit? r.u with
        | some x => x.bindSt r.bind
        | none => {}
      let w := takeStream b.inq
      let lost := r.heldItem.isSome || (w.1.any Token.isData)
      let r' := { r with closed := true, heldItem := none, cancelled := r.cancelled || lost
                         firstBad := if lost then some r.nextItem else r.firstBad }
      let s := { s with sweep := { s.sweep with riders := s.sweep.riders.set id r' } }
      let s := s.dropFaults fun h => h == .carriage id
      s.modUnit r.u fun x => x.setBind r.bind { x.bindSt r.bind with inq := w.2 }
    else s

/-- A packet that its binding has not sent is withdrawn (R79). -/
def cancelPackets (s : State) (u n : Nat) (sel : Packet → Bool) : State :=
  match s.unit? u with
  | none => s
  | some x =>
    let gone := (x.bindSt n).packets.filter sel
    let s := s.modUnit u fun x =>
      x.setBind n { x.bindSt n with packets := (x.bindSt n).packets.filter fun p => !sel p }
    gone.foldl (fun s p =>
      let doneB := if p.tblb then p.w1.toNat / 2 ^ 40 % 32 else p.w1.toNat / 2 ^ 32 % 32
      let tag : BitVec 3 := BitVec.ofNat 3 (if p.tblb then p.w1.toNat / 2 ^ 45 else p.w1.toNat / 2 ^ 42)
      s.complete u n p.id doneB (compTok 3 0 0x11 0 0 tag)) s

/-- Requests of a unit that faults hold are withdrawn, and their elements run again (R373). -/
def withdrawHeld (s : State) (u : Nat) : State :=
  let held := s.sweep.items.filter fun p => p.2.u == u && p.2.held.isSome
  let ids := held.map Prod.fst
  let lates := held.filterMap fun p => match p.2.kind with
    | .ldw l => some l
    | _ => none
  let s := { s with sweep := { s.sweep with items := s.sweep.items.filter fun p => !ids.contains p.1 } }
  let s := s.dropFaults fun h => match h with
    | .item i => ids.contains i
    | _ => false
  s.modUnit u fun x =>
    let waits := x.cache.waits.filter fun w => !w.direct && ids.contains w.item
    let gone := lates ++ waits.map CacheWait.late
    { x with
      elems := x.elems.mapVals fun _ y =>
        { dropLates y gone with heldBy := none }
      cache := { x.cache with waits := x.cache.waits.filter fun w => w.direct || !ids.contains w.item } }

/-- Riders, packets and copies of a unit that have not been boarded or sent are withdrawn, open carriages are closed,
and holds end (R79, R373). -/
def cancelTraffic (s : State) (u : Nat) : State :=
  let s := s.sweep.riders.foldl (fun t p => if p.2.u = u then t.cancelRider p.1 else t) s
  let s := (List.range 32).foldl (fun t n => t.cancelPackets u n fun _ => true) s
  let s := [0, 1, 2, 3].foldl (fun (t : State) (q : Fin 4) =>
    (t.copies[q]).copies.foldl (fun t p =>
      if p.2.u = u ∧ (!p.2.started ∨ p.2.held.isSome) then
        t.finishCopy q p.1 p.2 (compTok 3 0 0x11 0 p.2.sector p.2.tag)
      else t) t) s
  s.withdrawHeld u

/-- No unit of the job still waits: its aging ends (R333). -/
def settleSince (s : State) (j : Nat) : State :=
  if s.units.any fun p => p.2.job == j && p.2.phase == .waiting then s
  else s.modJob j fun x => { x with since := none }

/-- A cancel reaches a unit: it drains as if its count had expired; one that holds no placement ends at once
(R79, R377). -/
def cancelUnit (s : State) (u : Nat) : State :=
  match s.unit? u with
  | none => s
  | some x =>
    match x.phase with
    | .ended => s
    | .running => (s.setUnit u { x with phase := .draining, count := some 0, cancelled := true }).cancelTraffic u
    | .draining => (s.setUnit u { x with cancelled := true }).cancelTraffic u
    | _ =>
      let s := s.cancelTraffic u
      let s := s.modUnit u fun x =>
        { x with phase := .ended, cancelled := true, reqs := []
                 uflag := x.elems.foldl (fun f p => f ||| p.2.fl) x.uflag }
      (s.settleSince x.job).modLaunch x.launch fun l => { l with ended := l.ended + 1 }

/-- A cancel of a launch reaches each of its units (R79). -/
def cancelLaunch (s : State) (l : Nat) : State :=
  let s := s.modLaunch l fun x => { x with cancel := true }
  s.units.foldl (fun t p => if p.2.launch = l then t.cancelUnit p.1 else t) s

/-- Requests of an element that are under way or set aside are withdrawn (R126, R371). -/
def withdraw (s : State) (u e : Nat) : State :=
  s.modUnit u fun x =>
    let mine := fun (r : MemReq) => decide (r.e = e)
    let gone := ((x.reqs.filter mine) ++ (x.mem.vals.map fun t => t.waiting.filter mine).flatten).map MemReq.id
    { x.setElem e (dropLates (x.elem e) gone) with
      reqs := x.reqs.filter fun r => !mine r
      mem := x.mem.mapVals fun _ t => { t with waiting := t.waiting.filter fun r => !mine r } }

/-- Requests of an element that wait at their tiles are withdrawn; those under way to a tile are not (R255, R371). -/
def withdrawAside (s : State) (u e : Nat) : State :=
  s.modUnit u fun x =>
    let mine := fun (r : MemReq) => decide (r.e = e)
    let gone := ((x.mem.vals.map fun t => t.waiting.filter mine).flatten).map MemReq.id
    { x.setElem e (dropLates (x.elem e) gone) with mem := x.mem.mapVals fun _ t => { t with waiting := t.waiting.filter fun r => !mine r } }

/-- TAKING A TRAP (R371): the element stops as HALT does, its requests that wait at their tiles are withdrawn, what its
beats before this one sent is still performed and written (R255), the record is written, its launch is cancelled and has
failed.  `item` is the first unapplied item, `va` the address or operand, `detail` and `pa` the record's fields of those
names, `flags` those that the failing item raised (R369). -/
def trap (s : State) (u e slot cause item va detail pa : Nat) (flags : Flags := 0) : State :=
  match s.unit? u with
  | none => s
  | some x =>
    let s := s.modElem u e fun y => { y with pick := .trapped, firing := none, last := BitVec.ofNat 5 slot }
    let s := (s.withdrawAside u e).modElem u e fun y => (List.finRange 8).foldl endPending y
    let s := s.putFault { elemRec x e slot with cause := cause, item := item, va := va, detail := detail, pa := pa, flags := flags.toNat }
    let s := s.modUnit u fun y => { y with failed := true }
    let s := s.modLaunch x.launch fun l => { l with fail := true }
    s.cancelLaunch x.launch

/-- A trap can be taken now: its record finds a place; otherwise the element holds where it stands (R372). -/
def canTrap (s : State) (u : Nat) : Bool :=
  match s.unit? u with
  | none => true
  | some x => s.faultRoom (s.queueOf x.job)

/-- Reads in window mode that cannot be served, and the cause: their elements trap (R109, R116). -/
def windowTraps (s : State) (u : Nat) (ws : List (CacheWait × Nat)) : State :=
  let s := s.modUnit u fun x => { x with cache := { x.cache with waits := x.cache.waits.filter fun k => !ws.any fun w => w.1 == k } }
  ws.foldl (fun t w =>
    let t := t.modElem u w.1.e fun y => dropLates y [w.1.late]
    if (t.elem u w.1.e).pick == .trapped then t else t.trap u w.1.e w.1.slot w.2 0 w.1.va 0 0) s

/-- A rider of the machine's own is turned away with a cause: the walk it fetches for finds its line failed (R363); the
reads that wait for what the window's rider was to bring trap (R116, log 20). -/
def failOwn (s : State) (id : Nat) (r : Rider) (cause : Nat) : State :=
  match r.what with
  | .packet => s
  | .table who =>
    let s := s.dropRider id
    { s with sweep := { s.sweep with fetched := s.sweep.fetched.upd who fun k => { k with lines := k.lines.set r.base (cause, []) } } }
  | .window =>
    if !s.canTrap r.u then s
    else match s.unit? r.u with
      | none => s.dropRider id
      | some x =>
        let s := (s.dropRider id).modUnit r.u fun x => { x with cache := { x.cache with
          wins := x.cache.wins.mapVals fun _ l => l.map fun w => if w.ext = some id then { w with ext := none } else w } }
        let waits := x.cache.waits.filter fun k => k.direct && decide (r.base ≤ k.va) && decide (k.va < r.base + 64 * r.len)
        s.windowTraps r.u (waits.map fun k => (k, cause))

/-- A rider is refused with a cause (R86, R88, R89). -/
def refuseRider (s : State) (id : Nat) (r : Rider) (cause : Nat) : State :=
  if r.what = .packet then s.finishRider id r (compTok 2 r.fl cause 0 0 r.tag) else s.failOwn id r cause

/-- RETURNING from a stop of the picker: BRK's resume, IDLE's wake (R351, R355).  A halt or a trap is cleared only
by the next arming (R197). -/
def resume (s : State) (u e : Nat) : State :=
  s.modElem u e fun y =>
    match y.pick with
    | .brk => { y with pick := .run }
    | .idle _ _ => { y with pick := .run }
    | _ => y

end State

end Sys2Proof.Machine
end

