-- ==== Sys2Proof/Machine/Done.lean ====
section
/-! DEFINITION. When a section has drained (R72, R126, R135, R386). -/

namespace Sys2Proof.Machine

/-- The element at a row and column of the section is in a systolic region. -/
def sysAt (x : UnitSt) (row col : Nat) : Bool :=
  decide (row < 8 * x.cfg.rows) && decide (col < x.cfg.width) && (x.elem (x.cfg.elemAt row col)).cfg.systolic

/-- Input channels of an element that are fed: by a route, or inside a systolic region (R57, R81).  Drain comes to these;
a channel that only refused data heads reach gets none. -/
def fedChannels (x : UnitSt) (e : Nat) : List (Fin 4) :=
  (List.finRange 4).filter fun c =>
    (x.cfg.routes.any fun r => r.dst == x.cfg.endAt e c.val) ||
    (c == 0 && (x.elem e).cfg.systolic && x.cfg.colOf e != 0 && sysAt x (x.cfg.rowOf e) (x.cfg.colOf e - 1))

namespace State

/-- An element has passed drain; one that nothing feeds and that holds nothing has none to pass. -/
def elemDone (x : UnitSt) (e : Nat) : Bool :=
  match x.elems.get? e with
  | some y => y.drained
  | none => (fedChannels x e).isEmpty

/-- A tile has drained: no request to it is open, and of role TF, drain has passed after its tokens, or has come and
nothing leads out (R72 step 4). -/
def tileDone (x : UnitSt) (t : Nat) : Bool :=
  let k := x.tile t
  let fed := x.cfg.routes.any fun r => r.dst == .tile t
  k.waiting.isEmpty &&
  (if (x.cfg.routeFrom (.tile t)).isSome then k.passed && k.fifo.isEmpty else !fed || k.passed || k.fifo.any Token.isDrain)

/-- The section cache has drained: every access made to it has been performed, and each write-back it issued is done
(R72 steps 4 and 6, R135). -/
def cacheDone (s : State) (u : Nat) (x : UnitSt) : Bool :=
  x.cache.waits.isEmpty && x.cache.fills.isEmpty && x.cache.walks.isEmpty && !(s.sweep.items.any fun p => p.2.u == u)

/-- Every part of the section has drained. -/
def sectionDone (s : State) (u : Nat) (x : UnitSt) : Bool :=
  cacheDone s u x &&
  ((List.range x.cfg.elemCount).all (elemDone x)) && ((List.range x.cfg.tileCount).all (tileDone x)) && x.reqs.isEmpty &&
  ((List.range 32).all fun n => (x.cfg.bindCfg n).kind == .unbound || (x.bindSt n).passed) &&
  (List.range x.cfg.routes.length).all fun i => let r := x.route i; r.toks.isEmpty && r.order.isEmpty && r.turn.isEmpty

end State

end Sys2Proof.Machine
end

