-- ==== Sys2Proof/Machine/Budget.lean ====
section
/-! DEFINITION. The four budgets of a tenant, the rotation of tenants, and the buckets of the ingress points (R338-R342,
R344). -/

namespace Sys2Proof.Machine

/-- Bits `lo` to `hi` of a number. -/
def bitsOf (x hi lo : Nat) : Nat := x / 2 ^ lo % 2 ^ (hi + 1 - lo)

/-- Register of budget kind `k` of tenant `t` (R341). -/
def tbud (t k : Nat) : Nat := 0x1000 + 4 * (t % 1024) + k

namespace State

/-- The limit in force (R341). -/
def limitOf (s : State) (t k : Nat) : Nat := s.power.limit.getD (4 * (t % 1024) + k) 0xFFFFFFFF

/-- The limit that a refill in this cycle takes: a write in the same cycle comes after it (R341). -/
def refillLimit (s : State) (n : Nat) : Nat :=
  let now := (s.reg (0x1000 + n)).toNat % 2 ^ 32
  match s.power.written.get? n with
  | some (cyc, old) => if cyc = s.clk.cyc then old else now
  | none => now

/-- The balance; of an unlimited kind the greatest positive value (R339). -/
def balanceOf (s : State) (t k : Nat) : Int :=
  if s.limitOf t k = 0xFFFFFFFF then 0x7FFFFFFF else sintOf 32 ((s.reg (tbud t k)).toNat / 2 ^ 32)

/-- A balance written, clamped to 32 bits signed (R340). -/
def setBalance (s : State) (t k : Nat) (v : Int) : State :=
  let b := toBitsN 32 (max (-(2 ^ 31)) (min v (2 ^ 31 - 1)))
  s.setReg (tbud t k) (BitVec.ofNat 64 ((s.reg (tbud t k)).toNat % 2 ^ 32 + 2 ^ 32 * b))

/-- The budget bars nothing: its balance is above zero (R339). -/
def inBudget (s : State) (t k : Nat) : Bool := decide (0 < s.balanceOf t k)

/-- The budget refuses: its limit is zero (R339). -/
def noBudget (s : State) (t k : Nat) : Bool := s.limitOf t k == 0

/-- An amount charged; an unlimited budget is not (R339). -/
def charge (s : State) (t k amount : Nat) : State :=
  if s.limitOf t k = 0xFFFFFFFF then s else s.setBalance t k (s.balanceOf t k - amount)

end State

/-- Bytes rounded up to whole KiB (R339). -/
def kibOf (bytes : Nat) : Nat := (bytes + 1023) / 1024

/-- The tenant next after `turn`, cyclically upward, among some (R338). -/
def nextTenant (turn : Nat) (ts : List Nat) : Option Nat :=
  let lowest := fun (l : List Nat) => l.foldl (fun (a : Option Nat) t => match a with
    | none => some t
    | some b => some (min b t)) none
  match lowest (ts.filter fun t => turn < t) with
  | some t => some t
  | none => lowest ts

/-! ## Buckets (R342, R344) -/

/-- A bucket's fields: highest rate, depth, rate in force. -/
structure Bucket where
  ceiling : Nat
  depth : Nat
  rate : Nat
  deriving DecidableEq, Repr

namespace State

/-- The bucket of a point. -/
def bucket (s : State) (k : Nat) : Bucket :=
  let v := (s.reg (0x2000 + k)).toNat
  { ceiling := bitsOf v 15 0, depth := bitsOf v 31 16, rate := bitsOf v 47 32 }

/-- The credit of a bucket now, in 1/256 token: a full bucket at first, and never more than its depth (log 23). -/
def creditOf (s : State) (k : Nat) : Nat :=
  let b := s.bucket k
  let full := 256 * b.depth
  min full (s.power.credit.getD k full + b.rate * (s.clk.cyc - s.power.creditAt.getD k 0))

/-- A bucket's credit brought up to date, less an amount. -/
def spendCredit (s : State) (k amount : Nat) : State :=
  let c := s.creditOf k - amount
  { s with power := { s.power with credit := s.power.credit.set k c, creditAt := s.power.creditAt.set k s.clk.cyc } }

end State

end Sys2Proof.Machine
end

