-- ==== Sys2Proof/Config.lean ====
section
/-! DEFINITION. What an implementation fixes and what the manual leaves open: constants with no value that a proof
can see.  Each is named in notes/assumptions. -/

namespace Sys2Proof.Config

/-- What happens next when no happening is determined: the device's agents act at once and the manual orders them
only by R122-R136 and the deadlines its rules give (log 1). -/
opaque happens : Nat → Machine.Happening

/-- A value the manual leaves open, by the counter of such values. -/
opaque free : Nat → Nat

/-- 0 times infinity plus a quiet NaN raises invalid in a fused multiply-add: implementation-defined in IEEE 754
(R37, log 9). -/
opaque fmaZeroInfNaN : Bool

/-- The signature block verifies over these bytes under a pair of keys: Ed25519 by RFC 8032 and ML-DSA-65 by FIPS 204, both
(R398, R399, log 5). -/
opaque verifies : Machine.KeyPair → List Byte → List Byte → Bool

/-- The keys that fuses fix in slot 0 (R398). -/
opaque fusedKey : Machine.KeyPair

/-- What the serial boot flash holds, at the reading of this number (R402). -/
opaque flash : Nat → List Byte

/-- The key bundle that firmware finds for a slot 1-7, empty where there is none, and the keys that a bundle carries (R398). -/
opaque keyBundle : Nat → List Byte
opaque bundleKey : List Byte → Machine.KeyPair

/-- A key slot without which bring-up fails (R402). -/
opaque keyRequired : Nat → Bool

/-- The version that a firmware image gives itself (R402). -/
opaque fwVersion : List Byte → BitVec 32

/-- The key, of 64 bytes, that rows sealed under key generation `n` are enciphered with (R108, R401): the device draws it. -/
opaque sealKey : Nat → Nat

/-- The bytes of an attestation report by place: over its nonce, BOOTST, DOMID and LPOL, the firmware and the keys of the eight
slots (R400, log 5). -/
opaque attest : List Word → List Byte → List (Option Machine.KeyPair) → Nat → Byte

/-- What a least or greatest reduction of no element delivers, by op and type: every line of its span failed (R97, log 61). -/
opaque emptyReduce : Nat → Nat → Word

/-- The code of a refusal's reason that the manual gives by name alone: 1 record, 2 world, 3 job, 4 handle (R328, R330,
log 25); 5 for a graph that finds no room in the sequencer store, of which it gives neither (R13, log 58). -/
opaque reasonCode : Nat → BitVec 16

/-- Requests that the memory network between one port of an element and the tiles holds behind a tile whose places are
taken (R253, log 60). -/
opaque netPlaces : Nat

end Sys2Proof.Config
end

