-- ==== Sys2Proof/Machine/Trans.lean ====
section
/-! DEFINITION. The correctly rounded functions of one float lane (09_isa_float_bricks.md, R216-R223).

A transcendental value is computed in fixed point with 720 fraction bits, with an error far below 2^-600, and then
jammed (Real.jam).  The operands are FP32, FP16 or BF16, so an exact value that is no dyadic real stays further than
that from every point where a rounding changes; the only dyadic values of these functions are those R223 lists and
2^x of an integer x, which are taken exactly. -/

namespace Sys2Proof.Machine

/-- Fraction bits of the fixed point. -/
def fxP : Nat := 720

/-- One in fixed point. -/
def fxOne : Nat := 2 ^ 720

/-- floor(pi * 2^720). -/
def fxPi : Nat := 0x3243f6a8885a308d313198a2e03707344a4093822299f31d0082efa98ec4e6c89452821e638d01377be5466cf34e90c6cc0ac29b7c97c50dd3f84d5b5b54709179216d5d98979fb1bd1310ba698dfb5ac2ffd72dbd01adfb7b8e1

/-- floor(ln 2 * 2^720). -/
def fxLn2 : Nat := 0xb17217f7d1cf79abc9e3b39803f2f6af40f343267298b62d8a0d175b8baafa2be7b876206debac98559552fb4afa1b10ed2eae35c138214427573b291169b8253e96ca16224ae8c51acbda11317c387eb9ea9bc3b136603b256f

/-- The product of two fixed-point numbers. -/
def fxMul (x y : Int) : Int := x * y / 2 ^ 720

/-- A dyadic real in fixed point, exact when its last place is at or above 2^-720. -/
def fxOf (x : Dy) : Int := x.floorAt 720

/-- sum over k from `k` of term, where the next term is term * x / ((k + 1) (k + 1 + step - 1) ...): a Taylor series
whose terms are divided by one number (`step` = 1) or two (`step` = 2) at each turn. -/
def taylor (x : Int) (step : Nat) : Nat → Nat → Int → Int → Int
  | 0, _, _, acc => acc
  | n + 1, k, term, acc =>
    let d : Int := if step = 1 then k + 1 else (k + 1) * (k + 2)
    let t := fxMul term x / d
    taylor x step n (k + step) t (acc + t)

/-- e^x for |x| < 1. -/
def fxExp (x : Int) : Int := taylor x 1 150 0 fxOne fxOne

/-- sin x for |x| < 2. -/
def fxSin (x : Int) : Int := taylor (-(fxMul x x)) 2 90 1 x x

/-- cos x for |x| < 2. -/
def fxCos (x : Int) : Int := taylor (-(fxMul x x)) 2 90 0 fxOne fxOne

/-- z + z^3/3 + z^5/5 + ..., the inverse hyperbolic tangent of z, |z| ≤ 1/3. -/
def atanhGo (zz : Int) : Nat → Nat → Int → Int → Int
  | 0, _, _, acc => acc
  | n + 1, k, pw, acc =>
    let p := fxMul pw zz
    atanhGo zz n (k + 2) p (acc + p / (k + 2 : Nat))

/-- ln of m * 2^e with 1 ≤ m * 2^e < 2. -/
def fxLn (m : Nat) (e : Int) : Int :=
  let x := fxOf ⟨m, e⟩
  let z := (x - fxOne) * fxOne / (x + fxOne)
  2 * atanhGo (fxMul z z) 240 1 z z

/-- A fixed-point value that stands for a real which is no dyadic number. -/
def fxJam (v : Int) : Dy := ⟨2 * v + 1, -721⟩

/-- 2^x of a nonzero dyadic x (R222). -/
def exp2Dy (x : Dy) : Dy :=
  let i := x.floorAt 0
  let f := x.sub ⟨i, 0⟩
  if 4096 ≤ i then ⟨1, 4096⟩
  else if i < -4096 then ⟨1, -4097⟩
  else if f.m = 0 then ⟨1, i⟩
  else
    let v := fxExp (fxMul (fxOf f) fxLn2)
    ⟨2 * v + 1, i - 721⟩

/-- log2 of a positive dyadic value that is not 1 (R222). -/
def log2Dy (m : Nat) (e : Int) : Dy :=
  let k := m.log2
  let i : Int := e + k
  if m = 2 ^ k then ⟨i, 0⟩
  else fxJam (i * fxOne + fxLn m (-(k : Int)) * fxOne / fxLn2)

/-- x reduced by the nearest multiple of pi/2: the multiple and the rest in fixed point, for |x| < 2^17. -/
def reducePi2 (x : Dy) : Int × Int :=
  let v := fxOf x
  let half : Int := fxPi / 2
  let n := (2 * v + half) / (2 * half)
  -- n pi / 2 from n pi, so that the multiple carries one rounding only
  (n, v - n * fxPi / 2)

/-- sin x of a nonzero x, |x| < 2^17. -/
def sinDy (x : Dy) : Dy :=
  let (n, r) := reducePi2 x
  fxJam (match n % 4 with
    | 0 => fxSin r
    | 1 => fxCos r
    | 2 => -(fxSin r)
    | _ => -(fxCos r))

/-- cos x of a nonzero x, |x| < 2^17. -/
def cosDy (x : Dy) : Dy :=
  let (n, r) := reducePi2 x
  fxJam (match n % 4 with
    | 0 => fxCos r
    | 1 => -(fxSin r)
    | 2 => -(fxCos r)
    | _ => fxSin r)

/-- tanh of a nonzero magnitude m * 2^e: (E - 1) / (E + 1) with E = e^(2x).  From 32 upward it lies between
1 - 2^-90 and 1. -/
def tanhMag (m : Nat) (e : Int) : Dy :=
  let x : Dy := ⟨m, e⟩
  if Dy.le ⟨32, 0⟩ x then ⟨2 ^ 101 - 1, -101⟩
  else
    let y := 2 * fxOf x
    let n := y / fxLn2
    let ex := fxExp (y - n * fxLn2) * 2 ^ n.toNat
    fxJam ((ex - fxOne) * fxOne / (ex + fxOne))

/-- What one lane of a late function holds: its bits and flags. -/
def quietNaN (f : FFmt) (neg : Bool) (frac : Nat) : Nat :=
  f.signBit neg + f.eTop * 2 ^ f.mb + (if f.quietBit ≤ frac then frac else frac + f.quietBit)

/-- The NaN result of one operand that is a NaN (R216). -/
def nanLane1 (f : FFmt) : FVal → Option Lane
  | .nan neg q fr => some ⟨quietNaN f neg fr, Flags.when (!q) Flags.invalid⟩
  | _ => none

/-- The NaN result of two operands, the first NaN of them giving the payload (R216). -/
def nanLane2 (f : FFmt) (x y : FVal) : Option Lane :=
  let fl := Flags.when (x.isSNaN || y.isSNaN) Flags.invalid
  match x, y with
  | .nan neg _ fr, _ => some ⟨quietNaN f neg fr, fl⟩
  | _, .nan neg _ fr => some ⟨quietNaN f neg fr, fl⟩
  | _, _ => none

/-- The default NaN of an invalid operation. -/
def invalidLane (f : FFmt) : Lane := ⟨f.defaultNaN, Flags.invalid⟩

/-- The functions of one operand (R222). -/
inductive Fn1 where
  | rcp
  | rsq
  | sqrt
  | exp2
  | log2
  | sin
  | cos
  | tanh
  deriving DecidableEq, Repr

/-- One lane of FRCP, FRSQ, FSQRT, FEXP2, FLOG2, FSIN, FCOS or FTANH (R222, R223). -/
def fn1Lane (fn : Fn1) (f : FFmt) (flush : Bool) (mode : RMode) (bits : Nat) : Lane :=
  let x := f.decode flush bits
  let rd := fun (d : Dy) => f.roundDy flush mode 0 false d
  let one : Lane := rd ⟨1, 0⟩
  match x with
  | .nan neg q fr => ⟨quietNaN f neg fr, Flags.when (!q) Flags.invalid⟩
  | .inf neg =>
    match fn with
    | .rcp => ⟨f.signBit neg, 0⟩
    | .rsq => if neg then invalidLane f else ⟨0, 0⟩
    | .sqrt => if neg then invalidLane f else ⟨f.infBits false, 0⟩
    | .exp2 => if neg then ⟨0, 0⟩ else ⟨f.infBits false, 0⟩
    | .log2 => if neg then invalidLane f else ⟨f.infBits false, 0⟩
    | .sin => invalidLane f
    | .cos => invalidLane f
    | .tanh => f.round flush mode 0 neg 1 0
  | .fin neg m e =>
    if m = 0 then
      match fn with
      | .rcp => ⟨f.infBits neg, Flags.divzero⟩
      | .rsq => ⟨f.infBits neg, Flags.divzero⟩
      | .sqrt => ⟨f.signBit neg, 0⟩
      | .exp2 => one
      | .log2 => ⟨f.infBits true, Flags.divzero⟩
      | .sin => ⟨f.signBit neg, 0⟩
      | .cos => one
      | .tanh => ⟨f.signBit neg, 0⟩
    else
      let d : Dy := ⟨if neg then -(m : Int) else m, e⟩
      match fn with
      | .rcp =>
        let r := divMag ⟨1, 0⟩ ⟨m, e⟩
        f.round flush mode 0 neg r.m.natAbs r.e
      | .rsq => if neg then invalidLane f else rd (rsqrtMag ⟨m, e⟩)
      | .sqrt => if neg then invalidLane f else rd (sqrtMag ⟨m, e⟩)
      | .exp2 => rd (exp2Dy d)
      | .log2 => if neg then invalidLane f else rd (log2Dy m e)
      | .sin => if Dy.le ⟨2 ^ 17, 0⟩ d.abs then ⟨f.eTop * 2 ^ f.mb + (f.quietBit ||| 0x5C), Flags.range⟩ else rd (sinDy d)
      | .cos => if Dy.le ⟨2 ^ 17, 0⟩ d.abs then ⟨f.eTop * 2 ^ f.mb + (f.quietBit ||| 0x5C), Flags.range⟩ else rd (cosDy d)
      | .tanh =>
        let r := tanhMag m e
        f.round flush mode 0 neg r.m.natAbs r.e

/-- fexp2(x) = round(2^x, FP32, RNE) of FP32 bits, and its flags (R42). -/
def fexp2 (bits : Nat) : Lane := fn1Lane .exp2 .fp32 false .rne bits

end Sys2Proof.Machine
end

