-- ==== Sys2Proof/Machine/Arith.lean ====
section
/-! DEFINITION. Arithmetic on lane values with one rounding: sums, products, quotients, orders and the signs of zero
results (R37, R216-R221, R412). -/

namespace Sys2Proof.Machine

/-- The product of two values that are no NaN; none is the invalid 0 times infinity (R216, R412). -/
def FVal.mulV (x y : FVal) : Option FVal :=
  let neg := x.isNeg != y.isNeg
  match x, y with
  | .fin _ m e, .fin _ m' e' => some (.fin neg (m * m') (e + e'))
  | _, _ => if x.isZero || y.isZero then none else some (.inf neg)

/-- The sum of values that are no NaN; none is a sum of opposite infinities.  An exact zero has the one sign of zero
terms, else +0, or -0 when the mode is RDN (R412). -/
def sumV (mode : RMode) (l : List FVal) : Option FVal :=
  let p := l.any fun v => v.isInf && !v.isNeg
  let n := l.any fun v => v.isInf && v.isNeg
  if p && n then none
  else if p then some (.inf false)
  else if n then some (.inf true)
  else
    let s := Dy.sum (l.map FVal.dy)
    if s.m = 0 then
      if l.all fun v => v.isZero && v.isNeg then some (.fin true 0 0)
      else if l.all fun v => v.isZero && !v.isNeg then some (.fin false 0 0)
      else some (.fin (mode == .rdn) 0 0)
    else some (.fin (decide (s.m < 0)) s.m.natAbs s.e)

/-- A value that is no NaN in a format. -/
def FFmt.roundV (f : FFmt) (flush : Bool) (mode : RMode) (draw : BitVec 32) : FVal → Lane
  | .fin neg m e => f.round flush mode draw neg m e
  | .inf neg => match f.spec with
    | .ieee => ⟨f.infBits neg, 0⟩
    | _ => ⟨f.maxBits neg, Flags.saturation⟩
  | .nan neg _ fr => ⟨quietNaN f neg fr, 0⟩

/-- A value, or the default NaN of an invalid operation. -/
def FFmt.roundOp (f : FFmt) (flush : Bool) (mode : RMode) : Option FVal → Lane
  | some v => f.roundV flush mode 0 v
  | none => invalidLane f

/-- x < y of values that are no NaN. -/
def FVal.ltV (x y : FVal) : Bool :=
  match x, y with
  | .inf n, .inf n' => n && !n'
  | .inf n, _ => n
  | _, .inf n' => !n'
  | _, _ => x.dy.lt y.dy

/-- x = y of values that are no NaN; -0 = +0. -/
def FVal.eqV (x y : FVal) : Bool :=
  match x, y with
  | .inf n, .inf n' => n == n'
  | .inf _, _ => false
  | _, .inf _ => false
  | _, _ => x.dy.eq y.dy

/-- x before y in the order that puts -0 below +0 (R218). -/
def FVal.before (x y : FVal) : Bool := x.ltV y || (x.eqV y && x.isNeg && !y.isNeg)

/-- What a lane operation knows: the format, the section's flush bit and rounding mode. -/
structure FCtx where
  f : FFmt
  flush : Bool
  mode : RMode
  deriving DecidableEq, Repr

namespace FCtx

def dec (k : FCtx) (bits : Nat) : FVal := k.f.decode k.flush bits
def rnd (k : FCtx) (v : Option FVal) : Lane := k.f.roundOp k.flush k.mode v

end FCtx

/-- x + y (R217). -/
def laneFadd (k : FCtx) (x y : Nat) : Lane :=
  let a := k.dec x
  let b := k.dec y
  (nanLane2 k.f a b).getD (k.rnd (sumV k.mode [a, b]))

/-- x - y (R217). -/
def laneFsub (k : FCtx) (x y : Nat) : Lane :=
  let a := k.dec x
  let b := k.dec y
  (nanLane2 k.f a b).getD (k.rnd (sumV k.mode [a, b.neg']))

/-- x * y (R217). -/
def laneFmul (k : FCtx) (x y : Nat) : Lane :=
  let a := k.dec x
  let b := k.dec y
  (nanLane2 k.f a b).getD (k.rnd (a.mulV b))

/-- x / y (R217). -/
def laneFdiv (k : FCtx) (x y : Nat) : Lane :=
  let a := k.dec x
  let b := k.dec y
  let neg := a.isNeg != b.isNeg
  (nanLane2 k.f a b).getD
    (match a, b with
     | .inf _, .inf _ => invalidLane k.f
     | .inf _, _ => ⟨k.f.infBits neg, 0⟩
     | _, .inf _ => ⟨k.f.signBit neg, 0⟩
     | .fin _ m e, .fin _ m' e' =>
       if m' = 0 then (if m = 0 then invalidLane k.f else ⟨k.f.infBits neg, Flags.divzero⟩)
       else if m = 0 then ⟨k.f.signBit neg, 0⟩
       else
         let q := divMag ⟨m, e⟩ ⟨m', e'⟩
         k.f.round k.flush k.mode 0 neg q.m.natAbs q.e
     | _, _ => invalidLane k.f)

/-- x * y + z, or x * y - z (R217).  A NaN of z counts after those of x and y; whether 0 times infinity plus a quiet
NaN is invalid is left to the implementation (`zin`). -/
def laneFma (zin minus : Bool) (k : FCtx) (x y z : Nat) : Lane :=
  let a := k.dec x
  let b := k.dec y
  let c := k.dec z
  let snan := a.isSNaN || b.isSNaN || c.isSNaN
  match nanLane2 k.f a b with
  | some l => ⟨l.bits, Flags.when snan Flags.invalid⟩
  | none =>
    match c with
    | .nan neg _ fr => ⟨quietNaN k.f neg fr, Flags.when (snan || ((a.mulV b).isNone && zin)) Flags.invalid⟩
    | _ => k.rnd ((a.mulV b).bind fun p => sumV k.mode [p, if minus then c.neg' else c])

/-- The smaller (`least`) or greater of x and y (R218). -/
def laneFminmax (least : Bool) (k : FCtx) (x y : Nat) : Lane :=
  let a := k.dec x
  let b := k.dec y
  let fl := Flags.when (a.isSNaN || b.isSNaN) Flags.invalid
  let out := fun (v : FVal) => (⟨(k.f.roundV k.flush k.mode 0 v).bits, fl⟩ : Lane)
  if a.isNaN && b.isNaN then ⟨k.f.defaultNaN, fl⟩
  else if a.isNaN then out b
  else if b.isNaN then out a
  else if least then out (if b.before a then b else a)
  else out (if a.before b then b else a)

/-- The bits of an operand with its sign as given: a NaN's payload is kept, a flushed subnormal is zero (R36,
R219). -/
def signLane (k : FCtx) (x : Nat) (neg : Bool) : Lane :=
  let mag := x % 2 ^ (k.f.w - 1)
  ⟨k.f.signBit neg + (if (k.dec x).isZero then 0 else mag), 0⟩

/-- FABS (R219). -/
def laneFabs (k : FCtx) (x : Nat) : Lane := signLane k x false

/-- FNEG (R219). -/
def laneFneg (k : FCtx) (x : Nat) : Lane := signLane k x (!(k.dec x).isNeg)

/-- FCLS: the class code of the raw bits (R219). -/
def laneFcls (k : FCtx) (x : Nat) : Lane :=
  let c :=
    match k.f.decode false x with
    | .nan _ q _ => if q then 1 else 0
    | .inf n => if n then 2 else 9
    | .fin n m _ =>
      if m = 0 then (if n then 5 else 6)
      else if x / 2 ^ k.f.mb % 2 ^ k.f.eb = 0 then (if n then 4 else 7)
      else (if n then 3 else 8)
  ⟨c, 0⟩

/-- round(x * 2^n) (R219).  Beyond 5,000 every n gives the same result. -/
def laneFscl (k : FCtx) (x : Nat) (n : Int) : Lane :=
  match k.dec x with
  | .nan neg q fr => ⟨quietNaN k.f neg fr, Flags.when (!q) Flags.invalid⟩
  | .inf neg => ⟨k.f.infBits neg, 0⟩
  | .fin neg m e => k.f.round k.flush k.mode 0 neg m (e + max (-5000) (min n 5000))

/-- FFRC: x - trunc(x) with the sign of x (R219). -/
def laneFfrc (k : FCtx) (x : Nat) : Lane :=
  match k.dec x with
  | .nan neg q fr => ⟨quietNaN k.f neg fr, Flags.when (!q) Flags.invalid⟩
  | .inf _ => invalidLane k.f
  | .fin neg m e =>
    if 0 ≤ e then ⟨k.f.signBit neg, 0⟩
    else ⟨(k.f.round false .rne 0 neg (m % 2 ^ (-e).toNat) e).bits, 0⟩

/-- FRND: x rounded to an integral value in the section's mode (R219). -/
def laneFrnd (k : FCtx) (x : Nat) : Lane :=
  match k.dec x with
  | .nan neg q fr => ⟨quietNaN k.f neg fr, Flags.when (!q) Flags.invalid⟩
  | .inf neg => ⟨k.f.infBits neg, 0⟩
  | .fin neg m e =>
    if m = 0 then ⟨k.f.signBit neg, 0⟩
    else
      let (n, _) := roundAt k.mode neg 0 m e 0
      ⟨(k.f.round false .rne 0 neg n 0).bits, 0⟩

/-- The four float compares (R220). -/
inductive FCmp where
  | eq
  | lt
  | le
  | un
  deriving DecidableEq, Repr

/-- One lane of a float compare (R220). -/
def laneFcmp (c : FCmp) (k : FCtx) (x y : Nat) : Bool × Flags :=
  let a := k.dec x
  let b := k.dec y
  let nan := a.isNaN || b.isNaN
  let snan := a.isSNaN || b.isSNaN
  match c with
  | .eq => (!nan && a.eqV b, Flags.when snan Flags.invalid)
  | .lt => (!nan && a.ltV b, Flags.when nan Flags.invalid)
  | .le => (!nan && (a.ltV b || a.eqV b), Flags.when nan Flags.invalid)
  | .un => (nan, Flags.when snan Flags.invalid)

/-- The integer format FTOI gives for a float format (R221). -/
def ftoiPair : Fmt → Option Fmt
  | .fp64 => some .int64
  | .fp32 => some .int32
  | .fp16 => some .int16
  | .bf16 => some .int16
  | _ => none

end Sys2Proof.Machine
end

