-- ==== Sys2Proof/Machine/Operands.lean ====
section
/-! DEFINITION. Every operand form of a slot instruction and how a result reaches its destination
(R65, R152, R153, R178-R181). -/

namespace Sys2Proof

/-! ## What a source or destination names (R152, R153) -/

/-- The channel of a source. -/
def Src.chan? : Src → Option (Fin 4)
  | .ch n => some n
  | _ => none

/-- The register whose presence a source takes. -/
def Src.take? : Src → Option (Fin 8)
  | .take n => some n
  | _ => none

/-- The data register a source names. -/
def Src.reg? : Src → Option (Fin 8)
  | .g n => some n
  | .take n => some n
  | _ => none

/-- The register a destination names. -/
def Dst.reg? : Dst → Option (Fin 8)
  | .g n => some n
  | _ => none

/-- The outputs a destination names. -/
def Dst.outs : Dst → List Nat
  | .out d => Machine.outsOf d
  | _ => []

end Sys2Proof

namespace Sys2Proof.Machine

/-! ## What a rule sees on a channel (R61, R68-R70) -/

/-- A token ends an open burst: its tail, or a mark behind which no tail of it can come (R70, log 57). -/
def Token.endsBurst (t : Token) : Bool := t.isTail || t.isEos || t.isDrain

/-- The length of the burst at the head of a queue, when all of it is there, poison in it included; a mark head counts
as one, and so does a data or tail token with no open burst (R70). -/
def burstLen : List Token → Option Nat
  | [] => none
  | t :: rest =>
    if t.isData && t.mark == 1 then
      let i := rest.findIdx Token.endsBurst
      match rest[i]? with
      | some x => if x.isTail then some (i + 2) else none
      | none => none
    else some 1

/-- The bursts at the head of a whole-burst queue that are there entirely. -/
def wholeView : Nat → List Token → List Token
  | 0, _ => []
  | n + 1, q =>
    match burstLen q with
    | none => []
    | some k => q.take k ++ wholeView n (q.drop k)

/-- The mode of a channel's pair (R68, R168): 0 where its channels are independent. -/
def Elem.pairMode (x : Elem) (c : Fin 4) : Nat := if c.val < 2 then x.cfg.m01 else x.cfg.m23

/-- The other channel of a pair. -/
def partner (c : Fin 4) : Fin 4 := Fin.ofNat 4 (if c.val % 2 = 0 then c.val + 1 else c.val - 1)

/-- A mark head other than end-of-stream stands in front of the merge, everything before it gone (R68). -/
def Chan.stopped (c : Chan) : Bool :=
  c.q.isEmpty && match c.raw.head? with
    | some t => !t.isData && !t.isEos
    | none => false

/-- What stands at the head of a channel in front of its merge: the mark that stops the merge, and the next data head
beside it (R68). -/
def Elem.standing (x : Elem) (c : Fin 4) : List Token :=
  if x.pairMode c = 0 then []
  else if x.ins[c].stopped then x.ins[c].raw.take 1
  else if x.ins[c].q.isEmpty && x.ins[partner c].stopped then (x.ins[c].raw.take 1).filter Token.isData
  else []

/-- The tokens of a channel up to a configuration token, which is no operand (R61); of a whole-burst input only
complete bursts (R70); of a pair whose merge is stopped what stands in front of it (R68). -/
def Elem.visible (x : Elem) (c : Fin 4) : List Token :=
  let q := if x.ins[c].q.isEmpty then x.standing c else x.ins[c].q
  (if x.cfg.whole.getLsbD c then wholeView q.length q else q).takeWhile fun t => !t.isConfig

/-! ## The merge of an input pair (R68) -/

/-- A data head out of order, or a data head moved on by the merge: what is left of a channel's raw queue, with the
coordinate of its last data head. -/
def Chan.pass (c : Chan) (t : Token) : Chan := { c with q := c.q ++ [t], raw := c.raw.drop 1, last := some t.coord }

/-- A data head discarded by the merge. -/
def Chan.discard (c : Chan) (t : Token) : Chan := { c with raw := c.raw.drop 1, last := some t.coord }

/-- The value read as +0 beside a data head that has no partner. -/
def Chan.zeroFor (c : Chan) (t : Token) : Chan := { c with q := c.q ++ [{ t with payload := 0 }] }

/-- The coordinate does not rise (R68). -/
def Chan.falls (c : Chan) (t : Token) : Bool :=
  match c.last with
  | some v => decide (t.coord.toNat ≤ v.toNat)
  | none => false

/-- An out-of-order data head becomes poison in its place (R27, R68).  The predecessor of the next head is the last head in
order, and not the one that became poison (DESIGN CHOICE, log 57). -/
def Chan.orderPoison (c : Chan) (t : Token) : Chan :=
  { c with q := c.q ++ [Token.poison 0x31 t.coord], raw := c.raw.drop 1 }

/-- One step of a merge with mode 1 intersect, 2 union, 3 leftjoin; none where it waits or is stopped. -/
def mergeStep (mode : Nat) (l r : Chan) : Option (Chan × Chan) :=
  let onlyL := fun (t : Token) => if mode = 1 then (l.discard t, r) else (l.pass t, r.zeroFor t)
  let onlyR := fun (t : Token) => if mode = 2 then (l.zeroFor t, r.pass t) else (l, r.discard t)
  match l.raw.head?, r.raw.head? with
  | some a, some b =>
    if a.isData && l.falls a then some (l.orderPoison a, r)
    else if b.isData && r.falls b then some (l, r.orderPoison b)
    else if a.isData && b.isData then
      if a.coord = b.coord then some (l.pass a, r.pass b)
      else if a.coord.toNat < b.coord.toNat then some (onlyL a)
      else some (onlyR b)
    else if a.isData && b.isEos then some (onlyL a)
    else if a.isEos && b.isData then some (onlyR b)
    else if a.isEos && b.isEos then
      some ({ l with q := l.q ++ [a], raw := l.raw.drop 1, last := none }, { r with q := r.q ++ [b], raw := r.raw.drop 1, last := none })
    else none
  | some a, none => if a.isData && l.falls a then some (l.orderPoison a, r) else none
  | none, some b => if b.isData && r.falls b then some (l, r.orderPoison b) else none
  | none, none => none

/-- A merge run as far as it goes, at most `n` steps. -/
def mergeRun (mode : Nat) : Nat → Chan → Chan → Chan × Chan
  | 0, l, r => (l, r)
  | n + 1, l, r =>
    match mergeStep mode l r with
    | some p => mergeRun mode n p.1 p.2
    | none => (l, r)

/-- The merge of the pair whose left channel is given. -/
def Elem.mergePair (x : Elem) (a b : Fin 4) : Elem :=
  let m := x.pairMode a
  if m = 0 then x
  else
    let p := mergeRun m (x.ins[a].raw.length + x.ins[b].raw.length) x.ins[a] x.ins[b]
    (x.setChan a p.1).setChan b p.2

/-- Both merges. -/
def Elem.merge (x : Elem) : Elem := (x.mergePair 0 1).mergePair 2 3

/-- The head taken off a channel; a drain token taken has passed (R72), and a merge that it stopped goes on (R68). -/
def Elem.dequeue (x : Elem) (c : Fin 4) : Elem :=
  match x.ins[c].q, x.standing c with
  | t :: rest, _ => (x.setChan c { x.ins[c] with q := rest, passed := x.ins[c].passed || t.isDrain }).addPerf 2 1
  | [], t :: _ =>
    ((x.setChan c { x.ins[c] with
        raw := x.ins[c].raw.drop 1
        passed := x.ins[c].passed || t.isDrain
        last := if t.isData then some t.coord else x.ins[c].last }).addPerf 2 1).merge
  | [], [] => x

/-! ## Operands -/

/-- A channel token as an operand: tagged when it is a data head; end-of-stream and drain read as zero (R178,
R181). -/
def OpVal.ofTok (t : Token) : OpVal where
  tok := some t
  bits := if t.isEos || t.isDrain then 0 else t.payload
  tag := if t.isData then some t.tag else none

/-- A register as an operand. -/
def OpVal.ofReg (r : GReg) : OpVal := { bits := r.val, tag := some r.tag }

/-- An operand that is no channel, at the first beat; bt and cx are read at their beat. -/
def Elem.readReg (x : Elem) : Src → OpVal
  | .g n => .ofReg x.g[n]
  | .take n => .ofReg x.g[n]
  | .k n => { bits := x.k[n] }
  | .one => { bits := 1, isOne := true }
  | _ => {}

/-- The source's token is the head of its channel; every other source needs none. -/
def Elem.tokReady (x : Elem) (s : Src) : Bool :=
  match s.chan? with
  | some c => !(x.visible c).isEmpty
  | none => true

/-- An operand at beat `b` with the beat's coordinate: the head of a channel, the values captured at the first
beat, the beat index or the coordinate (R65). -/
def Elem.operand (x : Elem) (cap : OpVal) (b : Nat) (cx : BitVec 32) : Src → OpVal
  | .ch c => match (x.visible c).head? with
    | some t => .ofTok t
    | none => {}
  | .bt => { bits := BitVec.ofNat 64 b }
  | .cx => { bits := cx.setWidth 64 }
  | _ => cap

/-- Everything one beat of a firing reads (R65, R178). -/
structure Beat where
  u : Nat
  e : Nat
  slot : Nat
  /-- Beat b of N. -/
  b : Nat
  n : Nat
  a : OpVal
  bb : OpVal
  /-- The beat's coordinate, and the token that supplies it. -/
  cx : BitVec 32
  cxTok : Option Token
  cap : Captured
  /-- The section's palette, rounding mode and flush bit. -/
  pal : Word
  mode : RMode
  flush : Bool
  deriving DecidableEq, Repr

namespace Beat

/-- This is the last beat. -/
def last (bt : Beat) : Bool := bt.b + 1 == bt.n

/-- The rule's tag T: the first tagged operand's, else 0 (R178). -/
def T (bt : Beat) : BitVec 3 :=
  match bt.a.tag with
  | some t => t
  | none => (bt.bb.tag).getD 0

/-- The rule's format F: palette entry T (R178). -/
def F (bt : Beat) : Option Fmt := palFmt bt.pal bt.T.toNat

/-- Both operands are tagged and their tags differ (R178). -/
def mismatch (bt : Beat) : Bool :=
  match bt.a.tag, bt.bb.tag with
  | some x, some y => x != y
  | _, _ => false

end Beat

/-- An operand read in the lanes of a format: `one` is the value 1 in every lane (R178); of BITMAP64 each of the 64 bits is a
lane (DESIGN CHOICE, log 18: R179 and R201 also speak of one lane of 64 bits). -/
def OpVal.inFmt (o : OpVal) (f : Fmt) : Word :=
  if o.isOne then genLanes f fun _ => oneLane f else o.bits

/-- A poison token among the operands, source A's first (R181). -/
def Beat.poison? (bt : Beat) : Option Token :=
  match bt.a.tok with
  | some t => if t.isPoison then some t else
      (match bt.bb.tok with
       | some t' => if t'.isPoison then some t' else none
       | none => none)
  | none =>
    match bt.bb.tok with
    | some t' => if t'.isPoison then some t' else none
    | none => none

/-- A drain token among the operands (R181). -/
def Beat.drain? (bt : Beat) : Bool :=
  (match bt.a.tok with | some t => t.isDrain | none => false) ||
  (match bt.bb.tok with | some t => t.isDrain | none => false)

/-- The mark of a computed result: that of the data head which supplies cx, else data (R180). -/
def Beat.mark (bt : Beat) : BitVec 3 :=
  match bt.cxTok with
  | some t => if t.isData then t.mark else 0
  | none => 0

/-- The token of a computed result (R180). -/
def Beat.result (bt : Beat) (v : Word) (tag : BitVec 3) : Token := ⟨bt.mark, tag, bt.cx, v⟩

/-- What an output receives for a computed result: the result, a copy of a poison operand, or nothing when an
operand is drain (R181). -/
def Beat.outTok (bt : Beat) (t : Token) : Option Token :=
  match bt.poison? with
  | some p => some p
  | none => if bt.drain? then none else some t

/-- One token for each output a destination names. -/
def sendAll (d : ODst) : Option Token → List (Nat × Token)
  | some t => (outsOf d).map fun o => (o, t)
  | none => []

/-- The flag of a poison operand (R181). -/
def Beat.poisonFlag (bt : Beat) : Flags := Flags.when bt.poison?.isSome Flags.invalid

/-- Flags raised in the firing element. -/
def Beat.raise (bt : Beat) (s : State) (f : Flags) : State := if f = 0 then s else s.raise bt.u bt.e f

/-- The firing element changed. -/
def Beat.mod (bt : Beat) (s : State) (f : Elem → Elem) : State := s.modElem bt.u bt.e f

/-- A computed result delivered at this beat (R180, R181): the state, and the tokens to send. -/
def Beat.deliver (bt : Beat) (s : State) (d : Dst) (v : Word) (tag : BitVec 3) (fl : Flags) :
    State × List (Nat × Token) :=
  let s := bt.raise s (fl ||| bt.poisonFlag)
  match d with
  | .g n => (bt.mod s fun x => x.setG n v tag, [])
  | .out o => (s, sendAll o (bt.outTok (bt.result v tag)))
  | .z => (s, [])

/-- The token a forwarded operand is (R185): a channel token whole, anything else a data token with the operand's
own tag, or T. -/
def Beat.fwd (bt : Beat) (o : OpVal) : Token :=
  match o.tok with
  | some t => t
  | none => ⟨0, o.tag.getD bt.T, bt.cx, o.bits⟩

/-- A forwarded token sent on outputs: drain is not sent (R181). -/
def sendFwd (outs : List Nat) (t : Token) : List (Nat × Token) :=
  if t.isDrain then [] else outs.map fun o => (o, t)

/-- A forwarded operand delivered (R180, R181, R185): into a register go the payload and the operand's own tag, or T
for an untagged one. -/
def Beat.forward (bt : Beat) (s : State) (d : Dst) (o : OpVal) : State × List (Nat × Token) :=
  match d with
  | .g n => (bt.mod s fun x => x.setG n o.bits (o.tag.getD bt.T), [])
  | .out dd => (s, sendFwd (outsOf dd) (bt.fwd o))
  | .z => (s, [])

/-- A late result put under way (R224, R253): a register is pending from now, an output's credit is taken.  `tok` is
the result when it is known. -/
def Beat.addLate (bt : Beat) (s : State) (d : Dst) (tok : Option Token) (send : Bool) (due req : Nat) (last : Bool)
    (acc : Option (Fin 4) := none) : State :=
  match d with
  | .g n => bt.mod s fun x =>
      { (x.pendG n true) with late := x.late ++ [{ dst := .reg n, tok := tok, send := send, due := due, last := last, req := req, acc := acc }] }
  | .out o => bt.mod s fun x =>
      { x with late := x.late ++ [{ dst := .out o, tok := tok, send := send, due := due, last := last, req := req, acc := acc }] }
  | .z => s

/-- The cycle of a beat: a beat behind others of its firing comes when the datapath is free of them (R65, R224). -/
def Beat.now (bt : Beat) (s : State) : Nat := max (s.elem bt.u bt.e).busy s.clk.cyc

/-- A computed late result (R181, R224): its outputs receive a copy of a poison operand, or nothing for drain; its
register receives the value. -/
def Beat.deliverLate (bt : Beat) (s : State) (d : Dst) (v : Word) (tag : BitVec 3) (fl : Flags) (lat : Nat)
    (acc : Option (Fin 4) := none) : State :=
  let s := bt.raise s (fl ||| bt.poisonFlag)
  let due := bt.now s + lat
  match d with
  | .out _ =>
    match bt.outTok (bt.result v tag) with
    | some t => bt.addLate s d (some t) true due 0 bt.last acc
    | none => s
  | _ => bt.addLate s d (some (bt.result v tag)) true due 0 bt.last acc

end Sys2Proof.Machine
end

