-- ==== Sys2Proof/Machine/Fire.lean ====
section
/-! DEFINITION. One firing of a rule: its beats, the places where it waits with the datapath held, what its trigger
applies, and how a stopped firing goes on (R62, R64-R67, R71, R182, R374).  Every slot instruction's meaning is a
`Plan` run by `fire`. -/

namespace Sys2Proof.Machine

/-- What a beat does: the state after it but for its sends, what the firing carries on, the tokens it sends now, the
outputs on which late results take credit, and the cycles it holds the datapath. -/
structure Done where
  s : State
  c : Carry
  sends : List (Nat × Token) := []
  need : List Nat := []
  cyc : Nat := 1

/-- How a beat ends. -/
inductive Out where
  | go (d : Done)
  /-- The firing waits at this beat; the state and the carry keep what it has taken so far. -/
  | hold (s : State) (c : Carry)
  /-- The firing ends here and its later beats do nothing (R303). -/
  | quit (d : Done)
  /-- The element traps (R371). -/
  | trap (s : State) (cause item va : Nat)

/-- The meaning of a slot instruction as the firing engine runs it. -/
structure Plan where
  t : Fin 64
  a : Src := .z
  b : Src := .z
  pa : Bool := false
  pb : Bool := false
  /-- The register captured at the first beat as the destination. -/
  dst : Option (Fin 8) := none
  /-- Registers read whole at the first beat. -/
  words : Elem → List Word := fun _ => []
  /-- Further registers whose presence the firing takes. -/
  takes : List (Fin 8) := []
  /-- The engine waits for a token on each channel operand and dequeues it; off for the instructions that decide
  their own dequeuing. -/
  auto : Bool := true
  beat : State → Beat → Carry → Out
  /-- After the last beat. -/
  fin : Option (State → Beat → Carry → Out) := none

namespace Plan

/-- Registers whose presence is cleared at the last beat (R65). -/
def taken (p : Plan) : List (Fin 8) := p.a.take?.toList ++ p.b.take?.toList ++ p.takes

/-- The channels a beat dequeues: unless peeked; one channel read twice is dequeued once, unless both peek
(R152). -/
def deqs (p : Plan) : List (Fin 4) :=
  if !p.auto then []
  else
    match p.a.chan?, p.b.chan? with
    | some x, some y =>
      if x = y then (if p.pa && p.pb then [] else [x])
      else (if p.pa then [] else [x]) ++ (if p.pb then [] else [y])
    | some x, none => if p.pa then [] else [x]
    | none, some y => if p.pb then [] else [y]
    | none, none => []

/-- Every token the beat reads is there. -/
def tokens (p : Plan) (x : Elem) : Bool := !p.auto || (x.tokReady p.a && x.tokReady p.b)

/-- What the firing reads at its first beat. -/
def capture (p : Plan) (x : Elem) (slot : Nat) : Captured where
  a := x.readReg p.a
  b := x.readReg p.b
  dst := match p.dst with
    | some n => x.g[n]
    | none => {}
  p0 := x.pred 0
  words := p.words x
  entry := x.trigger p.t
  desc := x.descOf slot

/-- The operands of beat `b` (R65): cx is the coordinate of source A's token if A is a channel, else of source B's. -/
def beatOf (p : Plan) (s : State) (u e slot n b : Nat) (cap : Captured) : Beat :=
  let x := s.elem u e
  let cfg := s.cfgOf u
  let at0 := fun (c : Option (Fin 4)) => c.bind fun c => (x.visible c).head?
  let tok := match p.a.chan? with
    | some _ => at0 p.a.chan?
    | none => at0 p.b.chan?
  let cx := match tok with
    | some t => t.coord
    | none => 0
  { u := u, e := e, slot := slot, b := b, n := n, a := x.operand cap.a b cx p.a, bb := x.operand cap.b b cx p.b,
    cx := cx, cxTok := tok, cap := cap, pal := cfg.pal, mode := RMode.ofCode cfg.mode, flush := cfg.flush }

end Plan

/-- Credit for everything a beat sends and takes (R182). -/
def Done.credit (d : Done) (s : State) (u e : Nat) : Bool :=
  match s.unit? u with
  | none => true
  | some x => [0, 1, 2, 3].all fun o =>
      let k := (d.sends.filter fun p => p.1 = o).length + (d.need.filter fun p => p = o).length
      k == 0 || x.credit e o k

/-- The sends of a beat leave. -/
def sendOut (s : State) (u e : Nat) : List (Nat × Token) → State
  | [] => s
  | (o, t) :: rest => sendOut (s.modUnit u fun x => x.send e o t) u e rest

/-- The datapath is held for more cycles (R65). -/
def Elem.hold (x : Elem) (now cyc : Nat) : Elem := { x with busy := max x.busy now + cyc }

/-- The firing waits at beat `b` (R182, R374). -/
def stopAt (s : State) (u e slot b : Nat) (cap : Captured) (c : Carry) : State :=
  s.modElem u e fun x => { x with firing := some { slot := slot, beat := b, cap := cap, carry := c } }

/-- Presence cleared at the last beat, before its writes, so that a write of the same register wins (R66). -/
def clearTaken (s : State) (u e : Nat) (l : List (Fin 8)) : State :=
  if l.isEmpty then s else s.modElem u e fun x => l.foldl Elem.clearG x

/-- What comes after the last beat: the trigger's predicates, set then cleared as no predicate is in both (R163);
the wave counter of an ordered slot; the datapath is free (R65, R71, R209). -/
def endFiring (s : State) (u e : Nat) (cap : Captured) : State :=
  s.modElem u e fun x =>
    let w := cap.entry
    let d := cap.desc
    { x with
      p := (x.p ||| (Trig.pset w &&& 0x7F)) &&& ~~~(Trig.pclr w)
      wave := if Desc.ordered d then Desc.succ d else x.wave
      firing := none }

/-- What comes at the first beat: required control counters fall by one, the status word shows the slot, the firing
is counted (R62, R65, R75, R355). -/
def beginFiring (s : State) (u e slot : Nat) (t : Fin 64) : State :=
  s.modElem u e fun x =>
    let m := Trig.cmask (x.trigger t)
    let dec := fun (i : Fin 4) (y : Elem) =>
      if m.getLsbD i then { y with ctl := y.ctl.set i (y.ctl[i] - 1) } else y
    let y := dec 0 (dec 1 (dec 2 (dec 3 x)))
    { y.addPerf 0 1 with
      last := BitVec.ofNat 5 slot
      lastFire := s.clk.cyc
      idleBit := false
      starveAt := y.starveAt.erase slot }

/-- The flags that a beat which traps raises: those an element has after it that had none (R369). -/
def raisedBy (f : State → Out) (s : State) (u e : Nat) : Flags :=
  match f (s.modElem u e fun y => { y with fl := 0 }) with
  | .trap t _ _ _ => (t.elem u e).fl
  | _ => 0

/-- The trap of a beat: taken when its record finds a place, else the firing waits there (R371, R372). -/
def beatTrap (f : State → Out) (s0 s : State) (u e slot b : Nat) (cap : Captured) (c : Carry) (cause item va : Nat) : State :=
  if s.canTrap u then s.trap u e slot cause item va 0 0 (raisedBy f s0 u e) else stopAt s0 u e slot b cap c

/-- The end of the firing, its last delivery included. -/
def runFin (p : Plan) (s : State) (u e slot n : Nat) (cap : Captured) (bt : Beat) (c : Carry) : State :=
  match p.fin with
  | none => endFiring s u e cap
  | some f =>
    match f s bt c with
    | .go d =>
      if d.credit s u e then
        endFiring ((sendOut d.s u e d.sends).modElem u e fun x => x.hold s.clk.cyc (d.cyc - 1)) u e cap
      else stopAt s u e slot n cap { c with tok := bt.cxTok }
    | .quit d => endFiring (sendOut d.s u e d.sends) u e cap
    | .hold s' c' => stopAt s' u e slot n cap c'
    | .trap s' cause item va => beatTrap (fun t => f t bt c) s s' u e slot n cap c cause item va

/-- The beats from `b` on, `k` of them left (R65). -/
def runBeats (p : Plan) (u e slot n : Nat) (cap : Captured) : Nat → Nat → State → Carry → State
  | 0, _, s, _ => s
  | k + 1, b, s, c =>
    let x := s.elem u e
    if !p.tokens x then stopAt s u e slot b cap c
    else
      let bt := p.beatOf s u e slot n b cap
      let s0 := if bt.last then clearTaken s u e p.taken else s
      match p.beat s0 bt c with
      | .hold s' c' => stopAt s' u e slot b cap c'
      | .trap s' cause item va => beatTrap (fun t => p.beat t bt c) s s' u e slot b cap c cause item va
      | .quit d =>
        if d.credit s u e then
          endFiring ((sendOut d.s u e d.sends).modElem u e fun y => y.hold s.clk.cyc d.cyc) u e cap
        else stopAt s u e slot b cap c
      | .go d =>
        if !d.credit s u e then stopAt s u e slot b cap c
        else
          let s1 := (sendOut d.s u e d.sends).modElem u e fun y =>
            (p.deqs.foldl Elem.dequeue y).hold s.clk.cyc d.cyc
          if k = 0 then runFin p s1 u e slot n cap bt d.c
          else runBeats p u e slot n cap k (b + 1) s1 d.c

/-- The last beat's operands again, for a firing stopped after it: its coordinate token is in the carry. -/
def finBeat (p : Plan) (s : State) (u e slot n : Nat) (cap : Captured) (c : Carry) : Beat :=
  let bt := p.beatOf s u e slot n (n - 1) cap
  { bt with
    a := match p.a.chan?, c.tok with
      | some _, some t => .ofTok t
      | _, _ => bt.a
    cxTok := c.tok
    cx := match c.tok with
      | some t => t.coord
      | none => 0 }

/-- A FIRING of the element in focus: a new one, or the one that stands stopped, from the beat it stopped at. -/
def fire (p : Plan) (s : State) : Host.Outcome State Fault Refusal :=
  match s.focus with
  | none => .fault .noElement
  | some f =>
    if !s.elemExists f.u f.e then .fault .noElement
    else
      let x := s.elem f.u f.e
      match x.firing with
      | some st =>
        let n := Trig.n st.cap.entry
        if st.slot ≠ f.slot then .next s
        else if st.beat < n then
          .next (runBeats p f.u f.e f.slot n st.cap (n - st.beat) st.beat s st.carry)
        else .next (runFin p s f.u f.e f.slot n st.cap (finBeat p s f.u f.e f.slot n st.cap st.carry) st.carry)
      | none =>
        let n := Trig.n (x.trigger p.t)
        .next (runBeats p f.u f.e f.slot n (p.capture x f.slot) n 0 (beginFiring s f.u f.e f.slot p.t) {})

end Sys2Proof.Machine
end

