-- ==== Sys2Proof/Machine/Flow.lean ====
section
/-! DEFINITION. Class 0: flow and predicates (R184-R197). -/

namespace Sys2Proof.Machine

/-- A beat that only delivers. -/
def goSends (c : Carry) (r : State × List (Nat × Token)) : Out := .go { s := r.1, c := c, sends := r.2 }

/-- A beat that does nothing but take its operands. -/
def idleBeat (s : State) (_ : Beat) (c : Carry) : Out := .go { s := s, c := c }

/-- NOP (R184). -/
def execNop (t : Fin 64) (a b : Opd) (s : State) : Host.Outcome State Fault Refusal :=
  fire { t := t, a := a.src, b := b.src, pa := a.peek, pb := b.peek, beat := idleBeat } s

/-- MOV (R185). -/
def execMov (t : Fin 64) (d : Dst) (a : Opd) (s : State) : Host.Outcome State Fault Refusal :=
  fire { t := t, a := a.src, pa := a.peek, beat := fun s bt c => goSends c (bt.forward s d bt.a) } s

/-- Source A with the new tag of MOVT, and whether the new tag is that of an empty palette entry (R186). -/
def retag (bt : Beat) : OpVal × Bool :=
  let t := bt.bb.bits.setWidth 3
  let ok := (palFmt bt.pal t.toNat).isSome
  match bt.a.tok with
  | some k =>
    if !k.isData then (bt.a, !ok)
    else if ok then ({ bt.a with tok := some { k with tag := t }, tag := some t }, false)
    else (bt.a, true)
  | none => if ok then ({ bt.a with tag := some t }, false) else (bt.a, true)

/-- MOVT (R186).  A poison token that is only the new tag has its payload bits read and raises nothing (DESIGN CHOICE, log 26). -/
def execMovt (t : Fin 64) (d : Dst) (a b : Opd) (s : State) : Host.Outcome State Fault Refusal :=
  fire { t := t, a := a.src, b := b.src, pa := a.peek, pb := b.peek
         beat := fun s bt c =>
           let r := retag bt
           goSends c (bt.forward (bt.raise s (Flags.when r.2 Flags.invalid)) d r.1) } s

/-- The outputs FORK picks of those its destination names (R187). -/
def forkOuts (d : ODst) (sel : Word) : List Nat := (outsOf d).filter fun j => sel.getLsbD j

/-- FORK (R187).  A poison token that is only the selector has its payload bits read and raises nothing (DESIGN CHOICE, log 26). -/
def execFork (t : Fin 64) (d : ODst) (a b : Opd) (s : State) : Host.Outcome State Fault Refusal :=
  fire { t := t, a := a.src, b := b.src, pa := a.peek, pb := b.peek
         beat := fun s bt c => goSends c (s, sendFwd (forkOuts d bt.bb.bits) (bt.fwd bt.a)) } s

/-- The one output SPLIT picks (R187). -/
def splitOut (d : ODst) (sel : Word) : Nat :=
  match d with
  | .o n => n.val
  | .o01 => sel.toNat % 2
  | .o23 => 2 + sel.toNat % 2
  | .oall => sel.toNat % 4

/-- SPLIT (R187).  A poison token that is only the selector has its payload bits read and raises nothing (DESIGN CHOICE, log 26). -/
def execSplit (t : Fin 64) (d : ODst) (a b : Opd) (s : State) : Host.Outcome State Fault Refusal :=
  fire { t := t, a := a.src, b := b.src, pa := a.peek, pb := b.peek
         beat := fun s bt c => goSends c (s, sendFwd [splitOut d bt.bb.bits] (bt.fwd bt.a)) } s

/-- SEL: p0 as it was at the first beat chooses (R188).  A poison token that is not chosen is ignored (DESIGN CHOICE, log 26). -/
def execSel (t : Fin 64) (d : Dst) (a b : Opd) (s : State) : Host.Outcome State Fault Refusal :=
  fire { t := t, a := a.src, b := b.src, pa := a.peek, pb := b.peek
         beat := fun s bt c => goSends c (bt.forward s d (if bt.cap.p0 then bt.a else bt.bb)) } s

/-- The operand is a data head. -/
def OpVal.isData (o : OpVal) : Bool :=
  match o.tok with
  | some t => t.isData
  | none => false

/-- MRG: the data head of A, else that of B; only the forwarded token is dequeued; it waits while neither is there
(R189). -/
def execMrg (t : Fin 64) (d : Dst) (a b : Fin 4) (s : State) : Host.Outcome State Fault Refusal :=
  fire { t := t, a := .ch a, b := .ch b, auto := false
         beat := fun s bt c =>
           if bt.a.isData then goSends c (bt.forward (bt.mod s fun x => x.dequeue a) d bt.a)
           else if bt.bb.isData then goSends c (bt.forward (bt.mod s fun x => x.dequeue b) d bt.bb)
           else .hold s c } s

/-- DROP (R190). -/
def execDrop (t : Fin 64) (a : Src) (s : State) : Host.Outcome State Fault Refusal :=
  fire { t := t, a := a
         beat := fun s bt c =>
           .go { s := match a.reg? with
                   | some n => bt.mod s fun x => x.clearG n
                   | none => s
                 c := c } } s

/-- The token of MARK for code `m` (R191); code 5 sends none. -/
def markTok (bt : Beat) (m : Nat) : Option Token :=
  if m < 4 then some ⟨BitVec.ofNat 3 m, bt.T, bt.cx, bt.a.bits⟩
  else if m = 4 then some Token.eos
  else if m = 5 then none
  else if m = 6 then some ⟨6, 0, bt.cx, bt.a.bits⟩
  else some (Token.poison (bt.a.bits.toNat % 65536) bt.cx)

/-- MARK (R191): of an invalid code or of a poison operand the flag, of a poison operand its copy (R181). -/
def execMark (t : Fin 64) (d : ODst) (a b : Opd) (s : State) : Host.Outcome State Fault Refusal :=
  fire { t := t, a := a.src, b := b.src, pa := a.peek, pb := b.peek
         beat := fun s bt c =>
           match markTok bt (bt.bb.bits.toNat % 8) with
           | some k => goSends c (bt.raise s bt.poisonFlag, sendAll d (bt.outTok k))
           | none => goSends c (bt.raise s Flags.invalid, sendAll d (bt.poison?)) } s

/-- EMIT (R192). -/
def execEmit (t : Fin 64) (d : ODst) (a b : Opd) (s : State) : Host.Outcome State Fault Refusal :=
  fire { t := t, a := a.src, b := b.src, pa := a.peek, pb := b.peek
         beat := fun s _ c => goSends c (s, sendAll d (some Token.eos)) } s

/-- The metadata of source A (R193). -/
def tagsOf (o : OpVal) : Word :=
  let tag := (o.tag.getD 0).toNat
  match o.tok with
  | some k => BitVec.ofNat 64 (tag + 8 * k.mark.toNat + 2 ^ 32 * k.coord.toNat)
  | none => BitVec.ofNat 64 tag

/-- TAGS: no poison is passed on and none raises a flag (R193); drain still sends nothing (R181). -/
def execTags (t : Fin 64) (d : Dst) (a : Opd) (s : State) : Host.Outcome State Fault Refusal :=
  fire { t := t, a := a.src, pa := a.peek
         beat := fun s bt c =>
           let v := tagsOf bt.a
           match d with
           | .g n => goSends c (bt.mod s fun x => x.setG n v bt.T, [])
           | .out o => goSends c (s, sendAll o (if bt.drain? then none else some (bt.result v bt.T)))
           | .z => goSends c (s, []) } s

/-- A and B tested at every beat; after the last the predicate is written: 0 for a poison operand, else `v` where a
beat was nonzero (R181, R194, R209). -/
def predTest (v : Bool) (d : Fin 8) (s : State) (bt : Beat) (c : Carry) : Out :=
  let c := { c with any := c.any || (bt.a.bits &&& bt.bb.bits) != 0, ok := c.ok && bt.poison?.isNone }
  let s := bt.raise s bt.poisonFlag
  .go { s := if bt.last then
               (if !c.ok then bt.mod s fun x => x.setPred d false
                else if c.any then bt.mod s fun x => x.setPred d v else s)
             else s
        c := c }

/-- PSET (R194). -/
def execPset (t : Fin 64) (d : Fin 8) (a b : Opd) (s : State) : Host.Outcome State Fault Refusal :=
  fire { t := t, a := a.src, b := b.src, pa := a.peek, pb := b.peek, beat := predTest true d } s

/-- PCLR (R194). -/
def execPclr (t : Fin 64) (d : Fin 8) (a b : Opd) (s : State) : Host.Outcome State Fault Refusal :=
  fire { t := t, a := a.src, b := b.src, pa := a.peek, pb := b.peek, beat := predTest false d } s

/-- The next count of CTR (R195). -/
def ctrNext (a b : Word) : Word := if b.toNat ≤ a.toNat + 1 then 0 else a + 1

/-- CTR (R195). -/
def execCtr (t : Fin 64) (d : Dst) (a b : Opd) (s : State) : Host.Outcome State Fault Refusal :=
  fire { t := t, a := a.src, b := b.src, pa := a.peek, pb := b.peek
         beat := fun s bt c => goSends c (bt.deliver s d (ctrNext bt.a.bits bt.bb.bits) bt.T 0) } s

/-- SIG's pulse.  A pulse that its element sends after a FENCE has a number, by which it stays under way until that fence is
complete (R145, log 55); SIG makes no request, so the stamp bit of its slot is ignored (R165). -/
def sendPulse (s : State) (u e n : Nat) : State :=
  if !(s.elem u e).fences.isEmpty then (s.modUnit u fun y => y.pulse e n (some s.nextId)).bumpId
  else s.modUnit u fun y => y.pulse e n none

/-- SIG (R196). -/
def execSig (t : Fin 64) (d : Fin 4) (a b : Opd) (s : State) : Host.Outcome State Fault Refusal :=
  fire { t := t, a := a.src, b := b.src, pa := a.peek, pb := b.peek
         beat := fun s bt c => .go { s := sendPulse s bt.u bt.e d.val, c := c } } s

/-- HALT (R197): from then on the picker fires nothing and the element discards what reaches its channels. -/
def execHalt (t : Fin 64) (s : State) : Host.Outcome State Fault Refusal :=
  fire { t := t, beat := fun s bt c => .go { s := bt.mod s fun x => { x with pick := .halted }, c := c } } s

end Sys2Proof.Machine
end

