-- ==== Sys2Proof/Machine/Int.lean ====
section
/-! DEFINITION. Class 1: integer instructions, lane by lane (R177-R183, R198-R209). -/

namespace Sys2Proof.Machine

/-- How class 1 reads the lanes of a format: width, count, and whether they are signed (R179, R198). -/
structure IntFmt where
  w : Nat
  lanes : Nat
  sgn : Bool
  deriving DecidableEq, Repr

/-- The seven integer formats (R179). -/
def intFmt (f : Fmt) : Option IntFmt := if f.isInt then some ⟨f.laneW, f.lanes, f.isSInt⟩ else none

/-- The same, and RAW64 and BITMAP64 as one unsigned lane of 64 bits (R179). -/
def bitFmt (f : Fmt) : Option IntFmt :=
  if f = .raw64 ∨ f = .bitmap then some ⟨64, 1, false⟩ else intFmt f

/-- One lane's operands: x, y, and z of the destination register (R198, R199). -/
structure LaneArg where
  w : Nat
  sgn : Bool
  x : Nat
  y : Nat
  z : Nat
  deriving DecidableEq, Repr

namespace LaneArg

/-- Lane values by F's reading. -/
def vx (l : LaneArg) : Int := if l.sgn then sintOf l.w l.x else l.x
def vy (l : LaneArg) : Int := if l.sgn then sintOf l.w l.y else l.y
def vz (l : LaneArg) : Int := if l.sgn then sintOf l.w l.z else l.z
/-- Lane values read as signed. -/
def sx (l : LaneArg) : Int := sintOf l.w l.x
def sy (l : LaneArg) : Int := sintOf l.w l.y
/-- The least and greatest lane value (R198). -/
def lo (l : LaneArg) : Int := if l.sgn then -(2 ^ (l.w - 1)) else 0
def hi (l : LaneArg) : Int := if l.sgn then 2 ^ (l.w - 1) - 1 else 2 ^ l.w - 1

end LaneArg

/-- A wrapped lane result. -/
def wrapLane (l : LaneArg) (v : Int) : Nat × Flags := (toBitsN l.w v, 0)

/-- A clamped lane result, saturation when clamped (R199). -/
def clampLane (l : LaneArg) (lo hi v : Int) : Nat × Flags :=
  let r := max lo (min v hi)
  (toBitsN l.w r, Flags.when (r != v) Flags.saturation)

/-- The lane arguments of a beat: operands read in F's lanes, lane 0 of B in every lane under `.bc` (R178, R198). -/
def Beat.laneArg (bt : Beat) (f : Fmt) (g : IntFmt) (bc : Bool) (i : Nat) : LaneArg where
  w := g.w
  sgn := g.sgn
  x := laneBits (bt.a.inFmt f) g.w i
  y := laneBits (bt.bb.inFmt f) g.w (if bc then 0 else i)
  z := laneBits bt.cap.dst.val g.w i

/-- The payload of a class 1 instruction at one beat and its flags: `op` on every lane; zeros and invalid where F is
not admitted (R179, R198). -/
def Beat.intResult (bt : Beat) (adm : Fmt → Option IntFmt) (bc : Bool) (op : LaneArg → Nat × Flags) : Word × Flags :=
  match bt.F.bind fun f => (adm f).map fun g => (f, g) with
  | none => (0, Flags.invalid)
  | some (f, g) =>
    let rs := (List.range g.lanes).map fun i => op (bt.laneArg f g bc i)
    (ofLanes g.w (rs.map Prod.fst), rs.foldl (fun fl r => fl ||| r.2) 0)

/-- Invalid for operands whose tags differ, where both are read in F's lanes (R178). -/
def Beat.mismatchFlag (bt : Beat) : Flags := Flags.when bt.mismatch Flags.invalid

/-- One beat of a lane-wise instruction: a result with tag T (R180). -/
def intBeat (adm : Fmt → Option IntFmt) (d : Dst) (bc : Bool) (op : LaneArg → Nat × Flags) (s : State) (bt : Beat)
    (c : Carry) : Out :=
  let r := bt.intResult adm bc op
  goSends c (bt.deliver s d r.1 bt.T (r.2 ||| bt.mismatchFlag))

/-- One beat of a compare; the predicate is written after the last (R207, R209): 0 where F is not admitted or an
operand is poison (R179, R181). -/
def cmpBeat (d : Fin 8) (holds : Bool × Flags) (s : State) (bt : Beat) (c : Carry) : Out :=
  let c := { c with ok := c.ok && holds.1 && bt.poison?.isNone }
  let s := bt.raise s (holds.2 ||| bt.poisonFlag)
  .go { s := if bt.last then bt.mod s fun x => x.setPred d c.ok else s, c := c }

/-- The lane test of a class 1 compare at one beat. -/
def Beat.intTest (bt : Beat) (adm : Fmt → Option IntFmt) (bc : Bool) (op : LaneArg → Bool) : Bool × Flags :=
  match bt.F.bind fun f => (adm f).map fun g => (f, g) with
  | none => (false, Flags.invalid)
  | some (f, g) => ((List.range g.lanes).all fun i => op (bt.laneArg f g bc i), bt.mismatchFlag)

/-! The lane operations. -/

/-- x + y (R199). -/
def laneAdd (l : LaneArg) : Nat × Flags :=
  wrapLane l (l.vx + l.vy)

/-- x - y (R199). -/
def laneSub (l : LaneArg) : Nat × Flags :=
  wrapLane l (l.vx - l.vy)

/-- x + y clamped (R199). -/
def laneAdds (l : LaneArg) : Nat × Flags :=
  clampLane l l.lo l.hi (l.vx + l.vy)

/-- x - y clamped (R199). -/
def laneSubs (l : LaneArg) : Nat × Flags :=
  clampLane l l.lo l.hi (l.vx - l.vy)

/-- The low half of the product (R199). -/
def laneMul (l : LaneArg) : Nat × Flags :=
  wrapLane l (l.vx * l.vy)

/-- The high half of the signed product (R199). -/
def laneMulh (l : LaneArg) : Nat × Flags :=
  wrapLane l (l.sx * l.sy / 2 ^ l.w)

/-- The high half of the unsigned product (R199). -/
def laneMulhu (l : LaneArg) : Nat × Flags :=
  wrapLane l ((l.x * l.y / 2 ^ l.w : Nat) : Int)

/-- x times y plus z (R199). -/
def laneMad (l : LaneArg) : Nat × Flags :=
  wrapLane l (l.vx * l.vy + l.vz)

/-- The negative of x (R199). -/
def laneNeg (l : LaneArg) : Nat × Flags :=
  wrapLane l (-l.vx)

/-- The absolute value of x, clamped (R199). -/
def laneAbs (l : LaneArg) : Nat × Flags :=
  if l.sgn then clampLane l l.lo l.hi |l.vx| else (l.x, 0)

/-- The smaller of the signed values (R200). -/
def laneMin (l : LaneArg) : Nat × Flags :=
  wrapLane l (min l.sx l.sy)

/-- The greater of the signed values (R200). -/
def laneMax (l : LaneArg) : Nat × Flags :=
  wrapLane l (max l.sx l.sy)

/-- The smaller of the unsigned values (R200). -/
def laneMinu (l : LaneArg) : Nat × Flags :=
  (min l.x l.y, 0)

/-- The greater of the unsigned values (R200). -/
def laneMaxu (l : LaneArg) : Nat × Flags :=
  (max l.x l.y, 0)

/-- Bitwise and (R201). -/
def laneAnd (l : LaneArg) : Nat × Flags :=
  (l.x &&& l.y, 0)

/-- Bitwise or (R201). -/
def laneOr (l : LaneArg) : Nat × Flags :=
  (l.x ||| l.y, 0)

/-- Bitwise exclusive or (R201). -/
def laneXor (l : LaneArg) : Nat × Flags :=
  (l.x ^^^ l.y, 0)

/-- Left shift by uint(y) (R202). -/
def laneShl (l : LaneArg) : Nat × Flags :=
  (if l.y < l.w then l.x * 2 ^ l.y % 2 ^ l.w else 0, 0)

/-- Logical right shift (R202). -/
def laneShr (l : LaneArg) : Nat × Flags :=
  (if l.y < l.w then l.x / 2 ^ l.y else 0, 0)

/-- Arithmetic right shift; by w or more, copies of the sign bit (R202). -/
def laneSar (l : LaneArg) : Nat × Flags :=
  wrapLane l (l.sx / 2 ^ min l.y l.w)

/-- Left rotation by n mod w (R202). -/
def laneRot (l : LaneArg) : Nat × Flags :=
  let n := l.y % l.w
  ((l.x * 2 ^ n + l.x / 2 ^ (l.w - n)) % 2 ^ l.w, 0)

/-- Zero bits above the highest set bit (R203). -/
def laneClz (l : LaneArg) : Nat × Flags :=
  (l.w - bitLen l.x, 0)

/-- Set bits (R203). -/
def lanePopc (l : LaneArg) : Nat × Flags :=
  ((List.range l.w).foldl (fun n i => n + (if l.x.testBit i then 1 else 0)) 0, 0)

/-- x clamped to n = uint(y) bits (R206). -/
def laneSatn (l : LaneArg) : Nat × Flags :=
  if l.w ≤ l.y then (l.x, 0)
  else if l.y = 0 then (0, Flags.when (l.x != 0) Flags.saturation)
  else if l.sgn then clampLane l (-(2 ^ (l.y - 1))) (2 ^ (l.y - 1) - 1) l.vx
  else clampLane l 0 (2 ^ l.y - 1) l.vx

/-- The field of a lane that a BFX control word names (R204). -/
def laneBfx (ctl : Word) (l : LaneArg) : Nat × Flags :=
  let start := ctl.toNat % 64
  let len := ctl.toNat / 256 % 128
  if l.w ≤ start ∨ len = 0 then (0, 0)
  else
    let k := min (start + len) l.w - start
    let f := l.x / 2 ^ start % 2 ^ k
    (if l.sgn then toBitsN l.w (sintOf k f) else f, 0)

/-! The instructions. -/

/-- ADD (R199). -/
def execAdd (t : Fin 64) (d : Dst) (a b : Opd) (bc : Bool) (s : State) : Host.Outcome State Fault Refusal :=
  fire { t := t, a := a.src, b := b.src, pa := a.peek, pb := b.peek, beat := intBeat intFmt d bc laneAdd } s

/-- SUB (R199). -/
def execSub (t : Fin 64) (d : Dst) (a b : Opd) (bc : Bool) (s : State) : Host.Outcome State Fault Refusal :=
  fire { t := t, a := a.src, b := b.src, pa := a.peek, pb := b.peek, beat := intBeat intFmt d bc laneSub } s

/-- ADDS (R199). -/
def execAdds (t : Fin 64) (d : Dst) (a b : Opd) (bc : Bool) (s : State) : Host.Outcome State Fault Refusal :=
  fire { t := t, a := a.src, b := b.src, pa := a.peek, pb := b.peek, beat := intBeat intFmt d bc laneAdds } s

/-- SUBS (R199). -/
def execSubs (t : Fin 64) (d : Dst) (a b : Opd) (bc : Bool) (s : State) : Host.Outcome State Fault Refusal :=
  fire { t := t, a := a.src, b := b.src, pa := a.peek, pb := b.peek, beat := intBeat intFmt d bc laneSubs } s

/-- MUL (R199). -/
def execMul (t : Fin 64) (d : Dst) (a b : Opd) (bc : Bool) (s : State) : Host.Outcome State Fault Refusal :=
  fire { t := t, a := a.src, b := b.src, pa := a.peek, pb := b.peek, beat := intBeat intFmt d bc laneMul } s

/-- MULH (R199). -/
def execMulh (t : Fin 64) (d : Dst) (a b : Opd) (bc : Bool) (s : State) : Host.Outcome State Fault Refusal :=
  fire { t := t, a := a.src, b := b.src, pa := a.peek, pb := b.peek, beat := intBeat intFmt d bc laneMulh } s

/-- MULHU (R199). -/
def execMulhu (t : Fin 64) (d : Dst) (a b : Opd) (bc : Bool) (s : State) : Host.Outcome State Fault Refusal :=
  fire { t := t, a := a.src, b := b.src, pa := a.peek, pb := b.peek, beat := intBeat intFmt d bc laneMulhu } s

/-- MIN (R200). -/
def execMin (t : Fin 64) (d : Dst) (a b : Opd) (bc : Bool) (s : State) : Host.Outcome State Fault Refusal :=
  fire { t := t, a := a.src, b := b.src, pa := a.peek, pb := b.peek, beat := intBeat intFmt d bc laneMin } s

/-- MAX (R200). -/
def execMax (t : Fin 64) (d : Dst) (a b : Opd) (bc : Bool) (s : State) : Host.Outcome State Fault Refusal :=
  fire { t := t, a := a.src, b := b.src, pa := a.peek, pb := b.peek, beat := intBeat intFmt d bc laneMax } s

/-- MINU (R200). -/
def execMinu (t : Fin 64) (d : Dst) (a b : Opd) (bc : Bool) (s : State) : Host.Outcome State Fault Refusal :=
  fire { t := t, a := a.src, b := b.src, pa := a.peek, pb := b.peek, beat := intBeat intFmt d bc laneMinu } s

/-- MAXU (R200). -/
def execMaxu (t : Fin 64) (d : Dst) (a b : Opd) (bc : Bool) (s : State) : Host.Outcome State Fault Refusal :=
  fire { t := t, a := a.src, b := b.src, pa := a.peek, pb := b.peek, beat := intBeat intFmt d bc laneMaxu } s

/-- AND (R201). -/
def execAnd (t : Fin 64) (d : Dst) (a b : Opd) (bc : Bool) (s : State) : Host.Outcome State Fault Refusal :=
  fire { t := t, a := a.src, b := b.src, pa := a.peek, pb := b.peek, beat := intBeat bitFmt d bc laneAnd } s

/-- OR (R201). -/
def execOr (t : Fin 64) (d : Dst) (a b : Opd) (bc : Bool) (s : State) : Host.Outcome State Fault Refusal :=
  fire { t := t, a := a.src, b := b.src, pa := a.peek, pb := b.peek, beat := intBeat bitFmt d bc laneOr } s

/-- XOR (R201). -/
def execXor (t : Fin 64) (d : Dst) (a b : Opd) (bc : Bool) (s : State) : Host.Outcome State Fault Refusal :=
  fire { t := t, a := a.src, b := b.src, pa := a.peek, pb := b.peek, beat := intBeat bitFmt d bc laneXor } s

/-- SHL (R202). -/
def execShl (t : Fin 64) (d : Dst) (a b : Opd) (bc : Bool) (s : State) : Host.Outcome State Fault Refusal :=
  fire { t := t, a := a.src, b := b.src, pa := a.peek, pb := b.peek, beat := intBeat intFmt d bc laneShl } s

/-- SHR (R202). -/
def execShr (t : Fin 64) (d : Dst) (a b : Opd) (bc : Bool) (s : State) : Host.Outcome State Fault Refusal :=
  fire { t := t, a := a.src, b := b.src, pa := a.peek, pb := b.peek, beat := intBeat intFmt d bc laneShr } s

/-- SAR (R202). -/
def execSar (t : Fin 64) (d : Dst) (a b : Opd) (bc : Bool) (s : State) : Host.Outcome State Fault Refusal :=
  fire { t := t, a := a.src, b := b.src, pa := a.peek, pb := b.peek, beat := intBeat intFmt d bc laneSar } s

/-- ROT (R202). -/
def execRot (t : Fin 64) (d : Dst) (a b : Opd) (bc : Bool) (s : State) : Host.Outcome State Fault Refusal :=
  fire { t := t, a := a.src, b := b.src, pa := a.peek, pb := b.peek, beat := intBeat intFmt d bc laneRot } s

/-- MAD: z is the destination register as read at the first beat (R199). -/
def execMad (t : Fin 64) (d : Fin 8) (a b : Opd) (bc : Bool) (s : State) : Host.Outcome State Fault Refusal :=
  fire { t := t, a := a.src, b := b.src, pa := a.peek, pb := b.peek, dst := some d
         beat := intBeat intFmt (.g d) bc laneMad } s

/-- NEG (R199). -/
def execNeg (t : Fin 64) (d : Dst) (a : Opd) (s : State) : Host.Outcome State Fault Refusal :=
  fire { t := t, a := a.src, pa := a.peek, beat := intBeat intFmt d false laneNeg } s

/-- ABS (R199). -/
def execAbs (t : Fin 64) (d : Dst) (a : Opd) (s : State) : Host.Outcome State Fault Refusal :=
  fire { t := t, a := a.src, pa := a.peek, beat := intBeat intFmt d false laneAbs } s

/-- CLZ (R203). -/
def execClz (t : Fin 64) (d : Dst) (a : Opd) (s : State) : Host.Outcome State Fault Refusal :=
  fire { t := t, a := a.src, pa := a.peek, beat := intBeat bitFmt d false laneClz } s

/-- POPC (R203). -/
def execPopc (t : Fin 64) (d : Dst) (a : Opd) (s : State) : Host.Outcome State Fault Refusal :=
  fire { t := t, a := a.src, pa := a.peek, beat := intBeat bitFmt d false lanePopc } s

/-- BFX: source B is a control word (R204). -/
def execBfx (t : Fin 64) (d : Dst) (a b : Opd) (s : State) : Host.Outcome State Fault Refusal :=
  fire { t := t, a := a.src, b := b.src, pa := a.peek, pb := b.peek
         beat := fun s bt c =>
           let r := bt.intResult intFmt false (laneBfx bt.bb.bits)
           goSends c (bt.deliver s d r.1 bt.T r.2) } s

/-- The arithmetic sequence of IDX (R205). -/
def Beat.idxResult (bt : Beat) : Word × Flags :=
  match bt.F.bind fun f => (intFmt f).map fun g => (f, g) with
  | none => (0, Flags.invalid)
  | some (f, g) =>
    let l := bt.laneArg f g false 0
    (ofLanes g.w ((List.range g.lanes).map fun (i : Nat) => toBitsN g.w (l.vx + i * l.vy)), bt.mismatchFlag)

/-- IDX (R205). -/
def execIdx (t : Fin 64) (d : Dst) (a b : Opd) (s : State) : Host.Outcome State Fault Refusal :=
  fire { t := t, a := a.src, b := b.src, pa := a.peek, pb := b.peek
         beat := fun s bt c =>
           let r := bt.idxResult
           goSends c (bt.deliver s d r.1 bt.T (r.2 ||| bt.mismatchFlag)) } s

/-- SATN (R206). -/
def execSatn (t : Fin 64) (d : Dst) (a b : Opd) (s : State) : Host.Outcome State Fault Refusal :=
  fire { t := t, a := a.src, b := b.src, pa := a.peek, pb := b.peek, beat := intBeat intFmt d false laneSatn } s

/-- CMPEQ (R207). -/
def execCmpeq (t : Fin 64) (d : Fin 8) (a b : Opd) (bc : Bool) (s : State) : Host.Outcome State Fault Refusal :=
  fire { t := t, a := a.src, b := b.src, pa := a.peek, pb := b.peek
         beat := fun s bt c => cmpBeat d (bt.intTest bitFmt bc fun l => l.x == l.y) s bt c } s

/-- CMPNE (R207). -/
def execCmpne (t : Fin 64) (d : Fin 8) (a b : Opd) (bc : Bool) (s : State) : Host.Outcome State Fault Refusal :=
  fire { t := t, a := a.src, b := b.src, pa := a.peek, pb := b.peek
         beat := fun s bt c => cmpBeat d (bt.intTest bitFmt bc fun l => l.x != l.y) s bt c } s

/-- CMPLT (R207). -/
def execCmplt (t : Fin 64) (d : Fin 8) (a b : Opd) (bc : Bool) (s : State) : Host.Outcome State Fault Refusal :=
  fire { t := t, a := a.src, b := b.src, pa := a.peek, pb := b.peek
         beat := fun s bt c => cmpBeat d (bt.intTest intFmt bc fun l => decide (l.sx < l.sy)) s bt c } s

/-- CMPLE (R207). -/
def execCmple (t : Fin 64) (d : Fin 8) (a b : Opd) (bc : Bool) (s : State) : Host.Outcome State Fault Refusal :=
  fire { t := t, a := a.src, b := b.src, pa := a.peek, pb := b.peek
         beat := fun s bt c => cmpBeat d (bt.intTest intFmt bc fun l => decide (l.sx ≤ l.sy)) s bt c } s

/-- CMPLTU (R207). -/
def execCmpltu (t : Fin 64) (d : Fin 8) (a b : Opd) (bc : Bool) (s : State) : Host.Outcome State Fault Refusal :=
  fire { t := t, a := a.src, b := b.src, pa := a.peek, pb := b.peek
         beat := fun s bt c => cmpBeat d (bt.intTest intFmt bc fun l => decide (l.x < l.y)) s bt c } s

/-- CMPLEU (R207). -/
def execCmpleu (t : Fin 64) (d : Fin 8) (a b : Opd) (bc : Bool) (s : State) : Host.Outcome State Fault Refusal :=
  fire { t := t, a := a.src, b := b.src, pa := a.peek, pb := b.peek
         beat := fun s bt c => cmpBeat d (bt.intTest intFmt bc fun l => decide (l.x ≤ l.y)) s bt c } s

end Sys2Proof.Machine
end

