-- ==== Sys2Proof/Machine/Float.lean ====
section
/-! DEFINITION. Class 2: floating point, lane by lane (R211-R224). -/

namespace Sys2Proof.Machine

/-- FP64, FP32, FP16 and BF16 (R214). -/
def wideFmt (f : Fmt) : Option FFmt := if f.isWide then f.float? else none

/-- FP32, FP16 and BF16 (R214). -/
def narrowFmt (f : Fmt) : Option FFmt := if f.isWide && f != .fp64 then f.float? else none

/-- The payload of a class 2 instruction at one beat and its flags: `op` on the lane bits x, y and z; zeros and
invalid where F is not admitted (R198, R214).  `yb` is source B as its lanes are read. -/
def Beat.fpResult (bt : Beat) (adm : Fmt → Option FFmt) (bc : Bool) (yb : Fmt → Word)
    (op : FCtx → Nat → Nat → Nat → Lane) : Word × Flags :=
  match bt.F.bind fun f => (adm f).map fun g => (f, g) with
  | none => (0, Flags.invalid)
  | some (f, g) =>
    let k : FCtx := ⟨g, bt.flush, bt.mode⟩
    let w := f.laneW
    let rs := (List.range f.lanes).map fun i =>
      op k (laneBits (bt.a.inFmt f) w i) (laneBits (yb f) w (if bc then 0 else i)) (laneBits bt.cap.dst.val w i)
    (ofLanes w (rs.map Lane.bits), rs.foldl (fun fl r => fl ||| r.fl) 0)

/-- One beat of a float instruction whose result comes at once. -/
def fpBeat (adm : Fmt → Option FFmt) (d : Dst) (bc : Bool) (op : FCtx → Nat → Nat → Nat → Lane) (s : State) (bt : Beat)
    (c : Carry) : Out :=
  let r := bt.fpResult adm bc bt.bb.inFmt op
  goSends c (bt.deliver s d r.1 bt.T (r.2 ||| bt.mismatchFlag))

/-- Outputs on which a late result takes credit (R224). -/
def Beat.lateNeed (bt : Beat) (d : Dst) : List Nat := if bt.poison?.isNone && bt.drain? then [] else d.outs

/-- One beat of a float instruction whose result comes late; `lat` gives the latency and the datapath cycles of a
format (R224). -/
def fpLateBeat (adm : Fmt → Option FFmt) (d : Dst) (bc : Bool) (lat : Option Fmt → Nat × Nat)
    (op : FCtx → Nat → Nat → Nat → Lane) (s : State) (bt : Beat) (c : Carry) : Out :=
  let r := bt.fpResult adm bc bt.bb.inFmt op
  let k := lat bt.F
  .go { s := bt.deliverLate s d r.1 bt.T (r.2 ||| bt.mismatchFlag) k.1, c := c, need := bt.lateNeed d, cyc := k.2 }

/-- FADD (R217). -/
def execFadd (t : Fin 64) (d : Dst) (a b : Opd) (bc : Bool) (s : State) : Host.Outcome State Fault Refusal :=
  fire { t := t, a := a.src, b := b.src, pa := a.peek, pb := b.peek
         beat := fpBeat wideFmt d bc fun k x y _ => laneFadd k x y } s

/-- FSUB (R217). -/
def execFsub (t : Fin 64) (d : Dst) (a b : Opd) (bc : Bool) (s : State) : Host.Outcome State Fault Refusal :=
  fire { t := t, a := a.src, b := b.src, pa := a.peek, pb := b.peek
         beat := fpBeat wideFmt d bc fun k x y _ => laneFsub k x y } s

/-- FMUL (R217). -/
def execFmul (t : Fin 64) (d : Dst) (a b : Opd) (bc : Bool) (s : State) : Host.Outcome State Fault Refusal :=
  fire { t := t, a := a.src, b := b.src, pa := a.peek, pb := b.peek
         beat := fpBeat wideFmt d bc fun k x y _ => laneFmul k x y } s

/-- FFMA: z is the destination register as read at the first beat (R217). -/
def execFfma (t : Fin 64) (d : Fin 8) (a b : Opd) (bc : Bool) (s : State) : Host.Outcome State Fault Refusal :=
  fire { t := t, a := a.src, b := b.src, pa := a.peek, pb := b.peek, dst := some d
         beat := fpBeat wideFmt (.g d) bc (laneFma Config.fmaZeroInfNaN false) } s

/-- FFMS: z is the destination register as read at the first beat (R217). -/
def execFfms (t : Fin 64) (d : Fin 8) (a b : Opd) (bc : Bool) (s : State) : Host.Outcome State Fault Refusal :=
  fire { t := t, a := a.src, b := b.src, pa := a.peek, pb := b.peek, dst := some d
         beat := fpBeat wideFmt (.g d) bc (laneFma Config.fmaZeroInfNaN true) } s

/-- FMIN (R218). -/
def execFmin (t : Fin 64) (d : Dst) (a b : Opd) (bc : Bool) (s : State) : Host.Outcome State Fault Refusal :=
  fire { t := t, a := a.src, b := b.src, pa := a.peek, pb := b.peek
         beat := fpBeat wideFmt d bc fun k x y _ => laneFminmax true k x y } s

/-- FMAX (R218). -/
def execFmax (t : Fin 64) (d : Dst) (a b : Opd) (bc : Bool) (s : State) : Host.Outcome State Fault Refusal :=
  fire { t := t, a := a.src, b := b.src, pa := a.peek, pb := b.peek
         beat := fpBeat wideFmt d bc fun k x y _ => laneFminmax false k x y } s

/-- FABS (R219). -/
def execFabs (t : Fin 64) (d : Dst) (a : Opd) (s : State) : Host.Outcome State Fault Refusal :=
  fire { t := t, a := a.src, pa := a.peek, beat := fpBeat wideFmt d false fun k x _ _ => laneFabs k x } s

/-- FNEG (R219). -/
def execFneg (t : Fin 64) (d : Dst) (a : Opd) (s : State) : Host.Outcome State Fault Refusal :=
  fire { t := t, a := a.src, pa := a.peek, beat := fpBeat wideFmt d false fun k x _ _ => laneFneg k x } s

/-- FCLS (R219). -/
def execFcls (t : Fin 64) (d : Dst) (a : Opd) (s : State) : Host.Outcome State Fault Refusal :=
  fire { t := t, a := a.src, pa := a.peek, beat := fpBeat wideFmt d false fun k x _ _ => laneFcls k x } s

/-- FFRC (R219). -/
def execFfrc (t : Fin 64) (d : Dst) (a : Opd) (s : State) : Host.Outcome State Fault Refusal :=
  fire { t := t, a := a.src, pa := a.peek, beat := fpBeat wideFmt d false fun k x _ _ => laneFfrc k x } s

/-- FRND (R219). -/
def execFrnd (t : Fin 64) (d : Dst) (a : Opd) (s : State) : Host.Outcome State Fault Refusal :=
  fire { t := t, a := a.src, pa := a.peek, beat := fpBeat wideFmt d false fun k x _ _ => laneFrnd k x } s

/-- FSCL: source B's lane bits are a signed count, and `one` is the count 1 in its lowest bits (R178, R219). -/
def execFscl (t : Fin 64) (d : Dst) (a b : Opd) (bc : Bool) (s : State) : Host.Outcome State Fault Refusal :=
  fire { t := t, a := a.src, b := b.src, pa := a.peek, pb := b.peek
         beat := fun s bt c =>
           let r := bt.fpResult wideFmt bc (fun _ => bt.bb.bits) fun k x y _ => laneFscl k x (sintOf k.f.w y)
           goSends c (bt.deliver s d r.1 bt.T r.2) } s

/-- The lane test of a float compare at one beat (R220). -/
def Beat.fpTest (bt : Beat) (bc : Bool) (op : FCmp) : Bool × Flags :=
  match bt.F.bind fun f => (wideFmt f).map fun g => (f, g) with
  | none => (false, Flags.invalid)
  | some (f, g) =>
    let k : FCtx := ⟨g, bt.flush, bt.mode⟩
    let w := f.laneW
    let rs := (List.range f.lanes).map fun i =>
      laneFcmp op k (laneBits (bt.a.inFmt f) w i) (laneBits (bt.bb.inFmt f) w (if bc then 0 else i))
    (rs.all Prod.fst, rs.foldl (fun fl r => fl ||| r.2) bt.mismatchFlag)

/-- FCMPEQ (R220). -/
def execFcmpeq (t : Fin 64) (d : Fin 8) (a b : Opd) (bc : Bool) (s : State) : Host.Outcome State Fault Refusal :=
  fire { t := t, a := a.src, b := b.src, pa := a.peek, pb := b.peek
         beat := fun s bt c => cmpBeat d (bt.fpTest bc .eq) s bt c } s

/-- FCMPLT (R220). -/
def execFcmplt (t : Fin 64) (d : Fin 8) (a b : Opd) (bc : Bool) (s : State) : Host.Outcome State Fault Refusal :=
  fire { t := t, a := a.src, b := b.src, pa := a.peek, pb := b.peek
         beat := fun s bt c => cmpBeat d (bt.fpTest bc .lt) s bt c } s

/-- FCMPLE (R220). -/
def execFcmple (t : Fin 64) (d : Fin 8) (a b : Opd) (bc : Bool) (s : State) : Host.Outcome State Fault Refusal :=
  fire { t := t, a := a.src, b := b.src, pa := a.peek, pb := b.peek
         beat := fun s bt c => cmpBeat d (bt.fpTest bc .le) s bt c } s

/-- FCMPUN (R220). -/
def execFcmpun (t : Fin 64) (d : Fin 8) (a b : Opd) (bc : Bool) (s : State) : Host.Outcome State Fault Refusal :=
  fire { t := t, a := a.src, b := b.src, pa := a.peek, pb := b.peek
         beat := fun s bt c => cmpBeat d (bt.fpTest bc .un) s bt c } s

/-- A latency whatever the format, one datapath cycle a beat. -/
def latOf (n : Nat) (_ : Option Fmt) : Nat × Nat := (n, 1)

/-- FSQRT and FDIV: FP64 takes four cycles a beat (R224). -/
def latWide (n n64 : Nat) (f : Option Fmt) : Nat × Nat := if f = some .fp64 then (n64, 4) else (n, 1)

/-- FRCP (R222-R224). -/
def execFrcp (t : Fin 64) (d : Dst) (a : Opd) (s : State) : Host.Outcome State Fault Refusal :=
  fire { t := t, a := a.src, pa := a.peek
         beat := fpLateBeat narrowFmt d false (latOf 10) fun k x _ _ => fn1Lane .rcp k.f k.flush k.mode x } s

/-- FRSQ (R222-R224). -/
def execFrsq (t : Fin 64) (d : Dst) (a : Opd) (s : State) : Host.Outcome State Fault Refusal :=
  fire { t := t, a := a.src, pa := a.peek
         beat := fpLateBeat narrowFmt d false (latOf 12) fun k x _ _ => fn1Lane .rsq k.f k.flush k.mode x } s

/-- FSQRT (R222-R224). -/
def execFsqrt (t : Fin 64) (d : Dst) (a : Opd) (s : State) : Host.Outcome State Fault Refusal :=
  fire { t := t, a := a.src, pa := a.peek
         beat := fpLateBeat wideFmt d false (latWide 12 36) fun k x _ _ => fn1Lane .sqrt k.f k.flush k.mode x } s

/-- FEXP2 (R222-R224). -/
def execFexp2 (t : Fin 64) (d : Dst) (a : Opd) (s : State) : Host.Outcome State Fault Refusal :=
  fire { t := t, a := a.src, pa := a.peek
         beat := fpLateBeat narrowFmt d false (latOf 14) fun k x _ _ => fn1Lane .exp2 k.f k.flush k.mode x } s

/-- FLOG2 (R222-R224). -/
def execFlog2 (t : Fin 64) (d : Dst) (a : Opd) (s : State) : Host.Outcome State Fault Refusal :=
  fire { t := t, a := a.src, pa := a.peek
         beat := fpLateBeat narrowFmt d false (latOf 16) fun k x _ _ => fn1Lane .log2 k.f k.flush k.mode x } s

/-- FSIN (R222-R224). -/
def execFsin (t : Fin 64) (d : Dst) (a : Opd) (s : State) : Host.Outcome State Fault Refusal :=
  fire { t := t, a := a.src, pa := a.peek
         beat := fpLateBeat narrowFmt d false (latOf 20) fun k x _ _ => fn1Lane .sin k.f k.flush k.mode x } s

/-- FCOS (R222-R224). -/
def execFcos (t : Fin 64) (d : Dst) (a : Opd) (s : State) : Host.Outcome State Fault Refusal :=
  fire { t := t, a := a.src, pa := a.peek
         beat := fpLateBeat narrowFmt d false (latOf 20) fun k x _ _ => fn1Lane .cos k.f k.flush k.mode x } s

/-- FTANH (R222-R224). -/
def execFtanh (t : Fin 64) (d : Dst) (a : Opd) (s : State) : Host.Outcome State Fault Refusal :=
  fire { t := t, a := a.src, pa := a.peek
         beat := fpLateBeat narrowFmt d false (latOf 18) fun k x _ _ => fn1Lane .tanh k.f k.flush k.mode x } s

/-- FDIV (R217, R224). -/
def execFdiv (t : Fin 64) (d : Dst) (a b : Opd) (bc : Bool) (s : State) : Host.Outcome State Fault Refusal :=
  fire { t := t, a := a.src, b := b.src, pa := a.peek, pb := b.peek
         beat := fpLateBeat wideFmt d bc (latWide 14 40) fun k x y _ => laneFdiv k x y } s

/-- Every lane converted from F to the format of palette entry B[2:0], which `ok` must admit beside F; else zeros
with tag T and invalid (R221): payload, tag, flags. -/
def Beat.convResult (bt : Beat) (ok : Fmt → Fmt → Bool) : Word × BitVec 3 × Flags :=
  let t : BitVec 3 := bt.bb.bits.setWidth 3
  match bt.F, palFmt bt.pal t.toNat with
  | some f, some g =>
    if ok f g then
      let rs := (List.range f.lanes).map fun i =>
        convertLane f g bt.flush bt.mode 0 (laneBits (bt.a.inFmt f) f.laneW i)
      (ofLanes g.laneW (rs.map Lane.bits), t, rs.foldl (fun fl r => fl ||| r.fl) 0)
    else (0, bt.T, Flags.invalid)
  | _, _ => (0, bt.T, Flags.invalid)

/-- FTOI (R221). -/
def execFtoi (t : Fin 64) (d : Dst) (a b : Opd) (s : State) : Host.Outcome State Fault Refusal :=
  fire { t := t, a := a.src, b := b.src, pa := a.peek, pb := b.peek
         beat := fun s bt c =>
           let r := bt.convResult fun f g => ftoiPair f == some g
           goSends c (bt.deliver s d r.1 r.2.1 r.2.2) } s

/-- ITOF (R221). -/
def execItof (t : Fin 64) (d : Dst) (a b : Opd) (s : State) : Host.Outcome State Fault Refusal :=
  fire { t := t, a := a.src, b := b.src, pa := a.peek, pb := b.peek
         beat := fun s bt c =>
           let r := bt.convResult fun f g => ftoiPair g == some f
           goSends c (bt.deliver s d r.1 r.2.1 r.2.2) } s

end Sys2Proof.Machine
end

