-- ==== Sys2Proof/Machine/Brick.lean ====
section
/-! DEFINITION. The bricks: micro-block, pairings, accumulators, and the class 3 instructions that use them
(R225-R236, R246). -/

namespace Sys2Proof.Machine

/-! ## Sums of products (R41, R229, R412) -/

/-- A term of a brick sum: a value, a NaN (signalling or not), or the invalid 0 times infinity. -/
inductive Term where
  | val (v : FVal)
  | nan (sig : Bool)
  | bad
  deriving DecidableEq, Repr

/-- A value as a term. -/
def Term.of (v : FVal) : Term := if v.isNaN then .nan v.isSNaN else .val v

/-- A product as a term. -/
def Term.mul (x y : FVal) : Term :=
  if x.isNaN || y.isNaN then .nan (x.isSNaN || y.isSNaN)
  else match x.mulV y with
    | some v => .val v
    | none => .bad

/-- A term with its sign inverted. -/
def Term.neg : Term → Term
  | .val v => .val v.neg'
  | t => t

/-- The one exact sum of terms, none where it is a NaN, and its flags (R229, R412). -/
def sumT (mode : RMode) (l : List Term) : Option FVal × Flags :=
  let bad := l.any fun t => t == .bad
  let sig := l.any fun t => t == .nan true
  let nan := l.any fun t => t == .nan false
  if bad || sig then (none, Flags.invalid)
  else if nan then (none, 0)
  else
    match sumV mode (l.filterMap fun t => match t with | .val v => some v | _ => none) with
    | some v => (some v, 0)
    | none => (none, Flags.invalid)

/-- The float format of an accumulator type. -/
def AccTy.float? : AccTy → Option FFmt
  | .fp32 => some .fp32
  | .fp64 => some .fp64
  | _ => Option.none

/-- Accumulator lanes of a type (R229). -/
def AccTy.lanes : AccTy → Nat
  | .fp64 => 128
  | _ => 256

/-- A sum stored in a lane of a type: clamped to INT32, or rounded once (R41, R229). -/
def storeLane (ty : AccTy) (flush : Bool) (mode : RMode) (r : Option FVal × Flags) : Lane :=
  match ty.float? with
  | some f =>
    match r.1 with
    | some v =>
      let l := f.roundV flush mode 0 v
      ⟨l.bits, l.fl ||| r.2⟩
    | none => ⟨f.defaultNaN, r.2⟩
  | none =>
    match r.1 with
    | some v =>
      let n := v.dy.floorAt 0
      let c := max (-(2 ^ 31)) (min n (2 ^ 31 - 1))
      ⟨toBitsN 32 c, r.2 ||| Flags.when (c != n) Flags.saturation⟩
    | none => ⟨0, r.2⟩

/-! ## Accumulators (R225, R229, R230) -/

namespace Acc

/-- The bits of 32-bit lane `i`. -/
def raw (a : Acc) (i : Nat) : Nat := (a.lanes.getD i 0).toNat

/-- The bits of lane `i` in the lanes of the accumulator's type. -/
def lane (a : Acc) (i : Nat) : Nat :=
  match a.ty with
  | .fp64 => a.raw (2 * i) + 2 ^ 32 * a.raw (2 * i + 1)
  | _ => a.raw i

/-- The value of lane `i`; past the end, and with type none, +0 (R235). -/
def val (a : Acc) (flush : Bool) (i : Nat) : FVal :=
  if a.ty.lanes ≤ i then .fin false 0 0
  else match a.ty.float? with
    | some f => f.decode flush (a.lane i)
    | none =>
      let n := sintOf 32 (a.raw i)
      .fin (decide (n < 0)) n.natAbs 0

/-- Lane `i` written in the lanes of the accumulator's type. -/
def setLane (a : Acc) (i bits : Nat) : Acc :=
  let put := fun (l : Assoc (BitVec 32)) (n v : Nat) => l.put n (BitVec.ofNat 32 v) 0
  match a.ty with
  | .fp64 => { a with lanes := put (put a.lanes (2 * i) bits) (2 * i + 1) (bits / 2 ^ 32) }
  | _ => { a with lanes := put a.lanes i bits }

/-- The accumulator a write of type `ty` finds: another type's lanes read zero, which is invalid for MAC and MACN
(R230). -/
def retype (a : Acc) (ty : AccTy) (warn : Bool) : Acc × Flags :=
  if a.ty = ty then (a, 0)
  else ({ ty := ty, lanes := [] }, Flags.when (warn && a.ty != .none) Flags.invalid)

end Acc

/-! ## Pairings (R226, R227) -/

/-- Formats MAC admits for source A (R214). -/
def macFmt (f : Fmt) : Bool := !(f == .raw64 || f == .qn4 || f == .sign || f == .bitmap || f == .coord)

/-- A pairing of a source format with the micro-block: widths used, type, datapath cycles of a token. -/
structure Pairing where
  wa : Nat
  wb : Nat
  ty : AccTy
  q : Nat
  deriving DecidableEq, Repr

/-- The lane count of R227. -/
def brickLanes (integer : Bool) (wa wb : Nat) : Nat :=
  min (if integer then 256 else 128) (1024 / ((wa + 1) / 2 * ((wb + 1) / 2)))

/-- The pairing of a format with a micro-block under two width codes (R226, R227). -/
def pairOf (f : Fmt) (mb : MicroBlock) (ca cb : Nat) : Pairing :=
  let wa := min (natWidth f) (pairWidth ca)
  let wb := if mb.fmt = .qn4 then 9 else min (natWidth mb.fmt) (pairWidth cb)
  let integer := f.isInt && (mb.fmt.isInt || mb.fmt == .qn4)
  let l := brickLanes integer wa wb
  { wa := wa, wb := wb
    ty := if f = .fp64 ∨ mb.fmt = .fp64 then .fp64 else if integer then .int32 else .fp32
    q := (mb.k * mb.n + l - 1) / l }

/-- A value rounded to at most `w` significant bits (R226). -/
def FVal.sig (w : Nat) : FVal → FVal
  | .fin neg m e =>
    let d := sigw w ⟨m, e⟩
    .fin neg d.m.natAbs d.e
  | v => v

/-- The factor of a QN4 row (R228, R229). -/
def MicroBlock.factor (mb : MicroBlock) (r : Nat) : Nat :=
  if mb.fmt = .qn4 then mb.bq.getD r 0 + 1 else 1

/-- The value of weight (r, c); one that was not loaded is +0, and a QN4 weight is its numerator (R228, R229). -/
def MicroBlock.weight (mb : MicroBlock) (flush : Bool) (r c : Nat) : FVal :=
  match mb.w.get? (r * mb.n + c) with
  | none => .fin false 0 0
  | some bits =>
    if mb.fmt = .qn4 then
      let v := qn4 bits
      .fin (decide (v < 0)) v.natAbs 0
    else laneVal mb.fmt flush bits

/-- The k products of column `c` for an A token's payload (R229). -/
def colTerms (f : Fmt) (flush : Bool) (payload : Word) (mb : MicroBlock) (p : Pairing) (c : Nat) : List Term :=
  (List.range mb.k).map fun r =>
    let x := if r < f.lanes then laneVal f flush (laneBits payload f.laneW r) else .fin false 0 0
    let w := mb.weight flush r c
    let w' := if mb.fmt = .qn4 then w else w.sig p.wb
    match Term.mul (x.sig p.wa) w' with
    | .val (.fin neg m e) => .val (.fin neg (m * mb.factor r) e)
    | t => t

/-! ## MAC, MACN, MACZ (R229-R231) -/

/-- The three brick operations. -/
inductive MacOp where
  | mac
  | macn
  | macz
  deriving DecidableEq, Repr

/-- One A token worked into an accumulator at slot `j`, columns `c` upward (R229). -/
def macColumns (op : MacOp) (flush : Bool) (mode : RMode) (ty : AccTy) (n j : Nat) (terms : Nat → List Term)
    (a : Acc) : List Nat → Acc × Flags
  | [] => (a, 0)
  | c :: cs =>
    let i := n * j + c
    let ts := terms c
    let all := match op with
      | .mac => Term.of (a.val flush i) :: ts
      | .macn => Term.of (a.val flush i) :: ts.map Term.neg
      | .macz => ts
    let l := storeLane ty flush mode (sumT mode all)
    let r := macColumns op flush mode ty n j terms (a.setLane i l.bits) cs
    (r.1, l.fl ||| r.2)

/-- An accumulator written. -/
def Elem.setAcc (x : Elem) (n : Fin 4) (a : Acc) : Elem := { x with acc := x.acc.set n a }

/-- One beat of MAC, MACN or MACZ in element mode (R229, R230); a format MAC does not admit leaves the accumulator
(R214). -/
def macBeat (op : MacOp) (d : Fin 4) (ca cb : Fin 8) (s : State) (bt : Beat) (c : Carry) : Out :=
  match bt.F with
  | some f =>
    if macFmt f then
      let x := s.elem bt.u bt.e
      let p := pairOf f x.mb ca.val cb.val
      let r := (x.acc[d]).retype p.ty (op != .macz)
      let j := bt.cx.toNat / 256 % (p.ty.lanes / x.mb.n)
      let payload := bt.a.inFmt f
      let m := macColumns op bt.flush bt.mode p.ty x.mb.n j (colTerms f bt.flush payload x.mb p) r.1 (List.range x.mb.n)
      let s := bt.mod s fun y => y.setAcc d m.1
      .go { s := bt.raise s (r.2 ||| m.2 ||| bt.poisonFlag), c := c, cyc := p.q }
    else .go { s := bt.raise s Flags.invalid, c := c }
  | none => .go { s := bt.raise s Flags.invalid, c := c }

/-- The token of the feed form: source A as by MOV with the pairing in its coordinate; a mark head unchanged
(R231). -/
def feedTok (bt : Beat) (ca cb : Fin 8) : Token :=
  let t := bt.fwd bt.a
  if t.isData then { t with coord := (t.coord &&& 0xFFFFFFC0) ||| BitVec.ofNat 32 (8 * ca.val + cb.val) } else t

/-- MAC: into an accumulator, or the feed form (R229, R231). -/
def execMac (t : Fin 64) (d : MacDst) (a : Opd) (wa wb : Fin 8) (s : State) : Host.Outcome State Fault Refusal :=
  fire { t := t, a := a.src, pa := a.peek
         beat := match d with
           | .acc n => macBeat .mac n wa wb
           | .out o => fun s bt c => goSends c (s, sendFwd (outsOf o) (feedTok bt wa wb)) } s

/-- MACN (R229). -/
def execMacn (t : Fin 64) (d : Fin 4) (a : Opd) (wa wb : Fin 8) (s : State) : Host.Outcome State Fault Refusal :=
  fire { t := t, a := a.src, pa := a.peek, beat := macBeat .macn d wa wb } s

/-- MACZ (R229). -/
def execMacz (t : Fin 64) (d : Fin 4) (a : Opd) (wa wb : Fin 8) (s : State) : Host.Outcome State Fault Refusal :=
  fire { t := t, a := a.src, pa := a.peek, beat := macBeat .macz d wa wb } s

/-! ## WLD (R228) -/

/-- Formats WLD admits (R214). -/
def wldFmt (f : Fmt) : Bool := macFmt f || f == .qn4

/-- The micro-block a WLD control word begins with, whether it is loadable, and invalid where it is not whole
(R228). -/
def wldStart (pal : Word) (systolic : Bool) (b : Word) : MicroBlock × Bool × Flags :=
  let v := b.toNat
  let k := v % 16 + 1
  let n := v / 16 % 16 + 1
  let bq := (List.range 6).map fun r => v / 2 ^ (16 + 8 * r) % 256
  match palFmt pal (v / 256 % 8) with
  | some f =>
    let ok := wldFmt f && (!systolic || n == 4 || n == 8 || n == 16)
    ({ k := k, n := n, fmt := if ok then f else .int8, w := [], bq := bq }, ok,
     Flags.when (!ok || (f == .qn4 && decide (6 < k))) Flags.invalid)
  | none => ({ k := k, n := n, fmt := .int8, w := [], bq := bq }, false, Flags.invalid)

/-- The lanes of one token into the micro-block (R228). -/
def wldLanes (mb : MicroBlock) (beat : Nat) (payload : Word) : MicroBlock :=
  let la := mb.fmt.lanes
  { mb with
    w := (List.range la).foldl
      (fun w j =>
        let m := beat * la + j
        if m < mb.k * mb.n then w.set m (laneBits payload mb.fmt.laneW j) else w) mb.w }

/-- One beat of WLD; the carry keeps the first beat's control word and whether the load is good. -/
def wldBeat (s : State) (bt : Beat) (c : Carry) : Out :=
  let first := decide (bt.b = 0)
  let b := if first then bt.bb.bits else c.ws.headD 0
  let x := s.elem bt.u bt.e
  let st := wldStart bt.pal x.cfg.systolic b
  let s := if first then bt.raise (bt.mod s fun y => { y with mb := st.1 }) st.2.2 else s
  let t : BitVec 3 := BitVec.ofNat 3 (b.toNat / 256)
  let wrong := match bt.a.tag with
    | some k => k != t
    | none => false
  let s :=
    if st.2.1 then
      let s := bt.mod s fun y => { y with mb := wldLanes y.mb bt.b (bt.a.inFmt st.1.fmt) }
      bt.raise s (Flags.when wrong Flags.invalid)
    else s
  .go { s := bt.mod (bt.raise s bt.poisonFlag) fun y => { y with wldBusy := bt.now s + 1 }, c := { c with ws := [b] } }

/-- WLD (R228). -/
def execWld (t : Fin 64) (a b : Opd) (s : State) : Host.Outcome State Fault Refusal :=
  fire { t := t, a := a.src, b := b.src, pa := a.peek, pb := b.peek, beat := wldBeat } s

/-! ## ACRD, ACCLR, ACMV (R235, R236) -/

/-- Result formats ACRD admits (R235). -/
def acrdFmt (f : Fmt) : Bool :=
  f.isWide || f == .e4m3 || f == .e5m2 || f == .int32 || f == .int16 || f == .int8 || f == .uint8 || f == .int4

/-- The product of an accumulator lane and the scale, in a result format (R235, R39). -/
def acrdLane (g : Fmt) (flush : Bool) (mode : RMode) (draw : BitVec 32) (sf : Option FFmt) (x sc : FVal) : Lane :=
  if x.isNaN then convVal sf false g flush mode draw x
  else if sc.isNaN then convVal (some .fp32) false g flush mode draw sc
  else match x.mulV sc with
    | some v => convVal sf false g flush mode draw v
    | none => match g.float? with
      | some f => ⟨f.defaultNaN, Flags.invalid⟩
      | none => ⟨0, Flags.invalid⟩

/-- Lanes `js` of an ACRD beat, the stochastic state threaded through those that are rounded (R37, R38). -/
def acrdLanes (a : Acc) (sc : FVal) (g : Fmt) (flush : Bool) (mode : RMode) (sr : Bool) (from_ : Nat) :
    BitVec 32 → List Nat → List Nat × Flags × BitVec 32
  | st, [] => ([], 0, st)
  | st, j :: js =>
    let x := a.val flush (from_ + j)
    let rounded := sr && x.isFinite && sc.isFinite
    let st' := if rounded then srDraw st else st
    let l := acrdLane g flush (if sr then .sr else mode) st' a.ty.float? x sc
    let r := acrdLanes a sc g flush mode sr from_ st' js
    (l.bits :: r.1, l.fl ||| r.2.1, r.2.2)

/-- One beat of ACRD (R224, R235). -/
def acrdBeat (d : Dst) (n : Fin 4) (sr : Bool) (s : State) (bt : Beat) (c : Carry) : Out :=
  let b := bt.bb.bits.toNat
  let t : BitVec 3 := BitVec.ofNat 3 (b / 2 ^ 32)
  let bad := fun (_ : Unit) =>
    Out.go { s := bt.deliverLate s d 0 bt.T Flags.invalid 3 (some n), c := c, need := bt.lateNeed d }
  match palFmt bt.pal t.toNat with
  | some g =>
    if acrdFmt g then
      let x := s.elem bt.u bt.e
      let sc := FFmt.fp32.decode bt.flush (b % 2 ^ 32)
      let r := acrdLanes x.acc[n] sc g bt.flush bt.mode sr (b / 2 ^ 48 % 256 + bt.b * g.lanes) x.sr (List.range g.lanes)
      let s := bt.mod s fun y => { y with sr := r.2.2 }
      .go { s := bt.deliverLate s d (ofLanes g.laneW r.1) t r.2.1 3 (some n), c := c, need := bt.lateNeed d }
    else bad ()
  | none => bad ()

/-- ACRD (R235). -/
def execAcrd (t : Fin 64) (d : Dst) (a : Fin 4) (b : Opd) (sr : Bool) (s : State) : Host.Outcome State Fault Refusal :=
  fire { t := t, b := b.src, pb := b.peek, beat := acrdBeat d a sr } s

/-- ACCLR (R236). -/
def execAcclr (t : Fin 64) (d : Fin 4) (s : State) : Host.Outcome State Fault Refusal :=
  fire { t := t, beat := fun s bt c => .go { s := bt.mod s fun x => x.setAcc d {}, c := c } } s

/-- ACMV (R236). -/
def execAcmv (t : Fin 64) (d a : Fin 4) (s : State) : Host.Outcome State Fault Refusal :=
  fire { t := t, beat := fun s bt c => .go { s := bt.mod s fun x => x.setAcc d x.acc[a], c := c } } s

end Sys2Proof.Machine
end

