-- ==== Sys2Proof/Machine/Lanes.lean ====
section
/-! DEFINITION. Class 3: conversion, coding, rearranging and reducing lanes (R237-R246). -/

namespace Sys2Proof.Machine

/-- Zeros with tag T and invalid, the delivery of a format that is not admitted (R179, R214). -/
def zeroBeat (d : Dst) (s : State) (bt : Beat) (c : Carry) : Out :=
  goSends c (bt.deliver s d 0 bt.T Flags.invalid)

/-- The poison of a firing that delivers once: the first one met (R246). -/
def Beat.seen (bt : Beat) (c : Carry) : Carry :=
  { c with poison := match c.poison with
      | some p => some p
      | none => bt.poison? }

/-- The one delivery of a firing: a poison operand at any beat makes an output's token its copy (R246). -/
def Beat.deliverOnce (bt : Beat) (s : State) (d : Dst) (c : Carry) (v : Word) (tag : BitVec 3) (fl : Flags) :
    State × List (Nat × Token) :=
  match d, c.poison with
  | .out o, some p => (bt.raise s (fl ||| bt.poisonFlag), sendAll o (some p))
  | _, _ => bt.deliver s d v tag fl

/-! ## CVT (R237) -/

/-- The window of CVT's control word (R237). -/
structure CvtCtl where
  t : BitVec 3
  sa : Nat
  da : Nat
  cnt : Nat
  step : Nat
  deriving DecidableEq, Repr

/-- The fields of the control word (R237). -/
def CvtCtl.of (b : Word) : CvtCtl where
  t := b.setWidth 3
  sa := b.toNat / 2 ^ 8 % 32
  da := b.toNat / 2 ^ 16 % 32
  cnt := b.toNat / 2 ^ 24 % 32
  step := b.toNat / 2 ^ 30 % 4

/-- Lane `i` of a payload replaced. -/
def setLaneBits (x : Word) (w i v : Nat) : Word :=
  BitVec.ofNat 64 (x.toNat - laneBits x w i * 2 ^ (w * i) + v % 2 ^ w * 2 ^ (w * i))

/-- Lanes `js` of a CVT window; one draw for each converted lane under stochastic rounding (R237): payload, flags,
stochastic state. -/
def cvtLanes (f g : Fmt) (flush : Bool) (mode : RMode) (sr : Bool) (a : Word) (s0 d0 : Nat) :
    Word → BitVec 32 → List Nat → Word × Flags × BitVec 32
  | out, st, [] => (out, 0, st)
  | out, st, j :: js =>
    if s0 + j < f.lanes ∧ d0 + j < g.lanes then
      let st' := if sr then srDraw st else st
      let l := convertLane f g flush (if sr then .sr else mode) st' (laneBits a f.laneW (s0 + j))
      let r := cvtLanes f g flush mode sr a s0 d0 (setLaneBits out g.laneW (d0 + j) l.bits) st' js
      (r.1, l.fl ||| r.2.1, r.2.2)
    else
      let r := cvtLanes f g flush mode sr a s0 d0 out st js
      (r.1, Flags.invalid ||| r.2.1, r.2.2)

/-- One beat of CVT: `c.ws` keeps the payload under way. -/
def cvtBeat (d : Dst) (sr : Bool) (s : State) (bt : Beat) (c : Carry) : Out :=
  let k := CvtCtl.of bt.bb.bits
  let c := if k.step = 1 then bt.seen c else c
  let base : Word := match d with
    | .g _ => bt.cap.dst.val
    | _ => 0
  let give := fun (s : State) (c : Carry) (v : Word) (tag : BitVec 3) (fl : Flags) =>
    if k.step ≠ 1 then goSends c (bt.deliver s d v tag fl)
    else if bt.last then goSends c (bt.deliverOnce s d c v tag fl)
    else Out.go { s := bt.raise s (fl ||| bt.poisonFlag), c := c }
  match bt.F, palFmt bt.pal k.t.toNat with
  | some f, some g =>
    if k.step = 3 then give s c 0 bt.T Flags.invalid
    else if f = .raw64 ∨ g = .raw64 then
      give s { c with ws := [bt.a.inFmt f] } (bt.a.inFmt f) k.t 0
    else if cvtPair f g then
      let n := if k.cnt = 0 then min (f.lanes - k.sa) (g.lanes - k.da) else k.cnt
      let out := if k.step ≠ 1 || bt.b == 0 then base else c.ws.headD base
      let x := s.elem bt.u bt.e
      let r := cvtLanes f g bt.flush bt.mode sr (bt.a.inFmt f) (k.sa + if k.step = 2 then n * bt.b else 0)
        (k.da + if k.step = 1 then n * bt.b else 0) out x.sr (List.range n)
      give (bt.mod s fun y => { y with sr := r.2.2 }) { c with ws := [r.1] } r.1 k.t r.2.1
    else give s c 0 bt.T Flags.invalid
  | _, _ => give s c 0 bt.T Flags.invalid

/-- CVT (R237). -/
def execCvt (t : Fin 64) (d : Dst) (a b : Opd) (sr : Bool) (s : State) : Host.Outcome State Fault Refusal :=
  fire { t := t, a := a.src, b := b.src, pa := a.peek, pb := b.peek, dst := d.reg?, beat := cvtBeat d sr } s

/-! ## SCALE and MXS (R238, R239) -/

/-- Formats SCALE admits (R214). -/
def scaleFmt (f : Fmt) : Bool := f.float?.isSome || f == .mxint8

/-- A lane times 2^(E - 127) in its own format; of E = 0xFF the default NaN, or zero where there is none (R238). -/
def scaleLane (f : Fmt) (flush : Bool) (mode : RMode) (e bits : Nat) : Lane :=
  match f.float? with
  | some ff =>
    if e = 255 then ⟨ff.defaultNaN, Flags.invalid⟩
    else match ff.decode flush bits with
      | .nan neg q fr => ⟨quietNaN ff neg fr, Flags.when (!q) Flags.invalid⟩
      | .inf neg => ⟨ff.infBits neg, 0⟩
      | .fin neg m x => ff.round flush mode 0 neg m (x + e - 127)
  | none =>
    if e = 255 then ⟨0, Flags.invalid⟩
    else
      let n := sintOf 8 bits
      let r := roundClamp mode 0 (decide (n < 0)) n.natAbs ((e : Int) - 127) 0 (-128) 127
      ⟨toBitsN 8 r.1, r.2⟩

/-- Every lane of a payload scaled. -/
def scaleAll (f : Fmt) (flush : Bool) (mode : RMode) (e : Nat) (a : Word) : Word × Flags :=
  let rs := (List.range f.lanes).map fun i => scaleLane f flush mode e (laneBits a f.laneW i)
  (ofLanes f.laneW (rs.map Lane.bits), rs.foldl (fun fl r => fl ||| r.fl) 0)

/-- SCALE (R238). -/
def execScale (t : Fin 64) (d : Dst) (a b : Opd) (s : State) : Host.Outcome State Fault Refusal :=
  fire { t := t, a := a.src, b := b.src, pa := a.peek, pb := b.peek
         beat := fun s bt c =>
           match bt.F with
           | some f =>
             if scaleFmt f then
               let r := scaleAll f bt.flush bt.mode (bt.bb.bits.toNat % 256) (bt.a.inFmt f)
               goSends c (bt.deliver s d r.1 bt.T r.2)
             else zeroBeat d s bt c
           | none => zeroBeat d s bt c } s

/-- MXS admits palette entry `t`: codes 0x07-0x0A, and E4M3 and E5M2 with the mx bit (R214). -/
def mxsEntry (pal : Word) (t : Nat) : Bool :=
  match palFmt pal t with
  | some f => f == .e3m2 || f == .e2m3 || f == .e2m1 || f == .mxint8 || ((f == .e4m3 || f == .e5m2) && palMx pal t)
  | none => false

/-- One beat of MXS on channel `ch` (R239). -/
def mxsBeat (d : Dst) (ch : Fin 4) (s : State) (bt : Beat) (c : Carry) : Out :=
  match bt.a.tok with
  | none => .hold s c
  | some k =>
    if !k.isData then goSends c (bt.forward s d bt.a)
    else
      match bt.F with
      | none => zeroBeat d s bt c
      | some f =>
        if mxsEntry bt.pal bt.T.toNat then
          let s := if k.isHead then bt.mod s fun x => { x with mx := x.mx.set ch (k.coord.setWidth 8) } else s
          let e := ((s.elem bt.u bt.e).mx[ch]).toNat
          let r := scaleAll f bt.flush bt.mode e k.payload
          let s := bt.raise s r.2
          match d with
          | .g n => goSends c (bt.mod s fun x => x.setG n r.1 bt.T, [])
          | .out o => goSends c (s, sendAll o (some ⟨k.mark, bt.T, k.coord &&& 0xFFFFFF00, r.1⟩))
          | .z => goSends c (s, [])
        else zeroBeat d s bt c

/-- MXS (R239). -/
def execMxs (t : Fin 64) (d : Dst) (a : Fin 4) (pk : Bool) (s : State) : Host.Outcome State Fault Refusal :=
  fire { t := t, a := .ch a, pa := pk, beat := mxsBeat d a } s

/-! ## QDEC and QENC (R240, R241) -/

/-- QDEC (R240). -/
def execQdec (t : Fin 64) (d : Dst) (a b : Opd) (s : State) : Host.Outcome State Fault Refusal :=
  fire { t := t, a := a.src, b := b.src, pa := a.peek, pb := b.peek
         beat := fun s bt c =>
           match bt.F, twinTag bt.pal .int16 with
           | some .qn4, some tw =>
             let q := bt.bb.bits.toNat % 4
             let v := ofLanes 16 ((List.range 4).map fun j =>
               toBitsN 16 (qn4 (laneBits (bt.a.inFmt .qn4) 4 (4 * q + j))))
             goSends c (bt.deliver s d v tw 0)
           | _, _ => zeroBeat d s bt c } s

/-- The level nearest u = num / den in units of 1/128, ties to the smaller |n|, 5 and -5 by sign: its code (R32,
R241).  Codes rise with their numerators. -/
def qnNearest (neg : Bool) (num : Int) (den : Nat) : Nat :=
  let dist := fun c => (num - qn4 c * den).natAbs
  let best := fun (x c : Nat) =>
    if dist c < dist x then c
    else if dist c = dist x then
      (if (qn4 c).natAbs < (qn4 x).natAbs then c
       else if (qn4 c).natAbs = (qn4 x).natAbs then (if neg then x else c) else x)
    else x
  (List.range 16).foldl best 0

/-- The stochastic level of u = num / den: the upper bracketing level by the draw (R241). -/
def qnStochastic (num : Int) (den : Nat) (draw : BitVec 32) : Nat :=
  let lo := (List.range 16).foldl (fun x c => if qn4 c * den ≤ num then c else x) 0
  if qn4 lo * den = num then lo
  else
    let nl := qn4 lo
    let nh := qn4 (lo + 1)
    let thr := ((num - nl * den) * 2 ^ 24 / ((nh - nl) * den)).toNat
    if draw.toNat / 2 ^ 8 < thr then lo + 1 else lo

/-- The block code b and its flags: M the largest magnitude, S the super-scale (R241). -/
def qencB (m sc : Dy) : Nat × Flags :=
  if sc.m = 0 then (0, 0)
  else
    -- ceil(256 M / S) - 1 over a common exponent
    let e := min m.e sc.e
    let num := (m.at_ e).toNat * 256
    let den := (sc.at_ e).toNat
    (min ((num + den - 1) / den - 1) 255, Flags.when (sc.lt m) Flags.saturation)

/-- The code of one weight and its flags (R241); `sc` is S where it is a number and not negative. -/
def qencOne (sc : Option Dy) (b : Nat) (draw : Option (BitVec 32)) (x : FVal) : Nat × Flags :=
  match x with
  | .nan _ _ _ => (8, 0)
  | .inf neg => (if neg then 0 else 15, 0)
  | .fin neg m e =>
    match sc with
    | none => (if neg then 7 else 8, 0)
    | some sc =>
      if sc.m = 0 then (if neg then 7 else 8, Flags.when (m != 0) Flags.saturation)
      else
        -- u = x / (S (b + 1) / 256) * 128 = x * 32768 / (S (b + 1))
        let k := min e sc.e
        let num0 : Int := ((Dy.mk m e).at_ k) * 32768
        let den := (sc.at_ k).toNat * (b + 1)
        let big := decide (128 * (den : Int) < num0)
        let num1 := if big then 128 * (den : Int) else num0
        let num := if neg then -num1 else num1
        let c := match draw with
          | some dr => qnStochastic num den dr
          | none => qnNearest neg num den
        (c, Flags.when big Flags.saturation ||| Flags.when (qn4 c * den != num) Flags.inexact)

/-- The codes of the weights in index order; under `.sr` one draw for each (R241). -/
def qencAll (sc : Option Dy) (b : Nat) (sr : Bool) : BitVec 32 → List FVal → List Nat × Flags × BitVec 32
  | st, [] => ([], 0, st)
  | st, x :: xs =>
    let st' := if sr then srDraw st else st
    let o := qencOne sc b (if sr then some st' else none) x
    let r := qencAll sc b sr st' xs
    (o.1 :: r.1, o.2 ||| r.2.1, r.2.2)

/-- The greatest of two magnitudes. -/
def Dy.maxMag (x y : Dy) : Dy := if x.lt y then y else x

/-- A 64-weight block coded: block code, codes, flags, stochastic state (R241). -/
def qencBlock (sr : Bool) (st : BitVec 32) (s : FVal) (xs : List FVal) : Nat × List Nat × Flags × BitVec 32 :=
  let ok := s.isFinite && !(s.isNeg && !s.isZero)
  let bad := xs.any fun x => !x.isFinite
  let m := (xs.filter FVal.isFinite).foldl (fun a x => a.maxMag x.dy.abs) Dy.zero
  let b := if ok then qencB m s.dy else (255, 0)
  let r := qencAll (if ok then some s.dy else none) b.1 sr st xs
  (b.1, r.1, Flags.when (bad || !ok) Flags.invalid ||| b.2 ||| r.2.1, r.2.2)

/-- A lane's value as FP32 bits: FP16 and BF16 convert exactly, a signalling NaN stays one (R241, R245). -/
def toFp32 (f : Fmt) (flush : Bool) (bits : Nat) : Nat :=
  if f = .fp32 then bits
  else if (laneVal f flush bits).isSNaN then 0x7FA00000
  else (convertLane f .fp32 flush .rne 0 bits).bits

/-- One beat of QENC: `c.ws` keeps the weights as FP32 bits, `c.tok` the coordinate of beat 0, `c.n` S. -/
def qencBeat (d : ODst) (sr : Bool) (s : State) (bt : Beat) (c : Carry) : Out :=
  match bt.F.bind fun f => (narrowFmt f).map fun _ => f, twinTag bt.pal .qn4 with
  | some f, some tw =>
    let c := bt.seen c
    let c := if bt.b = 0 then
        { c with n := bt.bb.bits.toNat % 2 ^ 32, tok := some ⟨0, 0, bt.cx, 0⟩ }
      else c
    let vs := (List.range f.lanes).map fun i =>
      BitVec.ofNat 64 (toFp32 f bt.flush (laneBits (bt.a.inFmt f) f.laneW i))
    let c := { c with ws := c.ws ++ vs }
    let s := bt.raise s bt.poisonFlag
    if !bt.last then .go { s := s, c := c }
    else
      let odd := bt.n * f.lanes ≠ 64
      let zero : Word := 0
      let xs := ((c.ws ++ List.replicate 64 zero).take 64).map fun w => FFmt.fp32.decode bt.flush w.toNat
      let r := qencBlock sr (s.elem bt.u bt.e).sr (FFmt.fp32.decode bt.flush c.n) xs
      let s := bt.mod s fun y => { y with sr := r.2.2.2 }
      let s := bt.raise s (r.2.2.1 ||| Flags.when (decide odd) Flags.invalid)
      let co := (c.tok.map Token.coord).getD 0 &&& 0xFFFFFF00
      let tok := fun (m : Nat) =>
        let k : Token := ⟨if m = 0 then 1 else if m = 3 then 2 else 0, tw,
          if m = 0 then co ||| BitVec.ofNat 32 r.1 else co, ofLanes 4 ((r.2.1.drop (16 * m)).take 16)⟩
        match c.poison with
        | some p => p
        | none => k
      .go { s := s, c := c, sends := ((List.range 4).map fun m => sendAll d (some (tok m))).flatten, cyc := 5 }
  | _, _ => zeroBeat (.out d) s bt c

/-- QENC (R241): N + 4 cycles, credit for four tokens. -/
def execQenc (t : Fin 64) (d : ODst) (a b : Opd) (sr : Bool) (s : State) : Host.Outcome State Fault Refusal :=
  fire { t := t, a := a.src, b := b.src, pa := a.peek, pb := b.peek, beat := qencBeat d sr } s

/-! ## PACK, UNPK, SHFL, BCST (R242, R243) -/

/-- The result format of PACK (R242). -/
def packTo : Fmt → Option Fmt
  | .int64 => some .int32
  | .int32 => some .int16
  | .int16 => some .int8
  | .int8 => some .int4
  | .uint8 => some .uint4
  | _ => none

/-- The result format of UNPK (R242). -/
def unpkTo : Fmt → Option Fmt
  | .int32 => some .int64
  | .int16 => some .int32
  | .int8 => some .int16
  | .uint8 => some .int16
  | .int4 => some .int8
  | .uint4 => some .uint8
  | _ => none

/-- PACK (R242). -/
def execPack (t : Fin 64) (d : Dst) (a b : Opd) (s : State) : Host.Outcome State Fault Refusal :=
  fire { t := t, a := a.src, b := b.src, pa := a.peek, pb := b.peek
         beat := fun s bt c =>
           match bt.F.bind fun f => (packTo f).bind fun g => (twinTag bt.pal g).map fun tw => (f, g, tw) with
           | none => zeroBeat d s bt c
           | some (f, g, tw) =>
             let half := fun (o : OpVal) => (List.range f.lanes).map fun i =>
               roundClamp .rne 0 (decide (intLane f (laneBits (o.inFmt f) f.laneW i) < 0))
                 (intLane f (laneBits (o.inFmt f) f.laneW i)).natAbs 0 0 g.loVal g.hiVal
             let rs := half bt.a ++ half bt.bb
             goSends c (bt.deliver s d (ofLanes g.laneW (rs.map fun r => toBitsN g.laneW r.1)) tw
               (rs.foldl (fun fl r => fl ||| r.2) bt.mismatchFlag)) } s

/-- UNPK (R242). -/
def execUnpk (t : Fin 64) (d : Dst) (a b : Opd) (s : State) : Host.Outcome State Fault Refusal :=
  fire { t := t, a := a.src, b := b.src, pa := a.peek, pb := b.peek
         beat := fun s bt c =>
           match bt.F.bind fun f => (unpkTo f).bind fun g => (twinTag bt.pal g).map fun tw => (f, g, tw) with
           | none => zeroBeat d s bt c
           | some (f, g, tw) =>
             let h := bt.bb.bits.toNat % 2 * (f.lanes / 2)
             let v := ofLanes g.laneW ((List.range (f.lanes / 2)).map fun i =>
               toBitsN g.laneW (intLane f (laneBits (bt.a.inFmt f) f.laneW (h + i))))
             goSends c (bt.deliver s d v tw 0) } s

/-- Lane width and count as SHFL and BCST take them: RAW64 and BITMAP64 are one lane (R243). -/
def moveLanes (f : Fmt) : Nat × Nat := if f = .raw64 ∨ f = .bitmap then (64, 1) else (f.laneW, f.lanes)

/-- Lanes of source A taken by an index for each result lane; an index past the lanes gives zero (R243). -/
def moveBeat (d : Dst) (idx : Word → Nat → Nat) (s : State) (bt : Beat) (c : Carry) : Out :=
  match bt.F with
  | none => zeroBeat d s bt c
  | some f =>
    let wl := moveLanes f
    let v := ofLanes wl.1 ((List.range wl.2).map fun i =>
      let j := idx bt.bb.bits i
      if j < wl.2 then laneBits (bt.a.inFmt f) wl.1 j else 0)
    goSends c (bt.deliver s d v bt.T 0)

/-- SHFL (R243). -/
def execShfl (t : Fin 64) (d : Dst) (a b : Opd) (s : State) : Host.Outcome State Fault Refusal :=
  fire { t := t, a := a.src, b := b.src, pa := a.peek, pb := b.peek, beat := moveBeat d fun b i => laneBits b 4 i } s

/-- BCST (R243). -/
def execBcst (t : Fin 64) (d : Dst) (a b : Opd) (s : State) : Host.Outcome State Fault Refusal :=
  fire { t := t, a := a.src, b := b.src, pa := a.peek, pb := b.peek, beat := moveBeat d fun b _ => laneBits b 4 0 } s

/-! ## RMAX, RSUM, RSEX (R244, R245) -/

/-- One value taken into a reduction: the running value, if there is one, then the next; flags. -/
def redFold (op : Option Nat → Nat → Lane) : Option Nat → List Nat → Option Nat × Flags
  | r, [] => (r, 0)
  | r, x :: xs =>
    let l := op r x
    let t := redFold op (some l.bits) xs
    (t.1, l.fl ||| t.2)

/-- The maximum of R244. -/
def rmaxStep (f : Fmt) (flush : Bool) (mode : RMode) (r : Option Nat) (x : Nat) : Lane :=
  match f.float? with
  | some ff => laneFminmax false ⟨ff, flush, mode⟩ (r.getD x) x
  | none =>
    match r with
    | none => ⟨x, 0⟩
    | some r => ⟨if intLane f r < intLane f x then x else r, 0⟩

/-- The sum of R244: one rounding after each add. -/
def rsumStep (f : Fmt) (flush : Bool) (mode : RMode) (r : Option Nat) (x : Nat) : Lane :=
  match r with
  | none => ⟨x, 0⟩
  | some r => match f.float? with
    | some ff => laneFadd ⟨ff, flush, mode⟩ r x
    | none => ⟨x, 0⟩

/-- One beat of a reduction: `c.ws` keeps the running value, `c.ok` is false once a beat's format was not admitted;
one delivery after the last beat (R244, R246). -/
def redBeat (adm : Fmt → Bool) (step : Fmt → Bool → RMode → Option Nat → Nat → Lane) (d : Dst) (s : State) (bt : Beat)
    (c : Carry) : Out :=
  let c := bt.seen c
  let f? := bt.F.bind fun f => if adm f then some f else none
  match f? with
  | none =>
    let c := { c with ok := false }
    if bt.last then goSends c (bt.deliverOnce s d c 0 bt.T Flags.invalid)
    else .go { s := bt.raise s (Flags.invalid ||| bt.poisonFlag), c := c }
  | some f =>
    let start : Option Nat :=
      if bt.b = 0 then
        match d with
        | .g _ => if bt.cap.dst.present then some (laneBits bt.cap.dst.val f.laneW 0) else none
        | _ => none
      else c.ws.head?.map BitVec.toNat
    let xs := (List.range f.lanes).map fun i => laneBits (bt.a.inFmt f) f.laneW i
    let r := redFold (step f bt.flush bt.mode) start xs
    let v := r.1.getD 0
    let c := { c with ws := [BitVec.ofNat 64 v] }
    if bt.last then
      if c.ok then goSends c (bt.deliverOnce s d c (genLanes f fun _ => v) bt.T r.2)
      else goSends c (bt.deliverOnce s d c 0 bt.T Flags.invalid)
    else .go { s := bt.raise s (r.2 ||| bt.poisonFlag), c := c }

/-- RMAX (R244). -/
def execRmax (t : Fin 64) (d : Dst) (a : Opd) (s : State) : Host.Outcome State Fault Refusal :=
  fire { t := t, a := a.src, pa := a.peek, dst := d.reg?
         beat := redBeat (fun f => f.isWide || f.isInt) rmaxStep d } s

/-- RSUM (R244). -/
def execRsum (t : Fin 64) (d : Dst) (a : Opd) (s : State) : Host.Outcome State Fault Refusal :=
  fire { t := t, a := a.src, pa := a.peek, dst := d.reg?, beat := redBeat Fmt.isWide rsumStep d } s

/-- The difference of two FP32 values rounded once; equal values, infinities among them, differ by 0 (R245). -/
def rsexDiff (k : FCtx) (x y : Nat) : Lane := if x = y then ⟨0, 0⟩ else laneFsub k x y

/-- The pair (m, s) after one value (R41, R245). -/
def rsexStep (zin flush : Bool) (m s x : Nat) : Nat × Nat × Flags :=
  let k : FCtx := ⟨.fp32, flush, .rne⟩
  let xv := k.dec x
  let mv := k.dec m
  let nan := FFmt.fp32.defaultNaN
  if xv.isNaN then (nan, nan, Flags.when xv.isSNaN Flags.invalid)
  else if xv == .inf true || mv.isNaN then (m, s, 0)
  else
    let mn := (laneFminmax false k m x).bits
    let d1 := rsexDiff k m mn
    let d2 := rsexDiff k x mn
    let e1 := fn1Lane .exp2 .fp32 flush .rne d1.bits
    let e2 := fn1Lane .exp2 .fp32 flush .rne d2.bits
    let r := laneFma zin false k s e1.bits e2.bits
    (mn, r.bits, d1.fl ||| d2.fl ||| e1.fl ||| e2.fl ||| r.fl)

/-- The pair after a list of values. -/
def rsexFold (zin flush : Bool) : Nat → Nat → List Nat → Nat × Nat × Flags
  | m, s, [] => (m, s, 0)
  | m, s, x :: xs =>
    let r := rsexStep zin flush m s x
    let t := rsexFold zin flush r.1 r.2.1 xs
    (t.1, t.2.1, r.2.2 ||| t.2.2)

/-- One beat of RSEX: `c.ws` keeps the pair. -/
def rsexBeat (d : Fin 8) (s : State) (bt : Beat) (c : Carry) : Out :=
  let start : Word :=
    if bt.b = 0 then (if bt.cap.dst.present then bt.cap.dst.val else 0xFF800000) else c.ws.headD 0
  match bt.F.bind fun f => (narrowFmt f).map fun _ => f, twinTag bt.pal .fp32 with
  | some f, some tw =>
    let xs := (List.range f.lanes).map fun i => toFp32 f bt.flush (laneBits (bt.a.inFmt f) f.laneW i)
    let r := rsexFold Config.fmaZeroInfNaN bt.flush (laneBits start 32 0) (laneBits start 32 1) xs
    let v := ofLanes 32 [r.1, r.2.1]
    let c := { c with ws := [v] }
    if bt.last then
      if c.ok then goSends c (bt.deliver s (.g d) v tw r.2.2)
      else goSends c (bt.deliver s (.g d) 0 bt.T Flags.invalid)
    else .go { s := bt.raise s (r.2.2 ||| bt.poisonFlag), c := c }
  | _, _ =>
    let c := { c with ok := false, ws := [start] }
    if bt.last then goSends c (bt.deliver s (.g d) 0 bt.T Flags.invalid)
    else .go { s := bt.raise s (Flags.invalid ||| bt.poisonFlag), c := c }

/-- RSEX (R245). -/
def execRsex (t : Fin 64) (d : Fin 8) (a : Opd) (s : State) : Host.Outcome State Fault Refusal :=
  fire { t := t, a := a.src, pa := a.peek, dst := some d, beat := rsexBeat d } s

end Sys2Proof.Machine
end

