-- ==== Sys2Proof/Machine/TileMem.lean ====
section
/-! DEFINITION. Memory tiles: addresses, requests, full-empty words, FIFOs, and the order in which requests of one
element are performed (R15, R111-R114, R122-R126, R250-R260). -/

namespace Sys2Proof.Machine

/-! ## Addresses (R15, R113, R250, R251) -/

/-- Where a memory-tile address leads: a tile and a word of it, or a trap cause. -/
inductive Place where
  | at_ (tile word : Nat)
  | bad (cause : Nat)
  deriving DecidableEq, Repr

/-- A tile of a buffer's rectangle, in row-major order (R113). -/
def SecCfg.rectTile (c : SecCfg) (b : BufCfg) (n : Nat) : Nat :=
  (b.row + n / max b.cols 1) * c.tileWidth + b.col + n % max b.cols 1

/-- The tile and byte of an address moved on by `off` bytes in its offset field; `fifo` ignores the offset, moved on or
not. -/
def SecCfg.place (c : SecCfg) (fifo : Bool) (a off : Nat) : Place :=
  let low := if fifo then 0 else a
  let off := if fifo then 0 else off
  if low % 8 ≠ 0 then .bad 0x22
  else if a / 2 ^ 31 % 2 = 0 then
    let t := a / 2 ^ 18 % 4096
    let o := low % 2 ^ 18 + off
    if a / 2 ^ 30 % 2 = 1 ∨ c.tileCount ≤ t ∨ 2 ^ 18 ≤ o then .bad 0x20 else .at_ t (o / 8)
  else
    let b := (c.bufs[a / 2 ^ 25 % 64]?).getD {}
    let o := low % 2 ^ 25 + off
    if !b.valid ∨ (b.size ≤ o ∧ fifo = false) then .bad 0x20
    else
      let x := b.base + o
      let t := c.rectTile b (x / 2 ^ 18)
      if c.tileCount ≤ t then .bad 0x20 else .at_ t (x % 2 ^ 18 / 8)

/-- The operations a tile of each role admits (R255). -/
def roleAdmits (r : Role) (op : MemOp) : Bool :=
  match op with
  | .push => r == .tf
  | .pop => r == .tf
  | _ => r == .ab

/-- Where an access leads: the address, then the role of its tile (R111, R255). -/
def SecCfg.access (c : SecCfg) (op : MemOp) (a off : Nat) : Place :=
  match c.place (op == .push || op == .pop) a off with
  | .at_ t w => if roleAdmits (c.role t) op then .at_ t w else .bad 0x21
  | p => p

/-- Device row and column of a tile's block. -/
def UnitSt.tileBlock (u : UnitSt) (t : Nat) : Nat × Nat :=
  (blockRow u.nw + t / u.cfg.tileWidth / 4, blockCol u.nw + t % u.cfg.tileWidth / 4)

/-- 2h cycles between an element's block and a tile's, and 20 more across a quarter boundary (R253). -/
def UnitSt.hops (u : UnitSt) (e t : Nat) : Nat :=
  let tb := u.tileBlock t
  let er := u.devRow e / 8
  let ec := u.devCol e / 8
  let h := (tb.1 - er) + (er - tb.1) + (tb.2 - ec) + (ec - tb.2)
  2 * h + (if quarterAt (8 * tb.1) (8 * tb.2) = quarterAt (8 * er) (8 * ec) then 0 else 20)

/-! ## What a tile does with a request -/

namespace Tile

def word (t : Tile) (w : Nat) : Word := t.words.getD w 0
def isFull (t : Tile) (w : Nat) : Bool := (t.full.get? w).isSome
/-- A whole-word write: it also replaces a failed word (R383). -/
def setWord (t : Tile) (w : Nat) (v : Word) : Tile :=
  { t with words := t.words.put w v 0, bad := t.bad.filter fun x => x != w }
def setFull (t : Tile) (w : Nat) (b : Bool) : Tile :=
  { t with full := if b then t.full.set w () else t.full.erase w }

/-- The FIFO without the token at its head; a drain token that leaves has passed the tile (R72, R111). -/
def dropHead (t : Tile) : Tile :=
  { t with fifo := t.fifo.drop 1, badFifo := (t.badFifo.filter fun k => k != 0).map fun k => k - 1
           passed := t.passed || (match t.fifo with
             | k :: _ => k.isDrain
             | [] => false) }

end Tile

/-- What a request waits for at its tile (R112, R256). -/
def MemOp.ready (op : MemOp) (t : Tile) (w : Nat) : Bool :=
  match op with
  | .lds => t.isFull w
  | .lde => t.isFull w
  | .ste => !t.isFull w
  | .pop => !t.fifo.isEmpty
  | .push => decide (t.fifo.length < 16384)
  | _ => true

/-- The request reads the word it names (R383). -/
def MemOp.reads : MemOp → Bool
  | .st => false
  | .stf => false
  | .ste => false
  | .push => false
  | .pop => false
  | _ => true

/-- One lane of an integer atomic: old and operand lanes (R258). -/
def amoLane (op : MemOp) (f : Fmt) (o b : Nat) : Nat :=
  let x := intLane f o
  let y := intLane f b
  match op with
  | .amoAdd => toBitsN f.laneW (x + y)
  | .amoMin => if y < x then b else o
  | .amoMax => if x < y then b else o
  | _ => o

/-- A result with a NaN operand: the default NaN, invalid only if one signals (R260, R99). -/
def nanDefault (f : FFmt) (x y : FVal) (r : Lane) : Lane :=
  if x.isNaN || y.isNaN then ⟨f.defaultNaN, Flags.when (x.isSNaN || y.isSNaN) Flags.invalid⟩ else r

/-- One lane of a floating add at a tile or a bank, under RNE, subnormals kept (R99, R260). -/
def bankAdd (f : FFmt) (o b : Nat) : Lane :=
  nanDefault f (f.decode false o) (f.decode false b) (laneFadd ⟨f, false, .rne⟩ o b)

/-- One lane of a floating atomic (R260). -/
def famoLane (op : MemOp) (f : FFmt) (o b : Nat) : Lane :=
  match op with
  | .famoAdd => bankAdd f o b
  | .famoMin => nanDefault f (f.decode false o) (f.decode false b) (laneFminmax true ⟨f, false, .rne⟩ o b)
  | _ => nanDefault f (f.decode false o) (f.decode false b) (laneFminmax false ⟨f, false, .rne⟩ o b)

/-- The word an access leaves, and its flags (R254, R258-R260). -/
def memNew (r : MemReq) (old : Word) : Word × Flags :=
  let f := r.fmt.getD .raw64
  match r.op with
  | .st => (r.data, 0)
  | .stf => (r.data, 0)
  | .ste => (r.data, 0)
  | .amoAnd => (old &&& r.data, 0)
  | .amoOr => (old ||| r.data, 0)
  | .amoXor => (old ^^^ r.data, 0)
  | .amoSwp => (r.data, 0)
  | .amoCas => (if old = r.exp then r.data else old, 0)
  | .famoAdd => fl f
  | .famoMin => fl f
  | .famoMax => fl f
  | .amoAdd => (genLanes f fun i => amoLane r.op f (laneBits old f.laneW i) (laneBits r.data f.laneW i), 0)
  | .amoMin => (genLanes f fun i => amoLane r.op f (laneBits old f.laneW i) (laneBits r.data f.laneW i), 0)
  | .amoMax => (genLanes f fun i => amoLane r.op f (laneBits old f.laneW i) (laneBits r.data f.laneW i), 0)
  | _ => (old, 0)
where
  fl (f : Fmt) : Word × Flags :=
    match f.float? with
    | none => (old, 0)
    | some ff =>
      let ls := (List.range f.lanes).map fun i =>
        famoLane r.op ff (laneBits old f.laneW i) (laneBits r.data f.laneW i)
      (ofLanes f.laneW (ls.map Lane.bits), ls.foldl (fun a l => a ||| l.fl) 0)

/-- A request performed at its tile, its condition met: the tile, the word it returns, the token it takes, flags. -/
def tileApply (r : MemReq) (t : Tile) : Tile × Word × Option Token × Flags :=
  let old := t.word r.word
  let n := memNew r old
  match r.op with
  | .ld => (t, old, none, 0)
  | .lds => (t, old, none, 0)
  | .lde => (t.setFull r.word false, old, none, 0)
  | .st => (t.setWord r.word n.1, old, none, 0)
  | .stf => ((t.setWord r.word n.1).setFull r.word true, old, none, 0)
  | .ste => ((t.setWord r.word n.1).setFull r.word true, old, none, 0)
  | .push => ({ t with fifo := t.fifo ++ [r.tok] }, 0, none, 0)
  | .pop =>
    match t.fifo with
    | [] => (t, 0, none, 0)
    | k :: _ => (t.dropHead, k.payload, some k, 0)
  | _ => (t.setWord r.word n.1, old, none, n.2)

/-- A late result whose value has come: the token an output or a register takes (R180, R181, R253). -/
def Late.finish (l : Late) (v : Word) (tok : Option Token) (fl : Flags) (now : Nat) : Late :=
  let t : Token := match tok with
    | some k => k
    | none => { l.pre with payload := v }
  match l.dst with
  | .out _ =>
    if l.poisoned then { l with tok := some l.pre, due := max l.due now, fl := l.fl ||| fl }
    else { l with tok := some t, send := l.send && !t.isDrain, due := max l.due now, fl := l.fl ||| fl }
  | _ => { l with tok := some { t with payload := v }, due := max l.due now, fl := l.fl ||| fl }

/-- The late result that request `id` brings, finished. -/
def Elem.finishLate (x : Elem) (id : Nat) (v : Word) (tok : Option Token) (fl : Flags) (now : Nat) : Elem :=
  { x with late := x.late.map fun l => if l.req = id then l.finish v tok fl now else l }

namespace State

/-- A request whose condition holds, performed (R125, R254). -/
def perform (s : State) (u : Nat) (r : MemReq) : State :=
  s.modUnit u fun x =>
    let a := tileApply r (x.tile r.tile)
    let x := x.setTile r.tile a.1
    let y := x.elem r.e
    if r.hasDst then x.setElem r.e (y.finishLate r.id a.2.1 a.2.2.1 a.2.2.2 s.clk.cyc)
    else x.setElem r.e { y with fl := y.fl ||| a.2.2.2 }

/-- The request reads a word, or the token at the head of a FIFO, that has failed (R383). -/
def badWord (x : UnitSt) (r : MemReq) : Bool :=
  let t := x.tile r.tile
  (r.op.reads && t.bad.contains r.word) || (r.op == .pop && !t.fifo.isEmpty && t.badFifo.contains 0)

/-! ## The order of one element's requests (R122, R125) -/

/-- `a` was issued before `b`, and `b` is not performed before `a`: the same tile, a release, or an acquire; only
requests of stamp=wave slots are ordered. -/
def mustFollow (a b : MemReq) : Bool :=
  a.e == b.e && a.stamp && b.stamp &&
  (a.tile == b.tile || b.op == .stf || b.op == .ste || a.op == .lds || a.op == .lde)

/-- Requests set aside at the tiles. -/
def asideOf (x : UnitSt) : List MemReq := (x.mem.vals.map Tile.waiting).flatten

/-- A request of a stamp=wave slot of the element for words of an operand slot, issued below number `n`, has not been served
(R119, R122). -/
def slotOpen (x : UnitSt) (e n : Nat) : Bool := x.bind.any fun p => p.2.own.any fun o => o.e == e && o.wave && decide (o.num < n)

/-- A WREM or SNDM of a stamp=wave slot of the element, issued below number `n`, has not been acknowledged (R122). -/
def farOpen (s : State) (u e n : Nat) : Bool := s.remotes.any fun p => p.2.u == u && p.2.e == e && p.2.wave && decide (p.1 < n)

/-- An access of a stamp=wave slot of the element to sweep memory or through the section cache, issued below number `n`,
has not been performed: an item not served, a tag walk under way, an access that waits for its line. -/
def sweepOpen (s : State) (u : Nat) (x : UnitSt) (e n : Nat) : Bool :=
  (s.sweep.items.any fun p => p.2.u == u && p.2.e == e && p.2.wave && decide (p.2.ord < n)) ||
  (x.cache.walks.any fun w => w.e == e && w.wave && decide (w.num < n)) ||
  x.cache.waits.any fun w => w.e == e && w.wave && decide (w.num < n)

/-- A port of an element takes no request: those it sent that find every place of their tile taken fill the network behind
it (R253). -/
def portBacked (x : UnitSt) (e port : Nat) : Bool :=
  let stuck := (x.reqs.filter fun r => r.e == e && r.port == port && decide (64 ≤ (x.tile r.tile).waiting.length) &&
    !r.op.ready (x.tile r.tile) r.word).length
  stuck != 0 && decide (Config.netPlaces < stuck)

/-- A request may be performed now: none issued before it must come first, a waiting request for the same word or the
same end of a FIFO that could go goes first (R253), and a release comes after every memory event before it, wherever that is
performed (R122). -/
def mayPerform (s : State) (u : Nat) (x : UnitSt) (r : MemReq) : Bool :=
  let t := x.tile r.tile
  let rival := fun (w : MemReq) =>
    w.word == r.word && (w.op == .pop) == (r.op == .pop) && (w.op == .push) == (r.op == .push) && w.op.ready t w.word
  let older := (x.reqs ++ asideOf x).filter fun a => decide (a.id < r.id)
  !(older.any fun a => mustFollow a r) &&
  !((r.op == .lds || r.op == .lde || r.op == .ste || r.op == .pop || r.op == .push) && t.waiting.any rival) &&
  !((r.op == .stf || r.op == .ste) && r.stamp && (s.sweepOpen u x r.e r.id || slotOpen x r.e r.id || s.farOpen u r.e r.id))

/-- A request that has reached its tile: performed, or set aside while its condition fails, if one of the 64 places is
free (R253).  None where it cannot arrive yet. -/
def arrive (s : State) (u : Nat) (x : UnitSt) (r : MemReq) : Option State :=
  let t := x.tile r.tile
  if !s.mayPerform u x r then none
  else if r.op.ready t r.word then some (s.perform u r)
  else if t.waiting.length < 64 then
    some (s.modUnit u fun y => y.setTile r.tile { y.tile r.tile with waiting := (y.tile r.tile).waiting ++ [r] })
  else none

/-- A request issued by a beat: performed at once where it may be and is not to stay under way. -/
def issue (s : State) (u : Nat) (r : MemReq) (defer : Bool) : State :=
  match s.unit? u with
  | none => s
  | some x =>
    let under := s.modUnit u fun y => { y with reqs := y.reqs ++ [r] }
    if defer then under else (s.arrive u x r).getD under

/-- A request that has read a word which has failed: the element traps, unless it has (R383). -/
def failReq (s : State) (u : Nat) (r : MemReq) : State :=
  let s := s.modElem u r.e fun y => dropLates y [r.id]
  if (s.elem u r.e).pick == .trapped then s else s.trap u r.e r.slot 0x0D r.beat 0 0 0

/-- A memory request under way reaches its tile (R125): request `i` of the unit. -/
def serveReq (s : State) (u i : Nat) : State :=
  match s.unit? u with
  | none => s
  | some x =>
    match x.reqs[i]? with
    | none => s
    | some r =>
      let out := { x with reqs := listDel x.reqs i }
      if badWord x r && s.mayPerform u out r && r.op.ready (x.tile r.tile) r.word then
        if s.canTrap u then (s.setUnit u out).failReq u r else s
      else (s.setUnit u out |>.arrive u out r).getD s

end State

end Sys2Proof.Machine
end

