-- ==== Sys2Proof/Machine/MemInstr.lean ====
section
/-! DEFINITION. Class 4 on memory tiles and buffers, and FENCE (R134, R248-R262). -/

namespace Sys2Proof.Machine

/-- What the firing was given as its focus. -/
def State.deferring (s : State) : Bool :=
  match s.focus with
  | some f => f.defer
  | none => false

/-- The slot stamps in wave order (R71, R165). -/
def State.stamps (s : State) (bt : Beat) : Bool := Desc.stamp ((s.elem bt.u bt.e).descOf bt.slot)

/-- Bytes a beat adds to its address: 8 a beat, unless the address is a channel's (R251). -/
def Beat.step8 (bt : Beat) (a : Src) : Nat := if a.chan?.isSome then 0 else 8 * bt.b

/-- A late result put under way that request `id` will bring (R253): its mark, coordinate and tag, and the copy of a
poison operand that outputs receive; nothing is sent for drain, though its flags come back (R260), and nothing is kept for
destination z (R180, R181). -/
def Beat.promise (bt : Beat) (s : State) (d : Dst) (tag : BitVec 3) (lat id : Nat) : State :=
  let l : Late := { dst := .none, due := bt.now s + lat, last := bt.last, req := id
                    pre := (bt.poison?).getD (bt.result 0 tag), poisoned := bt.poison?.isSome }
  match d with
  | .g n => bt.mod s fun x => { (x.pendG n true) with late := x.late ++ [{ l with dst := .reg n }] }
  | .out o => bt.mod s fun x => { x with late := x.late ++ [{ l with dst := .out o, send := bt.poison?.isSome || !bt.drain? }] }
  | .z => s

/-- One beat of an access to a memory tile (R250-R256).  `mk` completes the request. -/
def memBeat (op : MemOp) (port : Nat) (a : Src) (d : Option Dst) (tag : Beat → BitVec 3) (lat : Nat)
    (mk : State → Beat → MemReq → MemReq) (s : State) (bt : Beat) (c : Carry) : Out :=
  match s.unit? bt.u with
  | none => .hold s c
  | some x =>
    let addr := bt.a.bits.toNat % 2 ^ 32
    match x.cfg.access op addr (bt.step8 a) with
    | .bad cause => .trap (bt.raise s bt.poisonFlag) cause bt.b addr
    | .at_ t w =>
      let id := s.nextId
      let fifo := op == .push || op == .pop
      let r := mk s bt { id := id, e := bt.e, slot := bt.slot, port := port, stamp := s.stamps bt, tile := t,
                         word := if fifo then 0 else w, op := op, flush := bt.flush, beat := bt.b,
                         hasDst := match d with
                           | some .z => false
                           | some _ => true
                           | none => false }
      if State.portBacked x bt.e port then .hold s c
      else if State.badWord x r && !s.deferring then .trap (bt.raise s bt.poisonFlag) 0x0D bt.b addr
      else
        let s := bt.raise s.bumpId bt.poisonFlag
        let s := match d with
          | some d => bt.promise s d (tag bt) (lat + x.hops bt.e t) id
          | none => s
        .go { s := s.issue bt.u r s.deferring, c := c
              need := match d with
                | some d => bt.lateNeed d
                | none => [] }

/-- The tag an address carries for the loaded result (R250). -/
def addrTag (bt : Beat) : BitVec 3 := (bt.a.bits >>> 32).setWidth 3

/-- A store's data is source B's whole payload (R250). -/
def withData (_ : State) (bt : Beat) (r : MemReq) : MemReq := { r with data := bt.bb.bits }

/-- No more than the address. -/
def plainReq (_ : State) (_ : Beat) (r : MemReq) : MemReq := r

/-- LD (R254). -/
def execLd (t : Fin 64) (d : Dst) (a : Opd) (s : State) : Host.Outcome State Fault Refusal :=
  fire { t := t, a := a.src, pa := a.peek, beat := memBeat .ld 0 a.src (some d) addrTag 4 plainReq } s

/-- LDS (R254). -/
def execLds (t : Fin 64) (d : Dst) (a : Opd) (s : State) : Host.Outcome State Fault Refusal :=
  fire { t := t, a := a.src, pa := a.peek, beat := memBeat .lds 0 a.src (some d) addrTag 4 plainReq } s

/-- LDE (R254). -/
def execLde (t : Fin 64) (d : Dst) (a : Opd) (s : State) : Host.Outcome State Fault Refusal :=
  fire { t := t, a := a.src, pa := a.peek, beat := memBeat .lde 0 a.src (some d) addrTag 4 plainReq } s

/-- POP (R256). -/
def execPop (t : Fin 64) (d : Dst) (a : Opd) (s : State) : Host.Outcome State Fault Refusal :=
  fire { t := t, a := a.src, pa := a.peek, beat := memBeat .pop 0 a.src (some d) addrTag 4 plainReq } s

/-- ST (R254). -/
def execSt (t : Fin 64) (d : Fin 4) (a b : Opd) (s : State) : Host.Outcome State Fault Refusal :=
  fire { t := t, a := a.src, b := b.src, pa := a.peek, pb := b.peek
         beat := memBeat .st d.val a.src none addrTag 0 withData } s

/-- STF (R254). -/
def execStf (t : Fin 64) (d : Fin 4) (a b : Opd) (s : State) : Host.Outcome State Fault Refusal :=
  fire { t := t, a := a.src, b := b.src, pa := a.peek, pb := b.peek
         beat := memBeat .stf d.val a.src none addrTag 0 withData } s

/-- STE (R254). -/
def execSte (t : Fin 64) (d : Fin 4) (a b : Opd) (s : State) : Host.Outcome State Fault Refusal :=
  fire { t := t, a := a.src, b := b.src, pa := a.peek, pb := b.peek
         beat := memBeat .ste d.val a.src none addrTag 0 withData } s

/-- The token PUSH appends: a channel operand whole, anything else a data token with tag T and coordinate cx
(R256). -/
def pushTok (_ : State) (bt : Beat) (r : MemReq) : MemReq :=
  { r with tok := match bt.bb.tok with
      | some k => k
      | none => ⟨0, bt.T, bt.cx, bt.bb.bits⟩ }

/-- PUSH (R256). -/
def execPush (t : Fin 64) (d : Fin 4) (a b : Opd) (s : State) : Host.Outcome State Fault Refusal :=
  fire { t := t, a := a.src, b := b.src, pa := a.peek, pb := b.peek
         beat := memBeat .push d.val a.src none addrTag 0 pushTok } s

/-- The atomics that take source B whole and not in F's lanes (R258, R259). -/
def MemOp.wholeB : MemOp → Bool
  | .amoAnd => true
  | .amoOr => true
  | .amoXor => true
  | .amoSwp => true
  | .amoCas => true
  | _ => false

/-- The data of an atomic: source B whole, or in F's lanes (R178, R258, R259). -/
def amoReq (f : Fmt) (_ : State) (bt : Beat) (r : MemReq) : MemReq :=
  { r with data := if r.op.wholeB then bt.bb.bits else bt.bb.inFmt f, fmt := some f, exp := bt.cap.dst.val }

/-- One beat of an atomic whose format `adm` must admit; else the word is left, and zeros with tag T are delivered
with invalid, after the address has been checked (R255, R258). -/
def amoBeat (op : MemOp) (adm : Fmt → Bool) (a : Src) (d : Dst) (s : State) (bt : Beat) (c : Carry) : Out :=
  match bt.F.bind fun f => if adm f then some f else none with
  | some f => memBeat op 0 a (some d) (fun bt => bt.T) 6 (amoReq f) s bt c
  | none =>
    let addr := bt.a.bits.toNat % 2 ^ 32
    match (s.cfgOf bt.u).access op addr (bt.step8 a) with
    | .bad cause => .trap (bt.raise s bt.poisonFlag) cause bt.b addr
    | .at_ t _ =>
      let h := match s.unit? bt.u with
        | some x => x.hops bt.e t
        | none => 0
      .go { s := bt.deliverLate s d 0 bt.T Flags.invalid (6 + h), c := c, need := bt.lateNeed d }

/-- AMOADD (R258). -/
def execAmoadd (t : Fin 64) (d : Dst) (a b : Opd) (s : State) : Host.Outcome State Fault Refusal :=
  fire { t := t, a := a.src, b := b.src, pa := a.peek, pb := b.peek
         beat := amoBeat .amoAdd (Fmt.isInt) a.src d } s

/-- AMOMIN (R258). -/
def execAmomin (t : Fin 64) (d : Dst) (a b : Opd) (s : State) : Host.Outcome State Fault Refusal :=
  fire { t := t, a := a.src, b := b.src, pa := a.peek, pb := b.peek
         beat := amoBeat .amoMin (Fmt.isInt) a.src d } s

/-- AMOMAX (R258). -/
def execAmomax (t : Fin 64) (d : Dst) (a b : Opd) (s : State) : Host.Outcome State Fault Refusal :=
  fire { t := t, a := a.src, b := b.src, pa := a.peek, pb := b.peek
         beat := amoBeat .amoMax (Fmt.isInt) a.src d } s

/-- AMOAND (R258). -/
def execAmoand (t : Fin 64) (d : Dst) (a b : Opd) (s : State) : Host.Outcome State Fault Refusal :=
  fire { t := t, a := a.src, b := b.src, pa := a.peek, pb := b.peek
         beat := amoBeat .amoAnd (fun _ => true) a.src d } s

/-- AMOOR (R258). -/
def execAmoor (t : Fin 64) (d : Dst) (a b : Opd) (s : State) : Host.Outcome State Fault Refusal :=
  fire { t := t, a := a.src, b := b.src, pa := a.peek, pb := b.peek
         beat := amoBeat .amoOr (fun _ => true) a.src d } s

/-- AMOXOR (R258). -/
def execAmoxor (t : Fin 64) (d : Dst) (a b : Opd) (s : State) : Host.Outcome State Fault Refusal :=
  fire { t := t, a := a.src, b := b.src, pa := a.peek, pb := b.peek
         beat := amoBeat .amoXor (fun _ => true) a.src d } s

/-- AMOSWP (R258). -/
def execAmoswp (t : Fin 64) (d : Dst) (a b : Opd) (s : State) : Host.Outcome State Fault Refusal :=
  fire { t := t, a := a.src, b := b.src, pa := a.peek, pb := b.peek
         beat := amoBeat .amoSwp (fun _ => true) a.src d } s

/-- FAMOADD (R260). -/
def execFamoadd (t : Fin 64) (d : Dst) (a b : Opd) (s : State) : Host.Outcome State Fault Refusal :=
  fire { t := t, a := a.src, b := b.src, pa := a.peek, pb := b.peek
         beat := amoBeat .famoAdd (Fmt.isWide) a.src d } s

/-- FAMOMIN (R260). -/
def execFamomin (t : Fin 64) (d : Dst) (a b : Opd) (s : State) : Host.Outcome State Fault Refusal :=
  fire { t := t, a := a.src, b := b.src, pa := a.peek, pb := b.peek
         beat := amoBeat .famoMin (Fmt.isWide) a.src d } s

/-- FAMOMAX (R260). -/
def execFamomax (t : Fin 64) (d : Dst) (a b : Opd) (s : State) : Host.Outcome State Fault Refusal :=
  fire { t := t, a := a.src, b := b.src, pa := a.peek, pb := b.peek
         beat := amoBeat .famoMax (Fmt.isWide) a.src d } s

/-- AMOCAS: the expected value is the destination register as read at the first beat (R259). -/
def execAmocas (t : Fin 64) (d : Fin 8) (a b : Opd) (s : State) : Host.Outcome State Fault Refusal :=
  fire { t := t, a := a.src, b := b.src, pa := a.peek, pb := b.peek, dst := some d
         beat := amoBeat .amoCas (fun _ => true) a.src (.g d) } s

/-! ## Buffers (R114, R261) -/

/-- The buffer a buffer-form address names, where the entry is valid. -/
def bufOf (a : Nat) : Option Nat :=
  if a / 2 ^ 31 % 2 = 1 then some (a / 2 ^ 25 % 64) else none

/-- The trap of a buffer-form address whatever its offset: an invalid buffer, or tiles that are no AB tiles (R255). -/
def SecCfg.bufTrap (c : SecCfg) (a : Nat) : Option Nat :=
  match c.place true a 0 with
  | .bad cause => some cause
  | .at_ t _ => if c.role t = .ab then none else some 0x21

/-- The code of a buffer state (R261). -/
def BufPhase.code : BufPhase → Nat
  | .empty => 0
  | .filling => 1
  | .ready => 2
  | .draining => 3

/-- A state requested by BUFSET: the buffer after it, none where the request is ignored with invalid (R114,
R261). -/
def BufSt.request (b : BufSt) (want : Nat) : Option BufSt :=
  match b.phase, want with
  | .empty, 1 => some { b with phase := .filling, byCmd := true }
  | .filling, 2 => if b.count = 0 then some { b with phase := .ready, byCmd := false } else none
  | .ready, 3 => some { b with phase := .draining }
  | .draining, 0 => some { b with phase := .empty }
  | _, _ => none

/-- BUFQ (R261): an address that names no valid buffer traps as outside the section, one in raw form reads zero. -/
def bufqBeat (d : Dst) (s : State) (bt : Beat) (c : Carry) : Out :=
  let a := bt.a.bits.toNat % 2 ^ 32
  match s.unit? bt.u with
  | none => .hold s c
  | some x =>
    match bufOf a with
    | none => .go { s := bt.deliverLate s d 0 (addrTag bt) Flags.invalid 4, c := c, need := bt.lateNeed d }
    | some b =>
      match x.cfg.bufTrap a with
      | some cause => .trap (bt.raise s bt.poisonFlag) cause bt.b a
      | none =>
        let v := BitVec.ofNat 64 ((x.buf b).phase.code + 256 * (x.buf b).count)
        .go { s := bt.deliverLate s d v (addrTag bt) 0 4, c := c, need := bt.lateNeed d }

/-- BUFQ (R261). -/
def execBufq (t : Fin 64) (d : Dst) (a : Opd) (s : State) : Host.Outcome State Fault Refusal :=
  fire { t := t, a := a.src, pa := a.peek, beat := bufqBeat d } s

/-- One beat of BUFSET (R114, R261). -/
def bufsetBeat (s : State) (bt : Beat) (c : Carry) : Out :=
  let a := bt.a.bits.toNat % 2 ^ 32
  let s := bt.raise s bt.poisonFlag
  match s.unit? bt.u with
  | none => .hold s c
  | some x =>
    match bufOf a with
    | none => .go { s := bt.raise s Flags.invalid, c := c }
    | some b =>
      match x.cfg.bufTrap a with
      | some cause => .trap s cause bt.b a
      | none =>
        match (x.buf b).request (bt.bb.bits.toNat % 4) with
        | some y => .go { s := s.modUnit bt.u fun x => x.setBuf b y, c := c }
        | none => .go { s := bt.raise s Flags.invalid, c := c }

/-- BUFSET (R261). -/
def execBufset (t : Fin 64) (a b : Opd) (s : State) : Host.Outcome State Fault Refusal :=
  fire { t := t, a := a.src, b := b.src, pa := a.peek, pb := b.peek, beat := bufsetBeat } s

/-! ## FENCE (R134, R262) -/

/-- The code of a scope. -/
def Scope.code : Scope → Nat
  | .elem => 0
  | .sec => 1
  | .qtr => 2
  | .dev => 3
  | .dom => 4

/-- An item that the element itself asked for: no item of a carriage (R134). -/
def Item.ofElem (i : Item) : Bool :=
  match i.kind with
  | .gat _ _ _ => false
  | .sca _ _ _ _ => false
  | _ => true

/-- A fence set by element `e` when the next number was `n` has completed (R134): each scope includes the narrower
ones. -/
def fenceDone (s : State) (u e : Nat) (f : Scope × Nat) : Bool :=
  let k := Scope.code f.1
  match s.unit? u with
  | none => true
  | some x =>
    let mineR := fun (r : MemReq) => r.e == e && decide (r.id < f.2)
    let tiles := !(x.reqs.any mineR) && !((State.asideOf x).any mineR)
    let mineI := fun (p : Nat × Item) => p.2.u == u && p.2.e == e && p.2.ofElem && decide (p.2.ord < f.2)
    let isWb := fun (p : Nat × Item) => match p.2.kind with
      | .wb => true
      | _ => false
    let wait := fun (late : Item → Bool) => x.cache.waits.any fun w => w.e == e && decide (w.num < f.2) &&
      ((s.sweep.items.get? w.item).map late).getD false
    let port := !(s.sweep.items.any fun p => mineI p && p.2.pa.isNone) && !wait fun i => i.pa.isNone
    let wbs := !(s.sweep.items.any fun p => mineI p && isWb p && p.2.stamp.isNone) &&
      !(x.cache.walks.any fun w => w.e == e && w.wb && decide (w.num < f.2))
    let slots := !(x.bind.any fun p => p.2.own.any fun o => o.e == e && decide (o.num < f.2))
    let copies := !(s.copies.toList.any fun q => q.copies.any fun p => p.2.u == u && p.2.e == e && decide (p.1 < f.2)) &&
      !(s.guards.any fun p => p.2.u == u && p.2.e == e && decide (p.1 < f.2))
    let items := !(s.sweep.items.any fun p => mineI p && p.2.stamp.isNone) && !wait fun i => i.stamp.isNone
    let far := !(s.remotes.any fun p => p.2.u == u && p.2.e == e && decide (p.1 < f.2))
    port && (decide (k < 1) || (tiles && wbs)) && (decide (k < 2) || (slots && copies)) && (decide (k < 3) || items) &&
      (decide (k < 4) || far)

/-- FENCE (R134): fires in one beat; what waits for it waits in the picker. -/
def execFence (t : Fin 64) (scope : Scope) (s : State) : Host.Outcome State Fault Refusal :=
  fire { t := t
         beat := fun s bt c =>
           .go { s := bt.mod s fun x =>
                   { x with fences := (x.fences.filter fun f => !fenceDone s bt.u bt.e f) ++ [(scope, s.nextId)] }
                 c := c } } s

end Sys2Proof.Machine
end

