-- ==== Sys2Proof/Machine/CacheMem.lean ====
section
/-! DEFINITION. Class 4 on the section cache and on single words of sweep memory: LDC, STC, CINV, CWB, CHOLD, CFREE,
LDW (R115-R117, R133, R250, R263-R268). -/

namespace Sys2Proof.Machine

/-- A virtual address of 56 bits, moved on by `off` bytes (R250, R251). -/
def vaOf (w : Word) (off : Nat) : Nat := (w.toNat % 2 ^ 56 + off) % 2 ^ 56

/-- The tag a virtual address carries for the loaded result (R250). -/
def vaTag (bt : Beat) : BitVec 3 := (bt.a.bits >>> 56).setWidth 3

/-- The CB tiles of a section, in section-relative order (R111, R115). -/
def SecCfg.cbTiles (c : SecCfg) : List Nat := (List.range c.tileCount).filter fun t => c.role t == .cb

/-- The superblock of an address: four lines of 64 bytes (R115). -/
def sbOf (va : Nat) : Nat := va / 256
def lineOf (va : Nat) : Nat := va / 64 * 64

/-- CB tile (by its place among them) and set of a superblock (R115). -/
def cacheSet (t sb : Nat) : Nat × Nat := (sb % t, sb / t % 128)

namespace Cache

/-- A retention register holds the line, and no unmap dropped its pin (R117, R266, R365). -/
def pinned (c : Cache) (line : Nat) : Bool :=
  !c.unpin.contains line &&
  c.ret.any fun r => match r with
    | some (b, n) => decide (line < b + n) && decide (b < line + 64)
    | none => false

/-- A way is pinned while a valid line of it is. -/
def wayPinned (c : Cache) (w : Way) : Bool :=
  (List.range 4).any fun i => w.valid.getLsbD i && c.pinned (256 * w.sb + 64 * i)

/-- The way of a superblock. -/
def way? (c : Cache) (sb : Nat) : Option Way := c.ways.find? fun w => w.sb == sb

/-- Ways of the set a superblock falls in. -/
def setWays (c : Cache) (t sb : Nat) : List Way := c.ways.filter fun w => cacheSet t w.sb == cacheSet t sb

/-- All eight ways of a superblock's set are pinned, and it is not among them (R115). -/
def full (c : Cache) (t sb : Nat) : Bool :=
  (c.way? sb).isNone && decide (8 ≤ ((c.setWays t sb).filter c.wayPinned).length)

/-- The line is in the cache. -/
def hit? (c : Cache) (va : Nat) : Option Way :=
  match c.way? (sbOf va) with
  | some w => if w.valid.getLsbD (va / 64 % 4) then some w else none
  | none => none

/-- A way put back in its place. -/
def setWay (c : Cache) (w : Way) : Cache :=
  { c with ways := c.ways.map fun x => if x.sb = w.sb then w else x }

/-- The word at an address of a way. -/
def wordAt (w : Way) (va : Nat) : Word := w.data.getD (va / 8 % 32) 0

/-- The least recently used of some ways, those marked evict-first before the others (R115). -/
def victim (l : List Way) : Option Way :=
  let pick := fun (xs : List Way) => xs.foldl (fun (a : Option Way) w => match a with
    | none => some w
    | some b => if w.used < b.used then some w else some b) none
  match pick (l.filter Way.ef) with
  | some w => some w
  | none => pick l

/-- The dirty lines of a way in ascending order: line address and its words by offset. A word that cannot be corrected is not
written back (R383 does not say what becomes of it: DESIGN CHOICE, log 66). -/
def dirtyLines (w : Way) : List (Nat × List (Nat × Word)) :=
  ((List.range 4).filter fun i => w.dirty.getLsbD i).map fun i =>
    (256 * w.sb + 64 * i, ((List.range 8).filter fun j => !w.bad.contains (8 * i + j)).map fun j => (8 * j, w.data.getD (8 * i + j) 0))

/-- The word at an address of a way cannot be corrected (R383). -/
def badAt (w : Way) (va : Nat) : Bool := w.bad.contains (va / 8 % 32)

/-- Room for a superblock: the cache without the way evicted for it, and that way (R115).  None where every way of
its set is pinned. -/
def makeRoom (c : Cache) (t sb : Nat) : Option (Cache × Option Way) :=
  let ws := c.setWays t sb
  if ws.length < 8 then some (c, none)
  else
    match victim (ws.filter fun w => !c.wayPinned w) with
    | some v => some ({ c with ways := c.ways.filter fun w => w.sb != v.sb }, some v)
    | none => none

/-- A line filled: it is pinned again if it lies in a retained range (R266). -/
def fillLine (c : Cache) (sb line : Nat) (ws : List Word) (used : Nat) : Cache :=
  let i := line / 64 % 4
  let w := (c.way? sb).getD { sb := sb }
  let d := (List.range 8).foldl (fun d j => Assoc.put d (8 * i + j) (ws.getD j 0) 0) w.data
  let w' := { w with valid := w.valid ||| (1#4 <<< i), data := d, used := used, bad := w.bad.filter fun k => k / 8 != i }
  let c := { c with unpin := c.unpin.filter fun l => l != line }
  if (c.way? sb).isSome then c.setWay w' else { c with ways := c.ways ++ [w'] }

/-- A word written into the cached copy, its line dirty (R264). -/
def storeWord (c : Cache) (va : Nat) (v : Word) (ef : Bool) (used : Nat) : Cache :=
  match c.hit? va with
  | some w =>
    c.setWay { w with data := Assoc.put w.data (va / 8 % 32) v 0, dirty := w.dirty ||| (1#4 <<< (va / 64 % 4)),
                      ef := w.ef || ef, used := used, bad := w.bad.filter fun k => k != va / 8 % 32 }
  | none => c

/-- A word read: the way is used now, and marked evict-first by `.ef` (R115, R263). -/
def touch (c : Cache) (va : Nat) (ef : Bool) (used : Nat) : Cache :=
  match c.hit? va with
  | some w => c.setWay { w with ef := w.ef || ef, used := used }
  | none => c

end Cache

/-! ## Window items an element sends (R94, R104, R268) -/

namespace State

/-- A window item under a fresh number, on its way to the port of its word, for the request issued at number `ord`. -/
def sendItem (s : State) (u e slot : Nat) (wave : Bool) (ord : Nat) (kind : ItemKind) (va : Nat)
    (words : List (Nat × Word)) : State :=
  match s.unit? u with
  | none => s
  | some x =>
    let it : Item := { u := u, e := e, slot := slot, wave := wave, kind := kind, va := va, words := words
                       tenant := x.tenant, secure := x.secure, ord := ord, sec := (x.job, x.section_, x.replica) }
    { s with sweep := { s.sweep with items := s.sweep.items.set s.nextId it }, nextId := s.nextId + 1 }

/-- One posted write item for each line of a list (R104, R115, R265). -/
def sendLines (s : State) (u e slot : Nat) (wave : Bool) (ord : Nat) : List (Nat × List (Nat × Word)) → State
  | [] => s
  | (line, ws) :: rest => (s.sendItem u e slot wave ord .wb line ws).sendLines u e slot wave ord rest

def modCache (s : State) (u : Nat) (f : Cache → Cache) : State := s.modUnit u fun x => { x with cache := f x.cache }

/-- An access that waited for a line which the cache cannot take or may not keep: a read takes its word of the line, a store is
a masked write item (R115, R263, R264, R365). -/
def pastCache (s : State) (u line : Nat) (ws : List Word) (w : CacheWait) : State :=
  if w.store then s.sendItem u w.e w.slot w.wave w.num .wb w.va [(0, w.data)]
  else s.modElem u w.e fun z => z.finishLate w.late (ws.getD ((w.va - line) / 8) 0) none 0 s.clk.cyc

end State

/-- What a cache access needs to know. -/
structure CacheArg where
  va : Nat
  ef : Bool
  deriving DecidableEq, Repr

/-- A line is under way from the sweep (R263). -/
def Cache.filling? (c : Cache) (line : Nat) : Option Nat :=
  (c.waits.find? fun w => !w.direct && lineOf w.va == line).map CacheWait.item

/-- An access that misses waits for its line: the one fill item under way, or a new one (R263, R264). -/
def cacheMiss (s : State) (bt : Beat) (va : Nat) (w : CacheWait) : State :=
  let c := match s.unit? bt.u with
    | some x => x.cache
    | none => {}
  match c.filling? (lineOf va) with
  | some i => (s.modCache bt.u fun c => { c with waits := c.waits ++ [{ w with item := i, num := s.nextId }] }).bumpId
  | none =>
    let i := s.nextId
    let s := s.sendItem bt.u bt.e bt.slot (s.stamps bt) i .fill (lineOf va) []
    s.modCache bt.u fun c => { c with waits := c.waits ++ [{ w with item := i, num := i }] }

/-- A read of the windows (R116): the window that takes an address, one of four for each CB tile; a new one begins at
the address's line, in place of the least recently used (log 20). -/
def winFind (ws : List CbWin) (va : Nat) : Option Nat :=
  let good := fun (w : CbWin) => decide (w.base ≤ va) && decide (va < w.head + 65536)
  let i := ws.findIdx good
  if i < ws.length then some i else none

/-- The window that a new one takes the place of: of those no read waits for, the one used least recently; none where reads
wait for all of them. -/
def winVictim (ws : List CbWin) (waits : List CacheWait) : Option Nat :=
  let idle := (List.range ws.length).filter fun i => !waits.any fun k => k.direct && winFind ws k.va == some i
  let used := fun (i : Nat) => ((ws[i]?).map CbWin.used).getD 0
  idle.foldl (fun b k => match b with
    | none => some k
    | some j => if used k < used j then some k else b) none

/-- One beat of LDC in window mode: the word, a trap below the tail or at a word that could not be read, or a wait at the
head (R109, R116, R267, R383). -/
def windowRead (s : State) (bt : Beat) (c : Carry) (d : Dst) (va cap h : Nat) : Out :=
  match s.unit? bt.u with
  | none => .hold s c
  | some x =>
    let ws := x.cache.wins.getD 0 []
    let fresh : CbWin := { base := lineOf va, tail := lineOf va, head := lineOf va, lastRead := va, used := s.nextId }
    let at_ := match winFind ws va with
      | some i => some (ws, i)
      | none =>
        if ws.length < cap then some (ws ++ [fresh], ws.length)
        else (winVictim ws x.cache.waits).map fun j => (listUpd ws j fun _ => fresh, j)
    match at_ with
    | none => .hold s c
    | some (ws, i) =>
    let w := (ws[i]?).getD fresh
    let bad := w.bad.find? fun p => p.1 == va
    if va < w.tail then .trap (bt.raise s bt.poisonFlag) 0x23 bt.b va
    else if va < w.head ∧ bad.isSome then .trap (bt.raise s bt.poisonFlag) ((bad.map Prod.snd).getD 0x0D) bt.b va
    else
      let id := s.nextId
      let ws := listUpd ws i fun w => { w with lastRead := va, used := id }
      let s := (bt.raise s bt.poisonFlag).bumpId
      let s := s.modCache bt.u fun k => { k with wins := k.wins.set 0 ws }
      let s := bt.promise s d (vaTag bt) h id
      let s :=
        if va < w.head then
          bt.mod s fun y => y.finishLate id (w.data.getD (va / 8) 0) none 0 s.clk.cyc
        else
          s.modCache bt.u fun k =>
            { k with waits := k.waits ++ [{ item := 0, e := bt.e, slot := bt.slot, wave := s.stamps bt, store := false, va := va, late := id, direct := true, num := id }] }
      .go { s := s, c := c, need := bt.lateNeed d }

/-- Distance to the CB tile that holds a superblock. -/
def cbHops (x : UnitSt) (e va : Nat) : Nat :=
  let ts := x.cfg.cbTiles
  x.hops e (ts.getD (sbOf va % max ts.length 1) 0)

/-- One beat of LDC (R263): hit, miss, or, with every way of the set pinned, a window item; a word of the cache that cannot be
corrected traps (R383). -/
def ldcBeat (a : Src) (d : Dst) (ef : Bool) (s : State) (bt : Beat) (c : Carry) : Out :=
  match s.unit? bt.u with
  | none => .hold s c
  | some x =>
    let va := vaOf bt.a.bits (bt.step8 a)
    let t := x.cfg.cbTiles.length
    let h := 6 + cbHops x bt.e va
    if va % 8 ≠ 0 then .trap (bt.raise s bt.poisonFlag) 0x22 bt.b va
    else if t = 0 then .trap (bt.raise s bt.poisonFlag) 0x21 bt.b va
    else if x.cfg.window then windowRead s bt c d va (4 * t) h
    else
      match x.cache.filling? (lineOf va), x.cache.hit? va with
      | none, some w =>
        if Cache.badAt w va then .trap (bt.raise s bt.poisonFlag) 0x0D bt.b va
        else
        let s := (s.modCache bt.u fun k => k.touch va ef s.nextId).bumpId
        .go { s := bt.deliverLate s d (Cache.wordAt w va) (vaTag bt) 0 h, c := c, need := bt.lateNeed d }
      | under, _ =>
        let s := bt.raise s bt.poisonFlag
        let id := s.nextId
        let s := bt.promise s.bumpId d (vaTag bt) 0 id
        if under.isNone && x.cache.full t (sbOf va) then
          .go { s := s.sendItem bt.u bt.e bt.slot (s.stamps bt) id (.ldw id) va [], c := c, need := bt.lateNeed d }
        else
          .go { s := cacheMiss s bt va { item := 0, e := bt.e, slot := bt.slot, wave := s.stamps bt, store := false, va := va, ef := ef, late := id }
                c := c, need := bt.lateNeed d }

/-- LDC (R263). -/
def execLdc (t : Fin 64) (d : Dst) (a : Opd) (ef : Bool) (s : State) : Host.Outcome State Fault Refusal :=
  fire { t := t, a := a.src, pa := a.peek, beat := ldcBeat a.src d ef } s

/-- One beat of STC (R264). -/
def stcBeat (a : Src) (ef : Bool) (s : State) (bt : Beat) (c : Carry) : Out :=
  match s.unit? bt.u with
  | none => .hold s c
  | some x =>
    let va := vaOf bt.a.bits (bt.step8 a)
    let t := x.cfg.cbTiles.length
    let s := bt.raise s bt.poisonFlag
    if va % 8 ≠ 0 then .trap s 0x22 bt.b va
    else if t = 0 then .trap s 0x21 bt.b va
    else if x.cfg.window then .trap s 0x23 bt.b va
    else
      match x.cache.filling? (lineOf va), x.cache.hit? va with
      | none, some _ =>
        .go { s := (s.modCache bt.u fun k => k.storeWord va bt.bb.bits ef s.nextId).bumpId, c := c }
      | under, _ =>
        if under.isNone && x.cache.full t (sbOf va) then
          .go { s := s.sendItem bt.u bt.e bt.slot (s.stamps bt) s.nextId .wb va [(0, bt.bb.bits)], c := c }
        else
          .go { s := cacheMiss s bt va { item := 0, e := bt.e, slot := bt.slot, wave := s.stamps bt, store := true, va := va, data := bt.bb.bits, ef := ef }
                c := c }

/-- STC (R264). -/
def execStc (t : Fin 64) (_d : Fin 4) (a b : Opd) (ef : Bool) (s : State) : Host.Outcome State Fault Refusal :=
  fire { t := t, a := a.src, b := b.src, pa := a.peek, pb := b.peek, beat := stcBeat a.src ef } s

/-- CINV or CWB begins its tag walk of 128 cycles (R265, R267). -/
def walkBeat (wb : Bool) (s : State) (bt : Beat) (c : Carry) : Out :=
  let va := vaOf bt.a.bits 0
  let s := bt.raise s bt.poisonFlag
  if va % 8 ≠ 0 then .trap s 0x22 bt.b va
  else if (s.cfgOf bt.u).window then .trap s 0x23 bt.b va
  else
    let hi := va + max (bt.bb.bits.toNat % 2 ^ 40) 1
    let fin := s.clk.cyc + 128
    let w : CacheWalk := { e := bt.e, slot := bt.slot, wave := s.stamps bt, wb := wb, lo := va, hi := hi, fin := fin, num := s.nextId }
    let s := s.bumpId.modCache bt.u fun k => { k with walks := k.walks ++ [w] }
    .go { s := bt.mod s fun x => { x with walkEnd := fin }, c := c }

/-- CINV (R265). -/
def execCinv (t : Fin 64) (a b : Opd) (s : State) : Host.Outcome State Fault Refusal :=
  fire { t := t, a := a.src, b := b.src, pa := a.peek, pb := b.peek, beat := walkBeat false } s

/-- CWB (R265). -/
def execCwb (t : Fin 64) (a b : Opd) (s : State) : Host.Outcome State Fault Refusal :=
  fire { t := t, a := a.src, b := b.src, pa := a.peek, pb := b.peek, beat := walkBeat true } s

/-- Retention register `r` loaded with a range, or emptied: lines of the range are pinned again (R266). -/
def Cache.retain (c : Cache) (r base len : Nat) : Cache :=
  { c with
    ret := listUpd c.ret r fun _ => if len = 0 then none else some (base, len)
    unpin := c.unpin.filter fun l => !(decide (l < base + len) && decide (base < l + 64)) }

/-- One beat of CHOLD or CFREE (R266, R267). -/
def retainBeat (len : Beat → Nat) (s : State) (bt : Beat) (c : Carry) : Out :=
  let va := vaOf bt.a.bits 0
  let r := bt.a.bits.toNat / 2 ^ 56 % 8
  let s := bt.raise s bt.poisonFlag
  if (s.cfgOf bt.u).window then .trap s 0x23 bt.b va
  else .go { s := s.modCache bt.u fun k => k.retain r va (len bt), c := c }

/-- CHOLD (R266). -/
def execChold (t : Fin 64) (a b : Opd) (s : State) : Host.Outcome State Fault Refusal :=
  fire { t := t, a := a.src, b := b.src, pa := a.peek, pb := b.peek
         beat := retainBeat fun bt => bt.bb.bits.toNat % 2 ^ 40 } s

/-- CFREE (R266). -/
def execCfree (t : Fin 64) (a : Opd) (s : State) : Host.Outcome State Fault Refusal :=
  fire { t := t, a := a.src, pa := a.peek, beat := retainBeat fun _ => 0 } s

/-- One beat of LDW (R268). -/
def ldwBeat (a : Src) (d : Dst) (s : State) (bt : Beat) (c : Carry) : Out :=
  let va := vaOf bt.a.bits (bt.step8 a)
  let s := bt.raise s bt.poisonFlag
  if va % 8 ≠ 0 then .trap s 0x22 bt.b va
  else
    let id := s.nextId
    let s := bt.promise s.bumpId d (vaTag bt) 0 id
    .go { s := s.sendItem bt.u bt.e bt.slot (s.stamps bt) id (.ldw id) va [], c := c, need := bt.lateNeed d }

/-- LDW (R268). -/
def execLdw (t : Fin 64) (d : Dst) (a : Opd) (s : State) : Host.Outcome State Fault Refusal :=
  fire { t := t, a := a.src, pa := a.peek, beat := ldwBeat a.src d } s

end Sys2Proof.Machine
end

