-- ==== Sys2Proof/Machine/Engine.lean ====
section
/-! DEFINITION. Class 5: riders and engine packets, operand slots, the tile count (R249, R252, R270-R285, R405). -/

namespace Sys2Proof.Machine

/-! ## Pairs and quads (R252) -/

/-- Register `n + i`, of eight. -/
def reg8 (n : Fin 8) (i : Nat) : Fin 8 := Fin.ofNat 8 (n.val + i)

/-- `k` registers from a source upward; zero words for any other source (R252). -/
def regRun (k : Nat) (a : Src) (x : Elem) : List Word :=
  (List.range k).map fun i => match a with
    | .g n => (x.g[reg8 n i]).val
    | .take n => (x.g[reg8 n i]).val
    | .k n => x.k[reg8 n i]
    | _ => 0

/-- The second register of a taken pair. -/
def pairTakes (a : Src) : List (Fin 8) :=
  match a with
  | .take n => [reg8 n 1]
  | _ => []

namespace State

/-- A packet joins its binding's queue under a fresh number (R270). -/
def sendPacket (s : State) (u n : Nat) (p : Packet) : State :=
  let id := s.nextId
  (s.modUnit u fun x =>
    let b := x.bindSt n
    x.setBind n { b with packets := b.packets ++ [{ p with id := id }], open_ := b.open_ ++ [id] }).bumpId

/-- What is sent through a binding and completes later is counted there (R72, R284). -/
def openSent (s : State) (u n id : Nat) : State :=
  s.modUnit u fun x => let b := x.bindSt n; x.setBind n { b with open_ := b.open_ ++ [id] }

end State

/-- A binding the section has not bound (R167, R270). -/
def SecCfg.unbound (c : SecCfg) (n : Nat) : Bool := (c.bindCfg n).kind == .unbound

/-- The kind's code in w0[59:56] (R85). -/
def RKind.code : RKind → Nat
  | .rd => 0
  | .fl => 1
  | .red => 2
  | .upd => 3
  | .gat => 4
  | .sca => 5
  | .lut => 6
  | .tblb => 15

/-- The kind and op deliver data: RD op 0, FL, RED, GAT, LUT (R86, R270). -/
def RKind.delivers (k : RKind) (op : Nat) : Bool :=
  match k with
  | .rd => op == 0
  | .fl => true
  | .red => true
  | .gat => true
  | .lut => true
  | _ => false

/-- The first word with the opcode's kind in it (R270). -/
def withKind (w0 : Word) (k : RKind) : Word :=
  (w0 &&& ~~~(0x0F00000000000000 : Word)) ||| BitVec.ofNat 64 (k.code * 2 ^ 56)

/-- A carriage of the binding has not had its end-of-stream, boarded or not (R271). -/
def carriageOpen (s : State) (b : BindSt) : Bool :=
  (match b.carriage with
   | some id => match s.sweep.riders.get? id with
     | some r => !r.closed
     | none => false
   | none => false) ||
  b.packets.any fun p => !p.tblb && (p.w0.toNat / 2 ^ 56 % 16 == 4 || p.w0.toNat / 2 ^ 56 % 16 == 5)

/-- A BRD of kind `k` may send through binding `n` (R270, R271). -/
def brdFree (s : State) (u n : Nat) (k : RKind) : Bool :=
  match s.unit? u with
  | none => false
  | some x =>
    let b := x.bindSt n
    decide (b.packets.length < 16) && !((k == .gat || k == .sca) && carriageOpen s b)

/-- One beat of a BRD (R270, R271). -/
def brdBeat (k : RKind) (n : Fin 32) (s : State) (bt : Beat) (c : Carry) : Out :=
  let w0 := withKind (bt.cap.words.getD 0 0) k
  let w1 := bt.cap.words.getD 1 0
  let cfg := s.cfgOf bt.u
  let op := w0.toNat / 2 ^ 60
  if !brdFree s bt.u n k then .hold s c
  else if cfg.unbound (w1.toNat / 2 ^ 32 % 32) || (k.delivers op && cfg.unbound (w1.toNat / 2 ^ 37 % 32)) then
    .trap s 0x24 bt.b 0
  else
    .go { s := s.sendPacket bt.u n { id := 0, e := bt.e, slot := bt.slot, tblb := false, w0 := w0, w1 := w1
                                     par := bt.cap.words.drop 2 }
          c := c }

/-- The plan of a BRD. -/
def brdPlan (k : RKind) (t : Fin 64) (n : Fin 32) (a b : Src) : Plan where
  t := t
  words := fun x => regRun 2 a x ++ regRun 4 b x
  takes := (a.take?).toList ++ pairTakes a
  beat := brdBeat k n

/-- BRD.RD (R270). -/
def execBrdRd (t : Fin 64) (n : Fin 32) (a b : Src) (s : State) : Host.Outcome State Fault Refusal :=
  fire (brdPlan .rd t n a b) s

/-- BRD.FL (R270). -/
def execBrdFl (t : Fin 64) (n : Fin 32) (a b : Src) (s : State) : Host.Outcome State Fault Refusal :=
  fire (brdPlan .fl t n a b) s

/-- BRD.RED (R270). -/
def execBrdRed (t : Fin 64) (n : Fin 32) (a b : Src) (s : State) : Host.Outcome State Fault Refusal :=
  fire (brdPlan .red t n a b) s

/-- BRD.UPD (R270). -/
def execBrdUpd (t : Fin 64) (n : Fin 32) (a b : Src) (s : State) : Host.Outcome State Fault Refusal :=
  fire (brdPlan .upd t n a b) s

/-- BRD.GAT (R270). -/
def execBrdGat (t : Fin 64) (n : Fin 32) (a b : Src) (s : State) : Host.Outcome State Fault Refusal :=
  fire (brdPlan .gat t n a b) s

/-- BRD.SCA (R270). -/
def execBrdSca (t : Fin 64) (n : Fin 32) (a b : Src) (s : State) : Host.Outcome State Fault Refusal :=
  fire (brdPlan .sca t n a b) s

/-- BRD.LUT (R270). -/
def execBrdLut (t : Fin 64) (n : Fin 32) (a b : Src) (s : State) : Host.Outcome State Fault Refusal :=
  fire (brdPlan .lut t n a b) s

/-! ## TBLB, RIDQ, RCAN (R272-R274) -/

/-- Requests of the element to a tile that are under way or set aside, from stamp=wave slots (R122). -/
def tileBusy (x : UnitSt) (e t : Nat) : Bool :=
  (x.reqs ++ State.asideOf x).any fun r => r.e == e && r.tile == t && r.stamp

/-- The tiles and words of `n` words from a tile address on, or the trap of the first that leads nowhere (R111, R113). -/
def SecCfg.wordsAt (c : SecCfg) (a n : Nat) : Except Nat (List (Nat × Nat)) :=
  (List.range n).mapM fun i => match c.access .ld a (8 * i) with
    | .at_ t w => .ok (t, w)
    | .bad cause => .error cause

/-- One beat of TBLB: the 2 KiB row, which lies in one tile or in one buffer, is read at firing and the datapath held for
256 cycles (R272). -/
def tblbBeat (n : Fin 32) (s : State) (bt : Beat) (c : Carry) : Out :=
  match s.unit? bt.u with
  | none => .hold s c
  | some x =>
    let a := bt.bb.bits.toNat % 2 ^ 32
    let s := bt.raise s bt.poisonFlag
    if 16 ≤ (x.bindSt n).packets.length then .hold s c
    else match x.cfg.wordsAt a 256 with
    | .error cause => .trap s cause bt.b a
    | .ok ps =>
      if (ps.map Prod.fst).eraseDups.any fun t => tileBusy x bt.e t then .hold s c
      else if ps.any fun p => (x.tile p.1).bad.contains p.2 then .trap s 0x0D bt.b a
      else
        let row := ps.map fun p => (x.tile p.1).word p.2
        .go { s := s.sendPacket bt.u n { id := 0, e := bt.e, slot := bt.slot, tblb := true
                                         w0 := bt.cap.words.getD 0 0, w1 := bt.cap.words.getD 1 0, par := [], row := row }
              c := c, cyc := 256 }

/-- TBLB (R272). -/
def execTblb (t : Fin 64) (n : Fin 32) (a b : Src) (s : State) : Host.Outcome State Fault Refusal :=
  fire { t := t, b := b, words := regRun 2 a, takes := (a.take?).toList ++ pairTakes a, beat := tblbBeat n } s

/-- RIDQ (R273): the answer comes at the next boundary of the class. -/
def execRidq (t : Fin 64) (_n : Fin 32) (a : Src) (s : State) : Host.Outcome State Fault Refusal :=
  fire { t := t, a := a
         beat := fun s bt c =>
           let v := bt.a.bits.toNat
           let s := bt.raise s bt.poisonFlag
           if v / 2 ^ 8 % 4 = 3 then .go { s := bt.raise s Flags.invalid, c := c }
           else
             let q : Ridq := { u := bt.u, bind := v % 32, tag := BitVec.ofNat 3 (v / 32), cls := v / 2 ^ 8 % 4 }
             .go { s := { s with sweep := { s.sweep with ridq := s.sweep.ridq ++ [q] } }, c := c } } s

/-- Every rider of the unit on binding `n` with done field `d` cancelled, packets not yet sent included (R274). -/
def rcan (s : State) (u n d : Nat) : State :=
  let s := s.cancelPackets u n fun p => !p.tblb && p.w1.toNat / 2 ^ 32 % 32 == d
  s.sweep.riders.foldl
    (fun t p => if p.2.u = u ∧ p.2.bind = n ∧ p.2.doneB = d ∧ p.2.kind ≠ .tblb then t.cancelRider p.1 else t) s

/-- RCAN (R274). -/
def execRcan (t : Fin 64) (n : Fin 32) (a : Src) (s : State) : Host.Outcome State Fault Refusal :=
  fire { t := t, a := a
         beat := fun s bt c =>
           .go { s := rcan (bt.raise s bt.poisonFlag) bt.u n.val (bt.a.bits.toNat % 32), c := c } } s

/-! ## Operand slots (R118, R275-R277) -/

/-- A slot of a quarter. -/
def State.slotOf (s : State) (q n : Nat) : OpSlot := s.slots.getD (512 * q + n) {}

def State.setSlot (s : State) (q n : Nat) (x : OpSlot) : State := { s with slots := s.slots.put (512 * q + n) x {} }

/-- Free: no job holds it and it is not being zeroed. -/
def OpSlot.free (x : OpSlot) : Bool := x.job.isNone && x.zeroAt.isNone

/-- The quarter of a section's operand memory: that of its north-west block (R95, R119). -/
def UnitSt.nwQuarter (u : UnitSt) : Nat := u.nw / 64

/-- A copy descriptor names slot `n` of quarter `q` (R279). -/
def namesSlot (w : Word) (n : Nat) : Bool := w.toNat / 2 ^ 60 == 1 && w.toNat % 512 == n

/-- A delivery or a copy aimed at the slot has not completed (R276). -/
def slotBusy (s : State) (q n : Nat) : Bool :=
  (s.copies.toList.any fun e => e.copies.any fun p =>
    (match s.unit? p.2.u with
     | some x => x.nwQuarter == q
     | none => false) && (namesSlot p.2.dst n || namesSlot p.2.src n)) ||
  (s.sweep.riders.any fun p =>
    p.2.kind == .rd && p.2.op == 2 && (p.2.par.getD 0 0).toNat % 512 == n &&
    (match s.unit? p.2.u with
     | some x => x.nwQuarter == q
     | none => false)) ||
  s.units.any fun p => p.2.nwQuarter == q && p.2.bind.any fun b => b.2.packets.any fun k =>
    !k.tblb && k.w0.toNat / 2 ^ 56 % 16 == 0 && k.w0.toNat / 2 ^ 60 == 2 && (k.par.getD 0 0).toNat % 512 == n

/-- A released slot that nothing is aimed at any more begins to be zeroed, for 1,024 cycles (R118, R276). -/
def startZero (s : State) (q n : Nat) : State :=
  let x := s.slotOf q n
  if x.release && !slotBusy s q n then
    s.setSlot q n { x with job := none, release := false, zeroAt := some (s.clk.cyc + 1024) }
  else s

/-- Every released slot looked at again. -/
def startZeros (s : State) : State :=
  (s.slots.filter fun p => p.2.release).foldl (fun t p => startZero t (p.1 / 512) (p.1 % 512)) s

/-- A slot given to the job of the unit, and which element it was given to (R118, R404). -/
def State.claimSlot (s : State) (x : UnitSt) (e n : Nat) : State :=
  let q := x.quarterOf e
  { s.setSlot q n { s.slotOf q n with job := some x.job } with claimed := s.claimed.set q (s.clk.cyc, x.devElem e) }

/-- CLAIM (R275): the lowest free slot of the element's quarter. -/
def execClaim (t : Fin 64) (d : Dst) (s : State) : Host.Outcome State Fault Refusal :=
  fire { t := t
         beat := fun s bt c =>
           match s.unit? bt.u with
           | none => .hold s c
           | some x =>
             let q := x.quarterOf bt.e
             match (List.range 512).find? fun n => (s.slotOf q n).free with
             | some n =>
               .go { s := bt.deliverLate (s.claimSlot x bt.e n) d (BitVec.ofNat 64 n) bt.T 0 4, c := c, need := bt.lateNeed d }
             | none => .go { s := bt.deliverLate s d 0x8000000000000000 bt.T 0 4, c := c, need := bt.lateNeed d } } s

/-- RLSE (R276). -/
def execRlse (t : Fin 64) (a : Src) (s : State) : Host.Outcome State Fault Refusal :=
  fire { t := t, a := a
         beat := fun s bt c =>
           match s.unit? bt.u with
           | none => .hold s c
           | some x =>
             let q := x.quarterOf bt.e
             let n := bt.a.bits.toNat % 512
             let s := bt.raise s bt.poisonFlag
             if (s.slotOf q n).job = some x.job then
               .go { s := startZero (s.setSlot q n { s.slotOf q n with release := true }) q n, c := c }
             else .go { s := bt.raise s Flags.invalid, c := c } } s

/-- The state of a slot as a job sees it (R277). -/
def slotState (x : OpSlot) (job : Nat) : Nat :=
  match x.job with
  | some j => if j = job then 2 else 3
  | none => if x.zeroAt.isSome then 1 else 0

/-- SLQ (R277). -/
def execSlq (t : Fin 64) (d : Dst) (a : Src) (s : State) : Host.Outcome State Fault Refusal :=
  fire { t := t, a := a
         beat := fun s bt c =>
           match s.unit? bt.u with
           | none => .hold s c
           | some x =>
             let q := x.quarterOf bt.e
             let free := ((List.range 512).filter fun n => (s.slotOf q n).free).length
             let v := BitVec.ofNat 64 (slotState (s.slotOf q (bt.a.bits.toNat % 512)) x.job + 2 ^ 16 * free)
             .go { s := bt.deliverLate s d v bt.T 0 4, c := c, need := bt.lateNeed d } } s

/-! ## CPY, COLL (R279, R280, R405, R406) -/

/-- The slot a descriptor names is held by a job of another tenant (R405). -/
def guardedSlot (s : State) (q tenant : Nat) (w : Word) : Bool :=
  w.toNat / 2 ^ 60 == 1 &&
  match (s.slotOf q (w.toNat % 512)).job with
  | some j => match s.job j with
    | some x => x.tenant != tenant
    | none => false
  | none => false

/-- A guard's drop: counted, charged to the sender's ingress budget, and reported to the sending job (R321, R343, R406). -/
def guardDrop (s : State) (u e slot : Nat) (desc : Word) : State :=
  match s.unit? u with
  | none => s
  | some x =>
    let s := (s.modUnit u fun y => { y with drops := y.drops + 1 }).charge x.tenant 1 1
    s.putFault { State.elemRec x e slot with kind := 2, agent := 6, cause := 0x29, va := desc.toNat }

/-- One beat of CPY through binding `n` (R279, R405). -/
def cpyBeat (n : Fin 32) (s : State) (bt : Beat) (c : Carry) : Out :=
  match s.unit? bt.u with
  | none => .hold s c
  | some x =>
    let src := bt.cap.words.getD 0 0
    let dst := bt.cap.words.getD 1 0
    let b := bt.bb.bits.toNat
    let s := bt.raise s bt.poisonFlag
    let id := s.nextId
    let s := s.bumpId.openSent bt.u n id
    let q := x.nwQuarter
    let doneB := b / 2 ^ 24 % 32
    let bad := if guardedSlot s q x.tenant src then some src
               else if guardedSlot s q x.tenant dst then some dst else none
    match bad with
    | some w =>
      let s := guardDrop s bt.u bt.e bt.slot w
      let g : GuardPoison := { u := bt.u, e := bt.e, bind := n.val, doneB := doneB, num := id, due := s.clk.cyc + 16 }
      .go { s := { s with guards := s.guards.set id g }, c := c }
    | none =>
      let k : Copy := { u := bt.u, e := bt.e, slot := bt.slot, bind := n, tenant := x.tenant, job := x.job
                        secure := x.secure, src := src, dst := dst, len := b % 2 ^ 24, doneB := doneB
                        tag := BitVec.ofNat 3 (b / 2 ^ 29) }
      let f := Fin.ofNat 4 q
      let e := s.copies[f]
      .go { s := { s with copies := s.copies.set f { e with copies := e.copies.set id k } }, c := c }

/-- CPY (R279). -/
def execCpy (t : Fin 64) (n : Fin 32) (a b : Src) (s : State) : Host.Outcome State Fault Refusal :=
  fire { t := t, b := b, words := regRun 2 a, takes := (a.take?).toList ++ pairTakes a, beat := cpyBeat n } s

/-- What waits for the scale-out budget of the sender's tenant waits at the binding (R339). -/
def farReady (s : State) (tenant : Nat) : Bool := s.inBudget tenant 3 || s.noBudget tenant 3

/-- One beat of COLL through binding `n` (R280): what leaves the package is charged; a limit of zero refuses it. -/
def collBeat (n : Fin 32) (s : State) (bt : Beat) (c : Carry) : Out :=
  match s.unit? bt.u with
  | none => .hold s c
  | some x =>
    let w0 := bt.cap.words.getD 0 0
    let w1 := bt.cap.words.getD 1 0
    let s := bt.raise s bt.poisonFlag
    if !farReady s x.tenant then .hold s c
    else
      let id := s.nextId
      let s := s.bumpId.openSent bt.u n id
      let tag : BitVec 3 := BitVec.ofNat 3 (w0.toNat / 2 ^ 21)
      if s.noBudget x.tenant 3 then
        .go { s := s.complete bt.u n id (w0.toNat / 2 ^ 16 % 32) (State.compTok 2 0 0x12 0 0 tag), c := c }
      else
        let size := if w0.toNat / 2 ^ 4 % 16 = 1 then 8 else if w0.toNat / 2 ^ 4 % 16 = 3 then 2 else 4
        let s := s.charge x.tenant 3 (kibOf (w0.toNat / 2 ^ 32 % 2 ^ 24 * size))
        let k : Coll := { u := bt.u, e := bt.e, slot := bt.slot, bind := n, w0 := w0, w1 := w1
                          root := bt.bb.bits.toNat % 1024, sentAt := s.clk.cyc }
        .go { s := { s with colls := s.colls.set id k }, c := c }

/-- COLL (R280). -/
def execColl (t : Fin 64) (n : Fin 32) (a b : Src) (s : State) : Host.Outcome State Fault Refusal :=
  fire { t := t, b := b, words := regRun 2 a, takes := (a.take?).toList ++ pairTakes a, beat := collBeat n } s

/-! ## PORT, WREM, SNDM, DRN, CNTI (R281-R285) -/

/-- Free places of a binding's input queue, tokens on their way to it counted (R414). -/
def UnitSt.portRoom (u : UnitSt) (n : Nat) : Nat :=
  let flying := (List.range u.cfg.routes.length).foldl
    (fun k i => match u.cfg.routes[i]? with
      | some r => if r.dst = .port n then k + (u.route i).toks.length else k
      | none => k) 0
  16 - ((u.bindSt n).inq.length + flying)

/-- An addition to an event counter of a job, modulo 2^64 (R77, R281, R329). -/
def State.addCounter (s : State) (j i : Nat) (v : Word) : State :=
  s.modJob j fun x => { x with counters := x.counters.put (i % 64) (x.counters.getD (i % 64) 0 + v) 0 }

/-- A token reaches the engine behind binding `n` (R174, R191, R271, R281, R414): drain is consumed, a configuration
token with a bad coordinate becomes poison; the host port and the sequencer take it at once, the other engines from
the binding's input queue. -/
def portTake (s : State) (u n : Nat) (k : Token) : State :=
  match s.unit? u with
  | none => s
  | some x =>
    let k := if k.isConfig && k.coord.toNat / 8 != 0 then Token.poison 0x30 k.coord else k
    if k.isDrain then s
    else match (x.cfg.bindCfg n).kind with
      | .host => s.modJob x.job fun j => { j with recv := j.recv ++ [(x.section_, x.replica, n, k)] }
      | .seq => if k.isData then s.addCounter x.job (k.coord.toNat % 64) k.payload else s
      | _ => s.setUnit u (x.setBind n { x.bindSt n with inq := (x.bindSt n).inq ++ [k] })

/-- The request that an element has just sent into the queue of a slot binding, under a fresh number (R134, R282). -/
def State.ownRequest (s : State) (u e n : Nat) (wave : Bool) : State :=
  if ((s.cfgOf u).bindCfg n).kind = .slot then
    (s.modUnit u fun x =>
      let b := x.bindSt n
      x.setBind n { b with own := b.own ++ [{ e := e, num := s.nextId, wave := wave, place := b.inq.length }] }).bumpId
  else s

/-- The request at the head of the queue is taken: those behind it move up. -/
def BindSt.ownNext (b : BindSt) : BindSt :=
  { b with own := (b.own.filter fun o => decide (1 < o.place)).map fun o => { o with place := o.place - 1 } }

/-- PORT (R281, R414). -/
def execPort (t : Fin 64) (n : Fin 32) (a : Opd) (s : State) : Host.Outcome State Fault Refusal :=
  fire { t := t, a := a.src, pa := a.peek
         beat := fun s bt c =>
           match s.unit? bt.u with
           | none => .hold s c
           | some x =>
             let k := bt.fwd bt.a
             if k.isDrain then .go { s := s, c := c }
             else if x.portRoom n = 0 then .hold s c
             else .go { s := (portTake s bt.u n k).ownRequest bt.u bt.e n (s.stamps bt), c := c } } s

/-- A window of the sending tenant (R393). -/
def State.windowOf (s : State) (tenant w : Nat) : Word := s.windows.getD (64 * tenant + w) 0

/-- The package of a window entry (R393). -/
def farPackage (entry : Word) : Nat := entry.toNat / 2 % 1024

/-- The report of a WREM that is not performed, and invalid in its element, which keeps to which package it was (R282,
R394). -/
def wremFail (s : State) (r : Remote) (cause : Nat) : State :=
  match s.unit? r.u with
  | none => s
  | some x =>
    let s := s.putFault { State.elemRec x r.e r.slot with kind := 2, agent := 4, cause := cause, item := r.beat
                                                          va := r.addr, flags := Flags.invalid.toNat }
    (s.raise r.u r.e Flags.invalid).modElem r.u r.e fun y =>
      { y with farFailed := if y.farFailed.contains (farPackage r.entry) then y.farFailed else y.farFailed ++ [farPackage r.entry] }

/-- Earlier WREMs of an element to the package of a window, not yet acknowledged (R394). -/
def earlierFar (s : State) (u e : Nat) (entry : Word) : List Nat :=
  (s.remotes.filter fun p => p.2.u == u && p.2.e == e && !p.2.message && farPackage p.2.entry == farPackage entry).map Prod.fst

/-- What an element has under way to other packages, but for WREMs to the package of a window (R122). -/
def farBefore (s : State) (u e : Nat) (entry : Word) : List Remote :=
  (s.remotes.filter fun p => p.2.u == u && p.2.e == e && (p.2.message || farPackage p.2.entry != farPackage entry)).map Prod.snd

/-- One beat of WREM through binding `n` (R282, R393, R394): a .full write is refused once an earlier WREM of the element to its
package has been refused or has failed. -/
def wremBeat (n : Fin 32) (a : Src) (full : Bool) (s : State) (bt : Beat) (c : Carry) : Out :=
  match s.unit? bt.u with
  | none => .hold s c
  | some x =>
    let v := bt.a.bits.toNat
    let off := bt.step8 a
    let low := v % 2 ^ 32
    let k := if low / 2 ^ 31 = 0 then 2 ^ 18 else 2 ^ 25
    let past := decide (k ≤ low % k + off)
    let addr := if past then low else low + off
    let entry := s.windowOf x.tenant (v / 2 ^ 32 % 64)
    let s := bt.raise s bt.poisonFlag
    if !farReady s x.tenant then .hold s c
    else
      let id := s.nextId
      let r : Remote := { u := bt.u, e := bt.e, slot := bt.slot, bind := n, message := false, full := full
                          window := v / 2 ^ 32 % 64, entry := entry, addr := addr
                          toks := [⟨0, 0, 0, bt.bb.bits⟩], doneB := 0, tag := 0, sentAt := s.clk.cyc
                          after := if full then earlierFar s bt.u bt.e entry else [], beat := bt.b, wave := s.stamps bt }
      if s.noBudget x.tenant 3 then .go { s := wremFail s.bumpId r 0x12, c := c }
      else if entry.toNat % 2 = 0 || (full && (s.elem bt.u bt.e).farFailed.contains (farPackage entry)) then
        .go { s := wremFail s.bumpId r 0x14, c := c }
      else if past then .go { s := wremFail s.bumpId r 0x05, c := c }
      else
        let s := (s.bumpId.charge x.tenant 3 1).openSent bt.u n id
        .go { s := { s with remotes := s.remotes.set id r }, c := c }

/-- WREM (R282). -/
def execWrem (t : Fin 64) (n : Fin 32) (a b : Opd) (full : Bool) (s : State) : Host.Outcome State Fault Refusal :=
  fire { t := t, a := a.src, b := b.src, pa := a.peek, pb := b.peek, beat := wremBeat n a.src full } s

/-- The whole burst at the head of a channel (R70, R283). -/
def Elem.headBurst (x : Elem) (c : Fin 4) : List Token :=
  match burstLen (x.visible c) with
  | some k => (x.visible c).take k
  | none => []

/-- SNDM (R283): a mark head alone at the head is a message of one token. -/
def sndmBeat (n : Fin 32) (a : Fin 4) (s : State) (bt : Beat) (c : Carry) : Out :=
  match s.unit? bt.u with
  | none => .hold s c
  | some x =>
    let el := s.elem bt.u bt.e
    let burst := el.headBurst a
    let b := bt.bb.bits.toNat
    let w := b / 2 ^ 32 % 64
    let entry := s.windowOf x.tenant w
    let tag : BitVec 3 := BitVec.ofNat 3 (b / 2 ^ 45)
    let doneB := b / 2 ^ 40 % 32
    if burst.isEmpty || !farReady s x.tenant then .hold s c
    else
      let s := bt.raise s bt.poisonFlag
      let s := bt.mod s fun y => burst.foldl (fun z _ => z.dequeue a) y
      let id := s.nextId
      let s := s.bumpId.openSent bt.u n id
      let cyc := max 1 burst.length
      if s.noBudget x.tenant 3 then
        .go { s := s.complete bt.u n id doneB (State.compTok 2 0 0x12 0 0 tag), c := c, cyc := cyc }
      else if entry.toNat % 2 = 0 then
        .go { s := s.complete bt.u n id doneB (State.compTok 2 0 0x14 0 0 tag), c := c, cyc := cyc }
      else
        let r : Remote := { u := bt.u, e := bt.e, slot := bt.slot, bind := n, message := true, full := false
                            window := w, entry := entry, addr := b % 2 ^ 32, toks := burst, doneB := doneB
                            tag := tag, sentAt := s.clk.cyc, wave := s.stamps bt }
        let s := s.charge x.tenant 3 (kibOf (16 * burst.length))
        .go { s := { s with remotes := s.remotes.set id r }, c := c, cyc := cyc }

/-- SNDM (R283). -/
def execSndm (t : Fin 64) (n : Fin 32) (a : Fin 4) (b : Src) (s : State) : Host.Outcome State Fault Refusal :=
  fire { t := t, a := .ch a, b := b, auto := false, beat := fun s bt c =>
           match b.chan? with
           | some ch =>
             if (s.elem bt.u bt.e).tokReady b then
               match sndmBeat n a s bt c with
               | .go d => .go { d with s := bt.mod d.s fun x => if ch = a then x else x.dequeue ch }
               | o => o
             else .hold s c
           | none => sndmBeat n a s bt c } s

/-- DRN (R284). -/
def execDrn (t : Fin 64) (n : Fin 32) (a : Src) (s : State) : Host.Outcome State Fault Refusal :=
  fire { t := t, a := a
         beat := fun s bt c =>
           let v := bt.a.bits.toNat
           .go { s := (bt.raise s bt.poisonFlag).modUnit bt.u fun x =>
                   let b := x.bindSt n
                   x.setBind n { b with drn := b.drn ++ [(v % 32, v / 32 % 8, b.open_)] }
                 c := c } } s

/-- One beat of CNTI: one off the count of a unit that keeps one and has not reached zero (R285). -/
def cntiBeat (s : State) (bt : Beat) (c : Carry) : Out :=
  .go { s := s.modUnit bt.u fun x => { x with count := x.count.map fun k => k - 1 }, c := c }

/-- CNTI (R285). -/
def execCnti (t : Fin 64) (s : State) : Host.Outcome State Fault Refusal := fire { t := t, beat := cntiBeat } s

end Sys2Proof.Machine
end

