-- ==== Sys2Proof/Machine/Geo.lean ====
section
/-! DEFINITION. Class 6: the exact geometric predicates with their three stages and symbolic perturbation
(R291-R305, R315, R316), and the coordinate streams (R306-R311). -/

namespace Sys2Proof.Machine

/-! ## Predicates and their orientations (R292, R294, R295) -/

namespace Pred

/-- Coordinates of a point (R292). -/
def dim : Pred → Nat
  | .ori3 => 3
  | .insp => 3
  | _ => 2

/-- Points of an instance (R292). -/
def points : Pred → Nat
  | .ori2 => 3
  | .ori3 => 4
  | .incr => 4
  | .insp => 5
  | .segx => 4

/-- Datapath cycles of stage A (R299). -/
def cyclesA : Pred → Nat
  | .ori2 => 3
  | .segx => 6
  | .ori3 => 10
  | .incr => 12
  | .insp => 40

/-- Stage B cycles of one orientation that escalates (R299). -/
def cyclesB : Pred → Nat
  | .ori2 => 40
  | .segx => 40
  | .ori3 => 80
  | .incr => 100
  | .insp => 160

/-- k of the stage A test (R296). -/
def boundA : Pred → Int
  | .ori2 => 50
  | .segx => 50
  | .ori3 => 49
  | .incr => 48
  | .insp => 46

/-- The exponent of epsilon_B (R297). -/
def boundB : Pred → Int
  | .ori2 => 100
  | .segx => 100
  | .ori3 => 99
  | .incr => 98
  | .insp => 95

/-- The rows are lifted by the sum of squares (R294). -/
def lifted : Pred → Bool
  | .incr => true
  | .insp => true
  | _ => false

/-- The point lists whose determinants the predicate asks for, as places in the instance (R294, R295). -/
def orients : Pred → List (List Nat)
  | .ori2 => [[0, 1, 2]]
  | .ori3 => [[0, 1, 2, 3]]
  | .incr => [[0, 1, 2, 3]]
  | .insp => [[0, 1, 2, 3, 4]]
  | .segx => [[0, 1, 2], [0, 1, 3], [2, 3, 0], [2, 3, 1]]

end Pred

/-! ## Determinants by cofactors (R42, R296) -/

/-- Every entry of a list with the list without it, in order. -/
def dropEach {α : Type} : List α → List α → List (α × List α)
  | _, [] => []
  | pre, x :: post => (x, pre ++ post) :: dropEach (pre ++ [x]) post

/-- Columns of the rows without column `j`. -/
def minorOf {α : Type} (rows : List (List α)) (j : Nat) : List (List α) := rows.map fun r => listDel r j

/-- Expansion along the first row, recursively, minors in ascending column order: `add` of the terms, every odd term
through `alt` (R42, R296); `k` is the order. -/
def cofactor {α : Type} (mul add : α → α → α) (alt : α → α) (zero : α) : Nat → List (List α) → α
  | 0, _ => zero
  | 1, rows => ((rows.headD []).headD zero)
  | k + 2, rows =>
    let terms := (List.range (k + 2)).map fun j =>
      let t := mul ((rows.headD []).getD j zero) (cofactor mul add alt zero (k + 1) (minorOf rows.tail j))
      if j % 2 = 1 then alt t else t
    match terms with
    | [] => zero
    | t :: ts => ts.foldl add t

/-- The order of the matrix (R294): one row for every point but the last. -/
def orderOf (pts : List (List Dy)) : Nat := pts.length - 1

/-- The rows t_p = p - last, exact (R294). -/
def exactRows (pts : List (List Dy)) : List (List Dy) :=
  let l := pts.getLastD []
  (pts.dropLast).map fun p => List.zipWith Dy.sub p l

/-! ## Stage A (R296) -/

/-- A real rounded to FP64, subnormals kept; none is an infinity. -/
def toFp64 (mode : RMode) (x : Dy) : Option Dy :=
  match FFmt.fp64.decode false (FFmt.fp64.roundDy false mode 0 false x).bits with
  | .fin n m e => some (FVal.fin n m e).dy
  | _ => none

/-- An FP64 operation on values of which none is an infinity or a NaN; any other result compares false. -/
def op64 (mode : RMode) (f : Dy → Dy → Dy) (x y : Option Dy) : Option Dy :=
  match x, y with
  | some a, some b => toFp64 mode (f a b)
  | _, _ => none

/-- w: the sum of the squares in j order (R296). -/
def lift64 (mode : RMode) (r : List (Option Dy)) : Option Dy :=
  match r.map fun x => op64 mode Dy.mul x x with
  | [] => some Dy.zero
  | t :: ts => ts.foldl (op64 mode Dy.add) t

/-- The rounded entries t~ of each row. -/
def heads (pts : List (List Dy)) : List (List (Option Dy)) := (exactRows pts).map fun r => r.map (toFp64 .rne)

/-- D~ (R296). -/
def detA (lifted : Bool) (pts : List (List Dy)) : Option Dy :=
  let rows := (heads pts).map fun r => if lifted then r ++ [lift64 .rne r] else r
  cofactor (op64 .rne Dy.mul) (op64 .rne Dy.add) (Option.map Dy.neg) (some Dy.zero) (orderOf pts) rows

/-- P~: magnitudes, every step rounded up, all terms added (R296). -/
def permA (lifted : Bool) (pts : List (List Dy)) : Option Dy :=
  let rows := (heads pts).map fun r =>
    let r := r.map (Option.map Dy.abs)
    if lifted then r ++ [lift64 .rup r] else r
  cofactor (op64 .rup Dy.mul) (op64 .rup Dy.add) id (some Dy.zero) (orderOf pts) rows

/-- The sign of a real. -/
def Dy.sign (x : Dy) : Int := x.m.sign

/-- P~ is finite and at least 2^-900. -/
def bigEnough (p : Option Dy) : Bool :=
  match p with
  | some p => Dy.le ⟨1, -900⟩ p
  | none => false

/-- |d| > 2^-k * P~ (R296, R297). -/
def beyond (d : Dy) (k : Int) (p : Option Dy) : Bool :=
  match p with
  | some p => Dy.lt ⟨p.m, p.e - k⟩ d.abs
  | none => false

/-- Stage A: the sign it certifies (R296). -/
def stageA (lifted : Bool) (k : Int) (pts : List (List Dy)) : Option Int :=
  let p := permA lifted pts
  match detA lifted pts with
  | some d => if bigEnough p && beyond d k p then some d.sign else none
  | none => none

/-! ## Stage B (R297) -/

/-- round106: 106 significant bits, RNE, no exponent limit. -/
def round106 (x : Dy) : Dy := sigw 106 x

/-- A product of pairs; what has two tails is dropped. -/
def pairMul (x y : Dy × Dy) : Dy × Dy :=
  (round106 (x.1.mul y.1), round106 ((round106 (x.1.mul y.2)).add (round106 (x.2.mul y.1))))

/-- A sum of pairs. -/
def pairAdd (x y : Dy × Dy) : Dy × Dy := (round106 (x.1.add y.1), round106 (x.2.add y.2))

/-- A negated pair. -/
def pairNeg (x : Dy × Dy) : Dy × Dy := (x.1.neg, x.2.neg)

/-- The lifted entry as a pair (R297). -/
def pairLift (r : List (Dy × Dy)) : Dy × Dy :=
  let add106 := fun (l : List Dy) => match l with
    | [] => Dy.zero
    | t :: ts => ts.foldl (fun a b => round106 (a.add b)) t
  (add106 (r.map fun p => round106 (p.1.mul p.1)),
   add106 (r.map fun p => round106 ((Dy.mul ⟨2, 0⟩ p.1).mul p.2)))

/-- The rows of pairs (head, tail), none where a head is no finite number. -/
def pairRows (pts : List (List Dy)) : Option (List (List (Dy × Dy))) :=
  (List.zip (exactRows pts) (heads pts)).mapM fun (t, h) =>
    (List.zip t h).mapM fun (x, y) => y.map fun y => (y, x.sub y)

/-- Stage B: the sign it certifies; `zero` says that it may certify 0 (R297). -/
def stageB (lifted zero : Bool) (eps : Int) (pts : List (List Dy)) : Option Int :=
  match pairRows pts with
  | none => none
  | some rows =>
    let full := rows.map fun r => if lifted then r ++ [pairLift r] else r
    let d := cofactor pairMul pairAdd pairNeg (Dy.zero, Dy.zero) (orderOf pts) full
    let db := round106 (d.1.add d.2)
    let p := permA lifted pts
    if bigEnough p && beyond db eps p then some db.sign
    else if zero && db.m == 0 && rows.all fun r => r.all fun q => q.2.m == 0 then some 0
    else none

/-! ## Stage C: the exact sign, and symbolic perturbation (R298, R300, R301) -/

/-- A polynomial in epsilon: coefficients by exponent, ascending. -/
abbrev Poly := List (Nat × Dy)

namespace Poly

/-- A term added. -/
def addTerm : Poly → Nat × Dy → Poly
  | [], t => [t]
  | (k, c) :: r, (n, d) =>
    if n < k then (n, d) :: (k, c) :: r
    else if n = k then (k, c.add d) :: r
    else (k, c) :: addTerm r (n, d)

def add (p q : Poly) : Poly := q.foldl addTerm p
def neg (p : Poly) : Poly := p.map fun t => (t.1, t.2.neg)
def mul (p q : Poly) : Poly := p.foldl (fun acc t => q.foldl (fun a u => addTerm a (t.1 + u.1, t.2.mul u.2)) acc) []

/-- The sign of the lowest coefficient that is not zero; 0 where all are. -/
def sign (p : Poly) : Int :=
  match p.find? fun t => t.2.m != 0 with
  | some t => t.2.sign
  | none => 0

end Poly

/-- The rank of place `i`: points by ascending index, equal ones by place (R300). -/
def rankOf (idx : List (BitVec 32)) (i : Nat) : Nat :=
  let x := (idx.getD i 0).toNat
  ((List.range idx.length).filter fun j =>
    let y := (idx.getD j 0).toNat
    decide (y < x) || (y == x && decide (j < i))).length

/-- The coordinates of a point of rank `r` as polynomials: perturbed by epsilon^(4^(r d + j)) (R300). -/
def perturb (sym : Bool) (r : Nat) (p : List Dy) : List Poly :=
  (List.range p.length).map fun j =>
    let c : Poly := [(0, p.getD j Dy.zero)]
    if sym then c ++ [(4 ^ (r * p.length + j), ⟨1, 0⟩)] else c

/-- D as a polynomial of the perturbation, D itself without one (R294, R300).  The rows stay in the order of the
instance, so the parity that R300 multiplies by is in it. -/
def detC (lifted sym : Bool) (pts : List (List Dy)) (idx : List (BitVec 32)) : Poly :=
  let ps := (List.range pts.length).map fun i => perturb sym (rankOf idx i) (pts.getD i [])
  let l := ps.getLastD []
  let rows := ps.dropLast.map fun p =>
    let t := List.zipWith (fun a b => Poly.add a (Poly.neg b)) p l
    if lifted then t ++ [t.foldl (fun a x => Poly.add a (Poly.mul x x)) []] else t
  cofactor Poly.mul Poly.add Poly.neg [] (orderOf pts) rows

/-- Stage C: the exact sign (R298, R300). -/
def stageC (lifted sym : Bool) (pts : List (List Dy)) (idx : List (BitVec 32)) : Int := (detC lifted sym pts idx).sign

/-! ## An instance decided (R295, R297, R301) -/

/-- The stages an instance may have run. -/
inductive Upto where
  | a
  | b
  | c
  deriving DecidableEq, Repr

/-- One orientation with the stage that decides it, if one of those run does. -/
def orient (p : Pred) (sym : Bool) (up : Upto) (pts : List (List Dy)) (idx : List (BitVec 32)) : Option (Int × Nat) :=
  match stageA p.lifted p.boundA pts with
  | some v => some (v, 1)
  | none =>
    let zero := !sym && (p == .ori2 || p == .segx)
    let later := fun (_ : Unit) => stageB p.lifted zero p.boundB pts
    match up with
    | .a => none
    | .b => (later ()).map fun v => (v, 2)
    | .c => match later () with
      | some v => some (v, 2)
      | none => some (stageC p.lifted sym pts idx, 3)

/-- x before y along x, then y. -/
def lexLt (p q : List Dy) : Bool :=
  let px := p.getD 0 Dy.zero
  let qx := q.getD 0 Dy.zero
  px.lt qx || (px.eq qx && (p.getD 1 Dy.zero).lt (q.getD 1 Dy.zero))

/-- The least and the greatest of two points in that order. -/
def lexMin (p q : List Dy) : List Dy := if lexLt q p then q else p
def lexMax (p q : List Dy) : List Dy := if lexLt p q then q else p

/-- A point on the line of a segment lies in it. -/
def onSegment (a b c : List Dy) : Bool := !lexLt c (lexMin a b) && !lexLt (lexMax a b) c

/-- The class of two segments with the four signs known: the first that applies (R295). -/
def segClass (pts : List (List Dy)) (o : List Int) : Int :=
  let a := pts.getD 0 []
  let b := pts.getD 1 []
  let c := pts.getD 2 []
  let d := pts.getD 3 []
  let o1 := o.getD 0 0
  let o2 := o.getD 1 0
  let o3 := o.getD 2 0
  let o4 := o.getD 3 0
  let cross := decide (o1 * o2 < 0) && decide (o3 * o4 < 0)
  let meet := cross || (o1 == 0 && onSegment a b c) || (o2 == 0 && onSegment a b d) ||
    (o3 == 0 && onSegment c d a) || (o4 == 0 && onSegment c d b)
  if !meet then 0
  else if o1 == 0 && o2 == 0 && o3 == 0 && o4 == 0 then
    (if lexLt (lexMax (lexMin a b) (lexMin c d)) (lexMin (lexMax a b) (lexMax c d)) then 3 else 4)
  else if cross then 1
  else 2

/-- The value of an instance and the highest stage any orientation needs, if the stages run decide it; an S variant
of SEGX has no orientation that is zero (R295, R301). -/
def decideInst (p : Pred) (sym : Bool) (up : Upto) (pts : List (List Dy × BitVec 32)) : Option (Int × Nat) :=
  match p.orients.mapM fun l =>
    let q := l.map fun i => pts.getD i ([], 0)
    orient p sym up (q.map Prod.fst) (q.map Prod.snd) with
  | none => none
  | some rs =>
    let signs := rs.map Prod.fst
    let stage := (rs.map Prod.snd).foldl max 0
    some (if p = .segx then segClass (pts.map Prod.fst) signs else signs.headD 0, stage)

/-- Orientations that stage A leaves undecided. -/
def escalated (p : Pred) (pts : List (List Dy × BitVec 32)) : Nat :=
  (p.orients.filter fun l =>
    let q := l.map fun i => pts.getD i ([], 0)
    (stageA p.lifted p.boundA (q.map Prod.fst)).isNone).length

/-- The SIGN byte (R31). -/
def signByte (v : Int) (stg : Bool) (stage : Nat) : Nat := toBitsN 8 (4 * v + if stg then stage else 0)

/-- The result token, and invalid where SIGN has no twin tag (R215, R304). -/
def signTok (pal : Word) (T : BitVec 3) (coord : BitVec 32) (byte : Nat) : Token × Flags :=
  match twinTag pal .sign with
  | some tw => (⟨0, tw, coord, BitVec.ofNat 64 byte⟩, 0)
  | none => (⟨0, T, coord, 0⟩, Flags.invalid)

/-- The token of an instance at a value and stage. -/
def GeoInst.token (g : GeoInst) (pal : Word) (r : Int × Nat) : Token × Flags :=
  signTok pal g.tag ((g.pts.headD ([], 0)).2) (signByte r.1 g.stg r.2)

/-! ## A firing of a predicate (R292, R293, R302, R303, R315) -/

/-- Points of an instance from its tokens' lane 0 values: the index of a point is its first token's coordinate
(R292). -/
def geoPoints (d : Nat) (toks : List Token) (vals : List Dy) (k : Nat) : List (List Dy × BitVec 32) :=
  (List.range k).map fun i =>
    ((List.range d).map fun j => vals.getD (i * d + j) Dy.zero,
     match toks[i * d]? with
     | some t => t.coord
     | none => 0)

/-- Lane 0 of a coordinate token, subnormals kept; none for a format other than FP64 and FP32 (R292, R303). -/
def coordVal (pal : Word) (t : Token) : Option FVal :=
  match palFmt pal t.tag.toNat with
  | some .fp64 => some (FFmt.fp64.decode false t.payload.toNat)
  | some .fp32 => some (FFmt.fp32.decode false (t.payload.toNat % 2 ^ 32))
  | _ => none

/-- A configuration token at the head of a channel (R61). -/
def Elem.configAt (x : Elem) (c : Fin 4) : Option Token :=
  match x.ins[c].q, x.ins[c].raw with
  | t :: _, _ => if t.isConfig then some t else none
  | [], t :: _ => if t.isConfig then some t else none
  | [], [] => none

/-- The tokens of an instance taken as far as they stand in the channel: what was taken, the element, and the mark
head other than poison that stands in the way (R293, R303). -/
def takeInst (c : Fin 4) : Nat → Elem → List Token → List Token × Elem × Option Token
  | 0, x, l => (l, x, none)
  | k + 1, x, l =>
    match (x.visible c).head? with
    | none => (l, x, x.configAt c)
    | some t => if t.isData || t.isPoison then takeInst c k (x.dequeue c) (l ++ [t]) else (l, x, some t)

/-- An entry added to the reorder window. -/
def Elem.window (x : Elem) (g : GeoInst) : Elem := { x with win := x.win ++ [g] }

/-- One instance of a predicate firing (R293, R302, R303, R304, R315). -/
def geoBeat (p : Pred) (sym : Bool) (d : ODst) (ch : Fin 4) (stg nfm : Bool) (s : State) (bt : Beat) (c : Carry) : Out :=
  let x := s.elem bt.u bt.e
  if c.n = 0 && decide (8 ≤ x.win.length) then .hold s c
  else
    let need := p.dim * p.points
    let r := takeInst ch (need - c.toks.length) x c.toks
    let toks := r.1
    let s1 := bt.mod s fun _ => r.2.1
    let start := max x.busy s.clk.cyc
    let first := match toks.head? with
      | some t => t.coord
      | none => 0
    let T := match toks.head? with
      | some t => t.tag
      | none => 0
    let done : Carry := { c with n := 0, toks := [] }
    let entry := fun (t : Token) (due : Nat) =>
      ({ pred := p, sym := sym, stg := stg, pts := [([], first)], dst := d, tag := T, stage := .known t, due := due } : GeoInst)
    match r.2.2 with
    | some _ =>
      .quit { s := bt.raise (bt.mod s1 fun y => y.window (entry (Token.poison 0x33 first) start)) Flags.invalid, c := done }
    | none =>
      if toks.length < need then .hold s1 { c with n := 1, toks := toks }
      else
        let fin := start + p.cyclesA
        let known := fun (t : Token) (fl : Flags) =>
          Out.go { s := bt.raise (bt.mod s1 fun y => y.window (entry t fin)) fl, c := done, cyc := p.cyclesA }
        match toks.find? Token.isPoison with
        | some t => known t Flags.invalid
        | none =>
          match toks.mapM (coordVal bt.pal) with
          | none => known (Token.poison 0x30 first) Flags.invalid
          | some vs =>
            if vs.any fun v => v.isInf || v.isNaN then
              if nfm then
                let k := signTok bt.pal T first 0x80
                known k.1 (k.2 ||| Flags.nfgeom)
              else .trap s1 0x25 bt.b 0
            else
              let pts := geoPoints p.dim toks (vs.map FVal.dy) p.points
              let g : GeoInst := { pred := p, sym := sym, stg := stg, pts := pts, dst := d, tag := T, stage := .inB, due := 0 }
              match decideInst p sym .a pts with
              | some v =>
                let k := g.token bt.pal v
                known k.1 k.2
              | none =>
                let out := max fin (max x.brickBusy x.sysBusy) + p.cyclesB * escalated p pts
                .go { s := bt.mod s1 fun y => { y.window { g with due := out } with brickBusy := out }, c := done, cyc := p.cyclesA }

/-- The plan of a predicate. -/
def geoPlan (p : Pred) (sym : Bool) (t : Fin 64) (d : ODst) (a : Fin 4) (stg nfm : Bool) : Plan where
  t := t
  a := .ch a
  auto := false
  beat := geoBeat p sym d a stg nfm

/-- ORI2 (R294). -/
def execOri2 (t : Fin 64) (d : ODst) (a : Fin 4) (stg nfm : Bool) (s : State) : Host.Outcome State Fault Refusal :=
  fire (geoPlan .ori2 false t d a stg nfm) s

/-- ORI2S (R300, R301). -/
def execOri2s (t : Fin 64) (d : ODst) (a : Fin 4) (stg nfm : Bool) (s : State) : Host.Outcome State Fault Refusal :=
  fire (geoPlan .ori2 true t d a stg nfm) s

/-- ORI3 (R294). -/
def execOri3 (t : Fin 64) (d : ODst) (a : Fin 4) (stg nfm : Bool) (s : State) : Host.Outcome State Fault Refusal :=
  fire (geoPlan .ori3 false t d a stg nfm) s

/-- ORI3S (R300, R301). -/
def execOri3s (t : Fin 64) (d : ODst) (a : Fin 4) (stg nfm : Bool) (s : State) : Host.Outcome State Fault Refusal :=
  fire (geoPlan .ori3 true t d a stg nfm) s

/-- INCR (R294). -/
def execIncr (t : Fin 64) (d : ODst) (a : Fin 4) (stg nfm : Bool) (s : State) : Host.Outcome State Fault Refusal :=
  fire (geoPlan .incr false t d a stg nfm) s

/-- INCRS (R300, R301). -/
def execIncrs (t : Fin 64) (d : ODst) (a : Fin 4) (stg nfm : Bool) (s : State) : Host.Outcome State Fault Refusal :=
  fire (geoPlan .incr true t d a stg nfm) s

/-- INSP (R294). -/
def execInsp (t : Fin 64) (d : ODst) (a : Fin 4) (stg nfm : Bool) (s : State) : Host.Outcome State Fault Refusal :=
  fire (geoPlan .insp false t d a stg nfm) s

/-- INSPS (R300, R301). -/
def execInsps (t : Fin 64) (d : ODst) (a : Fin 4) (stg nfm : Bool) (s : State) : Host.Outcome State Fault Refusal :=
  fire (geoPlan .insp true t d a stg nfm) s

/-- SEGX (R295). -/
def execSegx (t : Fin 64) (d : ODst) (a : Fin 4) (stg nfm : Bool) (s : State) : Host.Outcome State Fault Refusal :=
  fire (geoPlan .segx false t d a stg nfm) s

/-- SEGXS (R300, R301). -/
def execSegxs (t : Fin 64) (d : ODst) (a : Fin 4) (stg nfm : Bool) (s : State) : Host.Outcome State Fault Refusal :=
  fire (geoPlan .segx true t d a stg nfm) s

/-! ## Coordinate streams (R306-R311) -/

/-- The coordinate of an operand: of a data head its coordinate, of a mark head 2^32, of any other operand the low
32 bits (11_isa_geometry_sparse.md, "Coordinate streams"). -/
def OpVal.coord (o : OpVal) : Nat :=
  match o.tok with
  | some t => if t.isData then t.coord.toNat else 2 ^ 32
  | none => o.bits.toNat % 2 ^ 32

/-- A computed result whose token carries another coordinate. -/
def Beat.deliverAt (bt : Beat) (coord : Nat) (s : State) (d : Dst) (v : Word) (tag : BitVec 3) (fl : Flags) :
    State × List (Nat × Token) := { bt with cx := BitVec.ofNat 32 coord }.deliver s d v tag fl

/-- B aligned to the coordinate of A (R306). -/
def alignBits (b : Word) (ca cb : Nat) : Word :=
  if ca ≤ cb then (if 64 ≤ cb - ca then 0 else b <<< (cb - ca))
  else (if 64 ≤ ca - cb then 0 else b >>> (ca - cb))

/-- BAND (R306). -/
def execBand (t : Fin 64) (d : Dst) (a b : Opd) (s : State) : Host.Outcome State Fault Refusal :=
  fire { t := t, a := a.src, b := b.src, pa := a.peek, pb := b.peek
         beat := fun s bt c =>
           if bt.F = some .bitmap then
             let ca := bt.a.coord
             let cb := if b.src.chan?.isSome then bt.bb.coord else ca
             goSends c (bt.deliverAt ca s d (bt.a.inFmt .bitmap &&& alignBits (bt.bb.inFmt .bitmap) ca cb) bt.T
               bt.mismatchFlag)
           else zeroBeat d s bt c } s

/-- The lowest set bit of a bitmap at or above a position (R307). -/
def nextBit (w : Word) (s : Nat) : Option Nat := (List.range 64).find? fun j => decide (s ≤ j) && w.getLsbD j

/-- BPOS (R307). -/
def execBpos (t : Fin 64) (d : Dst) (a b : Opd) (s : State) : Host.Outcome State Fault Refusal :=
  fire { t := t, a := a.src, b := b.src, pa := a.peek, pb := b.peek
         beat := fun s bt c =>
           match twinTag bt.pal .int32 with
           | none => zeroBeat d s bt c
           | some tw =>
             let ca := bt.a.coord
             match nextBit (bt.a.inFmt .bitmap) (bt.bb.bits.toNat % 64) with
             | some j =>
               let n := (ca + j) % 2 ^ 32
               goSends c (bt.deliverAt n s d (BitVec.ofNat 64 (n + 2 ^ 32 * (j + 1))) tw 0)
             | none => goSends c (bt.deliverAt ca s d (BitVec.ofNat 64 (0xFFFFFFFF + 2 ^ 32 * 64)) tw 0) } s

/-- CCMP (R308). -/
def execCcmp (t : Fin 64) (d : Fin 8) (a b : Opd) (s : State) : Host.Outcome State Fault Refusal :=
  fire { t := t, a := a.src, b := b.src, pa := a.peek, pb := b.peek
         beat := fun s bt c => cmpBeat d (decide (bt.a.coord < bt.bb.coord), 0) s bt c } s

/-- CMRG: the data head with the smaller coordinate, A's on a tie, a mark head counting as 2^32; it waits while a channel
is empty and while neither head is data (R182, R309). -/
def execCmrg (t : Fin 64) (d : Dst) (a b : Fin 4) (s : State) : Host.Outcome State Fault Refusal :=
  fire { t := t, a := .ch a, b := .ch b, auto := false
         beat := fun s bt c =>
           if bt.a.tok.isNone || bt.bb.tok.isNone then .hold s c
           else if bt.a.isData && (!bt.bb.isData || decide (bt.a.coord ≤ bt.bb.coord)) then
             goSends c (bt.forward (bt.mod s fun x => x.dequeue a) d bt.a)
           else if bt.bb.isData then goSends c (bt.forward (bt.mod s fun x => x.dequeue b) d bt.bb)
           else .hold s c } s

/-- A forwarded operand whose data token carries another coordinate: a register takes payload and tag as before. -/
def Beat.forwardAt (bt : Beat) (coord : Nat) (s : State) (d : Dst) (o : OpVal) : State × List (Nat × Token) :=
  let k := bt.fwd o
  match d with
  | .out dd => (s, sendFwd (outsOf dd) (if k.isData then { k with coord := BitVec.ofNat 32 coord } else k))
  | _ => bt.forward s d o

/-- CSET (R310). -/
def execCset (t : Fin 64) (d : Dst) (a b : Opd) (s : State) : Host.Outcome State Fault Refusal :=
  fire { t := t, a := a.src, b := b.src, pa := a.peek, pb := b.peek
         beat := fun s bt c => goSends c (bt.forwardAt (bt.bb.bits.toNat % 2 ^ 32) s d bt.a) } s

/-- CGET (R310). -/
def execCget (t : Fin 64) (d : Dst) (a b : Opd) (s : State) : Host.Outcome State Fault Refusal :=
  fire { t := t, a := a.src, b := b.src, pa := a.peek, pb := b.peek
         beat := fun s bt c =>
           match twinTag bt.pal .coord with
           | none => zeroBeat d s bt c
           | some tw =>
             let k := bt.a.coord
             let w := bt.bb.bits.toNat % 2 ^ 32
             let row := if w = 0 then 0 else k / w
             let col := if w = 0 then k else k % w
             goSends c (bt.deliverAt k s d (ofLanes 32 [row % 2 ^ 32, col % 2 ^ 32]) tw 0) } s

/-- The output RTE takes for a data operand, its place among those named, and the token's coordinate (R311). -/
def rtePick (d : ODst) (k : Nat) (b : Word) : Option Nat × Nat :=
  let v := (k + 2 ^ 32 - b.toNat % 2 ^ 32) % 2 ^ 32
  ((outsOf d)[v / 2 ^ (b.toNat / 2 ^ 32 % 32)]?, v)

/-- RTE (R311). -/
def execRte (t : Fin 64) (d : ODst) (a b : Opd) (s : State) : Host.Outcome State Fault Refusal :=
  fire { t := t, a := a.src, b := b.src, pa := a.peek, pb := b.peek
         beat := fun s bt c =>
           let k := bt.fwd bt.a
           if k.isData then
             let r := rtePick d bt.a.coord bt.bb.bits
             match r.1 with
             | none => .go { s := bt.raise s Flags.invalid, c := c }
             | some o =>
               let k := if bt.bb.bits.getLsbD 37 then { k with coord := BitVec.ofNat 32 r.2 } else k
               goSends c (s, sendFwd [o] k)
           else goSends c (s, sendFwd (outsOf d) k) } s

end Sys2Proof.Machine
end

