-- ==== Sys2Proof/Machine/Place.lean ====
section
/-! DEFINITION. The section allocator, arming, and where a section's contents stand between its units (R61, R111,
R320, R337, R345, R346). -/

namespace Sys2Proof.Machine

/-- Fields of the thermal allowance of a quarter (R345). -/
def thermLimit (v : Word) : Nat := v.toNat / 2 ^ 12 % 256
def thermMargin (v : Word) : Nat := v.toNat / 2 ^ 20 % 16
def thermRotate (v : Word) : Bool := v.getLsbD 24
def thermPmax (v : Word) : Nat := v.toNat % 4096

/-- A rectangle of blocks: rows, columns, the block in its north-west corner. -/
structure Rect where
  nw : Nat
  rows : Nat
  cols : Nat
  deriving DecidableEq, Repr

/-- The block numbers of a rectangle, row by row (R14). -/
def Rect.blocks (r : Rect) : List Nat :=
  ((List.range r.rows).map fun i => (List.range r.cols).map fun j => blockAt (blockRow r.nw + i) (blockCol r.nw + j)).flatten

/-- The unit holds a placement. -/
def UnitSt.placed (u : UnitSt) : Bool := u.phase == .running || u.phase == .draining

/-- The rectangle a unit stands on. -/
def UnitSt.rect (u : UnitSt) : Rect := { nw := u.nw, rows := u.cfg.rows, cols := u.cfg.cols }

namespace State

/-- The temperature of a block (R345). -/
def temp (s : State) (b : Nat) : Nat := s.power.temp.getD b 0

/-- The temperature of the hottest block of some. -/
def hottest (s : State) (bs : List Nat) : Nat := (bs.map s.temp).foldl max 0

/-- The thermal allowance of a quarter. -/
def tha (s : State) (q : Nat) : Word := s.reg (0x0300 + q)

/-- The world of a block: secure (R320, R324). -/
def blockWorld (s : State) (b : Nat) : Bool := (s.reg (0x0400 + b / 64)).getLsbD (b % 64)

/-- The block is fenced (R385). -/
def blockLost (s : State) (b : Nat) : Bool := (s.reg (0x0520 + b / 64)).getLsbD (b % 64)

/-- A section occupies the block, or its freeze image is still being written (R374). -/
def occupied (s : State) (b : Nat) : Bool :=
  s.units.any fun p => (p.2.placed || p.2.imaging.isSome || p.2.readout.isSome) && p.2.rect.blocks.contains b

/-- The block is free for a section of a world, its temperature aside. -/
def blockFree (s : State) (secure : Bool) (b : Nat) : Bool :=
  !s.occupied b && (s.blockWorld b == secure) && !s.blockLost b

/-- The block is too hot for a new placement (R345). -/
def tooHot (s : State) (b : Nat) : Bool := decide (thermLimit (s.tha (b / 64)) ≤ s.temp b)

/-- The rectangles of a shape that the allocator may look at for a graph's quarter (R337). -/
def shapes (rows cols quarter : Nat) : List Rect :=
  let all := ((List.range 16).map fun r => (List.range 16).map fun c => (r, c)).flatten
  let fits := all.filter fun p => decide (p.1 + rows ≤ 16) && decide (p.2 + cols ≤ 16)
  let rects := fits.map fun p => ({ nw := blockAt p.1 p.2, rows := rows, cols := cols } : Rect)
  if rows ≤ 8 ∧ cols ≤ 8 then rects.filter fun r => r.blocks.all fun b => b / 64 == quarter
  else rects.filter fun r => r.blocks.any fun b => b / 64 == quarter

/-- The better of two rectangles: the cooler, then the lower number (R337). -/
def cooler (s : State) (a b : Rect) : Rect :=
  let x := s.hottest a.blocks
  let y := s.hottest b.blocks
  if y < x ∨ (y = x ∧ b.nw < a.nw) then b else a

/-- The rectangle the allocator takes (R337). -/
def findRect (s : State) (rows cols : Nat) (secure : Bool) (quarter : Nat) : Option Rect :=
  match (shapes rows cols quarter).filter fun r => r.blocks.all fun b => s.blockFree secure b && !s.tooHot b with
  | [] => none
  | r :: rs => some (rs.foldl s.cooler r)

/-- What is kept of a section between its units. -/
def resident? (s : State) (x : UnitSt) : Option Resident :=
  s.residents.find? fun r => r.job == x.job && r.section_ == x.section_ && r.replica == x.replica

/-- The placement of the section's last unit, where it still stands, is free, and lies where the unit's graph places it
(R337, R346). -/
def reuse? (s : State) (x : UnitSt) : Option Rect :=
  match s.resident? x with
  | some r => match r.nw with
    | some nw =>
      let k : Rect := { nw := nw, rows := x.cfg.rows, cols := x.cfg.cols }
      if k.blocks.all (s.blockFree x.secure) && (shapes x.cfg.rows x.cfg.cols x.quarter).contains k then some k else none
    | none => none
  | none => none

/-- The cooler rectangle a section is moved to before its next unit, if rotation applies (R346). -/
def rotation? (s : State) (x : UnitSt) : Option Rect :=
  match s.reuse? x with
  | none => none
  | some k =>
    let q := k.nw / 64
    let v := s.tha q
    let hot := s.hottest k.blocks
    if thermRotate v && decide (thermLimit v ≤ hot + thermMargin v) then
      match s.findRect x.cfg.rows x.cfg.cols x.secure x.quarter with
      | some r => if s.hottest r.blocks + thermMargin v ≤ hot then some r else none
      | none => none
    else none

/-- The rectangle a waiting unit would take now. -/
def rectFor (s : State) (x : UnitSt) : Option Rect :=
  match s.reuse? x with
  | some r => some r
  | none => s.findRect x.cfg.rows x.cfg.cols x.secure x.quarter

/-- The effective priority of a job while it has a unit waiting (R333). -/
def jobPrio (s : State) (j : Nat) : Nat :=
  match s.job j with
  | some x =>
    let w := match x.since with
      | some n => s.clk.win - n
      | none => 0
    min 7 (x.prio + w / 8)
  | none => 0

end State

/-- The k-registers of an element as arming sets them: image values, or launch arguments (R53, R168). -/
def ElemRec.kregs (r : ElemRec) (args : List Word) : Vector Word 8 :=
  Vector.ofFn fun i =>
    let src := r.ksrc.getD i 0
    if src = 0 then r.k.getD i 0 else args.getD (src - 1) 0

/-- An element as arming sets it (R38, R61). -/
def ElemRec.arm (r : ElemRec) (seed : BitVec 32) (e : Nat) (args : List Word) : Elem :=
  { Elem.blank seed e with cfg := r.cfg, slots := r.slots, desc := r.desc, trig := r.trig, k := r.kregs args }

/-- The elements of a section that its records configure. Two records of one section that name the same row and column
are both accepted, and the last one in the image arms the element; R168 is silent on them (DESIGN CHOICE, log 45). -/
def SecCfg.arm (c : SecCfg) (args : List Word) : Assoc Elem :=
  c.elems.foldl (fun m r =>
    let e := c.elemAt r.row r.col
    m.set e (r.arm c.seed e args)) []

namespace State

/-- A section placed elsewhere ends what other sections kept on those blocks (R111). -/
def evict (s : State) (x : UnitSt) (k : Rect) : State :=
  { s with residents := s.residents.filter fun r =>
      (r.job == x.job && r.section_ == x.section_ && r.replica == x.replica) ||
      match r.nw with
      | some nw => !(({ nw := nw, rows := r.cfg.rows, cols := r.cfg.cols } : Rect).blocks.any fun b => k.blocks.contains b)
      | none => true }

/-- Elements of a section whose snapshot was restored, as the next arming finds them: configuration and k-registers are those of
the snapshot, those that take launch arguments aside (R168, R381; that arguments are taken again is the model's choice, log 41). -/
def rearm (r : Resident) (args : List Word) : Assoc Elem :=
  r.cfg.elems.foldl (fun m c =>
    let e := r.cfg.elemAt c.row c.col
    Assoc.set m e (c.arm r.cfg.seed e args)) []

/-- A unit armed on a rectangle: what ended units of completed jobs left there is no longer readable (R61, R111, R337, R371). -/
def armUnit (s : State) (u : Nat) (k : Rect) : State :=
  match s.unit? u with
  | none => s
  | some x =>
    let old := s.resident? x
    let s := s.evict x k
    let done := fun (p : Nat × UnitSt) => p.2.phase == .ended && p.2.rect.blocks.all k.blocks.contains && (match s.job p.2.job with
      | some j => !j.active
      | none => true)
    let s := { s with units := s.units.filter fun p => !done p
                      residents := s.residents.filter fun r => !(r.job == x.job && r.section_ == x.section_ && r.replica == x.replica)
                      exactCnt := k.blocks.foldl (fun m b => m.erase b) s.exactCnt }
    let y : UnitSt := { x with
      phase := .running
      nw := k.nw
      elems := x.cfg.arm x.args
      count := if x.tiles0 = 0 then none else some x.tiles0
      armedAt := s.clk.cyc
      quietAt := s.clk.cyc }
    s.setUnit u (match old with
      | some r =>
        let y := { y with mem := r.mem, bufs := r.bufs, cache := r.cache, lastSnap := r.snap }
        if r.restored then { y with cfg := { r.cfg with tiles := x.cfg.tiles }, elems := rearm r x.args } else y
      | none => { y with mem := x.cfg.tiles })

/-- What is kept of a section whose unit has ended: tiles, buffers, section cache, k-registers and configuration
(R111, R346, R379). -/
def keepSection (s : State) (x : UnitSt) : State :=
  let r : Resident := { job := x.job, section_ := x.section_, replica := x.replica, tenant := x.tenant, secure := x.secure, nw := some x.nw
                        mem := x.mem.mapVals fun _ t => { t with waiting := [], passed := false, fifo := t.fifo.filter fun k => !k.isDrain
                                                                 badFifo := t.badFifo.filter fun k => decide (k < (t.fifo.filter fun k => !k.isDrain).length) }
                        bufs := x.bufs, cache := { x.cache with
                          waits := [], fills := [], walks := []
                          wins := x.cache.wins.mapVals fun _ l => l.map fun w => { w with ext := none } }
                        elems := x.elems, cfg := x.cfg, snap := x.lastSnap }
  { s with residents := s.residents.filter (fun r => !(r.job == x.job && r.section_ == x.section_ && r.replica == x.replica)) ++ [r] }

end State

end Sys2Proof.Machine
end

