-- ==== Sys2Proof/Machine/Records.lean ====
section
/-! DEFINITION. The records of a configuration image as they stand in memory: header, sections, elements, routes (R5, R166-R169,
R172). -/

namespace Sys2Proof.Machine

/-- An image in memory: the memory, the address of its first byte. -/
structure ImgSrc where
  mem : Memory
  base : Nat

/-- `n` bytes at an offset, little-endian (R5). -/
def ImgSrc.get (x : ImgSrc) (off n : Nat) : Nat := natOfBytes (Memory.readBytes x.mem (x.base + off) n)

/-! ## The header (R166, R171) -/

/-- The header's fields. -/
structure ImgHead where
  version : Nat
  flags : Nat
  size : Nat
  sections : Nat
  graphs : Nat
  rings : Nat
  patches : Nat
  data : Nat
  secOff : Nat
  graphOff : Nat
  ringOff : Nat
  dataOff : Nat
  deriving DecidableEq, Repr

namespace ImgSrc

def head (x : ImgSrc) : ImgHead where
  version := x.get 4 2
  flags := x.get 6 2
  size := x.get 8 8
  sections := x.get 16 2
  graphs := x.get 18 2
  rings := x.get 20 2
  patches := x.get 22 2
  data := x.get 24 4
  secOff := x.get 32 8
  graphOff := x.get 40 8
  ringOff := x.get 48 8
  dataOff := x.get 56 8

end ImgSrc

namespace ImgHead

/-- The image ends with a signature block (R166). -/
def signedFlag (h : ImgHead) : Bool := h.flags % 2 == 1

/-- The image says that it holds privileged opcodes. -/
def privFlag (h : ImgHead) : Bool := h.flags / 2 % 2 == 1

/-- A version 2 image (R172). -/
def x2 (h : ImgHead) : Bool := h.version == 2

/-- Bytes before the signature block. -/
def limit (h : ImgHead) : Nat := if h.signedFlag then h.size - 3392 else h.size

/-- Bytes of an element record (R168, R172). -/
def elemSize (h : ImgHead) : Nat := if h.x2 then 480 else 864

def secAt (h : ImgHead) (i : Nat) : Nat := h.secOff + 1344 * i
def graphAt (h : ImgHead) (i : Nat) : Nat := h.graphOff + 32 * i
def ringAt (h : ImgHead) (i : Nat) : Nat := h.ringOff + 16 * i
def patchAt (h : ImgHead) (i : Nat) : Nat := h.ringOff + 16 * h.rings + 16 * i

end ImgHead

/-! ## Sections (R167-R169, R172) -/

namespace ImgSrc

/-- An endpoint word, none where a bit not named is set. -/
def endpoint (v : Nat) : Option Endpoint :=
  match v / 2 ^ 30 with
  | 0 => if v / 2 ^ 23 = 0 ∧ v / 2 ^ 15 % 2 = 0 ∧ v / 2 ^ 4 % 16 = 0 then some (.chan (v / 2 ^ 16 % 128) (v / 2 ^ 8 % 128) (v % 16)) else none
  | 1 => if v % 2 ^ 30 < 4096 then some (.tile (v % 4096)) else none
  | 2 => if v % 2 ^ 30 < 32 then some (.port (v % 32)) else none
  | _ => if v % 2 ^ 30 = 0 then some .none else none

/-- An endpoint, `none` where its word is no endpoint. -/
def endAt (x : ImgSrc) (o : Nat) : Endpoint := (endpoint (x.get o 4)).getD .none

/-- A binding of a section record. -/
def bindKind : Nat → BindKind
  | 1 => .host
  | 2 => .sweep
  | 3 => .deep
  | 4 => .copy
  | 5 => .coll
  | 6 => .remote
  | 7 => .seq
  | 8 => .slot
  | _ => .unbound

/-- The role code of a tile. -/
def roleAt (x : ImgSrc) (o t : Nat) : Nat := x.get (x.get (o + 40) 8 + t / 4) 1 / 4 ^ (t % 4) % 4

/-- Items of an element record: those of `n` words of `size` bytes from `o` on whose mask bit is set. -/
def masked (x : ImgSrc) (mask o size n : Nat) : List (Nat × Nat) :=
  ((List.range n).filter fun i => mask / 2 ^ i % 2 == 1).map fun i => (i, x.get (o + size * i) size)

/-- Where the parts of an element record stand: descriptors, triggers, k-registers, and how many slots and triggers it
has (R168, R172). -/
def elemParts (h : ImgHead) : Nat × Nat × Nat × Nat × Nat := if h.x2 then (96, 160, 416, 16, 32) else (160, 288, 800, 32, 64)

/-- An element record. -/
def elemAt (x : ImgSrc) (h : ImgHead) (o : Nat) : ElemRec :=
  let p := elemParts h
  let b := x.get (o + 2) 1
  let slots := x.masked (x.get (o + 4) 4) (o + 32) 4 p.2.2.2.1
  let descs := (slots.map fun s => (s.1, BitVec.ofNat 32 (x.get (o + p.1 + 4 * s.1) 4 % 2 ^ 26))).filter fun d => d.2 != 0
  { row := x.get o 1, col := x.get (o + 1) 1
    cfg := { systolic := b % 2 == 1, gated := b / 2 % 2 == 1, m01 := b / 4 % 4, m23 := b / 16 % 4, whole := BitVec.ofNat 4 (x.get (o + 3) 1) }
    slots := slots.map fun s => (s.1, BitVec.ofNat 32 s.2)
    desc := descs
    trig := (x.masked (x.get (o + 8) 8) (o + p.2.1) 8 p.2.2.2.2).map fun t => (t.1, BitVec.ofNat 64 t.2)
    ksrc := (List.range 8).map fun j => x.get (o + 16 + j) 1
    k := (List.range 8).map fun j => BitVec.ofNat 64 (x.get (o + p.2.2.1 + 8 * j) 8) }

/-- A route record. -/
def routeAt (x : ImgSrc) (o : Nat) : Route where
  src := x.endAt o
  dst := x.endAt (o + 4)
  admits := BitVec.ofNat 8 (x.get (o + 8) 1)
  turn := match x.get (o + 9) 1 with
    | 1 => 8
    | 2 => 16
    | 3 => 32
    | _ => 0
  divert := x.endAt (o + 12)

/-- A section record with its element, route and tile-role records. -/
def secCfg (x : ImgSrc) (h : ImgHead) (o : Nat) : SecCfg where
  rows := x.get o 1
  cols := x.get (o + 1) 1
  mode := x.get (o + 2) 1 % 4
  flush := x.get (o + 2) 1 / 4 % 2 == 1
  seed := BitVec.ofNat 32 (x.get (o + 4) 4)
  pal := BitVec.ofNat 64 (x.get (o + 8) 8)
  roles := (List.range (16 * x.get o 1 * x.get (o + 1) 1)).map fun t => match x.roleAt o t with
    | 1 => .tf
    | 2 => .cb
    | _ => .ab
  routes := (List.range (x.get (o + 20) 4)).map fun i => x.routeAt (x.get (o + 32) 8 + 16 * i)
  binds := (List.range 32).map fun j => { kind := bindKind (x.get (o + 48 + 8 * j) 1), stack := x.get (o + 49 + 8 * j) 1 }
  bufs := (List.range 64).map fun j =>
    let b := o + 304 + 16 * j
    { valid := x.get b 1 == 1, row := x.get (b + 1) 1, col := x.get (b + 2) 1, rows := x.get (b + 3) 1, cols := x.get (b + 4) 1
      base := x.get (b + 8) 4, size := x.get (b + 12) 4 }
  elems := (List.range (x.get (o + 16) 4)).map fun i => x.elemAt h (x.get (o + 24) 8 + h.elemSize * i)
  window := h.x2

end ImgSrc

end Sys2Proof.Machine
end

