-- ==== Sys2Proof/Machine/Xcf.lean ====
section
/-! DEFINITION. The freeze image: its header and the records of a section's state, written as words and read back (R375, R376,
R379, R416). R375 gives the parts, their order, the fields of each and the sizes it names; where a field stands in the header or in
its record is the model's choice (log 6). -/

namespace Sys2Proof.Machine

/-! ## Words in a row -/

/-- Words written one behind the other: how many, and those that are not zero by number, the last one first. -/
structure Enc where
  n : Nat := 0
  ws : List (Nat × Word) := []

namespace Enc

def word (x : Enc) (w : Word) : Enc := { n := x.n + 1, ws := if w = 0 then x.ws else (x.n, w) :: x.ws }

def nat (x : Enc) (v : Nat) : Enc := x.word (BitVec.ofNat 64 v)

def words (x : Enc) (l : List Word) : Enc := l.foldl word x

/-- Zeros up to word `n`. -/
def upTo (x : Enc) (n : Nat) : Enc := { x with n := n }

/-- How many things follow, and each of them. -/
def list {α : Type} (x : Enc) (f : α → List Word) (l : List α) : Enc := l.foldl (fun y a => y.words (f a)) (x.nat l.length)

end Enc

/-- Words read one behind the other: those that are not zero, by number, and the number of the next. -/
structure Dec where
  ws : Assoc Word
  i : Nat

namespace Dec

def at_ (x : Dec) (k : Nat) : Word := x.ws.getD (x.i + k) 0

def skip (x : Dec) (n : Nat) : Dec := { x with i := x.i + n }

def take (x : Dec) (n : Nat) : List Word := (List.range n).map x.at_

/-- A list of things of `k` words each, behind their count, at most `most` of them. -/
def list {α : Type} (x : Dec) (most k : Nat) (f : List Word → α) : List α × Dec :=
  let n := min most (x.at_ 0).toNat
  ((List.range n).map fun j => f ((x.skip (1 + k * j)).take k), x.skip (1 + k * n))

end Dec

/-- Bits `lo` to `hi` of word `i` of some. -/
def wordField (l : List Word) (i hi lo : Nat) : Nat := bitsOf (l.getD i 0).toNat hi lo

/-- A bit of word `i` of some. -/
def wordBit (l : List Word) (i b : Nat) : Bool := (l.getD i 0).getLsbD b

/-- Fields beside each other in one word: value and place. -/
def packWord (l : List (Nat × Nat)) : Word := BitVec.ofNat 64 ((l.map fun p => p.1 * 2 ^ p.2).foldl (· + ·) 0)

def boolNat (b : Bool) : Nat := if b then 1 else 0

/-- A code of a list's entries. -/
def codeIn {α : Type} [BEq α] (l : List α) (a : α) : Nat := l.findIdx fun b => b == a

/-! ## Tokens, registers, firings -/

/-- A token's bits [101:0] in 16 bytes (R25, R375). -/
def tokenWords (t : Token) : List Word := [t.payload, packWord [(t.coord.toNat, 0), (t.tag.toNat, 32), (t.mark.toNat, 35)]]

def tokenOf (l : List Word) : Token :=
  ⟨BitVec.ofNat 3 (wordField l 1 37 35), BitVec.ofNat 3 (wordField l 1 34 32), BitVec.ofNat 32 (wordField l 1 31 0), l.getD 0 0⟩

def noToken : Token := ⟨0, 0, 0, 0⟩

def opValWords (v : OpVal) : List Word :=
  [v.bits, packWord [(boolNat v.tok.isSome, 0), (boolNat v.tag.isSome, 1), ((v.tag.getD 0).toNat, 2), (boolNat v.isOne, 5)]] ++
    tokenWords (v.tok.getD noToken)

def opValOf (l : List Word) : OpVal where
  bits := l.getD 0 0
  tok := if wordBit l 1 0 then some (tokenOf (l.drop 2)) else none
  tag := if wordBit l 1 1 then some (BitVec.ofNat 3 (wordField l 1 4 2)) else none
  isOne := wordBit l 1 5

def gregWords (g : GReg) : List Word := [g.val, packWord [(boolNat g.present, 0), (boolNat g.pending, 1), (g.tag.toNat, 2)]]

def gregOf (l : List Word) : GReg where
  val := l.getD 0 0
  present := wordBit l 1 0
  pending := wordBit l 1 1
  tag := BitVec.ofNat 3 (wordField l 1 4 2)

/-- The types of an accumulator, the stages of an instance, the predicates, the output destinations, in the order of their codes. -/
def accTypes : List AccTy := [.none, .int32, .fp32, .fp64]
def geoPreds : List Pred := [.ori2, .ori3, .incr, .insp, .segx]
def outDsts : List ODst := [.o 0, .o 1, .o 2, .o 3, .o01, .o23, .oall]
def gates : List Gate := [.on, .retention, .off]

/-- A coordinate of a point as the FP64 it came from (R291). -/
def coordWord (d : Dy) : Word := BitVec.ofNat 64 (FFmt.roundDy FFmt.fp64 false .rne 0 false d).bits

def coordOf (w : Word) : Dy := (FFmt.decode FFmt.fp64 false w.toNat).dy

/-- An entry of the reorder window in 22 words (R304): at most five points of three coordinates. -/
def instWords (g : GeoInst) : List Word :=
  let st := match g.stage with
    | .inB => (0, noToken)
    | .inC => (1, noToken)
    | .known t => (2, t)
  let dim := ((g.pts.head?).map fun p => p.1.length).getD 0
  let xs := (g.pts.map fun p => p.1.map coordWord).flatten
  [packWord [(codeIn geoPreds g.pred, 0), (boolNat g.sym, 3), (boolNat g.stg, 4), (codeIn outDsts g.dst, 5), (g.tag.toNat, 8), (st.1, 11),
             (g.pts.length, 16), (dim, 24)], BitVec.ofNat 64 g.due] ++ tokenWords st.2 ++ (xs ++ List.replicate 15 0).take 15 ++
    (List.range 3).map fun i => packWord [(((g.pts[2 * i]?).map fun p => p.2.toNat).getD 0, 0), (((g.pts[2 * i + 1]?).map fun p => p.2.toNat).getD 0, 32)]

def instOf (l : List Word) : GeoInst :=
  let n := wordField l 0 23 16
  let dim := wordField l 0 31 24
  let idx := fun (k : Nat) => BitVec.ofNat 32 (if k % 2 = 0 then wordField l (19 + k / 2) 31 0 else wordField l (19 + k / 2) 63 32)
  { pred := geoPreds.getD (wordField l 0 2 0) .ori2, sym := wordBit l 0 3, stg := wordBit l 0 4
    pts := (List.range n).map fun k => ((List.range dim).map fun j => coordOf (l.getD (4 + dim * k + j) 0), idx k)
    dst := outDsts.getD (wordField l 0 7 5) (.o 0), tag := BitVec.ofNat 3 (wordField l 0 10 8)
    stage := match wordField l 0 12 11 with
      | 0 => .inB
      | 1 => .inC
      | _ => .known (tokenOf (l.drop 2))
    due := (l.getD 1 0).toNat }

/-- The stopped firing: slot, next beat, and every value it carries across beats (R374). -/
def Enc.firing (x : Enc) (f : Option Firing) : Enc :=
  match f with
  | none => x.nat 0
  | some f =>
    let c := f.carry
    let x := x.words ([packWord [(1, 0), (f.slot, 8), (f.beat, 16), (boolNat f.cap.p0, 4)]] ++ opValWords f.cap.a ++ opValWords f.cap.b ++
      gregWords f.cap.dst ++ [f.cap.entry, f.cap.desc.setWidth 64])
    let x := x.words ([packWord [(boolNat c.ok, 0), (boolNat c.any, 1), (boolNat c.poison.isSome, 2), (boolNat c.tok.isSome, 3)], BitVec.ofNat 64 c.n] ++
      tokenWords (c.poison.getD noToken) ++ tokenWords (c.tok.getD noToken))
    ((x.list (fun w => [w]) f.cap.words).list (fun w => [w]) c.ws).list tokenWords c.toks

def Dec.firing (x : Dec) : Option Firing × Dec :=
  let l := x.take 19
  if !wordBit l 0 0 then (none, x.skip 1)
  else
    let words := (x.skip 19).list 256 1 fun w => w.getD 0 0
    let ws := words.2.list 256 1 fun w => w.getD 0 0
    let toks := ws.2.list 128 2 tokenOf
    (some { slot := wordField l 0 15 8, beat := wordField l 0 63 16
            cap := { a := opValOf (l.drop 1), b := opValOf (l.drop 5), dst := gregOf (l.drop 9), p0 := wordBit l 0 4, words := words.1
                     entry := l.getD 11 0, desc := (l.getD 12 0).setWidth 32 }
            carry := { ok := wordBit l 13 0, any := wordBit l 13 1, ws := ws.1, n := (l.getD 14 0).toNat
                       poison := if wordBit l 13 2 then some (tokenOf (l.drop 15)) else none
                       tok := if wordBit l 13 3 then some (tokenOf (l.drop 17)) else none, toks := toks.1 } }, toks.2)

/-! ## Element state (R61, R225, R374, R375) -/

/-- Weights of a micro-block as bits, `w` bits each (R225). -/
def blockBits (m : MicroBlock) : Nat := (m.w.map fun p => p.2 * 2 ^ (m.fmt.laneW * p.1)).foldl (· + ·) 0

/-- What a picker does, in the order of the codes; a wait under IDLE keeps what could end it (R355, R386). -/
def pickers : List Picker := [.run, .halted, .trapped, .brk]

def pickCode : Picker → Nat
  | .run => 0
  | .halted => 1
  | .trapped => 2
  | .brk => 3
  | .idle _ _ => 4

/-- Formats in the order of their codes. -/
def fmtCodes : List Fmt := (List.range 22).filterMap Fmt.ofCode

/-- 8,192 bytes of element state: 4 KiB of accumulators, 2 KiB of the micro-block, 2 KiB of all else. -/
def Enc.elem (x : Enc) (y : Elem) : Enc :=
  let z := x.n
  let acc := fun (x : Enc) (i : Fin 4) =>
    (List.range 128).foldl (fun x k => x.word (packWord [(((y.acc[i]).lanes.getD (2 * k) 0).toNat, 0), (((y.acc[i]).lanes.getD (2 * k + 1) 0).toNat, 32)])) x
  let x := [0, 1, 2, 3].foldl acc x
  let b := blockBits y.mb
  let x := (List.range 256).foldl (fun x i => x.nat (b / 2 ^ (64 * i) % 2 ^ 64)) x
  let x := (List.finRange 8).foldl (fun x i => x.words (gregWords y.g[i])) x
  let x := x.word (packWord [(y.p.toNat, 0), (y.wave.toNat, 8), (y.fl.toNat, 16), (codeIn gates y.gate, 24), (y.last.toNat, 32), (boolNat y.idleBit, 40), (pickCode y.pick, 48)])
  let x := x.word (packWord [(y.sr.toNat, 0), (y.starve.toNat, 32)])
  let x := x.word (packWord ((List.finRange 4).map fun i => (y.ctl[i], 8 * i.val) ))
  let x := x.word (packWord (((List.finRange 4).map fun i => ((y.mx[i]).toNat, 8 * i.val)) ++ (List.finRange 4).map fun i => (codeIn accTypes (y.acc[i]).ty, 32 + 4 * i.val)))
  let x := x.word (packWord [(y.mb.k, 0), (y.mb.n, 8), (codeIn fmtCodes y.mb.fmt, 16)])
  let x := x.word (packWord ((List.range 6).map fun i => (y.mb.bq.getD i 0, 8 * i)))
  ((x.list instWords y.win).firing y.firing).upTo (z + 1024)

/-- An element with the state that an image gives it; what R375 does not name stays as it is. -/
def Dec.elem (x : Dec) (y : Elem) : Elem × Dec :=
  let acc := fun (i : Nat) => ((List.range 128).map fun k =>
    let w := x.at_ (128 * i + k)
    [(2 * k, w.setWidth 32), (2 * k + 1, (w >>> 32).setWidth 32)]).flatten.filter fun p => p.2 != (0 : BitVec 32)
  let b := ((List.range 256).map fun i => (x.at_ (512 + i)).toNat * 2 ^ (64 * i)).foldl (· + ·) 0
  let l := (x.skip 768).take 22
  let fmt := fmtCodes.getD (wordField l 20 23 16) .int8
  let k := wordField l 20 7 0
  let n := wordField l 20 15 8
  let codes := (List.range (k * n)).map fun i => (i, b / 2 ^ (fmt.laneW * i) % 2 ^ fmt.laneW)
  let win := (x.skip 790).list 8 22 instOf
  let firing := win.2.firing
  ({ y with
      g := Vector.ofFn fun i => gregOf (l.drop (2 * i.val))
      p := BitVec.ofNat 8 (wordField l 16 7 0)
      acc := Vector.ofFn fun i => { ty := accTypes.getD (wordField l 19 (35 + 4 * i.val) (32 + 4 * i.val)) .none, lanes := acc i.val }
      ctl := Vector.ofFn fun i => wordField l 18 (8 * i.val + 7) (8 * i.val)
      wave := BitVec.ofNat 8 (wordField l 16 15 8)
      fl := BitVec.ofNat _ (wordField l 16 23 16)
      sr := BitVec.ofNat 32 (wordField l 17 31 0)
      mb := { k := k, n := n, fmt := fmt, w := codes.filter fun p => p.2 != 0, bq := (List.range 6).map fun i => wordField l 21 (8 * i + 7) (8 * i) }
      mx := Vector.ofFn fun i => BitVec.ofNat 8 (wordField l 19 (8 * i.val + 7) (8 * i.val))
      starve := BitVec.ofNat 32 (wordField l 17 63 32)
      last := BitVec.ofNat 5 (wordField l 16 36 32)
      idleBit := wordBit l 16 40
      gate := gates.getD (wordField l 16 25 24) .on
      pick := if wordField l 16 50 48 = pickCode y.pick then y.pick else pickers.getD (wordField l 16 50 48) .run
      win := win.1
      firing := firing.1 }, x.skip 1024)

/-! ## Channels and routes (R375) -/

/-- What a channel carries beside its tokens: the coordinate that reached the merge last (R68), whether the rest of a burst is
being discarded (R70), whether drain has passed (R72). -/
def Enc.chan (x : Enc) (c : Chan) : Enc :=
  ((x.word (packWord [(boolNat c.last.isSome, 0), (boolNat c.skip, 1), (boolNat c.passed, 2), ((c.last.getD 0).toNat, 32)])).list tokenWords c.q).list
    tokenWords c.raw

def Dec.chan (x : Dec) : Chan × Dec :=
  let l := x.take 1
  let q := (x.skip 1).list 64 2 tokenOf
  let raw := q.2.list 64 2 tokenOf
  ({ q := q.1, raw := raw.1, last := if wordBit l 0 0 then some (BitVec.ofNat 32 (wordField l 0 63 32)) else none, skip := wordBit l 0 1
     passed := wordBit l 0 2 }, raw.2)

/-- A route's buffer: tokens, pulses in flight and those that a fence holds back. -/
def Enc.route (x : Enc) (r : RouteSt) : Enc :=
  ((x.nat r.pulses).list (fun k => [BitVec.ofNat 64 k]) r.fenced).list tokenWords r.toks

def Dec.route (x : Dec) (r : RouteSt) : RouteSt × Dec :=
  let fenced := (x.skip 1).list 4096 1 fun w => (w.getD 0 0).toNat
  let toks := fenced.2.list 65536 2 tokenOf
  ({ r with pulses := (x.at_ 0).toNat, fenced := fenced.1, toks := toks.1 }, toks.2)

/-! ## Memory tiles (R111, R115, R116, R253, R256, R375) -/

/-- The accesses of a tile in the order of their codes. -/
def memOps : List MemOp :=
  [.ld, .lds, .lde, .st, .stf, .ste, .amoAdd, .amoMin, .amoMax, .amoAnd, .amoOr, .amoXor, .amoSwp, .amoCas, .famoAdd, .famoMin, .famoMax, .push, .pop]

def memReqWords (r : MemReq) : List Word :=
  [BitVec.ofNat 64 r.id,
   packWord [(r.e, 0), (r.slot, 16), (r.port, 24), (boolNat r.stamp, 32), (boolNat r.hasDst, 33), (boolNat r.flush, 34), (codeIn memOps r.op, 40),
             (match r.fmt with
              | some f => codeIn fmtCodes f
              | none => 31, 48)],
   packWord [(r.tile, 0), (r.word, 16), (r.beat, 40)], r.data, r.exp] ++ tokenWords r.tok

def memReqOf (l : List Word) : MemReq where
  id := (l.getD 0 0).toNat
  e := wordField l 1 15 0
  slot := wordField l 1 23 16
  port := wordField l 1 31 24
  stamp := wordBit l 1 32
  hasDst := wordBit l 1 33
  flush := wordBit l 1 34
  op := memOps.getD (wordField l 1 47 40) .ld
  fmt := fmtCodes[wordField l 1 55 48]?
  tile := wordField l 2 15 0
  word := wordField l 2 39 16
  beat := wordField l 2 63 40
  data := l.getD 3 0
  exp := l.getD 4 0
  tok := tokenOf (l.drop 5)

/-- Where the ways of the section cache stand: the place in a CB tile's 1,024 superblocks, set by set (R115). -/
def wayPlaces (t i : Nat) (ways : List Way) : List (Nat × Way) :=
  let mine := ways.filter fun w => (cacheSet t w.sb).1 == i
  mine.zipIdx.map fun p => (8 * (cacheSet t p.1.sb).2 + ((mine.take p.2).filter fun w => cacheSet t w.sb == cacheSet t p.1.sb).length, p.1)

/-- What the contents of a tile hold: words by number. Of a TF tile the tokens of its FIFO, of a CB tile the lines of its ways or
the words of its four windows, which wrap at 64 KiB. -/
def tileWords (x : UnitSt) (cbs : List Nat) (t : Nat) : Assoc Word :=
  let k := x.tile t
  match x.cfg.role t with
  | .ab => k.words
  | .tf => ((k.fifo.zipIdx.map fun p => (tokenWords p.1).zipIdx.map fun w => (2 * p.2 + w.2, w.1)).flatten).filter fun p => p.2 != 0
  | .cb =>
    let i := cbs.findIdx fun n => n == t
    if x.cfg.window then
      (((x.cache.wins.getD 0 []).zipIdx.filter fun p => p.2 / 4 == i).map fun p =>
        p.1.data.map fun w => (8192 * (p.2 % 4) + w.1 % 8192, w.2)).flatten.foldl (fun m p => Assoc.put m p.1 p.2 0) []
    else ((wayPlaces (max cbs.length 1) i x.cache.ways).map fun p => p.2.data.map fun w => (32 * p.1 + w.1, w.2)).flatten.foldl
      (fun m p => Assoc.put m p.1 p.2 0) []

/-- Words at their places, in rising order of place, and zeros between them. -/
def Enc.sparse (x : Enc) (len : Nat) (l : Assoc Word) : Enc :=
  let z := x.n
  (l.foldl (fun x p => if p.1 < len then (x.upTo (z + p.1)).word p.2 else x) x).upTo (z + len)

/-- The words of a part, by their place in it. -/
def Dec.sparse (x : Dec) (len : Nat) : Assoc Word :=
  (x.ws.filter fun p => decide (x.i ≤ p.1) && decide (p.1 < x.i + len)).map fun p => (p.1 - x.i, p.2)

/-- The bits of a table of 32,768 as 512 words. -/
def bitWords (l : Assoc Unit) : Assoc Word :=
  l.foldl (fun m p => Assoc.put m (p.1 / 64) (Assoc.getD m (p.1 / 64) 0 ||| (1#64 <<< (p.1 % 64))) 0) []

def bitsFrom (l : Assoc Word) : Assoc Unit :=
  (l.map fun p => ((List.range 64).filter fun i => p.2.getLsbD i).map fun i => (64 * p.1 + i, ())).flatten

/-- A memory tile: role, 256 KiB of contents, 4 KiB of full-empty bits, waiting requests; of a TF tile the FIFO's head and count, of
a CB tile tags, valid, dirty and evict-first bits. -/
def Enc.tile (x : Enc) (y : UnitSt) (t : Nat) : Enc :=
  let k := y.tile t
  let cbs := y.cfg.cbTiles
  let role := match y.cfg.role t with
    | .ab => 0
    | .tf => 1
    | .cb => 2
  let x := x.word (packWord [(role, 0), (boolNat k.passed, 8)])
  let x := ((x.sparse 32768 (tileWords y cbs t)).sparse 512 (bitWords k.full)).list memReqWords k.waiting
  match y.cfg.role t with
  | .ab => x
  | .tf => (x.nat 0).nat k.fifo.length
  | .cb =>
    let ps := wayPlaces (max cbs.length 1) (cbs.findIdx fun n => n == t) y.cache.ways
    x.sparse 1024 (ps.foldl (fun m p => Assoc.put m p.1
      (packWord [(p.2.sb, 0), (p.2.valid.toNat, 48), (p.2.dirty.toNat, 52), (boolNat p.2.ef, 56), (1, 57)]) 0) [])

/-- A tile read back: the tile, its ways of the section cache, and the contents of a CB tile. -/
def Dec.tile (x : Dec) (y : UnitSt) (t : Nat) : Tile × List Way × Assoc Word × Dec :=
  let k := y.tile t
  let body := (x.skip 1).sparse 32768
  let waiting := (x.skip 33281).list 65536 7 memReqOf
  let k := { k with full := bitsFrom ((x.skip 32769).sparse 512), waiting := waiting.1, passed := wordBit (x.take 1) 0 8 }
  match y.cfg.role t with
  | .ab => ({ k with words := body }, [], [], waiting.2)
  | .tf =>
    let n := min 16384 (waiting.2.at_ 1).toNat
    ({ k with fifo := (List.range n).map fun j => tokenOf ((x.skip (1 + 2 * j)).take 2) }, [], [], waiting.2.skip 2)
  | .cb =>
    let tags := waiting.2.sparse 1024
    let way := fun (p : Nat × Word) =>
      let sb := bitsOf p.2.toNat 47 0
      let old := (y.cache.way? sb).getD { sb := sb }
      let data := (body.filter fun w => w.1 / 32 == p.1).map fun w => (w.1 % 32, w.2)
      { old with valid := BitVec.ofNat 4 (bitsOf p.2.toNat 51 48), dirty := BitVec.ofNat 4 (bitsOf p.2.toNat 55 52), ef := p.2.getLsbD 56, data := data }
    (k, if y.cfg.window then [] else tags.map way, body, waiting.2.skip 1024)

/-! ## Section tables (R113-R117, R318, R375) -/

/-- The phases of a buffer in the order of their codes. -/
def bufPhases : List BufPhase := [.empty, .filling, .ready, .draining]

def bufWord (b : BufSt) : Word := packWord [(codeIn bufPhases b.phase, 0), (boolNat b.byCmd, 2), (b.count, 8), (b.landed, 24)]

def bufStOf (w : Word) : BufSt where
  phase := bufPhases.getD (bitsOf w.toNat 1 0) .empty
  byCmd := w.getLsbD 2
  count := bitsOf w.toNat 23 8
  landed := bitsOf w.toNat 39 24

def Enc.tables (x : Enc) (y : UnitSt) : Enc :=
  let x := (List.range 64).foldl (fun x i => x.word (bufWord (y.buf i))) x
  let x := (List.range 8).foldl (fun x i => match (y.cache.ret[i]?).getD none with
    | some (b, n) => (x.word (packWord [(b, 0), (1, 63)])).nat n
    | none => (x.nat 0).nat 0) x
  let x := x.list (fun n => [BitVec.ofNat 64 n]) y.cache.unpin
  let x := (List.range y.cfg.routes.length).foldl (fun x i => if ((y.cfg.routes[i]?).map Route.turn).getD 0 = 0 then x
    else (x.list tokenWords (y.route i).turn).list tokenWords (y.route i).order) x
  (x.nat (boolNat y.cfg.window)).list (fun (w : CbWin) => [w.base, w.tail, w.head, w.lastRead].map (BitVec.ofNat 64)) (y.cache.wins.getD 0 [])

/-- The section tables read back into a unit; `body` holds the contents of its CB tiles. -/
def Dec.tables (x : Dec) (y : UnitSt) (body : List (Assoc Word)) : UnitSt × Dec :=
  let bufs := (List.range 64).foldl (fun m i => let b := bufStOf (x.at_ i); if b = y.buf i then m else Assoc.set m i b) y.bufs
  let ret := (List.range 8).map fun i => let w := x.at_ (64 + 2 * i); if w.getLsbD 63 then some (bitsOf w.toNat 62 0, (x.at_ (65 + 2 * i)).toNat) else none
  let unpin := (x.skip 80).list 65536 1 fun w => (w.getD 0 0).toNat
  let turn := fun (a : UnitSt × Dec) (i : Nat) => if ((y.cfg.routes[i]?).map Route.turn).getD 0 = 0 then a
    else
      let t := a.2.list 1024 2 tokenOf
      let o := t.2.list 2048 2 tokenOf
      (if t.1.isEmpty && o.1.isEmpty then (a.1, o.2) else (a.1.setRoute i { a.1.route i with turn := t.1, order := o.1 }, o.2))
  let r := (List.range y.cfg.routes.length).foldl turn ({ y with bufs := bufs }, unpin.2)
  let wins := (r.2.skip 1).list 1024 4 fun l => (l.map BitVec.toNat)
  let old := y.cache.wins.getD 0 []
  let win := fun (p : List Nat × Nat) =>
    let f := fun (i : Nat) => p.1.getD i 0
    let b := (body[p.2 / 4]?).getD []
    let data := (List.range ((f 2 - f 1) / 8)).filterMap fun j =>
      let a := f 1 / 8 + j
      let w := Assoc.getD b (8192 * (p.2 % 4) + a % 8192) 0
      if w = 0 then none else some (a, w)
    let o := (old[p.2]?).getD { base := f 0, tail := f 1, head := f 2, lastRead := f 3 }
    { o with base := f 0, tail := f 1, head := f 2, lastRead := f 3, data := data, ext := none }
  let c := r.1.cache
  ({ r.1 with
      cfg := { r.1.cfg with window := (r.2.at_ 0).getLsbD 0 }
      cache := { c with ret := ret, unpin := unpin.1, wins := if wins.1.isEmpty then c.wins else c.wins.set 0 (wins.1.zipIdx.map win) } }, wins.2)

/-! ## Ports (R270, R375, R409) -/

/-- A binding: the carriage it is attached to, the items held in the edge port, the packets queued but not sent. -/
def Enc.port (x : Enc) (b : BindSt) : Enc :=
  let x := (x.word (packWord [(boolNat b.carriage.isSome, 0), (b.carriage.getD 0, 1)])).list tokenWords b.inq
  b.packets.foldl (fun x p =>
    ((x.words [BitVec.ofNat 64 p.id, packWord [(p.e, 0), (p.slot, 16), (boolNat p.tblb, 24)], p.w0, p.w1]).list (fun w => [w]) p.par).list (fun w => [w]) p.row)
    (x.nat b.packets.length)

def Dec.packet (x : Dec) : Packet × Dec :=
  let l := x.take 4
  let par := (x.skip 4).list 256 1 fun w => w.getD 0 0
  let row := par.2.list 256 1 fun w => w.getD 0 0
  ({ id := (l.getD 0 0).toNat, e := wordField l 1 15 0, slot := wordField l 1 23 16, tblb := wordBit l 1 24, w0 := l.getD 2 0, w1 := l.getD 3 0
     par := par.1, row := row.1 }, row.2)

def Dec.port (x : Dec) (b : BindSt) : BindSt × Dec :=
  let q := (x.skip 1).list 16384 2 tokenOf
  let n := min 16384 (q.2.at_ 0).toNat
  let ps := (List.range n).foldl (fun (a : List Packet × Dec) _ => let p := a.2.packet; (a.1 ++ [p.1], p.2)) ([], q.2.skip 1)
  ({ b with carriage := if (x.at_ 0).getLsbD 0 then some ((x.at_ 0).toNat / 2) else none, inq := q.1, packets := ps.1 }, ps.2)

/-! ## Configuration (R167-R169, R375) -/

/-- Eight bytes to a word. -/
def wordsOfBytes : Nat → List Byte → List Word
  | 0, _ => []
  | n + 1, l => BitVec.ofNat 64 (natOfBytes (l.take 8)) :: wordsOfBytes n (l.drop 8)

def roleCode : Role → Nat
  | .ab => 0
  | .tf => 1
  | .cb => 2

def kindCode : BindKind → Nat
  | .unbound => 0
  | .host => 1
  | .sweep => 2
  | .deep => 3
  | .copy => 4
  | .coll => 5
  | .remote => 6
  | .seq => 7
  | .slot => 8

def endCode : Endpoint → Nat
  | .chan row col ch => row * 2 ^ 16 + col * 2 ^ 8 + ch
  | .tile i => 2 ^ 30 + i
  | .port n => 2 * 2 ^ 30 + n
  | .none => 3 * 2 ^ 30

/-- The element numbers of a section that have a record: those that were loaded with one, and those that CFGW has given a rule, a
trigger or a k-register since. -/
def recorded (x : UnitSt) : List Nat :=
  (List.range (64 * x.cfg.rows * x.cfg.cols)).filter fun e =>
    x.cfg.elems.any (fun r => x.cfg.elemAt r.row r.col == e) ||
      (let y := x.elem e; !y.slots.isEmpty || !y.trig.isEmpty || !y.desc.isEmpty || (List.finRange 8).any fun i => y.k[i] != 0)

/-- An element record of 864 bytes, with every CFGW applied and the k-registers as they stand. -/
def elemRecBytes (x : UnitSt) (e : Nat) : List Byte :=
  let y := x.elem e
  let src := ((x.cfg.elems.find? fun r => x.cfg.elemAt r.row r.col == e).map ElemRec.ksrc).getD []
  let mask := fun (l : List Nat) => (l.map fun i => 2 ^ i).foldl (· + ·) 0
  bytesOfNat 1 (x.cfg.rowOf e) ++ bytesOfNat 1 (x.cfg.colOf e) ++
    bytesOfNat 1 (boolNat y.cfg.systolic + 2 * boolNat y.cfg.gated + 4 * y.cfg.m01 + 16 * y.cfg.m23) ++ bytesOfNat 1 y.cfg.whole.toNat ++
    bytesOfNat 4 (mask y.slots.keys) ++ bytesOfNat 8 (mask y.trig.keys) ++
    ((List.range 8).map fun j => bytesOfNat 1 (src.getD j 0)).flatten ++ bytesOfNat 8 0 ++
    ((List.range 32).map fun i => bytesOfNat 4 (y.slots.getD i 0).toNat).flatten ++
    ((List.range 32).map fun i => bytesOfNat 4 (y.desc.getD i 0).toNat).flatten ++
    ((List.range 64).map fun i => bytesOfNat 8 (y.trig.getD i 0).toNat).flatten ++
    ((List.finRange 8).map fun i => bytesOfNat 8 (y.k[i]).toNat).flatten

def routeBytes (r : Route) : List Byte :=
  bytesOfNat 4 (endCode r.src) ++ bytesOfNat 4 (endCode r.dst) ++ bytesOfNat 1 r.admits.toNat ++
    bytesOfNat 1 (if r.turn = 8 then 1 else if r.turn = 16 then 2 else if r.turn = 32 then 3 else 0) ++ bytesOfNat 2 0 ++ bytesOfNat 4 (endCode r.divert)

/-- The section record, with its counts, and offsets that count from the image's first byte; the tables it points at follow it. -/
def Enc.config (x : Enc) (y : UnitSt) : Enc :=
  let c := y.cfg
  let es := recorded y
  let first := 8 * x.n + 1344
  let second := first + 864 * es.length
  let third := second + 16 * c.routes.length
  let head := bytesOfNat 1 c.rows ++ bytesOfNat 1 c.cols ++ bytesOfNat 1 (c.mode + 4 * boolNat c.flush) ++ bytesOfNat 1 0 ++ bytesOfNat 4 c.seed.toNat ++
    bytesOfNat 8 c.pal.toNat ++ bytesOfNat 4 es.length ++ bytesOfNat 4 c.routes.length ++ bytesOfNat 8 first ++ bytesOfNat 8 second ++ bytesOfNat 8 third ++
    ((List.range 32).map fun j => let b := c.bindCfg j; bytesOfNat 1 (kindCode b.kind) ++ bytesOfNat 1 b.stack ++ bytesOfNat 6 0).flatten ++
    ((List.range 64).map fun j =>
      let b := (c.bufs[j]?).getD {}
      bytesOfNat 1 (boolNat b.valid) ++ bytesOfNat 1 b.row ++ bytesOfNat 1 b.col ++ bytesOfNat 1 b.rows ++ bytesOfNat 1 b.cols ++ bytesOfNat 3 0 ++
        bytesOfNat 4 b.base ++ bytesOfNat 4 b.size).flatten ++ bytesOfNat 16 0
  let x := x.words (wordsOfBytes 168 head)
  let x := es.foldl (fun x e => x.words (wordsOfBytes 108 (elemRecBytes y e))) x
  let x := c.routes.foldl (fun x r => x.words (wordsOfBytes 2 (routeBytes r))) x
  let roles := (List.range (4 * c.rows * c.cols)).map fun i =>
    BitVec.ofNat 8 (((List.range 4).map fun j => roleCode (c.role (4 * i + j)) * 4 ^ j).foldl (· + ·) 0)
  x.words (wordsOfBytes ((4 * c.rows * c.cols + 7) / 8) roles)

/-- The bytes of some words that are not zero, by address. -/
def wordBytes (l : Assoc Word) : Memory :=
  (l.map fun p => ((List.range 8).map fun i => (8 * p.1 + i, p.2.extractLsb' (8 * i) 8)).filter fun c => c.2 != (0 : Byte)).flatten

/-- The configuration of a section read back. -/
def Dec.config (x : Dec) : SecCfg × Dec :=
  let src := fun (n : Nat) => ({ mem := wordBytes (x.ws.filter fun p => decide (p.1 < n)), base := 0 } : ImgSrc)
  let top := src (x.i + 168)
  let o := 8 * x.i
  let es := min 16384 (top.get (o + 16) 4)
  let rs := min 65536 (top.get (o + 20) 4)
  let n := 168 + 108 * es + 2 * rs + (4 * top.get o 1 * top.get (o + 1) 1 + 7) / 8
  let all := src (x.i + n)
  ({ all.secCfg { all.head with version := 3 } o with window := false }, x.skip n)

/-! ## The image -/

/-- The held requests of a unit: per element in issue order, with the serial of the fault that holds one, and its words (R374). -/
def Enc.held (x : Enc) (items : List (Nat × Item)) : Enc :=
  let kind := fun (i : Item) => match i.kind with
    | .ldw _ => 0
    | .fill => 1
    | .wb => 2
    | _ => 3
  items.foldl (fun x p =>
    let i := p.2
    (x.words [BitVec.ofNat 64 p.1, packWord [(i.e, 0), (i.slot, 16), (boolNat i.wave, 24), (kind i, 32)], BitVec.ofNat 64 i.va, BitVec.ofNat 64 i.ord,
              BitVec.ofNat 64 (i.held.getD 0)]).list (fun (w : Nat × Word) => [BitVec.ofNat 64 w.1, w.2]) i.words) (x.nat items.length)

/-- The requests read over: how many words they take. -/
def Dec.held (x : Dec) : Dec :=
  (List.range (min 65536 (x.at_ 0).toNat)).foldl (fun (x : Dec) _ => ((x.skip 5).list 64 2 fun _ => ()).2) (x.skip 1)

/-- What the header of an image says beside the section's own records (R375). -/
structure ImgMeta where
  tenant : Nat
  secure : Bool
  job : Nat
  section_ : Nat
  replica : Nat
  quarter : Nat
  steps : List Nat

/-- The 64 bytes of a header before `total` bytes of image in `parts` parts. -/
def headerWords (m : ImgMeta) (c : SecCfg) (parts total : Nat) : List Word :=
  [packWord [(0x1A464358, 0), (1, 32), (m.tenant, 48)],
   packWord [(boolNat m.secure, 0), (m.quarter, 8), (m.job, 16), (m.section_, 32), (m.replica, 48)],
   packWord [(c.rows, 0), (c.cols, 8), (parts, 32)]] ++ (List.range 3).map (fun i => BitVec.ofNat 64 (m.steps.getD i 0)) ++
    [BitVec.ofNat 64 total, 0]

/-- The records behind the header: all of R375's parts, or those of a snapshot (R379). -/
def imageBody (y : UnitSt) (items : List (Nat × Item)) (snapshot : Bool) : Enc :=
  let es := List.range (64 * y.cfg.rows * y.cfg.cols)
  let x := ({ n := 8 } : Enc).config y
  let x := if snapshot then x
    else
      let x := es.foldl (fun x e => x.elem (y.elem e)) x
      let x := es.foldl (fun x e => (List.finRange 4).foldl (fun x c => x.chan ((y.elem e).ins[c])) x) x
      let x := (List.range y.cfg.routes.length).foldl (fun x i => x.route (y.route i)) x
      x.held items
  let x := (List.range y.cfg.tileCount).foldl (fun x t => x.tile y t) x
  let x := x.tables y
  if snapshot then x else (List.range 32).foldl (fun x n => x.port (y.bindSt n)) x

/-- A freeze image, or a snapshot: its bytes, and its words that are not zero by byte offset (R375, R379, R416). -/
def imageOf (m : ImgMeta) (y : UnitSt) (items : List (Nat × Item)) (snapshot : Bool) : Nat × List (Nat × Word) :=
  let b := imageBody y items snapshot
  let h := (({} : Enc).words (headerWords m y.cfg (if snapshot then 3 else 7) (8 * b.n))).ws
  (8 * b.n, ((h.reverse ++ b.ws.reverse)).map fun p => (8 * p.1, p.2))

/-- The bound on an image in bytes (R416). -/
def imageBound (rows cols : Nat) (turns : List Nat) : Nat :=
  2 ^ 20 + 5 * 2 ^ 20 * (rows * cols) + (turns.map fun s => 16 * s * s).foldl (· + ·) 0

/-- The header is one of an image of a tenant and a world, for a section of a shape; the bytes it counts (R376 step 1). -/
def headerGood (ws : Assoc Word) (tenant : Nat) (secure : Bool) (c : SecCfg) : Option Nat :=
  let f := fun (i hi lo : Nat) => bitsOf (ws.getD i 0).toNat hi lo
  let total := f 6 63 0
  if f 0 31 0 = 0x1A464358 ∧ f 0 47 32 = 1 ∧ f 0 63 48 = tenant ∧ f 1 0 0 = boolNat secure ∧ f 2 7 0 = c.rows ∧ f 2 15 8 = c.cols ∧
      total % 8 = 0 ∧ 1408 ≤ total ∧ total ≤ imageBound c.rows c.cols (c.routes.map Route.turn) then some total
  else none

/-- The quarter that an image was frozen in (R376 step 3). -/
def imageQuarter (ws : Assoc Word) : Nat := bitsOf (ws.getD 1 0).toNat 9 8

/-- An element configured as a record says (R168, R375). -/
def configured (y : Elem) (r : ElemRec) : Elem :=
  { y with cfg := r.cfg, slots := r.slots, desc := r.desc, trig := r.trig, k := Vector.ofFn fun i => r.k.getD i.val 0 }

/-- A unit with the section that an image holds (R375, R376 step 4); none where its records do not end where it does. -/
def imageInto (ws : Assoc Word) (total : Nat) (y : UnitSt) (snapshot : Bool) : Option UnitSt :=
  let start : Dec := { ws := ws, i := 8 }
  let c := start.config
  let cfg : SecCfg := { c.1 with tiles := y.cfg.tiles, window := y.cfg.window }
  let blank := { y with cfg := cfg, elems := y.elems.mapVals fun _ e => { e with slots := [], desc := [], trig := [], k := Vector.replicate 8 0 } }
  let y := cfg.elems.foldl (fun (y : UnitSt) r => let e := cfg.elemAt r.row r.col; y.setElem e (configured (y.elem e) r)) blank
  let es := List.range (64 * cfg.rows * cfg.cols)
  let elem := fun (a : UnitSt × Dec) (e : Nat) =>
    let r := a.2.elem (a.1.elem e)
    (if r.1 = a.1.elem e then a.1 else a.1.setElem e r.1, r.2)
  let chan := fun (a : UnitSt × Dec) (e : Nat) => (List.finRange 4).foldl (fun (a : UnitSt × Dec) (i : Fin 4) =>
    let r := a.2.chan
    let z := a.1.elem e
    (if r.1 = z.ins[i] then a.1 else a.1.setElem e { z with ins := z.ins.set i r.1 }, r.2)) a
  let route := fun (a : UnitSt × Dec) (i : Nat) =>
    let r := a.2.route (a.1.route i)
    (if r.1 = a.1.route i then a.1 else a.1.setRoute i r.1, r.2)
  let a := (y, c.2)
  let a := if snapshot then a
    else
      let a := es.foldl chan (es.foldl elem a)
      let a := (List.range cfg.routes.length).foldl route a
      (a.1, a.2.held)
  let tile := fun (a : (UnitSt × List Way × List (Assoc Word)) × Dec) (t : Nat) =>
    let r := a.2.tile y t
    let z := a.1.1
    ((if r.1 = z.tile t then z else z.setTile t r.1, a.1.2.1 ++ r.2.1, if z.cfg.role t = .cb then a.1.2.2 ++ [r.2.2.1] else a.1.2.2), r.2.2.2)
  let b := (List.range cfg.tileCount).foldl tile ((a.1, [], []), a.2)
  let z := b.1.1
  let z := if cfg.window then z else { z with cache := { z.cache with ways := b.1.2.1 } }
  let t := b.2.tables z b.1.2.2
  let port := fun (a : UnitSt × Dec) (n : Nat) =>
    let r := a.2.port (a.1.bindSt n)
    (if r.1 = a.1.bindSt n then a.1 else a.1.setBind n r.1, r.2)
  let p := if snapshot then t else (List.range 32).foldl port t
  if 8 * p.2.i = total then some p.1 else none

end Sys2Proof.Machine
end

