-- ==== Sys2Proof/Machine/Xlate.lean ====
section
/-! DEFINITION. Page tables, walks and translation caches, and the fault records of held work (R106, R358-R367,
R373). -/

namespace Sys2Proof.Machine

/-! ## One walk (R359-R361) -/

/-- The outcome of a translation: a page, or the cause, the detail code and the physical address of a fault, or a line of
a page table that the walk has still to fetch. -/
inductive Xlat where
  | page (p : Page)
  | fault (cause detail pa : Nat)
  | fetch (line : Nat)
  deriving DecidableEq, Repr

/-- Lines of page tables that a walk has fetched: the cause that failed the line, or 0 and its words. -/
abbrev Fetched := Assoc (Nat × List Word)

/-- What a request asks of a page: the tenant, its world, whether it writes, and whether host memory will do; and the rider,
item or copy that is translated. -/
structure Ask where
  tenant : Nat
  secure : Bool
  write : Bool
  host : Bool
  who : Nat
  deriving DecidableEq, Repr

/-- The detail code (R369). -/
def detailOf (level reason : Nat) : Nat := level + 8 * reason

/-- Bytes a block maps at a level (R359). -/
def blockSize (level : Nat) : Nat := 2 ^ (48 - 8 * level)

/-- The index of an address at a level (R359). -/
def vaIndex (va level : Nat) : Nat := va / blockSize level % 256

/-- Bytes that a window item reads or writes. -/
def Item.size (i : Item) : Nat :=
  match i.kind with
  | .mput n => n
  | .mget n _ => n
  | .fill => 64
  | .wb => 64
  | _ => 8

/-- The port that holds a physical address (R105). -/
def portAt (pa : Nat) : Nat := if targetOf pa = .deep then 12 else stackOf pa

/-- A table: in the translation store by number, or by physical address. -/
inductive Table where
  | store (n : Nat)
  | mem (pa : Nat)
  deriving DecidableEq, Repr

namespace State

/-- The ring of a sweep address is withdrawn (R384). -/
def ringLost (s : State) (ring : Nat) : Bool := (s.reg (0x0510 + ring / 64)).getLsbD (ring % 64)

/-- The physical address lies in a withdrawn ring. -/
def paLost (s : State) (pa : Nat) : Bool := decide (targetOf pa = .sweep) && s.ringLost (ringOf pa)

/-- A word of sweep or deep memory as a visit would find it: the base die's line cache before memory (R93, R104). -/
def sweepWord (s : State) (pa : Nat) : Word := s.sweep.lineCache.getD pa (Memory.word s.mem pa)

/-- Entry `i` of a table: outside the store a word of a line that the walk has fetched, or, where no walk of the machine's
agents reads it, of memory. -/
def ptEntry (s : State) (f : Option Fetched) (t : Table) (i : Nat) : Nat :=
  match t with
  | .store n => (s.store.getD (256 * n + i) 0).toNat
  | .mem pa =>
    match f with
    | none => (s.sweepWord (pa + 8 * i)).toNat
    | some m => ((m.getD ((pa + 8 * i) / 64 * 64) (0, [])).2.getD (i % 8) 0).toNat

/-- What keeps a walk from entry `i` of a table outside the store: no memory is there, its ring is withdrawn, its line could
not be fetched, or is still to be fetched (R18, R109, R363, R384). -/
def tableFault (s : State) (f : Option Fetched) (t : Table) (level i : Nat) : Option Xlat :=
  match t with
  | .store _ => none
  | .mem pa =>
    if targetOf pa ≠ .sweep ∧ targetOf pa ≠ .deep then some (.fault 0x0C (detailOf level 6) pa)
    else if s.paLost pa then some (.fault 0x0E 0 pa)
    else
      let line := (pa + 8 * i) / 64 * 64
      match f with
      | none => none
      | some m =>
        match m.get? line with
        | none => some (.fetch line)
        | some (cause, _) =>
          if cause = 0 then none else some (.fault cause 0 line)

/-- The run of 16 that an entry with contig set belongs to is whole (R361). -/
def runWhole (s : State) (f : Option Fetched) (t : Table) (i level : Nat) : Bool :=
  let m := i / 16 * 16
  let strip := fun (x : Nat) => x - bitsOf x 47 11 * 2 ^ 11
  (List.range 16).all fun j =>
    let x := s.ptEntry f t (m + j)
    bitsOf x 2 2 == 1 && strip x == strip (s.ptEntry f t m) &&
      bitsOf x 47 11 * 2 ^ 11 == bitsOf (s.ptEntry f t m) 47 11 * 2 ^ 11 + j * blockSize level

/-- The page of a block entry (R361). -/
def blockPage (s : State) (f : Option Fetched) (t : Table) (va i level x : Nat) : Page :=
  let run := bitsOf x 2 2 == 1
  let size := blockSize level * (if run then 16 else 1)
  let first := if run then s.ptEntry f t (i / 16 * 16) else x
  { va := va / size * size, size := size, pa := bitsOf first 47 11 * 2 ^ 11, read := bitsOf x 3 3 == 1
    write := bitsOf x 4 4 == 1, secure := bitsOf x 5 5 == 1, sealed := bitsOf x 6 6 == 1 }

/-- The levels of a walk from `level` on, at most `fuel` of them (R361). -/
def walkFrom (s : State) (f : Option Fetched) (va : Nat) : Nat → Nat → Table → Xlat
  | 0, level, _ => .fault 0x0A (detailOf level 3) 0
  | fuel + 1, level, t =>
    let i := vaIndex va level
    match s.tableFault f t level i with
    | some r => r
    | none =>
      let x := s.ptEntry f t i
      let bad := fun (r : Nat) => Xlat.fault 0x0A (detailOf level r) 0
      let contig := bitsOf x 2 2 == 1
      let addr := bitsOf x 47 11 * 2 ^ 11
      if bitsOf x 0 0 = 0 then bad 0
      else if bitsOf x 10 8 ≠ 0 ∨ bitsOf x 63 48 ≠ 0 then bad 1
      else if bitsOf x 1 1 = 1 then
        if bitsOf x 7 7 = 1 ∧ bitsOf x 47 23 ≠ 0 then bad 1
        else if contig then bad 1
        else if level = 4 then bad 3
        else s.walkFrom f va fuel (level + 1) (if bitsOf x 7 7 = 1 then .store (bitsOf x 22 11) else .mem addr)
      else if level ≠ 0 ∧ addr % blockSize level ≠ 0 then bad 1
      else if contig && level == 1 then bad 1
      else if level = 0 then bad 3
      else
        let run := if contig then (s.tableFault f t level (i / 16 * 16)).or (s.tableFault f t level (i / 16 * 16 + 8)) else none
        match run with
        | some r => r
        | none => if contig && !s.runWhole f t i level then bad 2 else .page (s.blockPage f t va i level x)

/-- The root register of a tenant's tables (R360). -/
def troot (s : State) (tenant : Nat) : Word := s.reg (0x3000 + tenant % 1024)

/-- A walk of the tables under a root (R360), with the lines it has fetched, or none where it reads memory as it stands. -/
def walkRoot (s : State) (f : Option Fetched) (w : Word) (va : Nat) : Xlat :=
  let root := w.toNat
  if bitsOf root 0 0 = 0 then .fault 0x0A (detailOf 0 0) 0
  else if bitsOf root 7 7 = 1 ∧ bitsOf root 47 23 ≠ 0 then .fault 0x0A (detailOf 0 1) 0
  else s.walkFrom f va 5 0 (if bitsOf root 7 7 = 1 then .store (bitsOf root 22 11) else .mem (bitsOf root 47 11 * 2 ^ 11))

/-- What a tenant's tables, as they stand, say of an address. -/
def walk (s : State) (tenant va : Nat) : Xlat := s.walkRoot none (s.troot tenant) va

/-- A walk for what is translated under `who`: one that waits for lines of tables goes on, under the root it began with (R360,
R363). -/
def walkFor (s : State) (who tenant va : Nat) : Xlat :=
  let new := s.walkRoot (some []) (s.troot tenant) va
  match s.sweep.fetched.get? who with
  | some k => if k.va = va then s.walkRoot (some k.lines) k.root va else new
  | none => new

/-- A walk of what is translated under `who` is over: the lines it fetched are given up. -/
def endWalk (s : State) (who : Nat) : State := { s with sweep := { s.sweep with fetched := s.sweep.fetched.erase who } }

/-- What a page grants a request, or the fault (R361, R106, R18). -/
def grant (s : State) (a : Ask) (va level : Nat) (p : Page) : Xlat :=
  let pa := p.pa + (va - p.va)
  if !p.read || (a.write && !p.write) then .fault 0x0B (detailOf level 4) 0
  else if p.secure && !a.secure then .fault 0x0B (detailOf level 5) 0
  else match targetOf pa with
    | .nothing => .fault 0x0C (detailOf level 6) pa
    | .host => if a.host then .page p else .fault 0x0C (detailOf level 6) pa
    | _ => if s.paLost pa then .fault 0x0E 0 pa else .page p

end State

/-- The level a page's block stands at. -/
def Page.level (p : Page) : Nat :=
  if 2 ^ 40 ≤ p.size then 1 else if 2 ^ 32 ≤ p.size then 2 else if 2 ^ 24 ≤ p.size then 3 else 4

/-- The page holds an address. -/
def Page.holds (p : Page) (va : Nat) : Bool := decide (p.va ≤ va) && decide (va < p.va + p.size)

/-- The page meets the range from `lo` up to `hi`. -/
def Page.meets (p : Page) (lo hi : Nat) : Bool := decide (p.va < hi) && decide (lo < p.va + p.size)

/-- The physical address of a virtual one that the page holds. -/
def Page.at_ (p : Page) (va : Nat) : Nat := p.pa + (va - p.va)

/-- The page of a list that holds an address. -/
def pageFor (ps : List Page) (va : Nat) : Option Page := ps.find? fun p => p.holds va

/-- Entries a translation cache holds: 8,192 at a port, 1,024 host pages at a copy engine (R106, R363). -/
def tcacheSize (agent : Nat) : Nat := if agent < 16 then 8192 else 1024

namespace State

/-- A translation at an agent: from its cache, else by a walk, whose page the cache then holds in place of the entry
used least recently, unless the walk faults (R106, R363, R410). A copy engine caches host pages only. -/
def translate (s : State) (agent : Nat) (a : Ask) (va : Nat) : State × Xlat :=
  let c := s.tcache.getD agent []
  let hit := fun (e : TlbEntry) => e.tenant == a.tenant && e.page.holds va
  match c.find? hit with
  | some e =>
    ({ s with tcache := s.tcache.set agent (e :: c.filter fun x => !hit x) }, s.grant a va e.page.level e.page)
  | none =>
    match s.walkFor a.who a.tenant va with
    | .page p =>
      (match s.grant a va p.level p with
       | .page p =>
         let s := s.endWalk a.who
         let keep := decide (agent < 16) || decide (targetOf p.pa = .host)
         (if keep then
            { s with tcache := s.tcache.set agent ((({ tenant := a.tenant, page := p } : TlbEntry) :: c).take (tcacheSize agent)) }
          else s, .page p)
       | f => (s, f))
    | f => (s, f)

/-- The pages of a span, in ascending order, or the first fault with its address (R88). -/
def translateSpan (agent : Nat) (a : Ask) (hi : Nat) : Nat → Nat → State → State × Except (Nat × Xlat) (List Page)
  | 0, _, s => (s, .ok [])
  | k + 1, va, s =>
    if hi ≤ va then (s, .ok [])
    else match s.translate agent a va with
      | (s, .page p) =>
        (match translateSpan agent a hi k (p.va + p.size) s with
         | (s, .ok ps) => (s, .ok (p :: ps))
         | r => r)
      | (s, f) => (s, .error (va, f))

/-- A span of bytes translated whole. -/
def spanPages (s : State) (agent : Nat) (a : Ask) (va len : Nat) : State × Except (Nat × Xlat) (List Page) :=
  translateSpan agent a (va + len) (len / 65536 + 2) va s

/-- The ring is in the quick class (R19, R325). -/
def ringQuick (s : State) (ring : Nat) : Bool := (s.reg (0x0108 + ring / 64)).getLsbD (ring % 64)

/-- The class is held by SWPC (R110). -/
def classHeld (s : State) (c : SweepClass) : Bool :=
  (s.reg 0x0106).getLsbD (match c with
    | .quick => 2
    | .steady => 3
    | .deep => 4)

/-- The class a physical address belongs to (R19). -/
def classAt (s : State) (pa : Nat) : SweepClass :=
  if targetOf pa = .deep then .deep else if s.ringQuick (ringOf pa) then .quick else .steady

/-- A walk waits for a line of a page table: a transport rider of one line is made ready for it in the class that holds it,
for the walking job's tenant. A port walks up to 16 translations at once (R106, R363, log 22). The root of the tables is read as
the walk begins (R360). -/
def fetchLine (s : State) (a : Ask) (u job port va line : Nat) : State :=
  let walking := fun (p : Nat × Rider) => match p.2.what with
    | .table who => some who
    | _ => none
  let on := s.sweep.riders.filter fun p => (walking p).isSome && p.2.port == port
  if on.any fun p => walking p == some a.who || decide (16 ≤ on.length) then s
  else
    let r : Rider := { u := u, e := 0, slot := 0, bind := 32, port := port, job := job, tenant := a.tenant, secure := a.secure
                       kind := .rd, op := 3, base := line, len := 1, doneB := 32, delivB := 32, tag := 0, aux3 := 0, aux16 := 0
                       par := [], phase := .ready, cls := s.classAt line, what := .table a.who
                       pages := [{ va := line, size := 64, pa := line, read := true, write := false, secure := a.secure, sealed := false }] }
    let begun : Walking := { va := va, root := s.troot a.tenant }
    let k := match s.sweep.fetched.get? a.who with
      | some w => if w.va = va then w else begun
      | none => begun
    { s with sweep := { s.sweep with riders := s.sweep.riders.set s.nextId r, fetched := s.sweep.fetched.set a.who k }
             nextId := s.nextId + 1 }

/-- The port whose window takes a request for an address: that of what the tables, as they stand, map it to (log 22). -/
def portOfVa (s : State) (tenant va : Nat) : Nat :=
  match s.walk tenant va with
  | .page p => portAt (p.at_ va)
  | _ => 0

/-- Causes with which no translation is held: a ring is withdrawn (R384), a tenant's carriage-steps are set to zero and a
table cannot be fetched (R339, log 22). -/
def finalCause (cause : Nat) : Bool := cause == 0x0E || cause == 0x12

/-! ## Held faults (R373) -/

/-- A kind 0 record is written and what it names is held under a new serial (R369, R373). -/
def holdFault (s : State) (r : FaultRec) (f : FaultSt) : State :=
  let n := s.nextSerial
  let s := s.putFault { r with kind := 0, serial := n, cause := f.cause, detail := f.detail, va := f.va, pa := f.pa }
  { s with faults := s.faults.set n f, nextSerial := n + 1 }

/-- The section of a unit whose work is held stands in a freeze image, and the held work with it: an element's
request or an item at a binding (R374). -/
def heldInImage (s : State) (f : FaultSt) : Bool :=
  let frozen := match s.unit? f.u with
    | some x => (match x.phase with
      | .frozen _ _ => true
      | _ => false)
    | none => false
  frozen && (match f.what with
    | .item _ => true
    | .carriage _ => true
    | _ => false)

/-- The element one of whose requests is no longer held fires again, unless a fault holds another (R269). -/
def freeElem (s : State) (u e : Nat) : State :=
  let other := (s.sweep.items.find? fun p => p.2.u == u && p.2.e == e && p.2.held.isSome).bind fun p => p.2.held
  s.modElem u e fun x => { x with heldBy := other }

/-- Action 0 on what a fault holds: it is translated again (R373). -/
def retryHeld (s : State) (what : Held) : State :=
  match what with
  | .rider id =>
    { s with sweep := { s.sweep with riders := s.sweep.riders.upd id fun r => { r with phase := .arrived, pages := [] } } }
  | .carriage _ => s
  | .item id =>
    match s.sweep.items.get? id with
    | none => s
    | some i =>
      ({ s with sweep := { s.sweep with items := s.sweep.items.upd id fun i => { i with held := none, pa := none } } }).freeElem i.u i.e
  | .copy q id =>
    let f := Fin.ofNat 4 q
    let e := s.copies[f]
    { s with copies := s.copies.set f { e with copies := e.copies.upd id fun c => { c with held := none } } }

/-- Action 1 on what a fault holds (R373): the element traps, and the cancel of its launch withdraws the held request
(R371); the rider is refused, the carriage stops accepting, the copy completes failed. -/
def unresolveHeld (s : State) (f : FaultSt) : State :=
  match f.what with
  | .rider id =>
    match s.sweep.riders.get? id with
    | none => s
    | some r => s.refuseRider id r f.cause
  | .carriage id =>
    match s.sweep.riders.get? id with
    | none => s
    | some r =>
      let r' := { r with closed := true, stopped := true, cause := f.cause, firstBad := some r.nextItem, heldItem := none }
      let s := { s with sweep := { s.sweep with riders := s.sweep.riders.set id r' } }
      s.modUnit r.u fun x => let b := x.bindSt r.bind; x.setBind r.bind { b with inq := (takeStream b.inq).2 }
  | .item id =>
    match s.sweep.items.get? id with
    | none => s
    | some i =>
      if (s.unit? i.u).isSome then (s.trap i.u i.e i.slot f.cause 0 f.va f.detail f.pa).freeElem i.u i.e
      else (s.dropItem id).putLoss (i.lossRec f.cause f.pa)
  | .copy q id =>
    let k := Fin.ofNat 4 q
    match (s.copies[k]).copies.get? id with
    | none => s
    | some c => s.finishCopy k id c (compTok 4 0 f.cause 0 c.sector c.tag)

/-- A write to FRES (R373): a serial that is not held is ignored; held work that stands in a freeze image waits for
the thaw (R374); where an element traps or work is lost, the write waits for a place for the record (R372). -/
def fres (s : State) (serial : Nat) (unresolvable : Bool) : State :=
  match s.faults.get? serial with
  | none => s
  | some f =>
    if s.heldInImage f then s.modUnit f.u fun x => { x with resolved := x.resolved ++ [(serial, unresolvable)] }
    else if unresolvable then
      let writes := match f.what with
        | .item _ => true
        | _ => false
      if writes && !s.canTrap f.u then s.modUnit f.u fun x => { x with resolved := x.resolved ++ [(serial, true)] }
      else { s.unresolveHeld f with faults := (s.unresolveHeld f).faults.erase serial }
    else { s.retryHeld f.what with faults := s.faults.erase serial }

end State

/-! ## TLBI (R350, R365) -/

/-- A range from a TLBI's address and length words: none where it runs past 2^56. -/
def tlbiRange (va lenWord : Nat) : Option (Nat × Nat) :=
  if bitsOf lenWord 63 63 = 1 then some (0, 2 ^ 56)
  else
    let lo := va % 2 ^ 56
    let hi := lo + bitsOf lenWord 39 0
    if 2 ^ 56 < hi then none else some (lo, hi)

namespace State

/-- The tenant of what is translated under a number. -/
def tenantOf (s : State) (who : Nat) : Option Nat :=
  match s.sweep.riders.get? who, s.sweep.items.get? who with
  | some r, _ => some r.tenant
  | none, some i => some i.tenant
  | none, none => (s.copies.toList.findSome? fun e => e.copies.get? who).map Copy.tenant

/-- Step 1: cached translations go; riders that have one and have not boarded, and walks under way, go back to translation
(R365). What an item holds stays in force until it is served (R364). -/
def tlbiDrop (s : State) (t lo hi : Nat) : State :=
  { s with
    tcache := s.tcache.mapVals fun _ l => l.filter fun e => !(e.tenant == t && e.page.meets lo hi)
    sweep := { s.sweep with
      riders := s.sweep.riders.mapVals fun _ r =>
        match r.what with
        | .table _ => if r.tenant = t then { r with stopped := true } else r
        | _ =>
          if r.tenant = t ∧ r.phase = .ready ∧ r.pages.any (fun p => p.meets lo hi) then { r with phase := .arrived, pages := [] }
          else r
      fetched := s.sweep.fetched.filter fun p => s.tenantOf p.1 != some t } }

/-- A TLBI begins (R365): its number. -/
def tlbiStart (s : State) (x : Tlbi) : State :=
  let s := s.tlbiDrop x.tenant x.lo x.hi
  { s with tlbis := s.tlbis.set s.nextId x, nextId := s.nextId + 1 }

/-- The result of a TLBI reaches its element's late result, or TLBS (R350, R358). -/
def tlbiResult (s : State) (x : Tlbi) (code : Nat) : State :=
  match x.late with
  | some id => s.modElem x.u x.e fun y => y.finishLate id (BitVec.ofNat 64 code) none 0 s.clk.cyc
  | none => s.setReg 0x0532 (BitVec.ofNat 64 (2 ^ 8 * code))

/-- Steps 2 and 3 have nothing left to wait for: a rider aboard counts by its span, a carriage, which its sender may keep open
as long as it likes, by the items it has accepted (R21, R365). -/
def tlbiClear (s : State) (x : Tlbi) : Bool :=
  !(s.sweep.riders.any fun p => p.2.tenant == x.tenant && p.2.phase == .aboard && (p.2.what == .packet || p.2.what == .window) &&
      p.2.kind != .gat && p.2.kind != .sca && decide (p.2.base < x.hi) && decide (x.lo < p.2.base + 64 * p.2.len)) &&
  !(s.sweep.items.any fun p => p.2.tenant == x.tenant && p.2.pa.isSome && p.2.held.isNone && decide (x.lo < p.2.va + p.2.size) && decide (p.2.va < x.hi)) &&
  !(s.copies.toList.any fun e => e.copies.any fun p => p.2.tenant == x.tenant && p.2.pages.any fun q => q.meets x.lo x.hi)

end State

/-- The lines of a section cache in a range: those dirty with their words, and the cache without any of them, their
pins dropped; its windows end where the range begins, and no line of it is on its way back (R365 step 4, R367). -/
def Cache.tlbi (c : Cache) (lo hi : Nat) : Cache × List (Nat × List (Nat × Word)) :=
  let inR := fun (line : Nat) => decide (lo < line + 64) && decide (line < hi)
  let lines := fun (w : Way) => ((List.range 4).filter fun i => w.valid.getLsbD i && inR (256 * w.sb + 64 * i))
  let dirty := (c.ways.map fun w => (Cache.dirtyLines w).filter fun l => inR l.1).flatten
  let gone := (c.ways.map fun w => (lines w).map fun i => 256 * w.sb + 64 * i).flatten
  let ways := c.ways.map fun w =>
    (lines w).foldl (fun (w : Way) i => { w with valid := w.valid &&& ~~~(1#4 <<< i), dirty := w.dirty &&& ~~~(1#4 <<< i) }) w
  let gap := c.fills.filter fun f => decide (lo < f.2.1 + 64) && decide (f.2.1 < hi)
  let win := fun (w : CbWin) =>
    if lo < w.head ∧ w.tail < hi then
      let head := max w.tail (lo / 64 * 64)
      { w with head := head, ext := none, data := w.data.filter (fun p => decide (8 * p.1 < head)), bad := w.bad.filter fun p => decide (p.1 < head) }
    else w
  ({ c with ways := ways.filter fun w => w.valid != 0
            fills := c.fills.filter fun f => !gap.any fun g => g.1 == f.1
            waits := c.waits.filter fun k => k.direct || !gap.any fun g => g.1 == k.item
            wins := c.wins.mapVals fun _ l => l.map win
            unpin := c.unpin ++ gone.filter fun l => c.pinned l }, dirty)

namespace State

/-- Step 4 in a section that runs: its write-backs are under way, and a line in the range that has left its row and has not come
back goes past the cache (R365, R367). -/
def tlbiUnit (s : State) (id u : Nat) (y : UnitSt) (x : Tlbi) (r : Cache × List (Nat × List (Nat × Word))) : State :=
  let first := s.nextId
  let s := (s.modUnit u fun y => { y with cache := r.1 }).sendLines u 0 0 false s.nextId r.2
  let s := { s with tlbis := s.tlbis.upd id fun t => { t with wbs := t.wbs ++ (List.range r.2.length).map fun i => first + i } }
  let late := y.cache.fills.filter fun f => decide (x.lo < f.2.1 + 64) && decide (f.2.1 < x.hi)
  late.foldl (fun t f =>
    let mine := y.cache.waits.filter fun w => w.item == f.1 && !w.direct
    mine.foldl (fun t w => t.pastCache u f.2.1 f.2.2 w) t) s

/-- Step 4 in every section of the tenant: the write-back items under way. A frozen section's image keeps the range in mind, so
that its lines are gone when it is thawed (R365, R367). -/
def tlbiFlush (s : State) (id : Nat) (x : Tlbi) : State :=
  let lone := fun (sec : Nat × Nat × Nat) (secure : Bool) (t : State) (l : Nat × List (Nat × Word)) =>
    let it : Item := { u := 0, e := 0, slot := 0, wave := false, kind := .wb, va := l.1, words := l.2, tenant := x.tenant
                       secure := secure, sec := sec }
    { t with sweep := { t.sweep with items := t.sweep.items.set t.nextId it }
             tlbis := t.tlbis.upd id fun y => { y with wbs := y.wbs ++ [t.nextId] }, nextId := t.nextId + 1 }
  let go := fun (t : State) (p : Nat × UnitSt) =>
    let r := p.2.cache.tlbi x.lo x.hi
    if p.2.tenant != x.tenant then t
    else match p.2.phase with
      | .running => t.tlbiUnit id p.1 p.2 x r
      | .draining => t.tlbiUnit id p.1 p.2 x r
      | .frozen _ _ =>
        r.2.foldl (lone (p.2.job, p.2.section_, p.2.replica) p.2.secure)
          (t.modUnit p.1 fun y => { y with cache := r.1, unmapped := y.unmapped ++ [(x.lo, x.hi)] })
      | _ => t
  let s := s.units.foldl go s
  let kept := fun (t : State) (r : Resident) =>
    if r.tenant = x.tenant then (r.cache.tlbi x.lo x.hi).2.foldl (lone (r.job, r.section_, r.replica) r.secure) t else t
  let s := s.residents.foldl kept s
  { s with
    residents := s.residents.map fun r => if r.tenant = x.tenant then { r with cache := (r.cache.tlbi x.lo x.hi).1 } else r
    tlbis := s.tlbis.upd id fun y => { y with wrote := true } }

/-- What a TLBI does when its waits have ended: first the write-backs, then, with them served, the result (R365). -/
def tlbiStep (s : State) (id : Nat) : State :=
  match s.tlbis.get? id with
  | none => s
  | some x =>
    if !x.wrote then (if s.tlbiClear x then s.tlbiFlush id x else s)
    else if x.wbs.any fun i => (s.sweep.items.get? i).isSome then s
    else { s.tlbiResult x 0 with tlbis := s.tlbis.erase id }

end State

end Sys2Proof.Machine
end

