-- ==== Sys2Proof/Machine/Freeze.lean ====
section
/-! DEFINITION. The management path; freezing a unit's section into an image, thawing and moving it, and what a snapshot
brings back (R94, R104, R313, R350, R374-R378, R381, R386, R411, R416). -/

namespace Sys2Proof.Machine

/-- The target of FRZ and THAW: job, section index, replica (R350), and the fields of R378. -/
structure FrzWord where
  job : Nat
  section_ : Nat
  replica : Nat
  move : Bool
  quarter : Option Nat
  deriving DecidableEq, Repr

/-- The source A word (R350, R378, R411). -/
def FrzWord.of (v : Nat) : FrzWord where
  job := bitsOf v 11 0
  section_ := bitsOf v 19 12
  replica := bitsOf v 25 20
  move := bitsOf v 26 26 == 1
  quarter := if bitsOf v 29 29 = 1 then some (bitsOf v 28 27) else none

/-- The unit is frozen. -/
def UnitSt.frozen (x : UnitSt) : Bool :=
  match x.phase with
  | .frozen _ _ => true
  | _ => false

namespace State

/-- The unit a word names that has not ended; among several the one that is placed or frozen. -/
def unitOf (s : State) (w : FrzWord) : Option (Nat × UnitSt) :=
  s.units.find? fun p => p.2.job == w.job && p.2.section_ == w.section_ && p.2.replica == w.replica && (p.2.placed || p.2.frozen)

/-! ## The freeze wave (R374) -/

/-- A known late result written where it goes; credit was taken when it was put under way (R224, R374 step 2). -/
def writeLate (x : UnitSt) (e : Nat) (l : Late) : UnitSt :=
  match l.tok with
  | none => x
  | some t =>
    let y := x.elem e
    let y := { y with fl := y.fl ||| l.fl }
    match l.dst with
    | .reg n =>
      let y := y.setG n t.payload t.tag
      x.setElem e (if l.last then y.pendG n false else y)
    | .out d => if l.send then (outsOf d).foldl (fun x o => x.send e o t) (x.setElem e y) else x.setElem e y
    | .none => x.setElem e y

/-- Every late result whose value is known is written (R374 step 2). -/
def settleLates (x : UnitSt) : UnitSt :=
  x.elems.foldl (fun x p =>
    let ready := p.2.late.filter fun l => l.tok.isSome
    let x := x.setElem p.1 { p.2 with late := p.2.late.filter fun l => l.tok.isNone }
    ready.foldl (fun x l => writeLate x p.1 l) x) x

/-- Requests under way reach their tiles, oldest first (R374 step 3). -/
def settleReqs (u : Nat) : Nat → State → State
  | 0, s => s
  | k + 1, s =>
    match s.unit? u with
    | none => s
    | some x => if x.reqs.isEmpty then s else settleReqs u k ((List.range x.reqs.length).foldl (fun t i => t.serveReq u i) s)

/-- An RD op 1 rider aboard for the section's tiles has not alighted (R374 step 4). -/
def tilesAwaited (s : State) (u : Nat) : Bool :=
  s.sweep.riders.any fun p => p.2.u == u && p.2.kind == .rd && p.2.op == 1 && p.2.phase == .aboard

/-- Requests of a frozen element are withdrawn from the exact units (R305). -/
def exactWithdraw (s : State) (u : Nat) : State :=
  { s with exact := s.exact.mapVals fun _ l => l.filter fun p => p.1 != u }

/-- On thaw, an instance that had reached stage C asks again (R305). -/
def exactAgain (s : State) (u : Nat) (x : UnitSt) : State :=
  x.elems.foldl (fun s p =>
    (p.2.win.filter fun g => g.stage == .inC).foldl (fun (s : State) _ =>
      let b := x.blockOf p.1
      { s with exact := s.exact.set b (s.exact.getD b [] ++ [(u, p.1, s.clk.cyc)]) }) s) s

/-- On thaw, the instances in stage B start it again, one behind the other, and the bricks are busy with nothing else
(R305). -/
def stageBAgain (now : Nat) (y : Elem) : Elem :=
  let one := fun (a : List GeoInst × Nat) (g : GeoInst) =>
    if g.stage = .inB then
      let out := a.2 + g.pred.cyclesB * escalated g.pred g.pts
      (a.1 ++ [{ g with due := out }], out)
    else (a.1 ++ [g], a.2)
  let r := y.win.foldl one ([], now)
  { y with win := r.1, brickBusy := if r.2 = now then 0 else r.2 }

/-- The wave has passed: late results written, requests at their tiles. -/
def stopSection (s : State) (u : Nat) : State :=
  let s := settleReqs u 65 s
  (s.modUnit u settleLates).exactWithdraw u

/-! ### The management path (R94, R313, R364) -/

/-- A request of the management path waits at its port to be translated and accepted, as part of request `man`. -/
def manItem (s : State) (man : Nat) (i : Item) : State :=
  { s with sweep := { s.sweep with items := s.sweep.items.set s.nextId { i with man := man } }, nextId := s.nextId + 1 }

/-- Some part of a management-path request has no stamp yet. -/
def unstamped (s : State) (man : Nat) : Bool := s.sweep.items.any fun p => p.2.man == man && p.2.stamp.isNone

/-- Some part of a management-path request has not been served. -/
def unserved (s : State) (man : Nat) : Bool := s.sweep.items.any fun p => p.2.man == man

/-- A part of a management-path request cannot be done: what of it is not accepted is given up, and whoever asked learns of
it. -/
def manFail (s : State) (man : Nat) : State :=
  { s with sweep := { s.sweep with
      items := s.sweep.items.filter fun p => !(p.2.man == man && p.2.pa.isNone)
      manBad := if s.sweep.manBad.contains man then s.sweep.manBad else s.sweep.manBad ++ [man] } }

/-- A management-path request has failed. -/
def manFailed (s : State) (man : Nat) : Bool := s.sweep.manBad.contains man

/-- Nothing is kept of a management-path request. -/
def manOver (s : State) (man : Nat) : State :=
  { s with sweep := { s.sweep with
      items := s.sweep.items.filter fun p => !(p.2.man == man && p.2.pa.isNone)
      reads := s.sweep.reads.erase man
      manBad := s.sweep.manBad.erase man } }

/-- An image is written for a unit's tenant to a virtual address of the deep tier: its words, and zero between them (R94,
R374, R379). -/
def writeImage (s : State) (x : UnitSt) (va : Nat) (im : Nat × List (Nat × Word)) : State × Nat :=
  let man := s.nextId
  ((s.bumpId).manItem man { u := 0, e := 0, slot := 0, wave := false, kind := .mput ((im.1 + 63) / 64 * 64), va := va, words := im.2
                            tenant := x.tenant, secure := x.secure, deepOnly := true, sec := (x.job, x.section_, x.replica) }, man)

/-- Bytes `off` up to `hi` of an image are read. -/
def readImage (s : State) (man : Nat) (r : ImgRead) (off hi : Nat) : State :=
  (s.manItem man { u := 0, e := 0, slot := 0, wave := false, kind := .mget ((hi + 63) / 64 * 64 - off) off, va := r.va + off
                   tenant := r.tenant, secure := r.secure, deepOnly := true })

/-- The reading of an image begins with its header (R376 step 1). -/
def beginRead (s : State) (r : ImgRead) : State :=
  let man := s.nextId
  let s := { s.bumpId with sweep := { s.sweep with reads := s.sweep.reads.set man { r with len := 64 } } }
  s.readImage man r 0 64

/-! ### The image (R375, R416) -/

/-- What the header of an image of a unit says. -/
def imgMeta (s : State) (x : UnitSt) : ImgMeta where
  tenant := x.tenant
  secure := x.secure
  job := x.job
  section_ := x.section_
  replica := x.replica
  quarter := x.nw / 64
  steps := [s.sweep.quick.step, s.sweep.steady.step, s.sweep.deep.step]

/-- Requests of a unit's elements that stand at ports, by element in issue order (R374). -/
def heldItems (s : State) (u : Nat) (x : UnitSt) : List (Nat × Item) :=
  ((List.range x.cfg.elemCount).map fun e => s.sweep.items.filter fun p => p.2.u == u && p.2.e == e && p.2.pa.isNone).flatten

/-- The result of a host freeze, thaw or move (R358). -/
def setSres (s : State) (code size : Nat) : State := s.setReg 0x0542 (BitVec.ofNat 64 (code + 2 ^ 32 * size))

/-- The outcome of a freeze, thaw or move reaches its element, or SRES (R350, R358). -/
def outcome (s : State) (who : Option (Nat × Nat × Nat)) (code size : Nat) : State :=
  match who with
  | some (u, e, id) => s.modElem u e fun y => y.finishLate id (BitVec.ofNat 64 (code + 2 ^ 32 * size)) none 0 s.clk.cyc
  | none => s.setSres code size

/-! ## Thawing (R376, R411) -/

/-- The half g4-g7 of a gated element is off where the quarter it stands in asks for that (R76). -/
def gateWanted (s : State) (q : Nat) (armed : Bool) : Gate :=
  let v := s.reg (0x0308 + q)
  if v.getLsbD 2 && decide (7 * thermPmax (s.tha q) < 8 * (s.power.pnow.getD q 0)) then (if armed then .retention else .off)
  else match v.toNat % 4 with
    | 1 => .retention
    | 2 => .off
    | _ => .on

/-- The upper half of an element off: its registers zero and absent (R76). -/
def halfOff (y : Elem) : Elem :=
  { y with gate := .off, g := Vector.ofFn fun i => if 4 ≤ i.val then {} else y.g[i] }

/-- The quarter a thaw must lie in: the one given, else, while the job holds an operand slot there, the one `src` that the image
was frozen in (R376 step 3, R411). -/
def thawQuarter (s : State) (job src : Nat) (given : Option Nat) : Option Nat :=
  match given with
  | some q => some q
  | none => if (List.range 512).any fun n => (s.slotOf src n).job == some job then some src else none

/-- The rectangle of a thaw. -/
def thawRect (s : State) (c : SecCfg) (secure : Bool) (job src : Nat) (given : Option Nat) : Option Rect :=
  match s.thawQuarter job src given with
  | some q => s.findRect c.rows c.cols secure q
  | none =>
    match [0, 1, 2, 3].filterMap fun q => s.findRect c.rows c.cols secure q with
    | [] => none
    | r :: rs => some (rs.foldl s.cooler r)

/-- The unit that traffic from another package is for: placed or frozen (R393). -/
def farUnit (s : State) (entry : Nat) : Option (Nat × UnitSt) :=
  s.units.find? fun p =>
    p.2.job == bitsOf entry 37 26 && p.2.section_ == bitsOf entry 19 12 && p.2.replica == bitsOf entry 25 20 && (p.2.placed || p.2.frozen)

/-- Messages held for a unit that is thawed wait for room from now on (R257, R393). -/
def renewArrivals (s : State) (u : Nat) : State :=
  { s with arrivals := s.arrivals.mapVals fun _ a => match s.farUnit a.entry.toNat with
      | some (v, _) => if v = u then { a with since := s.clk.cyc } else a
      | none => a }

/-- A frozen unit put on a rectangle: what its image holds, or what it held where none was read, goes on; lines that a TLBI has
unmapped meanwhile are gone (R367); tokens that waited at its bindings follow those of the image, resolutions recorded meanwhile
are acted on, and instances ask the exact unit again (R305, R374, R376). -/
def thawInto (s : State) (u : Nat) (k : Rect) (img : Option UnitSt) : State :=
  match s.unit? u with
  | none => s
  | some x =>
    let drain := match x.phase with
      | .frozen _ d => d
      | _ => false
    let s := s.evict x k
    let off := s.gateWanted (k.nw / 64) false == .off
    let z := img.getD x
    let y := { z with
      phase := if drain then .draining else .running
      nw := k.nw
      readout := none
      imaging := none
      resolved := []
      unmapped := []
      cache := if img.isSome then x.unmapped.foldl (fun c r => (c.tlbi r.1 r.2).1) z.cache else z.cache
      elems := z.elems.mapVals fun _ e =>
        let e := stageBAgain s.clk.cyc { e with starveAt := [], heldAt := none }
        if off && e.cfg.gated then halfOff e else e
      quietAt := s.clk.cyc
      flight := (List.range z.cfg.routes.length).foldl (fun f i =>
        match z.cfg.routes[i]? with
        | some r => match r.src with
          | .port n =>
            let w := (z.bindSt n).deliver.map Prod.snd
            if w.isEmpty then f else let st := Assoc.getD f i {}; Assoc.set f i { st with toks := st.toks ++ w }
          | _ => f
        | none => f) z.flight
      bind := z.bind.mapVals fun _ b => { b with deliver := [] } }
    let s := ((s.setUnit u y).exactAgain u y).renewArrivals u
    x.resolved.foldl (fun s r => s.fres r.1 r.2) s

/-! ### Reading out (R374 steps 4 and 5) -/

/-- A frozen unit whose riders aboard have written its tiles is read out: it goes into an image, or moves at once (R374, R375,
R378). -/
def readOut (s : State) (u : Nat) : State :=
  match s.unit? u with
  | none => s
  | some x =>
    match x.readout with
    | none => s
    | some r =>
      if !x.frozen then (s.modUnit u fun y => { y with readout := none }).outcome r.who 1 0
      else if s.tilesAwaited u then s
      else if r.move then
        let k := match r.quarter with
          | some q => s.findRect x.cfg.rows x.cfg.cols x.secure q
          | none => s.thawRect x.cfg x.secure x.job (x.nw / 64) none
        (match k with
         | some k => (s.thawInto u k none).outcome r.who 0 0
         | none => (s.thawInto u x.rect none).outcome r.who 3 0)
      else
        let im := imageOf (s.imgMeta x) x (s.heldItems u x) false
        let w := s.writeImage x r.image im
        w.1.modUnit u fun y => { y with readout := none, imaging := some (w.2, r.who, (im.1 + 65535) / 65536) }

/-- Freezes whose image has failed, or has its stamps: the unit is thawed where it was and the result is 3 (R416), or the blocks
are free and the result is 0 with the size (R94, R374). -/
def imageOut (s : State) (u : Nat) : State :=
  match s.unit? u with
  | none => s
  | some x =>
    match x.imaging with
    | none => s
    | some (man, who, k) =>
      if s.manFailed man then
        let t := (s.manOver man).modUnit u fun y => { y with imaging := none }
        (if x.frozen then t.thawInto u x.rect none else t).outcome who 3 0
      else if s.unstamped man then s
      else (s.modUnit u fun y => { y with imaging := none }).outcome who 0 k

/-! ### Images read back (R376, R381) -/

/-- An image cannot be used: the thaw reports 3; a section whose snapshot it was is left with tiles of zeros. -/
def readFailed (s : State) (man : Nat) (r : ImgRead) : State :=
  let s := s.manOver man
  match r.use with
  | .thaw _ _ who => s.outcome who 3 0
  | .rollback _ _ _ => s

/-- The header has been read and is good: the rest of the image is read. -/
def readRest (s : State) (man : Nat) (r : ImgRead) (total : Nat) : State :=
  let s := { s with sweep := { s.sweep with reads := s.sweep.reads.set man { r with len := total } } }
  s.readImage man r 64 total

/-- What a section is while no unit of it is armed. -/
def restedUnit (r : Resident) : UnitSt :=
  { job := r.job, tenant := r.tenant, secure := r.secure, priv := false, debug := false, launch := 0, section_ := r.section_
    replica := r.replica, serial := 0, args := [], tiles0 := 0, cfg := r.cfg, phase := .ended, quarter := 0 }

/-- A snapshot that has been read is put in place of what its section lost, on a rectangle chosen as for a thaw, where one is free
(R381). -/
def rollbackDone (s : State) (man : Nat) (r : ImgRead) (res : Resident) : State :=
  let s := s.manOver man
  match imageInto r.words r.len (restedUnit res) true with
  | none => s
  | some y =>
    let k := s.thawRect y.cfg res.secure res.job (imageQuarter r.words) none
    let new := { res with nw := k.map Rect.nw, mem := y.mem, bufs := y.bufs, cache := y.cache, elems := y.elems, cfg := y.cfg, restored := true }
    { s with residents := s.residents.map fun q =>
        if q.job == res.job && q.section_ == res.section_ && q.replica == res.replica then new else q }

/-- What follows once the part of an image that was asked for has been read: the header is checked, and a unit whose launch has
completed or that is not frozen is reported, before the rest is read (R376 steps 1 and 2). -/
def stepRead (s : State) (man : Nat) (r : ImgRead) : State :=
  if r.bad || s.manFailed man then s.readFailed man r
  else if s.unserved man then s
  else match r.use with
    | .thaw u _ who =>
      (match s.unit? u with
       | none => (s.manOver man).outcome who 1 0
       | some x =>
         match (if r.len = 64 then headerGood r.words x.tenant x.secure x.cfg else some r.len) with
         | none => s.readFailed man r
         | some total =>
           match x.phase with
           | .ended => (s.manOver man).outcome who 1 0
           | .frozen _ _ => if x.readout.isSome || x.imaging.isSome then (s.manOver man).outcome who 2 0
               else if r.len = 64 then s.readRest man r total else s
           | _ => (s.manOver man).outcome who 2 0)
    | .rollback j c p =>
      match s.residents.find? fun q => q.job == j && q.section_ == c && q.replica == p with
      | none => s.manOver man
      | some res =>
        if r.len = 64 then
          (match headerGood r.words res.tenant res.secure res.cfg with
           | none => s.readFailed man r
           | some total => s.readRest man r total)
        else s.rollbackDone man r res

/-- Freezes and readings go as far as nothing holds them. -/
def settleImages (s : State) : State :=
  let us := s.units.keys
  let s := us.foldl readOut s
  let s := us.foldl imageOut s
  s.sweep.reads.foldl (fun t p => match t.sweep.reads.get? p.1 with
    | some r => t.stepRead p.1 r
    | none => t) s

/-- A thaw whose image has been read is placed; a quarter that was asked for and has no room, or an image whose records do not end
where it does, is refused; where no quarter is asked for the thaw waits for room (R376, R411). -/
def placeThaw (s : State) (u : Nat) (x : UnitSt) : State :=
  let mine := fun (p : Nat × ImgRead) => p.2.len != 64 && !p.2.bad && !s.unserved p.1 && (match p.2.use with
    | .thaw v _ _ => v == u
    | .rollback _ _ _ => false)
  match s.sweep.reads.find? mine with
  | none => s
  | some (man, r) =>
    match r.use with
    | .rollback _ _ _ => s
    | .thaw _ q who =>
      match imageInto r.words r.len x false with
      | none => s.readFailed man r
      | some y =>
        match s.thawRect y.cfg x.secure x.job (imageQuarter r.words) q with
        | some k => ((s.manOver man).thawInto u k (some y)).outcome who 0 0
        | none => if q.isSome then s.readFailed man r else s

/-! ## FRZ, THAW and SCTL (R350, R358, R374, R376-R378, R386, R411) -/

/-- FRZ with move or without: the result code where it is known at once. The wave passes the section now; the readout and the
outcome, which `who` receives, come when nothing holds them. A unit whose drain ends in the same cycle has ended (R350, R374, R378,
R386). -/
def freezeOp (s : State) (w : FrzWord) (img : Nat) (own : Option Nat) (seesSecure : Bool) (who : Option (Nat × Nat × Nat)) :
    State × Option Nat × Flags :=
  match s.unitOf w with
  | none => (s, some 1, 0)
  | some (u, x) =>
    if x.secure && !seesSecure then (s, some 1, Flags.invalid)
    else if own = some u then (s, some 3, 0)
    else if x.frozen then (s, some 2, 0)
    else if x.phase == .draining && s.sectionDone u x then (s, some 1, 0)
    else
      let s := s.stopSection u
      (s.modUnit u fun y =>
        { y with phase := .frozen img (y.phase == .draining), readout := some { image := img, move := w.move, quarter := w.quarter, who := who } }, none, 0)

/-- THAW: the result code where it is known at once; else the image is read, and `who` receives the outcome (R350, R376,
R411). -/
def thawOp (s : State) (w : FrzWord) (img : Nat) (seesSecure : Bool) (who : Option (Nat × Nat × Nat)) :
    State × Option Nat × Flags :=
  match s.unitOf w with
  | none => (s, some 1, 0)
  | some (u, x) =>
    if x.secure && !seesSecure then (s, some 1, Flags.invalid)
    else (s.beginRead { tenant := x.tenant, secure := x.secure, va := img, len := 64, use := .thaw u w.quarter who }, none, 0)

end State

end Sys2Proof.Machine
end

