-- ==== Sys2Proof/Machine/Uses.lean ====
section
/-! DEFINITION. What each slot instruction uses: operands, destinations, how many beats it admits, bindings,
accumulators, ports and formats, from the form tables of the instruction chapters (R156-R160, R176, R177, R179, R212-R214, R248,
R249, R258, R260, R291, R347).  The picker's checks (R63, R64) and the loader's (R173, R174) read this table. -/

namespace Sys2Proof.Machine

/-- The beats a form admits: any N, N = 1 only, 16 or 32 (QENC). -/
inductive Beats where
  | any
  | one
  | qenc
  deriving DecidableEq, Repr

/-- The formats an instruction admits, by the row of its table. -/
inductive Adm where
  | none
  | every
  | bit
  | int
  | wide
  | narrow
  | geo
  | itof
  | mac
  | wld
  | scale
  | mxs
  | qn4
  | pack
  | unpk
  | rmax
  | cvt
  | bitmap
  deriving DecidableEq, Repr

/-- Palette entry `t` holds a format of the row (R179, R214, R258, R260, R292, R306). -/
def Adm.entry (m : Adm) (pal : Word) (t : Nat) : Bool :=
  match palFmt pal t with
  | Option.none => false
  | some f =>
    let wide := f.isWide
    match m with
    | .none => true
    | .every => true
    | .bit => f.isInt || f == .raw64 || f == .bitmap
    | .int => f.isInt
    | .wide => wide
    | .narrow => wide && f != .fp64
    | .geo => f == .fp64 || f == .fp32
    | .itof => f == .int64 || f == .int32 || f == .int16
    | .mac => !(f == .raw64 || f == .qn4 || f == .sign || f == .bitmap || f == .coord)
    | .wld => !(f == .raw64 || f == .sign || f == .bitmap || f == .coord)
    | .scale => f.float?.isSome || f == .mxint8
    | .mxs => palMx pal t
    | .qn4 => f == .qn4
    | .pack => f == .int64 || f == .int32 || f == .int16 || f == .int8 || f == .uint8
    | .unpk => f == .int32 || f == .int16 || f == .int8 || f == .uint8 || f == .int4 || f == .uint4
    | .rmax => wide || f.isInt
    | .cvt => !(f == .qn4 || f == .sign || f == .bitmap || f == .coord)
    | .bitmap => f == .bitmap

/-- Some palette entry holds a format of the row. -/
def Adm.some? (m : Adm) (pal : Word) : Bool := m == .none || (List.range 8).any (m.entry pal)

/-- The operand that names a memory-tile address. -/
inductive AddrOf where
  | a
  | b
  deriving DecidableEq, Repr

/-- What an instruction uses. -/
structure Use where
  t : Fin 64 := 0
  a : Opd := ⟨.z, false⟩
  b : Opd := ⟨.z, false⟩
  dst : Dst := .z
  /-- The destination register is read as well. -/
  readsDst : Bool := false
  /-- Source A names a pair, source B a quad of registers (R252). -/
  pair : Bool := false
  quad : Bool := false
  acc : Option (Fin 4) := none
  accR : Option (Fin 4) := none
  beats : Beats := .any
  priv : Bool := false
  bind : Option (Fin 32) := none
  kinds : List BindKind := []
  /-- Source A is a whole-burst input (R283). -/
  burst : Bool := false
  adm : Adm := .none
  port : Nat := 0
  /-- Its firings are memory events of the element (R122, R262). -/
  mem : Bool := false
  tile : Option AddrOf := none
  /-- PUSH and POP: the offset of their address is ignored (R256). -/
  fifo : Bool := false
  cache : Bool := false
  bricks : Bool := false
  geo : Bool := false
  /-- MRG and CMRG: they need a data head at one of their channels. -/
  merge : Bool := false
  /-- CMRG: it compares the heads of both, so that it waits for a token in each (R182, R309). -/
  both : Bool := false
  /-- Its port or engine may be unable to take it: the picker then does not fire it. -/
  dry : Bool := false
  deriving DecidableEq, Repr

/-- The outputs of MAC's feed form, and its accumulator (R213, R231). -/
def macOut : MacDst → Dst
  | .out o => .out o
  | .acc _ => .z
def macAcc : MacDst → Option (Fin 4)
  | .acc n => some n
  | .out _ => none

/-- The table. -/
def useOf : Instr → Use
  | .nop t a b => { t := t, a := a, b := b }
  | .mov t d a => { t := t, dst := d, a := a }
  | .movt t d a b => { t := t, dst := d, a := a, b := b }
  | .fork t d a b => { t := t, dst := .out d, a := a, b := b }
  | .sel t d a b => { t := t, dst := d, a := a, b := b }
  | .mrg t d a b => { t := t, dst := d, a := ⟨.ch a, false⟩, b := ⟨.ch b, false⟩, beats := .one, merge := true }
  | .split t d a b => { t := t, dst := .out d, a := a, b := b }
  | .drop t a => { t := t, a := ⟨a, false⟩ }
  | .mark t d a b => { t := t, dst := .out d, a := a, b := b }
  | .emit t d a b => { t := t, dst := .out d, a := a, b := b }
  | .tags t d a => { t := t, dst := d, a := a }
  | .pset t _ a b => { t := t, a := a, b := b }
  | .pclr t _ a b => { t := t, a := a, b := b }
  | .ctr t d a b => { t := t, dst := d, a := a, b := b, beats := .one }
  | .sig t _ a b => { t := t, a := a, b := b }
  | .halt t => { t := t, beats := .one }
  | .add t d a b _ => { t := t, dst := d, a := a, b := b, adm := .int }
  | .sub t d a b _ => { t := t, dst := d, a := a, b := b, adm := .int }
  | .adds t d a b _ => { t := t, dst := d, a := a, b := b, adm := .int }
  | .subs t d a b _ => { t := t, dst := d, a := a, b := b, adm := .int }
  | .mul t d a b _ => { t := t, dst := d, a := a, b := b, adm := .int }
  | .mulh t d a b _ => { t := t, dst := d, a := a, b := b, adm := .int }
  | .mulhu t d a b _ => { t := t, dst := d, a := a, b := b, adm := .int }
  | .mad t d a b _ => { t := t, dst := .g d, a := a, b := b, adm := .int, readsDst := true }
  | .neg t d a => { t := t, dst := d, a := a, adm := .int }
  | .abs t d a => { t := t, dst := d, a := a, adm := .int }
  | .min t d a b _ => { t := t, dst := d, a := a, b := b, adm := .int }
  | .max t d a b _ => { t := t, dst := d, a := a, b := b, adm := .int }
  | .minu t d a b _ => { t := t, dst := d, a := a, b := b, adm := .int }
  | .maxu t d a b _ => { t := t, dst := d, a := a, b := b, adm := .int }
  | .and t d a b _ => { t := t, dst := d, a := a, b := b, adm := .bit }
  | .or t d a b _ => { t := t, dst := d, a := a, b := b, adm := .bit }
  | .xor t d a b _ => { t := t, dst := d, a := a, b := b, adm := .bit }
  | .shl t d a b _ => { t := t, dst := d, a := a, b := b, adm := .int }
  | .shr t d a b _ => { t := t, dst := d, a := a, b := b, adm := .int }
  | .sar t d a b _ => { t := t, dst := d, a := a, b := b, adm := .int }
  | .rot t d a b _ => { t := t, dst := d, a := a, b := b, adm := .int }
  | .clz t d a => { t := t, dst := d, a := a, adm := .bit }
  | .popc t d a => { t := t, dst := d, a := a, adm := .bit }
  | .bfx t d a b => { t := t, dst := d, a := a, b := b, adm := .int }
  | .idx t d a b => { t := t, dst := d, a := a, b := b, adm := .int }
  | .satn t d a b => { t := t, dst := d, a := a, b := b, adm := .int }
  | .cmpeq t _ a b _ => { t := t, a := a, b := b, adm := .bit }
  | .cmpne t _ a b _ => { t := t, a := a, b := b, adm := .bit }
  | .cmplt t _ a b _ => { t := t, a := a, b := b, adm := .int }
  | .cmple t _ a b _ => { t := t, a := a, b := b, adm := .int }
  | .cmpltu t _ a b _ => { t := t, a := a, b := b, adm := .int }
  | .cmpleu t _ a b _ => { t := t, a := a, b := b, adm := .int }
  | .fadd t d a b _ => { t := t, dst := d, a := a, b := b, adm := .wide }
  | .fsub t d a b _ => { t := t, dst := d, a := a, b := b, adm := .wide }
  | .fmul t d a b _ => { t := t, dst := d, a := a, b := b, adm := .wide }
  | .ffma t d a b _ => { t := t, dst := .g d, a := a, b := b, adm := .wide, readsDst := true }
  | .ffms t d a b _ => { t := t, dst := .g d, a := a, b := b, adm := .wide, readsDst := true }
  | .fmin t d a b _ => { t := t, dst := d, a := a, b := b, adm := .wide }
  | .fmax t d a b _ => { t := t, dst := d, a := a, b := b, adm := .wide }
  | .fabs t d a => { t := t, dst := d, a := a, adm := .wide }
  | .fneg t d a => { t := t, dst := d, a := a, adm := .wide }
  | .fcls t d a => { t := t, dst := d, a := a, adm := .wide }
  | .fscl t d a b _ => { t := t, dst := d, a := a, b := b, adm := .wide }
  | .ffrc t d a => { t := t, dst := d, a := a, adm := .wide }
  | .fcmpeq t _ a b _ => { t := t, a := a, b := b, adm := .wide }
  | .fcmplt t _ a b _ => { t := t, a := a, b := b, adm := .wide }
  | .fcmple t _ a b _ => { t := t, a := a, b := b, adm := .wide }
  | .fcmpun t _ a b _ => { t := t, a := a, b := b, adm := .wide }
  | .frcp t d a => { t := t, dst := d, a := a, adm := .narrow }
  | .frsq t d a => { t := t, dst := d, a := a, adm := .narrow }
  | .fsqrt t d a => { t := t, dst := d, a := a, adm := .wide }
  | .fdiv t d a b _ => { t := t, dst := d, a := a, b := b, adm := .wide }
  | .fexp2 t d a => { t := t, dst := d, a := a, adm := .narrow }
  | .flog2 t d a => { t := t, dst := d, a := a, adm := .narrow }
  | .fsin t d a => { t := t, dst := d, a := a, adm := .narrow }
  | .fcos t d a => { t := t, dst := d, a := a, adm := .narrow }
  | .ftanh t d a => { t := t, dst := d, a := a, adm := .narrow }
  | .frnd t d a => { t := t, dst := d, a := a, adm := .wide }
  | .ftoi t d a b => { t := t, dst := d, a := a, b := b, adm := .wide }
  | .itof t d a b => { t := t, dst := d, a := a, b := b, adm := .itof }
  | .mac t d a _ _ => { t := t, dst := macOut d, acc := macAcc d, a := a, adm := .mac, bricks := true }
  | .macn t d a _ _ => { t := t, acc := some d, a := a, adm := .mac, bricks := true }
  | .macz t d a _ _ => { t := t, acc := some d, a := a, adm := .mac, bricks := true }
  | .wld t a b => { t := t, a := a, b := b, adm := .wld, bricks := true }
  | .acrd t d a b _ => { t := t, dst := d, accR := some a, b := b }
  | .acclr t d => { t := t, acc := some d, beats := .one }
  | .acmv t d a => { t := t, acc := some d, accR := some a, beats := .one }
  | .cvt t d a b _ => { t := t, dst := d, a := a, b := b, adm := .cvt }
  | .qdec t d a b => { t := t, dst := d, a := a, b := b, adm := .qn4 }
  | .qenc t d a b _ => { t := t, dst := .out d, a := a, b := b, beats := .qenc, adm := .narrow }
  | .mxs t d a pk => { t := t, dst := d, a := ⟨.ch a, pk⟩, adm := .mxs }
  | .pack t d a b => { t := t, dst := d, a := a, b := b, adm := .pack }
  | .unpk t d a b => { t := t, dst := d, a := a, b := b, adm := .unpk }
  | .shfl t d a b => { t := t, dst := d, a := a, b := b, adm := .every }
  | .bcst t d a b => { t := t, dst := d, a := a, b := b, adm := .every }
  | .rmax t d a => { t := t, dst := d, a := a, adm := .rmax }
  | .rsum t d a => { t := t, dst := d, a := a, adm := .wide }
  | .rsex t d a => { t := t, dst := .g d, a := a, adm := .narrow }
  | .scale t d a b => { t := t, dst := d, a := a, b := b, adm := .scale }
  | .ld t d a => { t := t, dst := d, a := a, tile := some .a, mem := true }
  | .st t d a b => { t := t, port := d.val, a := a, b := b, tile := some .a, mem := true }
  | .lds t d a => { t := t, dst := d, a := a, tile := some .a, mem := true }
  | .lde t d a => { t := t, dst := d, a := a, tile := some .a, mem := true }
  | .stf t d a b => { t := t, port := d.val, a := a, b := b, tile := some .a, mem := true }
  | .ste t d a b => { t := t, port := d.val, a := a, b := b, tile := some .a, mem := true }
  | .push t d a b => { t := t, port := d.val, a := a, b := b, tile := some .a, fifo := true, mem := true }
  | .pop t d a => { t := t, dst := d, a := a, tile := some .a, fifo := true, mem := true }
  | .amoadd t d a b => { t := t, dst := d, a := a, b := b, adm := .int, tile := some .a, mem := true }
  | .amomin t d a b => { t := t, dst := d, a := a, b := b, adm := .int, tile := some .a, mem := true }
  | .amomax t d a b => { t := t, dst := d, a := a, b := b, adm := .int, tile := some .a, mem := true }
  | .amoand t d a b => { t := t, dst := d, a := a, b := b, adm := .every, tile := some .a, mem := true }
  | .amoor t d a b => { t := t, dst := d, a := a, b := b, adm := .every, tile := some .a, mem := true }
  | .amoxor t d a b => { t := t, dst := d, a := a, b := b, adm := .every, tile := some .a, mem := true }
  | .amoswp t d a b => { t := t, dst := d, a := a, b := b, adm := .every, tile := some .a, mem := true }
  | .amocas t d a b => { t := t, dst := .g d, a := a, b := b, adm := .every, tile := some .a, mem := true, readsDst := true }
  | .famoadd t d a b => { t := t, dst := d, a := a, b := b, adm := .wide, tile := some .a, mem := true }
  | .famomin t d a b => { t := t, dst := d, a := a, b := b, adm := .wide, tile := some .a, mem := true }
  | .famomax t d a b => { t := t, dst := d, a := a, b := b, adm := .wide, tile := some .a, mem := true }
  | .bufq t d a => { t := t, dst := d, a := a, beats := .one }
  | .bufset t a b => { t := t, a := a, b := b, beats := .one }
  | .fence t _ => { t := t, beats := .one }
  | .ldc t d a _ => { t := t, dst := d, a := a, cache := true, mem := true }
  | .stc t d a b _ => { t := t, port := d.val, a := a, b := b, cache := true, mem := true }
  | .cinv t a b => { t := t, a := a, b := b, beats := .one, cache := true, mem := true }
  | .cwb t a b => { t := t, a := a, b := b, beats := .one, cache := true, mem := true }
  | .chold t a b => { t := t, a := a, b := b, beats := .one }
  | .cfree t a => { t := t, a := a, beats := .one }
  | .ldw t d a => { t := t, dst := d, a := a, mem := true }
  | .brdRd t n a b => { t := t, bind := some n, a := ⟨a, false⟩, b := ⟨b, false⟩, beats := .one, kinds := [.sweep, .deep], dry := true, mem := true, pair := true, quad := true }
  | .brdFl t n a b => { t := t, bind := some n, a := ⟨a, false⟩, b := ⟨b, false⟩, beats := .one, kinds := [.sweep, .deep], dry := true, mem := true, pair := true, quad := true }
  | .brdRed t n a b => { t := t, bind := some n, a := ⟨a, false⟩, b := ⟨b, false⟩, beats := .one, kinds := [.sweep, .deep], dry := true, mem := true, pair := true, quad := true }
  | .brdUpd t n a b => { t := t, bind := some n, a := ⟨a, false⟩, b := ⟨b, false⟩, beats := .one, kinds := [.sweep, .deep], dry := true, mem := true, pair := true, quad := true }
  | .brdGat t n a b => { t := t, bind := some n, a := ⟨a, false⟩, b := ⟨b, false⟩, beats := .one, kinds := [.sweep, .deep], dry := true, mem := true, pair := true, quad := true }
  | .brdSca t n a b => { t := t, bind := some n, a := ⟨a, false⟩, b := ⟨b, false⟩, beats := .one, kinds := [.sweep, .deep], dry := true, mem := true, pair := true, quad := true }
  | .brdLut t n a b => { t := t, bind := some n, a := ⟨a, false⟩, b := ⟨b, false⟩, beats := .one, kinds := [.sweep, .deep], dry := true, mem := true, pair := true, quad := true }
  | .tblb t n a b => { t := t, bind := some n, a := ⟨a, false⟩, b := ⟨b, false⟩, beats := .one, kinds := [.sweep], dry := true, tile := some .b, mem := true, pair := true }
  | .ridq t n a => { t := t, bind := some n, a := ⟨a, false⟩, beats := .one, kinds := [.sweep, .deep] }
  | .rcan t n a => { t := t, bind := some n, a := ⟨a, false⟩, beats := .one, kinds := [.sweep, .deep] }
  | .claim t d => { t := t, dst := d, beats := .one }
  | .rlse t a => { t := t, a := ⟨a, false⟩, beats := .one }
  | .slq t d a => { t := t, dst := d, a := ⟨a, false⟩, beats := .one }
  | .cpy t n a b => { t := t, bind := some n, a := ⟨a, false⟩, b := ⟨b, false⟩, beats := .one, kinds := [.copy], dry := true, mem := true, pair := true }
  | .coll t n a b => { t := t, bind := some n, a := ⟨a, false⟩, b := ⟨b, false⟩, beats := .one, kinds := [.coll], dry := true, mem := true, pair := true }
  | .port t n a => { t := t, bind := some n, a := a, kinds := [.host, .sweep, .deep, .seq, .slot], dry := true, mem := true }
  | .wrem t n a b _ => { t := t, bind := some n, a := a, b := b, kinds := [.remote], dry := true, mem := true }
  | .sndm t n a b => { t := t, bind := some n, a := ⟨.ch a, false⟩, b := ⟨b, false⟩, beats := .one, kinds := [.remote], dry := true, mem := true, burst := true }
  | .drn t n a => { t := t, bind := some n, a := ⟨a, false⟩, beats := .one, kinds := [.host, .sweep, .deep, .copy, .coll, .remote, .seq, .slot], mem := true }
  | .cnti t => { t := t }
  | .ori2 t d a _ _ => { t := t, dst := .out d, a := ⟨.ch a, false⟩, adm := .geo, bricks := true, geo := true }
  | .ori2s t d a _ _ => { t := t, dst := .out d, a := ⟨.ch a, false⟩, adm := .geo, bricks := true, geo := true }
  | .ori3 t d a _ _ => { t := t, dst := .out d, a := ⟨.ch a, false⟩, adm := .geo, bricks := true, geo := true }
  | .ori3s t d a _ _ => { t := t, dst := .out d, a := ⟨.ch a, false⟩, adm := .geo, bricks := true, geo := true }
  | .incr t d a _ _ => { t := t, dst := .out d, a := ⟨.ch a, false⟩, adm := .geo, bricks := true, geo := true }
  | .incrs t d a _ _ => { t := t, dst := .out d, a := ⟨.ch a, false⟩, adm := .geo, bricks := true, geo := true }
  | .insp t d a _ _ => { t := t, dst := .out d, a := ⟨.ch a, false⟩, adm := .geo, bricks := true, geo := true }
  | .insps t d a _ _ => { t := t, dst := .out d, a := ⟨.ch a, false⟩, adm := .geo, bricks := true, geo := true }
  | .segx t d a _ _ => { t := t, dst := .out d, a := ⟨.ch a, false⟩, adm := .geo, bricks := true, geo := true }
  | .segxs t d a _ _ => { t := t, dst := .out d, a := ⟨.ch a, false⟩, adm := .geo, bricks := true, geo := true }
  | .band t d a b => { t := t, dst := d, a := a, b := b, adm := .bitmap }
  | .bpos t d a b => { t := t, dst := d, a := a, b := b }
  | .ccmp t _ a b => { t := t, a := a, b := b }
  | .cmrg t d a b => { t := t, dst := d, a := ⟨.ch a, false⟩, b := ⟨.ch b, false⟩, beats := .one, merge := true, both := true }
  | .cset t d a b => { t := t, dst := d, a := a, b := b }
  | .cget t d a b => { t := t, dst := d, a := a, b := b }
  | .rte t d a b => { t := t, dst := .out d, a := a, b := b }
  | .trap t a => { t := t, a := a, beats := .one }
  | .brk t => { t := t, beats := .one }
  | .csrr t d a => { t := t, dst := d, a := a, beats := .one }
  | .csrw t a b => { t := t, a := a, b := b, beats := .one, priv := true }
  | .frz t d a b => { t := t, dst := d, a := a, b := b, beats := .one, priv := true, dry := true }
  | .thaw t d a b => { t := t, dst := d, a := a, b := b, beats := .one, priv := true, dry := true }
  | .snap t d a => { t := t, dst := d, a := a, beats := .one }
  | .tlbi t d a b => { t := t, dst := d, a := a, b := b, beats := .one, priv := true }
  | .cfgw t d a b => { t := t, dst := d, a := a, b := b, beats := .one, priv := true, dry := true }
  | .canc t d a => { t := t, dst := d, a := a, beats := .one, dry := true }
  | .perf t d a => { t := t, dst := d, a := a, beats := .one }
  | .time t d a => { t := t, dst := d, a := a, beats := .one }
  | .idle t a => { t := t, a := a, beats := .one }
  | .attn t a => { t := t, a := a, beats := .one, dry := true }
  | .log t a b => { t := t, a := a, b := b, beats := .one }
  | .peekContinueIdleWake _ _ => {}
  | .breakpointResume _ _ => {}
  | .queueRecordArrival _ _ => {}
  | .queueArbiterTake => {}
  | .hostOpen => {}
  | .hostLoad _ => {}
  | .hostPhase => {}
  | .hostRun => {}
  | .hostWait => {}
  | .hostSignal => {}
  | .hostCancel => {}
  | .hostClose => {}
  | .queueClosed _ => {}
  | .queueWaitRelease _ => {}
  | .ringReadIndexWrite _ _ _ => {}
  | .nodeArm _ => {}
  | .nodeWait _ => {}
  | .nodeWaitRelease _ => {}
  | .nodeSignal _ => {}
  | .nodeLoop _ => {}
  | .nodeEnd _ => {}
  | .unitPlacement _ => {}
  | .sectionRotation _ => {}
  | .tileCountExpiry _ => {}
  | .elementDrainPass _ _ => {}
  | .cycleDrainInject _ _ _ => {}
  | .portDrainPass _ _ => {}
  | .unitEnd _ => {}
  | .launchComplete _ => {}
  | .graphComplete _ => {}
  | .phaseComplete _ => {}
  | .jobComplete _ => {}
  | .slotZeroComplete _ _ => {}
  | .watchdogExpiry _ => {}
  | .starveBitSet _ _ _ => {}
  | .configTokenConsume _ _ _ => {}
  | .pulseArrival _ _ => {}
  | .ingressToken _ _ _ => {}
  | .channelTokenArrival _ _ => {}
  | .lateResultWrite _ _ _ => {}
  | .feWaitComplete _ _ _ => {}
  | .guardPoisonReturn _ => {}
  | .stageBResult _ _ _ => {}
  | .exactUnitResult _ => {}
  | .predicateResultSend _ _ => {}
  | .systolicTokenProcess _ _ => {}
  | .southEdgeAdd _ _ => {}
  | .cornerTurnEmit _ _ => {}
  | .slotStreamRequest _ _ => {}
  | .bufferDeliveryComplete _ _ => {}
  | .cacheFillReturn _ _ => {}
  | .cacheWalkEnd _ _ => {}
  | .windowExtend _ _ => {}
  | .riderPacketCheck _ _ => {}
  | .riderTranslate _ => {}
  | .translationWalk _ => {}
  | .stepBoundary _ => {}
  | .riderAlight _ => {}
  | .itemAccept _ _ => {}
  | .carriageClose _ => {}
  | .budgetWindowBoundary => {}
  | .classStop _ => {}
  | .idlePause _ => {}
  | .classResume _ => {}
  | .ringClassChange _ => {}
  | .copyStart _ => {}
  | .copyComplete _ => {}
  | .collectiveComplete _ => {}
  | .collectiveMemberTimeout _ => {}
  | .remoteWriteArrival _ => {}
  | .remoteAckTimeout _ => {}
  | .messageArrival _ => {}
  | .messageHoldExpiry _ => {}
  | .drnCompletion _ _ => {}
  | .ingressBucketPass _ => {}
  | .bucketRateRecompute => {}
  | .gateStateChange _ _ => {}
  | .gateWrite _ _ => {}
  | .rclq _ => {}
  | .swpcWrite _ => {}
  | .bwldWrite _ _ => {}
  | .fresRetry _ => {}
  | .fresUnresolvable _ => {}
  | .hostTlbi _ => {}
  | .tlbiComplete _ => {}
  | .sctlFreeze _ => {}
  | .sctlThaw _ => {}
  | .sctlMove _ => {}
  | .translationStoreWrite _ _ _ => {}
  | .logdRead => {}
  | .hrefRead => {}
  | .fdropRead => {}
  | .registerWrite _ _ => {}
  | .soctlWrite _ _ => {}
  | .attestationReport => {}
  | .bootc _ => {}
  | .hostLinkTrain => {}
  | .hostLinkDown => {}
  | .scaleoutPortTrain _ => {}
  | .ethFrameSend _ => {}
  | .ethFrameReceive _ _ => {}
  | .powerGood => {}
  | .bootStateAdvance => {}
  | .bankFailure _ => {}
  | .regionFailure _ => {}
  | .remoteAcknowledgement _ => {}
  | .scaleoutLinkDown _ => {}
  | .elementStatusIdleSet _ _ => {}
  | .powerLoss => {}

end Sys2Proof.Machine
end

