-- ==== Sys2Proof/Machine/Holds.lean ====
section
/-! DEFINITION. When a trigger holds, when a rule's resources are free, when the wave counter admits it (R63, R64, R67,
R71, R122, R134, R182, R224, R251, R253, R262, R265, R305, R309). -/

namespace Sys2Proof.Machine

/-! ## The trigger (R63) -/

/-- The condition of an entry on channel `k`. -/
def condHolds (x : Elem) (w : BitVec 64) (k : Fin 4) : Bool :=
  let v := x.visible k
  let n := Trig.n w
  let first := v.take n
  let head := fun (p : Token → Bool) => match v.head? with
    | some t => p t
    | none => false
  match Trig.cond w k.val with
  | 0 => true
  | 1 => first.length == n && first.all Token.isData
  | 2 => head fun t => !t.isData
  | 3 => head Token.isEos
  | 4 => head Token.isHead
  | 5 => head Token.isTail
  | 6 => head Token.isDrain
  | _ => first.length == n && first.all fun t => t.isData && t.tag == Trig.tag w

/-- Predicates, registers and control inputs of an entry. -/
def maskHolds (x : Elem) (w : BitVec 64) : Bool :=
  ((List.range 8).all fun j => !(Trig.pmask w).getLsbD j || x.pred j == (Trig.pval w).getLsbD j) &&
  ((List.finRange 8).all fun j => !(Trig.rmask w).getLsbD j || (x.g[j].present && !x.g[j].pending)) &&
  ((List.finRange 4).all fun j => !(Trig.cmask w).getLsbD j || decide (0 < x.ctl[j]))

/-- The address operand at beat `b`, as it stands in the channel or register. -/
def addrAt (x : Elem) (u : Use) (w : AddrOf) (b : Nat) : Nat :=
  let src := match w with
    | .a => u.a
    | .b => u.b
  let other := match w with
    | .a => u.b
    | .b => u.a
  let tokOf := fun (o : Opd) => o.src.chan?.bind fun c => (x.visible c)[if o.peek then 0 else b]?
  let cx := match tokOf src with
    | some t => t.coord
    | none => match tokOf other with
      | some t => t.coord
      | none => 0
  match src.src, tokOf src with
  | .ch _, some t => (OpVal.ofTok t).bits.toNat
  | .ch _, none => 0
  | .bt, _ => b
  | .cx, _ => cx.toNat
  | s, _ => (x.readReg s).bits.toNat

/-- The memory-tile addresses a rule names, one for each beat (R251). -/
def addrsOf (x : Elem) (u : Use) (n : Nat) : List Nat :=
  match u.tile with
  | none => []
  | some w => (List.range n).map fun b => addrAt x u w b % 2 ^ 32

/-- Every buffer the rule names in buffer form is ready; an address that names no valid entry is left to the firing,
which traps (R63, R111). -/
def buffersReady (x : UnitSt) (e : Nat) (u : Use) (n : Nat) : Bool :=
  (addrsOf (x.elem e) u n).all fun a => match bufOf a with
    | none => true
    | some b => !((x.cfg.bufs[b]?).getD {}).valid || (x.buf b).phase == .ready

/-- The space condition (R63). -/
def spaceHolds (x : UnitSt) (e : Nat) (u : Use) (w : BitVec 64) : Bool :=
  let k := Trig.space w
  let reg := match u.dst with
    | .g n => let r := (x.elem e).g[n]; !r.present && !r.pending
    | _ => true
  (k % 2 == 0 || reg) && (k / 2 == 0 || u.dst.outs.all fun o => x.credit e o (Trig.n w))

/-- The entry holds for a rule (R63). -/
def holds (x : UnitSt) (e : Nat) (u : Use) (w : BitVec 64) : Bool :=
  let y := x.elem e
  maskHolds y w && ((List.finRange 4).all fun k => condHolds y w k) && spaceHolds x e u w && buffersReady x e u (Trig.n w)

/-! ## Resources (R64) -/

/-- Registers a rule reads: its operands, the rest of a pair or quad, a destination that is read. -/
def readRegs (u : Use) : List (Fin 8) :=
  let run := fun (s : Src) (k : Nat) => match s.reg? with
    | some n => (List.range k).map fun i => reg8 n i
    | none => []
  run u.a.src (if u.pair then 2 else 1) ++ run u.b.src (if u.quad then 4 else 1)

/-- No register that the rule reads or writes is pending (R67, R224). -/
def regsFree (x : Elem) (u : Use) : Bool :=
  (readRegs u).all (fun n => !x.g[n].pending) &&
  match u.dst with
  | .g n => !x.g[n].pending
  | _ => true

/-- No earlier late result is still to leave on an output that the rule writes, and, unless the rule is a predicate,
no instance of the reorder window is (R224, R305). -/
def outsFree (x : Elem) (u : Use) : Bool :=
  u.dst.outs.all fun o =>
    !(x.late.any fun l => match l.dst with
      | .out d => (outsOf d).contains o
      | _ => false) &&
    (u.geo || !(x.win.any fun g => (outsOf g.dst).contains o))

/-- An accumulator that the rule writes, and the one that it copies there, is not being read by a pending ACRD (R64,
R236). -/
def accFree (x : Elem) (u : Use) : Bool :=
  u.acc.isNone || !(x.late.any fun l => l.acc.isSome && (l.acc == u.acc || l.acc == u.accR))

/-- Channels that the entry does not condition hold N tokens of any kind; the merges need one data head (R182, R189,
R309). -/
def tokensFree (x : Elem) (u : Use) (w : BitVec 64) : Bool :=
  if u.merge then
    ([u.a, u.b].any fun o => match o.src.chan? with
      | some c => (match (x.visible c).head? with
        | some t => t.isData
        | none => false)
      | none => false) &&
    (!u.both || [u.a, u.b].all fun o => x.tokReady o.src)
  else
    [u.a, u.b].all fun o => match o.src.chan? with
      | some c => Trig.cond w c.val != 0 || decide (Trig.n w ≤ (x.visible c).length)
      | none => true

/-- The tiles that the beats of a rule go to: beat b of an address that is no channel's lies 8 b further on, and PUSH and
POP ignore the offset (R250, R251, R256). -/
def tilesOf (x : UnitSt) (e : Nat) (u : Use) (n : Nat) : List Nat :=
  let src := match u.tile with
    | some .b => u.b.src
    | _ => u.a.src
  let as_ := addrsOf (x.elem e) u n
  ((List.range as_.length).zip as_).filterMap fun p => match x.cfg.place u.fifo p.2 (if src.chan?.isSome then 0 else 8 * p.1) with
    | .at_ t _ => some t
    | .bad _ => none

/-- The requests of the element's stamp=wave slots that have not been performed. -/
def stamped (x : UnitSt) (e : Nat) : List MemReq := (x.reqs ++ State.asideOf x).filter fun r => r.e == e && r.stamp

/-- The window entry that the address of a WREM names, as it stands in its operand (R282). -/
def farEntry (s : State) (x : UnitSt) (e : Nat) (a : Opd) : Word :=
  let y := x.elem e
  let v := match a.src.chan? with
    | some c => (((y.visible c).head?).map Token.payload).getD 0
    | none => (y.readReg a.src).bits
  s.windowOf x.tenant (v.toNat / 2 ^ 32 % 64)

/-- A memory event of a stamp=wave slot may be issued: no fence is in force (R134), no earlier LDS or LDE is still to
be performed before an event elsewhere than at a tile (R122), no earlier request to the same tile went through
another port (R251), and a WREM.full comes after what precedes it: the WREMs to its own package it follows at the sender
(R122, R394). -/
def orderFree (s : State) (u : Nat) (x : UnitSt) (e : Nat) (i : Instr) (k : Use) (n : Nat) : Bool :=
  let mine := stamped x e
  let full := match i with
    | .wrem _ _ _ _ f => f
    | _ => false
  ((x.elem e).fences.all fun f => fenceDone s u e f) &&
  ((k.tile.isSome && k.bind.isNone) || !(mine.any fun r => r.op == .lds || r.op == .lde)) &&
  !(mine.any fun r => r.port != k.port && (tilesOf x e k n).contains r.tile) &&
  (!full || (mine.isEmpty && !State.sweepOpen s u x e s.nextId && !State.slotOpen x e s.nextId &&
    !(farBefore s u e (farEntry s x e k.a)).any fun r => r.wave))

/-- Everything the rule uses is free, but for what its port or engine takes and the turn of its CLAIM (R64). -/
def resources (s : State) (u : Nat) (x : UnitSt) (e slot : Nat) (i : Instr) (k : Use) (w : BitVec 64) : Bool :=
  let y := x.elem e
  regsFree y k && outsFree y k && accFree y k && tokensFree y k w &&
  (!k.bricks || (decide (y.brickBusy ≤ s.clk.cyc) && (k.geo || decide (y.sysBusy ≤ s.clk.cyc)))) &&
  (!k.cache || (decide (y.walkEnd ≤ s.clk.cyc) && !(x.cache.walks.any fun w => w.e == e))) &&
  (k.tile.isNone || !State.portBacked x e k.port) &&
  (!(k.mem && Desc.stamp (y.descOf slot)) || orderFree s u x e i k (Trig.n w))

/-- The wave counter admits the slot (R71). -/
def waveAdmits (x : Elem) (slot : Nat) : Bool :=
  let d := x.descOf slot
  !Desc.ordered d || x.wave == Desc.own d

/-- The rule in a slot and its trigger entry, where both are there and the word is an instruction. -/
def ruleOf (x : Elem) (slot : Nat) : Option (Instr × BitVec 64) :=
  match x.slots.get? slot with
  | none => none
  | some w =>
    match decode w with
    | .error _ => none
    | .ok i => (x.trig.get? (useOf i).t).map fun t => (i, t)

/-- The trigger of a slot holds (R63). -/
def slotHolds (x : UnitSt) (e slot : Nat) : Bool :=
  match ruleOf (x.elem e) slot with
  | some (i, t) => holds x e (useOf i) t
  | none => false

/-- A trigger of the element is live: it holds for a slot that the wave counter admits (R72). -/
def liveTrigger (x : UnitSt) (e : Nat) : Bool :=
  (List.range 32).any fun s => slotHolds x e s && waveAdmits (x.elem e) s

end Sys2Proof.Machine
end

