-- ==== Sys2Proof/Machine/Check.lean ====
section
/-! DEFINITION. The checks of configuration words, as the loader and CFGW make them (R71, R76, R158, R161-R163, R173,
R174, R232). -/

namespace Sys2Proof.Machine

/-- A reason where a check fails. -/
def reasonIf (c : Bool) (r : Nat) : List Nat := if c then [r] else []

/-- The lowest of the reasons of one item; 0x00 where there is none (R173). -/
def lowest : List Nat → Nat
  | [] => 0
  | r :: rs => rs.foldl min r

/-- The N of a trigger entry suits the instruction (R65, R221). -/
def Beats.fits (b : Beats) (n : Nat) : Bool :=
  match b with
  | .any => true
  | .one => n == 1
  | .qenc => n == 16 || n == 32

/-- The destination is one of g0-g7. -/
def Dst.isG : Dst → Bool
  | .g _ => true
  | _ => false

/-- A source or destination names g4-g7 (R76). -/
def namesUpper (u : Use) : Bool :=
  let hi := fun (n : Option (Fin 8)) => match n with
    | some k => decide (4 ≤ k.val)
    | none => false
  hi u.a.src.reg? || hi u.b.src.reg? || hi u.dst.reg?

/-- A rule of a systolic element names i0 as a source or o1 as a destination (R232). -/
def namesRegion (u : Use) : Bool :=
  u.a.src.chan? == some 0 || u.b.src.chan? == some 0 || u.dst.outs.contains 1

/-- A SNDM word whose source A, a channel, is not a whole-burst input (R249). -/
def sndmLoose (cfg : ElemCfg) (w : BitVec 32) : Bool :=
  w.toNat / 2 ^ 18 % 256 == 0xB1 && !cfg.whole.getLsbD (w.toNat / 2 ^ 8 % 4)

/-- The reasons against a slot word that do not rest on the image as a whole (R173, R174). -/
def slotReasons (c : SecCfg) (cfg : ElemCfg) (trig : Assoc (BitVec 64)) (w : BitVec 32) : List Nat :=
  match decode w with
  | .error e => reasonIf (e == .modifier && sndmLoose cfg w) 0x04 ++ [e.reason]
  | .ok i =>
    let u := useOf i
    let rest := match trig.get? u.t with
      | none => [0x07]
      | some t =>
        reasonIf (t.toNat / 2 ^ 62 % 2 == 1 && !Dst.isG u.dst) 0x06 ++ reasonIf (!u.beats.fits (Trig.n t)) 0x12
    let kind := match u.bind with
      | some n => u.kinds.contains (c.bindCfg n).kind
      | none => true
    let whole := match u.a.src with
      | .ch n => cfg.whole.getLsbD n
      | _ => false
    rest ++ reasonIf (u.burst && !whole) 0x04 ++ reasonIf (!kind) 0x0C ++ reasonIf (cfg.gated && namesUpper u) 0x0D ++
      reasonIf (!u.adm.some? c.pal) 0x14 ++ reasonIf (cfg.systolic && namesRegion u) 0x17

/-- The reasons against a trigger entry alone (R76, R163). -/
def trigReasons (cfg : ElemCfg) (t : BitVec 64) : List Nat :=
  reasonIf (decide (6 ≤ Trig.ncode t) || ((Trig.pmask t).getLsbD 7 && !(Trig.pval t).getLsbD 7) ||
      Trig.pval t &&& ~~~(Trig.pmask t) != 0 || Trig.pset t &&& Trig.pclr t != 0) 0x06 ++
    reasonIf (cfg.gated && Trig.rmask t &&& 0xF0 != 0) 0x0D

/-- What the words of the slots that name trigger entry `k` make of a new entry there (R65, R163). -/
def trigUsers (slots : Assoc (BitVec 32)) (k : Nat) (t : BitVec 64) : List Nat :=
  (slots.map fun p => match decode p.2 with
    | .error _ => []
    | .ok i =>
      let u := useOf i
      if u.t.val = k then
        reasonIf (t.toNat / 2 ^ 62 % 2 == 1 && !Dst.isG u.dst) 0x06 ++ reasonIf (!u.beats.fits (Trig.n t)) 0x12
      else []).flatten

/-- A privileged opcode (R160). -/
def privWord (w : BitVec 32) : Bool :=
  match decode w with
  | .ok i => (useOf i).priv
  | .error _ => false

/-- The reason against a word that CFGW writes: item 0 a slot word, 1 a descriptor, 2 a trigger entry (R174, R353); a
privileged opcode reaches no element of an unprivileged section (R347). -/
def cfgwReason (c : SecCfg) (priv : Bool) (x : Elem) (item idx : Nat) (w : Word) : Nat :=
  if item = 3 ∨ (item < 2 ∧ 32 ≤ idx) then 0x04
  else if item = 0 then lowest (slotReasons c x.cfg x.trig (w.setWidth 32) ++ reasonIf (privWord (w.setWidth 32) && !priv) 0x15)
  else if item = 1 then 0
  else lowest (trigReasons x.cfg w ++ trigUsers x.slots idx w)

/-- The number of a configuration word among those an error can strike: slot words, trigger entries, slot descriptors,
k-registers (R174). -/
inductive CfgWord where
  | slot (n : Nat)
  | trig (n : Nat)
  | desc (n : Nat)
  | k (n : Nat)
  deriving DecidableEq, Repr

def CfgWord.code : CfgWord → Nat
  | .slot n => n % 32
  | .trig n => 32 + n % 64
  | .desc n => 96 + n % 32
  | .k n => 128 + n % 8

/-- The word cannot be corrected (R174). -/
def Elem.broken (x : Elem) (w : CfgWord) : Bool := x.badCfg.contains w.code

/-- The word has been written anew. -/
def Elem.mended (x : Elem) (w : CfgWord) : Elem := { x with badCfg := x.badCfg.filter fun n => n != w.code }

/-- The word that an item and an index of CFGW name (R353). -/
def cfgwWord (item idx : Nat) : CfgWord := if item = 0 then .slot idx else if item = 1 then .desc idx else .trig idx

/-- CFGW's check reads a word of the element that cannot be corrected: the trigger entry that a slot word names, the slot
words that name a trigger entry (R174). -/
def cfgwBroken (x : Elem) (item : Nat) (w : Word) : Bool :=
  if item = 0 then (match decode (w.setWidth 32) with
    | .ok i => x.broken (.trig (useOf i).t.val)
    | .error _ => false)
  else if item = 2 then x.slots.any fun p => x.broken (.slot p.1)
  else false

/-- The element with a checked word written (R165, R353). -/
def cfgwWrite (x : Elem) (item idx : Nat) (w : Word) : Elem :=
  let x := x.mended (cfgwWord item idx)
  if item = 0 then { x with slots := x.slots.set idx (w.setWidth 32) }
  else if item = 1 then { x with desc := x.desc.put idx (w.setWidth 32 &&& 0x03FFFFFF) 0 }
  else { x with trig := x.trig.set idx w }

/-! ## What only the loader checks (R28, R39, R71, R173) -/

/-- A CVT whose control word the image fixes and no source format could convert (R39). -/
def noConversion (pal : Word) (ksrc : List Nat) (k : List Word) (w : BitVec 32) : Bool :=
  match decode w with
  | .ok (.cvt _ _ _ b _) =>
    (match b.src with
     | .k n =>
       ksrc.getD n.val 0 == 0 &&
       (match palFmt pal ((k.getD n.val 0).toNat % 8) with
        | some f => f == .qn4 || f == .sign || f == .bitmap || f == .coord
        | none => false) &&
       (List.range 8).all fun t => palFmt pal t != some .raw64
     | _ => false)
  | _ => false

/-- The word that the image gives a k-register; none where a launch argument is put there. -/
def konst (ksrc : List Nat) (k : List Word) (n : Nat) : Option Word :=
  if ksrc.getD (n % 8) 0 = 0 then some (k.getD (n % 8) 0) else none

/-- The constants of an image that a rule uses as memory-tile addresses: of an operand, of a copy's descriptors of kind 0, of a
collective that is no barrier, and the target of a transport rider of op 1 (R15, R95, R279, R280). Whether a word of a pair or quad
is such an address is known where the words that say so are constants too. -/
def tileConstants (ksrc : List Nat) (k : List Word) (i : Instr) : List Nat :=
  let u := useOf i
  let kv := fun (s : Src) (j : Nat) => match s with
    | .k n => konst ksrc k (n.val + j)
    | _ => none
  let low := fun (w : Option Word) => (w.map fun v => v.toNat % 2 ^ 32).toList
  match i with
  | .bufq _ _ a => low (kv a.src 0)
  | .bufset _ a _ => low (kv a.src 0)
  | .cpy _ _ a _ => low ((kv a 0).filter fun v => v.toNat / 2 ^ 60 == 0) ++ low ((kv a 1).filter fun v => v.toNat / 2 ^ 60 == 0)
  | .coll _ _ a _ =>
    (match kv a 0, kv a 1 with
     | some v, some w => if v.toNat % 16 = 5 then [] else [w.toNat % 2 ^ 32, w.toNat / 2 ^ 32]
     | _, _ => [])
  | .brdRd _ _ a b =>
    (match kv a 0 with
     | some v => if v.toNat / 2 ^ 60 = 1 then low (kv b 0) else []
     | none => [])
  | _ => (match u.tile with
    | some .a => low (kv u.a.src 0)
    | some .b => low (kv u.b.src 0)
    | none => [])

/-- A constant that a rule uses as a memory-tile address names no tile of the section and no valid buffer (R15). -/
def badConstant (c : SecCfg) (ksrc : List Nat) (k : List Word) (w : BitVec 32) : Bool :=
  match decode w with
  | .error _ => false
  | .ok i => (tileConstants ksrc k i).any fun v =>
      if v / 2 ^ 31 = 0 then v / 2 ^ 30 % 2 == 1 || decide (c.tileCount ≤ v / 2 ^ 18 % 4096)
      else !((c.bufs[v / 2 ^ 25 % 64]?).getD ({ } : BufCfg)).valid

/-- An input condition of the entry asks for its tag, and the tag names an empty palette entry (R28). -/
def emptyTag (pal : Word) (t : BitVec 64) : Bool :=
  ((List.range 4).any fun k => Trig.cond t k == 7) && (palFmt pal (Trig.tag t).toNat).isNone

/-- The successor of a slot's descriptor leads nowhere (R71). -/
def brokenChain (descs : List (BitVec 32)) (d : BitVec 32) : Bool :=
  Desc.ordered d && !(descs.any fun x => Desc.ordered x && Desc.own x == Desc.succ d && Desc.pred x == Desc.own d)

end Sys2Proof.Machine
end

