-- ==== Sys2Proof/Machine/Cancel.lean ====
section
/-! DEFINITION. How the next graph of a phase begins, and cancelling a launch, a graph, a phase or a job, by CANC and by CANCEL
(R24, R78, R79, R331, R336, R354). -/

namespace Sys2Proof.Machine

/-- The worse of two statuses: failed, then cancelled, then done. -/
def Status.worse (a b : Status) : Status :=
  match a, b with
  | .failed, _ => .failed
  | _, .failed => .failed
  | .cancelled, _ => .cancelled
  | _, .cancelled => .cancelled
  | _, _ => .done

namespace State

/-- Walks under way on a quarter's sequencer (R331). -/
def walksOn (s : State) (q : Nat) : Nat :=
  (s.jobs.filter fun p => p.2.active && (match p.2.walk, s.host.images.get? p.2.image with
    | some w, some im => (match im.graphs[w.graph]? with
      | some g => g.quarter == q
      | none => false)
    | _, _ => false)).length

/-- The next graph of a job's phase begins, at most `n` looked at: graphs a cancel has marked, or that the cancel of
the phase skips, are passed over cancelled (R79, R331, R354). -/
def startGraph (j : Nat) : Nat → State → State
  | 0, s => s
  | n + 1, s =>
    match s.job j with
    | none => s
    | some x =>
      if !x.active || x.walk.isSome then s
      else match ((x.phases[x.phase]?).getD [])[x.pos]? with
        | none => s
        | some g =>
          let skip := x.phaseCancel || x.jobCancel || x.marks.contains g
          if skip then
            startGraph j n (s.modJob j fun y => { y with
              pos := y.pos + 1, marks := y.marks.erase g, graphStatus := .cancelled, graphsDone := y.graphsDone + 1
              phaseWorst := y.phaseWorst.worse .cancelled })
          else
            let q := match s.host.images.get? x.image with
              | some im => ((im.graphs[g]?).map Graph.quarter).getD 0
              | none => 0
            if 1024 ≤ s.walksOn q then s
            else s.modJob j fun y => { y with walk := some { graph := g }, graphStatus := .running }

/-- Graphs that a job's phase lists. -/
def phaseLen (s : State) (j : Nat) : Nat :=
  match s.job j with
  | some x => ((x.phases[x.phase]?).getD []).length
  | none => 0

/-- A job begins its next graph, where it can. -/
def startNext (s : State) (j : Nat) : State := startGraph j (s.phaseLen j + 1) s

/-- Every job that can begin a graph does, in the order of their RUNs (R335). -/
def startGraphs (s : State) : State :=
  (sortBy (fun a b => decide (a.2.order < b.2.order)) s.jobs).foldl (fun t p => t.startNext p.1) s

end State

/-- The graphs that a job has still to run: the rest of its phase, then later phases (R78, R354). -/
def Job.toCome (j : Job) : List Nat :=
  ((j.phases[j.phase]?).getD []).drop (if j.walk.isSome then j.pos + 1 else j.pos) ++ (j.phases.drop (j.phase + 1)).flatten

/-- A launch has completed, or has only to be seen complete: its units have ended (R24, R78). -/
def Launch.over (l : Launch) : Bool := l.status != .running || decide (l.units ≤ l.ended)

namespace State

/-- A launch by number. -/
def launch? (s : State) (l : Nat) : Option Launch := s.launches.get? l

/-- A walk is over: it takes no further node and its launches are over (R78). -/
def walkOver (s : State) (w : Walk) : Bool :=
  (w.ended || w.cancel || w.bad) && w.launches.all fun l => match s.launch? l with
    | some y => y.over
    | none => true

/-- The phase of a job is over: its last graph is (R78). -/
def phaseOver (s : State) (x : Job) : Bool :=
  let n := ((x.phases[x.phase]?).getD []).length
  match x.walk with
  | some w => s.walkOver w && decide (n ≤ x.pos + 1)
  | none => decide (n ≤ x.pos)

/-- The job is over: its last phase is (R78). -/
def jobOver (s : State) (x : Job) : Bool :=
  decide (x.phases.length ≤ x.phase) || (decide (x.phases.length ≤ x.phase + 1) && s.phaseOver x)

/-- A cancel of one launch, with its code; of a level that is over, the completion wins (R24, R79, R354). -/
def cancelOneLaunch (s : State) (l : Nat) : State × Nat :=
  match s.launch? l with
  | none => (s, 3)
  | some x =>
    if x.over then (s, 1)
    else if x.cancel then (s, 4)
    else (s.cancelLaunch l, 0)

/-- The walk of a job stops at its node, and every launch it has armed is cancelled (R79). -/
def cancelWalk (s : State) (j : Nat) : State :=
  match s.job j with
  | none => s
  | some x =>
    match x.walk with
    | none => s
    | some w =>
      let s := s.modJob j fun y => { y with walk := some { w with cancel := true } }
      w.launches.foldl (fun t l => (t.cancelOneLaunch l).1) s

/-- A cancel of a graph of a job by index (R354). -/
def cancelGraph (s : State) (j g : Nat) : State × Nat :=
  match s.job j with
  | none => (s, 3)
  | some x =>
    let live := match x.walk with
      | some w => if w.graph = g ∧ (w.cancel || !s.walkOver w) = true then some w else none
      | none => none
    match live with
    | some w => if w.cancel then (s, 4) else (s.cancelWalk j, 0)
    | none =>
      if x.toCome.contains g then
        (if x.marks.contains g then (s, 4) else ((s.modJob j fun y => { y with marks := y.marks ++ [g] }).startNext j, 0))
      else if x.phases.flatten.contains g then (s, 1)
      else (s, 3)

/-- A cancel of a phase: its current graph, and the rest is skipped (R79). -/
def cancelPhase (s : State) (j : Nat) : State × Nat :=
  match s.job j with
  | none => (s, 3)
  | some x =>
    if s.phaseOver x then (s, 1)
    else if x.phaseCancel || x.jobCancel then (s, 4)
    else (((s.modJob j fun y => { y with phaseCancel := true }).cancelWalk j).startNext j, 0)

/-- A cancel of a job (R79). -/
def cancelJob (s : State) (j : Nat) : State × Nat :=
  match s.job j with
  | none => (s, 3)
  | some x =>
    if s.jobOver x then (s, 1)
    else if x.jobCancel then (s, 4)
    else (((s.modJob j fun y => { y with jobCancel := true, phaseCancel := true }).cancelWalk j).startNext j, 0)

/-- The launch that an ARM node of a graph of a job armed last. -/
def launchOf (s : State) (j g node : Nat) : Option Nat :=
  ((s.launches.filter fun p => p.2.job == j && p.2.graph == g && p.2.node == node).getLast?).map Prod.fst

/-- A cancel that names a job by number: a job that has completed reads "already complete" (R336, R354). -/
def cancelNamed (s : State) (j level graph node : Nat) : State × Nat :=
  match s.job j with
  | none => (s, 3)
  | some x =>
    if !x.active then (s, 1)
    else if level = 3 then s.cancelJob j
    else if level = 2 then s.cancelPhase j
    else if level = 1 then s.cancelGraph j graph
    else match s.launchOf j graph node with
      | some l => s.cancelOneLaunch l
      | none => (s, 3)

/-- A cancel of the unit's own launch, graph, phase or job (R354). -/
def cancelOwn (s : State) (x : UnitSt) (level : Nat) : State × Nat :=
  if level = 3 then s.cancelJob x.job
  else if level = 2 then s.cancelPhase x.job
  else if level = 1 then
    (match s.launch? x.launch with
     | some l => s.cancelGraph x.job l.graph
     | none => (s, 3))
  else s.cancelOneLaunch x.launch

end State

end Sys2Proof.Machine
end

