-- ==== Sys2Proof/Machine/Regs.lean ====
section
/-! DEFINITION. System registers: what a read returns and what a write does, for CSRR, CSRW and the host's apertures
(R8-R10, R76, R110, R320-R325, R341, R344, R345, R351, R358, R360, R362, R373, R380, R388, R391-R393, R395, R400, R402). -/

namespace Sys2Proof.Machine

/-- Who reaches a register: the host through the management view, or an element of a unit. -/
inductive Who where
  | host
  | elem (u e : Nat)
  deriving DecidableEq, Repr

/-- The status codes of CSTAT (R324). -/
def Status.code : Status → Nat
  | .running => 0
  | .done => 1
  | .cancelled => 2
  | .failed => 3

def Gate.code : Gate → Nat
  | .on => 0
  | .retention => 1
  | .off => 2

/-- The starve bits that set in cycle `now` (R10). -/
def Elem.starvedIn (y : Elem) (now : Nat) : BitVec 32 := if y.starveNow.1 = now then y.starveNow.2 else 0

/-- The element status word (R75). -/
def Elem.status (x : Elem) : Word :=
  BitVec.ofNat 64 (x.starve.toNat + 2 ^ 32 * x.wave.toNat + 2 ^ 40 * x.last.toNat + (if x.idleBit then 2 ^ 45 else 0) +
    2 ^ 46 * x.gate.code)

/-- A count that never passes 2^64 - 1, as a register shows it (R324). -/
def countWord (n : Nat) : Word := BitVec.ofNat 64 (min n (2 ^ 64 - 1))

namespace State

/-- The unit and element at a device element number: the unit placed there, else the last that was (R322, R371). -/
def elemAtDev (s : State) (dev : Nat) : Option (Nat × Nat) :=
  let holds := fun (p : Nat × UnitSt) => (p.2.placed || p.2.phase == .ended) && p.2.rect.blocks.contains (dev / 4096 * 64 + dev % 4096 / 512 * 8 + dev % 64 / 8)
  let pick := match s.units.find? fun p => p.2.placed && holds p with
    | some p => some p
    | none => (s.units.filter holds).foldl (fun (a : Option (Nat × UnitSt)) (p : Nat × UnitSt) => match a with
      | some b => if p.2.armedAt < b.2.armedAt then some b else some p
      | none => some p) none
  pick.map fun p =>
    let row := 64 * (dev / 8192) + dev % 4096 / 64
    let col := 64 * (dev / 4096 % 2) + dev % 64
    (p.1, p.2.cfg.elemAt (row - 8 * blockRow p.2.nw) (col - 8 * blockCol p.2.nw))

/-- The job of a unit, for the completion counters. -/
def workOf (s : State) (x : UnitSt) : Job :=
  (s.job x.job).getD { tenant := x.tenant, secure := x.secure, priv := x.priv, debug := x.debug, queue := 0, hostTag := 0
                       prio := 0, image := 0, phases := [] }

/-- An element-local register of element `e` of unit `u` (R75, R324, R351); none outside the map. -/
def localReg (s : State) (u e n : Nat) : Option Word :=
  match s.unit? u with
  | none => if n < 5 ∨ n = 0x10 ∨ n = 0x11 ∨ (0x18 ≤ n ∧ n < 0x1D) then some 0 else none
  | some x =>
    let y := x.elem e
    let l := (s.launch? x.launch).getD { job := 0, graph := 0, node := 0, units := 0 }
    let j := s.workOf x
    match n with
    | 0x00 => some y.status
    | 0x01 => some (y.fl.setWidth 64)
    | 0x02 => some (y.sr.setWidth 64)
    | 0x03 => some (BitVec.ofNat 64 (x.cfg.rowOf e + 2 ^ 8 * x.cfg.colOf e + 2 ^ 16 * x.blockOf e))
    | 0x04 => some (if y.pick == .brk then 1 else 0)
    | 0x10 => some (BitVec.ofNat 64 (x.count.getD 0))
    | 0x11 => some (x.uflag.setWidth 64)
    | 0x18 => some (countWord l.ended)
    | 0x19 => some (countWord (match j.walk with
        | some w => w.completed
        | none => 0))
    | 0x1A => some (countWord j.graphsDone)
    | 0x1B => some (countWord j.phasesDone)
    | 0x1C => some (BitVec.ofNat 64 (l.status.code + 4 * j.graphStatus.code + 16 * j.phaseStatus.code + 64 * j.status.code))
    | _ => none

/-- The temperature status of a quarter (R345); of several hottest blocks the lowest number. -/
def ths (s : State) (q : Nat) : Word :=
  let ts := (List.range 64).map fun i => s.temp (64 * q + i)
  let m := ts.foldl max 0
  BitVec.ofNat 64 (m % 256 + 2 ^ 8 * (ts.findIdx fun t => t == m) + 2 ^ 16 * (ts.foldl (· + ·) 0 / 64 % 256) +
    2 ^ 24 * (s.power.pnow.getD q 0 % 4096))

/-- BOOTST (R402). -/
def bootst (s : State) : Word :=
  BitVec.ofNat 64 (s.boot.code + 2 ^ 4 * (s.boot.err % 256) + (if s.boot.sigOk then 2 ^ 12 else 0) + 2 ^ 16 * s.boot.fw.toNat)

/-- Bits of SWPC that show which classes are stopped (R110). -/
def stoppedBits (s : State) : Nat :=
  (if s.sweep.quick.stopped then 1 else 0) + (if s.sweep.steady.stopped then 2 else 0) + (if s.sweep.deep.stopped then 4 else 0)

end State

/-- Numbers of the map that only take writes (R325, R358, R391). -/
def writeOnly (n : Nat) : Bool := [0x0104, 0x0504, 0x0530, 0x0531, 0x0540, 0x0700, 0x0701, 0x0702, 0x0703, 0x0704, 0x0711].contains n

/-- Numbers whose register holds a value of its own that a read returns. -/
def plainReg (n : Nat) : Bool :=
  (0x0108 ≤ n && n ≤ 0x010C) || (0x0300 ≤ n && n ≤ 0x0303) || (0x0308 ≤ n && n ≤ 0x030B) || (0x0400 ≤ n && n ≤ 0x0403) ||
  n == 0x0500 || (0x0510 ≤ n && n ≤ 0x0514) || (0x0520 ≤ n && n ≤ 0x0523) || n == 0x0532 || n == 0x0541 || n == 0x0542 ||
  n == 0x0600 || n == 0x0601 || (0x0610 ≤ n && n ≤ 0x062F) || n == 0x0705 || (0x1000 ≤ n && n < 0x2040) ||
  (0x3000 ≤ n && n < 0x3800)

/-- Counts that a read returns and clears (R323, R356, R372). -/
def readClears (n : Nat) : Bool := n == 0x0501 || n == 0x0502 || n == 0x0503

namespace State

/-- A register of the device that a read leaves as it is (R324, R325, R341, R344, R345, R358, R391); none outside the
map. -/
def deviceReg (s : State) (n : Nat) : Option Word :=
  if writeOnly n then some 0
  else if n = 0x0100 then some (countWord s.sweep.quick.step)
  else if n = 0x0101 then some (countWord s.sweep.steady.step)
  else if n = 0x0102 then some (countWord s.sweep.deep.step)
  else if n = 0x0103 then some (countWord s.clk.win)
  else if n = 0x0105 then some (if s.sweep.ringReq.isSome then s.reg n ||| 1 else s.reg n)
  else if n = 0x0106 then some (BitVec.ofNat 64 ((s.reg n).toNat % 32 + 2 ^ 8 * s.stoppedBits))
  else if n = 0x0110 then some (countWord s.clk.cyc)
  else if 0x0304 ≤ n ∧ n < 0x0308 then some (s.ths (n - 0x0304))
  else if n = 0x0710 then some s.bootst
  else if plainReg n then some (s.reg n)
  else none

/-- A read of register `n`: the state after it, the value, and whether the map has the register (R8, R10, R322). -/
def readReg (s : State) (who : Who) (n : Nat) : State × Word × Bool :=
  if n < 0x20 then
    match who with
    | .elem u e => (match s.localReg u e n with
      | some v => (s, v, true)
      | none => (s, 0, false))
    | .host => (s, 0, false)
  else if readClears n then
    let r := s.clearCount n
    (r.1, r.2, true)
  else match s.deviceReg n with
    | some v => (s, v, true)
    | none => (s, 0, false)

/-! ## Writes -/

end State

/-- What is kept of a section whose tiles, by number, have become zero: their words are zero and empty, they store no tokens,
and the section cache has lost what stood in them (R115, R116, R320). -/
def Resident.zeroTiles (r : Resident) (gone : Nat → Bool) : Resident :=
  let cb := (r.cfg.cbTiles.zipIdx.filter fun p => gone p.1).map Prod.snd
  let t := r.cfg.cbTiles.length
  { r with
    mem := r.mem.mapVals fun i x => if gone i then { x with words := [], full := [], fifo := [], bad := [], badFifo := [] } else x
    cache := { r.cache with
      ways := r.cache.ways.filter fun w => !cb.contains (cacheSet t w.sb).1
      wins := if cb.isEmpty then r.cache.wins else [] } }

namespace State

/-- Blocks of a quarter change world; those that a section occupies keep theirs.  A change zeroes the tiles that
stand on the block and sets their words empty (R320). -/
def setWorlds (s : State) (q : Nat) (v : Word) : State :=
  let old := s.reg (0x0400 + q)
  let changed := (List.range 64).filter fun i => old.getLsbD i != v.getLsbD i && !s.occupied (64 * q + i)
  let new := changed.foldl (fun (w : Word) i => w ^^^ (1#64 <<< i)) old
  let gone := fun (r : Resident) (t : Nat) => match r.nw with
    | none => false
    | some nw =>
      let b := blockAt (blockRow nw + t / r.cfg.tileWidth / 4) (blockCol nw + t % r.cfg.tileWidth / 4)
      b / 64 == q && changed.contains (b % 64)
  { s.setReg (0x0400 + q) new with
    residents := s.residents.map fun r => r.zeroTiles (gone r) }

/-- A write to a gate register: a request of 3 leaves the field (R9, R76). -/
def setGates (s : State) (q : Nat) (v : Word) : State :=
  let old := (s.reg (0x0308 + q)).toNat
  let req := if v.toNat % 4 = 3 then old % 4 else v.toNat % 4
  s.setReg (0x0308 + q) (BitVec.ofNat 64 (req + 4 * (v.toNat / 4 % 2)))

/-- Rings of the quick class. -/
def quickRings (s : State) : List Nat := (List.range 288).filter s.ringQuick

/-- A ring put in a class. -/
def setRing (s : State) (ring : Nat) (quick : Bool) : State :=
  let n := 0x0108 + ring / 64
  let bit : Word := 1#64 <<< (ring % 64)
  s.setReg n (if quick then s.reg n ||| bit else s.reg n &&& ~~~bit)

/-- A write to RCLQ: ignored and counted while a request waits, else refused, complete at once, or posted (R325). -/
def ringRequest (s : State) (v : Word) : State :=
  if s.sweep.ringReq.isSome then s.countUp 0x0502
  else
    let ring := v.toNat % 512
    let quick := v.getLsbD 9
    let answer := fun (t : State) (bad : Bool) => t.setReg 0x0105 (BitVec.ofNat 64 ((if bad then 2 else 0) + 4 * ring))
    if 287 < ring || s.ringLost ring || (quick && !s.ringQuick ring && decide (32 ≤ s.quickRings.length)) then answer s true
    else if s.ringQuick ring = quick then answer s false
    else answer { s with sweep := { s.sweep with ringReq := some (ring, quick) } } false

/-- A write to TLBC (R358, R365). -/
def hostTlbiStart (s : State) (v : Word) : State :=
  if (s.reg 0x0532).getLsbD 0 then s.countUp 0x0502
  else
    let t := bitsOf v.toNat 49 40
    match tlbiRange (s.reg 0x0530).toNat v.toNat with
    | none => s.setReg 0x0532 (BitVec.ofNat 64 (3 * 2 ^ 8))
    | some (lo, hi) => (s.setReg 0x0532 1).tlbiStart { tenant := t, lo := lo, hi := hi }

/-- A write to SCTL: SRES shows busy until the outcome is there (R358, R374, R376, R378). -/
def writeSctl (s : State) (v : Word) : State :=
  let w := FrzWord.of (v.toNat % 2 ^ 32)
  let img := (s.reg 0x0541).toNat % 2 ^ 56
  let op := bitsOf v.toNat 63 62
  if (s.reg 0x0542).getLsbD 8 then s.countUp 0x0502
  else if 2 ≤ op then s
  else match (if op = 0 then s.freezeOp w img none true none else s.thawOp w img true none) with
    | (s, some code, _) => s.setSres code 0
    | (s, none, _) => s.setReg 0x0542 0x100

/-- A write to FRES: actions 2 and 3 are ignored (R373). -/
def writeFres (s : State) (v : Word) : State :=
  let a := bitsOf v.toNat 33 32
  if a < 2 then s.fres (v.toNat % 2 ^ 32) (a == 1) else s

/-- A write to BOOTC: the check of a recovery image begins (R402). -/
def writeBootc (s : State) (v : Word) : State :=
  if s.boot.code = 5 then { s with boot := { s.boot with image := some v.toNat } } else s.countUp 0x0502

/-- A write to AREQ: a report begins (R400). -/
def writeAreq (s : State) (v : Word) : State :=
  if (s.reg 0x0705).getLsbD 0 then s.countUp 0x0502
  else (s.setReg 0x0704 (v &&& ~~~(0xFFF : Word))).setReg 0x0705 1

/-- A write to an element-local register; the second part says whether the register takes writes (R75, R324, R351).  A
starve bit that sets in the cycle of the write stays (R10). -/
def writeLocal (s : State) (u e n : Nat) (v : Word) : State × Bool :=
  match n with
  | 0x00 => (s.modElem u e fun x => { x with starve := x.starve &&& ~~~(v.setWidth 32 &&& ~~~x.starvedIn s.clk.cyc) }, true)
  | 0x04 =>
    (if v.getLsbD 1 && (s.elem u e).pick == .brk then (s.resume u e).modUnit u fun x => { x with quietAt := s.clk.cyc } else s, true)
  | _ => (s, false)

/-- Fields that a write replaces in a register without behaviour of its own: a mask (R9). -/
def plainMask (n : Nat) : Option Nat :=
  if 0x0300 ≤ n ∧ n ≤ 0x0303 then some (2 ^ 25 - 1)
  else if n = 0x0500 then some 3
  else if n = 0x0541 then some (2 ^ 64 - 1)
  else if n = 0x0600 then some 0x7FF
  else if 0x0620 ≤ n ∧ n ≤ 0x062F then some (2 ^ 64 - 2 ^ 12)
  else if 0x1000 ≤ n ∧ n < 0x2040 then some (2 ^ 32 - 1)
  else if 0x3000 ≤ n ∧ n < 0x3400 then some (2 ^ 48 - 2 ^ 11 + 0x81)
  else if 0x3400 ≤ n ∧ n < 0x3800 then some (2 ^ 64 - 2 ^ 16 + 1)
  else none

/-- A write to the register of a budget is noted: a refill in its cycle takes the limit before it (R341). -/
def noteLimit (s : State) (n : Nat) : State :=
  if 0x1000 ≤ n ∧ n < 0x2000 then
    { s with power := { s.power with written := s.power.written.set (n - 0x1000) (s.clk.cyc, s.refillLimit (n - 0x1000)) } }
  else s

/-- The port's link goes down to train again (R391, R392). -/
def writeSoctl (s : State) (p : Nat) (v : Word) : State := (s.setReg (0x0618 + p) (v &&& 3)).setReg (0x0610 + p) 0

/-- A write to a device register; the second part says whether it is accepted (R322-R325). -/
def writeDevice (s : State) (who : Who) (n : Nat) (v : Word) : State × Bool :=
  let host := who == .host
  let secure := match who with
    | .host => true
    | .elem u _ => match s.unit? u with
      | some x => x.secure
      | none => false
  if n = 0x0104 then (s.ringRequest v, true)
  else if n = 0x0106 then (s.setReg n (v &&& 0x1F), true)
  else if 0x0308 ≤ n ∧ n ≤ 0x030B then (s.setGates (n - 0x0308) v, true)
  else if 0x0400 ≤ n ∧ n ≤ 0x0403 then (if secure then (s.setWorlds (n - 0x0400) v, true) else (s, false))
  else if n = 0x0504 then (s.writeFres v, true)
  else if n = 0x0530 then (s.setReg n v, true)
  else if n = 0x0531 then (s.hostTlbiStart v, true)
  else if n = 0x0540 then (s.writeSctl v, true)
  else if 0x0618 ≤ n ∧ n ≤ 0x061F then (s.writeSoctl (n - 0x0618) v, true)
  else if 0x0700 ≤ n ∧ n ≤ 0x0703 then (if host then (s.setReg n v, true) else (s, false))
  else if n = 0x0704 then (if host then (s.writeAreq v, true) else (s, false))
  else if n = 0x0711 then (if host then (s.writeBootc v, true) else (s, false))
  else match plainMask n with
    | some m =>
      let k := BitVec.ofNat 64 m
      let s := if 0x2000 ≤ n ∧ n < 0x2040 then s.spendCredit (n - 0x2000) 0 else s
      ((s.noteLimit n).setReg n ((s.reg n &&& ~~~k) ||| (v &&& k)), true)
    | none => (s, false)

/-- A write to register `n` (R322). -/
def writeReg (s : State) (who : Who) (n : Nat) (v : Word) : State × Bool :=
  if n < 0x20 then
    match who with
    | .elem u e => s.writeLocal u e n v
    | .host => (s, false)
  else s.writeDevice who n v

/-! ## The host's register aperture (R322, R362, R388, R393, R395, R402) -/

/-- The table of bytes written at an offset, eight of them. -/
def bytesAt (m : Assoc Byte) (at_ : Nat) (v : Word) : Assoc Byte :=
  (List.range 8).foldl (fun m i => Assoc.put m (at_ + i) (v.extractLsb' (8 * i) 8) 0) m

/-- A write of the host to word `n` of the register aperture, at offset 8n: in the management view below 2^28, in the
user view, which follows it, above.  The user view takes no write: it is counted (R323, R388); in recovery it does not answer
(R402). -/
def hostWrite (s : State) (n : Nat) (v : Word) : State :=
  if 0x10000000 ≤ n then (if s.boot.code = 5 then s else s.countUp 0x0502)
  else if n < 0x10000 then (s.writeReg .host n v).1
  else if n < 0x20000 then s
  else if n < 0xA0000 then
    let k := n - 0x20000
    (match s.elemAtDev (k / 0x20) with
     | some (u, e) => (s.writeLocal u e (k % 0x20) v).1
     | none => s)
  else if 0x8000000 ≤ n ∧ n < 0x8100000 then { s with store := s.store.put (n - 0x8000000) v 0 }
  else if 0xA000000 ≤ n ∧ n < 0xA010000 then { s with windows := s.windows.put (n - 0xA000000) (v &&& 0xFFFFFFFFFFFF) 0 }
  else if 0xA010000 ≤ n ∧ n < 0xC000000 then { s with groups := bytesAt s.groups (8 * (n - 0xA010000)) v }
  else if 0xC000000 ≤ n ∧ n < 0xC800000 then { s with boot := { s.boot with window := bytesAt s.boot.window (8 * (n - 0xC000000)) v } }
  else s

/-- Eight bytes of a table of bytes. -/
def bytesFrom (m : Assoc Byte) (at_ : Nat) : Word := BitVec.ofNat 64 (natOfBytes ((List.range 8).map fun i => m.getD (at_ + i) 0))

/-- Registers that only a read reaches: those that the user view accepts (R8, R323, R324). -/
def readOnly (n : Nat) : Bool :=
  (n < 0x20 && n != 0 && n != 4) || (0x0100 ≤ n && n ≤ 0x0103) || n == 0x0105 || (0x0108 ≤ n && n ≤ 0x010C) || n == 0x0110 ||
    (0x0304 ≤ n && n ≤ 0x0307) || (0x0510 ≤ n && n ≤ 0x0514) || (0x0520 ≤ n && n ≤ 0x0523) || n == 0x0532 || n == 0x0542 ||
    n == 0x0601 || (0x0610 ≤ n && n ≤ 0x0617) || n == 0x0705 || n == 0x0710

/-- The register that word `n` of a view's aperture is: a device register, or an element-local one (R322, R388). -/
def hostReg (s : State) (n : Nat) : State × Word :=
  if n < 0x10000 then
    let r := s.readReg .host n
    (r.1, r.2.1)
  else if 0x20000 ≤ n ∧ n < 0xA0000 then
    let k := n - 0x20000
    (match s.elemAtDev (k / 0x20) with
     | some (u, e) => (s, ((s.localReg u e (k % 0x20)).getD 0))
     | none => (s, 0))
  else (s, 0)

/-- A read of the host of word `n` of the register aperture, laid out as for `hostWrite`.  The user view shows the registers
that only a read reaches, and zero for all else (R322, R323, R388); in recovery it does not answer (R402). -/
def hostRead (s : State) (n : Nat) : State × Word :=
  if 0x10000000 ≤ n then
    let m := n - 0x10000000
    if s.boot.code = 5 then (s, 0)
    else if readOnly (if m < 0x10000 then m else m % 0x20) then s.hostReg m else (s, 0)
  else if 0x8000000 ≤ n ∧ n < 0x8100000 then (s, s.store.getD (n - 0x8000000) 0)
  else if 0xA000000 ≤ n ∧ n < 0xA010000 then (s, s.windows.getD (n - 0xA000000) 0)
  else if 0xA010000 ≤ n ∧ n < 0xC000000 then (s, bytesFrom s.groups (8 * (n - 0xA010000)))
  else if 0xC000000 ≤ n ∧ n < 0xC800000 then (s, bytesFrom s.boot.window (8 * (n - 0xC000000)))
  else s.hostReg n

/-- What the host does reaches the module: it is powered, and its link is up (R390, R402). -/
def whenReached (s : State) (t : State) : Host.Outcome State Fault Refusal := if s.boot.powered && s.linkUp then .next t else .next s

/-- The keys in a slot: of slot 0 those of the fuses, of another those that firmware has loaded, if any (R398). -/
def keyOf (s : State) (k : Nat) : Option KeyPair := if k = 0 then some Config.fusedKey else s.boot.keys.get? k

end State

/-! ## The events of the register aperture -/

/-- BREAKPOINT_RESUME (R351). -/
def execBreakpointResume (u e : Nat) (s : State) : Host.Outcome State Fault Refusal :=
  s.whenReached (s.writeLocal u e 0x04 2).1

/-- GATE_WRITE (R76). -/
def execGateWrite (quarter : Nat) (v : Word) (s : State) : Host.Outcome State Fault Refusal :=
  s.whenReached (s.writeReg .host (0x0308 + quarter % 4) v).1

/-- RCLQ (R325). -/
def execRclq (v : Word) (s : State) : Host.Outcome State Fault Refusal := s.whenReached (s.writeReg .host 0x0104 v).1

/-- SWPC_WRITE (R110). -/
def execSwpcWrite (v : Word) (s : State) : Host.Outcome State Fault Refusal := s.whenReached (s.writeReg .host 0x0106 v).1

/-- BWLD_WRITE (R320). -/
def execBwldWrite (quarter : Nat) (v : Word) (s : State) : Host.Outcome State Fault Refusal :=
  s.whenReached (s.writeReg .host (0x0400 + quarter % 4) v).1

/-- FRES_RETRY (R373). -/
def execFresRetry (serial : Nat) (s : State) : Host.Outcome State Fault Refusal :=
  s.whenReached (s.writeReg .host 0x0504 (BitVec.ofNat 64 (serial % 2 ^ 32))).1

/-- FRES_UNRESOLVABLE (R373). -/
def execFresUnresolvable (serial : Nat) (s : State) : Host.Outcome State Fault Refusal :=
  s.whenReached (s.writeReg .host 0x0504 (BitVec.ofNat 64 (serial % 2 ^ 32 + 2 ^ 32))).1

/-- HOST_TLBI: the write to TLBC (R365). -/
def execHostTlbi (v : Word) (s : State) : Host.Outcome State Fault Refusal := s.whenReached (s.writeReg .host 0x0531 v).1

/-- TLBI_COMPLETE (R365): a TLBI under way goes as far as nothing holds it. -/
def execTlbiComplete (id : Nat) (s : State) : Host.Outcome State Fault Refusal := .next ((s.tlbiStep id).tlbiStep id)

/-- SCTL with the operation `op` in its top bits. -/
def sctlWord (v : Word) (op : Nat) : Word := BitVec.ofNat 64 (v.toNat % 2 ^ 62 + op * 2 ^ 62)

/-- SCTL_FREEZE: op 0 without move (R374). -/
def execSctlFreeze (v : Word) (s : State) : Host.Outcome State Fault Refusal :=
  s.whenReached (s.writeReg .host 0x0540 (sctlWord v 0 &&& ~~~(0x4000000 : Word))).1

/-- SCTL_THAW: op 1 (R376). -/
def execSctlThaw (v : Word) (s : State) : Host.Outcome State Fault Refusal :=
  s.whenReached (s.writeReg .host 0x0540 (sctlWord v 1)).1

/-- SCTL_MOVE: op 0 with move (R378). -/
def execSctlMove (v : Word) (s : State) : Host.Outcome State Fault Refusal :=
  s.whenReached (s.writeReg .host 0x0540 (sctlWord v 0 ||| 0x4000000)).1

/-- TRANSLATION_STORE_WRITE: the byte offset `addr` in the store (R362). -/
def execTranslationStoreWrite (_quarter addr : Nat) (v : Word) (s : State) : Host.Outcome State Fault Refusal :=
  s.whenReached (s.hostWrite (0x8000000 + addr / 8 % 0x100000) v)

/-- LOGD_READ (R356). -/
def execLogdRead (s : State) : Host.Outcome State Fault Refusal := s.whenReached (s.hostRead 0x0501).1

/-- HREF_READ (R323). -/
def execHrefRead (s : State) : Host.Outcome State Fault Refusal := s.whenReached (s.hostRead 0x0502).1

/-- FDROP_READ (R372). -/
def execFdropRead (s : State) : Host.Outcome State Fault Refusal := s.whenReached (s.hostRead 0x0503).1

/-- REGISTER_WRITE: word `n` of the register aperture (R322, R388). -/
def execRegisterWrite (n : Nat) (v : Word) (s : State) : Host.Outcome State Fault Refusal := s.whenReached (s.hostWrite n v)

/-- SOCTL_WRITE (R392). -/
def execSoctlWrite (port : Nat) (v : Word) (s : State) : Host.Outcome State Fault Refusal :=
  s.whenReached (s.writeReg .host (0x0618 + port % 8) v).1

/-- The nonce and the registers a report names (R400); it names besides the measurements of the boot ROM, which is fixed, of the
firmware and of each key slot. -/
def reportOver (s : State) : List Word := [s.reg 0x0700, s.reg 0x0701, s.reg 0x0702, s.reg 0x0703, s.bootst, s.reg 0x0600, s.reg 0x0500]

/-- ATTESTATION_REPORT: the report lands at AREQ's address (R400); nothing lands while the link is down (R390). -/
def execAttestationReport (s : State) : Host.Outcome State Fault Refusal :=
  if (s.reg 0x0705).getLsbD 0 && s.linkUp then
    let bytes := (List.range 3885).map (Config.attest (reportOver s) s.boot.firmware ((List.range 8).map s.keyOf))
    .next { s.setReg 0x0705 2 with mem := Memory.writeBytes s.mem (State.hostAddr (s.reg 0x0704).toNat) bytes }
  else .next s

/-- BOOTC (R402). -/
def execBootc (v : Word) (s : State) : Host.Outcome State Fault Refusal := s.whenReached (s.writeReg .host 0x0711 v).1

end Sys2Proof.Machine
end

