-- ==== Sys2Proof/Machine/System.lean ====
section
/-! DEFINITION. Class 7: traps, breakpoints, registers, freezing, configuration writes, cancels, counters, IDLE,
attention and log records (R347-R356). -/

namespace Sys2Proof.Machine

/-- The tag of a result of CSRR, PERF and TIME (R347). -/
def tagA (bt : Beat) : BitVec 3 := (bt.a.bits >>> 16).setWidth 3

/-- A late result of a system instruction: known now, not before `lat` cycles (R347). -/
def sysResult (s : State) (bt : Beat) (c : Carry) (d : Dst) (v : Word) (tag : BitVec 3) (fl : Flags) : Out :=
  .go { s := bt.deliverLate s d v tag fl 0, c := c, need := bt.lateNeed d }

/-- TRAP (R348). -/
def execTrap (t : Fin 64) (a : Opd) (s : State) : Host.Outcome State Fault Refusal :=
  fire { t := t, a := a.src, pa := a.peek
         beat := fun s bt _ => .trap (bt.raise s bt.poisonFlag) 0x26 0 bt.a.bits.toNat } s

/-- BRK under the debug attribute: the picker stops and a record is written; otherwise nothing (R351). -/
def brkBeat (s : State) (bt : Beat) (c : Carry) : Out :=
  match s.unit? bt.u with
  | none => .hold s c
  | some x =>
    if x.debug then
      let s := bt.mod s fun y => { y with pick := .brk }
      .go { s := s.putFault { State.elemRec x bt.e bt.slot with kind := 2, cause := 0x28 }, c := c }
    else .go { s := s, c := c }

/-- BRK (R351). -/
def execBrk (t : Fin 64) (s : State) : Host.Outcome State Fault Refusal := fire { t := t, beat := brkBeat } s

/-- CSRR (R349). -/
def execCsrr (t : Fin 64) (d : Dst) (a : Opd) (s : State) : Host.Outcome State Fault Refusal :=
  fire { t := t, a := a.src, pa := a.peek
         beat := fun s bt c =>
           let r := s.readReg (.elem bt.u bt.e) (bt.a.bits.toNat % 65536)
           sysResult r.1 bt c d r.2.1 (tagA bt) (Flags.when (!r.2.2) Flags.invalid) } s

/-- CSRW (R349). -/
def execCsrw (t : Fin 64) (a b : Opd) (s : State) : Host.Outcome State Fault Refusal :=
  fire { t := t, a := a.src, b := b.src, pa := a.peek, pb := b.peek
         beat := fun s bt c =>
           let r := (bt.raise s bt.poisonFlag).writeReg (.elem bt.u bt.e) (bt.a.bits.toNat % 65536) bt.bb.bits
           .go { s := bt.raise r.1 (Flags.when (!r.2) Flags.invalid), c := c } } s

/-- The section of the element is secure. -/
def Beat.secure (bt : Beat) (s : State) : Bool :=
  match s.unit? bt.u with
  | some x => x.secure
  | none => false

/-- One beat of FRZ: its result comes once the section is read out (R350, R374, R378). -/
def frzBeat (d : Dst) (s : State) (bt : Beat) (c : Carry) : Out :=
  let w := FrzWord.of (bt.a.bits.toNat % 2 ^ 32)
  let id := s.nextId
  match s.bumpId.freezeOp w (bt.bb.bits.toNat % 2 ^ 56) (some bt.u) (bt.secure s) (some (bt.u, bt.e, id)) with
  | (s, some code, fl) => sysResult s bt c d (BitVec.ofNat 64 code) bt.T fl
  | (s, none, _) => .go { s := bt.promise (bt.raise s bt.poisonFlag) d bt.T 0 id, c := c, need := bt.lateNeed d }

/-- FRZ (R350). -/
def execFrz (t : Fin 64) (d : Dst) (a b : Opd) (s : State) : Host.Outcome State Fault Refusal :=
  fire { t := t, a := a.src, b := b.src, pa := a.peek, pb := b.peek, beat := frzBeat d } s

/-- One beat of THAW: where it succeeds its result comes once the section is placed (R350, R376, R411). -/
def thawBeat (d : Dst) (s : State) (bt : Beat) (c : Carry) : Out :=
  let w := FrzWord.of (bt.a.bits.toNat % 2 ^ 32)
  let id := s.nextId
  match s.bumpId.thawOp w (bt.bb.bits.toNat % 2 ^ 56) (bt.secure s) (some (bt.u, bt.e, id)) with
  | (s, some code, fl) => sysResult s bt c d (BitVec.ofNat 64 code) bt.T fl
  | (s, none, _) => .go { s := bt.promise (bt.raise s bt.poisonFlag) d bt.T 0 id, c := c, need := bt.lateNeed d }

/-- THAW (R350). -/
def execThaw (t : Fin 64) (d : Dst) (a b : Opd) (s : State) : Host.Outcome State Fault Refusal :=
  fire { t := t, a := a.src, b := b.src, pa := a.peek, pb := b.peek, beat := thawBeat d } s

/-- The next snapshot serial: 0 is skipped (R379). -/
def nextSnap (n : Nat) : Nat := if (n + 1) % 2 ^ 32 = 0 then 1 else (n + 1) % 2 ^ 32

/-- A snapshot is due at the end of the unit; its serial (R352). -/
def State.askSnap (s : State) (u : Nat) : State × Nat :=
  match s.unit? u with
  | none => (s, 0)
  | some x =>
    match x.snapSerial with
    | some n => (s, n)
    | none =>
      ({ s.setUnit u { x with snapFlag := true, snapSerial := some s.snapNext } with snapNext := nextSnap s.snapNext }, s.snapNext)

/-- SNAP (R352). -/
def execSnap (t : Fin 64) (d : Dst) (a : Opd) (s : State) : Host.Outcome State Fault Refusal :=
  fire { t := t, a := a.src, pa := a.peek
         beat := fun s bt c =>
           let r := s.askSnap bt.u
           sysResult r.1 bt c d (BitVec.ofNat 64 r.2) bt.T 0 } s

/-- One beat of TLBI (R350, R365): the result comes when the invalidation has completed. -/
def tlbiBeat (d : Dst) (s : State) (bt : Beat) (c : Carry) : Out :=
  match s.unit? bt.u with
  | none => .hold s c
  | some x =>
    match tlbiRange bt.a.bits.toNat bt.bb.bits.toNat with
    | none => sysResult s bt c d 3 bt.T 0
    | some (lo, hi) =>
      let id := s.nextId
      let s := bt.promise (bt.raise s.bumpId bt.poisonFlag) d bt.T 0 id
      .go { s := s.tlbiStart { tenant := x.tenant, lo := lo, hi := hi, u := bt.u, e := bt.e, late := some id }
            c := c, need := bt.lateNeed d }

/-- TLBI (R350). -/
def execTlbi (t : Fin 64) (d : Dst) (a b : Opd) (s : State) : Host.Outcome State Fault Refusal :=
  fire { t := t, a := a.src, b := b.src, pa := a.peek, pb := b.peek, beat := tlbiBeat d } s

/-- The unit and element that a CFGW names, where they are placed (R353). -/
def State.cfgwTarget (s : State) (u : Nat) (a : Nat) : Option (Nat × Nat) :=
  let unit := if bitsOf a 63 63 = 0 then (s.unit? u).map fun x => (u, x)
    else s.units.find? fun p => p.2.placed && p.2.job == bitsOf a 43 32 && p.2.section_ == bitsOf a 51 44 && p.2.replica == bitsOf a 57 52
  match unit with
  | none => none
  | some (v, x) =>
    let row := bitsOf a 6 0
    let col := bitsOf a 14 8
    if row < 8 * x.cfg.rows ∧ col < 8 * x.cfg.cols then some (v, x.cfg.elemAt row col) else none

/-- One beat of CFGW: it waits while the target is in the middle of a firing (R174, R353).  Where its check would read a word
of the target that cannot be corrected, the target traps and nothing is written; the code is then a free value (R174,
log 58). -/
def cfgwBeat (d : Dst) (s : State) (bt : Beat) (c : Carry) : Out :=
  let a := bt.a.bits.toNat
  let item := bitsOf a 17 16
  let idx := bitsOf a 23 18
  match s.cfgwTarget bt.u a with
  | none => sysResult s bt c d 0x11 bt.T 0
  | some (v, e) =>
    let x := s.elem v e
    let self := v == bt.u && e == bt.e
    if x.firing.isSome && !self then .hold s c
    else
      let code := cfgwReason (s.cfgOf v) (s.unit? v |>.map UnitSt.priv |>.getD false) x item idx bt.bb.bits
      if cfgwBroken x item bt.bb.bits then
        (if !s.canTrap v then .hold s c
         else if self then .trap s 0x27 bt.b 0
         else
           let free := Config.free s.freeCtr % 256
           let s := { s with freeCtr := s.freeCtr + 1 }
           sysResult (s.trap v e (if item = 2 then 0 else idx) 0x27 0 0 0 0) bt c d (BitVec.ofNat 64 free) bt.T 0)
      else
      let s := if code = 0 then s.modElem v e fun y => cfgwWrite y item idx bt.bb.bits else s
      sysResult s bt c d (BitVec.ofNat 64 code) bt.T 0

/-- CFGW (R353). -/
def execCfgw (t : Fin 64) (d : Dst) (a b : Opd) (s : State) : Host.Outcome State Fault Refusal :=
  fire { t := t, a := a.src, b := b.src, pa := a.peek, pb := b.peek, beat := cfgwBeat d } s

/-- What CANC does and its code (R354). -/
def cancOp (s : State) (x : UnitSt) (a : Nat) : State × Nat :=
  let level := bitsOf a 1 0
  let other := fun (j : Nat) => match s.job j with
    | some y => y.tenant != x.tenant
    | none => false
  if 2 ≤ level ∧ x.priv = false then (s, 2)
  else if bitsOf a 2 2 = 1 then s.cancelOwn x level
  else if other (bitsOf a 43 32) then (s, 2)
  else s.cancelNamed (bitsOf a 43 32) level (bitsOf a 59 48) (bitsOf a 31 16)

/-- CANC (R354).  Of a CANC and a CANCEL of one cycle the CANC comes first: none fires in the cycle of a CANCEL that has
taken effect. -/
def execCanc (t : Fin 64) (d : Dst) (a : Opd) (s : State) : Host.Outcome State Fault Refusal :=
  fire { t := t, a := a.src, pa := a.peek
         beat := fun s bt c =>
           match s.unit? bt.u with
           | none => .hold s c
           | some x =>
             if s.host.cancelAt = some s.clk.cyc then .hold s c
             else
             let r := cancOp s x bt.a.bits.toNat
             sysResult r.1 bt c d (BitVec.ofNat 64 r.2) bt.T (Flags.when (r.2 == 2) Flags.invalid) } s

/-- A performance counter; none for an index that names none (R355). -/
def perfCount (s : State) (x : UnitSt) (e idx : Nat) : Option Nat :=
  match idx with
  | 0 => some (x.elem e).perf[0]
  | 1 => some ((x.elem e).perf[1] + (x.elem e).heldFor s.clk.cyc)
  | 2 => some (x.elem e).perf[2]
  | 3 => some (x.elem e).perf[3]
  | 4 => some x.riders
  | 5 => some (s.exactCnt.getD (x.blockOf e) 0)
  | 6 => some x.drops
  | _ => none

/-- A count or zero with invalid. -/
def countResult (s : State) (bt : Beat) (c : Carry) (d : Dst) (n : Option Nat) : Out :=
  sysResult s bt c d (countWord (n.getD 0)) (tagA bt) (Flags.when n.isNone Flags.invalid)

/-- PERF (R355): the counters as they stand at the firing. -/
def execPerf (t : Fin 64) (d : Dst) (a : Opd) (s : State) : Host.Outcome State Fault Refusal :=
  fire { t := t, a := a.src, pa := a.peek
         beat := fun s bt c =>
           countResult s bt c d (match s.unit? bt.u with
             | some x => perfCount s x bt.e (bt.a.bits.toNat % 256)
             | none => none) } s

/-- What TIME returns for a code (R355). -/
def timeCount (s : State) (u code : Nat) : Option Nat :=
  match code with
  | 0 => some s.clk.cyc
  | 1 => some s.sweep.quick.step
  | 2 => some s.sweep.steady.step
  | 3 => some s.sweep.deep.step
  | 4 => some s.clk.win
  | 5 => (s.unit? u).map fun x => s.clk.cyc - x.armedAt
  | _ => none

/-- TIME (R355). -/
def execTime (t : Fin 64) (d : Dst) (a : Opd) (s : State) : Host.Outcome State Fault Refusal :=
  fire { t := t, a := a.src, pa := a.peek
         beat := fun s bt c => countResult s bt c d (timeCount s bt.u (bt.a.bits.toNat % 8)) } s

/-- What can wake an idled element, as it stands: heads of the inputs, pulses counted, credit of the outputs,
registers not pending, configuration tokens (R355). -/
def idleSig (x : UnitSt) (e : Nat) : List Nat :=
  let y := x.elem e
  let bit := fun (b : Bool) => if b then 1 else 0
  ((List.finRange 4).map fun c => bit !(y.visible c).isEmpty) ++ y.ctl.toList ++
    ((List.range 4).map fun o => bit (x.credit e o 1)) ++ (y.g.toList.map fun r => bit !r.pending) ++
    y.ins.toList.map fun c => (c.q.filter Token.isConfig).length

/-- IDLE (R355): the head that it takes away itself makes place for the next, which wakes it. -/
def execIdle (t : Fin 64) (a : Opd) (s : State) : Host.Outcome State Fault Refusal :=
  fire { t := t, a := a.src, pa := a.peek
         beat := fun s bt c =>
           let n := bt.a.bits.toNat % 2 ^ 24
           let sig := match s.unit? bt.u with
             | some x => idleSig x bt.e
             | none => []
           let sig := match a.src.chan? with
             | some ch => if a.peek then sig else listUpd sig ch.val fun _ => 0
             | none => sig
           let lim := if n = 0 then none else some (s.clk.cyc + n)
           .go { s := bt.mod (bt.raise s bt.poisonFlag) fun y => { y with pick := .idle lim sig }, c := c } } s

/-- An idled element has something to wake for: a signal that rose, or its limit (R355). -/
def State.wakes (s : State) (x : UnitSt) (e : Nat) : Bool :=
  match (x.elem e).pick with
  | .idle lim sig =>
    ((sig.zip (idleSig x e)).any fun p => decide (p.1 < p.2)) ||
      (match lim with
       | some n => decide (n ≤ s.clk.cyc)
       | none => false)
  | _ => false

/-- PEEK_CONTINUE_IDLE_WAKE (R355). -/
def execPeekContinueIdleWake (u e : Nat) (s : State) : Host.Outcome State Fault Refusal :=
  match s.unit? u with
  | none => .next s
  | some x => if s.wakes x e then .next (s.resume u e) else .next s

/-- The 32 bytes of an attention record (R330, R355). -/
def attnRecord (v : Word) : List Byte :=
  bytesOfNat 1 0x00 ++ bytesOfNat 1 5 ++ bytesOfNat 2 0 ++ bytesOfNat 4 0 ++ bytesOfNat 8 v.toNat ++ bytesOfNat 16 0

/-- ATTN (R355): it waits while the queue's waiting records are at their limit. -/
def execAttn (t : Fin 64) (a : Opd) (s : State) : Host.Outcome State Fault Refusal :=
  fire { t := t, a := a.src, pa := a.peek
         beat := fun s bt c =>
           match s.unit? bt.u with
           | none => .hold s c
           | some x =>
             let q := s.queueOf x.job
             if 64 ≤ s.waitingRecs q then .hold s c
             else .go { s := (bt.raise s bt.poisonFlag).putRecord q .comp (attnRecord bt.a.bits), c := c } } s

/-- LOG: a record that finds the ring full is dropped and counted (R356). -/
def execLog (t : Fin 64) (a b : Opd) (s : State) : Host.Outcome State Fault Refusal :=
  fire { t := t, a := a.src, b := b.src, pa := a.peek, pb := b.peek
         beat := fun s bt c =>
           match s.unit? bt.u with
           | none => .hold s c
           | some x =>
             let q := s.queueOf x.job
             let r := (s.queue q).log
             let s := bt.raise s bt.poisonFlag
             let room := { r with wr := (r.wr + r.waiting.length) % 2 ^ 32 }.room
             .go { s := if room then s.putRecord q .log (bytesOfNat 8 bt.a.bits.toNat ++ bytesOfNat 8 bt.bb.bits.toNat)
                        else s.countUp 0x0501
                   c := c } } s

end Sys2Proof.Machine
end

