-- ==== Sys2Proof/Machine/Fabric.lean ====
section
/-! DEFINITION. What happens inside a section between firings: tokens, pulses and late results that arrive, merges,
corner turns, the systolic path, predicate results, configuration tokens, and what an element does by itself
(R61, R62, R68-R70, R72-R76, R81, R119, R191, R197, R224, R232, R233, R296-R305, R316, R318). -/

namespace Sys2Proof.Machine

namespace Elem

/-! ## What an element does at its channel heads by itself (R61, R72, R191, R197) -/

/-- The first of all tokens of a channel, whether or not rules see it. -/
def front (x : Elem) (c : Fin 4) : Option Token :=
  match x.ins[c].q, x.ins[c].raw with
  | t :: _, _ => some t
  | [], t :: _ => some t
  | [], [] => none

/-- That token taken away. -/
def dropFront (x : Elem) (c : Fin 4) : Elem :=
  match x.ins[c].q with
  | _ :: rest => x.setChan c { x.ins[c] with q := rest }
  | [] => x.setChan c { x.ins[c] with raw := x.ins[c].raw.drop 1 }

/-- A configuration token written to the k-register its coordinate names; with other coordinate bits set it is
discarded with invalid (R191). -/
def configure (x : Elem) (t : Token) : Elem :=
  if t.coord.toNat / 8 = 0 then { x.mended (.k t.coord.toNat) with k := x.k.set (Fin.ofNat 8 t.coord.toNat) t.payload }
  else { x with fl := x.fl ||| Flags.invalid }

/-- The picker fires nothing for the rest of the unit (R197, R371). -/
def stopped (x : Elem) : Bool := x.pick == .halted || x.pick == .trapped

/-- A predicate firing waits at the channel for a token of its instance: it sees what stands there itself (R293, R303). -/
def geoWaits (x : Elem) (c : Fin 4) : Bool :=
  match x.firing with
  | some st => match ruleOf x st.slot with
    | some (i, _) => (useOf i).geo && (useOf i).a.src.chan? == some c
    | none => false
  | none => false

/-- Some trigger of the element conditions the channel with code 6. -/
def wantsDrain (x : Elem) (c : Fin 4) : Bool := x.trig.any fun p => Trig.cond p.2 c.val == 6

/-- One token that the element takes off a channel by itself: of a halted element every token, else a drain that no
trigger waits for. -/
def selfStep (x : Elem) (c : Fin 4) : Option Elem :=
  match x.front c with
  | none => none
  | some t =>
    if t.isDrain && !x.geoWaits c && (x.stopped || !x.wantsDrain c) then
      let y := x.dropFront c
      some (y.setChan c { y.ins[c] with passed := true })
    else if x.stopped then some (if t.isConfig then (x.dropFront c).configure t else x.dropFront c)
    else none

/-- Those steps on one channel, at most `n`, the merges going on after each. -/
def selfRun (c : Fin 4) : Nat → Elem → Elem
  | 0, x => x
  | n + 1, x =>
    match x.selfStep c with
    | some y => selfRun c n y.merge
    | none => x

/-- Everything the element takes by itself as its channels stand. -/
def selfTake (x : Elem) : Elem :=
  [0, 1, 2, 3].foldl (fun (y : Elem) (c : Fin 4) => selfRun c (y.ins[c].q.length + y.ins[c].raw.length) y) x.merge

/-! ## A token arrives at a channel (R68, R70) -/

/-- Tokens of a part of a queue that stay when the burst at its head is cut: what ends the burst, except as its tail, what
stands behind that, and configuration tokens; `lo` is the place of the part in the queue, `i` that of the end (R70,
log 57). -/
def cutBurst (i lo : Nat) (part : List Token) : List Token :=
  ((List.range part.length).zip part).filterMap fun p =>
    if lo + p.1 ≠ 0 && (p.2.isConfig || decide (i < lo + p.1) || (lo + p.1 == i && !p.2.isTail)) then some p.2 else none

/-- The burst at the head of a full whole-burst queue has no tail among its tokens, those in front of the merge included: its
head becomes poison where it stands, the rest is discarded through its tail, poison included (R70, log 57). -/
def burstCheck (x : Elem) (c : Fin 4) : Elem :=
  let k := x.ins[c]
  let all := k.q ++ k.raw
  if !x.cfg.whole.getLsbD c || decide (all.length < 32) || (burstLen all).isSome then x
  else match all with
    | [] => x
    | h :: rest =>
      let i := rest.findIdx Token.endsBurst + 1
      let bad := Token.poison 0x32 h.coord
      let q := cutBurst i 0 k.q
      let raw := cutBurst i k.q.length k.raw
      x.setChan c { k with q := if k.q.isEmpty then q else bad :: q
                           raw := if k.q.isEmpty then bad :: raw else raw
                           skip := decide (all.length ≤ i) }

/-- A token joins a channel. -/
def accept (x : Elem) (c : Fin 4) (t : Token) : Elem :=
  let k := x.ins[c]
  if k.skip && (t.isData || t.isPoison) then x.setChan c { k with skip := !t.isTail }
  else
    let k := { k with skip := k.skip && t.isConfig }
    let y := if x.pairMode c = 0 then x.setChan c { k with q := k.q ++ [t] } else x.setChan c { k with raw := k.raw ++ [t] }
    let y := (y.merge.burstCheck c).merge
    if y.stopped then y.selfTake else y

end Elem

/-! ## Routes (R28, R57, R318) -/

/-- The block of a corner turn of side `side` in column order, empty places skipped (R318). -/
def columnOrder (side : Nat) (l : List Token) : List Token :=
  ((List.range side).map fun c => (List.range side).filterMap fun r => l[r * side + c]?).flatten

namespace State

/-- An endpoint has a place for one more token. -/
def endRoom (x : UnitSt) : Endpoint → Bool
  | .chan row col ch => let k := (x.elem (x.cfg.elemAt row col)).ins[Fin.ofNat 4 ch]; decide (k.q.length + k.raw.length < 32)
  | .tile t => decide ((x.tile t).fifo.length < 16384)
  | .port n => decide ((x.bindSt n).inq.length < 16)
  | .none => false

/-- A token reaches an endpoint (R61, R72, R111, R414). -/
def land (s : State) (u : Nat) (x : UnitSt) (ep : Endpoint) (t : Token) : State :=
  let x := { x with quietAt := s.clk.cyc }
  match ep with
  | .chan row col ch => let e := x.cfg.elemAt row col; s.setUnit u (x.setElem e ((x.elem e).accept (Fin.ofNat 4 ch) t))
  | .tile k =>
    s.setUnit u (x.setTile k { x.tile k with fifo := (x.tile k).fifo ++ [t] })
  | .port n => portTake (s.setUnit u x) u n t
  | .none => s

/-- The token at the head of a route that has arrived: in flight, or the head of the FIFO the route comes from; one of those that
cannot be corrected leaves the FIFO as poison (R383 names the readers of tile words, and no route: DESIGN CHOICE, log 66). -/
def routeHead (x : UnitSt) (i : Nat) (r : Route) : Option (Token × UnitSt) :=
  let st := x.route i
  match st.toks, r.src with
  | t :: rest, _ => some (t, x.setRoute i { st with toks := rest })
  | [], .tile k =>
    (match (x.tile k).fifo with
     | t :: _ => some (if (x.tile k).badFifo.contains 0 then Token.poison 0x0D t.coord else t, x.setTile k (x.tile k).dropHead)
     | [] => none)
  | [], _ => none

/-- A data head that a route does not admit (R28). -/
def Route.refuses (r : Route) (t : Token) : Bool := t.isData && !r.admits.getLsbD t.tag.toNat

/-- The token at the head of route `i` goes where it goes: to the divert target, into the corner turn, or to the target
(R28, R57, R318); it stays where there is no place, and a refused token without a divert target stays too. -/
def arriveRoute (s : State) (u i : Nat) : State :=
  match s.unit? u with
  | none => s
  | some x =>
    match x.cfg.routes[i]? with
    | none => s
    | some r =>
      match routeHead x i r with
      | none => s
      | some (t, y) =>
        if Route.refuses r t then (if endRoom x r.divert then s.land u y r.divert t else s)
        else if r.turn = 0 then (if endRoom x r.dst then s.land u y r.dst t else s)
        else
          let st := y.route i
          if !st.order.isEmpty then s
          else if t.isData then
            let l := st.turn ++ [t]
            let st := if l.length = r.turn * r.turn then { st with turn := [], order := columnOrder r.turn l } else { st with turn := l }
            s.setUnit u { y.setRoute i st with quietAt := s.clk.cyc }
          else if st.turn.isEmpty then (if endRoom x r.dst then s.land u y r.dst t else s)
          else s.setUnit u { y.setRoute i { st with turn := [], order := columnOrder r.turn st.turn ++ [t] } with quietAt := s.clk.cyc }

/-- The next token of a corner turn leaves for the target (R318). -/
def emitTurn (s : State) (u i : Nat) : State :=
  match s.unit? u with
  | none => s
  | some x =>
    match x.cfg.routes[i]? with
    | none => s
    | some r =>
      let st := x.route i
      match st.order with
      | [] => s
      | t :: rest => if endRoom x r.dst then s.land u (x.setRoute i { st with order := rest }) r.dst t else s

end State

/-- The unit holds a placement: its section's events take place. -/
def State.placed? (s : State) (u : Nat) : Option UnitSt :=
  match s.unit? u with
  | some x => if x.placed then some x else none
  | none => none

/-- An event of a placed unit's section. -/
def inSection (s : State) (u : Nat) (f : UnitSt → State) : Host.Outcome State Fault Refusal :=
  match s.placed? u with
  | some x => .next (f x)
  | none => .next s

/-- CHANNEL_TOKEN_ARRIVAL (R68). -/
def execChannelTokenArrival (u route : Nat) (s : State) : Host.Outcome State Fault Refusal :=
  inSection s u fun _ => s.arriveRoute u route

/-- CORNER_TURN_EMIT (R318). -/
def execCornerTurnEmit (u route : Nat) (s : State) : Host.Outcome State Fault Refusal :=
  inSection s u fun _ => s.emitTurn u route

/-- The element that sends on a route has completed its fences up to number `n` (R134, R145). -/
def fencesPast (s : State) (u : Nat) (x : UnitSt) (r : Route) (n : Nat) : Bool :=
  match r.src with
  | .chan row col _ =>
    let e := x.cfg.elemAt row col
    (x.elem e).fences.all fun f => decide (n < f.2) || fenceDone s u e f
  | _ => true

/-- A pulse of a route that arrives: one that nothing holds back, else the first whose fences are complete. -/
def takePulse (s : State) (u : Nat) (x : UnitSt) (r : Route) (st : RouteSt) : Option RouteSt :=
  if st.pulses ≠ 0 then some { st with pulses := st.pulses - 1 }
  else
    let i := st.fenced.findIdx (fencesPast s u x r)
    if i < st.fenced.length then some { st with fenced := listDel st.fenced i } else none

/-- PULSE_ARRIVAL (R62). -/
def execPulseArrival (u route : Nat) (s : State) : Host.Outcome State Fault Refusal :=
  inSection s u fun x =>
    match x.cfg.routes[route]? with
    | none => s
    | some r =>
      match r.dst, takePulse s u x r (x.route route) with
      | .chan row col ch, some st =>
        if ch < 8 then s
        else
          let e := x.cfg.elemAt row col
          let y := x.setRoute route st
          s.setUnit u (y.setElem e ((y.elem e).addPulse (Fin.ofNat 4 ch) 1))
      | _, _ => s

/-- CONFIG_TOKEN_CONSUME (R61, R191): between two firings of the element. -/
def execConfigTokenConsume (u e ch : Nat) (s : State) : Host.Outcome State Fault Refusal :=
  inSection s u fun x =>
    let y := x.elem e
    let c := Fin.ofNat 4 ch
    match y.front c with
    | some t =>
      if t.isConfig && y.firing.isNone && decide (y.busy ≤ s.clk.cyc) then
        s.setUnit u (x.setElem e ((y.dropFront c).configure t).merge)
      else s
    | none => s

/-! ## Late results (R224, R253) -/

/-- No earlier late result of the element goes to the same place. -/
def firstThere (l : List Late) (i : Nat) (d : LateDst) : Bool :=
  let outs := fun (x : LateDst) => match x with
    | .out o => outsOf o
    | _ => []
  !((l.take i).any fun k => k.dst == d || (outs k.dst).any (outs d).contains)

/-- LATE_RESULT_WRITE: the result is known, its latency is over, and it is the first for its destination (R224). -/
def execLateResultWrite (u e idx : Nat) (s : State) : Host.Outcome State Fault Refusal :=
  inSection s u fun x =>
    let y := x.elem e
    match y.late[idx]? with
    | some l =>
      if l.tok.isSome && decide (l.due ≤ s.clk.cyc) && firstThere y.late idx l.dst then
        s.setUnit u (State.writeLate (x.setElem e { y with late := listDel y.late idx }) e l)
      else s
    | none => s

/-- The waiting request may go: an earlier one for its word, or its end of the FIFO, that could go goes first
(R253). -/
def aheadOf (t : Tile) (i : Nat) (r : MemReq) : Bool :=
  (t.waiting.take i).any fun w => w.word == r.word && (w.op == .pop) == (r.op == .pop) && (w.op == .push) == (r.op == .push) && w.op.ready t w.word

/-- FE_WAIT_COMPLETE (R126, R253, R383). -/
def execFeWaitComplete (u tile idx : Nat) (s : State) : Host.Outcome State Fault Refusal :=
  inSection s u fun x =>
    let t := x.tile tile
    match t.waiting[idx]? with
    | some r =>
      if !r.op.ready t r.word || aheadOf t idx r then s
      else if State.badWord x r then
        (if s.canTrap u then (s.setUnit u (x.setTile tile { t with waiting := listDel t.waiting idx })).failReq u r else s)
      else (s.setUnit u (x.setTile tile { t with waiting := listDel t.waiting idx })).perform u r
    | none => s

/-! ## Predicate results (R297, R298, R304, R305, R316) -/

/-- An instance whose result is known from this cycle on. -/
def settleInst (x : UnitSt) (e i : Nat) (g : GeoInst) (now : Nat) (v : Int × Nat) : UnitSt :=
  let k := g.token x.cfg.pal v
  let y := x.elem e
  x.setElem e { y with win := listUpd y.win i fun h => { h with stage := .known k.1, due := max h.due now }, fl := y.fl ||| k.2 }

/-- The device-wide number of an element of a unit. -/
def State.devNumber (s : State) (u e : Nat) : Nat :=
  match s.unit? u with
  | some x => x.devElem e
  | none => 0

/-- The queue of an exact unit with an element's request in it, which arrived at a cycle: in order of arrival, requests of
one cycle in ascending element number (R298, R316). -/
def exactJoin (s : State) (b u e at_ : Nat) : State :=
  let q := s.exact.getD b []
  let later := fun (p : Nat × Nat × Nat) => decide (at_ < p.2.2) || (p.2.2 == at_ && decide (s.devNumber u e < s.devNumber p.1 p.2.1))
  let i := q.findIdx later
  { s with exact := s.exact.set b (q.take i ++ (u, e, at_) :: q.drop i)
           exactCnt := s.exactCnt.set b (s.exactCnt.getD b 0 + 1) }

/-- STAGE_B_RESULT: instance `idx` of the window, the first that is in stage B, is decided, or its request has reached the
exact unit of its block in the cycle after its stage B ended (R297, R305, R315). -/
def execStageBResult (u e idx : Nat) (s : State) : Host.Outcome State Fault Refusal :=
  inSection s u fun x =>
    let y := x.elem e
    match y.win[idx]? with
    | some g =>
      if g.stage != .inB || decide (s.clk.cyc < g.due) || ((y.win.take idx).any fun h => h.stage == .inB) then s
      else match decideInst g.pred g.sym .b g.pts with
        | some v => s.setUnit u (settleInst x e idx g s.clk.cyc v)
        | none =>
          exactJoin (s.setUnit u (x.setElem e { y with win := listUpd y.win idx fun h => { h with stage := .inC } })) (x.blockOf e) u e g.due
    | none => s

/-- A request that is still to reach a block's exact unit stands before one that arrived at a cycle: its stage B has ended, in
that cycle or before, and does not decide it (R298, R315, R316). -/
def exactBefore (s : State) (b u e at_ : Nat) : Bool :=
  s.units.any fun p => p.2.placed && p.2.elems.any fun k =>
    p.2.blockOf k.1 == b && k.2.win.any fun g =>
      g.stage == .inB && (decideInst g.pred g.sym .b g.pts).isNone &&
      (decide (g.due < at_) || (g.due == at_ && decide (p.2.devElem k.1 < s.devNumber u e)))

/-- EXACT_UNIT_RESULT: the head of a block's exact unit is decided, no request that comes before it being still to arrive
(R298, R316). -/
def execExactUnitResult (block : Nat) (s : State) : Host.Outcome State Fault Refusal :=
  match s.exact.getD block [] with
  | [] => .next s
  | (u, e, at_) :: rest =>
    if exactBefore s block u e at_ then .next s
    else
    let t := { s with exact := s.exact.put block rest [] }
    match s.placed? u with
    | none => .next t
    | some x =>
      let y := x.elem e
      let i := y.win.findIdx fun g => g.stage == .inC
      match y.win[i]? with
      | some g => match decideInst g.pred g.sym .c g.pts with
        | some v => .next (t.setUnit u (settleInst x e i g s.clk.cyc v))
        | none => .next t
      | none => .next t

/-- PREDICATE_RESULT_SEND: the oldest instance's token leaves, one a cycle, credit taken then (R304). -/
def execPredicateResultSend (u e : Nat) (s : State) : Host.Outcome State Fault Refusal :=
  inSection s u fun x =>
    let y := x.elem e
    match y.win with
    | g :: rest =>
      (match g.stage with
       | .known t =>
         let outs := outsOf g.dst
         if s.clk.cyc < g.due || !(outs.all fun o => x.credit e o 1) then s
         else
           let rest := match rest with
             | h :: r => { h with due := max h.due (s.clk.cyc + 1) } :: r
             | [] => []
           s.setUnit u (outs.foldl (fun z o => z.send e o t) (x.setElem e { y with win := rest }))
       | _ => s)
    | [] => s

/-! ## The systolic path (R81, R232, R233) -/

/-- The vector of a north edge (R232). -/
def PsVec.zero : PsVec := { lanes := List.replicate 16 0, fp := false, poison := false }

/-- A vector whose pairing cannot be computed (R232). -/
def PsVec.nan (p : PsVec) : PsVec := { p with lanes := List.replicate 16 0x7FC00000, fp := true }

/-- A token meets a vector: the vector after it, flags, and the cycles it takes (R232). -/
def sysMeet (pal : Word) (flush : Bool) (mode : RMode) (mb : MicroBlock) (t : Token) (p : PsVec) : PsVec × Flags × Nat :=
  let ca := t.coord.toNat / 8 % 8
  let cb := t.coord.toNat % 8
  match palFmt pal t.tag.toNat with
  | some f =>
    if ca ≥ 6 ∨ cb ≥ 6 ∨ macFmt f = false then (p.nan, Flags.invalid, 1)
    else
      let q := pairOf f mb ca cb
      let fp := p.fp || q.ty != .int32
      let old := fun (i : Nat) =>
        let b := (p.lanes.getD i 0).toNat
        if p.fp then FFmt.fp32.decode flush b else let n := sintOf 32 b; .fin (decide (n < 0)) n.natAbs 0
      let ls := (List.range mb.n).map fun c =>
        storeLane (if fp then .fp32 else .int32) flush mode
          (sumT mode (Term.of (old c) :: colTerms f flush t.payload mb q c))
      let lanes := (List.range 16).map fun i => match ls[i]? with
        | some l => BitVec.ofNat 32 l.bits
        | none => p.lanes.getD i 0
      ({ p with lanes := lanes, fp := fp }, ls.foldl (fun a l => a ||| l.fl) 0, q.q)
  | none => (p.nan, Flags.invalid, 1)

/-- The vector that waits for the next token of an element: from the north, or the north edge's own. -/
def northVec (x : UnitSt) (e : Nat) : Option (PsVec × UnitSt) :=
  let row := x.cfg.rowOf e
  let y := x.elem e
  if row = 0 ∨ sysAt x (row - 1) (x.cfg.colOf e) = false then some (PsVec.zero, x)
  else match y.psIn with
    | p :: rest => some (p, x.setElem e { y with psIn := rest })
    | [] => none

/-- A token leaves an element eastward: into the next element of the region, else on o1's route if it has one. -/
def passEast (x : UnitSt) (e : Nat) (t : Token) : Option UnitSt :=
  let row := x.cfg.rowOf e
  let col := x.cfg.colOf e
  if sysAt x row (col + 1) then
    let n := x.cfg.elemAt row (col + 1)
    let k := (x.elem n).ins[(0 : Fin 4)]
    if k.q.length + k.raw.length < 32 then some (x.setElem n ((x.elem n).accept 0 t)) else none
  else if x.credit e 1 1 then some (x.send e 1 t)
  else none

/-- A vector leaves an element southward: into the next element, else towards the element's own accumulators. -/
def passSouth (x : UnitSt) (e : Nat) (p : PsVec) (t : Token) : UnitSt :=
  let row := x.cfg.rowOf e
  let col := x.cfg.colOf e
  if sysAt x (row + 1) col then
    let n := x.cfg.elemAt (row + 1) col
    x.setElem n { x.elem n with psIn := (x.elem n).psIn ++ [p] }
  else x.setElem e { x.elem e with south := (x.elem e).south ++ [({ p with n := (x.elem e).mb.n }, t)] }

/-- The rule of a slot is a WLD. -/
def isWld : Instr → Bool
  | .wld _ _ _ => true
  | _ => false

/-- WLD holds the datapath, or is the rule that the picker would start now: it goes before a token (R234). -/
def wldFirst (s : State) (u : Nat) (x : UnitSt) (e : Nat) : Bool :=
  let y := x.elem e
  let could := fun (k : Nat) => match ruleOf y k with
    | some (i, t) => holds x e (useOf i) t && waveAdmits y k && resources s u x e k i (useOf i) t
    | none => false
  let wldAt := fun (k : Nat) => match ruleOf y k with
    | some (i, _) => isWld i
    | none => false
  decide (s.clk.cyc < y.wldBusy) ||
  match y.firing with
  | some st => wldAt st.slot
  | none => y.pick == .run && decide (y.busy ≤ s.clk.cyc) && y.heldBy.isNone &&
      (((List.range 32).find? could).map wldAt).getD false

/-- SYSTOLIC_TOKEN_PROCESS (R232, R234, R305): the head of i0, as its merge and its whole-burst input show it (R68, R70), and the
next vector; a mark head goes east unchanged. -/
def execSystolicTokenProcess (u e : Nat) (s : State) : Host.Outcome State Fault Refusal :=
  inSection s u fun x =>
    let y := x.elem e
    if !y.cfg.systolic || y.stopped || decide (s.clk.cyc < max y.sysBusy y.brickBusy) || wldFirst s u x e then s
    else match (y.visible 0).head? with
      | none => s
      | some t =>
        if t.isDrain then s
        else if t.isData then
          match northVec x e with
          | none => s
          | some (p, x) =>
            let r := sysMeet x.cfg.pal x.cfg.flush (RMode.ofCode x.cfg.mode) y.mb t p
            let z := x.elem e
            let x := x.setElem e { (z.dequeue 0) with sysBusy := s.clk.cyc + r.2.2, fl := z.fl ||| r.2.1 }
            (match passEast x e t with
             | some x => s.setUnit u { passSouth x e r.1 t with quietAt := s.clk.cyc }
             | none => s)
        else if t.isPoison then
          match northVec x e with
          | none => s
          | some (p, x) =>
            let z := x.elem e
            let x := x.setElem e { (z.dequeue 0) with sysBusy := s.clk.cyc + 1 }
            (match passEast x e t with
             | some x => s.setUnit u { passSouth x e { p with poison := true } t with quietAt := s.clk.cyc }
             | none => s)
        else match passEast (x.setElem e (y.dequeue 0)) e t with
          | some x => s.setUnit u { x with quietAt := s.clk.cyc }
          | none => s

/-- A firing that stands stopped in the middle, by what its rule uses. -/
def midFiring (y : Elem) (p : Use → Bool) : Bool :=
  match y.firing with
  | some st => match ruleOf y st.slot with
    | some (i, _) => p (useOf i)
    | none => false
  | none => false

/-- An addition to accumulator `k` waits: an ACRD of it is in progress, or a firing that uses the bricks or the accumulators
is (R235, R247). -/
def additionWaits (y : Elem) (k : Fin 4) : Bool :=
  (y.late.any fun l => l.acc == some k) || midFiring y fun i => i.bricks || i.acc.isSome || i.accR.isSome

/-- SOUTH_EDGE_ADD (R233). -/
def execSouthEdgeAdd (u e : Nat) (s : State) : Host.Outcome State Fault Refusal :=
  inSection s u fun x =>
    let y := x.elem e
    match y.south with
    | [] => s
    | (p, t) :: rest =>
      if !p.poison && additionWaits y (Fin.ofNat 4 (t.coord.toNat / 64)) then s else
      let y := { y with south := rest }
      let y := if p.poison then { y with fl := y.fl ||| Flags.invalid }
        else
          let k := Fin.ofNat 4 (t.coord.toNat / 64)
          let old := y.acc[k]
          let n := max p.n 1
          let j := t.coord.toNat / 256 % (256 / n)
          let fp := p.fp || old.ty == .fp32
          let ty : AccTy := if fp then .fp32 else .int32
          let r := old.retype ty true
          let mode := RMode.ofCode x.cfg.mode
          let add := fun (a : Acc × Flags) (c : Nat) =>
            let i := n * j + c
            let b := (p.lanes.getD c 0).toNat
            let v := if p.fp then FFmt.fp32.decode x.cfg.flush b else let m := sintOf 32 b; .fin (decide (m < 0)) m.natAbs 0
            let l := storeLane ty x.cfg.flush mode (sumT mode [Term.of (a.1.val x.cfg.flush i), Term.of v])
            (a.1.setLane i l.bits, a.2 ||| l.fl)
          let m := (List.range n).foldl add (r.1, r.2)
          { y.setAcc k m.1 with fl := y.fl ||| m.2 }
      s.setUnit u (x.setElem e (if t.isTail then y.addPulse 3 1 else y))

/-! ## Status, gates, watchdog (R73-R76) -/

/-- STARVE_BIT_SET (R74). -/
def execStarveBitSet (u e slot : Nat) (s : State) : Host.Outcome State Fault Refusal :=
  inSection s u fun x =>
    let y := x.elem e
    match y.starveAt.get? slot with
    | some c =>
      if slotHolds x e slot && decide (c + 2 ^ 20 ≤ s.clk.cyc) then
        let bit : BitVec 32 := 1#32 <<< (slot % 32)
        s.setUnit u (x.setElem e { y with starve := y.starve ||| bit, starveNow := (s.clk.cyc, y.starvedIn s.clk.cyc ||| bit) })
      else s
    | none => s

/-- ELEMENT_STATUS_IDLE_SET (R75): 2^24 cycles since its last firing, or since it was armed. -/
def execElementStatusIdleSet (u e : Nat) (s : State) : Host.Outcome State Fault Refusal :=
  inSection s u fun x =>
    let y := x.elem e
    if max y.lastFire x.armedAt + 2 ^ 24 ≤ s.clk.cyc then s.setUnit u (x.setElem e { y with idleBit := true }) else s

/-- A gated half moved to the state asked for: it leaves off only to on, zero and absent (R76). -/
def moveGate (y : Elem) (want : Gate) : Elem :=
  match y.gate, want with
  | .off, .on => { State.halfOff y with gate := .on }
  | .off, _ => y
  | _, .off => State.halfOff y
  | _, w => { y with gate := w }

/-- GATE_STATE_CHANGE (R76): between two firings of the element. -/
def execGateStateChange (u e : Nat) (s : State) : Host.Outcome State Fault Refusal :=
  inSection s u fun x =>
    let y := x.elem e
    if y.cfg.gated && y.firing.isNone && decide (y.busy ≤ s.clk.cyc) then
      s.setUnit u (x.setElem e (moveGate y (s.gateWanted (x.quarterOf e) true)))
    else s

/-- The cycle since which no element of the section has fired and no token moved (R73). -/
def quietSince (x : UnitSt) : Nat := x.elems.foldl (fun m p => max m (max p.2.lastFire p.2.busy)) x.quietAt

/-- A mark head that stands at a channel and that no trigger of the element can consume (R73). -/
def stuckMark (y : Elem) (c : Fin 4) : Bool :=
  match y.front c with
  | none => false
  | some t =>
    let takes := fun (code : Nat) => match code with
      | 2 => true
      | 3 => t.isEos
      | 6 => t.isDrain
      | _ => false
    let reads := (List.range 32).any fun k => match ruleOf y k with
      | some (i, w) => Trig.cond w c.val == 0 && ((useOf i).a.src.chan? == some c || (useOf i).b.src.chan? == some c)
      | none => false
    !t.isData && !t.isConfig && !(y.trig.any fun p => takes (Trig.cond p.2 c.val)) && !reads

/-- A trigger of the element holds for a rule that looks at the channel or reads it (R73). -/
def heldFor (x : UnitSt) (e : Nat) (c : Fin 4) : Bool :=
  (List.range 32).any fun k => slotHolds x e k && match ruleOf (x.elem e) k with
    | some (i, w) => Trig.cond w c.val != 0 || (useOf i).a.src.chan? == some c || (useOf i).b.src.chan? == some c
    | none => false

/-- Data heads stand on a route: in a corner turn that is not full (R318), or at its head where the route neither admits
nor diverts them (R28). -/
def routeStuck (x : UnitSt) (i : Nat) : Bool :=
  let st := x.route i
  !st.turn.isEmpty || match x.cfg.routes[i]?, st.toks.head? with
    | some r, some t => State.Route.refuses r t && r.divert == .none
    | _, _ => false

/-- The cause of a watchdog record (R73). -/
def watchCause (s : State) (u : Nat) (x : UnitSt) : Nat :=
  if x.elems.any fun p => (List.finRange 4).any fun c => stuckMark p.2 c then 0
  else if (x.elems.any fun p => (List.finRange 4).any fun c =>
      ((p.2.visible c).head?.map Token.isData).getD false && !heldFor x p.1 c) || (List.range x.cfg.routes.length).any (routeStuck x) then 1
  else if !x.reqs.isEmpty || !(State.asideOf x).isEmpty || (x.bind.any fun p => !p.2.open_.isEmpty) ||
      s.sweep.items.any fun p => p.2.u == u then 2
  else 3

/-- WATCHDOG_EXPIRY (R73, R351, R369): it does not count while an element is stopped by BRK. -/
def execWatchdogExpiry (u : Nat) (s : State) : Host.Outcome State Fault Refusal :=
  inSection s u fun x =>
    if (x.elems.any fun p => p.2.pick == .brk) || decide (s.clk.cyc < quietSince x + 2 ^ 24) then s
    else
      (s.setUnit u { x with quietAt := s.clk.cyc }).putFault
        { kind := 2, agent := 6, cause := 0x2A, job := x.job, section_ := x.section_, replica := x.replica
          unit := x.serial, snap := x.lastSnap, pa := watchCause s u x }

/-! ## Slot streams (R119) and buffers (R114) -/

/-- The tokens a request of a slot stream brings (R119). -/
def slotStream (s : State) (x : UnitSt) (k : Token) : List Token :=
  if !k.isData then [k]
  else
    let v := k.payload.toNat
    let slot := s.slotOf x.nwQuarter (v % 512)
    let off := bitsOf v 31 16
    let n := bitsOf v 45 32
    let bad := slot.job != some x.job || off % 8 != 0 || n == 0 || decide (8192 < n) || decide (65536 < off + 8 * n) ||
      bitsOf v 15 12 != 0 || bitsOf v 63 46 != 0
    if bad then [Token.poison 0x05 0]
    else if (List.range n).any fun i => slot.bad.contains (off / 8 + i) then [Token.poison 0x0D 0]
    else (List.range n).map fun i =>
      let mark := (if i = 0 then 1 else 0) + (if i + 1 = n then 2 else 0)
      ⟨BitVec.ofNat 3 mark, BitVec.ofNat 3 (bitsOf v 11 9), BitVec.ofNat 32 i, slot.words.getD (off / 8 + i) 0⟩

/-- The request at the head of slot binding `n` has its turn: its element sent no request for the same slot before it through
another binding that has not been served (R122, R125). -/
def slotTurn (x : UnitSt) (n : Nat) : Bool :=
  let slotAt := fun (b : BindSt) (i : Nat) => (b.inq[i]?).map fun k => k.payload.toNat % 512
  let b := x.bindSt n
  (b.own.filter fun o => o.place == 1 && o.wave).all fun o =>
    !(x.bind.any fun p => p.1 != n && p.2.own.any fun k =>
      k.e == o.e && k.wave && decide (k.num < o.num) && slotAt p.2 (k.place - 1) == slotAt b 0)

/-- SLOT_STREAM_REQUEST: the oldest request of the binding is served whole (R119). -/
def execSlotStreamRequest (u n : Nat) (s : State) : Host.Outcome State Fault Refusal :=
  inSection s u fun x =>
    let b := x.bindSt n
    match b.inq with
    | [] => s
    | k :: rest =>
      if (x.cfg.bindCfg n).kind = .slot ∧ slotTurn x n then
        (s.setUnit u (x.setBind n { b.ownNext with inq := rest })).deliverTo 14 u n (slotStream s x k)
      else s

/-- A delivery to a buffer counted off (R114). -/
def bufferDone (b : BufSt) : BufSt :=
  let n := b.count - 1
  if n = 0 ∧ b.phase = .filling ∧ b.byCmd = false then { b with count := n, phase := .ready } else { b with count := n }

end Sys2Proof.Machine
end

