-- ==== Sys2Proof/Machine/Drain.lean ====
section
/-! DEFINITION. Drain, the end of a unit, snapshots (R40, R72, R79, R126, R379-R381). -/

namespace Sys2Proof.Machine

namespace State

/-- A unit begins to drain: its ingress ports stop admitting (R72). -/
def beginDrain (s : State) (u : Nat) : State := s.modUnit u fun x => { x with phase := .draining }

end State

/-- TILE_COUNT_EXPIRY (R72). -/
def execTileCountExpiry (u : Nat) (s : State) : Host.Outcome State Fault Refusal :=
  match s.unit? u with
  | some x => if x.phase = .running ∧ x.count = some 0 then .next (s.beginDrain u) else .next s
  | none => .next s

/-! ## Elements (R72 steps 2, 3, 6) -/

/-- Nodes of the graph of routes: elements by number, then tiles. -/
def nodeOf (c : SecCfg) : Endpoint → Option Nat
  | .chan row col _ => some (c.elemAt row col)
  | .tile t => some (c.elemCount + t)
  | _ => none

/-- Edges of the graph of routes, divert targets and the region's own wires included. -/
def routeEdges (x : UnitSt) : List (Nat × Nat) :=
  let one := fun (r : Route) => match nodeOf x.cfg r.src with
    | none => []
    | some a => ([r.dst, r.divert].filterMap (nodeOf x.cfg)).map fun b => (a, b)
  (x.cfg.routes.map one).flatten ++
    (x.elems.filter fun p => p.2.cfg.systolic && sysAt x (x.cfg.rowOf p.1) (x.cfg.colOf p.1 + 1)).map fun p => (p.1, p.1 + 1)

/-- Nodes reached from some, in at most `n` rounds. -/
def reach (es : List (Nat × Nat)) : Nat → List Nat → List Nat
  | 0, l => l
  | n + 1, l =>
    let new := (es.filter fun p => l.contains p.1 && !l.contains p.2).map Prod.snd
    if new.isEmpty then l else reach es n (l ++ new.eraseDups)

/-- Nodes reached from a node along at least one edge. -/
def after (es : List (Nat × Nat)) (a : Nat) : List Nat :=
  reach es es.length ((es.filter fun p => p.1 == a).map Prod.snd).eraseDups

/-- Drain has gone out of the source of a route. -/
def srcPassed (x : UnitSt) (r : Route) : Bool :=
  match r.src with
  | .chan row col _ => (x.elem (x.cfg.elemAt row col)).drained
  | .tile t => (x.tile t).passed
  | .port n => (x.bindSt n).passed
  | .none => true

/-- No route can divert a token to an end any more, those aside whose source lies behind node `a`, which waits for this. -/
def divertsOver (x : UnitSt) (a : Nat) (ep : Endpoint) : Bool :=
  let behind := after (routeEdges x) a
  (List.range x.cfg.routes.length).all fun i => match x.cfg.routes[i]? with
    | some r => r.divert != ep || ((nodeOf x.cfg r.src).any behind.contains) || (srcPassed x r && (x.route i).toks.isEmpty)
    | none => true

/-- Drain has passed the channels of an element that are fed, and what was diverted to the others has been taken. -/
def inputsPassed (x : UnitSt) (e : Nat) : Bool :=
  let y := x.elem e
  (List.finRange 4).all fun c =>
    if (fedChannels x e).contains c then y.ins[c].passed
    else !(x.cfg.routes.any fun r => r.divert == x.cfg.endAt e c.val) ||
      (divertsOver x e (x.cfg.endAt e c.val) && y.ins[c].q.isEmpty && y.ins[c].raw.isEmpty)

/-- Requests of the element set aside for a full-empty condition, which drain withdraws (R126). -/
def asideIds (x : UnitSt) (e : Nat) : List Nat := ((State.asideOf x).filter fun r => r.e == e).map MemReq.id

/-- Requests of the element under way, each of them unable to arrive: behind one that is set aside, or with no place
left at its tile (R122, R253). -/
def stuckIds (s : State) (u : Nat) (x : UnitSt) (e : Nat) : List Nat :=
  ((List.range x.reqs.length).filterMap fun i => match x.reqs[i]? with
    | some r => if r.e = e ∧ (s.arrive u { x with reqs := listDel x.reqs i } r).isNone then some r.id else none
    | none => none)

/-- Nothing of the element is in progress, but for requests that wait at their tiles, or behind those (R72 step 2, R81,
R126, R305). -/
def elemQuiet (s : State) (u : Nat) (x : UnitSt) (e : Nat) : Bool :=
  let y := x.elem e
  let wait := asideIds x e ++ stuckIds s u x e
  y.firing.isNone && decide (y.busy ≤ s.clk.cyc) && decide (y.sysBusy ≤ s.clk.cyc) && y.win.isEmpty && y.south.isEmpty &&
  (y.late.all fun l => wait.contains l.req) && (x.reqs.all fun r => r.e != e || wait.contains r.id) && y.heldBy.isNone &&
  decide (y.walkEnd ≤ s.clk.cyc) &&
  y.g.toList.all fun r => !r.pending || !wait.isEmpty

/-- Drain leaves an element on its routed outputs, and eastward inside a region (R72, R81). -/
def sendDrain (x : UnitSt) (e : Nat) : Option UnitSt :=
  let outs := (List.range 4).filter fun o => (x.cfg.routeFrom (x.cfg.endAt e (4 + o))).isSome
  let sends := fun (x : UnitSt) => outs.foldl (fun z o => match z.cfg.routeFrom (z.cfg.endAt e (4 + o)) with
    | some (i, _) => let st := z.route i; z.setRoute i { st with toks := st.toks ++ [Token.drain] }
    | none => z) x
  if !(outs.all fun o => x.credit e o 1) then none
  else if (x.elem e).cfg.systolic && sysAt x (x.cfg.rowOf e) (x.cfg.colOf e + 1) then (passEast x e Token.drain).map sends
  else some (sends x)

/-- The requests of an element that wait at their tiles are withdrawn, and those under way whose condition fails and that
find no place there; what stood behind them goes on (R126). -/
def State.withdrawWaiting (s : State) (u e : Nat) : State :=
  s.modUnit u fun x =>
    let cond := fun (r : MemReq) => r.op == .lds || r.op == .lde || r.op == .ste || r.op == .pop || r.op == .push
    let full := fun (r : MemReq) => decide (r.e = e) && cond r && !r.op.ready (x.tile r.tile) r.word
    let gone := asideIds x e ++ (x.reqs.filter full).map MemReq.id
    { x.setElem e (State.dropLates (x.elem e) gone) with
      reqs := x.reqs.filter fun r => !full r
      mem := x.mem.mapVals fun _ t => { t with waiting := t.waiting.filter fun r => r.e != e } }

/-- ELEMENT_DRAIN_PASS (R72 step 2): its flags go into the unit's flag word (R40), what waits at tiles is withdrawn
(R126), first of all where requests stand behind it. -/
def execElementDrainPass (u e : Nat) (s : State) : Host.Outcome State Fault Refusal :=
  inSection s u fun x =>
    if x.phase != .draining || (x.elem e).drained || decide (x.cfg.elemCount ≤ e) then s
    else
      let x := x.setElem e (x.elem e).selfTake
      if inputsPassed x e && elemQuiet s u x e then
        if x.reqs.any fun r => r.e == e then (s.setUnit u x).withdrawWaiting u e
        else match sendDrain x e with
        | none => s.setUnit u x
        | some x =>
          let t := (s.setUnit u x).withdraw u e
          t.modUnit u fun x =>
            let y := x.elem e
            { x.setElem e { y with drained := true } with uflag := x.uflag ||| y.fl, quietAt := s.clk.cyc }
      else s.setUnit u x

/-- The nodes of the cycles that a node lies on; none where it lies on none. -/
def cycleOf (x : UnitSt) (a : Nat) : List Nat :=
  let es := routeEdges x
  let fwd := after es a
  if fwd.contains a then fwd.filter fun b => (after es b).contains a else []

/-- The node that feeds a channel. -/
def feederOf (x : UnitSt) (e ch : Nat) : Option Nat :=
  match x.cfg.routes.find? fun r => r.dst == x.cfg.endAt e ch with
  | some r => nodeOf x.cfg r.src
  | none => none

/-- No route feeds the tile: its tokens come from PUSH, from messages or from diverting routes. -/
def unfed (x : UnitSt) (t : Nat) : Bool := !(x.cfg.routes.any fun k => k.dst == .tile t)

/-- The tile that feeds a channel, where no route feeds the tile; for a number beyond the elements, the tile of that node
where no route feeds it, wherever its own route goes. -/
def tileBefore (x : UnitSt) (e ch : Nat) : Option Nat :=
  if x.cfg.elemCount ≤ e then
    let t := e - x.cfg.elemCount
    if unfed x t && (x.cfg.routeFrom (.tile t)).isSome then some t else none
  else match x.cfg.routes.find? fun r => r.dst == x.cfg.endAt e ch with
  | some r => match r.src with
    | .tile t => if unfed x t then some t else none
    | _ => none
  | none => none

/-- A drain token behind what a route brings to its target: behind the tokens of the tile it comes from (R72 step 4). -/
def drainBehind (x : UnitSt) (i : Nat) : UnitSt :=
  match (x.cfg.routes[i]?).map Route.src with
  | some (.tile t) => x.setTile t { x.tile t with fifo := (x.tile t).fifo ++ [Token.drain] }
  | _ => let st := x.route i; x.setRoute i { st with toks := st.toks ++ [Token.drain] }

/-- Nothing adds a token to such a tile any more: what lies in front of it has drained, what lies behind it stands still,
and drain has not come to it (R72 steps 3 and 4, log 56). -/
def tileReady (x : UnitSt) (t : Nat) : Bool :=
  let node := x.cfg.elemCount + t
  let behind := after (routeEdges x) node
  divertsOver x node (.tile t) && !((x.tile t).passed || (x.tile t).fifo.any Token.isDrain) &&
  !(x.reqs.any fun r => r.tile == t) && (x.tile t).waiting.isEmpty &&
  x.elems.all fun p => p.2.drained || (behind.contains p.1 && !liveTrigger x p.1 && p.2.firing.isNone)

/-- CYCLE_DRAIN_INJECT (R72 step 3): a channel inside a cycle gets its drain from the sequencer, behind the tokens of a tile
that feeds it, and so does a tile that no route feeds, wherever its route leads (step 4); `e` counts elements, then tiles
(log 56). -/
def execCycleDrainInject (u e ch : Nat) (s : State) : Host.Outcome State Fault Refusal :=
  inSection s u fun x =>
    let cyc := cycleOf x e
    let inside := fun (d c : Nat) => match feederOf x d c with
      | some a => cyc.contains a
      | none => false
    let elems := cyc.filter fun a => decide (a < x.cfg.elemCount)
    let ready := elems.all fun d =>
      !liveTrigger x d && (x.elem d).firing.isNone &&
      (fedChannels x d).all fun c => inside d c.val || ((x.elem d).selfTake).ins[c].passed
    let i := x.cfg.routes.findIdx fun r => r.dst == x.cfg.endAt e ch
    let st := x.route i
    let y := x.elem e
    let stored := match (x.cfg.routes[i]?).map Route.src with
      | some (.tile t) => (x.tile t).fifo.any Token.isDrain
      | _ => false
    let seen := decide (e < x.cfg.elemCount) && (y.ins[Fin.ofNat 4 ch].passed || stored || (st.toks.any Token.isDrain) ||
      (st.order.any Token.isDrain) || (y.ins[Fin.ofNat 4 ch].q ++ y.ins[Fin.ofNat 4 ch].raw).any Token.isDrain)
    if x.phase == .draining && cyc.contains e && decide (e < x.cfg.elemCount) && inside e ch && ready && !seen then
      s.setUnit u (drainBehind x i)
    else if x.phase == .draining && !seen then
      match tileBefore x e ch with
      | some t => if tileReady x t then s.setUnit u (x.setTile t { x.tile t with fifo := (x.tile t).fifo ++ [Token.drain] }) else s
      | none => s
    else s

/-! ## Ports (R72 steps 1, 5) -/

/-- Something was sent through the binding, or is still to be delivered to it, and has not come back. -/
def portBusy (s : State) (u n : Nat) (x : UnitSt) : Bool :=
  let b := x.bindSt n
  !b.open_.isEmpty || !b.packets.isEmpty || !b.drn.isEmpty ||
  ((x.cfg.bindCfg n).kind == .slot && !b.inq.isEmpty) || !b.deliver.isEmpty ||
  (s.sweep.riders.any fun p => p.2.u == u && (p.2.doneB == n || p.2.delivB == n)) ||
  (s.copies.toList.any fun q => q.copies.any fun p => p.2.u == u && p.2.doneB == n) ||
  (s.remotes.any fun p => p.2.u == u && p.2.message && p.2.doneB == n) ||
  (s.colls.any fun p => p.2.u == u && p.2.w0.toNat / 2 ^ 16 % 32 == n) ||
  (s.guards.any fun p => p.2.u == u && p.2.doneB == n) ||
  (s.sweep.ridq.any fun q => q.u == u && q.bind == n) ||
  s.ingress.any fun p => p.2.q.any fun i => i.u == u && i.n == n && i.msg == 0

/-- PORT_DRAIN_PASS: drain follows the last token of the binding into the section (R72). -/
def execPortDrainPass (u n : Nat) (s : State) : Host.Outcome State Fault Refusal :=
  inSection s u fun x =>
    let b := x.bindSt n
    if x.phase != .draining || b.passed || (x.cfg.bindCfg n).kind == .unbound || portBusy s u n x then s
    else
      let x := x.setBind n { b with passed := true }
      s.setUnit u (match x.cfg.routeFrom (.port n) with
        | some (i, _) => let st := x.route i; x.setRoute i { st with toks := st.toks ++ [Token.drain] }
        | none => x)

/-! ## Snapshots (R379-R381) -/

namespace State

/-- A snapshot that a section of an active job would fall back to: no later one of the section exists. -/
def snapInUse (s : State) (k : Snapshot) : Bool :=
  (match s.job k.job with
   | some j => j.active
   | none => false) &&
  !(s.snaps.any fun m => m.job == k.job && m.section_ == k.section_ && m.replica == k.replica && decide (k.serial < m.serial))

/-- A snapshot of a unit that ends, under its serial: written to the tenant's area as a ring, or skipped with a
report (R379, R380). -/
def takeSnapshot (s : State) (u serial : Nat) : State :=
  match s.unit? u with
  | none => s
  | some x =>
    let v := (s.reg (0x3400 + x.tenant % 1024)).toNat
    if v % 2 = 0 then s.modUnit u fun y => { y with lastSnap := 0 }
    else
      let im := imageOf (s.imgMeta x) x [] true
      let k := (im.1 + 65535) / 65536
      let base := bitsOf v 55 16 * 65536
      let area := bitsOf v 63 56 * 2 ^ 28
      let pos := s.snapPos.getD x.tenant 0
      let at_ := if pos + 65536 * k ≤ area then pos else 0
      let lo := base + at_
      let hi := lo + 65536 * k
      let meets := fun (m : Snapshot) => m.tenant == x.tenant && decide (m.addr < hi) && decide (lo < m.addr + 65536 * m.size)
      let lost := x.rect.blocks.any s.blockLost
      let report : FaultRec := { kind := 2, agent := 6, cause := 0x2E, job := x.job, section_ := x.section_
                                 replica := x.replica, unit := x.serial, snap := serial }
      if lost then s
      else if (s.snaps.any fun m => meets m && s.snapInUse m) || decide (area < 65536 * k) then s.putFault report
      else
        let w := s.writeImage x lo im
        let new : Snapshot := { job := x.job, section_ := x.section_, replica := x.replica, serial := serial, tenant := x.tenant
                                secure := x.secure, addr := lo, size := k }
        { w.1 with snaps := s.snaps.filter (fun m => !meets m) ++ [new]
                   snapPos := s.snapPos.set x.tenant (at_ + 65536 * k) }.modUnit u fun y =>
          { y with lastSnap := serial, snapping := some w.2 }

/-- The snapshot of a unit cannot be written to the end: there is none, and the skip is reported (R379, R380; log 41). -/
def failSnapshot (s : State) (u man : Nat) : State :=
  match s.unit? u with
  | none => s
  | some x =>
    let mine := fun (m : Snapshot) => m.job == x.job && m.section_ == x.section_ && m.replica == x.replica
    let left := s.snaps.filter fun m => !(mine m && m.serial == x.lastSnap)
    let s := ({ s with snaps := left }.manOver man).modUnit u fun y =>
      { y with snapping := none, snapFlag := false
               lastSnap := match (left.filter mine).getLast? with
                 | some m => m.serial
                 | none => 0 }
    s.putFault { kind := 2, agent := 6, cause := 0x2E, job := x.job, section_ := x.section_
                 replica := x.replica, unit := x.serial, snap := x.lastSnap }

/-- The snapshot a unit's end asks for (R77, R352). -/
def endSnapshot (s : State) (u : Nat) : State :=
  match s.unit? u with
  | none => s
  | some x =>
    if !x.snapFlag || x.snapping.isSome then s
    else
      let r := s.askSnap u
      r.1.takeSnapshot u r.2

/-! ## The end of a unit (R72 step 7) -/

/-- The unit is over: its launch counts it, its section's contents stay where they stand, and flags that its elements
raised since they passed drain join its flag word (R40, R72, R111). -/
def finishUnit (s : State) (u : Nat) : State :=
  match s.unit? u with
  | none => s
  | some x =>
    let s := s.keepSection x
    let s := s.setUnit u { x with phase := .ended, uflag := x.elems.foldl (fun f p => f ||| p.2.fl) x.uflag }
    s.modLaunch x.launch fun l => { l with ended := l.ended + 1 }

end State

/-- The snapshot of a unit is on its way into memory: its parts are not all stamped (R94, R379). -/
def snapWaits (s : State) (u : Nat) : Bool :=
  match s.unit? u with
  | none => false
  | some x =>
    match x.snapping with
    | some man => !s.manFailed man && s.unstamped man
    | none => false

/-- UNIT_END (R72): the section has drained, and the snapshot that the unit asked for has its stamps (R379). -/
def execUnitEnd (u : Nat) (s : State) : Host.Outcome State Fault Refusal :=
  inSection s u fun x =>
    if x.phase == .draining && State.sectionDone s u x then
      let t := s.endSnapshot u
      if snapWaits t u then t
      else match x.snapping with
        | some man => if t.manFailed man then (t.failSnapshot u man).finishUnit u else t.finishUnit u
        | none => t.finishUnit u
    else s

end Sys2Proof.Machine
end

