-- ==== Sys2Proof/Machine/Work.lean ====
section
/-! DEFINITION. Graph walks, launches, graphs, phases, jobs, and where units are placed (R77-R79, R135, R329-R331, R335,
R337, R346, R376, R378). -/

namespace Sys2Proof.Machine

/-- A completion record (R330). -/
def compRecord (cmd status reason : Nat) (tag : BitVec 32) (value : Nat) (detail : List Byte) : List Byte :=
  bytesOfNat 1 cmd ++ bytesOfNat 1 status ++ bytesOfNat 2 reason ++ bytesOfNat 4 tag.toNat ++ bytesOfNat 8 value ++
    (detail ++ bytesOfNat 16 0).take 16

/-! ## Node records (R77) -/

/-- A field of a record: `n` bytes from byte `i`. -/
def recField (b : List Byte) (i n : Nat) : Nat := natOfBytes ((b.drop i).take n)

/-- The record checks, made by the loader and by the sequencer: record `i` of a graph of an image with `secs` sections
and the graph's nodes and `args` argument blocks. -/
def nodeOk (secs args : Nat) (nodes : List (List Byte)) (i : Nat) (b : List Byte) : Bool :=
  let f := recField b
  match f 0 1 with
  | 1 =>
    decide (f 1 1 ≤ 1) && decide (f 2 2 < secs) && decide (1 ≤ f 4 2) && decide (f 4 2 ≤ 64) && f 6 2 == 0 &&
      f 12 4 % 32 == 0 && decide (f 12 4 / 32 < args) && f 16 16 == 0
  | 2 =>
    f 4 4 == 0 && f 16 16 == 0 &&
      (if f 1 1 = 0 then decide (f 2 2 < i) && recField (nodes.getD (f 2 2) []) 0 1 == 1 && f 8 8 == 0
       else f 1 1 == 1 && decide (f 2 2 < 64))
  | 3 => decide (f 1 1 ≤ 1) && decide (f 2 2 < 64) && f 4 4 == 0 && f 16 16 == 0
  | 4 => f 1 1 == 0 && decide (f 2 2 ≤ i) && decide (1 ≤ f 4 4) && f 8 24 == 0
  | 5 => f 1 31 == 0
  | _ => false

/-- The condition of a WAIT node (R77): the launch that the ARM node armed last has completed, or the counter has
reached the threshold. -/
def waitHolds (s : State) (x : Job) (w : Walk) (b : List Byte) : Bool :=
  if recField b 1 1 = 0 then
    match w.armed.get? (recField b 2 2) with
    | some l => (match s.launch? l with
      | some y => y.status != .running
      | none => true)
    | none => true
  else decide (recField b 8 8 ≤ (x.counters.getD (recField b 2 2) 0).toNat)

namespace State

/-- The walk of an active job and its graph, where the sequencer may take a node of it (R79, R331). -/
def walkAt (s : State) (j : Nat) : Option (Job × Walk × Image × Graph) :=
  match s.job j with
  | none => none
  | some x =>
    match x.walk, s.host.images.get? x.image with
    | some w, some im =>
      (match im.graphs[w.graph]? with
       | some g => if x.active && !w.cancel && !w.bad && !w.ended then some (x, w, im, g) else none
       | none => none)
    | _, _ => none

def setWalk (s : State) (j : Nat) (w : Walk) : State := s.modJob j fun x => { x with walk := some w }

/-- A refused record: the graph fails, and the launches it has armed are cancelled (R77, R370); the sequencer holds where it
stands until its record finds a place (R372). -/
def badNode (s : State) (j : Nat) (w : Walk) : State :=
  if !s.faultRoom (s.queueOf j) then s
  else
  let s := s.setWalk j { w with bad := true }
  let s := s.putFault { kind := 1, agent := 5, cause := 0x2D, job := j, item := w.node }
  w.launches.foldl (fun t l => (t.cancelOneLaunch l).1) s

/-- The walk of a job can proceed: its node is no WAIT whose condition does not hold, and no refused record that finds no place
(R77, R331, R372). -/
def canProceed (s : State) (j : Nat) : Bool :=
  match s.walkAt j with
  | none => false
  | some (x, w, im, g) =>
    match g.nodes[w.node]? with
    | none => s.faultRoom x.queue
    | some b =>
      if nodeOk im.secs.length g.args.length g.nodes w.node b then recField b 0 1 != 2 || waitHolds s x w b
      else s.faultRoom x.queue

/-- Jobs whose graphs a quarter's sequencer can walk on. -/
def walkable (s : State) (q : Nat) : List Nat :=
  s.jobs.keys.filter fun j => s.canProceed j && (match s.walkAt j with
    | some (_, _, _, g) => g.quarter == q
    | none => false)

/-- It is job `j`'s turn at a quarter's sequencer: one node in a cycle, the graphs that can proceed in rotation (R331). -/
def nodeTurn (s : State) (q j : Nat) : Bool :=
  let l := s.host.walked.get? q
  let free := match l with
    | some (_, cyc) => decide (cyc < s.clk.cyc)
    | none => true
  let last := match l with
    | some (k, _) => k + 1
    | none => 0
  free && nextTenant last ((s.walkable q).map fun k => k + 1) == some (j + 1)

/-- A quarter's sequencer has taken a node of job `j`. -/
def tookNode (s : State) (q j : Nat) : State := { s with host := { s.host with walked := s.host.walked.set q (j, s.clk.cyc) } }

/-- The node of a walk whose turn it is, checked to be of a kind; otherwise what the sequencer does with it. -/
def withNode (s : State) (j kind : Nat) (f : Job → Walk → Image → Graph → List Byte → State) : Host.Outcome State Fault Refusal :=
  match s.walkAt j with
  | none => .next s
  | some (x, w, im, g) =>
    if !s.nodeTurn g.quarter j then .next s
    else match g.nodes[w.node]? with
    | none => .next ((s.badNode j w).tookNode g.quarter j)
    | some b =>
      if !nodeOk im.secs.length g.args.length g.nodes w.node b then .next ((s.badNode j w).tookNode g.quarter j)
      else if recField b 0 1 = kind then .next ((f x w im g b).tookNode g.quarter j)
      else .next s

/-- One unit of an ARM node (R77, R319, R337). -/
def addUnit (s : State) (j : Nat) (x : Job) (g : Graph) (c : SecCfg) (l sec tiles : Nat) (args : List Word) (snap : Bool) (r : Nat) : State :=
  let arg3 : Word := args.getD 3 0 + BitVec.ofNat 64 r
  let n := s.nextId
  let armed := match s.job j with
    | some y => y.armed
    | none => 0
  let u : UnitSt := { job := j, tenant := x.tenant, secure := x.secure, priv := x.priv, debug := x.debug, launch := l
                      section_ := sec, replica := r, serial := armed
                      args := [args.getD 0 0, args.getD 1 0, args.getD 2 0, arg3], tiles0 := tiles, cfg := c
                      phase := .waiting, quarter := g.quarter, snapFlag := snap, prio := x.prio, order := n }
  let s := { s with units := s.units.set n u, nextId := n + 1 }
  s.modJob j fun y => { y with armed := y.armed + 1, since := match y.since with
    | some c => some c
    | none => some s.clk.win }

end State

/-- NODE_ARM (R77). -/
def execNodeArm (job : Nat) (s : State) : Host.Outcome State Fault Refusal :=
  s.withNode job 1 fun x w im g b =>
    match im.secs[recField b 2 2]? with
    | none => s.badNode job w
    | some c =>
      let l := s.nextId
      let reps := recField b 4 2
      let s := { s with launches := s.launches.set l { job := job, graph := w.graph, node := w.node, units := reps }, nextId := l + 1 }
      let s := s.setWalk job { w with node := w.node + 1, armed := w.armed.set w.node l, launches := w.launches ++ [l] }
      (List.range reps).foldl (fun t r =>
        t.addUnit job x g c l (recField b 2 2) (recField b 8 4) (g.args.getD (recField b 12 4 / 32) []) (recField b 1 1 == 1) r) s

/-- NODE_WAIT: the walk stays at the node while its condition does not hold (R77). -/
def execNodeWait (job : Nat) (s : State) : Host.Outcome State Fault Refusal :=
  s.withNode job 2 fun x w _ _ b => if waitHolds s x w b then s.setWalk job { w with node := w.node + 1 } else s

/-- NODE_WAIT_RELEASE (R77). -/
def execNodeWaitRelease (job : Nat) (s : State) : Host.Outcome State Fault Refusal :=
  s.withNode job 2 fun x w _ _ b => if waitHolds s x w b then s.setWalk job { w with node := w.node + 1 } else s

/-- NODE_SIGNAL (R77, R330). -/
def execNodeSignal (job : Nat) (s : State) : Host.Outcome State Fault Refusal :=
  s.withNode job 3 fun x w _ _ b =>
    let s := s.setWalk job { w with node := w.node + 1 }
    if recField b 1 1 = 0 then s.addCounter job (recField b 2 2) (BitVec.ofNat 64 (recField b 8 8))
    else s.putRecord x.queue .comp (compRecord 0x86 0 0 0 (recField b 8 8) (bytesOfNat 2 job ++ bytesOfNat 2 w.graph))

/-- NODE_LOOP: back to the target count - 1 times, then on, its count afresh (R77). -/
def execNodeLoop (job : Nat) (s : State) : Host.Outcome State Fault Refusal :=
  s.withNode job 4 fun _ w _ _ b =>
    let left := w.loops.getD w.node (recField b 4 4 - 1)
    if left = 0 then s.setWalk job { w with node := w.node + 1, loops := w.loops.erase w.node }
    else s.setWalk job { w with node := recField b 2 2, loops := w.loops.set w.node (left - 1) }

/-- NODE_END (R77). -/
def execNodeEnd (job : Nat) (s : State) : Host.Outcome State Fault Refusal :=
  s.withNode job 5 fun _ w _ _ _ => s.setWalk job { w with ended := true }

/-! ## Completion (R78) -/

/-- LAUNCH_COMPLETE (R78): all its units have ended. -/
def execLaunchComplete (l : Nat) (s : State) : Host.Outcome State Fault Refusal :=
  match s.launch? l with
  | some x =>
    if x.status = .running ∧ x.units ≤ x.ended then
      let st : Status := if x.fail then .failed else if x.cancel then .cancelled else .done
      let s := s.modLaunch l fun y => { y with status := st }
      .next (s.modJob x.job fun y => { y with walk := y.walk.map fun w => if w.launches.contains l then { w with completed := w.completed + 1 } else w })
    else .next s
  | none => .next s

/-- GRAPH_COMPLETE (R78): END is taken, or the walk has stopped, and every launch has completed. -/
def execGraphComplete (job : Nat) (s : State) : Host.Outcome State Fault Refusal :=
  match s.job job with
  | none => .next s
  | some x =>
    match x.walk with
    | none => .next s
    | some w =>
      let sts := w.launches.map fun l => match s.launch? l with
        | some y => y.status
        | none => .done
      if (w.ended || w.cancel || w.bad) && !sts.contains .running then
        let own : Status := if w.bad then .failed else if w.cancel then .cancelled else .done
        let st := sts.foldl Status.worse own
        .next ((s.modJob job fun y => { y with
          walk := none, pos := y.pos + 1, graphStatus := st, graphsDone := y.graphsDone + 1
          phaseWorst := y.phaseWorst.worse st })).startGraphs
      else .next s

/-- PHASE_COMPLETE (R78): its last graph has completed; the next phase begins. -/
def execPhaseComplete (job : Nat) (s : State) : Host.Outcome State Fault Refusal :=
  match s.job job with
  | none => .next s
  | some x =>
    match x.phases[x.phase]? with
    | none => .next s
    | some gs =>
      if x.active && x.walk.isNone && decide (gs.length ≤ x.pos) then
        let last := x.phases.length ≤ x.phase + 1
        .next (s.modJob job fun y => { y with
          phaseStatus := if last then y.phaseWorst else .running, phasesDone := y.phasesDone + 1, phase := y.phase + 1, pos := 0
          graphsDone := if last then y.graphsDone else 0
          phaseCancel := y.jobCancel, phaseWorst := .done
          graphWorst := y.graphWorst.worse y.phaseWorst }).startGraphs
      else .next s

namespace State

/-- The code of a status in a completion record (R330). -/
def recStatus (st : Status) : Nat :=
  match st with
  | .failed => 1
  | .cancelled => 3
  | _ => 0

/-- Everything a job holds is given back: operand slots, section contents, held tokens (R118, R329). Its ended units stay readable
(R371). -/
def releaseJob (s : State) (j : Nat) : State :=
  let s := { s with slots := s.slots.mapVals fun _ x => if x.job = some j then { x with release := true } else x
                    residents := s.residents.filter fun r => r.job != j
                    heldIn := s.heldIn.filter fun i => match s.unit? i.u with
                      | some x => x.job != j
                      | none => false
                    sweep := { s.sweep with reads := s.sweep.reads.filter fun p => match p.2.use with
                      | .rollback k _ _ => k != j
                      | .thaw _ _ _ => true } }
  startZeros s

/-- A fault record of a job is still to be written into its ring (R372). -/
def faultsWait (s : State) (q j : Nat) : Bool :=
  ((s.queue q).fault.waiting ++ (s.losses.filter fun p => p.1 == q).map Prod.snd).any fun b => recField b 4 2 == j

end State

/-- JOB_COMPLETE (R78, R118, R329), once the fault records of the job have been written (R372). -/
def execJobComplete (job : Nat) (s : State) : Host.Outcome State Fault Refusal :=
  match s.job job with
  | none => .next s
  | some x =>
    if x.active && x.walk.isNone && decide (x.phases.length ≤ x.phase) && !s.faultsWait x.queue job then
      let st := x.graphWorst
      let s := s.releaseJob job
      let s := s.modJob job fun y => { y with active := false, status := st, since := none }
      let q := s.queue x.queue
      let s := s.setQueue x.queue { q with jobs := q.jobs.filter fun n => n != job }
      .next (s.putRecord x.queue .comp (compRecord 0x83 (State.recStatus st) 0 0 job []))
    else .next s

/-! ## Placement (R337, R346, R376) -/

namespace State

/-- Waiting units that the allocator considers before a unit: higher job priority, then arrival (R337). -/
def before (s : State) (u : Nat) (x : UnitSt) : List UnitSt :=
  (s.units.filter fun p =>
    p.2.phase == .waiting && p.1 != u &&
      (decide (s.jobPrio x.job < s.jobPrio p.2.job) ||
        (s.jobPrio p.2.job == s.jobPrio x.job && decide (p.2.order < x.order)))).map Prod.snd

/-- Tokens held at the ports of a section wait at the ingress points for the unit armed now (R72). -/
def admitHeld (s : State) (u : Nat) : State :=
  match s.unit? u with
  | none => s
  | some x =>
    let mine := fun (i : Ingress) => match s.unit? i.u with
      | some y => y.job == x.job && y.section_ == x.section_ && y.replica == x.replica
      | none => false
    let ts := s.heldIn.filter mine
    let s := { s with heldIn := s.heldIn.filter fun i => !mine i }
    ts.foldl (fun t i => t.deliverTo 13 u i.n [i.tok]) s

/-- The contents that a section falls back to are on their way: its next unit waits for them (R381). -/
def rollsBack (s : State) (x : UnitSt) : Bool :=
  s.sweep.reads.any fun p => match p.2.use with
    | .rollback j c r => j == x.job && c == x.section_ && r == x.replica
    | .thaw _ _ _ => false

end State

/-- UNIT_PLACEMENT (R337, R376): a unit that waits is placed and armed, when no unit before it could be placed and no rotation is
due, or one whose image has been read is thawed. -/
def execUnitPlacement (u : Nat) (s : State) : Host.Outcome State Fault Refusal :=
  match s.unit? u with
  | none => .next s
  | some x =>
    match x.phase with
    | .waiting =>
      if (s.before u x).any fun y => (s.rectFor y).isSome && !s.rollsBack y then .next s
      else if (s.rotation? x).isSome || s.rollsBack x then .next s
      else (match s.rectFor x with
        | some k => .next (((s.armUnit u k).settleSince x.job).admitHeld u)
        | none => .next s)
    | .frozen _ _ => .next (s.placeThaw u x)
    | _ => .next s

/-- SECTION_ROTATION (R346): what is kept of the section moves to the cooler rectangle. -/
def execSectionRotation (u : Nat) (s : State) : Host.Outcome State Fault Refusal :=
  match s.unit? u with
  | none => .next s
  | some x =>
    if x.phase != .waiting then .next s
    else match s.rotation? x with
      | some k =>
        let s := s.evict x k
        .next { s with residents := s.residents.map fun r =>
          if r.job == x.job && r.section_ == x.section_ && r.replica == x.replica then { r with nw := some k.nw } else r }
      | none => .next s

end Sys2Proof.Machine
end

