-- ==== Sys2Proof/Machine/Arbiter.lean ====
section
/-! DEFINITION. The queue arbiter: which queues are eligible, what a record costs, whose head record is taken, and the bound on
its wait (R327-R329, R332-R334). -/

namespace Sys2Proof.Machine

/-- A record: command byte, fence, host tag (R328). -/
def recCmd (b : List Byte) : Nat := recField b 0 1
def recFence (b : List Byte) : Bool := recField b 1 1 == 1
def recTag (b : List Byte) : BitVec 32 := BitVec.ofNat 32 (recField b 4 4)

/-- The cost of a record (R332). -/
def recCost (b : List Byte) : Nat := if recCmd b = 2 then max 1 ((recField b 16 8 + 65535) / 65536) else 1

/-- Whole windows for which the head record of a queue has been eligible and not taken, in window `win` (R333). -/
def Queue.waited (x : Queue) (win : Nat) : Nat := x.aged + (win - x.since.getD win)

namespace State

/-! ## Eligible queues (R327, R328, R332, R333) -/

/-- Records that wait in the command store (R327). -/
def stored (s : State) : Nat := (s.host.queues.vals.map fun q => q.recs.length).foldl (· + ·) 0

/-- Active jobs, and RUNs that have been taken and are still to be run, fill the job table (R329). -/
def tableFull (s : State) : Bool :=
  decide (4096 ≤ (s.jobs.filter fun p => p.2.active).length + (s.host.taken.filter fun t => recCmd t.2.1 == 3).length)

/-- A queue whose head record the arbiter may take: no WAIT of it is unsatisfied or still to be run (R329, R332). -/
def eligible (s : State) (q : Nat) : Bool :=
  let x := s.queue q
  match x.recs with
  | [] => false
  | (b, _) :: rest =>
    x.st != .closed && x.wait.isNone && !(s.host.taken.any fun t => t.1 == q && recCmd t.2.1 == 5) && !(recFence b && decide (rest.length + 1 < x.used)) && !(recCmd b == 3 && s.tableFull) &&
      decide (s.waitingRecs q < 64)

/-- The count of the windows of a head record goes on while its queue is eligible, and stands while it is not (R333); a tenant
with no eligible queue left loses its deficit (R332). -/
def markSince (s : State) : State :=
  let mark := fun (q : Nat) (x : Queue) =>
    if s.eligible q then { x with since := some (x.since.getD s.clk.win) }
    else { x with since := none, aged := x.waited s.clk.win }
  let alive := (s.host.queues.keys.filter s.eligible).map fun q => (s.queue q).tenant
  { s with host := { s.host with
      queues := s.host.queues.mapVals mark
      deficit := s.host.deficit.filter fun p => alive.contains p.1 } }

/-- The effective priority of an eligible queue (R333). -/
def queuePrio (s : State) (q : Nat) : Nat :=
  let x := s.queue q
  min 7 (x.prio + x.waited s.clk.win / 8)

/-- The cost of a queue's head record. -/
def headCost (s : State) (q : Nat) : Nat :=
  match (s.queue q).recs with
  | (b, _) :: _ => recCost b
  | [] => 0

/-- The queue next after one, cyclically upward, among some (R332). -/
def nextQueue (last : Option Nat) (qs : List Nat) : Option Nat :=
  match last with
  | some l => nextTenant l qs
  | none => qs.head?

/-- One round of the deficit round-robin: the tenant whose turn it is has its next record taken if its deficit covers the
cost, else the turn passes on with a quantum; at most `n` turns (R332). -/
def serveTurn (s : State) (qs : List Nat) : Nat → HostPort → Option (Nat × HostPort)
  | 0, _ => none
  | n + 1, h =>
    let ten := fun (q : Nat) => (s.queue q).tenant
    let own := if h.turn = 0 then [] else qs.filter fun q => ten q + 1 == h.turn
    let pass : Option (Nat × HostPort) :=
      match nextTenant h.turn (qs.map fun q => ten q + 1) with
      | some t => serveTurn s qs n { h with turn := t, deficit := h.deficit.set (t - 1) (h.deficit.getD (t - 1) 0 + 16) }
      | none => none
    match nextQueue (h.lastQ.get? (h.turn - 1)) own with
    | some q =>
      if s.headCost q ≤ h.deficit.getD (h.turn - 1) 0 then
        some (q, { h with deficit := h.deficit.set (h.turn - 1) (h.deficit.getD (h.turn - 1) 0 - s.headCost q), lastQ := h.lastQ.set (h.turn - 1) q })
      else pass
    | none => pass

/-- The queue whose head record is taken now, with the arbiter's state after it (R332). -/
def pickQueue (s : State) : Option (Nat × HostPort) :=
  let el := s.host.queues.keys.filter s.eligible
  let top := (el.map s.queuePrio).foldl max 0
  let qs := el.filter fun q => s.queuePrio q == top
  s.serveTurn qs (qs.length * ((qs.map s.headCost).foldl max 0 / 16 + 2) + 2) s.host

/-- An eligible head record has waited as many windows as R334 allows it: the next window does not begin before it is taken. -/
def takeDue (s : State) : Bool :=
  s.host.queues.keys.any fun q =>
    s.eligible q && decide ((7 - (s.queue q).prio) * 8 + (s.headCost q + 15) / 16 ≤ (s.queue q).waited s.clk.win)

end State

end Sys2Proof.Machine
end

