-- ==== Sys2Proof/Machine/Bank.lean ====
section
/-! DEFINITION. What riders and items do to words at the banks: filter clauses, reductions, updates, scatter items,
LUT sums (R95-R100, R258, R260, R412). -/

namespace Sys2Proof.Machine

/-! ## FL (R96) -/

/-- A clause descriptor: whether it is in force, comparison, width in bits, type, byte offset. -/
structure Clause where
  en : Bool
  cmp : Nat
  width : Nat
  ty : Nat
  off : Nat
  deriving DecidableEq, Repr

/-- Clause `j` of P2. -/
def clauseOf (p2 : Word) (j : Nat) : Clause :=
  let d := bitsOf p2.toNat (16 * j + 15) (16 * j)
  { en := bitsOf d 15 15 == 1, cmp := bitsOf d 14 12, width := 8 * 2 ^ bitsOf d 11 10, ty := bitsOf d 9 8, off := bitsOf d 5 0 }

/-- Bits 7:6 of a clause descriptor are zero. -/
def clauseClean (p2 : Word) (j : Nat) : Bool := bitsOf (bitsOf p2.toNat (16 * j + 15) (16 * j)) 7 6 == 0

/-- The limits of a clause in force on records of `size` bytes. -/
def Clause.good (c : Clause) (size : Nat) : Bool :=
  decide (c.cmp ≤ 5) && decide (c.width ≤ 32) && decide (c.ty ≤ 2) && !(c.ty == 2 && c.width == 8) &&
  decide (c.off % (c.width / 8) = 0) && decide (c.off + c.width / 8 ≤ size)

/-- The constant of clause `j`. -/
def clauseConst (p0 p1 : Word) (j : Nat) : Nat :=
  let w := if j < 2 then p0 else p1
  bitsOf w.toNat (32 * (j % 2) + 31) (32 * (j % 2))

/-- A comparison by its code, of two things ordered by less and equal. -/
def cmpBy (code : Nat) (less eq : Bool) : Bool :=
  match code with
  | 0 => eq
  | 1 => !eq
  | 2 => less
  | 3 => less || eq
  | 4 => !less && !eq
  | _ => !less

/-- A clause holds for a record, given as one number, little-endian (R96).  The comparison of a signalling NaN raises no flag
(DESIGN CHOICE, log 64). -/
def Clause.holds (c : Clause) (k rec : Nat) : Bool :=
  let x := rec / 2 ^ (8 * c.off) % 2 ^ c.width
  let y := k % 2 ^ c.width
  match c.ty with
  | 0 => cmpBy c.cmp (decide (x < y)) (x == y)
  | 1 => cmpBy c.cmp (decide (sintOf c.width x < sintOf c.width y)) (x == y)
  | _ =>
    let f : FFmt := if c.width = 16 then .fp16 else .fp32
    let a := f.decode false x
    let b := f.decode false y
    if a.isNaN || b.isNaN then c.cmp == 1 else cmpBy c.cmp (a.ltV b) (a.eqV b)

/-- A record matches: every clause in force holds. -/
def recMatches (p0 p1 p2 : Word) (rec : Nat) : Bool :=
  (List.range 4).all fun j => let c := clauseOf p2 j; !c.en || c.holds (clauseConst p0 p1 j) rec

/-- The burst of a matching record (R96). -/
def matchBurst (ws : List Word) (tag : BitVec 3) (index : Nat) : List Token :=
  let n := ws.length
  (List.range n).map fun i =>
    let mark := (if i = 0 then 1 else 0) + (if i + 1 = n then 2 else 0)
    ⟨BitVec.ofNat 3 mark, tag, BitVec.ofNat 32 index, ws.getD i 0⟩

/-! ## RED (R97) -/

/-- Elements of a word under a RED type: width and signedness. -/
def redWidth (ty : Nat) : Nat := if ty = 2 then 64 else 32

/-- An integer element. -/
def redInt (ty bits : Nat) : Int := if ty = 1 then bits else sintOf (redWidth ty) bits

/-- One integer element taken into a reduction. -/
def redIntStep (op ty bits : Nat) (r : Rider) : Rider :=
  let v := redInt ty bits
  if op = 0 then { r with sum := r.sum.add ⟨v, 0⟩ }
  else
    let better := match r.mm with
      | none => true
      | some m => let k := redInt ty (m.toNat % 2 ^ redWidth ty); if op = 1 then decide (v < k) else decide (k < v)
    if better then { r with mm := some (BitVec.ofNat 64 bits) } else r

/-- One FP32 element taken into a reduction; -0 orders below +0. -/
def redFloatStep (op bits : Nat) (r : Rider) : Rider :=
  let v := FFmt.decode .fp32 false bits
  if v.isNaN then { r with seenNaN := true, fl := r.fl ||| Flags.when v.isSNaN Flags.invalid }
  else
    let r := { r with allNeg := r.allNeg && v.isZero && v.isNeg }
    if op = 0 then
      if v.isInf then (if v.isNeg then { r with infNeg := true } else { r with infPos := true })
      else { r with sum := r.sum.add v.dy }
    else
      let better := match r.mm with
        | none => true
        | some m => let k := FFmt.decode .fp32 false (m.toNat % 2 ^ 32); if op = 1 then v.before k else k.before v
      if better then { r with mm := some (BitVec.ofNat 64 bits) } else r

/-- One word taken into a reduction. -/
def redWord (op ty : Nat) (w : Word) (r : Rider) : Rider :=
  let r := { r with applied := true }
  if ty = 2 then redIntStep op ty w.toNat r
  else
    let f := fun (r : Rider) (i : Nat) => if ty = 3 then redFloatStep op (laneBits w 32 i) r else redIntStep op ty (laneBits w 32 i) r
    f (f r 0) 1

/-- What a reduction delivers, and its flags (R97, R412): a sum of no element is +0; the least or greatest of none is left
open (a free value, DESIGN CHOICE, log 61). -/
def redResult (op ty : Nat) (r : Rider) : Word × Flags :=
  if op ≠ 0 ∧ ¬ r.applied then (Config.emptyReduce op ty, 0)
  else if ty = 3 then
    let qnan : Word := BitVec.ofNat 64 (FFmt.defaultNaN .fp32)
    if op = 0 then
      if r.infPos && r.infNeg then (qnan, Flags.invalid)
      else if r.seenNaN then (qnan, 0)
      else if r.infPos then (BitVec.ofNat 64 (FFmt.infBits .fp32 false), 0)
      else if r.infNeg then (BitVec.ofNat 64 (FFmt.infBits .fp32 true), 0)
      else
        let l := FFmt.roundDy .fp32 false .rne 0 (r.applied && r.allNeg) r.sum
        (BitVec.ofNat 64 l.bits, l.fl)
    else (r.mm.getD qnan, 0)
  else if op = 0 then
    let v := r.sum.at_ 0
    let c := max (-(2 ^ 63)) (min v (2 ^ 63 - 1))
    (BitVec.ofNat 64 (toBitsN 64 c), Flags.when (c != v) Flags.saturation)
  else
    let m := (r.mm.getD 0).toNat % 2 ^ redWidth ty
    (BitVec.ofNat 64 (toBitsN 64 (redInt ty m)), 0)

/-! ## UPD (R98) -/

/-- The element format of an UPD type. -/
def updFmt (ty : Nat) : Fmt :=
  match ty with
  | 0 => .int32
  | 1 => .int64
  | 2 => .fp32
  | _ => .bf16

/-- The default NaN in place of any NaN result at the banks. -/
def bankNaN (f : FFmt) (l : Lane) : Lane := if (f.decode false l.bits).isNaN then ⟨f.defaultNaN, l.fl⟩ else l

/-- One element under ops 0-3 (R98).  CLAMP keeps a signalling NaN as it is and raises no flag for it (DESIGN CHOICE,
log 64). -/
def updLane (op : Nat) (fm : Fmt) (x c hi : Nat) : Lane :=
  if op = 2 then ⟨c, 0⟩
  else match fm.float? with
    | none =>
      let w := fm.laneW
      let a := sintOf w x
      (match op with
       | 0 => ⟨toBitsN w (a + sintOf w c), 0⟩
       | 1 => ⟨toBitsN w (a * sintOf w c), 0⟩
       | _ => ⟨toBitsN w (min (max a (sintOf w c)) (sintOf w hi)), 0⟩)
    | some f =>
      let k : FCtx := ⟨f, false, .rne⟩
      (match op with
       | 0 => bankAdd f x c
       | 1 => nanDefault f (f.decode false x) (f.decode false c) (laneFmul k x c)
       | _ =>
         if (f.decode false x).isNaN then ⟨x, 0⟩
         else
           let m := bankNaN f (laneFminmax false k x c)
           let n := bankNaN f (laneFminmax true k m.bits hi)
           ⟨n.bits, m.fl ||| n.fl⟩)

/-- One word under ops 0-3. -/
def updWord (op ty : Nat) (p0 p1 w : Word) : Word × Flags :=
  let f := updFmt ty
  let ls := (List.range f.lanes).map fun i => updLane op f (laneBits w f.laneW i) (laneBits p0 f.laneW 0) (laneBits p1 f.laneW 0)
  (ofLanes f.laneW (ls.map Lane.bits), ls.foldl (fun a l => a ||| l.fl) 0)

/-- A product of FP32 values as a term of an exact sum. -/
def termOf (neg : Bool) (fs : List Nat) : Term :=
  let vs := fs.map (FFmt.decode .fp32 false)
  let t :=
    if vs.any FVal.isNaN then Term.nan (vs.any FVal.isSNaN)
    else match vs.foldl (fun (a : Option FVal) v => a.bind fun x => x.mulV v) (some (.fin false 1 0)) with
      | some v => .val v
      | none => .bad
  if neg then t.neg else t

/-- An exact sum of products, one rounding; a NaN is the default NaN (R98, R412). -/
def dotFp32 (ts : List Term) : Lane :=
  let r := sumT .rne ts
  match r.1 with
  | some v => let l := FFmt.roundV .fp32 false .rne 0 v; ⟨l.bits, l.fl ||| r.2⟩
  | none => ⟨FFmt.defaultNaN .fp32, r.2⟩

/-- The square root of an FP32 value, rounded (R98). -/
def sqrtFp32 (x : Nat) : Lane :=
  let v := FFmt.decode .fp32 false x
  match v with
  | .nan _ q _ => ⟨FFmt.defaultNaN .fp32, Flags.when (!q) Flags.invalid⟩
  | .inf true => ⟨FFmt.defaultNaN .fp32, Flags.invalid⟩
  | .inf false => ⟨FFmt.infBits .fp32 false, 0⟩
  | .fin neg m _ =>
    if m = 0 then ⟨FFmt.signBit .fp32 neg, 0⟩
    else if neg then ⟨FFmt.defaultNaN .fp32, Flags.invalid⟩
    else FFmt.roundDy .fp32 false .rne 0 false (sqrtMag v.dy)

/-- A record (w, m, v, g) under MOMENT. -/
def moment (p0 p1 p2 p3 : Word) (w m v g : Nat) : List Nat × Flags :=
  let lo := fun (x : Word) => laneBits x 32 0
  let hi := fun (x : Word) => laneBits x 32 1
  let m' := dotFp32 [termOf false [lo p0, m], termOf false [hi p0, g]]
  let v' := dotFp32 [termOf false [lo p1, v], termOf false [hi p1, g, g]]
  let r := sqrtFp32 v'.bits
  let d := bankAdd .fp32 r.bits (hi p2)
  let k : FCtx := ⟨.fp32, false, .rne⟩
  let q := nanDefault .fp32 (FFmt.decode .fp32 false m'.bits) (FFmt.decode .fp32 false d.bits) (laneFdiv k m'.bits d.bits)
  let w' := dotFp32 [termOf false [w], termOf true [lo p3, w], termOf true [lo p2, q.bits]]
  ([w'.bits, m'.bits, v'.bits, 0], m'.fl ||| v'.fl ||| r.fl ||| d.fl ||| q.fl ||| w'.fl)

/-- The eight words of a line under MOMENT. -/
def momentLine (par : List Word) (ws : List Word) : List Word × Flags :=
  let rs := (List.range 4).map fun k =>
    let a := ws.getD (2 * k) 0
    let b := ws.getD (2 * k + 1) 0
    moment (par.getD 0 0) (par.getD 1 0) (par.getD 2 0) (par.getD 3 0) (laneBits a 32 0) (laneBits a 32 1) (laneBits b 32 0) (laneBits b 32 1)
  ((rs.map fun r => [ofLanes 32 (r.1.take 2), ofLanes 32 (r.1.drop 2)]).flatten, rs.foldl (fun f r => f ||| r.2) 0)

/-- A line under an UPD rider. -/
def updLine (op ty : Nat) (par ws : List Word) : List Word × Flags :=
  if op = 4 then momentLine par ws
  else
    let rs := ws.map (updWord op ty (par.getD 0 0) (par.getD 1 0))
    (rs.map Prod.fst, rs.foldl (fun f r => f ||| r.2) 0)

/-! ## SCA (R99) -/

/-- The formats an SCA item may have. -/
def scaFmt (f : Fmt) : Bool := f == .int64 || f == .int32 || f == .fp64 || f == .fp32

/-- One read-modify-write of a word. -/
def scaWord (op : Nat) (f : Fmt) (old v : Word) : Word × Flags :=
  let lane := fun (i : Nat) =>
    let x := laneBits old f.laneW i
    let y := laneBits v f.laneW i
    match f.float? with
    | some ff => famoLane (if op = 0 then .famoAdd else if op = 1 then .famoMin else .famoMax) ff x y
    | none => ⟨amoLane (if op = 0 then .amoAdd else if op = 1 then .amoMin else .amoMax) f x y, 0⟩
  let ls := (List.range f.lanes).map lane
  (ofLanes f.laneW (ls.map Lane.bits), ls.foldl (fun a l => a ||| l.fl) 0)

/-! ## LUT (R100) -/

/-- Signed 48-bit saturation, and whether it clamped. -/
def sat48 (v : Int) : Int × Bool :=
  let c := max (-(2 ^ 47)) (min v (2 ^ 47 - 1))
  (c, c != v)

/-- Byte `i` of a row given as words. -/
def rowByte (ws : List Word) (i : Nat) : Nat := laneBits (ws.getD (i / 8) 0) 8 (i % 8)

/-- The level code of output `o`, input `i` in a weight row. -/
def lutCode (row : List Word) (o i : Nat) : Nat := let b := rowByte row (32 * o + i / 2); if i % 2 = 0 then b % 16 else b / 16

/-- The exact sum of an output over a weight row and a table row. -/
def lutSum (table row : List Word) (o : Nat) : Int :=
  ((List.range 64).map fun i =>
    let at_ := 32 * i + 2 * lutCode row o i
    sintOf 16 (rowByte table at_ + 256 * rowByte table (at_ + 1))).foldl (· + ·) 0

end Sys2Proof.Machine
end

