-- ==== Sys2Proof/Machine/Cipher.lean ====
section
/-! DEFINITION. The cipher of sealed ranges (R108): AES-256 in XTS mode as IEEE 1619 defines it, over bytes as numbers
below 256 and blocks of 16 of them, the first byte of a block its lowest. -/

namespace Sys2Proof.Machine

namespace Aes

/-! ## The field of 256 elements -/

/-- A byte times x. -/
def twice (b : Nat) : Nat := if b < 128 then 2 * b else (2 * b) ^^^ 0x11B

/-- The product of two bytes. -/
def mul (a b : Nat) : Nat :=
  ((List.range 8).foldl (fun (p : Nat × Nat) i => (if b.testBit i then p.1 ^^^ p.2 else p.1, twice p.2)) (0, a)).1

/-- The inverse of a byte, of zero zero: its power 254. -/
def inv (a : Nat) : Nat := ((List.range 7).foldl (fun (p : Nat × Nat) _ => let q := mul p.2 p.2; (mul p.1 q, q)) (1, a)).1

/-- A byte turned left by `n` bits. -/
def turn (a n : Nat) : Nat := a * 2 ^ n % 256 + a / 2 ^ (8 - n)

def subByte (a : Nat) : Nat := let b := inv a; b ^^^ turn b 1 ^^^ turn b 2 ^^^ turn b 3 ^^^ turn b 4 ^^^ 0x63

def unsubByte (a : Nat) : Nat := inv (turn a 1 ^^^ turn a 3 ^^^ turn a 6 ^^^ 0x05)

/-! ## Rounds -/

/-- Byte `i` of a block. -/
def at_ (b : List Nat) (i : Nat) : Nat := b.getD i 0

def xor (a b : List Nat) : List Nat := List.zipWith (fun x y => x ^^^ y) a b

/-- Row `r` of a block, whose columns are four bytes each, turned by `r` places; `back` undoes it. -/
def shiftRows (back : Bool) (b : List Nat) : List Nat :=
  (List.range 16).map fun i => at_ b (i % 4 + 4 * ((i / 4 + (if back then 4 - i % 4 else i % 4)) % 4))

/-- Columns multiplied by the circulant matrix whose first row is `m`. -/
def mixColumns (m : List Nat) (b : List Nat) : List Nat :=
  (List.range 16).map fun i =>
    (List.range 4).foldl (fun v j => v ^^^ mul (at_ m ((j + 4 - i % 4) % 4)) (at_ b (i / 4 * 4 + j))) 0

/-- The sixty words of the key schedule of a key of 32 bytes. -/
def schedule (key : List Nat) : List (List Nat) :=
  (List.range 52).foldl (fun (ws : List (List Nat)) k =>
    let i := k + 8
    let t := ws.getD (i - 1) []
    let t := if i % 8 = 0 then xor ((t.drop 1 ++ t.take 1).map subByte) [2 ^ (i / 8 - 1), 0, 0, 0]
      else if i % 8 = 4 then t.map subByte else t
    ws ++ [xor (ws.getD (i - 8) []) t]) ((List.range 8).map fun i => (key.drop (4 * i)).take 4)

/-- The sixteen bytes of round key `r`. -/
def roundKey (ws : List (List Nat)) (r : Nat) : List Nat := ((ws.drop (4 * r)).take 4).flatten

def encrypt (key b : List Nat) : List Nat :=
  let ws := schedule key
  (List.range 14).foldl (fun b k =>
    let b := shiftRows false (b.map subByte)
    xor (if k = 13 then b else mixColumns [2, 3, 1, 1] b) (roundKey ws (k + 1))) (xor b (roundKey ws 0))

def decrypt (key b : List Nat) : List Nat :=
  let ws := schedule key
  (List.range 14).foldl (fun b k =>
    let b := (shiftRows true b).map unsubByte
    let b := xor b (roundKey ws (13 - k))
    if k = 13 then b else mixColumns [14, 11, 13, 9] b) (xor b (roundKey ws 14))

end Aes

/-! ## XTS (R108) -/

/-- The `n` bytes of a number, the lowest first. -/
def bytesLE (n x : Nat) : List Nat := (List.range n).map fun i => x / 256 ^ i % 256

/-- The number of some bytes. -/
def numLE (l : List Nat) : Nat := l.foldr (fun b v => b + 256 * v) 0

/-- The tweak of block `j` of the row at an address: the row's physical address, enciphered, times x to the power `j` in the
field of 2^128 elements. -/
def xtsTweak (key row : Nat) (j : Nat) : Nat :=
  (List.range j).foldl (fun t _ => if t < 2 ^ 127 then 2 * t else ((2 * t) % 2 ^ 128) ^^^ 0x87)
    (numLE (Aes.encrypt (bytesLE 32 (key / 2 ^ 256)) (bytesLE 16 row)))

/-- A block of a row under a key of 64 bytes, the key of the data first: enciphered, or deciphered. -/
def xtsBlock (encipher : Bool) (key row j x : Nat) : Nat :=
  let t := xtsTweak key row j
  let k := bytesLE 32 (key % 2 ^ 256)
  let y := bytesLE 16 (x ^^^ t)
  numLE (if encipher then Aes.encrypt k y else Aes.decrypt k y) ^^^ t

/-- A block that stands for plain text under one key, as an access with another sees it; no key means no cipher. `pa` is the
block's address. -/
def recipher (old new : Option Nat) (pa x : Nat) : Nat :=
  let row := pa / 2048 * 2048
  let j := pa % 2048 / 16
  let raw := match old with
    | some k => xtsBlock true (Config.sealKey k) row j x
    | none => x
  match new with
  | some k => xtsBlock false (Config.sealKey k) row j raw
  | none => raw

end Sys2Proof.Machine
end

