-- ==== Sys2Proof/Machine/Visit.lean ====
section
/-! DEFINITION. A visit of the cursor: rows formed, checked, worked in stamp order and written back (R17, R83-R109,
R127-R132, R317, R374, R384). -/

namespace Sys2Proof.Machine

/-! ## Where a span lies (R17, R82, R83) -/

/-- Bytes of a band in one ring of a class; the deep tier counts as one ring. -/
def bandSize (c : SweepClass) : Nat := if c = .deep then 2 ^ 25 else 2 ^ 15

/-- Bytes of a ring of a class. -/
def ringSize (c : SweepClass) : Nat := if c = .deep then 2 ^ 41 else 2 ^ 31

/-- The parts of a physical range that lie in band `b`: one for each ring the range meets. -/
def bandParts (c : SweepClass) (lo hi b : Nat) : List (Nat × Nat) :=
  let r := ringSize c
  let one := fun (i : Nat) => let a := (lo / r + i) * r + b * bandSize c; (max lo a, min hi (a + bandSize c))
  ((List.range ((hi - 1) / r + 1 - lo / r)).map one).filter fun p => decide (p.1 < p.2)

/-- The part of a rider's span on a page: virtual start, physical start, bytes. -/
def pagePart (r : Rider) (p : Page) : Nat × Nat × Nat :=
  let lo := max p.va r.base
  (lo, p.at_ lo, min (p.va + p.size) (r.base + 64 * r.len) - lo)

/-- The lines of a rider in a band, in ascending physical address: line number and physical address (R317). -/
def bandLines (r : Rider) (b : Nat) : List (Nat × Nat) :=
  let segs := (r.pages.map fun p =>
    let q := pagePart r p
    (bandParts r.cls q.2.1 (q.2.1 + q.2.2) b).map fun x => ((q.1 + (x.1 - q.2.1) - r.base) / 64, x.1, (x.2 - x.1) / 64)).flatten
  ((sortBy (fun a b => decide (a.2.1 < b.2.1)) segs).map fun x => (List.range x.2.2).map fun i => (x.1 + i, x.2.1 + 64 * i)).flatten

/-- The bands of a physical range, ring by ring: first and last. -/
def bandRuns (c : SweepClass) (lo hi : Nat) : List (Nat × Nat × Nat) :=
  let r := ringSize c
  (List.range ((hi - 1) / r + 1 - lo / r)).map fun i =>
    let ring := lo / r + i
    let a := max lo (ring * r)
    let z := min hi ((ring + 1) * r) - 1
    (a, a % r / bandSize c, z % r / bandSize c)

/-- Steps from cursor band `c` to the farthest band of a run from `x` to `y` (R92). -/
def farBand (c x y : Nat) : Nat :=
  let before := (c + 65535) % 65536
  if x ≤ before ∧ before ≤ y then 65535 else (y + 65536 - c) % 65536

/-- Steps from cursor band `c` to the nearest band of a run. -/
def nearBand (c x y : Nat) : Nat := if x ≤ c ∧ c ≤ y then 0 else (x + 65536 - c) % 65536

/-- Runs of bands of a rider's span: virtual start of the run's ring part, its physical start, first and last band. -/
def spanRuns (r : Rider) : List (Nat × Nat × Nat × Nat) :=
  (r.pages.map fun p =>
    let q := pagePart r p
    (bandRuns r.cls q.2.1 (q.2.1 + q.2.2)).map fun x => (q.1 + (x.1 - q.2.1), x.1, x.2.1, x.2.2)).flatten

/-- The steps to a span rider's last band, and its first line, boarding with the cursor at band `c` (R92). -/
def ridePlan (r : Rider) (c : Nat) : Nat × Nat :=
  let rs := spanRuns r
  let far := (rs.map fun x => farBand c x.2.2.1 x.2.2.2).foldl max 0
  let start := fun (x : Nat × Nat × Nat × Nat) =>
    let d := nearBand c x.2.2.1 x.2.2.2
    let b := (c + d) % 65536
    let pa := max x.2.1 (x.2.1 / ringSize r.cls * ringSize r.cls + b * bandSize r.cls)
    (d, (x.1 + (pa - x.2.1) - r.base) / 64)
  let firsts := sortBy (fun (a b : Nat × Nat) => decide (a.1 < b.1) || (a.1 == b.1 && decide (a.2 < b.2))) (rs.map start)
  (far, match firsts with
    | [] => 0
    | x :: _ => x.2)

/-! ## Words of the rows (R93, R104, R108, R109) -/

namespace State

/-- The key an access through a page applies: that of its tenant on a sealed page (R108, R401). -/
def keyFor (s : State) (tenant : Nat) (isSealed : Bool) : Option Nat := if isSealed then some (s.keys.getD tenant 0) else none

/-- A block of 16 bytes as an access with a key sees it. A row that is sealed is kept as the plain text that its key gives,
beside the number of that key: what its cells hold is that text enciphered (R108). -/
def readBlock (s : State) (key : Option Nat) (pa : Nat) : Nat :=
  let x := natOfBytes (Memory.readBytes s.mem pa 16)
  let k := s.sweep.seals.get? (pa / 2048)
  if k = key then x else recipher k key pa x

/-- The stored word as an access with a key sees it. -/
def readWord (s : State) (key : Option Nat) (pa : Nat) : Word :=
  if s.sweep.seals.get? (pa / 2048) = key then Memory.word s.mem pa
  else BitVec.ofNat 64 (s.readBlock key (pa / 16 * 16) / 2 ^ (8 * (pa % 16)))

/-- A row kept under another key, before a write through it: what its cells hold is the same (R108). -/
def reseal (s : State) (key : Option Nat) (row : Nat) : State :=
  let old := s.sweep.seals.get? row
  if old = key then s
  else
    let turn := fun (m : Memory) (i : Nat) => Memory.writeBytes m (2048 * row + 16 * i) (bytesOfNat 16 (s.readBlock key (2048 * row + 16 * i)))
    { s with mem := (List.range 128).foldl turn s.mem
             sweep := { s.sweep with seals := match key with
               | some k => s.sweep.seals.set row k
               | none => s.sweep.seals.erase row } }

/-- A word written under a key. -/
def writeWord (s : State) (key : Option Nat) (pa : Nat) (w : Word) : State :=
  let s := s.reseal key (pa / 2048)
  { s with mem := Memory.setWord s.mem pa w }

/-- Words written upward from an address; every 32-byte sector among them that is written whole reads again (R109). -/
def writeWords (s : State) (key : Option Nat) (pa : Nat) (ws : List Word) : State :=
  let s := (List.range ws.length).foldl (fun t i => t.writeWord key (pa + 8 * i) (ws.getD i 0)) s
  { s with sweep := { s.sweep with badSec := s.sweep.badSec.filter fun p =>
      !(decide (pa ≤ 32 * p.1) && decide (32 * p.1 + 32 ≤ pa + 8 * ws.length)) } }

/-- The cause that fails a read of `n` bytes: the ring withdrawn, a sector that cannot be corrected (R109, R384). -/
def readFails (s : State) (pa n : Nat) : Option Nat :=
  if s.paLost pa then some 0x0E
  else if s.sweep.badSec.any fun p => decide (32 * p.1 < pa + n) && decide (pa < 32 * p.1 + 32) then some 0x0D
  else none

/-- Dirty lines of the line caches that belong to band `b` of a class are merged and cleared (R93). -/
def mergeLines (s : State) (c : SweepClass) (b : Nat) : State :=
  let due := s.sweep.lineCache.filter fun p => s.classAt p.1 == c && bandOf p.1 == b
  let s := due.foldl (fun (t : State) p => { t with mem := Memory.setWord t.mem p.1 p.2 }) s
  let whole := fun (sec : Nat) => (List.range 4).all fun i => due.any fun p => p.1 == 32 * sec + 8 * i
  { s with sweep := { s.sweep with
      lineCache := s.sweep.lineCache.filter fun p => !due.any fun q => q.1 == p.1
      badSec := s.sweep.badSec.filter fun p => !whole p.1 } }

/-- Tokens of a rider delivered; under a frozen binding no more than its carriage's buffer of 256 KiB holds (R90, R374): the state
and how many were delivered. -/
def deliverRider (s : State) (id : Nat) (r : Rider) (ts : List Token) : State × Nat :=
  match s.unit? r.u with
  | none => (s, ts.length)
  | some x =>
    let pt := State.pointOf x.cfg r.delivB
    if x.frozen then
      let room := 16384 - s.undelivered id r
      (s.deliverFrom id pt r.u r.delivB (ts.take room), min room ts.length)
    else (s.deliverFrom id pt r.u r.delivB ts, ts.length)

end State

/-- Reads that waited in window mode for words that their windows hold now are served; where the line could not be read,
the element traps once its record finds a place (R109, R116, R372). -/
def State.serveWindows (s : State) (u : Nat) : State :=
  match s.unit? u with
  | none => s
  | some x =>
    let ws := x.cache.wins.getD 0 []
    let there := fun (k : CacheWait) => match (winFind ws k.va).bind fun i => ws[i]? with
      | some w => if w.tail ≤ k.va ∧ k.va < w.head then some w else none
      | none => none
    let due := x.cache.waits.filterMap fun k => if k.direct then (there k).map fun w => (k, w) else none
    let bad := fun (p : CacheWait × CbWin) => (p.2.bad.find? fun b => b.1 == p.1.va).map Prod.snd
    let good := due.filter fun p => (bad p).isNone
    let s := s.modCache u fun c => { c with waits := c.waits.filter fun k => !good.any fun p => p.1 == k }
    let s := good.foldl (fun t p => t.modElem u p.1.e fun z => z.finishLate p.1.late (p.2.data.getD (p.1.va / 8) 0) none 0 t.clk.cyc) s
    let fails := due.filterMap fun p => (bad p).map fun c => (p.1, c)
    if s.canTrap u then s.windowTraps u fails else s

/-! ## One rider at one band -/

namespace Rider

/-- The item number of a line, in visit order (R92). -/
def itemNo (r : Rider) (line : Nat) : Nat := if r.len = 0 then 0 else (line + r.len - r.firstLine) % r.len

/-- A line or item is not applied: `counts` where the kind's count counts it (R87). -/
def fails (r : Rider) (item cause : Nat) (counts : Bool) : Rider :=
  let sooner := match r.firstBad with
    | none => true
    | some k => decide (item < k)
  { r with
    count := if counts then r.count + 1 else r.count
    firstBad := if sooner then some item else r.firstBad
    cause := if sooner then cause else r.cause }

/-- A span rider counts failed lines, a filter the records it delivers (R87); the machine's own riders note which line
failed (R109). -/
def failLine (r : Rider) (line cause : Nat) : Rider :=
  let r := r.fails (r.itemNo line) cause (r.kind != .fl)
  if r.what = .packet then r else { r with bad := r.bad ++ [(line, cause)] }

end Rider

/-- The eight words of a line. -/
def lineWords (s : State) (key : Option Nat) (pa : Nat) : List Word := (List.range 8).map fun i => s.readWord key (pa + 8 * i)

/-- The key a rider applies at an address of its span. -/
def riderKey (s : State) (r : Rider) (line : Nat) : Option Nat :=
  match pageFor r.pages (r.base + 64 * line) with
  | some p => s.keyFor r.tenant p.sealed
  | none => none

/-- RD op 0: the words of a line as tokens (R95). -/
def rdTokens (r : Rider) (line : Nat) (ws : List Word) : List Token :=
  (List.range ws.length).map fun i => ⟨0, r.tag, BitVec.ofNat 32 (8 * line + i), ws.getD i 0⟩

/-- RD op 1: words written into the section's tile or buffer, each set full (R95, R112). -/
def rdTile (s : State) (r : Rider) (line : Nat) (ws : List Word) : State :=
  s.modUnit r.u fun x =>
    (List.range ws.length).foldl (fun x i =>
      match x.cfg.place false ((r.par.getD 0 0).toNat % 2 ^ 32) (8 * (8 * line + i)) with
      | .at_ t w => x.setTile t (((x.tile t).setWord w (ws.getD i 0)).setFull w true)
      | .bad _ => x) x

/-- Words written into a slot from a word on; a word written whole reads again (R118, R383). -/
def OpSlot.write (k : OpSlot) (at_ : Nat) (ws : List Word) : OpSlot :=
  { k with words := (List.range ws.length).foldl (fun m i => Assoc.put m (at_ + i) (ws.getD i 0) 0) k.words
           bad := k.bad.filter fun w => !(decide (at_ ≤ w) && decide (w < at_ + ws.length)) }

/-- RD op 2: words written into the slot (R95). -/
def rdSlot (s : State) (r : Rider) (line : Nat) (ws : List Word) : State :=
  match s.unit? r.u with
  | none => s
  | some x =>
    let p := (r.par.getD 0 0).toNat
    let n := p % 512
    s.setSlot x.nwQuarter n ((s.slotOf x.nwQuarter n).write (bitsOf p 31 16 / 8 + 8 * line) ws)

/-- A line of a filter: matches go to the match buffer while their bursts fit (R90, R96). -/
def flLine (r : Rider) (line : Nat) (ws : List Word) : Rider :=
  let n := 2 ^ r.aux3
  (List.range (8 / n)).foldl (fun (r : Rider) k =>
    if r.stopped then r
    else
      let rec_ := (ws.drop (n * k)).take n
      let v := packLanes 64 (rec_.map BitVec.toNat)
      if !recMatches (r.par.getD 0 0) (r.par.getD 1 0) (r.par.getD 2 0) v then r
      else if 16384 < r.out.length + n then { r.fails (r.itemNo line) 0x0F false with stopped := true }
      else { r with out := r.out ++ matchBurst rec_ r.tag (8 * line / n + k), count := r.count + 1 }) r

/-- One line of a rider that is no LUT. -/
def riderLine (s : State) (id : Nat) (r : Rider) (line pa : Nat) : State × Rider :=
  let fill := r.kind == .upd && r.op == 2
  match (if s.paLost pa then some 0x0E else if fill then none else s.readFails pa 64) with
  | some cause => (s, r.failLine line cause)
  | none =>
    let key := riderKey s r line
    let ws := lineWords s key pa
    match r.kind with
    | .rd =>
      if r.what ≠ .packet then
        (s, { r with got := (List.range 8).foldl (fun m i => m.set (8 * line + i) (ws.getD i 0)) r.got })
      else if r.op = 0 then
        let d := s.deliverRider id r (rdTokens r line ws)
        (d.1, if d.2 = 8 then r else r.failLine line 0x0F)
      else if r.op = 1 then (rdTile s r line ws, r)
      else (rdSlot s r line ws, r)
    | .fl => (s, flLine r line ws)
    | .red => (s, ws.foldl (fun r w => redWord r.op r.aux3 w r) r)
    | .upd =>
      let u := updLine r.op r.aux3 r.par ws
      (s.writeWords key pa u.1, { r with fl := r.fl ||| u.2 })
    | _ => (s, r)

/-! ## LUT (R100) -/

/-- Blocks, groups and lines of one piece of a LUT rider. -/
def lutBlocks (aux16 : Nat) : Nat := aux16 % 256 + 1
def lutGroups (b : Nat) : Nat := (b + 63) / 64
def lutPiece (aux16 : Nat) : Nat := (2 * lutGroups (lutBlocks aux16) + lutBlocks aux16) * 512

/-- The number of a bank: ring and bank within it. -/
def bankNo (pa : Nat) : Nat := 16 * ringOf pa + bankOf pa

/-- A table row of a bank's set and block (R101). -/
def lutTable (s : State) (bank set_ block : Nat) : List Word :=
  (List.range 256).map fun i => s.sweep.lut.getD (((2048 * bank + 256 * set_ + block) * 256) + i) 0

/-- Sums of a weight row added into a bank's accumulators of a set, each times its scale; a scale of -1 is a failed
line. -/
def lutAdd (s : State) (r : Rider) (bank : Nat) (sums scales : List Int) : State × Rider :=
  (List.range 64).foldl (fun (a : State × Rider) o =>
    let b := scales.getD o (-1)
    if b < 0 then a
    else
      let k := (8 * bank + r.aux3) * 64 + o
      let v := sat48 (a.1.sweep.lutAcc.getD k 0 + sums.getD o 0 * (b + 1))
      ({ a.1 with sweep := { a.1.sweep with lutAcc := a.1.sweep.lutAcc.put k v.1 0 } },
       { a.2 with fl := a.2.fl ||| Flags.when v.2 Flags.saturation })) (s, r)

/-- One 2 KiB row under a LUT rider: its first line and address. A scale band serves the weight rows of its own group
(R100). -/
def lutRow (s : State) (r : Rider) (line pa : Nat) : State × Rider :=
  let lines := (List.range 32).map fun i => (line + i, s.readFails (pa + 64 * i) 64)
  let r := lines.foldl (fun (r : Rider) l => match l.2 with
    | some c => r.failLine l.1 c
    | none => r) r
  let bad := fun (i : Nat) => match lines[i]? with
    | some l => l.2.isSome
    | none => false
  let key := riderKey s r line
  let ws := (List.range 256).map fun i => s.readWord key (pa + 8 * i)
  let bank := bankNo pa
  let band := bandOf pa
  let j := line % lutPiece r.aux16 / 512
  let g := j / 66
  let i := j % 66
  let slot := fun (b t : Nat) => 2 * (65536 * bank + b) + t
  if i < 2 then
    let scales := (List.range 2048).map fun t => if bad (t / 64) then -1 else (rowByte ws t : Int)
    let r := { r with pend := r.pend.set (slot band 1) scales }
    (List.range (min 32 (lutBlocks r.aux16 - 64 * g - 32 * i))).foldl (fun (a : State × Rider) k =>
      let b := band - i + 2 + 32 * i + k
      match a.2.pend.get? (slot b 0) with
      | some sums => lutAdd a.1 { a.2 with pend := a.2.pend.erase (slot b 0) } bank sums ((scales.drop (64 * k)).take 64)
      | none => a) (s, r)
  else
    let w := i - 2
    let table := lutTable s bank r.aux3 (64 * g + w)
    let sums := (List.range 64).map fun o => if bad (o / 2) then 0 else lutSum table ws o
    match r.pend.get? (slot (band - i + w / 32) 1) with
    | some scales => lutAdd s r bank sums ((scales.drop (64 * (w % 32))).take 64)
    | none => (s, { r with pend := r.pend.set (slot band 0) sums })

/-- The tokens a LUT rider delivers, and the state with the accumulators read and cleared (R100). -/
def lutDeliver (s : State) (r : Rider) : State × List Token :=
  let pieces := r.len / max (lutPiece r.aux16) 1
  let ring := fun (q : Nat) =>
    let va := r.base + 64 * (q * lutPiece r.aux16)
    match pageFor r.pages va with
    | some p => ringOf (p.at_ va)
    | none => 0
  let keys := ((List.range pieces).map fun q => ((List.range 1024).map fun i => (1024 * q + i, (8 * (16 * ring q + i / 64) + r.aux3) * 64 + i % 64))).flatten
  keys.foldl (fun (a : State × List Token) k =>
    let v := a.1.sweep.lutAcc.getD k.2 0
    ({ a.1 with sweep := { a.1.sweep with lutAcc := a.1.sweep.lutAcc.erase k.2 } },
     a.2 ++ [⟨0, r.tag, BitVec.ofNat 32 k.1, BitVec.ofNat 64 (toBitsN 64 v)⟩])) (s, [])

/-- A span rider at band `b`. -/
def riderBand (s : State) (id : Nat) (r : Rider) (b : Nat) : State :=
  let lines := bandLines r b
  let a := if r.kind = .lut then
      (lines.filter fun l => l.2 % 2048 == 0).foldl (fun (a : State × Rider) l => lutRow a.1 a.2 l.1 l.2) (s, r)
    else lines.foldl (fun (a : State × Rider) l => riderLine a.1 id a.2 l.1 l.2) (s, r)
  { a.1 with sweep := { a.1.sweep with riders := a.1.sweep.riders.set id a.2 } }

/-! ## One item at its row (R94, R99, R104, R105, R263, R268) -/

namespace State

def setRider (s : State) (id : Nat) (r : Rider) : State := { s with sweep := { s.sweep with riders := s.sweep.riders.set id r } }

/-- An item of a carriage has been served. -/
def itemDone (s : State) (rid : Nat) (f : Rider → Rider) : State :=
  { s with sweep := { s.sweep with riders := s.sweep.riders.upd rid fun r => let r := f r; { r with waiting := r.waiting - 1 } } }

/-- GAT item `n` fails: it is answered with poison that names it; an SCA item is dropped (R26, R99, R408). -/
def answerPoison (s : State) (id : Nat) (r : Rider) (cause n : Nat) : State :=
  if r.kind = .gat then (s.deliverRider id r [Token.poison cause (BitVec.ofNat 32 n)]).1 else s

/-- A read of an element fails at its row: the element traps (R109; DEDUCED). -/
def readTrap (s : State) (i : Item) (e slot cause : Nat) : State := s.trap i.u e slot cause 0 i.va 0 (i.pa.getD 0)

/-- Results of an element that nothing will bring any more (R371). -/
def loseLates (s : State) (u e : Nat) (gone : List Nat) : State := s.modElem u e fun y => dropLates y gone

/-- A fill that failed: every access that waits for it traps its element. -/
def fillFails (s : State) (id : Nat) (i : Item) (cause : Nat) : State :=
  match s.unit? i.u with
  | none => s
  | some x =>
    let ws := x.cache.waits.filter fun w => w.item == id && !w.direct
    let s := s.modCache i.u fun c => { c with waits := c.waits.filter fun w => !(w.item == id && !w.direct) }
    ws.foldl (fun t w =>
      let t := t.loseLates i.u w.e [w.late]
      if (t.elem i.u w.e).pick == .trapped then t else t.readTrap i w.e w.slot cause) s

/-- An element's request of the sweep fails: it is dropped, and what waited for it traps. -/
def itemTrap (s : State) (id : Nat) (i : Item) (cause : Nat) : State :=
  match i.kind with
  | .ldw late => ((s.dropItem id).loseLates i.u i.e [late]).readTrap i i.e i.slot cause
  | .fill => (s.dropItem id).fillFails id i cause
  | _ => (s.dropItem id).readTrap i i.e i.slot cause

/-- A physical range of zeros, under a key or none (R313). -/
def zeroRange (s : State) (key : Option Nat) (pa n : Nat) : State :=
  let inside := fun (a : Nat) => decide (pa ≤ a) && decide (a < pa + n)
  let rows := (List.range (n / 2048)).map fun i => pa / 2048 + i
  { s with mem := s.mem.filter fun c => !inside c.1
           sweep := { s.sweep with
             lineCache := s.sweep.lineCache.filter fun p => !inside p.1
             badSec := s.sweep.badSec.filter fun p => !inside (32 * p.1)
             seals := match key with
               | some k => rows.foldl (fun m r => m.set r k) s.sweep.seals
               | none => s.sweep.seals.filter fun p => !inside (2048 * p.1) } }

/-- A management-path write: its words, and zero between them (R94, R313); over a withdrawn ring its request fails (R384). -/
def putRange (s : State) (i : Item) (n : Nat) : State :=
  let pa := i.pa.getD 0
  if s.paLost pa then s.manFail i.man
  else
    let key := s.keyFor i.tenant i.sealed
    i.words.foldl (fun t w => t.writeWord key (pa + w.1) w.2) (s.zeroRange key pa n)

/-- A management-path read of an image: the words that are not zero, or that they cannot be read (R94, R109, R376). -/
def getRange (s : State) (i : Item) (n off : Nat) : State :=
  let pa := i.pa.getD 0
  let key := s.keyFor i.tenant i.sealed
  match s.readFails pa n with
  | some _ => { s with sweep := { s.sweep with reads := s.sweep.reads.upd i.man fun r => { r with bad := true } } }
  | none =>
    let ws := ((List.range (n / 8)).map fun k => (off / 8 + k, s.readWord key (pa + 8 * k))).filter fun p => p.2 != 0
    { s with sweep := { s.sweep with reads := s.sweep.reads.upd i.man fun r =>
        { r with words := ws.foldl (fun m p => m.set p.1 p.2) r.words } } }

/-- A write-back over a withdrawn ring: the element whose it is traps, or a record tells of the loss (R368, R384). -/
def loseWrite (s : State) (id : Nat) (i : Item) : State :=
  match s.unit? i.u with
  | some x =>
    if !x.placed || i.e = 0 && i.ord = 0 then (s.dropItem id).putLoss (i.lossRec 0x0E (i.pa.getD 0))
    else if s.canTrap i.u then s.itemTrap id i 0x0E else s
  | none => (s.dropItem id).putLoss (i.lossRec 0x0E (i.pa.getD 0))

/-- An item served at its visit. -/
def serveItem (s : State) (id : Nat) (i : Item) : State :=
  let pa := i.pa.getD 0
  let key := s.keyFor i.tenant i.sealed
  match i.kind with
  | .ldw late =>
    (match s.readFails pa 8 with
     | some c => if s.canTrap i.u then s.itemTrap id i c else s
     | none => (s.dropItem id).modElem i.u i.e fun y => y.finishLate late (s.readWord key pa) none 0 s.clk.cyc)
  | .fill =>
    (match s.readFails pa 64 with
     | some c => if s.canTrap i.u then s.itemTrap id i c else s
     | none => (s.dropItem id).modCache i.u fun c => { c with fills := c.fills ++ [(id, i.va, lineWords s key pa)] })
  | .wb =>
    if s.paLost pa then s.loseWrite id i
    else if i.words.length = 8 then (s.dropItem id).writeWords key pa (i.words.map Prod.snd)
    else i.words.foldl (fun t w => t.writeWords key (pa + w.1) [w.2]) (s.dropItem id)
  | .mput n => (s.dropItem id).putRange i n
  | .mget n off => (s.dropItem id).getRange i n off
  | .gat rid n coord =>
    (match s.sweep.riders.get? rid with
     | none => s.dropItem id
     | some r =>
       let s := s.dropItem id
       match s.readFails pa 8 with
       | some c => (s.answerPoison rid r c n).itemDone rid fun r => r.fails n c false
       | none =>
         let d := s.deliverRider rid r [⟨0, r.tag, coord, s.readWord key pa⟩]
         d.1.itemDone rid fun r => if d.2 = 1 then { r with count := r.count + 1 } else r.fails n 0x0F false)
  | .sca rid n f v =>
    (match s.sweep.riders.get? rid with
     | none => s.dropItem id
     | some r =>
       let s := s.dropItem id
       match s.readFails pa 8 with
       | some c => s.itemDone rid fun r => r.fails n c false
       | none =>
         let k := scaWord r.op f (s.readWord key pa) v
         (s.writeWord key pa k.1).itemDone rid fun r => { r with count := r.count + 1, fl := r.fl ||| k.2 })

/-! ## The visit -/

/-- What is due at band `b` of a class in step `step`, in stamp order: stamp, whether a rider, number. -/
def dueAt (s : State) (c : SweepClass) (step b : Nat) : List ((Nat × Nat) × Bool × Nat) :=
  let riders := (s.sweep.riders.filter fun p =>
    p.2.phase == .aboard && p.2.cls == c && p.2.kind != .gat && p.2.kind != .sca && p.2.kind != .tblb &&
      decide (p.2.stampS ≤ step) && decide (step ≤ p.2.last) &&
      (spanRuns p.2).any fun x => decide (x.2.2.1 ≤ b) && decide (b ≤ x.2.2.2)).map
    fun p => ((p.2.stampS, p.2.stampQ), true, p.1)
  let items := s.sweep.items.filterMap fun p => match p.2.stamp, p.2.pa with
    | some t, some pa =>
      if p.2.cls = c ∧ bandOf pa = b ∧ p.2.held = none then some (t, false, p.1) else none
    | _, _ => none
  sortBy (fun x y => decide (x.1.1 < y.1.1) || (x.1.1 == y.1.1 && decide (x.1.2 < y.1.2))) (riders ++ items)

/-- The visit of the band under the cursor (R93). -/
def visitBand (s : State) (c : SweepClass) (step : Nat) : State :=
  let b := step % 65536
  let s := s.mergeLines c b
  (s.dueAt c step b).foldl (fun (t : State) x =>
    if x.2.1 then
      match t.sweep.riders.get? x.2.2 with
      | some r => riderBand t x.2.2 r b
      | none => t
    else
      match t.sweep.items.get? x.2.2 with
      | some i => t.serveItem x.2.2 i
      | none => t) s

end State

end Sys2Proof.Machine
end

