-- ==== Sys2Proof/Machine/Port.lean ====
section
/-! DEFINITION. At a sweep or deep port: packets checked, spans and items translated, items accepted, carriages closed,
riders alighted (R85-R88, R92, R99-R101, R105-R108, R131, R268-R274, R314, R363-R365, R372, R373, R408, R409). -/

namespace Sys2Proof.Machine

/-- The port behind a binding: a stack's, or the deep port 12 (R167). -/
def portOf (c : SecCfg) (n : Nat) : Nat := if (c.bindCfg n).kind = .deep then 12 else (c.bindCfg n).stack

/-- The binding leads to a sweep or deep port. -/
def isPort (c : SecCfg) (n : Nat) : Bool := (c.bindCfg n).kind == .sweep || (c.bindCfg n).kind == .deep

/-! ## RIDER_PACKET_CHECK (R86, R96-R101, R272) -/

/-- The kind of a packet's rider word. -/
def packetKind (p : Packet) : Option RKind :=
  if p.tblb then some .tblb
  else match bitsOf p.w0.toNat 59 56 with
    | 0 => some .rd
    | 1 => some .fl
    | 2 => some .red
    | 3 => some .upd
    | 4 => some .gat
    | 5 => some .sca
    | 6 => some .lut
    | _ => none

/-- The op and aux fields are none that the kind reserves (R95-R100). -/
def opGood (k : RKind) (op aux3 aux16 : Nat) (par : List Word) : Bool :=
  match k with
  | .rd => decide (op ≤ 2)
  | .fl =>
    op == 0 && decide (aux3 ≤ 3) &&
      (List.range 4).all fun j => let c := clauseOf (par.getD 2 0) j; !c.en || (clauseClean (par.getD 2 0) j && c.good (8 * 2 ^ aux3))
  | .red => decide (op ≤ 2) && decide (aux3 ≤ 3)
  | .upd => decide (op ≤ 4) && decide (aux3 ≤ 3) && (op != 4 || aux3 == 2)
  | .gat => op == 0
  | .sca => decide (op ≤ 2)
  | .lut => op == 0 && decide (aux16 < 256) && aux16 % 2 == 1
  | .tblb => true

/-- The rider of a packet at its port. -/
def riderOf (x : UnitSt) (u n : Nat) (p : Packet) (k : RKind) : Rider :=
  let w0 := p.w0.toNat
  let w1 := p.w1.toNat
  { u := u, e := p.e, slot := p.slot, bind := n, port := portOf x.cfg n, job := x.job, tenant := x.tenant, secure := x.secure
    kind := k, op := if p.tblb then 0 else bitsOf w0 63 60, base := bitsOf w0 55 0, len := bitsOf w1 31 0
    doneB := if p.tblb then bitsOf w1 44 40 else bitsOf w1 36 32
    delivB := if p.tblb then 0 else bitsOf w1 41 37
    tag := BitVec.ofNat 3 (if p.tblb then bitsOf w1 47 45 else bitsOf w1 44 42)
    aux3 := if p.tblb then bitsOf w0 58 56 else bitsOf w1 47 45
    aux16 := if p.tblb then bitsOf w1 39 32 else bitsOf w1 63 48
    par := p.par, row := p.row }

/-- The cause that refuses a packet (R86); none where it passes. -/
def packetRefused (c : SecCfg) (p : Packet) (r : Rider) : Option Nat :=
  if r.base % 64 ≠ 0 then some 0x03
  else if r.len = 0 ∨ 2 ^ 56 < r.base + 64 * r.len then some 0x04
  else if (packetKind p).isNone || !opGood r.kind r.op r.aux3 r.aux16 r.par || (r.kind.delivers r.op && !isPort c r.delivB) then some 0x09
  else none

/-- RIDER_PACKET_CHECK: the binding's oldest packet reaches the port (R86, R270). -/
def execRiderPacketCheck (u n : Nat) (s : State) : Host.Outcome State Fault Refusal :=
  inSection s u fun x =>
    let b := x.bindSt n
    match b.packets with
    | [] => s
    | p :: rest =>
      if !isPort x.cfg n then s
      else
        let k := (packetKind p).getD .rd
        let r := riderOf x u n p k
        let s := s.setUnit u (x.setBind n { b with packets := rest })
        match packetRefused x.cfg p r with
        | some cause => s.complete u n p.id r.doneB (State.compTok 2 0 cause 0 0 r.tag)
        | none =>
          let s := s.setRider p.id r
          if k = .gat ∨ k = .sca then
            s.modUnit u fun x => x.setBind n { x.bindSt n with carriage := some p.id }
          else s

/-! ## Translation (R88, R106, R363, R372, R373, R408) -/

/-- The fault record of a port agent (R369): its port, and the carriage, 0 where the rider has none. -/
def portRec (s : State) (r : Rider) (item : Nat) : FaultRec :=
  let x := s.unit? r.u
  { kind := 0, agent := if r.port = 12 then 2 else 1, cause := 0, job := r.job
    section_ := (x.map UnitSt.section_).getD 0, replica := (x.map UnitSt.replica).getD 0, place := r.port
    slot := r.car, item := item, unit := (x.map UnitSt.serial).getD 0, snap := (x.map UnitSt.lastSnap).getD 0 }

/-- A record of kind 0 finds a place. -/
def State.canHold (s : State) (job : Nat) : Bool := s.faultRoom (s.queueOf job)

/-- What a rider asks of its pages (R106). -/
def riderAsk (id : Nat) (r : Rider) : Ask :=
  { tenant := r.tenant, secure := r.secure, write := r.kind == .upd || r.kind == .sca, host := false, who := id }

/-- The classes of the rings that a rider's pages put its span in. -/
def spanClasses (s : State) (r : Rider) : List SweepClass :=
  ((r.pages.map fun p =>
    let q := pagePart r p
    if targetOf q.2.1 = .deep then [SweepClass.deep]
    else (List.range ((q.2.1 + q.2.2 - 1) / 2 ^ 31 + 1 - q.2.1 / 2 ^ 31)).map fun i => s.classAt ((q.2.1 / 2 ^ 31 + i) * 2 ^ 31)).flatten).eraseDups

/-- Lines translated before boarding: all, or of a carriage the first (R408). -/
def Rider.firstLines (r : Rider) : Nat := if r.kind = .gat ∨ r.kind = .sca then 1 else r.len

/-- A rider translated at its port: ready, refused, or held (R88); a walk that needs a line of a table has a rider fetch it
(R363). -/
def translateRider (s : State) (id : Nat) (r : Rider) : State :=
  match s.spanPages r.port (riderAsk id r) r.base (64 * r.firstLines) with
  | (s, .ok ps) =>
    let s := s.endWalk id
    let r := { r with pages := ps }
    (match spanClasses s { r with len := r.firstLines } with
     | [c] => if c = .deep ∧ r.kind = .tblb then s.refuseRider id r 0x08 else s.setRider id { r with phase := .ready, cls := c }
     | _ => s.refuseRider id r 0x02)
  | (s, .error (va, .fault cause detail pa)) =>
    if State.finalCause cause then s.refuseRider id r cause
    else if s.canHold r.job then
      let n := s.nextSerial
      ((s.endWalk id).holdFault (portRec s r 0) { what := .rider id, cause := cause, detail := detail, va := va, u := r.u, pa := pa }).setRider
        id { r with phase := .held n }
    else s
  | (s, .error (va, .fetch line)) => s.fetchLine (riderAsk id r) r.u r.job r.port va line
  | (s, .error (_, .page _)) => s

/-- The translation of a rider needs a line of a table that no rider has fetched for it (R363). -/
def needsLine (s : State) (id : Nat) (r : Rider) : Bool :=
  match (s.spanPages r.port (riderAsk id r) r.base (64 * r.firstLines)).2 with
  | .error (_, .fetch _) => true
  | _ => false

/-- Riders of the binding that arrived earlier are all past translation (R314). -/
def firstToTranslate (s : State) (id : Nat) (r : Rider) : Bool :=
  r.what != .packet || !(s.sweep.riders.any fun p => decide (p.1 < id) && p.2.u == r.u && p.2.bind == r.bind &&
    (match p.2.phase with
     | .arrived => true
     | .held _ => true
     | _ => false))

/-- RIDER_TRANSLATE: a rider whose translation needs no line of a table that is still to be fetched (R88, R363). -/
def execRiderTranslate (id : Nat) (s : State) : Host.Outcome State Fault Refusal :=
  match s.sweep.riders.get? id with
  | some r =>
    if r.phase = .arrived ∧ firstToTranslate s id r ∧ ¬ needsLine s id r then .next (translateRider s id r) else .next s
  | none => .next s

/-! ## Window items at their ports (R105, R268, R269, R364) -/

/-- What an entry of the window is told apart by: its word or line, and the kind of its operations (R105). -/
def entryKey (i : Item) : Nat × Nat :=
  match i.kind with
  | .ldw _ => (i.pa.getD 0, 0)
  | .gat _ _ _ => (i.pa.getD 0, 0)
  | .fill => (i.pa.getD 0, 1)
  | .wb => (i.pa.getD 0, 2)
  | .mput _ => (i.pa.getD 0, 2)
  | .mget _ _ => (i.pa.getD 0, 1)
  | .sca _ _ _ _ => (i.pa.getD 0, 3)

/-- A window entry's key for an SCA item names its operation. -/
def entryOf (s : State) (i : Item) : Nat × Nat :=
  match i.kind with
  | .sca rid _ _ _ => (i.pa.getD 0, 3 + (match s.sweep.riders.get? rid with
    | some r => r.op
    | none => 0))
  | _ => entryKey i

/-- Items in the window of a port. -/
def windowItems (s : State) (port : Nat) : List Item :=
  (s.sweep.items.filter fun p => p.2.pa.isSome && p.2.port == port && p.2.held.isNone).map Prod.snd

/-- Entries of a port's window that are taken: one for eight items of a word or line and kind, and one for each line of a
management-path request (R105). -/
def windowUsed (s : State) (port : Nat) : Nat :=
  let is := windowItems s port
  let ks := (is.filter fun i => i.man == 0).map (entryOf s)
  let lines := (is.filter fun i => i.man != 0).map fun i => (i.pa.getD 0 + i.size + 63) / 64 - i.pa.getD 0 / 64
  (ks.eraseDups.map fun k => ((ks.filter fun x => x == k).length + 7) / 8).foldl (· + ·) 0 + lines.foldl (· + ·) 0

/-- The window of a port takes one more item with a key: an entry of its kind has room, or an entry is free (R105). -/
def windowTakes (s : State) (port : Nat) (key : Nat × Nat) : Bool :=
  let mine := ((windowItems s port).filter fun i => i.man == 0 && entryOf s i == key).length
  decide (mine % 8 ≠ 0) || decide (windowUsed s port < 4096)

/-- Bytes of a management-path request that can be accepted now: they lie on its page and in one band, and every line of them
takes an entry of the window; none of them while their class is held (R94, R105, R110, R364). -/
def manBytes (s : State) (i : Item) (p : Page) : Nat :=
  let pa := p.at_ i.va
  let c := s.classAt pa
  if s.classHeld c then 0
  else min (min i.size (p.va + p.size - i.va)) (min (bandSize c - pa % bandSize c) (64 * (4096 - windowUsed s (portAt pa)) - pa % 64))

/-- The first `n` bytes of a management-path request, and what is left of it. -/
def splitMan (i : Item) (n : Nat) : Item × Item :=
  let kind := fun (off k : Nat) => match i.kind with
    | .mget _ o => ItemKind.mget k (o + off)
    | _ => .mput k
  ({ i with kind := kind 0 n, words := i.words.filter fun w => decide (w.1 < n) },
   { i with kind := kind n (i.size - n), va := i.va + n, words := (i.words.filter fun w => decide (n ≤ w.1)).map fun w => (w.1 - n, w.2) })

/-- An item enters the window of its port (R91, R105). -/
def acceptItem (s : State) (id : Nat) (i : Item) (p : Page) (va : Nat) : State :=
  let pa := p.at_ va
  let i := { i with pa := some pa, sealed := p.sealed, cls := s.classAt pa, port := portAt pa, acc := (s.clk.cyc, s.nextId) }
  { s.bumpId with sweep := { s.sweep with items := s.sweep.items.set id i } }

/-- An earlier write-back walk of a stamp=wave slot of the element has still to send its lines (R268, R289). -/
def walkFirst (s : State) (i : Item) : Bool :=
  match s.unit? i.u with
  | some x => x.cache.walks.any fun w => w.wb && w.wave && w.e == i.e && decide (w.num < i.ord)
  | none => false

/-- A request may be accepted: those of stamp=wave slots of one element go in firing order, one in a cycle, so that they are
stamped in it (R71, R91, R268), and the section's items for one line go in the order they were issued in, where one of the two
writes the line back (R104, R133). -/
def itemFirst (s : State) (id : Nat) (i : Item) : Bool :=
  let before := fun (p : Nat × Item) => decide (p.2.ord < i.ord) || (p.2.ord == i.ord && decide (p.1 < id))
  let isWb := fun (k : Item) => match k.kind with
    | .wb => true
    | _ => false
  let mine := fun (k : Item) => k.wave && k.u == i.u && k.e == i.e && (k.pa.isNone || (k.stamp.isNone && k.acc.1 == s.clk.cyc))
  !(i.wave && (walkFirst s i || s.sweep.items.any fun p => before p && mine p.2)) &&
  !(s.sweep.items.any fun p => before p && p.2.u == i.u && p.2.pa.isNone && lineOf p.2.va == lineOf i.va && (isWb p.2 || isWb i))

/-- The section of an item is not frozen. -/
def itemRuns (s : State) (i : Item) : Bool :=
  match s.unit? i.u with
  | some x => !x.frozen
  | none => true

/-- A management-path request translated: the part of it that its port can take is accepted, and the rest goes on waiting; where
it maps to no memory it may go to, the request fails (R94, R105, R364, R416). -/
def translateMan (s : State) (id : Nat) (i : Item) : State :=
  let agent := s.portOfVa i.tenant i.va
  let write := match i.kind with
    | .mput _ => true
    | _ => false
  let ask : Ask := { tenant := i.tenant, secure := i.secure, write := write, host := false, who := id }
  match s.translate agent ask i.va with
  | (s, .fetch line) => s.fetchLine ask 0 i.sec.1 agent i.va line
  | (s, .fault _ _ _) => s.manFail i.man
  | (s, .page p) =>
    if i.deepOnly && decide (targetOf (p.at_ i.va) ≠ .deep) then s.manFail i.man
    else
      let n := manBytes s i p
      if n = 0 then s
      else if n = i.size then acceptItem s id i p i.va
      else
        let q := splitMan i n
        let new := s.nextId
        let s := { s.bumpId with sweep := { s.sweep with items := s.sweep.items.set id q.2 } }
        acceptItem s new q.1 p i.va

/-- An element's request translated at its port and accepted, or held (R269). A write-back that no unit owns is held under a
record of its section (R365, R368). -/
def translateItem (s : State) (id : Nat) (i : Item) : State :=
  let isWb := match i.kind with
    | .wb => true
    | _ => false
  let agent := s.portOfVa i.tenant i.va
  let ask : Ask := { tenant := i.tenant, secure := i.secure, write := isWb, host := false, who := id }
  match s.translate agent ask i.va with
  | (s, .fetch line) => s.fetchLine ask i.u i.sec.1 agent i.va line
  | (s, .page p) =>
    let pa := p.at_ i.va
    if s.classHeld (s.classAt pa) || !windowTakes s (portAt pa) (entryOf s { i with pa := some pa }) then s
    else acceptItem s id i p i.va
  | (s, .fault cause detail pa) =>
    (match s.unit? i.u with
     | none =>
       if State.finalCause cause then (s.dropItem id).putLoss (i.lossRec cause pa)
       else if s.canHold i.sec.1 then
         let n := s.nextSerial
         let s := (s.endWalk id).holdFault { i.lossRec cause pa with agent := 6, place := 0 }
           { what := .item id, cause := cause, detail := detail, va := i.va, u := i.u, pa := pa }
         { s with sweep := { s.sweep with items := s.sweep.items.set id { i with held := some n } } }
       else s
     | some x =>
       if State.finalCause cause then (if s.canTrap i.u then s.itemTrap id { i with pa := some pa } cause else s)
       else if s.canHold x.job then
         let n := s.nextSerial
         let s := (s.endWalk id).holdFault (State.elemRec x i.e i.slot)
           { what := .item id, cause := cause, detail := detail, va := i.va, u := i.u, pa := pa }
         let s := { s with sweep := { s.sweep with items := s.sweep.items.set id { i with held := some n } } }
         s.modElem i.u i.e fun y => { y with heldBy := some n }
       else s)

/-- TRANSLATION_WALK: a walk for a rider or for an element's request at its port: it goes as far as the lines of tables
outside the store go that riders have fetched for it, and ends, or has the next line fetched (R106, R269, R363). -/
def execTranslationWalk (id : Nat) (s : State) : Host.Outcome State Fault Refusal :=
  match s.sweep.riders.get? id, s.sweep.items.get? id with
  | some r, _ =>
    if r.phase = .arrived ∧ firstToTranslate s id r then .next (translateRider s id r) else .next s
  | none, some i =>
    if i.pa.isNone && i.held.isNone && itemFirst s id i && itemRuns s i then
      .next (if i.man = 0 then translateItem s id i else translateMan s id i)
    else .next s
  | none, none => .next s

/-! ## Items of a carriage (R99, R105, R107, R271, R408, R409) -/

/-- A carriage is aboard and its stream goes on: open, not held by a fault. -/
def streamOn (s : State) (id : Nat) (r : Rider) : Bool :=
  r.phase == .aboard && !r.closed && !(s.faults.any fun p => p.2.what == .carriage id)

/-- It takes items, its class not held (R110). -/
def takesItems (s : State) (id : Nat) (r : Rider) : Bool := streamOn s id r && !s.classHeld r.cls

/-- The head of the binding's queue taken off. -/
def takeHead (s : State) (r : Rider) : State :=
  s.modUnit r.u fun x => let b := x.bindSt r.bind; x.setBind r.bind { b with inq := b.inq.drop 1 }

/-- An answer of a GAT item would find a place in its carriage's match buffer (R90). -/
def answerRoom (s : State) (id : Nat) (r : Rider) : Bool := decide (r.waiting + s.undelivered id r < 16384)

/-- The cause with which a poison token fails as an item: its own where a completion token can carry it, else that of a bad word
(R87, R271: the manual says only that the item fails; DESIGN CHOICE, log 34). The codes from 0x30 on stay in poison tokens (R27). -/
def poisonCause (k : Token) : Nat :=
  let cause := k.payload.toNat % 65536
  if 1 ≤ cause ∧ cause ≤ 0x12 then cause else 0x09

/-- The item at the head of a carriage's queue is translated and enters the window (R105, R107). -/
def acceptFrom (s : State) (id : Nat) (r : Rider) (k : Token) : State :=
  let next := fun (t : State) (f : Rider → Rider) => (takeHead t r).setRider id (f { r with nextItem := r.nextItem + 1 })
  if k.isPoison then next s fun q => q.fails r.nextItem (poisonCause k) false
  else if !k.isData then takeHead s r
  else
    let coord : BitVec 32 := k.payload.setWidth 32
    if r.kind = .gat && !answerRoom s id r then s
    else if 8 * r.len ≤ k.coord.toNat then (next s fun q => q.fails r.nextItem 0x10 false).answerPoison id r 0x10 r.nextItem
    else
      let va := r.base + 8 * k.coord.toNat
      let hold := fun (s : State) (cause detail pa : Nat) =>
        if s.canHold r.job then
          s.holdFault (portRec s r r.nextItem) { what := .carriage id, cause := cause, detail := detail, va := va, u := r.u, pa := pa }
        else s
      match s.translate r.port (riderAsk id r) va with
      | (s, .fetch line) => s.fetchLine (riderAsk id r) r.u r.job r.port va line
      | (s, .fault cause detail pa) =>
        let s := s.endWalk id
        if State.finalCause cause then (next s fun q => q.fails r.nextItem cause false).answerPoison id r cause r.nextItem else hold s cause detail pa
      | (s, .page p) =>
        let s := s.endWalk id
        let pa := p.at_ va
        if p.sealed && r.kind == .sca then hold s 0x01 0 0
        else if s.classAt pa ≠ r.cls then (next s fun q => q.fails r.nextItem 0x02 false).answerPoison id r 0x02 r.nextItem
        else
          let f := match s.unit? r.u with
            | some x => palFmt x.cfg.pal k.tag.toNat
            | none => none
          match r.kind, f with
          | .sca, f =>
            (match f with
             | some g =>
               if scaFmt g then
                 let i : Item := { u := r.u, e := r.e, slot := r.slot, wave := false, kind := .sca id r.nextItem g k.payload, va := va
                                   tenant := r.tenant, secure := r.secure }
                 if windowTakes s (portAt pa) (entryOf s { i with pa := some pa }) then
                   let n := s.nextId
                   acceptItem (next s.bumpId fun q => { q with waiting := q.waiting + 1 }) n i p va
                 else s
               else next s fun q => q.fails r.nextItem 0x09 false
             | none => next s fun q => q.fails r.nextItem 0x09 false)
          | _, _ =>
            let i : Item := { u := r.u, e := r.e, slot := r.slot, wave := false, kind := .gat id r.nextItem coord, va := va
                              tenant := r.tenant, secure := r.secure }
            if windowTakes s (portAt pa) (entryOf s { i with pa := some pa }) then
              let n := s.nextId
              acceptItem (next s.bumpId fun q => { q with waiting := q.waiting + 1 }) n i p va
            else s

/-- ITEM_ACCEPT: the head of a binding's queue is offered to its carriage (R105, R271). What still comes for a carriage that a
cancel of the launch has closed is withdrawn (R79). -/
def execItemAccept (u n : Nat) (s : State) : Host.Outcome State Fault Refusal :=
  inSection s u fun x =>
    let b := x.bindSt n
    match b.carriage, b.inq with
    | some id, k :: _ =>
      (match s.sweep.riders.get? id with
       | some r =>
         if takesItems s id r && !k.isEos then acceptFrom s id r k
         else if x.cancelled && r.closed && !k.isDrain then takeHead s r else s
       | none => s)
    | none, k :: _ =>
      if x.cancelled && isPort x.cfg n && !k.isDrain then s.setUnit u (x.setBind n { b with inq := b.inq.drop 1 }) else s
    | _, _ => s

/-- CARRIAGE_CLOSE: the end-of-stream reaches the head of the queue (R99, R409). -/
def execCarriageClose (id : Nat) (s : State) : Host.Outcome State Fault Refusal :=
  match s.sweep.riders.get? id with
  | none => .next s
  | some r =>
    inSection s r.u fun x =>
      match (x.bindSt r.bind).inq with
      | k :: _ => if k.isEos && streamOn s id r then (takeHead s r).setRider id { r with closed := true } else s
      | [] => s

/-! ## Alighting (R40, R87, R92, R97, R99, R100, R131, R317) -/

/-- The number of items of a rider that has applied them all (R87, R92). -/
def itemsOf (r : Rider) : Nat := if r.kind = .gat ∨ r.kind = .sca then r.nextItem else r.len

/-- The status a rider alights with: failed where its acceptance was stopped by a fault, cancelled, partial, or done
(R79, R87, R96, R107). -/
def alightStatus (r : Rider) : Nat :=
  if (r.kind = .gat ∨ r.kind = .sca) && r.stopped then 4
  else if r.cancelled then 3
  else if r.firstBad.isSome then 1
  else 0

/-- The cause it alights with. -/
def alightCause (r : Rider) : Nat :=
  match alightStatus r with
  | 0 => 0
  | 3 => 0x11
  | _ => r.cause

/-- Data that leave after alighting and find the buffer under a frozen binding full: of a filter, the count is what was
delivered and the index the line of the first record that was not (R374). -/
def lateLoss (r : Rider) (sent : Nat) (ts : List Token) : Rider :=
  let n := 2 ^ r.aux3
  if r.kind = .fl then
    let rec_ := match ts[sent / n * n]? with
      | some t => t.coord.toNat
      | none => 0
    { r.fails (r.itemNo (rec_ * n / 8)) 0x0F false with count := sent / n }
  else r.fails 0 0x0F false

/-- What a rider delivers once it has alighted, and the flags that come with it (R92). -/
def alightData (r : Rider) : List Token × Flags :=
  match r.kind with
  | .red => let v := redResult r.op r.aux3 r; ([⟨0, r.tag, 0, v.1⟩], v.2)
  | _ => (r.out, 0)

/-- The completion token of a rider whose data are away; a delivery into a buffer has completed (R114), a released slot may
be zeroed (R276). -/
def endRide (s : State) (id : Nat) (r : Rider) : State :=
  let tok := State.compTok (alightStatus r) r.fl (alightCause r) r.count (r.firstBad.getD (itemsOf r)) r.tag
  let s := s.finishRider id r tok
  let s := match r.buffer with
    | some b => s.modUnit r.u fun x => x.setBuf b { x.buf b with landed := (x.buf b).landed + 1 }
    | none => s
  startZeros s

/-- The completion token would queue where the rider's data do, behind them, or they have left their port (R92, R131). -/
def dataAway (s : State) (id : Nat) (r : Rider) : Bool :=
  State.pointOf (s.cfgOf r.u) r.bind == State.pointOf (s.cfgOf r.u) r.delivB || s.undelivered id r == 0

/-- RIDER_ALIGHT: delivered data first, then, with the last of them away, the completion token (R92, R131). -/
def execRiderAlight (id : Nat) (s : State) : Host.Outcome State Fault Refusal :=
  match s.sweep.riders.get? id with
  | none => .next s
  | some r =>
    match r.phase with
    | .alighted =>
      let d := alightData r
      let put := s.deliverRider id r d.1
      let r := { r with fl := r.fl ||| d.2 }
      let r := if put.2 < d.1.length then lateLoss r put.2 d.1 else r
      .next (if dataAway put.1 id r then endRide put.1 id r else put.1.setRider id { r with phase := .leaving, out := [] })
    | .leaving => .next (if dataAway s id r then endRide s id r else s)
    | _ => .next s

/-- BUFFER_DELIVERY_COMPLETE (R114): a delivery that has landed is counted off; a buffer that a delivery made filling is
ready once nothing is outstanding. -/
def execBufferDeliveryComplete (u buf : Nat) (s : State) : Host.Outcome State Fault Refusal :=
  inSection s u fun x =>
    let b := x.buf buf
    if b.landed = 0 then s else s.setUnit u (x.setBuf buf (bufferDone { b with landed := b.landed - 1 }))

end Sys2Proof.Machine
end

