-- ==== Sys2Proof/Machine/Boundary.lean ====
section
/-! DEFINITION. A step boundary of a class: boarding, stamps, table rows, the visit; budget windows; how a class stops
and resumes; how a ring changes class (R19-R22, R82-R84, R89-R95, R100-R105, R108-R110, R130, R273, R314, R325, R338-R341,
R384). -/

namespace Sys2Proof.Machine

namespace State

/-- The state of a class. -/
def classSt (s : State) (c : SweepClass) : ClassSt :=
  match c with
  | .quick => s.sweep.quick
  | .steady => s.sweep.steady
  | .deep => s.sweep.deep

def setClass (s : State) (c : SweepClass) (x : ClassSt) : State :=
  { s with sweep := match c with
    | .quick => { s.sweep with quick := x }
    | .steady => { s.sweep with steady := x }
    | .deep => { s.sweep with deep := x } }

/-- Riders aboard a class. -/
def aboard (s : State) (c : SweepClass) : List (Nat × Rider) :=
  s.sweep.riders.filter fun p => p.2.phase == .aboard && p.2.cls == c

/-- Carriages of a class (R22). -/
def carriages (c : SweepClass) : Nat := if c = .deep then 16 else 32

/-- Items of a class in its windows. -/
def waitingItems (s : State) (c : SweepClass) : List (Nat × Item) := s.sweep.items.filter fun p => p.2.pa.isSome && p.2.cls == c

/-! ## Budget windows (R333, R340, R341) -/

/-- One balance turned: limit + min(balance, 0); of an unlimited kind the greatest value. -/
def turnBudget (s : State) (n : Nat) : State :=
  let t := n / 4
  let k := n % 4
  let old := s.balanceOf t k
  let l := s.refillLimit n
  let s := { s with power := { s.power with limit := s.power.limit.put n l 0xFFFFFFFF } }
  if l = 0xFFFFFFFF then s.setReg (0x1000 + n) (BitVec.ofNat 64 ((s.reg (0x1000 + n)).toNat % 2 ^ 32 + 0x7FFFFFFF * 2 ^ 32))
  else s.setBalance t k (l + min old 0)

/-- Window `w` begins (R340): every budget whose register or limit is not at its reset value turns, and every one whose register
a write has touched. -/
def turnWindow (s : State) (w : Nat) : State :=
  let ns := ((s.regs.keys.filter fun n => decide (0x1000 ≤ n) && decide (n < 0x2000)).map fun n => n - 0x1000) ++
    (s.power.limit.keys ++ s.power.written.keys).filter fun n => decide (n < 0x1000)
  let s := { s with clk := { s.clk with win := w } }
  (sortBy (fun a b => decide (a < b)) ns.eraseDups).foldl turnBudget s

/-! ## Conditions of boarding (R89, R90, R95, R100, R103, R108) -/

/-- Rings a range of physical addresses meets. -/
def ringsIn (lo n : Nat) : List Nat := if n = 0 then [] else (List.range ((lo + n - 1) / 2 ^ 31 + 1 - lo / 2 ^ 31)).map fun i => lo / 2 ^ 31 + i

/-- Rings of a rider's translated span. -/
def riderRings (r : Rider) : List Nat :=
  ((r.pages.map fun p => let q := pagePart r p; if targetOf q.2.1 = .sweep then ringsIn q.2.1 q.2.2 else []).flatten).eraseDups

/-- A rider's span covers a ring; of a carriage, by what its pages map to now. -/
def coversRing (s : State) (r : Rider) (ring : Nat) : Bool :=
  (riderRings r).contains ring ||
  ((r.kind == .gat || r.kind == .sca) &&
    (List.range ((r.base + 64 * r.len - 1) / 65536 + 1 - r.base / 65536)).any fun i =>
      let va := (r.base / 65536 + i) * 65536
      match s.walk r.tenant va with
      | .page p => targetOf p.pa == .sweep && ringOf (p.at_ va) == ring
      | _ => false)

/-- Banks that a rider's span lies in. -/
def riderBanks (r : Rider) : List Nat :=
  ((r.pages.map fun p =>
    let q := pagePart r p
    if targetOf q.2.1 = .sweep then
      ((ringsIn q.2.1 q.2.2).map fun k =>
        let a := max q.2.1 (k * 2 ^ 31)
        let z := min (q.2.1 + q.2.2) ((k + 1) * 2 ^ 31)
        if 32768 ≤ z - a then (List.range 16).map fun b => 16 * k + b
        else (List.range ((z - 1) / 2048 + 1 - a / 2048)).map fun i => bankNo (a / 2048 * 2048 + 2048 * i)).flatten
    else []).flatten).eraseDups

/-- Issue cost of a rider on the general path (R102). -/
def generalCost (r : Rider) : Nat :=
  match r.kind with
  | .upd => 2
  | .fl => 1
  | .red => 1
  | _ => 0

/-- Issue cost on the LUT path. -/
def lutCost (r : Rider) : Nat := if r.kind = .lut then 2 else 0

/-- Clocks that riders may use per visit: general path, LUT path (R103). -/
def visitBudget (c : SweepClass) : Nat × Nat := if c = .quick then (14, 16) else (126, 128)

/-- Every bank of the span has room in its visit budget (R103). -/
def budgetFits (s : State) (c : SweepClass) (r : Rider) : Bool :=
  c == .deep || (generalCost r == 0 && lutCost r == 0) ||
  (riderBanks r).all fun b =>
    let on := (s.aboard c).filter fun p => (generalCost p.2 != 0 || lutCost p.2 != 0) && (riderBanks p.2).contains b
    let sum := fun (f : Rider → Nat) => (on.map fun p => f p.2).foldl (· + ·) 0
    decide (sum generalCost + generalCost r ≤ (visitBudget c).1) && decide (sum lutCost + lutCost r ≤ (visitBudget c).2)

/-- No LUT rider aboard holds the table set on a bank of the span (R89, R101). -/
def setFree (s : State) (c : SweepClass) (set_ : Nat) (rings : List Nat) : Bool :=
  !((s.aboard c).any fun p => p.2.kind == .lut && p.2.aux3 == set_ && (riderRings p.2).any rings.contains)

/-- Demand of a rider on a stack's port, in bytes per ns (R90). -/
def demandOn (s : State) (r : Rider) (stack : Nat) : Nat :=
  if r.kind != .rd then 0
  else (((riderRings r).filter fun k => k / 24 == stack).map fun k => if s.ringQuick k then 4096 else 512).foldl (· + ·) 0

/-- The demand of the RD riders aboard and of one more on every stack. -/
def demandFits (s : State) (r : Rider) : Bool :=
  r.kind != .rd || (List.range 12).all fun k =>
    let on := (s.sweep.riders.filter fun p => p.2.phase == .aboard && p.2.kind == .rd).map fun p => s.demandOn p.2 k
    decide (on.foldl (· + ·) 0 + s.demandOn r k ≤ 4096)

/-- The target of an RD op 1 or 2 rider holds its span (R95).  A target that is not word-aligned is none: such a rider is
refused with the cause of a bad target (DESIGN CHOICE, log 64). -/
def targetGood (s : State) (r : Rider) : Bool :=
  match s.unit? r.u with
  | none => true
  | some x =>
    let p := (r.par.getD 0 0).toNat
    if r.kind != .rd || r.op = 0 || r.what != .packet then true
    else if r.op = 1 then
      let a := p % 2 ^ 32
      let last := 8 * (8 * r.len - 1)
      if a % 8 ≠ 0 then false
      else if a / 2 ^ 31 = 0 then
        (match x.cfg.access .ld a 0, x.cfg.access .ld a last with
         | .at_ _ _, .at_ _ _ => true
         | _, _ => false)
      else
        let b := (x.cfg.bufs[a / 2 ^ 25 % 64]?).getD {}
        b.valid && decide (a % 2 ^ 25 + last < b.size) && (List.range (b.rows * b.cols)).all fun i => x.cfg.role (x.cfg.rectTile b i) == .ab
    else
      let off := bitsOf p 31 16
      (s.slotOf x.nwQuarter (p % 512)).job == some r.job && off % 8 == 0 && decide (off + 64 * r.len ≤ 65536)

/-- The buffer an RD op 1 rider is aimed at. -/
def targetBuffer (r : Rider) : Option Nat :=
  let p := (r.par.getD 0 0).toNat
  if r.kind = .rd ∧ r.op = 1 ∧ r.what = .packet ∧ p / 2 ^ 31 % 2 = 1 then some (p / 2 ^ 25 % 64) else none

/-- The buffer takes one more delivery (R114). -/
def bufferTakes (b : BufSt) : Bool := (b.phase == .empty || b.phase == .filling) && decide (b.count < 255)

/-- One more delivery is outstanding on a buffer. -/
def bufferOpen (b : BufSt) : BufSt := { b with phase := .filling, count := b.count + 1, byCmd := b.byCmd && b.phase == .filling }

/-- The pieces of a LUT rider: whole pieces, each in one ring, contiguous bands (R100). -/
def lutLayout (r : Rider) : Bool :=
  let n := lutPiece r.aux16
  let at_ := fun (line : Nat) => match pageFor r.pages (r.base + 64 * line) with
    | some p => p.at_ (r.base + 64 * line)
    | none => 0
  r.len % n == 0 &&
  (List.range (r.len / n)).all fun q =>
    let a := at_ (q * n)
    a % 32768 == 0 && ringOf a == ringOf (a + 64 * n - 1) &&
      (r.pages.all fun p =>
        let lo := max p.va (r.base + 64 * (q * n))
        decide (min (p.va + p.size) (r.base + 64 * ((q + 1) * n)) ≤ lo) || p.at_ lo == a + (lo - (r.base + 64 * (q * n))))

/-- What becomes of a ready rider at a boundary: the cause that refuses it, whether it waits (R89). -/
inductive Verdict where
  | refuse (cause : Nat)
  | wait
  | board
  deriving DecidableEq, Repr

/-- An RD op 1 rider whose target stands in a frozen section (R374). -/
def targetFrozen (s : State) (r : Rider) : Bool :=
  r.kind == .rd && r.op == 1 && r.what == .packet && (match s.unit? r.u with
    | some x => x.frozen
    | none => false)

/-- The conditions of R89 on a ready rider; an earlier rider of its binding that still waits goes first (R314). Where several
conditions refuse it, the cause is the first in this order, and what refuses comes before what waits: the manual gives no order
(DESIGN CHOICE, log 65). -/
def verdict (s : State) (c : SweepClass) (id : Nat) (r : Rider) : Verdict :=
  let sealedSpan := r.pages.any Page.sealed
  let isSealedKind := r.kind == .fl || r.kind == .red || r.kind == .upd || r.kind == .sca || r.kind == .lut
  let earlier := r.what == .packet && s.sweep.riders.any fun p => p.2.u == r.u && p.2.bind == r.bind && p.2.kind != .tblb &&
    (match p.2.phase with
     | .arrived => true
     | .held _ => true
     | .ready => true
     | _ => false) && decide (p.1 < id)
  if earlier then .wait
  else if (riderRings r).any s.ringLost then .refuse 0x0E
  else if isSealedKind && sealedSpan then .refuse 0x01
  else if r.kind = .lut ∧ c = .deep then .refuse 0x08
  else if r.kind = .lut ∧ ¬ lutLayout r then .refuse 0x07
  else if !s.targetGood r then .refuse 0x05
  else if (List.range 12).any fun k => decide (4096 < s.demandOn r k) then .refuse 0x06
  else if s.noBudget r.tenant 0 then .refuse 0x12
  else if carriages c ≤ (s.aboard c).length then .wait
  else if !s.inBudget r.tenant 0 then .wait
  else if (match s.sweep.ringReq with
    | some q => s.coversRing r q.1
    | none => false) then .wait
  else if !s.budgetFits c r then .wait
  else if r.kind = .lut ∧ ¬ s.setFree c r.aux3 (riderRings r) then .wait
  else if !s.demandFits r || s.targetFrozen r then .wait
  else match targetBuffer r, s.unit? r.u with
    | some b, some x => if bufferTakes (x.buf b) then .board else .wait
    | _, _ => .board

/-- The lowest free carriage number of a class. -/
def freeCar (s : State) (c : SweepClass) : Nat :=
  let used := (s.aboard c).map fun p => p.2.car
  ((List.range (carriages c)).find? fun i => !used.contains i).getD 0

/-- A rider boards at the boundary where step `step` begins, with sequence number `q` (R89, R91, R92). -/
def boardRider (s : State) (c : SweepClass) (step q id : Nat) (r : Rider) : State :=
  let open_ := r.kind == .gat || r.kind == .sca
  let plan := ridePlan r (step % 65536)
  let b := targetBuffer r
  let r' := { r with phase := .aboard, stampS := step, stampQ := q, car := s.freeCar c, buffer := b
                     last := step + plan.1, firstLine := plan.2 }
  let s := s.charge r.tenant 0 (if open_ then 0 else plan.1 + 1)
  let s := s.setRider id r'
  if r.what ≠ .packet then s
  else s.modUnit r.u fun x =>
    let x := { x with riders := x.riders + 1 }
    match b with
    | some n => x.setBuf n (bufferOpen (x.buf n))
    | none => x

/-- Ready riders of a class in the order of R338: job priority, the rotation of tenants, port, binding, and within a binding
the order in which its packets were sent (R22, R314). Where sections of one tenant have riders at one binding number of one
port, the manual orders the bindings no further: the number of the unit decides (DESIGN CHOICE, log 62). -/
def readyRiders (s : State) (c : SweepClass) : List (Nat × Rider) :=
  let turn := (s.classSt c).turn
  let key := fun (p : Nat × Rider) => [7 - s.jobPrio p.2.job, (p.2.tenant + 1023 - turn) % 1024, p.2.port, p.2.bind, p.2.u, p.1]
  let lt := fun (a b : Nat × Rider) => decide (List.lt (key a) (key b))
  sortBy lt (s.sweep.riders.filter fun p => p.2.phase == .ready && p.2.cls == c && p.2.kind != .tblb)

/-- Riders board: the state, the next sequence number, the tenant that boarded first. -/
def boardAll (c : SweepClass) (step : Nat) : List (Nat × Rider) → State × Nat × Option Nat → State × Nat × Option Nat
  | [], a => a
  | (id, r) :: rest, (s, q, t) =>
    match s.verdict c id r with
    | .refuse cause => boardAll c step rest (s.refuseRider id r cause, q, t)
    | .wait => boardAll c step rest (s, q, t)
    | .board => boardAll c step rest (s.boardRider c step q id r, q + 1, match t with
        | some x => some x
        | none => some r.tenant)

/-! ## Table rows (R91, R101, R102) -/

/-- A table row written into every bank of the rings of a span (R101). -/
def writeTable (s : State) (r : Rider) (rings : List Nat) : State :=
  let banks := (rings.map fun k => (List.range 16).map fun b => 16 * k + b).flatten
  let one := fun (m : Assoc Word) (b : Nat) =>
    (List.range 256).foldl (fun m i => m.put (((2048 * b + 256 * r.aux3 + r.aux16) * 256) + i) (r.row.getD i 0) 0) m
  { s with sweep := { s.sweep with lut := banks.foldl one s.sweep.lut } }

/-- TBLB rows ready at the boundary, one for each bank: the state, the next sequence number (R101, R102, R339). -/
def postRows (c : SweepClass) : List (Nat × Rider) → List Nat → State × Nat → State × Nat
  | [], _, a => a
  | (id, r) :: rest, busy, (s, q) =>
    let rings := riderRings r
    if s.noBudget r.tenant 2 then postRows c rest busy (s.refuseRider id r 0x12, q)
    else if !s.inBudget r.tenant 2 || !s.setFree c r.aux3 rings || rings.any busy.contains then postRows c rest busy (s, q)
    else
      let s := (s.charge r.tenant 2 2).writeTable r rings
      postRows c rest (busy ++ rings) (s.setRider id { r with phase := .alighted }, q + 1)

/-! ## Stamps of items, posted writes (R91, R104) -/

/-- A span rider aboard covers a line of the `n` bytes from an address of one band on and has not visited it, step `step`
beginning. -/
def yetToVisit (r : Rider) (step pa n : Nat) : Bool :=
  r.phase == .aboard && r.kind != .gat && r.kind != .sca &&
  (r.pages.any fun p => let q := pagePart r p; decide (q.2.1 < pa + n) && decide (pa < q.2.1 + q.2.2)) &&
  decide (step + (bandOf pa + 65536 - step % 65536) % 65536 ≤ r.last)

/-- An item with a stamp waits for a word of a range. -/
def stampedIn (s : State) (lo hi : Nat) : Bool :=
  s.sweep.items.any fun p => p.2.stamp.isSome && decide (p.2.pa.getD 0 / 64 * 64 < hi) && decide (lo < p.2.pa.getD 0 + max p.2.size 64)

/-- A write item is posted at its stamping (R104): a section-cache write-back or a management-path write; one of many lines
only where every line of it is. Over a withdrawn ring none is (R384). -/
def postable (s : State) (step : Nat) (i : Item) : Bool :=
  let pa := i.pa.getD 0
  i.cls != .deep && !s.paLost pa &&
  (match i.kind with
   | .wb => !(s.sweep.riders.any fun p => yetToVisit p.2 step (pa / 64 * 64) 64) && !s.stampedIn (pa / 64 * 64) (pa / 64 * 64 + 64)
   | .mput n => !(s.sweep.riders.any fun p => yetToVisit p.2 step pa n) && !s.stampedIn pa (pa + n)
   | _ => false)

/-- Bytes of a write merged into the line cache: its words, dirty. The manual does not say what becomes of a posted write where
the 32,768 lines of the cache are taken: here the cache always has a place (DESIGN CHOICE, log 65). A management-path write of
many lines goes past the line cache, with the same effect: nothing reads its lines before it. -/
def postWrite (s : State) (i : Item) : State :=
  let pa := i.pa.getD 0
  match i.kind with
  | .mput n => s.putRange i n
  | _ =>
  let s := s.reseal (s.keyFor i.tenant i.sealed) (pa / 2048)
  { s with sweep := { s.sweep with lineCache := i.words.foldl (fun m w => m.set (pa + w.1) w.2) s.sweep.lineCache } }

/-- Items accepted in the previous step take their stamps, in order of acceptance, ties by port (R91). -/
def stampItems (s : State) (c : SweepClass) (step q : Nat) : State :=
  let new := s.sweep.items.filter fun p => p.2.pa.isSome && p.2.stamp.isNone && p.2.held.isNone && p.2.cls == c
  let key := fun (p : Nat × Item) => [p.2.acc.1, p.2.port, p.2.acc.2]
  let order := sortBy (fun a b => decide (List.lt (key a) (key b))) new
  ((List.range order.length).zip order).foldl (fun (t : State) p =>
    let id := p.2.1
    let i := p.2.2
    if t.postable step i then (t.dropItem id).postWrite i
    else { t with sweep := { t.sweep with items := t.sweep.items.set id { i with stamp := some (step, q + p.1) } } }) s

/-! ## RIDQ (R273) -/

/-- The answer to a RIDQ at the boundary. -/
def ridqAnswer (s : State) (c : SweepClass) (k : Ridq) : State :=
  match s.unit? k.u with
  | none => s
  | some x =>
    let step := (s.classSt c).step
    let free := carriages c - (s.aboard c).length
    let v := step % 65536 + 2 ^ 16 * free + 2 ^ 32 * toBitsN 32 (s.balanceOf x.tenant 0)
    s.deliverTo (pointOf x.cfg k.bind) k.u k.bind [⟨3, k.tag, BitVec.ofNat 32 step, BitVec.ofNat 64 v⟩]

/-- Queries of a class answered. -/
def answerRidq (s : State) (c : SweepClass) : State :=
  let code := match c with
    | .quick => 0
    | .steady => 1
    | .deep => 2
  let qs := s.sweep.ridq.filter fun k => k.cls == code
  let s := { s with sweep := { s.sweep with ridq := s.sweep.ridq.filter fun k => k.cls != code } }
  qs.foldl (fun t k => t.ridqAnswer c k) s

/-! ## The boundary -/

/-- What a fetched line of a page table goes to: the walk that waits for it, unless it is gone or an unmap has sent it back
(R363, R365). -/
def takeLine (s : State) (id : Nat) (r : Rider) (who : Nat) : State :=
  let s := s.dropRider id
  if r.stopped || (s.tenantOf who).isNone then s
  else
    let line := match r.bad with
      | (_, cause) :: _ => (cause, [])
      | [] => (0, (List.range 8).map fun i => r.got.getD i 0)
    { s with sweep := { s.sweep with fetched := s.sweep.fetched.upd who fun w => { w with lines := w.lines.set r.base line } } }

/-- The transport rider of a window has alighted: the head moves on by what it brought, the tail follows so that 64 KiB stay,
and reads that waited are served (R116). -/
def takeWindow (s : State) (id : Nat) (r : Rider) : State :=
  let grow := fun (w : CbWin) =>
    let head := r.base + 64 * r.len
    let tail := max w.tail (head - 65536)
    let data := r.got.foldl (fun (m : Assoc Word) p => m.put (r.base / 8 + p.1) p.2 0) w.data
    let bad := w.bad ++ (r.bad.map fun p => (List.range 8).map fun i => (r.base + 64 * p.1 + 8 * i, p.2)).flatten
    { w with head := head, tail := tail, ext := none, data := data.filter (fun p => decide (tail ≤ 8 * p.1)), bad := bad.filter fun p => decide (tail ≤ p.1) }
  let s := (s.dropRider id).modUnit r.u fun x => { x with cache := { x.cache with
    wins := x.cache.wins.mapVals fun _ l => l.map fun w => if w.ext = some id then grow w else w } }
  s.serveWindows r.u

/-- A rider that has made its last visit leaves its carriage (R92, R99): the accumulators of a LUT rider are read and cleared
(R100), and what the machine's own riders brought is taken. -/
def leaveCar (s : State) (id : Nat) (r : Rider) : State :=
  match r.what with
  | .table who => s.takeLine id r who
  | .window => s.takeWindow id r
  | .packet =>
    let d := if r.kind = .lut then lutDeliver s r else (s, r.out)
    d.1.setRider id { r with phase := .alighted, out := d.2 }

/-- Riders whose last visit is over, and closed carriages whose items are all served, leave their carriages (R92, R99). -/
def endStep (s : State) (c : SweepClass) : State :=
  let step := (s.classSt c).step
  let done := fun (r : Rider) => r.phase == .aboard && r.cls == c &&
    (if r.kind = .gat ∨ r.kind = .sca then r.closed && r.waiting == 0 else decide (r.last ≤ step))
  (s.sweep.riders.filter fun p => done p.2).foldl (fun t p => t.leaveCar p.1 p.2) s

/-- A carriage aboard is charged one carriage-step at each step (R89). -/
def chargeCarriages (s : State) (c : SweepClass) : State :=
  ((s.aboard c).filter fun p => p.2.kind == .gat || p.2.kind == .sca).foldl (fun t p => t.charge p.2.tenant 0 1) s

/-- Nothing is aboard over a ring, and no item for it waits (R20, R130). -/
def ringFree (s : State) (ring : Nat) : Bool :=
  !(s.sweep.riders.any fun p => p.2.phase == .aboard && s.coversRing p.2 ring) &&
  !(s.sweep.items.any fun p => match p.2.pa with
    | some pa => targetOf pa == .sweep && ringOf pa == ring
    | none => false)

/-- Withdrawn rings leave their class (R384). -/
def dropLost (s : State) : State := (s.quickRings.filter s.ringLost).foldl (fun t k => t.setRing k false) s

/-- The class has nothing to do: no rider aboard, no item accepted or waiting, no ready rider (R110). -/
def classIdle (s : State) (c : SweepClass) : Bool :=
  (s.aboard c).isEmpty && (s.waitingItems c).isEmpty && !(s.sweep.riders.any fun p => p.2.phase == .ready && p.2.cls == c)

/-- What a boundary does where the class sweeps: riders board and rows are posted unless the class is held (R110; a table row
waits for the end of a hold as a rider does: DESIGN CHOICE, log 62), items are stamped, the band under the cursor is visited. The step that
begins is a busy one where something is to be done in it. R338 has the rotation start after the tenant whose rider boarded first at
the previous boundary; where none boarded there, it starts after the one that did so last (DESIGN CHOICE, log 62). Before the step
that a resumption leads up to (R110) items are stamped and nothing else is done. -/
def sweepStep (s : State) (c : SweepClass) (step : Nat) : State :=
  if step < (s.classSt c).lead then s.stampItems c step 0
  else
  let b := if s.classHeld c then (s, 0, none) else boardAll c step (s.readyRiders c) (s, 0, none)
  let s := match b.2.2 with
    | some t => b.1.setClass c { b.1.classSt c with turn := t }
    | none => b.1
  let rows := s.sweep.riders.filter fun p => p.2.phase == .ready && p.2.cls == c && p.2.kind == .tblb
  let p := if s.classHeld c then (s, b.2.1) else postRows c rows [] (s, b.2.1)
  let busy := !p.1.classIdle c
  let s := (p.1.stampItems c step p.2).chargeCarriages c
  (s.setClass c { s.classSt c with busy := busy }).visitBand c step

/-- The steady boundary that falls with quick step `8 k` is still to come, step `q` being begun (R82). -/
def steadyDue (s : State) (q : Nat) : Bool := decide (8 * (s.sweep.steady.step + 1) ≤ q)

/-- The deep boundary that falls before quick step `q + 1` is still to come: they fall every 24.4140625 us, which is
390,625/128 quick steps (R82). -/
def deepDue (s : State) (q : Nat) : Bool := decide ((s.sweep.deep.step + 1) * 390625 < (q + 1) * 128)

/-- The next quick boundary begins a budget window that has not begun (R340). -/
def windowDue (s : State) : Bool :=
  let step := s.sweep.quick.step + 1
  step % 65536 == 0 && s.clk.win != step / 65536

/-- The boundary may fall now: steady boundaries fall on every 8th quick one, deep ones at their time, and no quick one comes
before them (R82); a window waits for a record that must be taken in the one before (R334). -/
def mayStep (s : State) (c : SweepClass) : Bool :=
  let q := s.sweep.quick.step
  match c with
  | .quick => !s.steadyDue q && !s.deepDue q && !(s.windowDue && s.takeDue)
  | .steady => s.steadyDue q
  | .deep => s.deepDue q

/-- A ring change that was granted, at a boundary of the ring's new class: the ring joins it, and ready riders over the ring
are translated again; one that fetches a line of a page table, by its physical address, waits in the new class (R20, R130). -/
def joinRing (s : State) (c : SweepClass) : State :=
  match s.sweep.ringReq with
  | some (k, quick) =>
    if s.sweep.ringGo && c == (if quick then .quick else .steady) && s.ringFree k then
      let again := fun (r : Rider) =>
        if r.phase != .ready || !(riderRings r).contains k then r
        else match r.what with
          | .table _ => { r with cls := c }
          | _ => { r with phase := .arrived, pages := [] }
      let s := s.setRing k quick
      { s with sweep := { s.sweep with ringReq := none, ringGo := false, riders := s.sweep.riders.mapVals fun _ r => again r } }
    else s
  | none => s

/-- A stopped class resumes: from an idle pause once there is something to do, from a hold once it is cleared (R110). -/
def resumeDue (s : State) (c : SweepClass) : Bool :=
  let x := s.classSt c
  x.stopped && !s.classHeld c && (!s.classIdle c || decide (x.idle < 65536))

/-- A class resumes: its first visit is two quick steps ahead, or one steady or deep one (R102, R110; that the deep class takes as
many as the steady one is a DESIGN CHOICE, log 62). -/
def resumeClass (s : State) (c : SweepClass) : State :=
  let x := s.classSt c
  s.setClass c { x with stopped := false, idle := 0, lead := x.step + (if c = .quick then 2 else 1) }

end State

/-- STEP_BOUNDARY (R82, R89-R93). A class that is stopped and does not resume now visits no row (R110). -/
def execStepBoundary (c : SweepClass) (s : State) : Host.Outcome State Fault Refusal :=
  if !s.mayStep c then .next s
  else
    let s := if s.resumeDue c then s.resumeClass c else s
    let idle := s.classIdle c && !(s.classSt c).busy
    let s := s.endStep c
    let step := (s.classSt c).step + 1
    let s := s.setClass c { s.classSt c with step := step }
    let s := if c = .quick ∧ step % 65536 = 0 ∧ s.clk.win ≠ step / 65536 then s.turnWindow (step / 65536) else s
    let s := if c = .quick then s.dropLost else s
    let s := (s.joinRing c).answerRidq c
    let s := if (s.classSt c).stopped then s else s.sweepStep c step
    let x := s.classSt c
    .next (if x.stopped then s else s.setClass c { x with idle := if idle then x.idle + 1 else 0 })

/-- BUDGET_WINDOW_BOUNDARY (R340): the quick boundary that begins a window, where it is the next one; its refill comes before any
boarding. -/
def execBudgetWindowBoundary (s : State) : Host.Outcome State Fault Refusal :=
  if s.windowDue then execStepBoundary .quick s else .next s

/-- CLASS_STOP (R110): a held class with nothing aboard and nothing accepted stops. -/
def execClassStop (c : SweepClass) (s : State) : Host.Outcome State Fault Refusal :=
  if s.classHeld c && (s.aboard c).isEmpty && (s.waitingItems c).isEmpty && !(s.classSt c).stopped then
    .next (s.setClass c { s.classSt c with stopped := true, idle := 0 })
  else .next s

/-- The idle pause of a class is enabled (R110). -/
def pauseOn (s : State) (c : SweepClass) : Bool :=
  match c with
  | .quick => (s.reg 0x0106).getLsbD 0
  | .steady => (s.reg 0x0106).getLsbD 1
  | .deep => false

/-- IDLE_PAUSE (R110): after 65,536 steps with nothing to do. -/
def execIdlePause (c : SweepClass) (s : State) : Host.Outcome State Fault Refusal :=
  let x := s.classSt c
  if pauseOn s c && decide (65536 ≤ x.idle) && s.classIdle c && !x.stopped then .next (s.setClass c { x with stopped := true })
  else .next s

/-- CLASS_RESUME (R110). -/
def execClassResume (c : SweepClass) (s : State) : Host.Outcome State Fault Refusal :=
  .next (if s.resumeDue c then s.resumeClass c else s)

/-- RING_CLASS_CHANGE (R20, R130, R325): the request that waits is granted when nothing is aboard over the ring and no item
for it waits; the ring joins its new class at that class's next step boundary. -/
def execRingClassChange (ring : Nat) (s : State) : Host.Outcome State Fault Refusal :=
  match s.sweep.ringReq with
  | some (k, _) => .next (if k = ring ∧ s.ringFree k then { s with sweep := { s.sweep with ringGo := true } } else s)
  | none => .next s

end Sys2Proof.Machine
end

