-- ==== Sys2Proof/Machine/Copy.lean ====
section
/-! DEFINITION. The copy engines, DRN, guard poison (R23, R112-R114, R118, R131, R132, R278, R279, R284, R338, R339, R363,
R364, R373, R374, R383, R390, R405, R406). -/

namespace Sys2Proof.Machine

/-! ## Descriptors (R279) -/

def descKind (w : Word) : Nat := bitsOf w.toNat 63 60

/-- The address or offset that has to be a multiple of 32. -/
def descAddr (w : Word) : Nat :=
  match descKind w with
  | 0 => bitsOf w.toNat 31 0 % 2 ^ 18
  | 1 => bitsOf w.toNat 31 16
  | 2 => bitsOf w.toNat 55 0
  | _ => bitsOf w.toNat 31 0 % 2 ^ 18

namespace State

/-- Some port is in domain mode (R392). -/
def domainUp (s : State) : Bool := (List.range 8).any fun p => (s.reg (0x0610 + p)).toNat % 4 == 1

/-- A free value taken. -/
def draw (s : State) : State × Nat := ({ s with freeCtr := s.freeCtr + 1 }, Config.free s.freeCtr)

/-- What another package answers, which is open (log 38): one of some causes, 0 where it performs what came to it; where the entry
of the window names another tenant than the sender's and is not shared, always 0x14 (R393). -/
def farAnswer (s : State) (entry : Word) (tenant : Nat) (causes : List Nat) : State × Nat :=
  let d := s.draw
  if bitsOf entry.toNat 47 38 ≠ tenant ∧ bitsOf entry.toNat 11 11 = 0 then (d.1, 0x14)
  else (d.1, causes.getD (d.2 % causes.length) 0)

/-- The entry of the window that a descriptor of kind 3 goes through. -/
def descWindow (s : State) (tenant : Nat) (w : Word) : Word := s.windowOf tenant (bitsOf w.toNat 37 32)

/-- A tile or slot descriptor holds a range of `len` bytes; of a remote one, what can be seen from here: the range ends inside the
tile, or inside the largest buffer (R279). -/
def descGood (s : State) (x : UnitSt) (w : Word) (len : Nat) : Bool :=
  match descKind w with
  | 0 =>
      tileRange x (bitsOf w.toNat 31 0) len
  | 1 => (s.slotOf x.nwQuarter (w.toNat % 512)).job == some x.job && decide (bitsOf w.toNat 31 16 + len ≤ 65536)
  | 3 =>
      let a := bitsOf w.toNat 31 0
      if a / 2 ^ 31 = 0 then decide (a % 2 ^ 18 + len ≤ 2 ^ 18) else decide (a % 2 ^ 25 + len ≤ 2 ^ 25)
  | _ => true
where
  /-- A range of tile bytes lies wholly inside one AB tile, or inside a buffer of AB tiles. -/
  tileRange (x : UnitSt) (a len : Nat) : Bool :=
    if a / 2 ^ 31 % 2 = 0 then
      (match x.cfg.access .ld a 0, x.cfg.access .ld a (len - 8) with
       | .at_ _ _, .at_ _ _ => true
       | _, _ => false)
    else
      let b := (x.cfg.bufs[a / 2 ^ 25 % 64]?).getD {}
      b.valid && decide (a % 2 ^ 25 + len ≤ b.size) && (List.range (b.rows * b.cols)).all fun i => x.cfg.role (x.cfg.rectTile b i) == .ab

/-- The cause that refuses a copy before any sector moves (R279, R339, R393). -/
def copyRefused (s : State) (x : UnitSt) (c : Copy) : Option Nat :=
  let closed := fun (w : Word) => descKind w == 3 && (s.descWindow c.tenant w).toNat % 2 == 0
  if 4 ≤ descKind c.src ∨ 4 ≤ descKind c.dst then some 0x09
  else if c.len = 0 ∨ c.len % 32 ≠ 0 then some 0x04
  else if descAddr c.src % 32 ≠ 0 ∨ descAddr c.dst % 32 ≠ 0 then some 0x03
  else if !s.descGood x c.src c.len || !s.descGood x c.dst c.len then some 0x05
  else if closed c.src || closed c.dst then some 0x14
  else if s.noBudget c.tenant 2 then some 0x12
  else none

/-- What a copy goes through is there: its section is not frozen, the host link is up, a port is in domain mode (R374, R390,
R392). -/
def copyPath (s : State) (x : UnitSt) (c : Copy) : Bool :=
  let host := descKind c.src == 2 || descKind c.dst == 2
  let far := descKind c.src == 3 || descKind c.dst == 3
  !x.frozen && (!host || s.linkUp) && (!far || s.domainUp)

/-- A copy that is not stopped by something of its own: its budget, its buffer, its held fault, its path (R114, R339, R373, R374,
R390, R392). -/
def copyMayStart (s : State) (x : UnitSt) (c : Copy) : Bool :=
  let a := bitsOf c.dst.toNat 31 0
  let buf := if descKind c.dst = 0 ∧ a / 2 ^ 31 = 1 then bufferTakes (x.buf (a / 2 ^ 25 % 64)) else true
  (s.inBudget c.tenant 2 || s.noBudget c.tenant 2) && buf && s.copyPath x c

/-- The oldest copy of each tenant at an engine (R279). -/
def heads (l : Assoc Copy) : List (Nat × Copy) := l.filter fun p => !(l.any fun q => decide (q.1 < p.1) && q.2.tenant == p.2.tenant)

/-- The copy that the engine is moving: started and not held. -/
def moving (l : Assoc Copy) : Option (Nat × Copy) := l.find? fun p => p.2.started && p.2.held.isNone

def setCopy (s : State) (q : Fin 4) (id : Nat) (c : Copy) : State :=
  let e := s.copies[q]
  { s with copies := s.copies.set q { e with copies := e.copies.set id c } }

/-- The copy the engine takes next: the head of a tenant's queue that may start, by rotation (R338). -/
def nextCopy (s : State) (q : Fin 4) : Option (Nat × Copy) :=
  let e := s.copies[q]
  let able := (heads e.copies).filter fun p => !p.2.started && match s.unit? p.2.u with
    | some x => copyMayStart s x p.2 || (copyRefused s x p.2).isSome
    | none => true
  match nextTenant e.turn (able.map fun p => p.2.tenant) with
  | some t => able.find? fun p => p.2.tenant == t
  | none => none

/-- What a copy asks of a page of its host range. -/
def copyAsk (id : Nat) (c : Copy) (write : Bool) : Ask := { tenant := c.tenant, secure := c.secure, write := write, host := true, who := id }

/-- The page of a host range that an address needs, at a copy engine: of the pages held, or translated now (R364). -/
def hostPage (s : State) (q : Fin 4) (id : Nat) (c : Copy) (write : Bool) (va : Nat) : State × Copy × Xlat :=
  match pageFor c.pages va with
  | some p => (s, c, .page p)
  | none =>
    match s.translate (16 + q.val) (copyAsk id c write) va with
    | (s, .page p) => (s.endWalk id, { c with pages := c.pages ++ [p] }, .page p)
    | (s, f) => (s, c, f)

/-- The four words of a sector at a tile or slot; none where one is uncorrectable (R383). -/
def localSector (s : State) (x : UnitSt) (w : Word) (off : Nat) : Option (List Word) :=
  match descKind w with
  | 0 =>
    let at_ := fun (i : Nat) => x.cfg.place false (bitsOf w.toNat 31 0) (off + 8 * i)
    let get := fun (i : Nat) => match at_ i with
      | .at_ t k => if (x.tile t).bad.contains k then none else some ((x.tile t).word k)
      | .bad _ => none
    (List.range 4).mapM get
  | _ =>
    let k := s.slotOf x.nwQuarter (w.toNat % 512)
    let b := bitsOf w.toNat 31 16 / 8 + off / 8
    (List.range 4).mapM fun i => if k.bad.contains (b + i) then none else some (k.words.getD (b + i) 0)

/-- Four words written at a tile, each set full, or at a slot (R112, R132). -/
def putSector (s : State) (u : Nat) (w : Word) (off : Nat) (ws : List Word) : State :=
  match descKind w with
  | 0 => s.modUnit u fun x => (List.range 4).foldl (fun x i =>
      match x.cfg.place false (bitsOf w.toNat 31 0) (off + 8 * i) with
      | .at_ t k => x.setTile t (((x.tile t).setWord k (ws.getD i 0)).setFull k true)
      | .bad _ => x) x
  | _ =>
    match s.unit? u with
    | none => s
    | some x =>
      let n := w.toNat % 512
      s.setSlot x.nwQuarter n ((s.slotOf x.nwQuarter n).write (bitsOf w.toNat 31 16 / 8 + off / 8) ws)

/-- How a copy stands after sectors have moved: all of them, held at a fault, waiting for a line of a page table (R363), or
failed with a cause. -/
inductive CopyEnd where
  | done
  | fetch (va line : Nat)
  | held (cause detail va pa : Nat)
  | failed (cause : Nat)
  deriving DecidableEq, Repr

/-- One sector moved: the state, the copy with the pages it holds, and what stopped it, if anything did. -/
def moveSector (s : State) (q : Fin 4) (id : Nat) (c : Copy) : State × Copy × Option CopyEnd :=
  match s.unit? c.u with
  | none => (s, c, some .done)
  | some x =>
    let off := 32 * c.sector
    let fault := fun (va : Nat) (f : Xlat) => match f with
      | .fault cause detail pa => if cause = 0x0E then CopyEnd.failed 0x05 else if finalCause cause then .failed cause else .held cause detail va pa
      | .fetch line => .fetch va line
      | .page _ => .failed 0x05
    let far := fun (p : Page) (va : Nat) => decide (targetOf (p.at_ va) ≠ .host)
    let srcVa := bitsOf c.src.toNat 55 0 + off
    let dstVa := bitsOf c.dst.toNat 55 0 + off
    let read : State × Copy × Except CopyEnd (List Word) :=
      if descKind c.src = 2 then
        (match s.hostPage q id c false srcVa with
         | (s, c, .page p) =>
           if far p srcVa then (s, c, .error (.failed 0x05))
           else (s, c, .ok ((List.range 4).map fun i => Memory.word s.mem (p.at_ srcVa + 8 * i)))
         | (s, c, f) => (s, c, .error (fault srcVa f)))
      else if descKind c.src = 3 then
        ({ s with freeCtr := s.freeCtr + 4 }, c, .ok ((List.range 4).map fun i => BitVec.ofNat 64 (Config.free (s.freeCtr + i))))
      else match s.localSector x c.src off with
        | some ws => (s, c, .ok ws)
        | none => (s, c, .error (.failed 0x0D))
    match read with
    | (s, c, .error e) => (s, c, some e)
    | (s, c, .ok ws) =>
      let step := fun (s : State) (c : Copy) => (s, { c with sector := c.sector + 1 }, (none : Option CopyEnd))
      if descKind c.dst = 2 then
        (match s.hostPage q id c true dstVa with
         | (s, c, .page p) =>
           if far p dstVa then (s, c, some (.failed 0x05))
           else step { s with mem := (List.range 4).foldl (fun m i => Memory.setWord m (p.at_ dstVa + 8 * i) (ws.getD i 0)) s.mem } c
         | (s, c, f) => (s, c, some (fault dstVa f)))
      else if descKind c.dst = 3 then step s c
      else step (s.putSector c.u c.dst off ws) c

/-- Sectors moved in ascending order, at most so many (R132, R279). -/
def moveSectors (q : Fin 4) (id : Nat) : Nat → State × Copy → State × Copy × CopyEnd
  | 0, (s, c) => (s, c, .done)
  | n + 1, (s, c) =>
    if c.len ≤ 32 * c.sector then (s, c, .done)
    else match s.moveSector q id c with
      | (s, c, some e) => (s, c, e)
      | (s, c, none) => moveSectors q id n (s, c)

/-- The buffer a copy is aimed at. -/
def copyBuffer (c : Copy) : Option Nat :=
  let a := bitsOf c.dst.toNat 31 0
  if descKind c.dst = 0 ∧ a / 2 ^ 31 = 1 then some (a / 2 ^ 25 % 64) else none

/-- A copy leaves its engine with a status; a delivery into a buffer has landed, a released slot may be zeroed. -/
def endCopy (s : State) (q : Fin 4) (id : Nat) (c : Copy) (status cause : Nat) : State :=
  let s := s.finishCopy q id c (compTok status 0 cause 0 c.sector c.tag)
  let s := match c.buffer with
    | some b => s.modUnit c.u fun x => x.setBuf b { x.buf b with landed := (x.buf b).landed + 1 }
    | none => s
  startZeros s

end State

/-- COPY_START (R279): the engine is not moving a copy; the next one is refused, or starts and is charged. -/
def execCopyStart (quarter : Nat) (s : State) : Host.Outcome State Fault Refusal :=
  let q := Fin.ofNat 4 quarter
  if (State.moving (s.copies[q]).copies).isSome then .next s
  else match s.nextCopy q with
    | none => .next s
    | some (id, c) =>
      match s.unit? c.u with
      | none => .next (s.endCopy q id c 3 0x11)
      | some x =>
        match s.copyRefused x c with
        | some cause => .next (s.endCopy q id c 2 cause)
        | none =>
          let e := s.copies[q]
          let s := { s with copies := s.copies.set q { e with turn := c.tenant } }
          let s := s.charge c.tenant 2 (kibOf c.len)
          let b := State.copyBuffer c
          let s := s.setCopy q id { c with started := true, buffer := b }
          .next (match b with
            | some n => s.modUnit c.u fun x => x.setBuf n (State.bufferOpen (x.buf n))
            | none => s)

/-- The fault record of a copy engine (R369): its quarter, the sector that did not move. -/
def copyRec (s : State) (q : Fin 4) (c : Copy) : FaultRec :=
  let x := s.unit? c.u
  { kind := 0, agent := 3, cause := 0, job := c.job, section_ := (x.map UnitSt.section_).getD 0
    replica := (x.map UnitSt.replica).getD 0, place := q.val, slot := c.slot, item := c.sector
    unit := (x.map UnitSt.serial).getD 0, snap := (x.map UnitSt.lastSnap).getD 0 }

/-- COPY_COMPLETE (R131, R279): the sectors that are left move in ascending order, each host page translated as its first
sector starts; a fault holds the copy there, and a page that is no host memory ends it. Whether another package takes a copy
through a window, or refuses it with 0x14 or 0x05, is open (R393; log 38). -/
def execCopyComplete (quarter : Nat) (s : State) : Host.Outcome State Fault Refusal :=
  let q := Fin.ofNat 4 quarter
  match State.moving (s.copies[q]).copies with
  | none => .next s
  | some (id, c) =>
    let ask := fun (a : State × Nat) (w : Word) =>
      if descKind w = 3 ∧ a.2 = 0 then a.1.farAnswer (a.1.descWindow c.tenant w) c.tenant [0, 0x14, 0x05] else a
    let stopped := match s.unit? c.u with
      | some x => !s.copyPath x c
      | none => false
    if stopped then .next s
    else
      let d := if c.sector = 0 ∧ c.pages.isEmpty then ask (ask (s, 0) c.src) c.dst else (s, 0)
      if d.2 ≠ 0 then .next (d.1.endCopy q id c 2 d.2)
      else
        match State.moveSectors q id (c.len / 32 + 1) (d.1, c) with
        | (t, c, .done) => .next (t.endCopy q id c 0 0)
        | (t, c, .failed cause) => .next (t.endCopy q id c (if cause = 0x05 ∧ c.sector = 0 then 2 else 4) cause)
        | (t, c, .fetch va line) =>
          .next ((t.setCopy q id c).fetchLine (State.copyAsk id c false) c.u c.job (portAt line) va line)
        | (t, c, .held cause detail va pa) =>
          if t.canHold c.job then
            let n := t.nextSerial
            .next (((t.endWalk id).holdFault (copyRec t q c) { what := .copy q.val id, cause := cause, detail := detail, va := va, u := c.u, pa := pa }).setCopy q id { c with held := some n })
          else .next (t.setCopy q id c)

/-! ## DRN and guards -/

/-- DRN_COMPLETION (R284): everything sent through the binding before a DRN has completed. -/
def execDrnCompletion (u n : Nat) (s : State) : Host.Outcome State Fault Refusal :=
  match s.unit? u with
  | none => .next s
  | some x =>
    let b := x.bindSt n
    let i := b.drn.findIdx fun d => d.2.2.all fun id => !b.open_.contains id
    match b.drn[i]? with
    | none => .next s
    | some d =>
      let s := s.setUnit u (x.setBind n { b with drn := listDel b.drn i })
      .next (s.deliverTo (State.pointOf x.cfg n) u d.1 [State.compTok 0 0 0 0 0 (BitVec.ofNat 3 d.2.1)])

/-- GUARD_POISON_RETURN (R406): 16 cycles after a dropped copy, its poison token, in place of a completion token. -/
def execGuardPoisonReturn (id : Nat) (s : State) : Host.Outcome State Fault Refusal :=
  match s.guards.get? id with
  | none => .next s
  | some g =>
    if s.clk.cyc < g.due then .next s
    else .next ({ s with guards := s.guards.erase id }.complete g.u g.bind g.num g.doneB (Token.poison 0x29 0))

end Sys2Proof.Machine
end

