-- ==== Sys2Proof/Machine/Fill.lean ====
section
/-! DEFINITION. Lines that come back to the section cache, tag walks that end, windows that are extended (R115, R116,
R133, R263-R265, R267, R363). -/

namespace Sys2Proof.Machine

/-- An access that waited for its line, the line being there (R263, R264). -/
def afterFill (s : State) (u : Nat) (w : CacheWait) : State :=
  match s.unit? u with
  | none => s
  | some x =>
    match x.cache.hit? w.va with
    | none => s
    | some y =>
      if w.store then (s.modCache u fun c => c.storeWord w.va w.data w.ef s.nextId).bumpId
      else
        let v := Cache.wordAt y w.va
        let s := (s.modCache u fun c => c.touch w.va w.ef s.nextId).bumpId
        s.modElem u w.e fun z => z.finishLate w.late v none 0 s.clk.cyc

/-- A dirty line that is evicted is written back for who made room; within the range of a CWB whose walk is under way, for that
CWB, whose line it is (R115, R133, R265, R289). -/
def State.evictLine (s : State) (u : Nat) (c : Cache) (who : CacheWait) (l : Nat × List (Nat × Word)) : State :=
  match c.walks.find? fun w => w.wb && decide (l.1 < w.hi) && decide (w.lo < l.1 + 64) with
  | some w => s.sendItem u w.e w.slot w.wave w.num .wb l.1 l.2
  | none => s.sendItem u who.e who.slot who.wave s.nextId .wb l.1 l.2

/-- CACHE_FILL_RETURN: a line comes back; a way is evicted for it where there is none, its dirty lines written back
(R115, R263, R264). -/
def execCacheFillReturn (u idx : Nat) (s : State) : Host.Outcome State Fault Refusal :=
  inSection s u fun x =>
    match x.cache.fills[idx]? with
    | none => s
    | some (item, line, ws) =>
      let c := x.cache
      let mine := c.waits.filter fun w => w.item == item && !w.direct
      let who := (mine.head?).getD { item := 0, e := 0, store := false, va := 0 }
      let s := s.modCache u fun c => { c with fills := listDel c.fills idx, waits := c.waits.filter fun w => !(w.item == item && !w.direct) }
      let c := { c with fills := listDel c.fills idx, waits := c.waits.filter fun w => !(w.item == item && !w.direct) }
      let t := max x.cfg.cbTiles.length 1
      match (if (c.way? (sbOf line)).isSome then some (c, none) else c.makeRoom t (sbOf line)) with
      | some (c, victim) =>
        let s := (s.modCache u fun _ => c.fillLine (sbOf line) line ws s.nextId).bumpId
        let s := match victim with
          | some v => (Cache.dirtyLines v).foldl (fun (t : State) l => t.evictLine u c who l) s
          | none => s
        mine.foldl (fun t w => afterFill t u w) s
      | none => mine.foldl (fun t w => t.pastCache u line ws w) s

/-- Lines of a way that a range meets, by number. -/
def linesIn (w : Way) (lo hi : Nat) : List Nat :=
  (List.range 4).filter fun i => w.valid.getLsbD i && decide (256 * w.sb + 64 * i < hi) && decide (lo < 256 * w.sb + 64 * i + 64)

/-- CINV's effect: the lines of a range are gone, dirty ones too (R265). -/
def Cache.invalidate (c : Cache) (lo hi : Nat) : Cache :=
  let cut := fun (w : Way) => (linesIn w lo hi).foldl (fun (w : Way) i => { w with valid := w.valid &&& ~~~(1#4 <<< i), dirty := w.dirty &&& ~~~(1#4 <<< i) }) w
  { c with ways := (c.ways.map cut).filter fun w => w.valid != 0 }

/-- CWB's effect: the dirty lines of a range with their words, ascending, and the cache with them clean (R265). -/
def Cache.clean (c : Cache) (lo hi : Nat) : Cache × List (Nat × List (Nat × Word)) :=
  let cut := fun (w : Way) => (linesIn w lo hi).foldl (fun (w : Way) i => { w with dirty := w.dirty &&& ~~~(1#4 <<< i) }) w
  let dirty := (c.ways.map fun w => (Cache.dirtyLines w).filter fun l => (linesIn w lo hi).contains (l.1 / 64 % 4)).flatten
  ({ c with ways := c.ways.map cut }, sortBy (fun a b => decide (a.1 < b.1)) dirty)

/-- An earlier access of the walk's element to a line of its range waits for a fill: a store that has not merged, or a
read that is ordered before the walk (R122, R133, R264). -/
def walkWaits (c : Cache) (w : CacheWalk) : Bool :=
  c.waits.any fun k => k.e == w.e && decide (k.num < w.num) && (k.store || (k.wave && w.wave)) &&
    decide (lineOf k.va < w.hi) && decide (w.lo < lineOf k.va + 64)

/-- CACHE_WALK_END (R265): the walk is over, and the accesses that come before it at its lines have been performed. -/
def execCacheWalkEnd (u idx : Nat) (s : State) : Host.Outcome State Fault Refusal :=
  inSection s u fun x =>
    match x.cache.walks[idx]? with
    | none => s
    | some w =>
      if decide (s.clk.cyc < w.fin) || walkWaits x.cache w then s
      else
        let s := s.modCache u fun c => { c with walks := listDel c.walks idx }
        if w.wb then
          let r := x.cache.clean w.lo w.hi
          (s.modCache u fun c => { c with ways := r.1.ways }).sendLines u w.e w.slot w.wave w.num r.2
        else s.modCache u fun c => c.invalidate w.lo w.hi

/-- WINDOW_EXTEND: a window with fewer than 32 KiB ahead of its last read has a transport rider of 32 KiB extend its head; it
is translated, boards and visits its lines as a section's riders do (R116, log 20). Reads whose words are there are served. -/
def execWindowExtend (u idx : Nat) (s : State) : Host.Outcome State Fault Refusal :=
  inSection s u fun x =>
    let s := s.serveWindows u
    let ws := x.cache.wins.getD 0 []
    match ws[idx]? with
    | none => s
    | some w =>
      if w.lastRead + 32768 ≤ w.head ∨ w.ext.isSome then s
      else
        let id := s.nextId
        let r : Rider := { u := u, e := 0, slot := 0, bind := 32, port := s.portOfVa x.tenant w.head, job := x.job, tenant := x.tenant
                           secure := x.secure, kind := .rd, op := 3, base := w.head, len := 512, doneB := 32, delivB := 32, tag := 0
                           aux3 := 0, aux16 := 0, par := [], what := .window }
        (s.bumpId.setRider id r).modCache u fun c => { c with wins := c.wins.set 0 (listUpd ws idx fun w => { w with ext := some id }) }

end Sys2Proof.Machine
end

