-- ==== Sys2Proof/Machine/Remote.lean ====
section
/-! DEFINITION. What goes to and comes from other packages: remote writes, messages, collectives (R134, R136, R257, R278,
R280, R282, R283, R392-R395). What another package answers or sends is open. -/

namespace Sys2Proof.Machine

namespace State

/-- `n` free values taken. -/
def draws (s : State) (n : Nat) : State × List Nat :=
  ({ s with freeCtr := s.freeCtr + n }, (List.range n).map fun i => Config.free (s.freeCtr + i))

/-- 100 us in cycles (R394, R395). -/
def farLimit : Nat := 270000

/-! ## Acknowledgements (R282, R283, R394) -/

/-- A remote write or message is over with a cause, 0 where it was performed. -/
def endRemote (s : State) (id : Nat) (r : Remote) (cause : Nat) : State :=
  let s := { s with remotes := s.remotes.erase id }
  if r.message then s.complete r.u r.bind id r.doneB (compTok (if cause = 0 then 0 else 2) 0 cause 0 0 r.tag)
  else
    let s := s.settleSent r.u r.bind id
    if cause = 0 then s else wremFail s r cause

/-- The WREM.full writes that waited for write `id`: with it performed they wait for one less and go out when none is
left; with it refused or failed they are refused with 0x14, and so are those behind them (R394).  At most `n` rounds. -/
def releaseAfter : Nat → Bool → List Nat → State → State
  | 0, _, _, s => s
  | n + 1, ok, ids, s =>
    let waits := s.remotes.filter fun p => p.2.after.any ids.contains
    if ok then
      { s with remotes := s.remotes.mapVals fun _ r =>
          if r.after.any ids.contains then { r with after := r.after.filter fun i => !ids.contains i, sentAt := s.clk.cyc } else r }
    else if waits.isEmpty then s
    else releaseAfter n false (waits.map Prod.fst) (waits.foldl (fun t p => t.endRemote p.1 p.2 0x14) s)

/-- A write or message has been answered or given up. -/
def answered (s : State) (id : Nat) (r : Remote) (cause : Nat) : State :=
  releaseAfter (s.remotes.length + 1) (cause == 0) [id] (s.endRemote id r cause)

end State

/-- REMOTE_ACKNOWLEDGEMENT (R134, R282, R283, R393): the destination has performed it or refused it, which is open. -/
def execRemoteAcknowledgement (id : Nat) (s : State) : Host.Outcome State Fault Refusal :=
  match s.remotes.get? id with
  | none => .next s
  | some r =>
    if !r.after.isEmpty || !s.domainUp then .next s
    else
      let own := match s.unit? r.u with
        | some x => x.tenant
        | none => 0
      let d := s.farAnswer r.entry own (if r.message then [0, 0x14, 0x13, 0x05] else [0, 0x14, 0x05])
      .next (d.1.answered id r d.2)

/-- REMOTE_ACK_TIMEOUT (R394). -/
def execRemoteAckTimeout (id : Nat) (s : State) : Host.Outcome State Fault Refusal :=
  match s.remotes.get? id with
  | none => .next s
  | some r => if r.after.isEmpty && decide (r.sentAt + State.farLimit ≤ s.clk.cyc) then .next (s.answered id r 0x14) else .next s

/-! ## Arrivals (R257, R393) -/

/-- The window admits the sender (R321, R393). -/
def farAdmits (x : UnitSt) (entry tenant : Nat) : Bool :=
  x.tenant == bitsOf entry 47 38 && (bitsOf entry 47 38 == tenant || bitsOf entry 11 11 == 1)

/-- What has arrived under a number and waits, or something new from another package, of which nothing is known. -/
def arrivalOf (s : State) (id : Nat) (message : Bool) : Option (State × Nat × Arrival) :=
  match s.arrivals.get? id with
  | some a => if a.message = message then some (s, id, a) else none
  | none =>
    if !s.domainUp then none
    else
      let d := s.draws 6
      let v := fun (i : Nat) => d.2.getD i 0
      let n := if message then v 5 % 64 + 1 else 1
      let e := d.1.draws (2 * n)
      let tok := fun (i : Nat) =>
        let mark := (if i = 0 then 1 else 0) + (if i + 1 = n then 2 else 0)
        let t := e.2.getD (2 * i) 0
        (⟨BitVec.ofNat 3 mark, BitVec.ofNat 3 (t / 2 ^ 32), BitVec.ofNat 32 t, BitVec.ofNat 64 (e.2.getD (2 * i + 1) 0)⟩ : Token)
      some ({ e.1 with nextId := e.1.nextId + 1 }, e.1.nextId,
        { message := message, full := v 0 % 2 == 1, entry := BitVec.ofNat 64 (v 1), tenant := v 2 % 1024, addr := v 3 % 2 ^ 32
          toks := (List.range n).map tok, since := s.clk.cyc })

/-- REMOTE_WRITE_ARRIVAL (R136, R282, R393): the write is performed, refused, or waits for a frozen section's thaw. -/
def execRemoteWriteArrival (id : Nat) (s : State) : Host.Outcome State Fault Refusal :=
  match arrivalOf s id false with
  | none => .next s
  | some (s, k, a) =>
    let gone : State := { s with arrivals := s.arrivals.erase k }
    match s.farUnit a.entry.toNat with
    | none => .next gone
    | some (u, x) =>
      if !farAdmits x a.entry.toNat a.tenant then .next gone
      else if x.frozen then .next { s with arrivals := s.arrivals.set k a }
      else match x.cfg.access .st a.addr 0 with
        | .bad _ => .next gone
        | .at_ t w =>
          let v := ((a.toks.head?).map Token.payload).getD 0
          let y := (x.tile t).setWord w v
          .next (gone.setUnit u (x.setTile t (if a.full then y.setFull w true else y)))

/-- The tokens of a message join their tenant's queue at the ingress point of the collective and remote paths of the tile's quarter
(R342, R343). -/
def joinPoint (s : State) (k : Nat) (a : Arrival) (u : Nat) (x : UnitSt) (t : Nat) : State :=
  let b := x.tileBlock t
  let pt := 16 * quarterAt (8 * b.1) (8 * b.2) + 15
  let p := s.ingress.getD pt {}
  let new := a.toks.map fun i => ({ tenant := x.tenant, u := u, n := 0, tok := State.admitTok x.cfg i, msg := k } : Ingress)
  { s with ingress := s.ingress.set pt { p with q := p.q ++ new }
           arrivals := s.arrivals.set k { a with passed := some 0 } }

/-- A message goes as far as it can: refused where its section, its window or its tile does not take it, it is gone (R393); else its
tokens join their ingress point; and once all of them have passed it, and within 10,800 cycles of that, it goes whole into its TF
tile as soon as that has room (R257, R290). While its section is frozen it waits (R393). -/
def moveMessage (s : State) (k : Nat) : State :=
  match s.arrivals.get? k with
  | none => s
  | some a =>
    if !a.message then s
    else
      let gone : State := { s with arrivals := s.arrivals.erase k }
      match s.farUnit a.entry.toNat with
      | none => gone
      | some (u, x) =>
        if !farAdmits x a.entry.toNat a.tenant then gone
        else match x.cfg.access .push a.addr 0, a.passed with
          | .bad _, _ => gone
          | .at_ t _, none => if x.frozen then s else joinPoint s k a u x t
          | .at_ t _, some n =>
            let y := x.tile t
            if !x.frozen && decide (a.toks.length ≤ n) && decide (y.fifo.length + a.toks.length ≤ 16384) && decide (s.clk.cyc ≤ a.since + 10800) then
              gone.setUnit u { x.setTile t { y with fifo := y.fifo ++ a.toks.map (State.admitTok x.cfg) } with quietAt := s.clk.cyc }
            else s

/-- Every message goes as far as it can. -/
def moveMessages (s : State) : State := s.arrivals.keys.foldl moveMessage s

/-- A message has been held for 10,800 cycles since the last of its tokens passed, its section not frozen (R257, R393). -/
def holdOver (s : State) (a : Arrival) : Bool :=
  let frozen := match s.farUnit a.entry.toNat with
    | some (_, x) => x.frozen
    | none => false
  a.message && !frozen && decide (a.since + 10800 ≤ s.clk.cyc) && (match a.passed with
    | some n => decide (a.toks.length ≤ n)
    | none => false)

/-- MESSAGE_ARRIVAL (R257): a message arrives, or one that is held is looked at again. -/
def execMessageArrival (id : Nat) (s : State) : Host.Outcome State Fault Refusal :=
  match arrivalOf s id true with
  | none => .next s
  | some (s, k, a) => .next (moveMessage { s with arrivals := s.arrivals.set k a } k)

/-- MESSAGE_HOLD_EXPIRY (R257): a message that has found no room for 10,800 cycles is refused. -/
def execMessageHoldExpiry (id : Nat) (s : State) : Host.Outcome State Fault Refusal :=
  let s := moveMessage s id
  match s.arrivals.get? id with
  | none => .next s
  | some a => .next (if holdOver s a then { s with arrivals := s.arrivals.erase id } else s)

/-! ## Collectives (R280, R395) -/

/-- The entry of a group: members, this package's rank, whether it is valid, its tenant. -/
structure Group where
  members : Nat
  rank : Nat
  valid : Bool
  tenant : Nat
  deriving DecidableEq, Repr

/-- Group `g` of the table. -/
def groupOf (s : State) (g : Nat) : Group :=
  let b := fun (i : Nat) => (s.groups.getD (4096 * g + i) 0).toNat
  { members := b 0 + 256 * b 1, rank := b 2 + 256 * b 3, valid := b 4 % 2 == 1, tenant := b 6 + 256 * b 7 }

namespace Coll

def op (c : Coll) : Nat := bitsOf c.w0.toNat 3 0
def ty (c : Coll) : Nat := bitsOf c.w0.toNat 7 4
def group (c : Coll) : Nat := bitsOf c.w0.toNat 15 8
def doneB (c : Coll) : Nat := bitsOf c.w0.toNat 20 16
def tag (c : Coll) : BitVec 3 := BitVec.ofNat 3 (bitsOf c.w0.toNat 23 21)
def count (c : Coll) : Nat := bitsOf c.w0.toNat 55 32
def src (c : Coll) : Nat := bitsOf c.w1.toNat 31 0
def dst (c : Coll) : Nat := bitsOf c.w1.toNat 63 32

/-- The format of the elements. -/
def fmt (c : Coll) : Fmt :=
  match c.ty with
  | 0 => .int32
  | 1 => .int64
  | 2 => .fp32
  | _ => .bf16

end Coll

/-- A range of elements lies in AB tiles, all of it (R280). -/
def collRange (x : UnitSt) (a bytes : Nat) : Bool :=
  bytes == 0 || State.descGood.tileRange x a ((bytes + 7) / 8 * 8)

/-- The cause that refuses a COLL at this package. -/
def collRefused (s : State) (x : UnitSt) (c : Coll) : Option Nat :=
  let g := groupOf s c.group
  let n := c.count * (c.fmt.laneW / 8)
  let into := if c.op = 3 then g.members * n else n
  if 6 ≤ c.op ∨ 4 ≤ c.ty ∨ (c.op = 4 ∧ g.members ≤ c.root) then some 0x09
  else if !g.valid || g.tenant != x.tenant then some 0x15
  else if c.op ≠ 5 ∧ (c.src % 8 ≠ 0 ∨ c.dst % 8 ≠ 0) then some 0x03
  else if c.op ≠ 5 ∧ (!collRange x c.src n || !collRange x c.dst into) then some 0x05
  else none

/-- Element `i` of an array at a tile address. -/
def collGet (x : UnitSt) (f : Fmt) (a i : Nat) : Nat :=
  let per := 64 / f.laneW
  match x.cfg.place false a (i / per * 8) with
  | .at_ t w => laneBits ((x.tile t).word w) f.laneW (i % per)
  | .bad _ => 0

/-- Element `i` of an array at a tile address written, its word set full. -/
def collPut (f : Fmt) (a : Nat) (x : UnitSt) (i v : Nat) : UnitSt :=
  let per := 64 / f.laneW
  match x.cfg.place false a (i / per * 8) with
  | .at_ t w =>
    let old := (x.tile t).word w
    let new := ofLanes f.laneW ((List.range per).map fun j => if j = i % per then v else laneBits old f.laneW j)
    x.setTile t (((x.tile t).setWord w new).setFull w true)
  | .bad _ => x

/-- Two contributions combined (R280): 0 sum, 1 min, 2 max. -/
def collCombine (op : Nat) (f : Fmt) (x y : Nat) : Lane :=
  match f.float? with
  | some ff => famoLane (if op = 0 then .famoAdd else if op = 1 then .famoMin else .famoMax) ff x y
  | none => ⟨amoLane (if op = 0 then .amoAdd else if op = 1 then .amoMin else .amoMax) f x y, 0⟩

/-- An element reduced over the ranks in ascending order; the other members' contributions are given. -/
def collReduce (c : Coll) (g : Group) (own : Nat) (others : Nat → Nat) : Lane :=
  let of := fun (r : Nat) => if r = g.rank then own else others r % 2 ^ c.fmt.laneW
  (List.range (g.members - 1)).foldl (fun (l : Lane) r =>
    let m := collCombine c.op c.fmt l.bits (of (r + 1))
    ⟨m.bits, l.fl ||| m.fl⟩) ⟨of 0, 0⟩

/-- The section's tiles after a collective, and the flags it raised. -/
def collApply (x : UnitSt) (c : Coll) (g : Group) (free : Nat → Nat) : UnitSt × Flags :=
  let f := c.fmt
  let own := (List.range c.count).map fun i => collGet x f c.src i
  let other := fun (r i : Nat) => free (r * c.count + i)
  match c.op with
  | 5 => (x, 0)
  | 4 => ((List.range c.count).foldl (fun y i =>
      collPut f c.dst y i (if c.root = g.rank then own.getD i 0 else other c.root i % 2 ^ f.laneW)) x, 0)
  | 3 => ((List.range (g.members * c.count)).foldl (fun y k =>
      let r := k / max c.count 1
      let i := k % max c.count 1
      collPut f c.dst y k (if r = g.rank then own.getD i 0 else other r i % 2 ^ f.laneW)) x, 0)
  | _ => (List.range c.count).foldl (fun (a : UnitSt × Flags) i =>
      let l := collReduce c g (own.getD i 0) fun r => other r i
      (collPut f c.dst a.1 i l.bits, a.2 ||| l.fl)) (x, 0)

/-- A collective of this package is over; the next of its group is the oldest from now on (R395). -/
def endColl (s : State) (id : Nat) (c : Coll) (status : Nat) (fl : Flags) (cause : Nat) : State :=
  let left := (s.colls.erase id).mapVals fun _ d => if d.group = c.group then { d with sentAt := s.clk.cyc } else d
  { s with colls := left }.complete c.u c.bind id c.doneB (State.compTok status fl cause 0 0 c.tag)

/-- No COLL of its group is older (R395). -/
def oldestColl (s : State) (id : Nat) (c : Coll) : Bool := !s.colls.any fun p => decide (p.1 < id) && p.2.group == c.group

/-- COLLECTIVE_COMPLETE (R280, R395): the oldest COLL of its group; whether the members' COLLs agree, and what the
others contribute, is open. -/
def execCollectiveComplete (id : Nat) (s : State) : Host.Outcome State Fault Refusal :=
  match s.colls.get? id with
  | none => .next s
  | some c =>
    match s.unit? c.u with
    | none => .next { s with colls := s.colls.erase id }
    | some x =>
      if !oldestColl s id c then .next s
      else match collRefused s x c with
        | some cause => .next (endColl s id c 2 0 cause)
        | none =>
          if !x.placed || !s.domainUp then .next s
          else
            let g := groupOf s c.group
            let d := s.draw
            if d.2 % 2 = 1 then .next (endColl d.1 id c 2 0 0x09)
            else
              let k := d.1.freeCtr
              let r := collApply x c g fun i => Config.free (k + i)
              let t := { d.1 with freeCtr := k + g.members * c.count }
              .next (endColl (t.setUnit c.u r.1) id c 0 r.2 0)

/-- COLLECTIVE_MEMBER_TIMEOUT (R395): a member has not answered the oldest COLL of a group for 100 us since that became the oldest; no
destination word is set full. -/
def execCollectiveMemberTimeout (id : Nat) (s : State) : Host.Outcome State Fault Refusal :=
  match s.colls.get? id with
  | none => .next s
  | some c => if oldestColl s id c && decide (c.sentAt + State.farLimit ≤ s.clk.cyc) then .next (endColl s id c 4 0 0x15) else .next s

end Sys2Proof.Machine
end

