-- ==== Sys2Proof/Machine/Links.lean ====
section
/-! DEFINITION. Links, Ethernet ports, power, bring-up and what failing hardware takes with it (R101, R118, R369, R384,
R385, R387, R390-R392, R397-R399, R402).  Whether a link trains and what its peer is, and whether memory or a signature
is good, are open (logs 5, 8). -/

namespace Sys2Proof.Machine

namespace State

/-! ## The host link (R387, R390, R391) -/

/-- Every ring of every queue takes the records that waited for the link (R390). -/
def flushAll (s : State) : State :=
  s.host.queues.keys.foldl (fun t q => [RingSel.comp, .log, .fault].foldl (fun t w => t.flushRing q w) t) s

/-- HLST of a mode, lanes in use and a number of retrains. -/
def hlst (mode lanes retrains : Nat) : Word := BitVec.ofNat 64 (mode + 2 ^ 2 * lanes + 2 ^ 8 * retrains)

/-- Times the host link has trained again. -/
def retrains (s : State) : Nat := bitsOf (s.reg 0x0601).toNat 15 8

/-- Bring-up has come to the links, or to recovery, in which the host's answers (R402). -/
def linksUp (s : State) : Bool := s.boot.powered && (s.boot.code == 3 || s.boot.code == 4 || s.boot.code == 5)

end State

/-- HOST_LINK_TRAIN (R387, R390). -/
def execHostLinkTrain (s : State) : Host.Outcome State Fault Refusal :=
  if !s.linksUp || s.linkUp then .next s
  else
    let d := s.draw
    let mode := 1 + d.2 % 2
    let lanes := 16 / 2 ^ (d.2 / 2 % 3)
    let again := if s.boot.linked then min 255 (s.retrains + 1) else s.retrains
    let s := { d.1 with boot := { d.1.boot with linked := true } }
    .next (s.setReg 0x0601 (State.hlst mode lanes again)).flushAll

/-- HOST_LINK_DOWN (R390). -/
def execHostLinkDown (s : State) : Host.Outcome State Fault Refusal := .next (s.setReg 0x0601 (State.hlst 0 0 s.retrains))

/-! ## Scale-out ports (R391, R392) -/

/-- SOST of port `p` after training with a peer: `domain` says that it speaks the domain protocol, `number` its package,
`eth` that it offers Ethernet (R391, R392). -/
def portStatus (s : State) (p lanes : Nat) (domain : Bool) (number : Nat) (eth : Bool) : Word :=
  let own := (s.reg 0x0600).toNat
  if own / 2 ^ 10 % 2 = 1 ∧ domain then
    if number % 2 ^ 10 = own % 2 ^ 10 then 0 else BitVec.ofNat 64 (1 + 2 ^ 2 * lanes + 2 ^ 16 * (number % 2 ^ 10))
  else if (s.reg (0x0618 + p)).getLsbD 1 && eth then BitVec.ofNat 64 (2 + 2 ^ 2 * lanes)
  else 0

/-- SCALEOUT_PORT_TRAIN (R392). -/
def execScaleoutPortTrain (port : Nat) (s : State) : Host.Outcome State Fault Refusal :=
  if 8 ≤ port || !s.linksUp || s.boot.code == 5 || !(s.reg (0x0618 + port)).getLsbD 0 || (s.reg (0x0610 + port)).toNat % 4 != 0 then .next s
  else
    let d := s.draw
    let v := portStatus s port (1 + d.2 / 2 ^ 12 % 8) (d.2 % 2 == 1) (d.2 / 4) (d.2 / 2 % 2 == 1)
    .next (d.1.setReg (0x0610 + port) v)

/-- SCALEOUT_LINK_DOWN (R394): the port is down; what it had under way is not acknowledged. -/
def execScaleoutLinkDown (port : Nat) (s : State) : Host.Outcome State Fault Refusal :=
  if port < 8 then .next (s.setReg (0x0610 + port) 0) else .next s

/-! ## Ethernet (R397) -/

/-- A ring of descriptors: host address of its base and size. -/
structure EthRing where
  base : Nat
  size : Nat
  deriving DecidableEq, Repr

namespace State

/-- The ring in a register of R397; none where the size is out of its range. -/
def ethRing (s : State) (n : Nat) : Option EthRing :=
  let v := (s.reg n).toNat
  let size := bitsOf v 63 48
  if 16 ≤ size ∧ size ≤ 4096 then some { base := bitsOf v 47 12 * 4096, size := size } else none

/-- The 16 bytes of descriptor `i`. -/
def descriptor (s : State) (r : EthRing) (i : Nat) : List Byte := Memory.readBytes s.mem (hostAddr (r.base + 16 * (i % r.size))) 16

/-- A descriptor's buffer, length, and its bits owned and end of frame. -/
def descBuf (d : List Byte) : Nat := natOfBytes (d.take 8)
def descLen (d : List Byte) : Nat := natOfBytes ((d.drop 8).take 2)
def descOwned (d : List Byte) : Bool := natOfBytes ((d.drop 10).take 1) % 2 == 1
def descEnd (d : List Byte) : Bool := natOfBytes ((d.drop 10).take 1) / 2 % 2 == 1

/-- Descriptors of the next frame to send, at most `n` looked at: owned ones up to an end of frame; none where the frame is
not whole. -/
def frameOut (s : State) (r : EthRing) : Nat → Nat → Option (List Nat)
  | 0, _ => none
  | n + 1, i =>
    let d := s.descriptor r i
    if !descOwned d then none
    else if descEnd d then some [i]
    else (frameOut s r n (i + 1)).map fun l => i :: l

/-- Bytes 9:8 and 10 of a descriptor written. -/
def putDescriptor (s : State) (r : EthRing) (i len code : Nat) : State :=
  { s with mem := Memory.writeBytes s.mem (hostAddr (r.base + 16 * (i % r.size)) + 8) (bytesOfNat 2 len ++ bytesOfNat 1 code) }

/-- A frame laid over owned descriptors, at most `n`: descriptor and part of the frame; none where they end before it
does.  A descriptor takes as many bytes as its length says, 9,216 where it says none (log 24). -/
def frameIn (s : State) (r : EthRing) : Nat → Nat → List Byte → Option (List (Nat × List Byte))
  | 0, _, _ => none
  | n + 1, i, f =>
    let d := s.descriptor r i
    let room := if descLen d = 0 ∨ 9216 < descLen d then 9216 else descLen d
    if !descOwned d then none
    else if f.length ≤ room then some [(i, f)]
    else (frameIn s r n (i + 1) (f.drop room)).map fun l => (i, f.take room) :: l

end State

/-- The port is in Ethernet mode and reaches host memory. -/
def ethUp (s : State) (port : Nat) : Bool := decide (port < 8) && (s.reg (0x0610 + port)).toNat % 4 == 2 && s.linkUp

/-- ETH_FRAME_SEND (R397). -/
def execEthFrameSend (port : Nat) (s : State) : Host.Outcome State Fault Refusal :=
  match s.ethRing (0x0620 + 2 * port) with
  | none => .next s
  | some r =>
    if !ethUp s port then .next s
    else
      let x := s.eth[Fin.ofNat 8 port]
      match s.frameOut r r.size x.send with
      | none => .next s
      | some l =>
        let part := fun (i : Nat) => let d := s.descriptor r i; Memory.readBytes s.mem (State.hostAddr (State.descBuf d)) (State.descLen d)
        let t := l.foldl (fun (t : State) i =>
          let d := s.descriptor r i
          t.putDescriptor r i (State.descLen d) (natOfBytes ((d.drop 10).take 1) / 2 * 2)) s
        .next { t with eth := t.eth.set (Fin.ofNat 8 port) { x with send := (x.send + l.length) % r.size, sent := x.sent ++ [(l.map part).flatten] } }

/-- ETH_FRAME_RECEIVE (R397): a frame that finds no place is dropped. -/
def execEthFrameReceive (port : Nat) (bytes : List Byte) (s : State) : Host.Outcome State Fault Refusal :=
  match s.ethRing (0x0621 + 2 * port) with
  | none => .next s
  | some r =>
    if !ethUp s port then .next s
    else
      let x := s.eth[Fin.ofNat 8 port]
      match s.frameIn r r.size x.recv bytes with
      | none => .next s
      | some l =>
        let last := (x.recv + l.length - 1)
        let t := l.foldl (fun (t : State) p =>
          let t := { t with mem := Memory.writeBytes t.mem (State.hostAddr (State.descBuf (s.descriptor r p.1))) p.2 }
          t.putDescriptor r p.1 p.2.length (if p.1 = last then 2 else 0)) s
        .next { t with eth := t.eth.set (Fin.ofNat 8 port) { x with recv := (x.recv + l.length) % r.size } }

/-! ## Power and bring-up (R101, R402) -/

namespace State

/-- The device as power-good leaves it: what belongs to the host and the world outside stays. -/
def fresh (s : State) (on : Bool) : State :=
  { boot := { powered := on }, mem := s.mem.filter fun c => decide (0x800000000000 ≤ c.1)
    power := { temp := s.power.temp, pnow := s.power.pnow }
    agenda := s.agenda, freeCtr := s.freeCtr, nextId := s.nextId }

/-- Sweep and deep memory zeroed, every ring in the steady class (R402). -/
def initMemory (s : State) : State :=
  { s with mem := s.mem.filter fun c => decide (0x800000000000 ≤ c.1)
           regs := s.regs.filter fun p => !(decide (0x0108 ≤ p.1) && decide (p.1 ≤ 0x010C))
           sweep := { s.sweep with lineCache := [], seals := [], badSec := [] } }

/-- A state of bring-up reached, with an error code. -/
def bootTo (s : State) (code err : Nat) : State := { s with boot := { s.boot with code := code, err := err } }

end State

/-- A signature block: its key slot, and whether it is well formed (R398). -/
def sigSlot (b : List Byte) : Option Nat :=
  let f := recField b
  if b.length = 3392 ∧ f 0 4 = 0x1A534358 ∧ f 4 2 = 1 ∧ f 6 2 < 8 ∧ f 8 8 = 3392 ∧ f 3389 3 = 0 then some (f 6 2) else none

/-- A signed image: a well-formed block whose signatures verify over every byte before it under the keys of its slot, which is not
empty (R398, R399). -/
def signedBy (s : State) (b : List Byte) : Option Nat :=
  if b.length < 3392 then none
  else
    let n := b.length - 3392
    match sigSlot (b.drop n) with
    | some k =>
      (match s.keyOf k with
       | some key => if Config.verifies key (b.take n) (b.drop n) then some k else none
       | none => none)
    | none => none

/-- Firmware has verified: it runs, and loads slots 1-7 from key bundles signed under slot 0 (R398, R402). -/
def runFirmware (s : State) (b : List Byte) : State :=
  let load := fun (m : Assoc KeyPair) (k : Nat) =>
    let x := Config.keyBundle k
    if signedBy s x = some 0 then m.set k (Config.bundleKey x) else m
  { s with boot := { s.boot with code := 2, err := 0, sigOk := true, fw := Config.fwVersion b, firmware := b, image := none
                                 keys := [1, 2, 3, 4, 5, 6, 7].foldl load [] } }

/-- A required key slot is empty (R402). -/
def keyMissing (s : State) : Bool := (List.range 8).any fun k => Config.keyRequired k && (s.keyOf k).isNone

/-- POWER_GOOD (R402). -/
def execPowerGood (s : State) : Host.Outcome State Fault Refusal := if s.boot.powered then .next s else .next (s.fresh true)

/-- POWER_LOSS (R101, R402). -/
def execPowerLoss (s : State) : Host.Outcome State Fault Refusal := if s.boot.powered then .next (s.fresh false) else .next s

/-- The bytes of the recovery image in the boot window. -/
def recoveryImage (s : State) (n : Nat) : List Byte := (List.range (min n (2 ^ 26))).map fun i => s.boot.window.getD i 0

/-- BOOT_STATE_ADVANCE (R402): firmware is what the flash holds, or the image that the host has written in recovery. Whether memory is
good is open, and so is the error code (log 5). -/
def execBootStateAdvance (s : State) : Host.Outcome State Fault Refusal :=
  if !s.boot.powered then .next s
  else match s.boot.code with
    | 0 =>
      let t := { s with freeCtr := s.freeCtr + 1 }
      .next { t with boot := { t.boot with code := 1, err := 0, firmware := Config.flash s.freeCtr } }
    | 1 => if signedBy s s.boot.firmware = some 0 then .next (runFirmware s s.boot.firmware) else .next (s.bootTo 5 0)
    | 2 =>
      let d := s.draw
      if d.2 % 2 = 0 && !keyMissing s then .next (d.1.initMemory.bootTo 3 0) else .next (d.1.bootTo 6 (d.2 / 2 % 256))
    | 3 => .next ((s.bootTo 4 0).setReg 0x0500 3)
    | 5 =>
      (match s.boot.image with
       | none => .next s
       | some n =>
         if signedBy s (recoveryImage s n) = some 0 then .next (runFirmware s (recoveryImage s n))
         else .next { s with boot := { s.boot with image := none } })
    | _ => .next s

/-! ## Operand slots (R118) -/

/-- SLOT_ZERO_COMPLETE: the slot is zero and free. -/
def execSlotZeroComplete (quarter slot : Nat) (s : State) : Host.Outcome State Fault Refusal :=
  match (s.slotOf quarter slot).zeroAt with
  | some c => if c ≤ s.clk.cyc then .next (s.setSlot quarter slot {}) else .next s
  | none => .next s

/-! ## Failures (R384, R385) -/

/-- A bit of a run of 64-bit registers set. -/
def State.setBit (s : State) (n i : Nat) : State := s.setReg (n + i / 64) (s.reg (n + i / 64) ||| (1#64 <<< (i % 64)))

/-- Active jobs. -/
def State.activeJobs (s : State) : List Nat := (s.jobs.filter fun p => p.2.active).map Prod.fst

/-- BANK_FAILURE (R384): the ring is withdrawn, and every active job learns of it.  The ring leaves its class at the next
boundary; what is over it finds it withdrawn there. -/
def execBankFailure (ring : Nat) (s : State) : Host.Outcome State Fault Refusal :=
  if 288 ≤ ring || s.ringLost ring then .next s
  else
    .next (s.activeJobs.foldl (fun (t : State) j =>
      t.putLoss { kind := 3, agent := 1, cause := 0x2B, job := j, place := ring / 24, pa := ring * 2 ^ 31 }) (s.setBit 0x0510 ring))

namespace State

/-- What a section falls back to when its blocks fail: tiles of zeros, and its last snapshot, if it has one, read back from deep
memory (R381, R385). -/
def rollback (s : State) (job sec rep tenant : Nat) (secure : Bool) (c : SecCfg) : State :=
  let mine := fun (j k r : Nat) => j == job && k == sec && r == rep
  let snap := (s.snaps.filter fun k => mine k.job k.section_ k.replica).getLast?
  let new : Resident := { job := job, section_ := sec, replica := rep, tenant := tenant, secure := secure, nw := none, mem := [], bufs := []
                          cache := {}, elems := [], cfg := c, snap := (snap.map Snapshot.serial).getD 0 }
  let s := { s with
    residents := s.residents.filter (fun r => !mine r.job r.section_ r.replica) ++ [new]
    sweep := { s.sweep with reads := s.sweep.reads.filter fun p => match p.2.use with
      | .rollback j k r => !mine j k r
      | .thaw _ _ _ => true } }
  match snap with
  | some k => s.beginRead { tenant := tenant, secure := secure, va := k.addr, len := 64, use := .rollback job sec rep }
  | none => s

/-- A unit stops where its blocks fail (R385). -/
def loseUnit (s : State) (u : Nat) (x : UnitSt) : State :=
  let s := match x.snapping with
    | some man => s.failSnapshot u man
    | none => s
  let aboard := (s.sweep.riders.filter fun p => p.2.u == u && p.2.what == .packet && p.2.phase == .aboard).length
  let s := (s.cancelTraffic u).exactWithdraw u
  let s := s.modUnit u fun y =>
    { y with phase := .ended, failed := true, reqs := [], uflag := y.elems.foldl (fun f p => f ||| p.2.fl) y.uflag }
  let s := s.modLaunch x.launch fun l => { l with ended := l.ended + 1, fail := true }
  let s := s.putLoss { kind := 3, agent := 6, cause := 0x2C, job := x.job, section_ := x.section_, replica := x.replica
                       unit := x.serial, item := aboard, snap := x.lastSnap }
  s.rollback x.job x.section_ x.replica x.tenant x.secure x.cfg

end State

/-- REGION_FAILURE (R385): the block is fenced, the units on it stop, frozen ones that are still to be read out too, and what
sections kept there is gone. -/
def execRegionFailure (block : Nat) (s : State) : Host.Outcome State Fault Refusal :=
  if 256 ≤ block || s.blockLost block then .next s
  else
    let hit := s.units.filter fun p => (p.2.placed || p.2.readout.isSome) && p.2.rect.blocks.contains block
    let kept := s.residents.filter fun r => match r.nw with
      | some nw => ({ nw := nw, rows := r.cfg.rows, cols := r.cfg.cols } : Rect).blocks.contains block
      | none => false
    let s := s.setBit 0x0520 block
    let s := hit.foldl (fun (t : State) p => t.loseUnit p.1 p.2) s
    .next (kept.foldl (fun (t : State) r => t.rollback r.job r.section_ r.replica r.tenant r.secure r.cfg) s)

end Sys2Proof.Machine
end

