-- ==== Sys2Proof/Machine/Power.lean ====
section
/-! DEFINITION. Where tokens enter a section from the engines: tokens of the host, ingress points, their buckets and
rates (R28, R72, R338, R339, R342-R345, R374). -/

namespace Sys2Proof.Machine

/-! ## Arrival at a port (R28, R72, R174, R342) -/

/-- INGRESS_TOKEN: the host port has a token for a host binding of a section.  It waits at the host port's ingress point;
once the unit drains, and before one is placed, it is held for the section's next unit (R72). -/
def execIngressToken (u n : Nat) (tok : Token) (s : State) : Host.Outcome State Fault Refusal :=
  match s.unit? u with
  | none => .next s
  | some x =>
    if (x.cfg.bindCfg n).kind != .host then .next s
    else match x.phase with
      | .running => .next (s.deliverTo 13 u n [tok])
      | .frozen _ false => .next (s.deliverTo 13 u n [tok])
      | _ => .next { s with heldIn := s.heldIn ++ [{ tenant := x.tenant, u := u, n := n, tok := tok }] }

/-! ## Passing a point (R342, R343) -/

namespace State

/-- Tokens that a carriage's buffer of 256 KiB holds under a frozen binding (R90, R374). -/
def frozenRoom : Nat := 16384

/-- A token at an ingress point can go on: its unit is over, the buffer of a frozen binding has room, or its route has
(R63, R342, R374, R377). A token of a message goes on to where its message is held (R257). -/
def canEnter (s : State) (i : Ingress) : Bool :=
  if i.msg ≠ 0 then true
  else match s.unit? i.u with
  | none => true
  | some x =>
    match x.phase with
    | .ended => true
    | .waiting => false
    | .frozen _ _ => decide (((x.bindSt i.n).deliver.filter fun p => p.1 == i.src).length < frozenRoom)
    | _ =>
      (match x.cfg.routeFrom (.port i.n) with
       | some (k, r) => decide (1 ≤ x.space k r)
       | none => true)

/-- A token enters its section, or the buffer of its frozen binding; one for a unit that is over is discarded. -/
def enter (s : State) (i : Ingress) : State :=
  if i.msg ≠ 0 then
    { s with arrivals := s.arrivals.upd i.msg fun a => { a with passed := a.passed.map (· + 1), since := s.clk.cyc } }
  else match s.unit? i.u with
  | none => s
  | some x =>
    match x.phase with
    | .ended => s
    | .waiting => s
    | .frozen _ _ => let b := x.bindSt i.n; s.setUnit i.u (x.setBind i.n { b with deliver := b.deliver ++ [(i.src, i.tok)] })
    | _ =>
      (match x.cfg.routeFrom (.port i.n) with
       | some (k, _) => let st := x.route k; s.setUnit i.u { x.setRoute k { st with toks := st.toks ++ [i.tok] } with quietAt := s.clk.cyc }
       | none => s)

/-- A token that the budget of its tenant refuses: poison enters in its place; a message is given up whole (R339; what becomes of
them is a DESIGN CHOICE, log 36). -/
def refuseToken (s : State) (i : Ingress) : State :=
  if i.msg ≠ 0 then { s with arrivals := s.arrivals.erase i.msg } else s.enter { i with tok := Token.poison 0x12 i.tok.coord }

/-- The unit of a token, or its message, is over: it passes uncharged (R377). -/
def isOver (s : State) (i : Ingress) : Bool :=
  if i.msg ≠ 0 then (s.arrivals.get? i.msg).isNone
  else match s.unit? i.u with
  | none => true
  | some x => x.phase == .ended

/-- The oldest token of each tenant at a point. -/
def fronts (q : List Ingress) : List Ingress :=
  q.foldl (fun l i => if l.any fun j => j.tenant == i.tenant then l else l ++ [i]) []

end State

/-- INGRESS_BUCKET_PASS: at a point whose bucket holds a credit, the tenant next in turn whose oldest token can go on and
whose budget is not spent passes that token (R338, R342, R343); a limit of zero refuses it (R339). -/
def execIngressBucketPass (point : Nat) (s : State) : Host.Outcome State Fault Refusal :=
  let p := s.ingress.getD point {}
  let can := (State.fronts p.q).filter fun i => s.canEnter i && (s.isOver i || ((s.inBudget i.tenant 1 || s.noBudget i.tenant 1) && decide (256 ≤ s.creditOf point)))
  match nextTenant p.turn (can.map Ingress.tenant) with
  | none => .next s
  | some t =>
    match can.find? fun i => i.tenant == t with
    | none => .next s
    | some i =>
      let s1 := { s with ingress := s.ingress.set point { q := p.q.erase i, turn := t } }
      if s.isOver i then .next s1
      else
        let s2 := s1.spendCredit point 256
        .next (if s.noBudget t 1 then s2.refuseToken i else (s2.charge t 1 1).enter i)

/-! ## Rates (R344, R345) -/

/-- A rate recomputed: from the quarter's fabric power and allowance, within the ceiling, halved while the quarter is too
hot (R344, R345). -/
def newRate (b : Bucket) (pnow pmax : Nat) (hot : Bool) : Nat :=
  let r := if pmax < pnow then b.rate - b.rate / 8 else if 8 * pnow < 7 * pmax then b.rate + b.ceiling / 8 else b.rate
  let r := min r b.ceiling
  if hot then r / 2 else r

namespace State

/-- Bits 47:32 of a bucket's register take a rate. -/
def setRate (s : State) (k r : Nat) : State :=
  let v := (s.reg (0x2000 + k)).toNat
  s.setReg (0x2000 + k) (BitVec.ofNat 64 (v % 2 ^ 32 + 2 ^ 32 * (r % 2 ^ 16)))

/-- Every rate of a quarter. -/
def rateQuarter (s : State) (q : Nat) : State :=
  let v := s.tha q
  let hot := decide (thermLimit v ≤ s.hottest ((List.range 64).map fun i => 64 * q + i))
  (List.range 16).foldl (fun t j =>
    let k := 16 * q + j
    (t.spendCredit k 0).setRate k (newRate (t.bucket k) (s.power.pnow.getD q 0) (thermPmax v) hot)) s

end State

/-- BUCKET_RATE_RECOMPUTE: once in a quick step (R344). -/
def execBucketRateRecompute (s : State) : Host.Outcome State Fault Refusal :=
  let now := s.sweep.quick.step
  if s.power.rated < now then
    let s := [0, 1, 2, 3].foldl State.rateQuarter s
    .next { s with power := { s.power with rated := now } }
  else .next s

end Sys2Proof.Machine
end

