-- ==== Sys2Proof/Machine/Image.lean ====
section
/-! DEFINITION. The configuration image as the loader reads it: layout, records and checks (R28, R39, R57, R58, R71, R81,
R113, R158, R166-R173, R233). -/

namespace Sys2Proof.Machine

/-- An item that fails: its offset, its reason, and where it stands (R173). -/
structure Fail where
  off : Nat
  reason : Nat
  sec : Nat := 0
  row : Nat := 0
  col : Nat := 0
  idx : Nat := 0
  kind : Nat := 0
  deriving DecidableEq, Repr

/-- The failing item at the lowest offset, and its lowest reason (R173). -/
def worstFail : List Fail → Option Fail
  | [] => none
  | f :: fs => some (fs.foldl (fun a b => if b.off < a.off ∨ (b.off = a.off ∧ b.reason < a.reason) then b else a) f)

/-- The reason record of 16 bytes (R173). -/
def Fail.bytes (f : Fail) : List Byte :=
  bytesOfNat 2 f.reason ++ bytesOfNat 2 f.sec ++ bytesOfNat 1 f.row ++ bytesOfNat 1 f.col ++ bytesOfNat 1 f.idx ++
    bytesOfNat 1 f.kind ++ bytesOfNat 8 f.off

/-- An item's failed checks as failures. -/
def Fail.all (f : Fail) (rs : List Nat) : List Fail := rs.map fun r => { f with reason := r }

/-! ## Ranges (R166, R170, R171) -/

namespace ImgSrc

/-- The offsets of `n` data records from one on (R170). -/
def dataAt (x : ImgSrc) (lim : Nat) : Nat → Nat → List Nat
  | 0, _ => []
  | n + 1, off => if lim < off then [off] else off :: dataAt x lim n (off + 24 + x.get (off + 12) 4)

/-- Every range of the image's records: offset and length. -/
def ranges (x : ImgSrc) (h : ImgHead) : List (Nat × Nat) :=
  let secs := ((List.range h.sections).map fun i =>
    let o := h.secAt i
    [(x.get (o + 24) 8, h.elemSize * x.get (o + 16) 4), (x.get (o + 32) 8, 16 * x.get (o + 20) 4),
     (x.get (o + 40) 8, 4 * x.get o 1 * x.get (o + 1) 1)]).flatten
  let graphs := ((List.range h.graphs).map fun i =>
    let o := h.graphAt i
    [(x.get (o + 8) 8, 32 * x.get (o + 4) 4), (x.get (o + 16) 8, 32 * x.get (o + 24) 4)]).flatten
  let data := (x.dataAt h.limit h.data h.dataOff).map fun o => (o, 24 + x.get (o + 12) 4)
  [(0, 64), (h.secOff, 1344 * h.sections), (h.graphOff, 32 * h.graphs), (h.ringOff, 16 * h.rings + 16 * h.patches)] ++
    secs ++ graphs ++ (h.dataOff, 0) :: data

/-- Ranges in order of offset that lie one behind the other. -/
def apart : List (Nat × Nat) → Bool
  | a :: b :: rest => decide (a.1 + a.2 ≤ b.1) && apart (b :: rest)
  | _ => true

/-- A range put in its place among others. -/
def insertRange (p : Nat × Nat) : List (Nat × Nat) → List (Nat × Nat)
  | [] => [p]
  | q :: qs => if p.1 < q.1 then p :: q :: qs else q :: insertRange p qs

/-- The header's own fields are right (R166, R171), for an image of `size` bytes. -/
def headGood (x : ImgSrc) (h : ImgHead) (size : Nat) : Bool :=
  x.get 0 4 == 0x1A494358 && (h.version == 3 || h.version == 2) && decide (h.flags < 4) && h.size == size &&
  decide (1 ≤ h.sections) && decide (h.sections ≤ 256) && decide (h.graphs ≤ 256) && decide (h.rings ≤ 1024) &&
  x.get 28 4 == 0 && (!h.signedFlag || decide (3392 + 64 ≤ h.size))

/-- No range starts off a multiple of 8 or ends beyond the image, be it an empty table's, and none that holds a record meets
another (R166, R171). -/
def rangesGood (x : ImgSrc) (h : ImgHead) : Bool :=
  let rs := x.ranges h
  (rs.all fun p => p.1 % 8 == 0 && decide (p.1 + p.2 ≤ h.limit)) &&
    apart ((rs.filter fun p => p.2 != 0).foldl (fun l p => insertRange p l) [])

/-! ## Sections (R167-R169, R172) -/

/-! ## Checks of a section -/

/-- Checks of a section record's head: shape, reserved bits, palette, version (R28, R167, R172). -/
def headFails (x : ImgSrc) (h : ImgHead) (i : Nat) : List Fail :=
  let o := h.secAt i
  let rows := x.get o 1
  let cols := x.get (o + 1) 1
  let pal := (List.range 8).map fun j => x.get (o + 8 + j) 1
  let bad := fun (b : Nat) => (decide (0x15 < b % 32) && b % 32 != 0x1F) || decide (64 ≤ b) || (decide (32 ≤ b) && !(decide (5 ≤ b % 32) && decide (b % 32 ≤ 10)))
  let f : Fail := { off := o, reason := 0, sec := i }
  f.all (reasonIf (rows == 0 || cols == 0 || decide (16 < rows) || decide (16 < cols) || decide (8 ≤ x.get (o + 2) 1) ||
      x.get (o + 3) 1 != 0 || x.get (o + 1328) 16 != 0) 0x11 ++ reasonIf (pal.any bad) 0x09 ++
    reasonIf (h.x2 && pal.any fun b => (decide (7 ≤ b % 32) && decide (b % 32 ≤ 10)) || b % 32 == 0x12) 0x13)

/-- Checks of a tile-role table (R167, R172). -/
def roleFails (x : ImgSrc) (h : ImgHead) (i : Nat) : List Fail :=
  let o := h.secAt i
  let f : Fail := { off := x.get (o + 40) 8, reason := 0, sec := i }
  let codes := (List.range (16 * x.get o 1 * x.get (o + 1) 1)).map fun t => x.roleAt o t
  f.all (reasonIf (codes.contains 3) 0x11 ++ reasonIf (h.x2 && codes.contains 1) 0x13)

/-- Checks of the bindings and the buffer table (R113, R167). -/
def tableFails (x : ImgSrc) (h : ImgHead) (i : Nat) (c : SecCfg) : List Fail :=
  let o := h.secAt i
  let port := fun (j : Nat) =>
    let b := o + 48 + 8 * j
    let kind := x.get b 1
    let stack := x.get (b + 1) 1
    ({ off := b, reason := 0, sec := i, kind := 4 } : Fail).all
      (reasonIf (decide (8 < kind) || (stack != 0 && (kind != 2 || decide (11 < stack))) || x.get (b + 2) 6 != 0) 0x0C)
  let buffer := fun (j : Nat) =>
    let b := o + 304 + 16 * j
    let k := (c.bufs[j]?).getD {}
    let bad := k.valid && (k.rows == 0 || k.cols == 0 || decide (4 * c.rows < k.row + k.rows) || decide (4 * c.cols < k.col + k.cols) ||
      decide (k.rows * k.cols * 2 ^ 18 < k.base + k.size))
    ({ off := b, reason := 0, sec := i, kind := 5 } : Fail).all (reasonIf (decide (1 < x.get b 1) || x.get (b + 5) 3 != 0 || bad) 0x0E)
  ((List.range 32).map port).flatten ++ ((List.range 64).map buffer).flatten

/-- The rectangle that the systolic elements of a section span: first and last row, first and last column, none where
there are none. R81 speaks of a selection that is not a rectangle and not of two separate rectangles: all the systolic
elements of a section are taken as one region here, so two rectangles apart are refused (DESIGN CHOICE, log 58). -/
def sysRect (c : SecCfg) : Option (Nat × Nat × Nat × Nat) :=
  match c.elems.filter fun e => e.cfg.systolic with
  | [] => none
  | e :: es => some (es.foldl (fun a x => (min a.1 x.row, max a.2.1 x.row, min a.2.2.1 x.col, max a.2.2.2 x.col)) (e.row, e.row, e.col, e.col))

/-- The systolic elements are a rectangle of whole blocks (R81). -/
def sysGood (c : SecCfg) : Bool :=
  match sysRect c with
  | none => true
  | some (y0, y1, x0, x1) =>
    y0 % 8 == 0 && x0 % 8 == 0 && (y1 + 1) % 8 == 0 && (x1 + 1) % 8 == 0 &&
    ((c.elems.filter fun e => e.cfg.systolic).map fun e => (e.row, e.col)).eraseDups.length == (y1 + 1 - y0) * (x1 + 1 - x0)

/-- An instruction that a version 2 image may not hold (R172). -/
def newOpcode (w : BitVec 32) : Bool :=
  let op := w.toNat / 2 ^ 18 % 256
  op / 32 == 6 || op == 0x68 || op == 0x69 || op == 0x6A

/-- Checks of an element record; a trigger index that version 2 does not have is refused as such, not as an empty trigger
(R39, R71, R76, R81, R161, R163, R168, R172, R319). -/
def elemFails (x : ImgSrc) (h : ImgHead) (priv : Bool) (i : Nat) (c : SecCfg) (j : Nat) : List Fail :=
  let o := x.get (h.secAt i + 24) 8 + h.elemSize * j
  let r := x.elemAt h o
  let p := elemParts h
  let f : Fail := { off := o, reason := 0, sec := i, row := r.row, col := r.col }
  let reserved := (r.ksrc.any fun k => decide (4 < k)) || decide (64 ≤ x.get (o + 2) 1) || decide (16 ≤ x.get (o + 3) 1) ||
    x.get (o + 24) 8 != 0 || (h.x2 && (x.get (o + 2) 1 != 0 || x.get (o + 3) 1 != 0))
  let firstSys := r.cfg.systolic && !((c.elems.take j).any fun e => e.cfg.systolic)
  let own := f.all (reasonIf (decide (8 * c.rows ≤ r.row) || decide (8 * c.cols ≤ r.col)) 0x11 ++ reasonIf reserved 0x18 ++
    reasonIf (firstSys && !sysGood c) 0x17)
  let slot := fun (q : Nat × BitVec 32) =>
    let w := q.2
    let newTrigger := h.x2 && decide (31 < w.toNat / 2 ^ 26)
    ({ f with off := o + 32 + 4 * q.1, idx := q.1, kind := 1 } : Fail).all
      ((slotReasons c r.cfg r.trig w).filter (fun n => n != 0x06 && !(n == 0x07 && newTrigger)) ++ reasonIf (privWord w && !(priv && h.privFlag)) 0x15 ++
        reasonIf (badConstant c r.ksrc r.k w) 0x04 ++ reasonIf (noConversion c.pal r.ksrc r.k w) 0x0A ++ reasonIf (h.x2 && newOpcode w || newTrigger) 0x13)
  let descs := r.slots.keys.map fun n => r.desc.getD n 0
  let chain := fun (n : Nat) =>
    ({ f with off := o + p.1 + 4 * n, idx := n, kind := 1 } : Fail).all (reasonIf (brokenChain descs (r.desc.getD n 0)) 0x08)
  let trig := fun (q : Nat × BitVec 64) =>
    let used := r.slots.any fun s => s.2.toNat / 2 ^ 26 == q.1
    ({ f with off := o + p.2.1 + 8 * q.1, idx := q.1, kind := 2 } : Fail).all
      (trigReasons r.cfg q.2 ++ (trigUsers r.slots q.1 q.2).filter (fun n => n == 0x06) ++ reasonIf (used && emptyTag c.pal q.2) 0x09)
  own ++ (r.slots.map slot).flatten ++ (r.slots.keys.map chain).flatten ++ (r.trig.map trig).flatten

/-- The endpoint lies in the section and serves as an end of that side (R57, R169). -/
def endGood (c : SecCfg) (src : Bool) : Endpoint → Bool
  | .chan row col ch => decide (row < 8 * c.rows) && decide (col < 8 * c.cols) && ((decide (4 ≤ ch) && decide (ch < 8)) || decide (12 ≤ ch)) == src
  | .tile t => decide (t < c.tileCount) && (!src || c.role t == .tf)
  | .port n => (c.bindCfg n).kind != .unbound
  | .none => false

/-- A divert target: an input channel, a tile, a binding, or none. -/
def divertGood (c : SecCfg) : Endpoint → Bool
  | .chan row col ch => decide (row < 8 * c.rows) && decide (col < 8 * c.cols) && decide (ch < 4)
  | .none => true
  | e => endGood c false e

/-- An end of a route is a control. -/
def isControl : Endpoint → Bool
  | .chan _ _ ch => decide (8 ≤ ch)
  | _ => false

/-- A route crosses an edge of the systolic region where R81 and R233 refuse it. -/
def crosses (c : SecCfg) (r : Route) : Bool :=
  match sysRect c with
  | none => false
  | some (_, y1, x0, x1) =>
    let sys := fun (row col : Nat) => c.elems.any fun e => e.cfg.systolic && e.row == row && e.col == col
    let into := match r.dst with
      | .chan row col ch => sys row col && ((ch == 0 && col != x0) || (ch == 11 && row == y1))
      | _ => false
    let out := match r.src with
      | .chan row col ch => sys row col && ch == 5 && col != x1
      | _ => false
    into || out

/-- Checks of a route record (R57, R169, R233). -/
def routeFails (x : ImgSrc) (h : ImgHead) (i : Nat) (c : SecCfg) (j : Nat) : List Fail :=
  let o := x.get (h.secAt i + 32) 8 + 16 * j
  let r := x.routeAt o
  let before := c.routes.take j
  let again := match r.src, r.dst with
    | s, d => (before.any fun q => (match s with
        | .chan _ _ _ => q.src == s
        | _ => false) || (match d with
        | .chan _ _ _ => q.dst == d
        | _ => false))
  let shape := [o, o + 4, o + 12].any fun a => (endpoint (x.get a 4)).isNone
  ({ off := o, reason := 0, sec := i, kind := 3 } : Fail).all
    (reasonIf (shape || !endGood c true r.src || !endGood c false r.dst || !divertGood c r.divert || again ||
        (isControl r.src != isControl r.dst) || decide (3 < x.get (o + 9) 1) || x.get (o + 10) 2 != 0) 0x0B ++
      reasonIf (crosses c r) 0x17)

/-- Checks of a section. -/
def secFails (x : ImgSrc) (h : ImgHead) (priv : Bool) (i : Nat) : List Fail :=
  let c := x.secCfg h (h.secAt i)
  x.headFails h i ++ x.roleFails h i ++ x.tableFails h i c ++ ((List.range c.elems.length).map fun j => x.elemFails h priv i c j).flatten ++
    ((List.range c.routes.length).map fun j => x.routeFails h i c j).flatten

/-! ## Graphs, rings, patches (R58, R77, R170) -/

/-- `n` bytes at an offset as a list. -/
def bytes (x : ImgSrc) (off n : Nat) : List Byte := Memory.readBytes x.mem (x.base + off) n

/-- A graph record with its nodes and argument blocks. -/
def graphRec (x : ImgSrc) (o : Nat) : Graph where
  quarter := x.get o 1
  nodes := (List.range (x.get (o + 4) 4)).map fun i => x.bytes (x.get (o + 8) 8 + 32 * i) 32
  args := (List.range (x.get (o + 24) 4)).map fun i => (List.range 4).map fun j => BitVec.ofNat 64 (x.get (x.get (o + 16) 8 + 32 * i + 8 * j) 8)

/-- Checks of a graph: its record and every node (R77, R170). -/
def graphFails (x : ImgSrc) (h : ImgHead) (i : Nat) : List Fail :=
  let o := h.graphAt i
  let g := x.graphRec o
  let own := ({ off := o, reason := 0 } : Fail).all (reasonIf (decide (3 < g.quarter) || x.get (o + 1) 3 != 0 || x.get (o + 28) 4 != 0) 0x0F)
  let node := fun (j : Nat) =>
    ({ off := x.get (o + 8) 8 + 32 * j, reason := 0, kind := 6 } : Fail).all
      (reasonIf (!nodeOk h.sections g.args.length g.nodes j (g.nodes.getD j [])) 0x0F)
  own ++ ((List.range g.nodes.length).map node).flatten

/-- Size, class and seal of a region. -/
def ringRec (x : ImgSrc) (o : Nat) : Nat × Nat × Bool := (x.get o 8, x.get (o + 8) 1, x.get (o + 9) 1 == 1)

/-- Checks of a ring record (R58, R170). -/
def ringFails (x : ImgSrc) (h : ImgHead) (i : Nat) : List Fail :=
  let o := h.ringAt i
  let r := x.ringRec o
  ({ off := o, reason := 0 } : Fail).all
    (reasonIf (r.1 == 0 || r.1 % 65536 != 0 || decide (3 < r.2.1) || decide (1 < x.get (o + 9) 1) || x.get (o + 10) 6 != 0) 0x10)

/-- A patch: graph, node, argument, ring. -/
structure Patch where
  graph : Nat
  node : Nat
  arg : Nat
  ring : Nat
  deriving DecidableEq, Repr

def patchRec (x : ImgSrc) (o : Nat) : Patch where
  graph := x.get o 2
  node := x.get (o + 2) 2
  arg := x.get (o + 4) 1
  ring := x.get (o + 8) 4

/-- Checks of a patch: it names an ARM node, an argument and a ring (R170). -/
def patchFails (x : ImgSrc) (h : ImgHead) (i : Nat) : List Fail :=
  let o := h.patchAt i
  let p := x.patchRec o
  let g := x.graphRec (h.graphAt p.graph)
  ({ off := o, reason := 0 } : Fail).all
    (reasonIf (decide (h.graphs ≤ p.graph) || recField (g.nodes.getD p.node []) 0 1 != 1 || decide (3 < p.arg) ||
      decide (h.rings ≤ p.ring) || x.get (o + 5) 3 != 0 || x.get (o + 12) 4 != 0) 0x0F)

/-! ## Data records (R58, R113, R170, R407) -/

/-- A data record: target kind, index, section, length, offset in the target, and the image offset of its bytes. -/
structure DataRec where
  kind : Nat
  idx : Nat
  sec : Nat
  len : Nat
  off : Nat
  at_ : Nat
  deriving DecidableEq, Repr

def dataRec (x : ImgSrc) (o : Nat) : DataRec where
  kind := x.get o 1
  idx := x.get (o + 4) 4
  sec := x.get (o + 8) 4
  len := x.get (o + 12) 4
  off := x.get (o + 16) 8
  at_ := o + 24

/-- Where word `w` of a data record lies in its section: tile and byte offset (R113). -/
def tileWord (c : SecCfg) (d : DataRec) (w : Nat) : Nat × Nat :=
  if d.kind = 1 then (d.idx, d.off + 8 * w)
  else
    let b := (c.bufs[d.idx]?).getD {}
    let a := b.base + d.off + 8 * w
    let n := a / 2 ^ 18
    ((b.row + n / max 1 b.cols) * c.tileWidth + b.col + n % max 1 b.cols, a % 2 ^ 18)

/-- The data record stays in its target. -/
def dataFits (x : ImgSrc) (h : ImgHead) (d : DataRec) : Bool :=
  d.off % 8 == 0 && d.len % 8 == 0 &&
  (match d.kind with
   | 0 => decide (d.idx < h.rings) && d.sec == 0 && decide (d.off + d.len ≤ (x.ringRec (h.ringAt d.idx)).1)
   | 1 =>
     let c := x.secCfg h (h.secAt d.sec)
     decide (d.sec < h.sections) && decide (d.idx < c.tileCount) && decide (d.off + d.len ≤ 2 ^ 18)
   | 2 =>
     let b := ((x.secCfg h (h.secAt d.sec)).bufs[d.idx]?).getD {}
     decide (d.sec < h.sections) && b.valid && decide (d.off + d.len ≤ b.size)
   | _ => false)

/-- The words that a data record writes: (0, ring, offset) or (section + 1, tile, offset). -/
def dataPlaces (x : ImgSrc) (h : ImgHead) (d : DataRec) : List (Nat × Nat × Nat) :=
  (List.range (d.len / 8)).map fun w =>
    if d.kind = 0 then (0, d.idx, d.off + 8 * w)
    else
      let t := tileWord (x.secCfg h (h.secAt d.sec)) d w
      (d.sec + 1, t.1, t.2)

/-- Checks of the data records, each against those before it (R58). -/
def dataFails (x : ImgSrc) (h : ImgHead) : List Nat → List (Nat × Nat × Nat) → List Fail
  | [], _ => []
  | o :: rest, seen =>
    let d := x.dataRec o
    let places := if x.dataFits h d then x.dataPlaces h d else []
    ({ off := o, reason := 0, sec := d.sec % 65536, kind := 7 } : Fail).all
      (reasonIf (!x.dataFits h d || x.get (o + 1) 3 != 0 || places.any seen.contains) 0x16) ++ dataFails x h rest (seen ++ places)

/-! ## The image as a whole -/

/-- Every failed check of an image that a queue of a privilege loads, its signature aside (R173). -/
def fails (x : ImgSrc) (size : Nat) (priv : Bool) : List Fail :=
  let h := x.head
  let top := fun (r : Nat) => ({ off := 0, reason := r } : Fail)
  if !x.headGood h size then [top 0x01]
  else if !x.rangesGood h then [top 0x01]
  else
    (reasonIf (h.privFlag && !priv) 0x15).map top ++
    ((List.range h.sections).map fun i => x.secFails h priv i).flatten ++
    ((List.range h.graphs).map fun i => x.graphFails h i).flatten ++
    ((List.range h.rings).map fun i => x.ringFails h i).flatten ++
    ((List.range h.patches).map fun i => x.patchFails h i).flatten ++
    x.dataFails h (x.dataAt h.limit h.data h.dataOff) []

/-- A word of a data record. -/
def dataWord (x : ImgSrc) (d : DataRec) (w : Nat) : Word := BitVec.ofNat 64 (x.get (d.at_ + 8 * w) 8)

/-- Tiles of section `i` as its data records set them, with the words written full (R407). -/
def tilesOf (x : ImgSrc) (h : ImgHead) (i : Nat) (c : SecCfg) : Assoc Tile :=
  ((x.dataAt h.limit h.data h.dataOff).map x.dataRec).foldl (fun m d =>
    if d.kind = 0 ∨ d.sec ≠ i then m
    else (List.range (d.len / 8)).foldl (fun m w =>
      let t := tileWord c d w
      let k : Tile := Assoc.getD m t.1 {}
      Assoc.set m t.1 { k with words := Assoc.put k.words (t.2 / 8) (x.dataWord d w) 0, full := Assoc.set k.full (t.2 / 8) () }) m) []

/-- The sections of an accepted image. -/
def sections (x : ImgSrc) (h : ImgHead) : List SecCfg :=
  (List.range h.sections).map fun i => let c := x.secCfg h (h.secAt i); { c with tiles := x.tilesOf h i c }

/-- The graphs of an accepted image, with the bases of its regions patched in (R170). -/
def graphs (x : ImgSrc) (h : ImgHead) (bases : List Nat) : List Graph :=
  let gs := (List.range h.graphs).map fun i => x.graphRec (h.graphAt i)
  ((List.range h.patches).map fun i => x.patchRec (h.patchAt i)).foldl (fun gs p =>
    listUpd gs p.graph fun g =>
      { g with args := listUpd g.args (recField (g.nodes.getD p.node []) 12 4 / 32) fun b =>
          listUpd b p.arg fun v => v + BitVec.ofNat 64 (bases.getD p.ring 0) }) gs

end ImgSrc

end Sys2Proof.Machine
end

