-- ==== Sys2Proof/Machine/Loader.lean ====
section
/-! DEFINITION. The loader: signatures, the placement of regions, what it writes (R58, R173, R313, R360-R362, R398, R399,
R407, R415). Where regions go is the loader's choice, which the LOAD step brings along. -/

namespace Sys2Proof.Machine

namespace State

/-! ## Mapping (R360-R362, R415) -/

/-- One table word of a plan: a word of the translation store of a quarter, the stores holding the same contents. Only words that
held nothing are written. The management path carries no page tables (R94), so a plan puts none into memory. -/
def planWord (s : State) (w : Nat × Nat × Word) : Option State :=
  if w.1 < 4 ∧ w.2.1 < 2 ^ 20 ∧ (s.store.getD w.2.1 0 = 0 ∨ s.store.getD w.2.1 0 = w.2.2) then some { s with store := s.store.put w.2.1 w.2.2 0 }
  else none

/-- All table words of a plan. -/
def planWords : List (Nat × Nat × Word) → State → Option State
  | [], s => some s
  | w :: ws, s => match s.planWord w with
    | some t => planWords ws t
    | none => none

/-- The table root of a plan, for a tenant that has none. -/
def planRoot (s : State) (tenant : Nat) : Option Word → Option State
  | none => some s
  | some r =>
    let n := 0x3000 + tenant % 1024
    if (s.reg n).getLsbD 0 then none else some (s.setReg n (r &&& BitVec.ofNat 64 (2 ^ 48 - 2 ^ 11 + 0x81)))

/-- Nothing of a range is mapped: `n` steps of 64 KiB from `va` on. -/
def unmapped (s : State) (tenant va n : Nat) : Bool :=
  (List.range n).all fun i => match s.walk tenant (va + 65536 * i) with
    | .page _ => false
    | _ => true

/-- The pages of a range from `va` up to `hi`, at most `n`. -/
def pagesOf (s : State) (tenant hi : Nat) : Nat → Nat → Option (List Page)
  | 0, va => if hi ≤ va then some [] else none
  | n + 1, va =>
    if hi ≤ va then some []
    else match s.walk tenant va with
      | .page p => (pagesOf s tenant hi n (p.va + p.size)).map fun l => p :: l
      | _ => none

/-- The physical memory of a page is what a region of a class asks for (R58, R415): whole in one ring of the class, or in
the deep tier; class 3 leaves the choice to the loader. -/
def pageInClass (s : State) (cls : Nat) (p : Page) : Bool :=
  match targetOf p.pa with
  | .deep => (cls == 2 || cls == 3) && targetOf (p.pa + p.size - 1) == .deep
  | .sweep =>
    ringOf p.pa == ringOf (p.pa + p.size - 1) && !s.paLost p.pa &&
      (cls == 3 || (cls == 0 && s.ringQuick (ringOf p.pa)) || (cls == 1 && !s.ringQuick (ringOf p.pa)))
  | _ => false

/-- A page as a region's pages must be (R415). -/
def pageGood (s : State) (secure sealed_ : Bool) (cls base : Nat) (p : Page) : Bool :=
  p.read && p.write && (p.secure == secure) && (p.sealed == sealed_) && decide (base ≤ p.va) && decide (p.va % p.size = 0) &&
    decide (p.pa % p.size = 0) && s.pageInClass cls p

/-- No two ranges meet. -/
def disjoint (a b : List (Nat × Nat)) : Bool := a.all fun p => b.all fun q => decide (p.1 + p.2 ≤ q.1) || decide (q.1 + q.2 ≤ p.1)

/-- Ranges of one list that keep apart. -/
def allApart : List (Nat × Nat) → Bool
  | [] => true
  | p :: ps => disjoint [p] ps && allApart ps

/-- Images that are accepted, or whose regions are being filled. -/
def imagesHeld (s : State) : List Image := s.host.images.vals ++ s.host.loads.vals.map Prod.fst

/-- Physical memory that they hold. -/
def regionsHeld (s : State) : List (Nat × Nat) := (s.imagesHeld.map Image.regions).flatten

end State

/-- A region with where it lies: size, class, seal, base and pages. -/
structure Region where
  size : Nat
  cls : Nat
  sealed : Bool
  base : Nat
  pages : List Page
  deriving DecidableEq, Repr

namespace State

/-- The regions of an image mapped as a plan says; none where the plan breaks R415 or a class cannot be met. -/
def mapRegions (s : State) (tenant : Nat) (secure : Bool) (rings : List (Nat × Nat × Bool)) (plan : LoadPlan) : Option (State × List Region) :=
  let want := rings.zip plan.bases
  let clear := want.all fun p => p.2 % 65536 == 0 && decide (p.2 + p.1.1 ≤ 2 ^ 56) && s.unmapped tenant p.2 (p.1.1 / 65536)
  if plan.bases.length ≠ rings.length ∨ !clear ∨ !allApart (want.map fun p => (p.2, p.1.1)) then none
  else match s.planRoot tenant plan.root with
    | none => none
    | some t =>
      match planWords plan.tables t with
      | none => none
      | some t =>
        let regions := want.map fun p =>
          (t.pagesOf tenant (p.2 + p.1.1) (p.1.1 / 65536) p.2).map fun l =>
            ({ size := p.1.1, cls := p.1.2.1, sealed := p.1.2.2, base := p.2, pages := l } : Region)
        let good := regions.all fun r => match r with
          | some g => g.pages.all (t.pageGood secure g.sealed g.cls g.base)
          | none => false
        let l := regions.filterMap id
        let phys := (l.map fun g => g.pages.map fun p => (p.pa, p.size)).flatten
        if good && allApart phys && disjoint phys s.regionsHeld then some (t, l) else none

/-! ## Contents (R94, R313) -/

/-- The words of a region's data records that lie in a range of its addresses: offset in the range, word (R58). -/
def dataWords (x : ImgSrc) (h : ImgHead) (idx base va len : Nat) : List (Nat × Word) :=
  let recs := ((x.dataAt h.limit h.data h.dataOff).map x.dataRec).filter fun d => d.kind == 0 && d.idx == idx
  (recs.map fun d =>
    let first := (va - (base + d.off) + 7) / 8
    let count := min (d.len / 8) ((va + len + 7 - (base + d.off)) / 8) - first
    (List.range count).map fun i => (base + d.off + 8 * (first + i) - va, x.dataWord d (first + i))).flatten

/-- The regions of an image are filled over the management path: the words of its data records, and zero everywhere else (R94,
R313). -/
def fillRegions (s : State) (tenant : Nat) (secure : Bool) (x : ImgSrc) (h : ImgHead) (l : List Region) : State × Nat :=
  let man := s.nextId
  (((List.range l.length).zip l).foldl (fun (t : State) p =>
    let g := p.2
    t.manItem man { u := 0, e := 0, slot := 0, wave := false, kind := .mput g.size, va := g.base
                    words := dataWords x h p.1 g.base g.base g.size, tenant := tenant, secure := secure }) s.bumpId, man)

/-! ## The check (R173, R399) -/

/-- The signature as the loader judges it: a block that is there must be well formed and verify; one that LPOL requires
must be there (R399). -/
def sigFails (s : State) (x : ImgSrc) (size : Nat) (priv : Bool) : List Fail :=
  let h := x.head
  let required := (s.reg 0x0500).getLsbD (if priv then 1 else 0)
  if !x.headGood h size then []
  else if h.signedFlag then
    (if (signedBy s (x.bytes 0 size)).isSome then [] else [{ off := h.limit, reason := 0x02 }])
  else if required then [{ off := 0, reason := 0x02 }]
  else []

/-- Every failed check of an image (R173). -/
def loadFails (s : State) (x : ImgSrc) (size : Nat) (priv : Bool) : List Fail := x.fails size priv ++ s.sigFails x size priv

/-- Bytes of the sequencer store that a graph takes: its nodes and its argument blocks (R77). -/
def graphBytes (g : Graph) : Nat := 32 * g.nodes.length + 32 * g.args.length

/-- The first graph of an image that the sequencer store of its quarter has no room for, 64 MiB a quarter (R13). -/
def storeFull (s : State) (gs : List Graph) : Option Nat :=
  let held := (s.imagesHeld.map Image.graphs).flatten
  let used := fun (i : Nat) => ((held ++ gs.take (i + 1)).filter fun g => g.quarter == ((gs[i]?).map Graph.quarter).getD 0).foldl
    (fun n g => n + graphBytes g) 0
  (List.range gs.length).find? fun i => decide (2 ^ 26 < used i)

/-- The first ring that cannot be placed as a plan says. -/
def ringUnmet (s : State) (tenant : Nat) (secure : Bool) (rings : List (Nat × Nat × Bool)) (plan : LoadPlan) : Nat :=
  ((List.range rings.length).find? fun i =>
    (s.mapRegions tenant secure (rings.take (i + 1)) { plan with bases := plan.bases.take (i + 1) }).isNone).getD 0

/-- An image checked, and its regions mapped and being filled: the state, the image and the request that fills them, or what
fails.  For a graph that finds no
room in the sequencer store the manual gives no reason code: it is left open (R13, log 58). -/
def loadImage (s : State) (q : Nat) (x : ImgSrc) (size : Nat) (plan : LoadPlan) : Except Fail (State × Image × Nat) :=
  let y := s.queue q
  match worstFail (s.loadFails x size y.priv) with
  | some f => .error f
  | none =>
    let h := x.head
    let rings := (List.range h.rings).map fun i => x.ringRec (h.ringAt i)
    match s.storeFull (x.graphs h []), s.mapRegions y.tenant y.secure rings plan with
    | some i, _ => .error { off := h.graphAt i, reason := (Config.reasonCode 5).toNat }
    | none, none => .error { off := h.ringAt (s.ringUnmet y.tenant y.secure rings plan), reason := 0x10 }
    | none, some (t, l) =>
      let r := t.fillRegions y.tenant y.secure x h l
      .ok (r.1, { queue := q, secs := x.sections h, graphs := x.graphs h (l.map Region.base)
                  regions := (l.map fun g => g.pages.map fun p => (p.pa, p.size)).flatten }, r.2)

end State

end Sys2Proof.Machine
end

