-- ==== Sys2Proof/Machine/Queues.lean ====
section
/-! DEFINITION. Host queues and the commands of the host (R323, R326-R336, R357, R372, R390, R401-R403). -/

namespace Sys2Proof.Machine

/-- Bytes `lo` up to `hi` of a record are zero. -/
def zeroBytes (b : List Byte) (lo hi : Nat) : Bool := recField b lo (hi - lo) == 0

/-- The size of a completion ring: a power of two, 16-65,536 (R328). -/
def ringSizeGood (n : Nat) : Bool := (List.range 13).any fun k => n == 16 * 2 ^ k

/-- A record's fields are in their ranges and its zero fields are zero (R328). -/
def recGood (b : List Byte) : Bool :=
  let f := recField b
  decide (f 1 1 < 2) && f 2 2 == 0 &&
  match f 0 1 with
  | 1 =>
    decide (f 8 2 < 1024) && decide (f 10 1 < 64) && decide (1 ≤ f 11 1) && decide (f 11 1 ≤ 64) && zeroBytes b 12 16 &&
      ringSizeGood (f 24 4) && zeroBytes b 28 32 && zeroBytes b 44 48 && zeroBytes b 60 64
  | 2 => decide (f 24 2 < 1024) && zeroBytes b 26 64
  | 3 => decide (f 8 2 < 1024) && decide (f 10 1 < 8) && zeroBytes b 11 64
  | 4 => decide (1 ≤ f 8 1) && decide (f 8 1 ≤ 24) && zeroBytes b 9 16
  | 5 => decide (f 8 1 < 2) && zeroBytes b 9 12 && decide (f 12 2 < 4096) && decide (f 14 1 < 64) && zeroBytes b 15 16 && zeroBytes b 24 64
  | 6 => decide (f 8 1 < 2) && zeroBytes b 9 12 && decide (f 12 2 < 4096) && decide (f 14 1 < 64) && zeroBytes b 15 16 && zeroBytes b 24 64
  | 7 => decide (f 8 1 < 4) && zeroBytes b 9 12 && decide (f 12 2 < 4096) && zeroBytes b 18 64
  | 8 => zeroBytes b 8 64
  | _ => false

/-- The commands that only the management view takes (R328). -/
def mgmtOnly (c : Nat) : Bool := c == 1 || c == 8

namespace State

/-! ## Answers (R327, R330) -/

/-- The reason of a refusal that has only a name. -/
def named (n : Nat) : Nat := (Config.reasonCode n).toNat

/-- A command of queue `q` is over: its completion record is written, and returns a credit. -/
def reply (s : State) (q : Nat) (b : List Byte) (status reason value : Nat) (detail : List Byte) : State :=
  let x := s.queue q
  let s := s.setQueue q { x with used := x.used - 1 }
  (s.putRecord q .comp (compRecord (recCmd b) status reason (recTag b) value detail)).markSince

/-- The first command that was taken from a queue has been run. -/
def untake (s : State) (q : Nat) : State :=
  { s with host := { s.host with taken := listDel s.host.taken (s.host.taken.findIdx fun t => t.1 == q) } }

/-- The first command that was taken from a queue is over. -/
def answer (s : State) (q : Nat) (b : List Byte) (status reason value : Nat) (detail : List Byte) : State :=
  (s.untake q).reply q b status reason value detail

/-- A command refused for a reason that has only a name (R328). -/
def refuse (s : State) (q : Nat) (b : List Byte) (reason : Nat) : State := s.answer q b 2 (named reason) 0 []

end State

/-! ## Arrival and arbitration (R326, R327, R332, R402) -/

/-- A record put behind those of its queue: one of the management view before those that came in the same cycle through the
user view (R326, R357). -/
def Queue.store (x : Queue) (now : Nat) (rec : List Byte) (mgmt : Bool) : Queue :=
  let k := if x.userNow.1 = now then x.userNow.2 else 0
  if mgmt then
    let n := x.recs.length - k
    { x with recs := x.recs.take n ++ (rec, true) :: x.recs.drop n }
  else { x with recs := x.recs ++ [(rec, false)], userNow := (now, k + 1) }

/-- QUEUE_RECORD_ARRIVAL: a posted write reaches the window of queue `q`; from 131,072 on, the window of the user view
(R323, R326).  An OPEN waits at its closed queue. -/
def execQueueRecordArrival (q : Nat) (rec : List Byte) (s : State) : Host.Outcome State Fault Refusal :=
  let mgmt := decide (q < 131072)
  let n := q % 131072
  let x := s.queue n
  if !s.boot.powered || !s.linkUp || decide (262144 ≤ q) then .next s
  else if rec.length ≠ 64 ∨ s.boot.code ≠ 4 then .next (s.countUp 0x0502)
  else match x.st with
    | .opened =>
      if x.credit ≤ x.used ∨ 16384 ≤ s.stored then
        .next (s.putRecord n .comp (compRecord (recCmd rec) 4 0 (recTag rec) 0 []))
      else .next (s.setQueue n { x.store s.clk.cyc rec mgmt with used := x.used + 1 }).markSince
    | .closed =>
      if recCmd rec = 1 ∧ x.recs.isEmpty then .next (s.setQueue n { x with recs := [(rec, mgmt)] }) else .next (s.countUp 0x0502)
    | .closing => .next (s.countUp 0x0502)

/-- QUEUE_ARBITER_TAKE: at most one record in 8 cycles, whatever commands are still to be run; one with an unknown command, with a
wrong field or through the wrong view is refused at once (R328, R332). -/
def execQueueArbiterTake (s : State) : Host.Outcome State Fault Refusal :=
  let s := s.markSince
  if s.clk.cyc < s.host.nextTake then .next s
  else match s.pickQueue with
    | none => .next s
    | some (q, h) =>
      let s := { s with host := { h with nextTake := s.clk.cyc + 8 } }
      let x := s.queue q
      match x.recs with
      | [] => .next s
      | (b, mgmt) :: rest =>
        let s := s.setQueue q { x with recs := rest, since := none, aged := 0 }
        if !recGood b || (mgmtOnly (recCmd b) && !mgmt) || recCmd b == 1 then .next (s.reply q b 2 (State.named 1) 0 [])
        else .next { s with host := { s.host with taken := s.host.taken ++ [(q, b, mgmt)] } }.markSince

/-- The command of a kind that is run next: one of the kind is the first that was taken from its queue and has not been run (R326);
of LOADs one that can go on. -/
def State.takenCmd (s : State) (c : Nat) : Option (Nat × List Byte) :=
  let first := fun (l : List (Nat × List Byte × Bool)) (t : Nat × List Byte × Bool) => if l.any fun x => x.1 == t.1 then l else l ++ [t]
  let can := fun (t : Nat × List Byte × Bool) => recCmd t.2.1 == c && match s.host.loads.get? t.1 with
    | some (_, man) => !s.unstamped man || s.manFailed man
    | none => true
  ((s.host.taken.foldl first []).find? can).map fun t => (t.1, t.2.1)

/-! ## OPEN and CLOSE (R328, R329, R401) -/

/-- A closed queue at which an OPEN waits. -/
def State.openWaits (s : State) : Option (Nat × List Byte × Bool) :=
  match s.host.queues.find? fun p => p.2.st == .closed && !p.2.recs.isEmpty with
  | some (q, x) => (x.recs.head?).map fun r => (q, r.1, r.2)
  | none => none

/-- Queues of a tenant that are not closed. -/
def State.queuesOf (s : State) (t : Nat) : List Queue := (s.host.queues.vals.filter fun x => x.st != .closed && x.tenant == t)

/-- OPEN: of the closed queues at which one waits, the lowest-numbered (R328, R329).  A refused OPEN leaves its record in
the first place of the completion ring it names, whatever size it gives for it. -/
def execHostOpen (s : State) : Host.Outcome State Fault Refusal :=
  match s.openWaits with
  | none => .next s
  | some (q, b, mgmt) =>
    let f := recField b
    let comp : Ring := { base := f 16 8, size := f 24 4 }
    let t := f 8 2
    let secure := f 10 1 / 8 % 2 == 1
    let refused := fun (n : Nat) =>
      (s.setQueue q { comp := { comp with size := max 1 comp.size } }).putRecord q .comp (compRecord 1 2 (State.named n) (recTag b) 0 [])
    if !recGood b || !mgmt then .next (refused 1)
    else if (s.queuesOf t).any fun x => x.secure != secure then .next (refused 2)
    else
      let x : Queue := { st := .opened, tenant := t, prio := f 10 1 % 8, secure := secure, priv := f 10 1 / 16 % 2 == 1
                         debug := f 10 1 / 32 % 2 == 1, credit := f 11 1, comp := comp
                         log := { base := f 32 8, size := f 40 4 }, fault := { base := f 48 8, size := f 56 4 } }
      let s1 := if (s.queuesOf t).isEmpty then { s with keys := s.keys.set t s.keyNext, keyNext := s.keyNext + 1 } else s
      .next ((s1.setQueue q x).putRecord q .comp (compRecord 1 0 0 (recTag b) 0 []))

/-- CLOSE: the queue is closing; its record is answered when it is closed (R329, R330). -/
def execHostClose (s : State) : Host.Outcome State Fault Refusal :=
  match s.takenCmd 8 with
  | none => .next s
  | some (q, b) =>
    let x := s.queue q
    if x.close.isSome then .next (s.refuse q b 1)
    else
      .next ((s.setQueue q { x with st := .closing, close := some b }).untake q).markSince

/-- QUEUE_CLOSED: every job the queue submitted has completed and every record has been written (R329, R401). -/
def execQueueClosed (q : Nat) (s : State) : Host.Outcome State Fault Refusal :=
  let x := s.queue q
  match x.close with
  | none => .next s
  | some b =>
    let busy := s.host.taken.any fun t => t.1 == q
    let written := x.comp.waiting.isEmpty && x.log.waiting.isEmpty && x.fault.waiting.isEmpty && x.comp.room && s.linkUp
    if x.st != .closing || !x.jobs.isEmpty || !x.recs.isEmpty || x.wait.isSome || busy || !written then .next s
    else
      let s := s.reply q b 0 0 0 []
      let y := s.queue q
      let s := s.setQueue q { comp := y.comp, log := y.log, fault := y.fault }
      let s := { s with host := { s.host with images := s.host.images.filter fun p => p.2.queue != q } }
      .next (if (s.queuesOf x.tenant).isEmpty then { s with keys := s.keys.erase x.tenant } else s)

/-- What the host reads of queue `q` in the ring aperture, at 0x8_0000 + 16 q: the read indices of its completion ring, log ring and
fault queue, and zero (R388). -/
def State.ringRead (s : State) (q : Nat) : List Byte :=
  let x := s.queue q
  if s.boot.code = 5 ∨ 131072 ≤ q then bytesOfNat 16 0
  else bytesOfNat 4 x.comp.rd ++ bytesOfNat 4 x.log.rd ++ bytesOfNat 4 x.fault.rd ++ bytesOfNat 4 0

/-- RING_READ_INDEX_WRITE: ring 0 completion, 1 log, 2 fault queue (R329, R388); in recovery the aperture does not answer (R402). -/
def execRingReadIndexWrite (q ring idx : Nat) (s : State) : Host.Outcome State Fault Refusal :=
  if !s.boot.powered || !s.linkUp || s.boot.code == 5 || decide (131072 ≤ q) || decide (3 ≤ ring) then .next s
  else
    let w : RingSel := match ring with
      | 0 => .comp
      | 1 => .log
      | _ => .fault
    let x := s.queue q
    .next (((s.setQueue q (x.setRing w { x.ring w with rd := idx % 2 ^ 32 })).flushRing q w).markSince)

/-! ## LOAD, PHASE, RUN (R329, R331, R335) -/

/-- The number of an image: handles are a queue's own. -/
def imageKey (q handle : Nat) : Nat := 1024 * q + handle

/-- An active job of the queue's tenant uses the handle (R328). -/
def State.imageUsed (s : State) (q handle : Nat) : Bool :=
  s.jobs.any fun p => p.2.active && p.2.tenant == (s.queue q).tenant && p.2.image % 1024 == handle

/-- A LOAD whose image has been checked is over once the items that fill its regions have their stamps: whatever is sent from
then on comes after them (R94, R129, R313). Where a ring is withdrawn while it is filled, the image has no place in its class and is
refused (R384; DESIGN CHOICE, log 45). -/
def State.endLoad (s : State) (q : Nat) (b : List Byte) (im : Image) (man : Nat) : State :=
  let handle := recField b 24 2
  let done := { s with host := { s.host with loads := s.host.loads.erase q } }
  if s.manFailed man then (done.manOver man).answer q b 2 0x10 handle ({ off := 0, reason := 0x10 } : Fail).bytes
  else if s.unstamped man then { s with host := { s.host with loads := s.host.loads.set q (im, man) } }
  else { done with host := { done.host with images := s.host.images.set (imageKey q handle) im } }.answer q b 0 0 handle []

/-- LOAD (R329): the image is read from host memory, which waits for the link (R390), and checked, and its regions are filled over the
management path. -/
def execHostLoad (plan : LoadPlan) (s : State) : Host.Outcome State Fault Refusal :=
  match s.takenCmd 2 with
  | none => .next s
  | some (q, b) =>
    let handle := recField b 24 2
    let k := imageKey q handle
    match s.host.loads.get? q with
    | some (im, man) => .next (s.endLoad q b im man)
    | none =>
    if !s.linkUp then .next s
    else if s.imageUsed q handle then .next (s.refuse q b 4)
    else
      let x : ImgSrc := { mem := s.mem, base := State.hostAddr (recField b 8 8) }
      match s.loadImage q x (recField b 16 8) plan with
      | .error f =>
        let s := { s with host := { s.host with images := s.host.images.erase k } }
        .next (s.answer q b 2 f.reason handle f.bytes)
      | .ok (t, im, man) => .next (t.endLoad q b im man)

/-- PHASE (R329). -/
def execHostPhase (s : State) : Host.Outcome State Fault Refusal :=
  match s.takenCmd 4 with
  | none => .next s
  | some (q, b) =>
    let x := s.queue q
    let gs := (List.range (recField b 8 1)).map fun i => recField b (16 + 2 * i) 2
    .next ((s.setQueue q { x with pending := x.pending ++ [gs] }).answer q b 0 0 0 [])

/-- What an entry of the job table held before is forgotten. -/
def State.clearEntry (s : State) (j : Nat) : State :=
  { s with launches := s.launches.filter fun p => p.2.job != j
           snaps := s.snaps.filter fun k => k.job != j }

/-- RUN: the pending job takes an entry of the job table that no active job has; which one is open.  While the table is
full the record waits at the head of its queue (R329, R335, R336). -/
def execHostRun (s : State) : Host.Outcome State Fault Refusal :=
  match s.takenCmd 3 with
  | none => .next s
  | some (q, b) =>
    let x := s.queue q
    let k := imageKey q (recField b 8 2)
    let prio := recField b 10 1
    match s.host.images.get? k with
    | none => .next ((s.setQueue q { x with pending := [] }).refuse q b 1)
    | some im =>
      let phases := if x.pending.isEmpty then [List.range im.graphs.length] else x.pending
      if x.prio < prio || phases.any fun p => p.any fun g => decide (im.graphs.length ≤ g) then
        .next ((s.setQueue q { x with pending := [] }).refuse q b 1)
      else
        let spare := (List.range 4096).filter fun n => match s.job n with
          | some j => !j.active
          | none => true
        match spare[Config.free s.freeCtr % spare.length]? with
        | none => .next s
        | some n =>
          let j : Job := { tenant := x.tenant, secure := x.secure, priv := x.priv, debug := x.debug, queue := q, hostTag := recTag b
                           prio := prio, image := k, phases := phases, order := s.nextId }
          let s := { (s.clearEntry n).bumpId with jobs := s.jobs.set n j, freeCtr := s.freeCtr + 1 }
          let s := s.setQueue q { x with pending := [], jobs := x.jobs ++ [n] }
          .next (s.answer q b 0 0 n []).startGraphs

/-! ## WAIT, SIGNAL, CANCEL (R328-R330, R336) -/

/-- The job that a record names, where it is one of the queue's tenant. -/
def State.recJob (s : State) (q : Nat) (b : List Byte) : Option Job :=
  match s.job (recField b 12 2) with
  | some j => if j.tenant = (s.queue q).tenant then some j else none
  | none => none

/-- The condition of a WAIT holds (R329). -/
def waitDone (j : Job) (b : List Byte) : Bool :=
  if recField b 8 1 = 0 then !j.active else decide (recField b 16 8 ≤ (j.counters.getD (recField b 14 1) 0).toNat)

/-- WAIT holds its queue (R329). -/
def execHostWait (s : State) : Host.Outcome State Fault Refusal :=
  match s.takenCmd 5 with
  | none => .next s
  | some (q, b) =>
    match s.recJob q b with
    | none => .next (s.refuse q b 3)
    | some _ =>
      .next ((s.setQueue q { s.queue q with wait := some b }).untake q).markSince

/-- QUEUE_WAIT_RELEASE (R329): the value is the job number, or the counter's value. -/
def execQueueWaitRelease (q : Nat) (s : State) : Host.Outcome State Fault Refusal :=
  match (s.queue q).wait with
  | none => .next s
  | some b =>
    match s.job (recField b 12 2) with
    | none => .next s
    | some j =>
      if waitDone j b then
        let v := if recField b 8 1 = 0 then recField b 12 2 else (j.counters.getD (recField b 14 1) 0).toNat
        .next ((s.setQueue q { s.queue q with wait := none }).reply q b 0 0 v [])
      else .next s

/-- SIGNAL (R77, R329): the value is the counter's. -/
def execHostSignal (s : State) : Host.Outcome State Fault Refusal :=
  match s.takenCmd 6 with
  | none => .next s
  | some (q, b) =>
    match s.recJob q b with
    | none => .next (s.refuse q b 3)
    | some _ =>
      let n := recField b 12 2
      let c := recField b 14 1
      let s := if recField b 8 1 = 0 then s.addCounter n c (BitVec.ofNat 64 (recField b 16 8)) else s
      let v := match s.job n with
        | some j => (j.counters.getD c 0).toNat
        | none => 0
      .next (s.answer q b 0 0 v [])

/-- CANCEL: the value is the outcome in the codes of CANC; the cycle in which it takes effect is noted (R329, R336, R354). -/
def execHostCancel (s : State) : Host.Outcome State Fault Refusal :=
  match s.takenCmd 7 with
  | none => .next s
  | some (q, b) =>
    let n := recField b 12 2
    let other := match s.job n with
      | some j => j.tenant != (s.queue q).tenant
      | none => false
    if other then .next (s.refuse q b 3)
    else
      let r := s.cancelNamed n (recField b 8 1) (recField b 14 2) (recField b 16 2)
      let s := { r.1 with host := { r.1.host with cancelAt := some r.1.clk.cyc } }
      .next (s.answer q b 0 0 r.2 []).startGraphs

end Sys2Proof.Machine
end

