-- ==== Sys2Proof/Machine/Dispatch.lean ====
section
/-! DEFINITION. The meaning of every instruction and event: one arm for each row of the opcode table. -/

namespace Sys2Proof.Machine

/-- What an instruction or event does. -/
def exec (i : Instr) (s : State) : Host.Outcome State Fault Refusal :=
  match i with
  | .nop t a b => Sys2Proof.Machine.execNop t a b s
  | .mov t d a => Sys2Proof.Machine.execMov t d a s
  | .movt t d a b => Sys2Proof.Machine.execMovt t d a b s
  | .fork t d a b => Sys2Proof.Machine.execFork t d a b s
  | .sel t d a b => Sys2Proof.Machine.execSel t d a b s
  | .mrg t d a b => Sys2Proof.Machine.execMrg t d a b s
  | .split t d a b => Sys2Proof.Machine.execSplit t d a b s
  | .drop t a => Sys2Proof.Machine.execDrop t a s
  | .mark t d a b => Sys2Proof.Machine.execMark t d a b s
  | .emit t d a b => Sys2Proof.Machine.execEmit t d a b s
  | .tags t d a => Sys2Proof.Machine.execTags t d a s
  | .pset t d a b => Sys2Proof.Machine.execPset t d a b s
  | .pclr t d a b => Sys2Proof.Machine.execPclr t d a b s
  | .ctr t d a b => Sys2Proof.Machine.execCtr t d a b s
  | .sig t d a b => Sys2Proof.Machine.execSig t d a b s
  | .halt t => Sys2Proof.Machine.execHalt t s
  | .add t d a b bc => Sys2Proof.Machine.execAdd t d a b bc s
  | .sub t d a b bc => Sys2Proof.Machine.execSub t d a b bc s
  | .adds t d a b bc => Sys2Proof.Machine.execAdds t d a b bc s
  | .subs t d a b bc => Sys2Proof.Machine.execSubs t d a b bc s
  | .mul t d a b bc => Sys2Proof.Machine.execMul t d a b bc s
  | .mulh t d a b bc => Sys2Proof.Machine.execMulh t d a b bc s
  | .mulhu t d a b bc => Sys2Proof.Machine.execMulhu t d a b bc s
  | .mad t d a b bc => Sys2Proof.Machine.execMad t d a b bc s
  | .neg t d a => Sys2Proof.Machine.execNeg t d a s
  | .abs t d a => Sys2Proof.Machine.execAbs t d a s
  | .min t d a b bc => Sys2Proof.Machine.execMin t d a b bc s
  | .max t d a b bc => Sys2Proof.Machine.execMax t d a b bc s
  | .minu t d a b bc => Sys2Proof.Machine.execMinu t d a b bc s
  | .maxu t d a b bc => Sys2Proof.Machine.execMaxu t d a b bc s
  | .and t d a b bc => Sys2Proof.Machine.execAnd t d a b bc s
  | .or t d a b bc => Sys2Proof.Machine.execOr t d a b bc s
  | .xor t d a b bc => Sys2Proof.Machine.execXor t d a b bc s
  | .shl t d a b bc => Sys2Proof.Machine.execShl t d a b bc s
  | .shr t d a b bc => Sys2Proof.Machine.execShr t d a b bc s
  | .sar t d a b bc => Sys2Proof.Machine.execSar t d a b bc s
  | .rot t d a b bc => Sys2Proof.Machine.execRot t d a b bc s
  | .clz t d a => Sys2Proof.Machine.execClz t d a s
  | .popc t d a => Sys2Proof.Machine.execPopc t d a s
  | .bfx t d a b => Sys2Proof.Machine.execBfx t d a b s
  | .idx t d a b => Sys2Proof.Machine.execIdx t d a b s
  | .satn t d a b => Sys2Proof.Machine.execSatn t d a b s
  | .cmpeq t d a b bc => Sys2Proof.Machine.execCmpeq t d a b bc s
  | .cmpne t d a b bc => Sys2Proof.Machine.execCmpne t d a b bc s
  | .cmplt t d a b bc => Sys2Proof.Machine.execCmplt t d a b bc s
  | .cmple t d a b bc => Sys2Proof.Machine.execCmple t d a b bc s
  | .cmpltu t d a b bc => Sys2Proof.Machine.execCmpltu t d a b bc s
  | .cmpleu t d a b bc => Sys2Proof.Machine.execCmpleu t d a b bc s
  | .fadd t d a b bc => Sys2Proof.Machine.execFadd t d a b bc s
  | .fsub t d a b bc => Sys2Proof.Machine.execFsub t d a b bc s
  | .fmul t d a b bc => Sys2Proof.Machine.execFmul t d a b bc s
  | .ffma t d a b bc => Sys2Proof.Machine.execFfma t d a b bc s
  | .ffms t d a b bc => Sys2Proof.Machine.execFfms t d a b bc s
  | .fmin t d a b bc => Sys2Proof.Machine.execFmin t d a b bc s
  | .fmax t d a b bc => Sys2Proof.Machine.execFmax t d a b bc s
  | .fabs t d a => Sys2Proof.Machine.execFabs t d a s
  | .fneg t d a => Sys2Proof.Machine.execFneg t d a s
  | .fcls t d a => Sys2Proof.Machine.execFcls t d a s
  | .fscl t d a b bc => Sys2Proof.Machine.execFscl t d a b bc s
  | .ffrc t d a => Sys2Proof.Machine.execFfrc t d a s
  | .fcmpeq t d a b bc => Sys2Proof.Machine.execFcmpeq t d a b bc s
  | .fcmplt t d a b bc => Sys2Proof.Machine.execFcmplt t d a b bc s
  | .fcmple t d a b bc => Sys2Proof.Machine.execFcmple t d a b bc s
  | .fcmpun t d a b bc => Sys2Proof.Machine.execFcmpun t d a b bc s
  | .frcp t d a => Sys2Proof.Machine.execFrcp t d a s
  | .frsq t d a => Sys2Proof.Machine.execFrsq t d a s
  | .fsqrt t d a => Sys2Proof.Machine.execFsqrt t d a s
  | .fdiv t d a b bc => Sys2Proof.Machine.execFdiv t d a b bc s
  | .fexp2 t d a => Sys2Proof.Machine.execFexp2 t d a s
  | .flog2 t d a => Sys2Proof.Machine.execFlog2 t d a s
  | .fsin t d a => Sys2Proof.Machine.execFsin t d a s
  | .fcos t d a => Sys2Proof.Machine.execFcos t d a s
  | .ftanh t d a => Sys2Proof.Machine.execFtanh t d a s
  | .frnd t d a => Sys2Proof.Machine.execFrnd t d a s
  | .ftoi t d a b => Sys2Proof.Machine.execFtoi t d a b s
  | .itof t d a b => Sys2Proof.Machine.execItof t d a b s
  | .mac t d a wa wb => Sys2Proof.Machine.execMac t d a wa wb s
  | .macn t d a wa wb => Sys2Proof.Machine.execMacn t d a wa wb s
  | .macz t d a wa wb => Sys2Proof.Machine.execMacz t d a wa wb s
  | .wld t a b => Sys2Proof.Machine.execWld t a b s
  | .acrd t d a b sr => Sys2Proof.Machine.execAcrd t d a b sr s
  | .acclr t d => Sys2Proof.Machine.execAcclr t d s
  | .acmv t d a => Sys2Proof.Machine.execAcmv t d a s
  | .cvt t d a b sr => Sys2Proof.Machine.execCvt t d a b sr s
  | .qdec t d a b => Sys2Proof.Machine.execQdec t d a b s
  | .qenc t d a b sr => Sys2Proof.Machine.execQenc t d a b sr s
  | .mxs t d a pk => Sys2Proof.Machine.execMxs t d a pk s
  | .pack t d a b => Sys2Proof.Machine.execPack t d a b s
  | .unpk t d a b => Sys2Proof.Machine.execUnpk t d a b s
  | .shfl t d a b => Sys2Proof.Machine.execShfl t d a b s
  | .bcst t d a b => Sys2Proof.Machine.execBcst t d a b s
  | .rmax t d a => Sys2Proof.Machine.execRmax t d a s
  | .rsum t d a => Sys2Proof.Machine.execRsum t d a s
  | .rsex t d a => Sys2Proof.Machine.execRsex t d a s
  | .scale t d a b => Sys2Proof.Machine.execScale t d a b s
  | .ld t d a => Sys2Proof.Machine.execLd t d a s
  | .st t d a b => Sys2Proof.Machine.execSt t d a b s
  | .lds t d a => Sys2Proof.Machine.execLds t d a s
  | .lde t d a => Sys2Proof.Machine.execLde t d a s
  | .stf t d a b => Sys2Proof.Machine.execStf t d a b s
  | .ste t d a b => Sys2Proof.Machine.execSte t d a b s
  | .push t d a b => Sys2Proof.Machine.execPush t d a b s
  | .pop t d a => Sys2Proof.Machine.execPop t d a s
  | .amoadd t d a b => Sys2Proof.Machine.execAmoadd t d a b s
  | .amomin t d a b => Sys2Proof.Machine.execAmomin t d a b s
  | .amomax t d a b => Sys2Proof.Machine.execAmomax t d a b s
  | .amoand t d a b => Sys2Proof.Machine.execAmoand t d a b s
  | .amoor t d a b => Sys2Proof.Machine.execAmoor t d a b s
  | .amoxor t d a b => Sys2Proof.Machine.execAmoxor t d a b s
  | .amoswp t d a b => Sys2Proof.Machine.execAmoswp t d a b s
  | .amocas t d a b => Sys2Proof.Machine.execAmocas t d a b s
  | .famoadd t d a b => Sys2Proof.Machine.execFamoadd t d a b s
  | .famomin t d a b => Sys2Proof.Machine.execFamomin t d a b s
  | .famomax t d a b => Sys2Proof.Machine.execFamomax t d a b s
  | .bufq t d a => Sys2Proof.Machine.execBufq t d a s
  | .bufset t a b => Sys2Proof.Machine.execBufset t a b s
  | .fence t scope => Sys2Proof.Machine.execFence t scope s
  | .ldc t d a ef => Sys2Proof.Machine.execLdc t d a ef s
  | .stc t d a b ef => Sys2Proof.Machine.execStc t d a b ef s
  | .cinv t a b => Sys2Proof.Machine.execCinv t a b s
  | .cwb t a b => Sys2Proof.Machine.execCwb t a b s
  | .chold t a b => Sys2Proof.Machine.execChold t a b s
  | .cfree t a => Sys2Proof.Machine.execCfree t a s
  | .ldw t d a => Sys2Proof.Machine.execLdw t d a s
  | .brdRd t n a b => Sys2Proof.Machine.execBrdRd t n a b s
  | .brdFl t n a b => Sys2Proof.Machine.execBrdFl t n a b s
  | .brdRed t n a b => Sys2Proof.Machine.execBrdRed t n a b s
  | .brdUpd t n a b => Sys2Proof.Machine.execBrdUpd t n a b s
  | .brdGat t n a b => Sys2Proof.Machine.execBrdGat t n a b s
  | .brdSca t n a b => Sys2Proof.Machine.execBrdSca t n a b s
  | .brdLut t n a b => Sys2Proof.Machine.execBrdLut t n a b s
  | .tblb t n a b => Sys2Proof.Machine.execTblb t n a b s
  | .ridq t n a => Sys2Proof.Machine.execRidq t n a s
  | .rcan t n a => Sys2Proof.Machine.execRcan t n a s
  | .claim t d => Sys2Proof.Machine.execClaim t d s
  | .rlse t a => Sys2Proof.Machine.execRlse t a s
  | .slq t d a => Sys2Proof.Machine.execSlq t d a s
  | .cpy t n a b => Sys2Proof.Machine.execCpy t n a b s
  | .coll t n a b => Sys2Proof.Machine.execColl t n a b s
  | .port t n a => Sys2Proof.Machine.execPort t n a s
  | .wrem t n a b full => Sys2Proof.Machine.execWrem t n a b full s
  | .sndm t n a b => Sys2Proof.Machine.execSndm t n a b s
  | .drn t n a => Sys2Proof.Machine.execDrn t n a s
  | .cnti t => Sys2Proof.Machine.execCnti t s
  | .ori2 t d a stg nfm => Sys2Proof.Machine.execOri2 t d a stg nfm s
  | .ori2s t d a stg nfm => Sys2Proof.Machine.execOri2s t d a stg nfm s
  | .ori3 t d a stg nfm => Sys2Proof.Machine.execOri3 t d a stg nfm s
  | .ori3s t d a stg nfm => Sys2Proof.Machine.execOri3s t d a stg nfm s
  | .incr t d a stg nfm => Sys2Proof.Machine.execIncr t d a stg nfm s
  | .incrs t d a stg nfm => Sys2Proof.Machine.execIncrs t d a stg nfm s
  | .insp t d a stg nfm => Sys2Proof.Machine.execInsp t d a stg nfm s
  | .insps t d a stg nfm => Sys2Proof.Machine.execInsps t d a stg nfm s
  | .segx t d a stg nfm => Sys2Proof.Machine.execSegx t d a stg nfm s
  | .segxs t d a stg nfm => Sys2Proof.Machine.execSegxs t d a stg nfm s
  | .band t d a b => Sys2Proof.Machine.execBand t d a b s
  | .bpos t d a b => Sys2Proof.Machine.execBpos t d a b s
  | .ccmp t d a b => Sys2Proof.Machine.execCcmp t d a b s
  | .cmrg t d a b => Sys2Proof.Machine.execCmrg t d a b s
  | .cset t d a b => Sys2Proof.Machine.execCset t d a b s
  | .cget t d a b => Sys2Proof.Machine.execCget t d a b s
  | .rte t d a b => Sys2Proof.Machine.execRte t d a b s
  | .trap t a => Sys2Proof.Machine.execTrap t a s
  | .brk t => Sys2Proof.Machine.execBrk t s
  | .csrr t d a => Sys2Proof.Machine.execCsrr t d a s
  | .csrw t a b => Sys2Proof.Machine.execCsrw t a b s
  | .frz t d a b => Sys2Proof.Machine.execFrz t d a b s
  | .thaw t d a b => Sys2Proof.Machine.execThaw t d a b s
  | .snap t d a => Sys2Proof.Machine.execSnap t d a s
  | .tlbi t d a b => Sys2Proof.Machine.execTlbi t d a b s
  | .cfgw t d a b => Sys2Proof.Machine.execCfgw t d a b s
  | .canc t d a => Sys2Proof.Machine.execCanc t d a s
  | .perf t d a => Sys2Proof.Machine.execPerf t d a s
  | .time t d a => Sys2Proof.Machine.execTime t d a s
  | .idle t a => Sys2Proof.Machine.execIdle t a s
  | .attn t a => Sys2Proof.Machine.execAttn t a s
  | .log t a b => Sys2Proof.Machine.execLog t a b s
  | .peekContinueIdleWake u e => Sys2Proof.Machine.execPeekContinueIdleWake u e s
  | .breakpointResume u e => Sys2Proof.Machine.execBreakpointResume u e s
  | .queueRecordArrival q rec => Sys2Proof.Machine.execQueueRecordArrival q rec s
  | .queueArbiterTake => Sys2Proof.Machine.execQueueArbiterTake s
  | .hostOpen => Sys2Proof.Machine.execHostOpen s
  | .hostLoad plan => Sys2Proof.Machine.execHostLoad plan s
  | .hostPhase => Sys2Proof.Machine.execHostPhase s
  | .hostRun => Sys2Proof.Machine.execHostRun s
  | .hostWait => Sys2Proof.Machine.execHostWait s
  | .hostSignal => Sys2Proof.Machine.execHostSignal s
  | .hostCancel => Sys2Proof.Machine.execHostCancel s
  | .hostClose => Sys2Proof.Machine.execHostClose s
  | .queueClosed q => Sys2Proof.Machine.execQueueClosed q s
  | .queueWaitRelease q => Sys2Proof.Machine.execQueueWaitRelease q s
  | .ringReadIndexWrite q ring idx => Sys2Proof.Machine.execRingReadIndexWrite q ring idx s
  | .nodeArm job => Sys2Proof.Machine.execNodeArm job s
  | .nodeWait job => Sys2Proof.Machine.execNodeWait job s
  | .nodeWaitRelease job => Sys2Proof.Machine.execNodeWaitRelease job s
  | .nodeSignal job => Sys2Proof.Machine.execNodeSignal job s
  | .nodeLoop job => Sys2Proof.Machine.execNodeLoop job s
  | .nodeEnd job => Sys2Proof.Machine.execNodeEnd job s
  | .unitPlacement u => Sys2Proof.Machine.execUnitPlacement u s
  | .sectionRotation u => Sys2Proof.Machine.execSectionRotation u s
  | .tileCountExpiry u => Sys2Proof.Machine.execTileCountExpiry u s
  | .elementDrainPass u e => Sys2Proof.Machine.execElementDrainPass u e s
  | .cycleDrainInject u e ch => Sys2Proof.Machine.execCycleDrainInject u e ch s
  | .portDrainPass u n => Sys2Proof.Machine.execPortDrainPass u n s
  | .unitEnd u => Sys2Proof.Machine.execUnitEnd u s
  | .launchComplete l => Sys2Proof.Machine.execLaunchComplete l s
  | .graphComplete job => Sys2Proof.Machine.execGraphComplete job s
  | .phaseComplete job => Sys2Proof.Machine.execPhaseComplete job s
  | .jobComplete job => Sys2Proof.Machine.execJobComplete job s
  | .slotZeroComplete quarter slot => Sys2Proof.Machine.execSlotZeroComplete quarter slot s
  | .watchdogExpiry u => Sys2Proof.Machine.execWatchdogExpiry u s
  | .starveBitSet u e slot => Sys2Proof.Machine.execStarveBitSet u e slot s
  | .configTokenConsume u e ch => Sys2Proof.Machine.execConfigTokenConsume u e ch s
  | .pulseArrival u route => Sys2Proof.Machine.execPulseArrival u route s
  | .ingressToken u n tok => Sys2Proof.Machine.execIngressToken u n tok s
  | .channelTokenArrival u route => Sys2Proof.Machine.execChannelTokenArrival u route s
  | .lateResultWrite u e idx => Sys2Proof.Machine.execLateResultWrite u e idx s
  | .feWaitComplete u tile idx => Sys2Proof.Machine.execFeWaitComplete u tile idx s
  | .guardPoisonReturn idx => Sys2Proof.Machine.execGuardPoisonReturn idx s
  | .stageBResult u e idx => Sys2Proof.Machine.execStageBResult u e idx s
  | .exactUnitResult block => Sys2Proof.Machine.execExactUnitResult block s
  | .predicateResultSend u e => Sys2Proof.Machine.execPredicateResultSend u e s
  | .systolicTokenProcess u e => Sys2Proof.Machine.execSystolicTokenProcess u e s
  | .southEdgeAdd u e => Sys2Proof.Machine.execSouthEdgeAdd u e s
  | .cornerTurnEmit u route => Sys2Proof.Machine.execCornerTurnEmit u route s
  | .slotStreamRequest u n => Sys2Proof.Machine.execSlotStreamRequest u n s
  | .bufferDeliveryComplete u buf => Sys2Proof.Machine.execBufferDeliveryComplete u buf s
  | .cacheFillReturn u idx => Sys2Proof.Machine.execCacheFillReturn u idx s
  | .cacheWalkEnd u idx => Sys2Proof.Machine.execCacheWalkEnd u idx s
  | .windowExtend u idx => Sys2Proof.Machine.execWindowExtend u idx s
  | .riderPacketCheck u n => Sys2Proof.Machine.execRiderPacketCheck u n s
  | .riderTranslate rider => Sys2Proof.Machine.execRiderTranslate rider s
  | .translationWalk rider => Sys2Proof.Machine.execTranslationWalk rider s
  | .stepBoundary cls => Sys2Proof.Machine.execStepBoundary cls s
  | .riderAlight rider => Sys2Proof.Machine.execRiderAlight rider s
  | .itemAccept u n => Sys2Proof.Machine.execItemAccept u n s
  | .carriageClose rider => Sys2Proof.Machine.execCarriageClose rider s
  | .budgetWindowBoundary => Sys2Proof.Machine.execBudgetWindowBoundary s
  | .classStop cls => Sys2Proof.Machine.execClassStop cls s
  | .idlePause cls => Sys2Proof.Machine.execIdlePause cls s
  | .classResume cls => Sys2Proof.Machine.execClassResume cls s
  | .ringClassChange ring => Sys2Proof.Machine.execRingClassChange ring s
  | .copyStart quarter => Sys2Proof.Machine.execCopyStart quarter s
  | .copyComplete quarter => Sys2Proof.Machine.execCopyComplete quarter s
  | .collectiveComplete id => Sys2Proof.Machine.execCollectiveComplete id s
  | .collectiveMemberTimeout id => Sys2Proof.Machine.execCollectiveMemberTimeout id s
  | .remoteWriteArrival id => Sys2Proof.Machine.execRemoteWriteArrival id s
  | .remoteAckTimeout id => Sys2Proof.Machine.execRemoteAckTimeout id s
  | .messageArrival id => Sys2Proof.Machine.execMessageArrival id s
  | .messageHoldExpiry id => Sys2Proof.Machine.execMessageHoldExpiry id s
  | .drnCompletion u n => Sys2Proof.Machine.execDrnCompletion u n s
  | .ingressBucketPass point => Sys2Proof.Machine.execIngressBucketPass point s
  | .bucketRateRecompute => Sys2Proof.Machine.execBucketRateRecompute s
  | .gateStateChange u e => Sys2Proof.Machine.execGateStateChange u e s
  | .gateWrite quarter v => Sys2Proof.Machine.execGateWrite quarter v s
  | .rclq v => Sys2Proof.Machine.execRclq v s
  | .swpcWrite v => Sys2Proof.Machine.execSwpcWrite v s
  | .bwldWrite quarter v => Sys2Proof.Machine.execBwldWrite quarter v s
  | .fresRetry serial => Sys2Proof.Machine.execFresRetry serial s
  | .fresUnresolvable serial => Sys2Proof.Machine.execFresUnresolvable serial s
  | .hostTlbi v => Sys2Proof.Machine.execHostTlbi v s
  | .tlbiComplete id => Sys2Proof.Machine.execTlbiComplete id s
  | .sctlFreeze v => Sys2Proof.Machine.execSctlFreeze v s
  | .sctlThaw v => Sys2Proof.Machine.execSctlThaw v s
  | .sctlMove v => Sys2Proof.Machine.execSctlMove v s
  | .translationStoreWrite quarter addr v => Sys2Proof.Machine.execTranslationStoreWrite quarter addr v s
  | .logdRead => Sys2Proof.Machine.execLogdRead s
  | .hrefRead => Sys2Proof.Machine.execHrefRead s
  | .fdropRead => Sys2Proof.Machine.execFdropRead s
  | .registerWrite n v => Sys2Proof.Machine.execRegisterWrite n v s
  | .soctlWrite port v => Sys2Proof.Machine.execSoctlWrite port v s
  | .attestationReport => Sys2Proof.Machine.execAttestationReport s
  | .bootc v => Sys2Proof.Machine.execBootc v s
  | .hostLinkTrain => Sys2Proof.Machine.execHostLinkTrain s
  | .hostLinkDown => Sys2Proof.Machine.execHostLinkDown s
  | .scaleoutPortTrain port => Sys2Proof.Machine.execScaleoutPortTrain port s
  | .ethFrameSend port => Sys2Proof.Machine.execEthFrameSend port s
  | .ethFrameReceive port bytes => Sys2Proof.Machine.execEthFrameReceive port bytes s
  | .powerGood => Sys2Proof.Machine.execPowerGood s
  | .bootStateAdvance => Sys2Proof.Machine.execBootStateAdvance s
  | .bankFailure ring => Sys2Proof.Machine.execBankFailure ring s
  | .regionFailure block => Sys2Proof.Machine.execRegionFailure block s
  | .remoteAcknowledgement id => Sys2Proof.Machine.execRemoteAcknowledgement id s
  | .scaleoutLinkDown port => Sys2Proof.Machine.execScaleoutLinkDown port s
  | .elementStatusIdleSet u e => Sys2Proof.Machine.execElementStatusIdleSet u e s
  | .powerLoss => Sys2Proof.Machine.execPowerLoss s

end Sys2Proof.Machine
end

