-- ==== Sys2Proof/Machine/Agenda.lean ====
section
/-! DEFINITION. The next happening and what becomes of it: the picker of an element, an event of the device, a memory
request that reaches its tile, an input from outside (R63-R66, R74, R122, R125, R174, R355; log 1). -/

namespace Sys2Proof.Machine

/-- The next happening and the state without it: the head of the agenda, else a free choice. -/
def nextHappening (s : State) : Happening × State :=
  match s.agenda with
  | h :: rest => (h, { s with agenda := rest })
  | [] => (Config.happens s.freeCtr, { s with freeCtr := s.freeCtr + 1 })

/-- What becomes of a happening: the state after it, an instruction to run, or a slot word that is none. -/
inductive Ready where
  | settled (s : State)
  | run (i : Instr) (s : State)
  | undecodable
  deriving DecidableEq, Repr

/-- Time passes before a happening. -/
def elapse (s : State) (n : Nat) : State := { s with clk := { s.clk with cyc := s.clk.cyc + n } }

/-- The state with an element's rule in focus. -/
def focusOn (s : State) (u e slot : Nat) (defer : Bool) : State :=
  { s with focus := some { u := u, e := e, slot := slot, defer := defer } }

/-! ## The picker (R64) -/

/-- The memory, sweep or engine port that the rule uses can take it: the rule would not wait at a beat for it. -/
def portTakes (s : State) (u e slot : Nat) (i : Instr) : Bool :=
  if (useOf i).dry then
    match exec i (focusOn s u e slot false) with
    | .next t => (t.elem u e).firing.isNone
    | _ => true
  else true

/-- What the picker makes of a slot: nothing to fire, a rule to fire, a word that is none, or a configuration word that
cannot be corrected. -/
inductive SlotPick where
  | no
  | rule (i : Instr)
  | bad
  | broken
  deriving DecidableEq, Repr

/-- The k-registers that a rule reads. -/
def kRegs (u : Use) : List Nat :=
  let run := fun (o : Opd) (n : Nat) => match o.src with
    | .k j => (List.range n).map fun i => (j.val + i) % 8
    | _ => []
  run u.a (if u.pair then 2 else 1) ++ run u.b (if u.quad then 4 else 1)

/-- A slot as the picker looks at it (R64): its trigger holds, its resources are free, the wave counter admits it, and it is
its rule's turn.  A configuration word that cannot be corrected stops the element before it is used (R174): as soon as the
picker looks at its slot, whether or not the trigger would hold (DESIGN CHOICE, log 46). -/
def lookAt (turn : Instr → Bool) (s : State) (u e : Nat) (x : UnitSt) (slot : Nat) : SlotPick :=
  let y := x.elem e
  match y.slots.get? slot with
  | none => .no
  | some w =>
    if y.broken (.slot slot) then .broken
    else match decode w with
    | .error _ => .bad
    | .ok i =>
      match y.trig.get? (useOf i).t with
      | none => .no
      | some t =>
        if y.broken (.trig (useOf i).t.val) || y.broken (.desc slot) || (kRegs (useOf i)).any (fun n => y.broken (.k n)) then .broken
        else if holds x e (useOf i) t && waveAdmits (x.elem e) slot && resources s u x e slot i (useOf i) t && turn i && portTakes s u e slot i then .rule i
        else .no

/-- The lowest slot that fires, at most `n` looked at from `slot` on. -/
def pickFrom (turn : Instr → Bool) (s : State) (u e : Nat) (x : UnitSt) : Nat → Nat → Option (Nat × SlotPick)
  | 0, _ => none
  | n + 1, slot =>
    match lookAt turn s u e x slot with
    | .no => pickFrom turn s u e x n (slot + 1)
    | p => some (slot, p)

/-! ### CLAIMs of one cycle (R404) -/

def isClaim : Instr → Bool
  | .claim _ _ => true
  | _ => false

/-- A rule of an element, run now, ends its firing: nothing it sends waits for credit. -/
def endsNow (s : State) (u e slot : Nat) (i : Instr) : Bool :=
  match exec i (focusOn s u e slot false) with
  | .next t => (t.elem u e).firing.isNone
  | _ => false

/-- The picker of an element would start a CLAIM now, or its CLAIM that waits for credit would go on. -/
def claimReady (s : State) (u e : Nat) (x : UnitSt) : Bool :=
  let y := x.elem e
  y.pick == .run && decide (y.busy ≤ s.clk.cyc) && y.heldBy.isNone && !y.drained &&
  match y.firing with
  | some st => (match ruleOf y st.slot with
    | some (i, _) => isClaim i && endsNow s u e st.slot i
    | none => false)
  | none => (match pickFrom (fun _ => true) s u e x 32 0 with
    | some (slot, .rule i) => isClaim i && endsNow s u e slot i
    | _ => false)

/-- It is an element's turn to CLAIM (R404): none of its quarter with a higher device number has claimed in this cycle, and
none with a lower one would claim now. -/
def claimTurn (s : State) (x : UnitSt) (e : Nat) (i : Instr) : Bool :=
  let q := x.quarterOf e
  let d := x.devElem e
  !isClaim i ||
  ((match s.claimed.get? q with
    | some (c, k) => decide (c ≠ s.clk.cyc) || decide (k < d)
    | none => true) &&
   !(s.units.any fun p => p.2.placed && p.2.elems.any fun k =>
      p.2.quarterOf k.1 == q && decide (p.2.devElem k.1 < d) && claimReady s p.1 k.1 p.2))

/-! ### What is kept of triggers that hold (R74, R355) -/

/-- The cycle from which the resources of a rule are free as things stand, `now` or later; none where time alone does not free
them (R64, R355). -/
def freeFrom (s : State) (u e : Nat) (x : UnitSt) (slot : Nat) : Option Nat :=
  let now := s.clk.cyc
  let y := x.elem e
  match ruleOf y slot with
  | none => some now
  | some (i, w) =>
    if !portTakes s u e slot i then none
    else
      (sortBy (fun a b => decide (a < b)) [now, max now y.brickBusy, max now y.sysBusy, max now y.walkEnd]).find? fun c =>
        resources { s with clk := { s.clk with cyc := c } } u x e slot i (useOf i) w

/-- Since when each trigger of an element holds unfired (R74), the cycles in which one held while a resource of its rule was
busy and the datapath free (R355; log 14), and what can wake it, where it idles (R355); `now` is the cycle. -/
def Elem.mark (s : State) (u e : Nat) (x : UnitSt) (y : Elem) : Elem :=
  let now := s.clk.cyc
  let held := y.slots.keys.filter fun k => slotHolds x e k
  let y := { y with
    starveAt := held.foldl (fun (m : Assoc Nat) k => m.set k (y.starveAt.getD k now)) []
    pick := match y.pick with
      | .idle lim sig => .idle lim ((sig.zip (idleSig x e)).map fun (p : Nat × Nat) => min p.1 p.2)
      | p => p }
  let late := held.filterMap fun k => match freeFrom s u e x k with
    | some c => if c ≤ now then none else some (some c)
    | none => some none
  let last := late.foldl (fun (m : Option Nat) k => m.bind fun a => k.map fun b => max a b) (some 0)
  { y.addPerf 1 (y.heldFor now) with heldAt := if late.isEmpty then none else some (max now y.busy, last) }

/-- What a happening leaves behind: the triggers of every element of every placed unit looked at as they stand. -/
def markAll (s : State) : State :=
  { s with units := s.units.mapVals fun u x =>
      if x.placed then { x with elems := x.elems.mapVals fun e y => Elem.mark s u e x y } else x }

/-- The picker of an element whose datapath is free: a firing that stands stopped goes on, else the lowest rule that
can fires; a word found bad traps the element before it is used (R64, R174, R182, R372). -/
def firePick (s : State) (u e : Nat) (defer : Bool) (x : UnitSt) : Ready :=
  let y := x.elem e
  match y.firing with
  | some st =>
    (match y.slots.get? st.slot with
     | none => .settled s
     | some w =>
       (match decode w with
        | .error _ => .undecodable
        | .ok i => if claimTurn s x e i then .run i (focusOn s u e st.slot defer) else .settled s))
  | none =>
    match pickFrom (claimTurn s x e) s u e x 32 0 with
    | none => .settled s
    | some (_, .no) => .settled s
    | some (_, .bad) => .undecodable
    | some (slot, .broken) => if s.canTrap u then .settled (s.trap u e slot 0x27 0 0 0 0) else .settled s
    | some (slot, .rule i) => .run i (focusOn s u e slot defer)

/-- The picker of an element runs: it takes off its channels what it takes by itself, and fires where its unit is placed,
its picker runs, its datapath is free and no fault holds it (R64, R65, R72, R197, R269). -/
def fireReady (s : State) (u e : Nat) (defer : Bool) : Ready :=
  match s.placed? u with
  | none => .settled s
  | some x =>
    if x.cfg.elemCount ≤ e then .settled s
    else
      let y := (x.elem e).selfTake
      let x := x.setElem e y
      let s := s.setUnit u x
      if y.pick == .run && decide (y.busy ≤ s.clk.cyc) && y.heldBy.isNone && !y.drained then firePick s u e defer x else .settled s

/-! ## Everything else -/

/-- The host writes its own memory (R18). -/
def hostStore (s : State) (pa : Nat) (bytes : List Byte) : State :=
  { s with mem := Memory.writeBytes s.mem (State.hostAddr pa) (bytes.take (2 ^ 47 - pa % 2 ^ 47)) }

/-- Block temperatures and fabric powers as measured (R345). -/
def climate (s : State) (temp : Assoc Nat) (pnow : List Nat) : State :=
  { s with power := { s.power with temp := temp.filter fun p => decide (p.1 < 256), pnow := pnow } }

/-- A stored word fails: it reads as failed until it is written whole (R109, R174, R383). -/
def decay (s : State) : Decay → State
  | .tile u t w => s.modUnit u fun x => if t < x.cfg.tileCount ∧ w < 32768 then x.setTile t { x.tile t with bad := w :: (x.tile t).bad } else x
  | .fifo u t k => s.modUnit u fun x =>
      if k < (x.tile t).fifo.length then x.setTile t { x.tile t with badFifo := k :: (x.tile t).badFifo } else x
  | .way u k w => s.modCache u fun c => if w < 32 then { c with ways := listUpd c.ways k fun y => { y with bad := w :: y.bad } } else c
  | .window u k w => s.modCache u fun c =>
      { c with wins := c.wins.set 0 (listUpd (c.wins.getD 0 []) k fun y =>
          let a := y.base + 8 * w
          if y.tail ≤ a ∧ a < y.head then { y with bad := y.bad ++ [(a, 0x0D)] } else y) }
  | .slot q n w => if q < 4 ∧ n < 512 ∧ w < 8192 then s.setSlot q n { s.slotOf q n with bad := w :: (s.slotOf q n).bad } else s
  | .sector n =>
    if targetOf (32 * n) = .sweep ∨ targetOf (32 * n) = .deep then { s with sweep := { s.sweep with badSec := s.sweep.badSec.set n () } } else s
  | .config u e n => s.modElem u e fun y => if n < 136 then { y with badCfg := n :: y.badCfg } else y

/-- What a happening comes to. Without power only power comes back (R402). -/
def readyFor (s : State) : What → Ready
  | .fire u e defer => if s.boot.powered then fireReady s u e defer else .settled s
  | .event i => if i.hasWord || (!s.boot.powered && i != .powerGood) then .settled s else .run i s
  | .serve u i => if s.boot.powered then .settled (s.serveReq u i) else .settled s
  | .hostStore pa bytes => .settled (hostStore s pa bytes)
  | .climate temp pnow => .settled (climate s temp pnow)
  | .decay d => .settled (decay s d)
  | .pass => .settled s

/-- The next happening, made ready. -/
def ready (s : State) : Ready :=
  let h := nextHappening s
  readyFor (elapse h.2 h.1.wait) h.1.what

/-- Actions on held work of units that run which waited for a place for a record are taken, where there is one now (R372,
R373). -/
def retryResolved (s : State) : State :=
  s.units.foldl (fun t p => match t.unit? p.1 with
    | some x =>
      if x.frozen || x.resolved.isEmpty then t
      else x.resolved.foldl (fun t r => t.fres r.1 r.2) (t.modUnit p.1 fun y => { y with resolved := [] })
    | none => t) s

/-- What goes on by itself as soon as nothing holds it: records of losses and actions that waited for a place (R372, R373), freeze
images and their readings (R374, R376), messages (R257), the arbiter's counts (R333), and the zeroing of a released slot that nothing
is aimed at any more (R276). -/
def goOn (s : State) : State := startZeros (moveMessages (retryResolved s.postLosses).settleImages).markSince

/-- The state after a happening: no element is in focus, what goes on by itself has done so, and every trigger is looked at
(R74, R355). -/
def settle (s : State) : State := markAll (goOn { s with focus := none })

/-! ## A unit that runs one word (for `withFetchWord`) -/

/-- Tokens that stand on an input of it: a burst of 16 of tag 0. -/
def fetchTokens : List Token :=
  { mark := 1, tag := 0, coord := 0, payload := 0 } :: List.replicate 14 { mark := 0, tag := 0, coord := 0, payload := 0 } ++
    [{ mark := 2, tag := 0, coord := 0, payload := 0 }]

/-- A unit of one block whose element 0 holds one word in slot 0. -/
def fetchUnit (w : BitVec 32) : UnitSt :=
  let i := match decode w with
    | .ok i => some i
    | .error _ => none
  let u : Use := match i with
    | some i => useOf i
    | none => {}
  let n := if u.beats == .qenc then 4 else 0
  let bind := match u.bind with
    | some k => listUpd (List.replicate 32 ({} : BindCfg)) k fun _ => { kind := u.kinds.headD .unbound }
    | none => []
  let whole : BitVec 4 := if u.burst then 0xF else 0
  let cfg : SecCfg := { rows := 1, cols := 1, mode := 0, flush := false, seed := 1, pal := 0, roles := [], routes := [], binds := bind
                        bufs := [], elems := [], window := false }
  let x : Elem := { cfg := { whole := whole }, slots := [(0, w)], trig := [(u.t.val, BitVec.ofNat 64 (n * 2 ^ 43))]
                    ins := Vector.replicate 4 { q := fetchTokens } }
  { job := 0, tenant := 0, secure := false, priv := true, debug := true, launch := 0, section_ := 0, replica := 0, serial := 0
    args := [], tiles0 := 0, cfg := cfg, phase := .running, quarter := 0, elems := [(0, x)] }

end Sys2Proof.Machine
end

