-- ==== Sys2Proof/Machine/Step.lean ====
section
/-! DEFINITION. One step of the device: one happening, whole (95_what_each_step_holds.md). -/

namespace Sys2Proof.Machine

/-- One step: the next happening, and the instruction or event it comes to. -/
def step (s : State) : Host.Outcome State Fault Refusal :=
  match ready s with
  | .settled t => .next (settle t)
  | .undecodable => .fault .undecodable
  | .run i t =>
    match exec i t with
    | .next r => .next (settle r)
    | .fault f => .fault f
    | .refused r => .refused r

/-- `s` with an instruction placed where the next step fetches it: slot 0 of element 0 of unit 0, armed on block 0, its
trigger without conditions, tokens on every input, its binding bound, and the element's picker next on the agenda. -/
def State.withFetchWord (s : State) (nbits w : Nat) : State :=
  { s with units := s.units.set 0 (fetchUnit (BitVec.ofNat 32 (w % 2 ^ nbits)))
           agenda := { wait := 0, what := .fire 0 0 false } :: s.agenda }

end Sys2Proof.Machine
end

