-- ==== Sys2Proof/Certificates/Slice0/Obligations.lean ====
section
/-! DEFINITION. The statements for the provers, from the rules of the spec.

The slot instructions' statements describe a whole firing: `Form.upTo` begins it and does its beats in order; `Fires` and
`Runs` say that wherever every beat can be done exec answers the state the last beat leaves, its end applied; `Traps` says
what a beat that traps comes to.  The events' statements give the next state of exec, or what it holds. -/

namespace Sys2Proof.Spec

open Machine

/-! ## Words of the statements -/

/-- Element `f.e` of unit `f.u` is in focus and has no firing that stands stopped. -/
structure Fresh (s : State) (f : Focus) (x : UnitSt) : Prop where
  focus : s.focus = some f
  unit : s.unit? f.u = some x
  elem : f.e < x.cfg.elemCount
  fresh : (x.elem f.e).firing = none

/-- The token that supplies the coordinate of a beat: source A's if A is a channel, else source B's if B is (R65). -/
def cxTok (y : Elem) (a b : Src) : Option Token :=
  match a.chan?, b.chan? with
  | some c, _ => (y.visible c).head?
  | none, some c => (y.visible c).head?
  | none, none => none

/-- The coordinate of a beat; zero where no source is a channel (R65). -/
def cx (y : Elem) (a b : Src) : BitVec 32 :=
  match cxTok y a b with
  | some k => k.coord
  | none => 0

/-- The channels that two sources dequeue: those not peeked; one channel named twice is dequeued once, unless both peek
(R152). -/
def deqs (a b : Opd) : List (Fin 4) :=
  match a.src.chan?, b.src.chan? with
  | some c, some d =>
    if c = d then (if a.peek && b.peek then [] else [c])
    else (if a.peek then [] else [c]) ++ (if b.peek then [] else [d])
  | some c, none => if a.peek then [] else [c]
  | none, some d => if b.peek then [] else [d]
  | none, none => []

/-- The registers that two sources take (R66). -/
def taken (a b : Src) : List (Fin 8) := a.take?.toList ++ b.take?.toList

/-- The operands of a firing: sources A and B, the register read as the destination, registers read whole, the channels it
waits for, the registers it takes, the channels a beat dequeues, the outputs a beat may send on and how many tokens on each,
at the last beat and at an earlier one. -/
structure Form where
  t : Fin 64
  a : Src := .z
  b : Src := .z
  z : Option (Fin 8) := none
  words : Elem → List Word := fun _ => []
  srcs : List Src := []
  takes : List (Fin 8) := []
  dq : List (Fin 4) := []
  outs : List Nat := []
  room : Bool → Nat := fun _ => 1

/-- The form of an instruction with two sources. -/
def form (t : Fin 64) (a b : Opd) (z : Option (Fin 8)) (outs : List Nat) : Form where
  t := t
  a := a.src
  b := b.src
  z := z
  srcs := [a.src, b.src]
  takes := taken a.src b.src
  dq := deqs a b
  outs := outs

namespace Form

/-- What a firing reads at its first beat (R65): its register operands, its destination register, p0. -/
def cap (m : Form) (y : Elem) (slot : Nat) : Captured where
  a := y.readReg m.a
  b := y.readReg m.b
  dst := match m.z with
    | some n => y.g[n]
    | none => {}
  p0 := y.pred 0
  words := m.words y
  entry := y.trigger m.t
  desc := y.descOf slot

/-- Beat `b` of `n` as its operands give it (R65, R178). -/
def beat (m : Form) (s : State) (f : Focus) (n b : Nat) (cap : Captured) : Beat :=
  let y := s.elem f.u f.e
  { u := f.u, e := f.e, slot := f.slot, b := b, n := n
    a := y.operand cap.a b (cx y m.a m.b) m.a, bb := y.operand cap.b b (cx y m.a m.b) m.b
    cx := cx y m.a m.b, cxTok := cxTok y m.a m.b, cap := cap
    pal := (s.cfgOf f.u).pal, mode := RMode.ofCode (s.cfgOf f.u).mode, flush := (s.cfgOf f.u).flush }

/-- The state in which a beat has its effect: at the last beat the registers the firing takes have lost their presence, so
that a write of one of them wins (R66). -/
def pre (m : Form) (s : State) (f : Focus) (n b : Nat) : State :=
  if b + 1 = n then clearTaken s f.u f.e m.takes else s

/-- The state after a beat in state `s` that came to `r`: its tokens are sent, its channels are dequeued, the datapath is
held for `cyc` cycles (R65, R182). -/
def post (m : Form) (s : State) (f : Focus) (cyc : Nat) (r : State × List (Nat × Token)) : State :=
  (sendOut r.1 f.u f.e r.2).modElem f.u f.e fun y => (m.dq.foldl Elem.dequeue y).hold s.clk.cyc cyc

end Form

/-- What a beat comes to: its effect on the state, the tokens it sends, what the firing carries to its next beat. -/
abbrev Effect := State → Beat → Carry → State × List (Nat × Token) × Carry

/-- A firing of the rule in focus begun (R62, R65, R75), then its first `b` beats done in order. -/
def Form.upTo (m : Form) (s : State) (f : Focus) (n : Nat) (cap : Captured) (cyc : State → Beat → Nat) (eff : Effect) :
    Nat → State × Carry
  | 0 => (beginFiring s f.u f.e f.slot m.t, {})
  | b + 1 =>
    let q := m.upTo s f n cap cyc eff b
    let bt := m.beat q.1 f n b cap
    let r := eff (m.pre q.1 f n b) bt q.2
    (m.post q.1 f (cyc (m.pre q.1 f n b) bt) (r.1, r.2.1), r.2.2)

/-- Beat `b` of `n` can be done in state `s`: a token stands on every channel it reads and each output has credit for what
the beat sends. -/
def Form.Goes (m : Form) (s : State) (f : Focus) (n b : Nat) : Prop :=
  ∃ x, s.unit? f.u = some x ∧ (∀ a ∈ m.srcs, (x.elem f.e).tokReady a = true) ∧
    let k := m.room (b + 1 == n)
    k = 0 ∨ ∀ o ∈ m.outs, x.credit f.e o k = true

/-- `i` runs to its end: a new firing of the rule in focus whose every beat in its turn can be done and meets `ok` ends in
the same step of exec, each beat with the effect `eff` and `cyc` datapath cycles; at the end its trigger's predicates and
its wave counter are written (R63, R65, R71, R182). -/
def Fires (i : Instr) (m : Form) (ok : State → Beat → Carry → Prop) (cyc : State → Beat → Nat) (eff : Effect) : Prop :=
  ∀ (s : State) (f : Focus) (x : UnitSt), Fresh s f x →
    let n := Trig.n ((x.elem f.e).trigger m.t)
    let cap := m.cap (x.elem f.e) f.slot
    let at_ := m.upTo s f n cap cyc eff
    (∀ b < n, m.Goes (at_ b).1 f n b ∧ ok (m.pre (at_ b).1 f n b) (m.beat (at_ b).1 f n b cap) (at_ b).2) →
    exec i s = .next (endFiring (at_ n).1 f.u f.e cap)

/-- An effect that carries nothing from beat to beat. -/
def each (eff : State → Beat → State × List (Nat × Token)) : Effect := fun s bt c => ((eff s bt).1, (eff s bt).2, c)

/-- The condition of a beat that does not look at what the firing carries. -/
def plainly (ok : State → Beat → Prop) (s : State) (bt : Beat) (_ : Carry) : Prop := ok s bt

/-- `i` runs to its end with the same effect at every beat. -/
def Runs (i : Instr) (m : Form) (ok : State → Beat → Prop) (cyc : State → Beat → Nat)
    (eff : State → Beat → State × List (Nat × Token)) : Prop :=
  Fires i m (plainly ok) cyc (each eff)

/-- `i` TRAPS in the middle: a new firing whose first `k` beats can be done and meet `ok`, and for whose beat `k` `bad` gives
a state, a cause, an address and flags, does those beats, comes to that state and traps there with that cause, the beat as
the first unapplied item, that address and those flags as the ones the beat raised (R255, R369, R371), where its record finds
a place. -/
def Traps (i : Instr) (m : Form) (ok : State → Beat → Carry → Prop) (cyc : State → Beat → Nat) (eff : Effect)
    (bad : State → Beat → Carry → Option (State × Nat × Nat × Flags)) : Prop :=
  ∀ (s s' : State) (f : Focus) (x y : UnitSt) (k cause va : Nat) (fl : Flags), Fresh s f x →
    let n := Trig.n ((x.elem f.e).trigger m.t)
    let cap := m.cap (x.elem f.e) f.slot
    let at_ := m.upTo s f n cap cyc eff
    k < n →
    (∀ b < k, m.Goes (at_ b).1 f n b ∧ ok (m.pre (at_ b).1 f n b) (m.beat (at_ b).1 f n b cap) (at_ b).2) →
    (at_ k).1.unit? f.u = some y → (∀ a ∈ m.srcs, (y.elem f.e).tokReady a = true) →
    bad (m.pre (at_ k).1 f n k) (m.beat (at_ k).1 f n k cap) (at_ k).2 = some (s', cause, va, fl) → s'.canTrap f.u = true →
    exec i s = .next (s'.trap f.u f.e f.slot cause k va 0 0 fl)

/-- A trap that leaves nothing of its beat but the flag of a poison operand (R181, R255). -/
def trapped (bad : State → Beat → Option (Nat × Nat)) (s : State) (bt : Beat) (_ : Carry) :
    Option (State × Nat × Nat × Flags) :=
  (bad s bt).map fun p => (bt.raise s bt.poisonFlag, p.1, p.2, bt.poisonFlag)

/-- An operand field the instruction does not have. -/
def none_ : Opd := ⟨.z, false⟩

/-- No condition of the instruction's own. -/
def always (_ : State) (_ : Beat) : Prop := True

/-- One datapath cycle a beat (R65). -/
def one_ (_ : State) (_ : Beat) : Nat := 1

/-- `i` runs to its end wherever its beats can be done, with the effect `eff` at every beat. -/
abbrev Completes (i : Instr) (t : Fin 64) (a b : Opd) (z : Option (Fin 8)) (outs : List Nat) (cyc : State → Beat → Nat)
    (eff : State → Beat → State × List (Nat × Token)) : Prop :=
  Runs i (form t a b z outs) always cyc eff

/-- The same for an effect that goes from beat to beat and sends after the last beat only. -/
abbrev CompletesAtLast (i : Instr) (t : Fin 64) (a b : Opd) (z : Option (Fin 8)) (outs : List Nat) (eff : Effect) : Prop :=
  Fires i { form t a b z outs with room := fun last => if last then 1 else 0 } (fun _ _ _ => True) one_ eff

end Sys2Proof.Spec

namespace Sys2Proof.Spec
open Machine

/-- A result with tag T and no flag of its own. -/
def plain (d : Dst) (v : Word) (s : State) (bt : Beat) : State × List (Nat × Token) := bt.deliver s d v bt.T 0

/-- PSET and PCLR: after the last beat, 0 if an operand was poison at a beat, else `v` if source A AND source B was not zero
at a beat (R181, R194). -/
def predSet (d : Fin 8) (v : Bool) : Effect := fun s bt c =>
  let any := c.any || bt.a.bits &&& bt.bb.bits != 0
  let clean := c.ok && bt.poison?.isNone
  let s := bt.raise s bt.poisonFlag
  (if bt.last = false then s
   else if clean = false then bt.mod s fun y => y.setPred d false
   else if any = true then bt.mod s fun y => y.setPred d v
   else s, [], { c with any := any, ok := clean })

/-- The mark code of R191: 0-3 a data token of that mark, 4 end-of-stream, 6 configuration, 7 poison; 5 sends nothing and is
invalid. -/
def marked (d : ODst) (s : State) (bt : Beat) : State × List (Nat × Token) :=
  let m := bt.bb.bits.toNat % 8
  if m = 5 then (bt.raise s Flags.invalid, sendAll d bt.poison?)
  else
    let k : Token :=
      if m < 4 then ⟨BitVec.ofNat 3 m, bt.T, bt.cx, bt.a.bits⟩
      else if m = 4 then Token.eos
      else if m = 6 then ⟨6, 0, bt.cx, bt.a.bits⟩
      else Token.poison (bt.a.bits.toNat % 65536) bt.cx
    (bt.raise s bt.poisonFlag, sendAll d (bt.outTok k))

end Sys2Proof.Spec

/-- R184-R188, R190: the forwarding instructions of class 0 complete: NOP takes its operands and does nothing else, MOV
forwards source A whole, MOVT with the tag B[2:0], SEL source A where p0 is 1 and else B, FORK sends source A to each named
output that B picks and SPLIT to exactly one, DROP clears the presence of a register it names.
Completes: NOP, MOV, MOVT, FORK, SEL, SPLIT, DROP. -/
def Obligations.ForwardingInstructions : Prop :=
  open Sys2Proof Machine Spec in
  (∀ t a b, Completes (.nop t a b) t a b none [] one_ fun s _ => (s, [])) ∧
  (∀ t d a, Completes (.mov t d a) t a none_ none d.outs one_ fun s bt => bt.forward s d bt.a) ∧
  (∀ t d a b, Completes (.movt t d a b) t a b none d.outs one_ fun s bt =>
    let r := retag bt
    bt.forward (bt.raise s (if r.2 then Flags.invalid else 0)) d r.1) ∧
  (∀ t d a b, Completes (.sel t d a b) t a b none d.outs one_ fun s bt => bt.forward s d (if bt.cap.p0 then bt.a else bt.bb)) ∧
  (∀ t d a b, Completes (.fork t d a b) t a b none (outsOf d) one_ fun s bt =>
    (s, sendFwd ((outsOf d).filter fun j => bt.bb.bits.getLsbD j) (bt.fwd bt.a))) ∧
  (∀ t d a b, Completes (.split t d a b) t a b none (outsOf d) one_ fun s bt =>
    (s, sendFwd ((outsOf d)[bt.bb.bits.toNat % (outsOf d).length]?.toList) (bt.fwd bt.a))) ∧
  (∀ t a, Completes (.drop t a) t ⟨a, false⟩ none_ none [] one_ fun s bt =>
    (match a.reg? with
     | some n => bt.mod s fun y => y.clearG n
     | none => s, []))

/-- R191-R197: the other instructions of class 0 complete: MARK sends one token with the mark of its code, EMIT one
end-of-stream on each named output, TAGS delivers the tag, mark and coordinate of source A, PSET and PCLR write pN where
A AND B is not zero, CTR counts A up and wraps to 0 at B, SIG sends one pulse, HALT stops the picker.  The model's choice:
what a poison operand does to MARK, PSET and PCLR (log 26, DEDUCED), and that SIG's pulse behind a fence of its element goes
under a number (log 55, DEDUCED).
Completes: MARK, EMIT, TAGS, PSET, PCLR, CTR, SIG, HALT. -/
def Obligations.MarksPredicatesAndCounters : Prop :=
  open Sys2Proof Machine Spec in
  (∀ t d a b, Completes (.mark t d a b) t a b none (outsOf d) one_ fun s bt => marked d s bt) ∧
  (∀ t d a b, Completes (.emit t d a b) t a b none (outsOf d) one_ fun s _ => (s, sendAll d (some Token.eos))) ∧
  (∀ t d a, Completes (.tags t d a) t a none_ none d.outs one_ fun s bt =>
    match d with
    | .g n => (bt.mod s fun y => y.setG n (tagsOf bt.a) bt.T, [])
    | .out o => (s, sendAll o (if bt.drain? then none else some (bt.result (tagsOf bt.a) bt.T)))
    | .z => (s, [])) ∧
  (∀ t d a b, CompletesAtLast (.pset t d a b) t a b none [] (predSet d true)) ∧
  (∀ t d a b, CompletesAtLast (.pclr t d a b) t a b none [] (predSet d false)) ∧
  (∀ t d a b, Completes (.ctr t d a b) t a b none d.outs one_ fun s bt =>
    plain d (if bt.bb.bits.toNat ≤ bt.a.bits.toNat + 1 then 0 else bt.a.bits + 1) s bt) ∧
  (∀ t d a b, Completes (.sig t d a b) t a b none [] one_ fun s bt =>
    (if (s.elem bt.u bt.e).fences ≠ [] then (s.modUnit bt.u fun x => x.pulse bt.e d.val (some s.nextId)).bumpId
     else s.modUnit bt.u fun x => x.pulse bt.e d.val none, [])) ∧
  (∀ t, Completes (.halt t) t none_ none_ none [] one_ fun s bt => (bt.mod s fun y => { y with pick := .halted }, []))

/-- R189, R309: at each beat MRG forwards and dequeues the data head of source A where one stands there, else that of source
B, and CMRG, once a token stands on both channels, the data head with the smaller coordinate, source A's on a tie; the other
channel stays as it is.  The model's choice: that MRG goes with one channel empty while CMRG waits for a token on both, as
R182 says (log 27, DEDUCED).
Completes: MRG, CMRG. -/
def Obligations.MergesForwardOneHead : Prop :=
  open Sys2Proof Machine Spec in
  (∀ t d a b, Runs (.mrg t d a b) { t := t, a := .ch a, b := .ch b, outs := d.outs }
    (fun _ bt => bt.a.isData = true ∨ bt.bb.isData = true) one_
    fun s bt =>
      if bt.a.isData then bt.forward (bt.mod s fun y => y.dequeue a) d bt.a
      else bt.forward (bt.mod s fun y => y.dequeue b) d bt.bb) ∧
  (∀ t d a b, Runs (.cmrg t d a b) { t := t, a := .ch a, b := .ch b, srcs := [.ch a, .ch b], outs := d.outs }
    (fun _ bt => bt.a.isData = true ∨ bt.bb.isData = true) one_
    fun s bt =>
      if bt.a.isData = true ∧ (bt.bb.isData = true → bt.a.coord ≤ bt.bb.coord) then
        bt.forward (bt.mod s fun y => y.dequeue a) d bt.a
      else bt.forward (bt.mod s fun y => y.dequeue b) d bt.bb)

namespace Sys2Proof.Spec
open Machine

/-- A result lane by lane, delivered with tag T and the flags of its lanes and of tags that differ (R178-R181). -/
def lanes (adm : Fmt → Option IntFmt) (d : Dst) (bc : Bool) (op : LaneArg → Nat × Flags) (s : State) (bt : Beat) :
    State × List (Nat × Token) :=
  let v := bt.intResult adm bc op
  bt.deliver s d v.1 bt.T (v.2 ||| bt.mismatchFlag)

/-- A lane that is an integer cut to the lane's width (R198). -/
def cut (v : LaneArg → Int) (l : LaneArg) : Nat × Flags := (toBitsN l.w (v l), 0)

/-- A lane that is an integer clamped to the lane's range, saturation where that changes it (R199). -/
def clamped (v : LaneArg → Int) (l : LaneArg) : Nat × Flags :=
  (toBitsN l.w (max l.lo (min (v l) l.hi)), if l.lo ≤ v l ∧ v l ≤ l.hi then 0 else Flags.saturation)

/-- The lane result of SATN: x clamped to n = uint(y) bits (R206). -/
def satn (l : LaneArg) : Nat × Flags :=
  let n := l.y
  if l.w ≤ n then (l.x, 0)
  else if n = 0 then (0, if l.x = 0 then 0 else Flags.saturation)
  else
    let lo : Int := if l.sgn then -(2 ^ (n - 1)) else 0
    let hi : Int := if l.sgn then 2 ^ (n - 1) - 1 else 2 ^ n - 1
    (toBitsN l.w (max lo (min l.vx hi)), if lo ≤ l.vx ∧ l.vx ≤ hi then 0 else Flags.saturation)

/-- The instructions of class 1 with a broadcast modifier and a lane formula: how each is written, the formats it admits
(R179), and its lane result (R199-R202). -/
def wideTable : List ((Fin 64 → Dst → Opd → Opd → Bool → Instr) × (Fmt → Option IntFmt) × (LaneArg → Nat × Flags)) :=
  [ (.add, intFmt, cut fun l => l.vx + l.vy),
    (.sub, intFmt, cut fun l => l.vx - l.vy),
    (.adds, intFmt, clamped fun l => l.vx + l.vy),
    (.subs, intFmt, clamped fun l => l.vx - l.vy),
    (.mul, intFmt, cut fun l => l.vx * l.vy),
    (.mulh, intFmt, cut fun l => l.sx * l.sy / 2 ^ l.w),
    (.mulhu, intFmt, cut fun l => ((l.x * l.y / 2 ^ l.w : Nat) : Int)),
    (.min, intFmt, cut fun l => min l.sx l.sy),
    (.max, intFmt, cut fun l => max l.sx l.sy),
    (.minu, intFmt, fun l => (min l.x l.y, 0)),
    (.maxu, intFmt, fun l => (max l.x l.y, 0)),
    (.and, bitFmt, fun l => (l.x &&& l.y, 0)),
    (.or, bitFmt, fun l => (l.x ||| l.y, 0)),
    (.xor, bitFmt, fun l => (l.x ^^^ l.y, 0)),
    (.shl, intFmt, fun l => (if l.y < l.w then l.x * 2 ^ l.y % 2 ^ l.w else 0, 0)),
    (.shr, intFmt, fun l => (if l.y < l.w then l.x / 2 ^ l.y else 0, 0)),
    (.sar, intFmt, cut fun l => l.sx / 2 ^ min l.y l.w),
    (.rot, intFmt, fun l => ((l.x * 2 ^ (l.y % l.w) + l.x / 2 ^ (l.w - l.y % l.w)) % 2 ^ l.w, 0)) ]

/-- The instructions of class 1 with source A only (R199, R203). -/
def oneTable : List ((Fin 64 → Dst → Opd → Instr) × (Fmt → Option IntFmt) × (LaneArg → Nat × Flags)) :=
  [ (.neg, intFmt, cut fun l => -l.vx),
    (.abs, intFmt, fun l => if l.sgn then clamped (fun l => |l.vx|) l else (l.x, 0)),
    (.clz, bitFmt, fun l => (l.w - bitLen l.x, 0)),
    (.popc, bitFmt, fun l => ((List.range l.w).countP fun i => l.x.testBit i, 0)) ]

/-- A compare: after the last beat pN is written with the test of every lane of every beat, 0 if an operand was poison at a
beat (R181, R207, R209). -/
def compared (d : Fin 8) (r : Beat → Bool × Flags) : Effect := fun s bt c =>
  let holds := c.ok && (r bt).1 && bt.poison?.isNone
  let s := bt.raise s ((r bt).2 ||| bt.poisonFlag)
  (if bt.last then bt.mod s fun y => y.setPred d holds else s, [], { c with ok := holds })

/-- The compares of class 1 and their lane tests (R207). -/
def cmpTable : List ((Fin 64 → Fin 8 → Opd → Opd → Bool → Instr) × (Fmt → Option IntFmt) × (LaneArg → Bool)) :=
  [ (.cmpeq, bitFmt, fun l => l.x == l.y),
    (.cmpne, bitFmt, fun l => l.x != l.y),
    (.cmplt, intFmt, fun l => decide (l.sx < l.sy)),
    (.cmple, intFmt, fun l => decide (l.sx ≤ l.sy)),
    (.cmpltu, intFmt, fun l => decide (l.x < l.y)),
    (.cmpleu, intFmt, fun l => decide (l.x ≤ l.y)) ]

end Sys2Proof.Spec

/-- R199-R206: the lane instructions of class 1 complete with the lane results of their tables at every beat: arithmetic
wraps or clamps, shifts by the width or more give 0 or copies of the sign, MAD adds its destination register, BFX and SATN
take their counts from source B, IDX writes x + i y in lane i.
Completes: ADD, SUB, ADDS, SUBS, MUL, MULH, MULHU, MAD, NEG, ABS, MIN, MAX, MINU, MAXU, AND, OR, XOR, SHL, SHR, SAR,
ROT, CLZ, POPC, BFX, IDX, SATN. -/
def Obligations.IntegerLaneResults : Prop :=
  open Sys2Proof Machine Spec in
  (∀ r ∈ wideTable, ∀ t d a b bc, Completes (r.1 t d a b bc) t a b none d.outs one_ (lanes r.2.1 d bc r.2.2)) ∧
  (∀ r ∈ oneTable, ∀ t d a, Completes (r.1 t d a) t a none_ none d.outs one_ (lanes r.2.1 d false r.2.2)) ∧
  (∀ t d a b bc, Completes (.mad t d a b bc) t a b (some d) [] one_
    (lanes intFmt (.g d) bc (cut fun l => l.vx * l.vy + l.vz))) ∧
  (∀ t d a b, Completes (.satn t d a b) t a b none d.outs one_ (lanes intFmt d false satn)) ∧
  (∀ t d a b, Completes (.bfx t d a b) t a b none d.outs one_ fun s bt =>
    let v := bt.intResult intFmt false (laneBfx bt.bb.bits)
    bt.deliver s d v.1 bt.T v.2) ∧
  (∀ t d a b, Completes (.idx t d a b) t a b none d.outs one_ fun s bt =>
    match bt.F.bind intFmt, bt.F with
    | some g, some f =>
      let l := bt.laneArg f g false 0
      bt.deliver s d (ofLanes g.w ((List.range g.lanes).map fun (i : Nat) => toBitsN g.w (l.vx + i * l.vy))) bt.T bt.mismatchFlag
    | _, _ => bt.deliver s d 0 bt.T (Flags.invalid ||| bt.mismatchFlag))

namespace Sys2Proof.Spec
open Machine

/-- A float result lane by lane, delivered with tag T and the flags of its lanes and of tags that differ (R178-R181,
R214). -/
def flanes (adm : Fmt → Option FFmt) (d : Dst) (bc : Bool) (op : FCtx → Nat → Nat → Nat → Lane) (s : State) (bt : Beat) :
    State × List (Nat × Token) :=
  let v := bt.fpResult adm bc bt.bb.inFmt op
  bt.deliver s d v.1 bt.T (v.2 ||| bt.mismatchFlag)

/-- The instructions of class 2 of two sources whose result comes at once (R217, R218). -/
def floatTable : List ((Fin 64 → Dst → Opd → Opd → Bool → Instr) × (FCtx → Nat → Nat → Nat → Lane)) :=
  [ (.fadd, fun k x y _ => (nanLane2 k.f (k.dec x) (k.dec y)).getD (k.rnd (sumV k.mode [k.dec x, k.dec y]))),
    (.fsub, fun k x y _ => (nanLane2 k.f (k.dec x) (k.dec y)).getD (k.rnd (sumV k.mode [k.dec x, (k.dec y).neg']))),
    (.fmul, fun k x y _ => (nanLane2 k.f (k.dec x) (k.dec y)).getD (k.rnd ((k.dec x).mulV (k.dec y)))),
    (.fmin, fun k x y _ => laneFminmax true k x y),
    (.fmax, fun k x y _ => laneFminmax false k x y) ]

/-- Those of one source (R219). -/
def floatOne : List ((Fin 64 → Dst → Opd → Instr) × (FCtx → Nat → Lane)) :=
  [ (.fabs, fun k x => ⟨if (k.dec x).isZero then 0 else x % 2 ^ (k.f.w - 1), 0⟩),
    (.fneg, fun k x => ⟨k.f.signBit (!(k.dec x).isNeg) + (if (k.dec x).isZero then 0 else x % 2 ^ (k.f.w - 1)), 0⟩),
    (.fcls, laneFcls), (.ffrc, laneFfrc), (.frnd, laneFrnd) ]

/-- A late result: the lanes computed now, delivered `lat` cycles on (R224). -/
def late (adm : Fmt → Option FFmt) (d : Dst) (bc : Bool) (lat : Nat) (op : FCtx → Nat → Nat → Nat → Lane) (s : State)
    (bt : Beat) : State × List (Nat × Token) :=
  let v := bt.fpResult adm bc bt.bb.inFmt op
  (bt.deliverLate s d v.1 bt.T (v.2 ||| bt.mismatchFlag) lat, [])

/-- The functions of class 2 and their latencies (R222-R224). -/
def fn1Table : List ((Fin 64 → Dst → Opd → Instr) × Fn1 × Nat) :=
  [ (.frcp, .rcp, 10), (.frsq, .rsq, 12), (.fexp2, .exp2, 14), (.flog2, .log2, 16), (.fsin, .sin, 20), (.fcos, .cos, 20),
    (.ftanh, .tanh, 18) ]

/-- Four datapath cycles for FP64, one for another format (R224). -/
def four64 (_ : State) (bt : Beat) : Nat := if bt.F = some .fp64 then 4 else 1

end Sys2Proof.Spec

/-- R217-R219: the instructions of class 2 whose result comes at once complete with the lane results of their tables
at every beat: one exact operation and one rounding, the third operand of FFMA and FFMS read from the destination
register, FSCL's counts from source B.  The model's choice: the flag of FFMA and FFMS on zero times infinity plus a NaN
(Config.fmaZeroInfNaN, log 9, DESIGN CHOICE), which NaN comes back (log 16, DEDUCED), FSCL's source B read whole and the flush
of FABS and FNEG (log 18, DEDUCED).
Completes: FADD, FSUB, FMUL, FFMA, FFMS, FMIN, FMAX, FABS, FNEG, FCLS, FSCL, FFRC, FRND. -/
def Obligations.FloatLaneResults : Prop :=
  open Sys2Proof Machine Spec in
  (∀ r ∈ floatTable, ∀ t d a b bc, Completes (r.1 t d a b bc) t a b none d.outs one_ (flanes wideFmt d bc r.2)) ∧
  (∀ r ∈ floatOne, ∀ t d a, Completes (r.1 t d a) t a none_ none d.outs one_ (flanes wideFmt d false fun k x _ _ => r.2 k x)) ∧
  (∀ t d a b bc, Completes (.ffma t d a b bc) t a b (some d) [] one_
    (flanes wideFmt (.g d) bc (laneFma Config.fmaZeroInfNaN false))) ∧
  (∀ t d a b bc, Completes (.ffms t d a b bc) t a b (some d) [] one_
    (flanes wideFmt (.g d) bc (laneFma Config.fmaZeroInfNaN true))) ∧
  (∀ t d a b bc, Completes (.fscl t d a b bc) t a b none d.outs one_ fun s bt =>
    let v := bt.fpResult wideFmt bc (fun _ => bt.bb.bits) fun k x y _ => laneFscl k x (sintOf k.f.w y)
    bt.deliver s d v.1 bt.T v.2)

/-- R207, R209, R220: a compare of class 1 or 2 completes, its predicate written once, after the last beat of its firing, with
1 where the test held in every lane of every beat, else 0; a format it does not admit (R179, R214) and a poison operand
(R181) give 0; a NaN makes every test of class 2 false but that of FCMPUN.
Completes: CMPEQ, CMPNE, CMPLT, CMPLE, CMPLTU, CMPLEU, FCMPEQ, FCMPLT, FCMPLE, FCMPUN. -/
def Obligations.Compares : Prop :=
  open Sys2Proof Machine Spec in
  (∀ r ∈ cmpTable, ∀ t d a b bc, CompletesAtLast (r.1 t d a b bc) t a b none []
    (compared d fun bt => bt.intTest r.2.1 bc r.2.2)) ∧
  (∀ r ∈ ([(Instr.fcmpeq, FCmp.eq), (.fcmplt, .lt), (.fcmple, .le), (.fcmpun, .un)] :
      List ((Fin 64 → Fin 8 → Opd → Opd → Bool → Instr) × FCmp)),
    ∀ t d a b bc, CompletesAtLast (r.1 t d a b bc) t a b none [] (compared d fun bt => bt.fpTest bc r.2))

/-- R222-R224: the divisions, roots and functions of class 2 complete at once with their result under way: computed in the
lanes, due after the latency of its instruction and format; FSQRT and FDIV of FP64 hold the datapath for four cycles.
Completes: FRCP, FRSQ, FSQRT, FDIV, FEXP2, FLOG2, FSIN, FCOS, FTANH. -/
def Obligations.LateFloatResults : Prop :=
  open Sys2Proof Machine Spec in
  (∀ r ∈ fn1Table, ∀ t d a, Completes (r.1 t d a) t a none_ none d.outs one_
    (late narrowFmt d false r.2.2 fun k x _ _ => fn1Lane r.2.1 k.f k.flush k.mode x)) ∧
  (∀ t d a, Completes (.fsqrt t d a) t a none_ none d.outs four64 fun s bt =>
    late wideFmt d false (if bt.F = some .fp64 then 36 else 12) (fun k x _ _ => fn1Lane .sqrt k.f k.flush k.mode x) s bt) ∧
  (∀ t d a b bc, Completes (.fdiv t d a b bc) t a b none d.outs four64 fun s bt =>
    late wideFmt d bc (if bt.F = some .fp64 then 40 else 14) (fun k x y _ => laneFdiv k x y) s bt)

/-- R221: FTOI and ITOF complete with every lane converted from F to the format of palette entry B[2:0], one rounding in
the section's mode; a pair that R221 does not list gives zeros with tag T and invalid.
Completes: FTOI, ITOF. -/
def Obligations.FloatIntegerConversions : Prop :=
  open Sys2Proof Machine Spec in
  ∀ r ∈ ([(Instr.ftoi, fun f g => ftoiPair f == some g), (.itof, fun f g => ftoiPair g == some f)] :
    List ((Fin 64 → Dst → Opd → Opd → Instr) × (Fmt → Fmt → Bool))),
  ∀ t d a b, Completes (r.1 t d a b) t a b none d.outs one_ fun s bt =>
    let tt : BitVec 3 := bt.bb.bits.setWidth 3
    match bt.F, palFmt bt.pal tt.toNat with
    | some f, some g =>
      if r.2 f g then
        let ls := (List.range f.lanes).map fun i =>
          convertLane f g bt.flush bt.mode 0 (laneBits (bt.a.inFmt f) f.laneW i)
        bt.deliver s d (ofLanes g.laneW (ls.map Lane.bits)) tt (ls.foldl (fun fl r => fl ||| r.fl) 0)
      else bt.deliver s d 0 bt.T Flags.invalid
    | _, _ => bt.deliver s d 0 bt.T Flags.invalid

namespace Sys2Proof.Spec
open Machine

/-- The result of a format an instruction does not admit: zeros with tag T, and invalid (R179, R214). -/
def refused (d : Dst) (s : State) (bt : Beat) : State × List (Nat × Token) := bt.deliver s d 0 bt.T Flags.invalid

/-- A result with a tag and flags of its own. -/
def give (d : Dst) (v : Word) (tag : BitVec 3) (fl : Flags) (s : State) (bt : Beat) : State × List (Nat × Token) :=
  bt.deliver s d v tag fl

/-- The accumulator after one token of MAC, MACN or MACZ, and the flags: the lanes of another type read zero (R230); lane
N j + c takes one exact sum rounded once, for every column c (R229). -/
def worked (op : MacOp) (ca cb : Fin 8) (f : Fmt) (y : Elem) (n : Fin 4) (bt : Beat) : Acc × Flags :=
  let p := pairOf f y.mb ca.val cb.val
  let r := (y.acc[n]).retype p.ty (op != .macz)
  let m := macColumns op bt.flush bt.mode p.ty y.mb.n (bt.cx.toNat / 256 % (p.ty.lanes / y.mb.n))
    (colTerms f bt.flush (bt.a.inFmt f) y.mb p) r.1 (List.range y.mb.n)
  (m.1, r.2 ||| m.2)

/-- MAC, MACN and MACZ into an accumulator; a format they do not admit leaves it and is invalid (R214, R229). -/
def brick (op : MacOp) (n : Fin 4) (ca cb : Fin 8) (s : State) (bt : Beat) : State × List (Nat × Token) :=
  match bt.F with
  | some f =>
    if macFmt f then
      let m := worked op ca cb f (s.elem bt.u bt.e) n bt
      (bt.raise (bt.mod s fun y => y.setAcc n m.1) (m.2 ||| bt.poisonFlag), [])
    else (bt.raise s Flags.invalid, [])
  | none => (bt.raise s Flags.invalid, [])

/-- Its datapath cycles: those of the pairing (R227, R229). -/
def brickCycles (ca cb : Fin 8) (s : State) (bt : Beat) : Nat :=
  match bt.F with
  | some f => if macFmt f then (pairOf f (s.elem bt.u bt.e).mb ca.val cb.val).q else 1
  | none => 1

/-- The cycle at which a beat's datapath time begins. -/
def begins (s : State) (bt : Beat) : Nat := max (s.elem bt.u bt.e).busy s.clk.cyc

/-- A load of the micro-block (R228, R234): at its first beat the control word's k, N, format and block codes; at every beat,
if the control word is loadable, the token's lanes as the next weights; the load holds the datapath until its beat is over. -/
def loaded : Effect := fun s bt c =>
  let w := if bt.b = 0 then bt.bb.bits else c.ws.headD 0
  let st := wldStart bt.pal (s.elem bt.u bt.e).cfg.systolic w
  let s := if bt.b = 0 then bt.raise (bt.mod s fun y => { y with mb := st.1 }) st.2.2 else s
  let wrong := match bt.a.tag with
    | some k => k != BitVec.ofNat 3 (w.toNat / 256)
    | none => false
  let s :=
    if st.2.1 then
      bt.raise (bt.mod s fun y => { y with mb := wldLanes y.mb bt.b (bt.a.inFmt st.1.fmt) })
        (if wrong then Flags.invalid else 0)
    else s
  (bt.mod (bt.raise s bt.poisonFlag) fun y => { y with wldBusy := begins s bt + 1 }, [], { c with ws := [w] })

/-- ACRD (R235): lanes of the accumulator times the scale B[31:0], in the format of palette entry B[34:32], from lane
B[55:48] plus the lanes of the beats before, delivered late; under `.sr` the element's stochastic state moves on. -/
def readOut (d : Dst) (n : Fin 4) (sr : Bool) (s : State) (bt : Beat) : State × List (Nat × Token) :=
  let b := bt.bb.bits.toNat
  let t : BitVec 3 := BitVec.ofNat 3 (b / 2 ^ 32)
  match palFmt bt.pal t.toNat with
  | some g =>
    if acrdFmt g then
      let y := s.elem bt.u bt.e
      let r := acrdLanes y.acc[n] (FFmt.fp32.decode bt.flush (b % 2 ^ 32)) g bt.flush bt.mode sr (b / 2 ^ 48 % 256 + bt.b * g.lanes)
        y.sr (List.range g.lanes)
      (bt.deliverLate (bt.mod s fun y => { y with sr := r.2.2 }) d (ofLanes g.laneW r.1) t r.2.1 3 (some n), [])
    else (bt.deliverLate s d 0 bt.T Flags.invalid 3 (some n), [])
  | none => (bt.deliverLate s d 0 bt.T Flags.invalid 3 (some n), [])

/-- The first poison operand met so far (R246). -/
def firstPoison (bt : Beat) (c : Carry) : Option Token :=
  match c.poison with
  | some k => some k
  | none => bt.poison?

/-- The delivery of a firing that delivers once: an output's token is the copy of the first poison operand (R181, R246). -/
def deliverLast (d : Dst) (p : Option Token) (v : Word) (tag : BitVec 3) (fl : Flags) (s : State) (bt : Beat) :
    State × List (Nat × Token) :=
  match d, p with
  | .out o, some k => (bt.raise s (fl ||| bt.poisonFlag), (outsOf o).map fun j => (j, k))
  | _, _ => bt.deliver s d v tag fl

/-- The state and the sends of a beat, and what the firing carries on. -/
def andThen (r : State × List (Nat × Token)) (c : Carry) : State × List (Nat × Token) × Carry := (r.1, r.2, c)

/-- One beat of CVT: its lanes, their tag and flags, the state, and the payload under way (R237): the lanes of the window
converted into the destination's format, over the destination's lanes, or under step 1 over what the firing has gathered;
RAW64 moves the payload whole; what CVT does not convert gives zeros with tag T and invalid. -/
def cvtLanesOf (d : Dst) (sr : Bool) (s : State) (bt : Beat) (c : Carry) : Word × BitVec 3 × Flags × State × List Word :=
  let k := CvtCtl.of bt.bb.bits
  let base : Word := match d with
    | .g _ => bt.cap.dst.val
    | _ => 0
  match bt.F, palFmt bt.pal k.t.toNat with
  | some f, some g =>
    if k.step = 3 then (0, bt.T, Flags.invalid, s, c.ws)
    else if f = .raw64 ∨ g = .raw64 then (bt.a.inFmt f, k.t, 0, s, [bt.a.inFmt f])
    else if cvtPair f g then
      let n := if k.cnt = 0 then min (f.lanes - k.sa) (g.lanes - k.da) else k.cnt
      let start := if k.step = 1 ∧ bt.b ≠ 0 then c.ws.headD base else base
      let r := cvtLanes f g bt.flush bt.mode sr (bt.a.inFmt f) (k.sa + if k.step = 2 then n * bt.b else 0)
        (k.da + if k.step = 1 then n * bt.b else 0) start (s.elem bt.u bt.e).sr (List.range n)
      (r.1, k.t, r.2.1, bt.mod s fun y => { y with sr := r.2.2 }, [r.1])
    else (0, bt.T, Flags.invalid, s, c.ws)
  | _, _ => (0, bt.T, Flags.invalid, s, c.ws)

/-- CVT: under step 1 one delivery after the last beat, else one at every beat (R237, R246). -/
def converted (d : Dst) (sr : Bool) : Effect := fun s bt c =>
  let v := cvtLanesOf d sr s bt c
  let step := (CvtCtl.of bt.bb.bits).step
  let c := { c with ws := v.2.2.2.2, poison := if step = 1 then firstPoison bt c else c.poison }
  if step ≠ 1 then andThen (bt.deliver v.2.2.2.1 d v.1 v.2.1 v.2.2.1) c
  else if bt.last then andThen (deliverLast d c.poison v.1 v.2.1 v.2.2.1 v.2.2.2.1 bt) c
  else (bt.raise v.2.2.2.1 (v.2.2.1 ||| bt.poisonFlag), [], c)

/-- The values of the lanes of source A. -/
def laneList (bt : Beat) (f : Fmt) : List Nat := (List.range f.lanes).map fun i => laneBits (bt.a.inFmt f) f.laneW i

/-- RMAX and RSUM (R244, R246): the running value begins with lane 0 of a destination register present at the first beat
and goes through the lanes of every beat; after the last beat it stands in every lane; a beat whose format is not admitted
makes that zeros with tag T and invalid. -/
def reduced (adm : Fmt → Bool) (step : Fmt → Bool → RMode → Option Nat → Nat → Lane) (d : Dst) : Effect := fun s bt c =>
  let p := firstPoison bt c
  match bt.F.filter adm with
  | none =>
    let c := { c with poison := p, ok := false }
    if bt.last then andThen (deliverLast d p 0 bt.T Flags.invalid s bt) c
    else (bt.raise s (Flags.invalid ||| bt.poisonFlag), [], c)
  | some f =>
    let start : Option Nat :=
      if bt.b ≠ 0 then c.ws.head?.map BitVec.toNat
      else match d with
        | .g _ => if bt.cap.dst.present then some (laneBits bt.cap.dst.val f.laneW 0) else none
        | _ => none
    let r := redFold (step f bt.flush bt.mode) start (laneList bt f)
    let v := r.1.getD 0
    let k := { c with poison := p, ws := [BitVec.ofNat 64 v] }
    if bt.last then
      andThen (if c.ok then deliverLast d p (genLanes f fun _ => v) bt.T r.2 s bt else deliverLast d p 0 bt.T Flags.invalid s bt) k
    else (bt.raise s (r.2 ||| bt.poisonFlag), [], k)

/-- RSEX (R245): the pair begins with a destination register present at the first beat, else (-infinity, +0), and takes the
lanes of every beat; after the last beat the register receives it with the twin tag of FP32. -/
def softmax (n : Fin 8) : Effect := fun s bt c =>
  let start : Word :=
    if bt.b ≠ 0 then c.ws.headD 0 else if bt.cap.dst.present then bt.cap.dst.val else 0xFF800000
  match bt.F.filter fun f => (narrowFmt f).isSome, twinTag bt.pal .fp32 with
  | some f, some tw =>
    let r := rsexFold Config.fmaZeroInfNaN bt.flush (laneBits start 32 0) (laneBits start 32 1)
      ((laneList bt f).map (toFp32 f bt.flush))
    let v := ofLanes 32 [r.1, r.2.1]
    let k := { c with ws := [v] }
    if bt.last then
      andThen (if c.ok then bt.deliver s (.g n) v tw r.2.2 else bt.deliver s (.g n) 0 bt.T Flags.invalid) k
    else (bt.raise s (r.2.2 ||| bt.poisonFlag), [], k)
  | _, _ =>
    let k := { c with ok := false, ws := [start] }
    if bt.last then andThen (bt.deliver s (.g n) 0 bt.T Flags.invalid) k
    else (bt.raise s (Flags.invalid ||| bt.poisonFlag), [], k)

/-- QENC (R241): the weights of all beats in order, missing ones +0; after the last beat the block is coded under the scale
that source B named at the first, and four tokens leave on each output, the block code in the head's coordinate, a poison
operand's copy in their place (R246); N times the lanes of F other than 64 is invalid. -/
def coded (d : ODst) (sr : Bool) (f : Fmt) (tw : BitVec 3) : Effect := fun s bt c =>
  let c := if bt.b = 0 then { c with n := bt.bb.bits.toNat % 2 ^ 32, tok := some ⟨0, 0, bt.cx, 0⟩ } else c
  let all := c.ws ++ (laneList bt f).map fun v => BitVec.ofNat 64 (toFp32 f bt.flush v)
  let p := firstPoison bt c
  let c := { c with ws := all, poison := p }
  let s1 := bt.raise s bt.poisonFlag
  if bt.last then
    let xs := ((all ++ List.replicate 64 (0 : Word)).take 64).map fun w => FFmt.fp32.decode bt.flush w.toNat
    let r := qencBlock sr (s1.elem bt.u bt.e).sr (FFmt.fp32.decode bt.flush c.n) xs
    let co := ((c.tok.map Token.coord).getD 0) &&& 0xFFFFFF00
    let toks : List Token := (List.range 4).map fun m => p.getD
      ⟨if m = 0 then 1 else if m = 3 then 2 else 0, tw, if m = 0 then co ||| BitVec.ofNat 32 r.1 else co,
       ofLanes 4 ((r.2.1.drop (16 * m)).take 16)⟩
    (bt.raise (bt.mod s1 fun y => { y with sr := r.2.2.2 }) (r.2.2.1 ||| if bt.n * f.lanes = 64 then 0 else Flags.invalid),
     (toks.map fun k => (outsOf d).map fun o => (o, k)).flatten, c)
  else (s1, [], c)

end Sys2Proof.Spec

/-- R228-R231, R235, R236: the brick instructions complete: MAC, MACN and MACZ work source A into an
accumulator at slot cx[31:8], MAC to an output feeds the grid, WLD loads the micro-block, ACRD reads lanes out late, ACCLR
and ACMV clear and copy an accumulator.
Completes: MAC, MACN, MACZ, WLD, ACRD, ACCLR, ACMV. -/
def Obligations.BrickInstructions : Prop :=
  open Sys2Proof Machine Spec in
  (∀ t n a wa wb, Completes (.mac t (.acc n) a wa wb) t a none_ none [] (brickCycles wa wb) (brick .mac n wa wb)) ∧
  (∀ t o a wa wb, Completes (.mac t (.out o) a wa wb) t a none_ none (outsOf o) one_ fun s bt =>
    let k := bt.fwd bt.a
    (s, sendFwd (outsOf o)
      (if k.isData then { k with coord := (k.coord &&& 0xFFFFFFC0) ||| BitVec.ofNat 32 (8 * wa.val + wb.val) } else k))) ∧
  (∀ t n a wa wb, Completes (.macn t n a wa wb) t a none_ none [] (brickCycles wa wb) (brick .macn n wa wb)) ∧
  (∀ t n a wa wb, Completes (.macz t n a wa wb) t a none_ none [] (brickCycles wa wb) (brick .macz n wa wb)) ∧
  (∀ t a b, CompletesAtLast (.wld t a b) t a b none [] loaded) ∧
  (∀ t d n b sr, Completes (.acrd t d n b sr) t none_ b none d.outs one_ (readOut d n sr)) ∧
  (∀ t n, Completes (.acclr t n) t none_ none_ none [] one_ fun s bt => (bt.mod s fun y => y.setAcc n {}, [])) ∧
  (∀ t n m, Completes (.acmv t n m) t none_ none_ none [] one_ fun s bt => (bt.mod s fun y => y.setAcc n y.acc[m], []))

/-- R237, R238, R240, R242, R243: CVT, SCALE, QDEC, PACK, UNPK, SHFL and BCST complete with the lanes their rules
give; a format they do not admit gives zeros with tag T and invalid.
Completes: CVT, QDEC, PACK, UNPK, SHFL, BCST, SCALE. -/
def Obligations.ConversionsAndLaneMoves : Prop :=
  open Sys2Proof Machine Spec in
  (∀ t d a b sr, Fires (.cvt t d a b sr) (form t a b d.reg? d.outs) (fun _ _ _ => True) one_ (converted d sr)) ∧
  (∀ t d a b, Completes (.scale t d a b) t a b none d.outs one_ fun s bt =>
    match bt.F with
    | some f =>
      if scaleFmt f then
        let ls := (laneList bt f).map (scaleLane f bt.flush bt.mode (bt.bb.bits.toNat % 256))
        give d (ofLanes f.laneW (ls.map Lane.bits)) bt.T (ls.foldl (fun fl r => fl ||| r.fl) 0) s bt
      else refused d s bt
    | none => refused d s bt) ∧
  (∀ t d a b, Completes (.qdec t d a b) t a b none d.outs one_ fun s bt =>
    match bt.F, twinTag bt.pal .int16 with
    | some .qn4, some tw =>
      give d (ofLanes 16 ((List.range 4).map fun j =>
        toBitsN 16 (qn4 (laneBits (bt.a.inFmt .qn4) 4 (4 * (bt.bb.bits.toNat % 4) + j))))) tw 0 s bt
    | _, _ => refused d s bt) ∧
  (∀ t d a b, Completes (.pack t d a b) t a b none d.outs one_ fun s bt =>
    match bt.F.bind fun f => (packTo f).bind fun g => (twinTag bt.pal g).map fun tw => (f, g, tw) with
    | none => refused d s bt
    | some (f, g, tw) =>
      let vs := ([bt.a, bt.bb].map fun o => (List.range f.lanes).map fun i => intLane f (laneBits (o.inFmt f) f.laneW i)).flatten
      give d (ofLanes g.laneW (vs.map fun v => toBitsN g.laneW (max g.loVal (min v g.hiVal)))) tw
        (bt.mismatchFlag ||| if vs.all fun v => decide (g.loVal ≤ v ∧ v ≤ g.hiVal) then 0 else Flags.saturation) s bt) ∧
  (∀ t d a b, Completes (.unpk t d a b) t a b none d.outs one_ fun s bt =>
    match bt.F.bind fun f => (unpkTo f).bind fun g => (twinTag bt.pal g).map fun tw => (f, g, tw) with
    | none => refused d s bt
    | some (f, g, tw) =>
      give d (ofLanes g.laneW ((List.range (f.lanes / 2)).map fun i => toBitsN g.laneW
        (intLane f (laneBits (bt.a.inFmt f) f.laneW (bt.bb.bits.toNat % 2 * (f.lanes / 2) + i))))) tw 0 s bt) ∧
  (∀ r ∈ ([(Instr.shfl, fun w i => laneBits w 4 i), (.bcst, fun w _ => laneBits w 4 0)] :
      List ((Fin 64 → Dst → Opd → Opd → Instr) × (Word → Nat → Nat))),
    ∀ t d a b, Completes (r.1 t d a b) t a b none d.outs one_ fun s bt =>
      match bt.F with
      | none => refused d s bt
      | some f =>
        let wl := moveLanes f
        give d (ofLanes wl.1 ((List.range wl.2).map fun i =>
          if r.2 bt.bb.bits i < wl.2 then laneBits (bt.a.inFmt f) wl.1 (r.2 bt.bb.bits i) else 0)) bt.T 0 s bt)

/-- R244-R246: RMAX, RSUM and RSEX complete with one delivery after the last beat, over the lanes of every beat in order.
The model's choice: RSEX's flag on zero times infinity plus a NaN (Config.fmaZeroInfNaN, log 9, DESIGN CHOICE), and that flags
come from admitted beats only and RSEX reads flushed operands (log 19, DEDUCED).
Completes: RMAX, RSUM, RSEX. -/
def Obligations.Reductions : Prop :=
  open Sys2Proof Machine Spec in
  (∀ t d a, CompletesAtLast (.rmax t d a) t a none_ d.reg? d.outs (reduced (fun f => f.isWide || f.isInt) rmaxStep d)) ∧
  (∀ t d a, CompletesAtLast (.rsum t d a) t a none_ d.reg? d.outs (reduced Fmt.isWide rsumStep d)) ∧
  (∀ t n a, CompletesAtLast (.rsex t n a) t a none_ (some n) [] (softmax n))

/-- R239: MXS completes: a data head is scaled by the shared exponent of its channel, which a burst head brings; a mark head
is forwarded unchanged.
Completes: MXS. -/
def Obligations.SharedExponentScaling : Prop :=
  open Sys2Proof Machine Spec in
  ∀ t d a pk, Runs (.mxs t d a pk) (form t ⟨.ch a, pk⟩ none_ none d.outs) (fun _ bt => bt.a.tok.isSome = true) one_ fun s bt =>
    match bt.a.tok with
    | none => (s, [])
    | some k =>
      if k.isData = false then bt.forward s d bt.a
      else
        match bt.F with
        | none => refused d s bt
        | some f =>
          if mxsEntry bt.pal bt.T.toNat then
            let s := if k.isHead then bt.mod s fun y => { y with mx := y.mx.set a (k.coord.setWidth 8) } else s
            let ls := (List.range f.lanes).map fun i =>
              scaleLane f bt.flush bt.mode ((s.elem bt.u bt.e).mx[a]).toNat (laneBits k.payload f.laneW i)
            let v := ofLanes f.laneW (ls.map Lane.bits)
            let s := bt.raise s (ls.foldl (fun fl r => fl ||| r.fl) 0)
            match d with
            | .g n => (bt.mod s fun y => y.setG n v bt.T, [])
            | .out o => (s, (outsOf o).map fun j => (j, ⟨k.mark, bt.T, k.coord &&& 0xFFFFFF00, v⟩))
            | .z => (s, [])
          else refused d s bt

/-- R241, R246: QENC completes with four tokens on each output after the last beat, which holds the datapath for five
cycles; a format it does not admit gives zeros with tag T and invalid.  The model's choice: a poison operand gives four
copies, as many as tokens would have left (log 26, DEDUCED).
Completes: QENC. -/
def Obligations.BlockCoding : Prop :=
  open Sys2Proof Machine Spec in
  (∀ t d a b sr f tw,
    Fires (.qenc t d a b sr) { form t a b none (outsOf d) with room := fun last => if last then 4 else 0 }
      (fun _ bt _ => bt.F = some f ∧ (f = .fp32 ∨ f = .fp16 ∨ f = .bf16) ∧ twinTag bt.pal .qn4 = some tw)
      (fun _ bt => if bt.last then 5 else 1) (coded d sr f tw)) ∧
  (∀ t d a b sr, Runs (.qenc t d a b sr) (form t a b none (outsOf d))
    (fun _ bt => (∀ f, bt.F = some f → ¬(f = .fp32 ∨ f = .fp16 ∨ f = .bf16)) ∨ twinTag bt.pal .qn4 = none) one_ (refused (.out d)))

namespace Sys2Proof.Spec
open Machine

/-- The address of an access to a memory tile: the low 32 bits of source A (R250). -/
def tileAddr (bt : Beat) : Nat := bt.a.bits.toNat % 2 ^ 32

/-- What a beat adds to its address: 8 bytes a beat, unless the address comes from a channel (R251). -/
def stride (a : Src) (bt : Beat) : Nat := if a.chan?.isSome then 0 else 8 * bt.b

/-- The tile and the word that the address of a beat leads to, of a role that admits the operation (R113, R251, R255). -/
def spot (op : MemOp) (a : Src) (s : State) (bt : Beat) : Option (Nat × Nat) :=
  match (s.cfgOf bt.u).access op (tileAddr bt) (stride a bt) with
  | .at_ tl w => some (tl, w)
  | .bad _ => none

/-- What an access at a spot would read has failed: its word, or for POP the token at the head of its FIFO (R383). -/
def broken (op : MemOp) (x : UnitSt) (p : Nat × Nat) : Bool :=
  (op.reads && (x.tile p.1).bad.contains p.2) || (op == .pop && !(x.tile p.1).fifo.isEmpty && (x.tile p.1).badFifo.contains 0)

/-- The address leads to a word, the network behind the element's port has room, and nothing that has failed is read (R253,
R383). -/
def leads (op : MemOp) (port : Nat) (a : Src) (s : State) (bt : Beat) : Prop :=
  ∃ p x, spot op a s bt = some p ∧ s.unit? bt.u = some x ∧ State.portBacked x bt.e port = false ∧ broken op x p = false

/-- The effect of an access at the spot its address leads to. -/
def atSpot (op : MemOp) (a : Src) (eff : Nat → Nat → State → Beat → State × List (Nat × Token)) (s : State) (bt : Beat) :
    State × List (Nat × Token) :=
  match spot op a s bt with
  | some (tl, w) => eff tl w s bt
  | none => (s, [])

/-- The request of an access (R250, R253). -/
def request (op : MemOp) (port : Nat) (dst : Bool) (tl w : Nat) (s : State) (bt : Beat) : MemReq where
  id := s.nextId
  e := bt.e
  slot := bt.slot
  port := port
  stamp := s.stamps bt
  tile := tl
  word := w
  op := op
  flush := bt.flush
  beat := bt.b
  hasDst := dst

/-- The latency of an access that returns a value: `lat` cycles and the distance to its tile (R253). -/
def latencyTo (lat tl : Nat) (s : State) (bt : Beat) : Nat :=
  match s.unit? bt.u with
  | some x => lat + x.hops bt.e tl
  | none => lat

/-- An access that returns a value: its result is put under way, its request goes to the tile (R250-R254). -/
def reading (d : Dst) (tag : Beat → BitVec 3) (lat tl : Nat) (r : State → Beat → MemReq) (s : State) (bt : Beat) :
    State × List (Nat × Token) :=
  ((bt.promise (bt.raise s.bumpId bt.poisonFlag) d (tag bt) (latencyTo lat tl s bt) s.nextId).issue bt.u (r s bt) s.deferring, [])

/-- An access that returns none. -/
def storing (r : State → Beat → MemReq) (s : State) (bt : Beat) : State × List (Nat × Token) :=
  ((bt.raise s.bumpId bt.poisonFlag).issue bt.u (r s bt) s.deferring, [])

/-- The word field of a request: a FIFO has one (R256). -/
def wordOf (op : MemOp) (w : Nat) : Nat := if op = .push ∨ op = .pop then 0 else w

/-- Destination z asks for no value. -/
def wants (d : Dst) : Bool := decide (d ≠ .z)

/-- A load, or POP. -/
def loading (op : MemOp) (d : Dst) (a : Src) : State → Beat → State × List (Nat × Token) :=
  atSpot op a fun tl w => reading d addrTag 4 tl (request op 0 (wants d) tl (wordOf op w))

/-- A store through port `n`: the whole payload of source B. -/
def wordStore (op : MemOp) (n : Nat) (a : Src) : State → Beat → State × List (Nat × Token) :=
  atSpot op a fun tl w => storing fun s bt => { request op n false tl w s bt with data := bt.bb.bits }

/-- PUSH: a channel's token whole, anything else a data token with tag T and the beat's coordinate (R256). -/
def pushing (n : Nat) (a : Src) : State → Beat → State × List (Nat × Token) :=
  atSpot .push a fun tl _ => storing fun s bt => { request .push n false tl 0 s bt with
    tok := match bt.bb.tok with
      | some k => k
      | none => ⟨0, bt.T, bt.cx, bt.bb.bits⟩ }

/-- The atomics of class 4 whose destination may be any, and the formats each admits (R258, R260). -/
def atomics : List ((Fin 64 → Dst → Opd → Opd → Instr) × MemOp × (Fmt → Bool)) :=
  [ (.amoadd, .amoAdd, Fmt.isInt), (.amomin, .amoMin, Fmt.isInt), (.amomax, .amoMax, Fmt.isInt),
    (.amoand, .amoAnd, fun _ => true), (.amoor, .amoOr, fun _ => true), (.amoxor, .amoXor, fun _ => true),
    (.amoswp, .amoSwp, fun _ => true),
    (.famoadd, .famoAdd, Fmt.isWide), (.famomin, .famoMin, Fmt.isWide), (.famomax, .famoMax, Fmt.isWide) ]

/-- The atomics that take source B whole (R258). -/
def whole (op : MemOp) : Bool := op == .amoAnd || op == .amoOr || op == .amoXor || op == .amoSwp

/-- F is a format the atomic admits. -/
def admitted (adm : Fmt → Bool) (f : Fmt) (bt : Beat) : Prop := bt.F = some f ∧ adm f = true

/-- An atomic in format F: its old word is under way with tag T, its request carries source B, whole or in F's lanes, and what
its destination register held (R253, R258-R260). -/
def atomicIn (op : MemOp) (f : Fmt) (d : Dst) (a : Src) : State → Beat → State × List (Nat × Token) :=
  atSpot op a fun tl w => reading d Beat.T 6 tl fun s bt =>
    { request op 0 (wants d) tl w s bt with
      data := if whole op || op == .amoCas then bt.bb.bits else bt.bb.inFmt f, fmt := some f, exp := bt.cap.dst.val }

/-- An atomic in a format it does not admit: zeros with tag T, late, and invalid; no request (R258). -/
def atomicZero (op : MemOp) (d : Dst) (a : Src) : State → Beat → State × List (Nat × Token) :=
  atSpot op a fun tl _ s bt => (bt.deliverLate s d 0 bt.T Flags.invalid (latencyTo 6 tl s bt), [])

/-- An atomic in whatever format F is. -/
def atomic (op : MemOp) (adm : Fmt → Bool) (d : Dst) (a : Src) (s : State) (bt : Beat) : State × List (Nat × Token) :=
  match bt.F.filter adm with
  | some f => atomicIn op f d a s bt
  | none => atomicZero op d a s bt

/-- Its address leads to a word, which can be read where the format is admitted. -/
def atomicGoes (op : MemOp) (adm : Fmt → Bool) (a : Src) (s : State) (bt : Beat) : Prop :=
  (∃ p, spot op a s bt = some p) ∧ (bt.F.filter adm ≠ none → leads op 0 a s bt)

end Sys2Proof.Spec

/-- R250-R256: where the address of a load or store of class 4 leads to a word of a tile that admits it, the instruction
completes: a load's result is put under way with the tag A[34:32], a request with the whole payload of source B (for PUSH
the token itself) goes to the tile.
Completes: LD, ST, LDS, LDE, STF, STE, PUSH, POP. -/
def Obligations.TileAccessesComplete : Prop :=
  open Sys2Proof Machine Spec in
  (∀ r ∈ ([(Instr.ld, MemOp.ld), (.lds, .lds), (.lde, .lde), (.pop, .pop)] : List ((Fin 64 → Dst → Opd → Instr) × MemOp)),
    ∀ t d a, Runs (r.1 t d a) (form t a none_ none d.outs) (leads r.2 0 a.src) one_ (loading r.2 d a.src)) ∧
  (∀ r ∈ ([(Instr.st, MemOp.st), (.stf, .stf), (.ste, .ste)] :
      List ((Fin 64 → Fin 4 → Opd → Opd → Instr) × MemOp)),
    ∀ t (n : Fin 4) a b, Runs (r.1 t n a b) (form t a b none []) (leads r.2 n.val a.src) one_ (wordStore r.2 n.val a.src)) ∧
  (∀ t (n : Fin 4) a b, Runs (.push t n a b) (form t a b none []) (leads .push n.val a.src) one_ (pushing n.val a.src))

/-- R258-R260: an atomic of class 4 completes where its address leads to a word and F is a format it admits: its result,
the old word with tag T, is put under way, and its request carries source B in F's lanes, whole for AMOAND, AMOOR, AMOXOR,
AMOSWP and AMOCAS, and for AMOCAS the destination register as the expected word.  A format it does not admit delivers zeros with tag T and invalid, and no request goes.
Completes: AMOADD, AMOMIN, AMOMAX, AMOAND, AMOOR, AMOXOR, AMOSWP, AMOCAS, FAMOADD, FAMOMIN, FAMOMAX. -/
def Obligations.TileAtomicsComplete : Prop :=
  open Sys2Proof Machine Spec in
  (∀ r ∈ atomics, ∀ t d a b f,
    Runs (r.1 t d a b) (form t a b none d.outs) (fun s bt => leads r.2.1 0 a.src s bt ∧ admitted r.2.2 f bt) one_
      (atomicIn r.2.1 f d a.src)) ∧
  (∀ t n a b f,
    Runs (.amocas t n a b) (form t a b (some n) []) (fun s bt => leads .amoCas 0 a.src s bt ∧ bt.F = some f) one_
      (atomicIn .amoCas f (.g n) a.src)) ∧
  (∀ r ∈ atomics, ∀ t d a b,
    Runs (r.1 t d a b) (form t a b none d.outs)
      (fun s bt => (∃ p, spot r.2.1 a.src s bt = some p) ∧ ¬∃ f, admitted r.2.2 f bt) one_ (atomicZero r.2.1 d a.src)) ∧
  (∀ t n a b, Runs (.amocas t n a b) (form t a b (some n) [])
    (fun s bt => (∃ p, spot .amoCas a.src s bt = some p) ∧ bt.F = none) one_ (atomicZero .amoCas (.g n) a.src))

namespace Sys2Proof.Spec
open Machine

/-- The integer atomics and their lane results (R258). -/
def intAtomics : List (MemOp × (Int → Int → Int)) := [(.amoAdd, fun x y => x + y), (.amoMin, min), (.amoMax, max)]

/-- The floating atomics and their lane results where neither lane is a NaN: computed under RNE, subnormals kept (R260). -/
def floatAtomics : List (MemOp × (FCtx → Nat → Nat → Lane)) :=
  [ (.famoAdd, fun k x y => k.rnd (sumV .rne [k.dec x, k.dec y])), (.famoMin, laneFminmax true), (.famoMax, laneFminmax false) ]

/-- A lane of a floating atomic: of a NaN the default NaN, invalid only if one signals (R260). -/
def atomicLane (op : FCtx → Nat → Nat → Lane) (f : FFmt) (x y : Nat) : Lane :=
  let k : FCtx := ⟨f, false, .rne⟩
  if (k.dec x).isNaN = true ∨ (k.dec y).isNaN = true then
    ⟨f.defaultNaN, if (k.dec x).isSNaN = true ∨ (k.dec y).isSNaN = true then Flags.invalid else 0⟩
  else op k x y

end Sys2Proof.Spec

/-- R254, R256, R258-R260: what a tile does with a request whose condition holds: loads return the word, LDE makes it
empty, STF and STE write it and make it full, ST writes it and leaves its state; an atomic returns the old word and writes the
new one, lane by lane in its format or whole, with the flags of its lanes, and leaves the full bit; PUSH and POP work the FIFO
first in, first out, and leave every word and bit; every other word and its state stay. -/
def Obligations.TileOperations : Prop :=
  open Sys2Proof Machine Spec in
  ∀ (r : MemReq) (t : Tile),
    let o := tileApply r t
    let old := fun (f : Fmt) (i : Nat) => laneBits (t.word r.word) f.laneW i
    let arg := fun (f : Fmt) (i : Nat) => laneBits r.data f.laneW i
    (∀ w, w ≠ r.word → o.1.word w = t.word w ∧ o.1.isFull w = t.isFull w) ∧
    (r.op ≠ .lde → r.op ≠ .stf → r.op ≠ .ste → o.1.isFull r.word = t.isFull r.word) ∧
    (∀ p ∈ intAtomics, ∀ f, r.op = p.1 → r.fmt = some f → f.isInt = true →
      o.1.word r.word = genLanes f (fun i => toBitsN f.laneW (p.2 (intLane f (old f i)) (intLane f (arg f i)))) ∧
      o.2.1 = t.word r.word ∧ o.2.2.2 = 0) ∧
    (∀ p ∈ floatAtomics, ∀ f g, r.op = p.1 → r.fmt = some f → f.float? = some g →
      let ls := (List.range f.lanes).map fun i => atomicLane p.2 g (old f i) (arg f i)
      o.1.word r.word = ofLanes f.laneW (ls.map Lane.bits) ∧ o.2.1 = t.word r.word ∧
      o.2.2.2 = ls.foldl (fun a l => a ||| l.fl) 0) ∧
    (r.op = .ld ∨ r.op = .lds → o.1 = t ∧ o.2.1 = t.word r.word) ∧
    (r.op = .lde → o.1.word r.word = t.word r.word ∧ o.1.isFull r.word = false ∧ o.2.1 = t.word r.word) ∧
    (r.op = .st → o.1.word r.word = r.data ∧ o.1.isFull r.word = t.isFull r.word) ∧
    (r.op = .stf ∨ r.op = .ste → o.1.word r.word = r.data ∧ o.1.isFull r.word = true) ∧
    (r.op = .amoSwp → o.1.word r.word = r.data ∧ o.2.1 = t.word r.word) ∧
    (r.op = .amoCas → o.1.word r.word = (if t.word r.word = r.exp then r.data else t.word r.word) ∧ o.2.1 = t.word r.word) ∧
    (r.op = .amoAnd → o.1.word r.word = t.word r.word &&& r.data ∧ o.2.1 = t.word r.word) ∧
    (r.op = .amoOr → o.1.word r.word = t.word r.word ||| r.data ∧ o.2.1 = t.word r.word) ∧
    (r.op = .amoXor → o.1.word r.word = t.word r.word ^^^ r.data ∧ o.2.1 = t.word r.word) ∧
    (r.op = .push → o.1.fifo = t.fifo ++ [r.tok] ∧ o.1.words = t.words) ∧
    (r.op = .pop → ∀ k rest, t.fifo = k :: rest → o.1.fifo = rest ∧ o.2.2.1 = some k ∧ o.1.words = t.words)

namespace Sys2Proof.Spec
open Machine

/-- The address of a BUFQ or BUFSET names a buffer or is in raw form: it does not trap (R261). -/
def named (s : State) (bt : Beat) : Prop :=
  bufOf (tileAddr bt) = none ∨ (s.cfgOf bt.u).bufTrap (tileAddr bt) = none

/-- BUFQ: state and count of the named buffer; zero with invalid where the address is in raw form (R261). -/
def bufferState (d : Dst) (s : State) (bt : Beat) : State × List (Nat × Token) :=
  match bufOf (tileAddr bt), s.unit? bt.u with
  | some n, some x =>
    (bt.deliverLate s d (BitVec.ofNat 64 ((x.buf n).phase.code + 256 * (x.buf n).count)) (addrTag bt) 0 4, [])
  | _, _ => (bt.deliverLate s d 0 (addrTag bt) Flags.invalid 4, [])

/-- BUFSET: the change that R114 allows; any other request is ignored with invalid (R114, R261). -/
def bufferChange (s : State) (bt : Beat) : State × List (Nat × Token) :=
  let s := bt.raise s bt.poisonFlag
  match bufOf (tileAddr bt), s.unit? bt.u with
  | some n, some x =>
    match (x.buf n).request (bt.bb.bits.toNat % 4) with
    | some y => (s.modUnit bt.u fun x => x.setBuf n y, [])
    | none => (bt.raise s Flags.invalid, [])
  | _, _ => (bt.raise s Flags.invalid, [])

end Sys2Proof.Spec

/-- R261, R262, R134: BUFQ returns the state and count of the buffer its address names, BUFSET makes the change that R114
allows and is otherwise ignored with invalid: exactly empty to filling; filling, with no delivery still counted, to ready; ready
to draining; draining to empty.  FENCE sets a fence at everything issued before it.  Each completes.
Completes: BUFQ, BUFSET, FENCE. -/
def Obligations.BuffersAndFences : Prop :=
  open Sys2Proof Machine Spec in
  (∀ t d a, Runs (.bufq t d a) (form t a none_ none d.outs) named one_ (bufferState d)) ∧
  (∀ t a b, Runs (.bufset t a b) (form t a b none []) named one_ bufferChange) ∧
  (∀ t scope, Completes (.fence t scope) t none_ none_ none [] one_ fun s bt =>
    (bt.mod s fun y => { y with fences := (y.fences.filter fun f => !fenceDone s bt.u bt.e f) ++ [(scope, s.nextId)] }, [])) ∧
  (∀ (b c : BufSt) (want : Nat), b.request want = some c ↔
    (b.phase = .empty ∧ want = 1 ∧ c = { b with phase := .filling, byCmd := true }) ∨
    (b.phase = .filling ∧ b.count = 0 ∧ want = 2 ∧ c = { b with phase := .ready, byCmd := false }) ∨
    (b.phase = .ready ∧ want = 3 ∧ c = { b with phase := .draining }) ∨
    (b.phase = .draining ∧ want = 0 ∧ c = { b with phase := .empty }))

namespace Sys2Proof.Spec
open Machine

/-- The virtual address of a class 4 access, moved on beat by beat: 56 bits of source A (R250, R251). -/
def virtAddr (a : Src) (bt : Beat) : Nat := (bt.a.bits.toNat % 2 ^ 56 + stride a bt) % 2 ^ 56

/-- The tag of a load from a virtual address (R250). -/
def virtTag (bt : Beat) : BitVec 3 := (bt.a.bits >>> 56).setWidth 3

/-- The section caches: it has CB tiles and is not in window mode (R115, R116); the address is aligned (R265). -/
def caching (a : Src) (s : State) (bt : Beat) : Prop :=
  (s.cfgOf bt.u).cbTiles ≠ [] ∧ (s.cfgOf bt.u).window = false ∧ virtAddr a bt % 8 = 0

/-- The way that holds a line which is not still under way from the sweep. -/
def held? (x : UnitSt) (va : Nat) : Option Way :=
  match x.cache.filling? (lineOf va) with
  | some _ => none
  | none => x.cache.hit? va

/-- The word of a way at an address can be read (R383). -/
def readable (x : UnitSt) (va : Nat) : Prop := ∀ w, held? x va = some w → w.bad.contains (va / 8 % 32) = false

/-- A line that the cache does not hold waits for nothing and finds no way of its set free: every one is pinned (R115). -/
def crowded (x : UnitSt) (va : Nat) : Bool :=
  (x.cache.filling? (lineOf va)).isNone && x.cache.full x.cfg.cbTiles.length (sbOf va)

/-- LDC (R263). -/
def cacheLoad (d : Dst) (a : Src) (ef : Bool) (s : State) (bt : Beat) : State × List (Nat × Token) :=
  let va := virtAddr a bt
  match s.unit? bt.u with
  | none => (s, [])
  | some x =>
    match held? x va with
    | some way =>
      (bt.deliverLate (s.modCache bt.u fun k => k.touch va ef s.nextId).bumpId d (way.data.getD (va / 8 % 32) 0) (virtTag bt) 0
        (6 + cbHops x bt.e va), [])
    | none =>
      let s1 := bt.promise (bt.raise s bt.poisonFlag).bumpId d (virtTag bt) 0 s.nextId
      if crowded x va then (s1.sendItem bt.u bt.e bt.slot (s1.stamps bt) s.nextId (.ldw s.nextId) va [], [])
      else (cacheMiss s1 bt va { item := 0, e := bt.e, slot := bt.slot, wave := s1.stamps bt, store := false, va := va
                                 ef := ef, late := s.nextId }, [])

/-- STC (R264). -/
def cacheStore (a : Src) (ef : Bool) (s : State) (bt : Beat) : State × List (Nat × Token) :=
  let va := virtAddr a bt
  let s1 := bt.raise s bt.poisonFlag
  match s.unit? bt.u with
  | none => (s, [])
  | some x =>
    match held? x va with
    | some _ => ((s1.modCache bt.u fun k => k.storeWord va bt.bb.bits ef s1.nextId).bumpId, [])
    | none =>
      if crowded x va then (s1.sendItem bt.u bt.e bt.slot (s1.stamps bt) s1.nextId .wb va [(0, bt.bb.bits)], [])
      else (cacheMiss s1 bt va { item := 0, e := bt.e, slot := bt.slot, wave := s1.stamps bt, store := true, va := va
                                 data := bt.bb.bits, ef := ef }, [])

/-- The windows of a section once the one that takes an address has been chosen, and its place among them: the first that holds
the address or is at most 64 KiB behind it; else a new one at its line, of four for each CB tile, in place of the least recently
used that no read waits at (R116; log 20). -/
def windowFor (x : UnitSt) (va id : Nat) : Option (List CbWin × Nat) :=
  let ws := x.cache.wins.getD 0 []
  let fresh : CbWin := { base := lineOf va, tail := lineOf va, head := lineOf va, lastRead := va, used := id }
  match winFind ws va with
  | some i => some (ws, i)
  | none =>
    if ws.length < 4 * x.cfg.cbTiles.length then some (ws ++ [fresh], ws.length)
    else (winVictim ws x.cache.waits).map fun j => (listUpd ws j fun _ => fresh, j)

/-- The window that takes an address. -/
def windowOf? (x : UnitSt) (va id : Nat) : Option CbWin := (windowFor x va id).bind fun p => p.1[p.2]?

/-- The section is in window mode, the address is aligned, and the window that takes it neither has its tail above it nor could
not read its word (R109, R116). -/
def windowed (a : Src) (s : State) (bt : Beat) : Prop :=
  (s.cfgOf bt.u).cbTiles ≠ [] ∧ (s.cfgOf bt.u).window = true ∧ virtAddr a bt % 8 = 0 ∧
    ∃ x w, s.unit? bt.u = some x ∧ windowOf? x (virtAddr a bt) s.nextId = some w ∧ w.tail ≤ virtAddr a bt ∧
      (virtAddr a bt < w.head → (w.bad.find? fun p => p.1 == virtAddr a bt) = none)

/-- LDC in window mode: a word below the head comes at once after the latency of a hit, one at or beyond it waits for the head
(R116, R267). -/
def windowLoad (d : Dst) (a : Src) (s : State) (bt : Beat) : State × List (Nat × Token) :=
  let va := virtAddr a bt
  let id := s.nextId
  match s.unit? bt.u with
  | none => (s, [])
  | some x =>
    match windowFor x va id, windowOf? x va id with
    | some (ws, i), some w =>
      let s1 := (bt.raise s bt.poisonFlag).bumpId.modCache bt.u fun k =>
        { k with wins := k.wins.set 0 (listUpd ws i fun w => { w with lastRead := va, used := id }) }
      let s2 := bt.promise s1 d (virtTag bt) (6 + cbHops x bt.e va) id
      (if va < w.head then bt.mod s2 fun y => y.finishLate id (w.data.getD (va / 8) 0) none 0 s2.clk.cyc
       else s2.modCache bt.u fun k => { k with waits := k.waits ++ [{ item := 0, e := bt.e, slot := bt.slot, wave := s2.stamps bt
                                                                      store := false, va := va, late := id, direct := true, num := id }] }, [])
    | _, _ => (s, [])

end Sys2Proof.Spec

/-- R115, R116, R263, R264, R267: in a section that caches LDC and STC complete: a line that the cache holds is read after 6
cycles and the distance to its tile, and its way marked used, or written and made dirty; for one it does not hold the access
waits for the fill under way or for a new one; where every way of the set is pinned a window item goes for the word alone.  In
window mode LDC completes through the window that takes its address (which one that is is the model's choice, log 20,
DEDUCED).
Completes: LDC, STC. -/
def Obligations.CacheAccesses : Prop :=
  open Sys2Proof Machine Spec in
  (∀ t d a ef, Runs (.ldc t d a ef) (form t a none_ none d.outs)
    (fun s bt => caching a.src s bt ∧ ∀ x, s.unit? bt.u = some x → readable x (virtAddr a.src bt)) one_ (cacheLoad d a.src ef)) ∧
  (∀ t n a b ef, Runs (.stc t n a b ef) (form t a b none []) (caching a.src) one_ (cacheStore a.src ef)) ∧
  (∀ t d a ef, Runs (.ldc t d a ef) (form t a none_ none d.outs) (windowed a.src) one_ (windowLoad d a.src))

namespace Sys2Proof.Spec
open Machine

/-- The virtual address of a cache control instruction: 56 bits of source A (R265, R266). -/
def rangeAddr (bt : Beat) : Nat := bt.a.bits.toNat % 2 ^ 56

/-- CINV or CWB begins its tag walk (R265). -/
def walking (wb : Bool) (s : State) (bt : Beat) : State × List (Nat × Token) :=
  let s' := bt.raise s bt.poisonFlag
  let w : CacheWalk := { e := bt.e, slot := bt.slot, wave := s'.stamps bt, wb := wb, lo := rangeAddr bt
                         hi := rangeAddr bt + max (bt.bb.bits.toNat % 2 ^ 40) 1, fin := s'.clk.cyc + 128, num := s'.nextId }
  (bt.mod (s'.bumpId.modCache bt.u fun k => { k with walks := k.walks ++ [w] }) fun y => { y with walkEnd := s'.clk.cyc + 128 }, [])

/-- CHOLD and CFREE load a retention register with `len` bytes from their address, or empty it (R266). -/
def retaining (len : Beat → Nat) (s : State) (bt : Beat) : State × List (Nat × Token) :=
  ((bt.raise s bt.poisonFlag).modCache bt.u fun k => k.retain (bt.a.bits.toNat / 2 ^ 56 % 8) (rangeAddr bt) (len bt), [])

/-- LDW sends its window item (R268). -/
def wordLoad (d : Dst) (a : Src) (s : State) (bt : Beat) : State × List (Nat × Token) :=
  let id := (bt.raise s bt.poisonFlag).nextId
  let s1 := bt.promise (bt.raise s bt.poisonFlag).bumpId d (virtTag bt) 0 id
  (s1.sendItem bt.u bt.e bt.slot (s1.stamps bt) id (.ldw id) (virtAddr a bt) [], [])

/-- The section is not in window mode. -/
def noWindow (s : State) (bt : Beat) : Prop := (s.cfgOf bt.u).window = false

/-- The trap of an instruction that a section in window mode does not admit (R267), behind that of a misaligned address where
the instruction needs an aligned one (R265). -/
def windowTrap (aligned : Bool) (s : State) (bt : Beat) : Option (Nat × Nat) :=
  if aligned = true ∧ rangeAddr bt % 8 ≠ 0 then some (0x22, rangeAddr bt)
  else if (s.cfgOf bt.u).window = true then some (0x23, rangeAddr bt)
  else none

end Sys2Proof.Spec

/-- R255, R265-R268: CINV and CWB begin a tag walk of 128 cycles over their range, CHOLD and CFREE load and empty a
retention register, LDW sends a window item for its word; each completes where its section is not in window mode and its
address is aligned (CHOLD and CFREE at every address, LDW in every section).  In window mode the first four trap with cause
0x23; a misaligned address of CINV, CWB or LDW traps with 0x22, before that (the order is the model's choice, log 12,
DEDUCED).
Completes: CINV, CWB, CHOLD, CFREE, LDW. -/
def Obligations.CacheControl : Prop :=
  open Sys2Proof Machine Spec in
  (∀ r ∈ ([(Instr.cinv, false), (.cwb, true)] : List ((Fin 64 → Opd → Opd → Instr) × Bool)),
    ∀ t a b, Runs (r.1 t a b) (form t a b none []) (fun s bt => noWindow s bt ∧ rangeAddr bt % 8 = 0) one_ (walking r.2) ∧
      Traps (r.1 t a b) (form t a b none []) (plainly fun s bt => noWindow s bt ∧ rangeAddr bt % 8 = 0) one_ (each (walking r.2))
        (trapped (windowTrap true))) ∧
  (∀ t a b, Runs (.chold t a b) (form t a b none []) noWindow one_ (retaining fun bt => bt.bb.bits.toNat % 2 ^ 40) ∧
    Traps (.chold t a b) (form t a b none []) (plainly noWindow) one_ (each (retaining fun bt => bt.bb.bits.toNat % 2 ^ 40))
      (trapped (windowTrap false))) ∧
  (∀ t a, Runs (.cfree t a) (form t a none_ none []) noWindow one_ (retaining fun _ => 0) ∧
    Traps (.cfree t a) (form t a none_ none []) (plainly noWindow) one_ (each (retaining fun _ => 0)) (trapped (windowTrap false))) ∧
  (∀ t d a, Runs (.ldw t d a) (form t a none_ none d.outs) (fun _ bt => virtAddr a.src bt % 8 = 0) one_ (wordLoad d a.src) ∧
    Traps (.ldw t d a) (form t a none_ none d.outs) (plainly fun _ bt => virtAddr a.src bt % 8 = 0) one_ (each (wordLoad d a.src))
      (trapped fun _ bt => if virtAddr a.src bt % 8 ≠ 0 then some (0x22, virtAddr a.src bt) else none))

namespace Sys2Proof.Spec
open Machine

/-- The trap of an access to a memory tile: the cause for which its address leads nowhere, and the address (R250, R255). -/
def misplaced (op : MemOp) (a : Src) (s : State) (bt : Beat) : Option (Nat × Nat) :=
  match (s.cfgOf bt.u).access op (tileAddr bt) (stride a bt) with
  | .at_ _ _ => none
  | .bad cause => some (cause, tileAddr bt)

/-- The trap of a read of a word, or of the token at the head of a FIFO, that has failed; a firing whose requests travel finds
out later (R383). -/
def unread (op : MemOp) (a : Src) (s : State) (bt : Beat) : Option (Nat × Nat) :=
  match spot op a s bt, s.unit? bt.u with
  | some p, some x =>
    if State.portBacked x bt.e 0 = false ∧ broken op x p = true ∧ s.deferring = false then some (0x0D, tileAddr bt) else none
  | _, _ => none

/-- The trap of LDC and STC: alignment, then a section without CB tiles (R255, R265), then STC in window mode (R267). -/
def uncached (store : Bool) (a : Src) (s : State) (bt : Beat) : Option (Nat × Nat) :=
  if virtAddr a bt % 8 ≠ 0 then some (0x22, virtAddr a bt)
  else if (s.cfgOf bt.u).cbTiles = [] then some (0x21, virtAddr a bt)
  else if store = true ∧ (s.cfgOf bt.u).window = true then some (0x23, virtAddr a bt)
  else none

/-- The trap of LDC in window mode: below the tail of its window (R116, R267), or at a word of it that could not be read (R109),
with the cause for which. -/
def windowMiss (a : Src) (s : State) (bt : Beat) : Option (Nat × Nat) :=
  let va := virtAddr a bt
  if (s.cfgOf bt.u).window = false ∨ (s.cfgOf bt.u).cbTiles = [] ∨ va % 8 ≠ 0 then none
  else match (s.unit? bt.u).bind fun x => windowOf? x va s.nextId with
    | none => none
    | some w =>
      if va < w.tail then some (0x23, va)
      else if va < w.head then (w.bad.find? fun p => p.1 == va).map fun p => (p.2, va)
      else none

/-- The trap of LDC at a word of its cache that has failed (R383). -/
def cacheMissing (a : Src) (s : State) (bt : Beat) : Option (Nat × Nat) :=
  let va := virtAddr a bt
  if (s.cfgOf bt.u).window = true ∨ (s.cfgOf bt.u).cbTiles = [] ∨ va % 8 ≠ 0 then none
  else match (s.unit? bt.u).bind fun x => held? x va with
    | none => none
    | some w => if w.bad.contains (va / 8 % 32) then some (0x0D, va) else none

/-- The trap of BUFQ and BUFSET: a buffer that is not valid, or tiles that are no AB tiles (R255, R261). -/
def noBuffer (s : State) (bt : Beat) : Option (Nat × Nat) :=
  match bufOf (tileAddr bt) with
  | none => none
  | some _ => ((s.cfgOf bt.u).bufTrap (tileAddr bt)).map fun cause => (cause, tileAddr bt)

end Sys2Proof.Spec

/-- R109, R116, R255, R261, R267, R383: an access of class 4 whose address leads nowhere at beat `k`, or to something that
cannot be read, traps there with the cause of its address, in every format of an atomic; the beats before it have been
performed, the others are not.  LDC and STC trap so without CB tiles, STC in window mode and LDC below the tail of its window
(0x23), BUFQ and BUFSET for a buffer that is not valid.  The model's choice: which cause comes first (log 12, DEDUCED), that LDC
and STC without a CB tile have cause 0x21 (log 32, DEDUCED), and what is left of the beat that traps (log 11, DEDUCED). -/
def Obligations.AddressTraps : Prop :=
  open Sys2Proof Machine Spec in
  (∀ r ∈ ([(Instr.ld, MemOp.ld), (.lds, .lds), (.lde, .lde), (.pop, .pop)] : List ((Fin 64 → Dst → Opd → Instr) × MemOp)),
    ∀ bad ∈ [misplaced r.2, unread r.2], ∀ t d a, Traps (r.1 t d a) (form t a none_ none d.outs) (plainly (leads r.2 0 a.src)) one_
      (each (loading r.2 d a.src)) (trapped (bad a.src))) ∧
  (∀ r ∈ ([(Instr.st, MemOp.st), (.stf, .stf), (.ste, .ste)] :
      List ((Fin 64 → Fin 4 → Opd → Opd → Instr) × MemOp)),
    ∀ t (n : Fin 4) a b, Traps (r.1 t n a b) (form t a b none []) (plainly (leads r.2 n.val a.src)) one_
      (each (wordStore r.2 n.val a.src)) (trapped (misplaced r.2 a.src))) ∧
  (∀ t (n : Fin 4) a b, Traps (.push t n a b) (form t a b none []) (plainly (leads .push n.val a.src)) one_
    (each (pushing n.val a.src)) (trapped (misplaced .push a.src))) ∧
  (∀ r ∈ atomics, ∀ t d a b, Traps (r.1 t d a b) (form t a b none d.outs) (plainly (atomicGoes r.2.1 r.2.2 a.src)) one_
    (each (atomic r.2.1 r.2.2 d a.src)) (trapped (misplaced r.2.1 a.src))) ∧
  (∀ t n a b, Traps (.amocas t n a b) (form t a b (some n) []) (plainly (atomicGoes .amoCas (fun _ => true) a.src)) one_
    (each (atomic .amoCas (fun _ => true) (.g n) a.src)) (trapped (misplaced .amoCas a.src))) ∧
  (∀ t d a, Traps (.bufq t d a) (form t a none_ none d.outs) (plainly named) one_ (each (bufferState d)) (trapped noBuffer)) ∧
  (∀ t a b, Traps (.bufset t a b) (form t a b none []) (plainly named) one_ (each bufferChange) (trapped noBuffer)) ∧
  (∀ bad ∈ [uncached false, cacheMissing], ∀ t d a ef, Traps (.ldc t d a ef) (form t a none_ none d.outs)
    (plainly fun s bt => caching a.src s bt ∧ ∀ x, s.unit? bt.u = some x → readable x (virtAddr a.src bt)) one_
    (each (cacheLoad d a.src ef)) (trapped (bad a.src))) ∧
  (∀ bad ∈ [uncached false, windowMiss], ∀ t d a ef, Traps (.ldc t d a ef) (form t a none_ none d.outs) (plainly (windowed a.src))
    one_ (each (windowLoad d a.src)) (trapped (bad a.src))) ∧
  (∀ t n a b ef, Traps (.stc t n a b ef) (form t a b none []) (plainly (caching a.src)) one_
    (each (cacheStore a.src ef)) (trapped (uncached true a.src)))

/-- R111, R113, R251, R255: where an address of class 4 leads: one whose low three bits are not zero is an alignment fault,
before all else (the order is the model's choice, log 12, DEDUCED); PUSH and POP ignore the offset.  A tile index at or beyond
the section's count of tiles, an offset at or past 2^18, an offset at or past a buffer's size, a buffer that is not valid and
the reserved raw bit are outside the section; a tile whose role does not admit the operation is a role fault; every other
address leads to its word, in buffer form to the one that its buffer's base and rectangle give. -/
def Obligations.WhereAnAddressLeads : Prop :=
  open Sys2Proof Machine in
  ∀ (c : SecCfg) (op : MemOp) (a off : Nat),
    let fifo := op = .push ∨ op = .pop
    let tl := a / 2 ^ 18 % 4096
    let o := a % 2 ^ 18 + off
    let b := (c.bufs[a / 2 ^ 25 % 64]?).getD {}
    let bo := b.base + (a % 2 ^ 25 + off)
    let bt := c.rectTile b (bo / 2 ^ 18)
    (¬fifo → a % 8 ≠ 0 → c.access op a off = .bad 0x22) ∧
    (∀ tl w, c.access op a off = .at_ tl w → roleAdmits (c.role tl) op = true ∧ tl < c.tileCount) ∧
    (a / 2 ^ 30 % 4 = 1 → fifo ∨ a % 8 = 0 → c.access op a off = .bad 0x20) ∧
    (a / 2 ^ 30 % 4 = 0 → fifo ∨ a % 8 = 0 → c.tileCount ≤ tl → c.access op a off = .bad 0x20) ∧
    (a / 2 ^ 30 % 4 = 0 → ¬fifo → a % 8 = 0 → 2 ^ 18 ≤ o → c.access op a off = .bad 0x20) ∧
    (a / 2 ^ 30 % 4 = 0 → ¬fifo → a % 8 = 0 → tl < c.tileCount → o < 2 ^ 18 →
      c.access op a off = if c.role tl = .ab then .at_ tl (o / 8) else .bad 0x21) ∧
    (a / 2 ^ 30 % 4 = 0 → fifo → tl < c.tileCount → c.access op a off = if c.role tl = .tf then .at_ tl 0 else .bad 0x21) ∧
    (a / 2 ^ 31 % 2 = 1 → fifo ∨ a % 8 = 0 → b.valid = false → c.access op a off = .bad 0x20) ∧
    (a / 2 ^ 31 % 2 = 1 → ¬fifo → a % 8 = 0 → b.size ≤ a % 2 ^ 25 + off → c.access op a off = .bad 0x20) ∧
    (a / 2 ^ 31 % 2 = 1 → ¬fifo → a % 8 = 0 → b.valid = true → a % 2 ^ 25 + off < b.size → bt < c.tileCount →
      c.access op a off = if c.role bt = .ab then .at_ bt (bo % 2 ^ 18 / 8) else .bad 0x21) ∧
    (a / 2 ^ 31 % 2 = 1 → fifo → b.valid = true → c.rectTile b (b.base / 2 ^ 18) < c.tileCount →
      c.access op a off = if c.role (c.rectTile b (b.base / 2 ^ 18)) = .tf then
        .at_ (c.rectTile b (b.base / 2 ^ 18)) (b.base % 2 ^ 18 / 8) else .bad 0x21)

namespace Sys2Proof.Spec
open Machine

/-- The form of an instruction of class 5 with a register pair in source A and source B (R252). -/
def pairForm (t : Fin 64) (a b : Src) : Form where
  t := t
  b := b
  words := regRun 2 a
  srcs := [b]
  takes := b.take?.toList ++ (a.take?.toList ++ pairTakes a)
  dq := deqs none_ ⟨b, false⟩

/-- The form of a BRD: a pair and a quad (R252, R270). -/
def brdForm (t : Fin 64) (a b : Src) : Form where
  t := t
  words := fun y => regRun 2 a y ++ regRun 4 b y
  takes := a.take?.toList ++ pairTakes a

/-- One source. -/
def oneForm (t : Fin 64) (a : Src) (outs : List Nat) : Form := form t ⟨a, false⟩ none_ none outs

/-- The BRD opcodes and the kinds of rider they send (R270). -/
def brdTable : List ((Fin 64 → Fin 32 → Src → Src → Instr) × RKind) :=
  [ (.brdRd, .rd), (.brdFl, .fl), (.brdRed, .red), (.brdUpd, .upd), (.brdGat, .gat), (.brdSca, .sca), (.brdLut, .lut) ]

/-- The first rider word, with the opcode's kind in its bits 59:56 (R270). -/
def riderWord (k : RKind) (bt : Beat) : Word :=
  (bt.cap.words.getD 0 0 &&& 0xF0FFFFFFFFFFFFFF) ||| BitVec.ofNat 64 (k.code * 2 ^ 56)

/-- A BRD may send: the bindings it names are bound, its own has a place and no carriage still open (R270, R271). -/
def boards (k : RKind) (n : Fin 32) (s : State) (bt : Beat) : Prop :=
  let w1 := bt.cap.words.getD 1 0
  (s.cfgOf bt.u).unbound (w1.toNat / 2 ^ 32 % 32) = false ∧
  (k.delivers ((riderWord k bt).toNat / 2 ^ 60) = true → (s.cfgOf bt.u).unbound (w1.toNat / 2 ^ 37 % 32) = false) ∧
  brdFree s bt.u n k = true

/-- The done field of a BRD's words, or its deliver field where the kind delivers, names a binding that is not bound (R270). -/
def strays (k : RKind) (s : State) (bt : Beat) : Bool :=
  let w1 := (bt.cap.words.getD 1 0).toNat
  (s.cfgOf bt.u).unbound (w1 / 2 ^ 32 % 32) ||
    (k.delivers ((riderWord k bt).toNat / 2 ^ 60) && (s.cfgOf bt.u).unbound (w1 / 2 ^ 37 % 32))

/-- A BRD's packet joins the queue of its binding (R270). -/
def packetSent (k : RKind) (n : Fin 32) (s : State) (bt : Beat) : State × List (Nat × Token) :=
  (s.sendPacket bt.u n { id := 0, e := bt.e, slot := bt.slot, tblb := false, w0 := riderWord k bt
                         w1 := bt.cap.words.getD 1 0, par := bt.cap.words.drop 2 }, [])

/-- The unit of a beat exists: every firing has one. -/
def inUnit (x : UnitSt) (s : State) (bt : Beat) : Prop := s.unit? bt.u = some x

end Sys2Proof.Spec

/-- R252, R270, R271: a BRD whose bindings are bound and whose port binding has room completes: its packet, the pair in
source A with the opcode's kind and the quad in source B, joins the queue of its binding.  One whose done field, or deliver
field where its kind delivers, names a binding that is not bound traps with cause 0x24 once its port binding has room, and no
packet of it is sent.
Completes: BRD_RD, BRD_FL, BRD_RED, BRD_UPD, BRD_GAT, BRD_SCA, BRD_LUT. -/
def Obligations.RidersBoard : Prop :=
  open Sys2Proof Machine Spec in
  ∀ r ∈ brdTable, ∀ t n a b,
    Runs (r.1 t n a b) (brdForm t a b) (boards r.2 n) one_ (packetSent r.2 n) ∧
    Traps (r.1 t n a b) (brdForm t a b) (plainly (boards r.2 n)) one_ (each (packetSent r.2 n))
      (fun s bt _ => if brdFree s bt.u n r.2 = true ∧ strays r.2 s bt = true then some (s, 0x24, 0, 0) else none)

/-- R272-R274: TBLB sends the 256 words of its row, which lies in one tile or one buffer, and holds the datapath for 256 cycles, RIDQ asks for an answer at the
next boundary of a class, RCAN cancels the riders of a binding with a done field; each completes.
Completes: TBLB, RIDQ, RCAN. -/
def Obligations.RiderControl : Prop :=
  open Sys2Proof Machine Spec in
  (∀ t n a b (x : UnitSt) (ps : List (Nat × Nat)), Runs (.tblb t n a b) (pairForm t a b)
    (fun s bt => inUnit x s bt ∧ ps.length = 256 ∧
      (∀ i < 256, x.cfg.access .ld (bt.bb.bits.toNat % 2 ^ 32) (8 * i) = .at_ (ps.getD i (0, 0)).1 (ps.getD i (0, 0)).2) ∧
      (∀ p ∈ ps, (x.tile p.1).bad.contains p.2 = false ∧ tileBusy x bt.e p.1 = false) ∧ (x.bindSt n).packets.length < 16)
    (fun _ _ => 256)
    fun s bt =>
      ((bt.raise s bt.poisonFlag).sendPacket bt.u n
        { id := 0, e := bt.e, slot := bt.slot, tblb := true, w0 := bt.cap.words.getD 0 0, w1 := bt.cap.words.getD 1 0
          par := [], row := ps.map fun p => (x.tile p.1).word p.2 }, [])) ∧
  (∀ t n a, Runs (.ridq t n a) (oneForm t a []) always one_ fun s bt =>
    let v := bt.a.bits.toNat
    let s := bt.raise s bt.poisonFlag
    (if v / 2 ^ 8 % 4 = 3 then bt.raise s Flags.invalid
     else { s with sweep := { s.sweep with ridq := s.sweep.ridq ++
       [{ u := bt.u, bind := v % 32, tag := BitVec.ofNat 3 (v / 32), cls := v / 2 ^ 8 % 4 }] } }, [])) ∧
  (∀ t n a, Runs (.rcan t n a) (oneForm t a []) always one_ fun s bt =>
    (rcan (bt.raise s bt.poisonFlag) bt.u n.val (bt.a.bits.toNat % 32), []))

/-- R118, R275-R277, R404: CLAIM returns the lowest-numbered free slot of its element's quarter and holds it for its job, or
bit 63 where none is free; RLSE releases a slot its job holds, and raises invalid for any other; SLQ returns the slot's state and
how many are free.  The model's choice: which element claimed last is kept, and when a released slot begins to be zeroed (log
31, DEDUCED).
Completes: CLAIM, RLSE, SLQ. -/
def Obligations.OperandSlots : Prop :=
  open Sys2Proof Machine Spec in
  (∀ t d x n, Runs (.claim t d) (form t none_ none_ none d.outs)
    (fun s bt => inUnit x s bt ∧ n < 512 ∧ (s.slotOf (x.quarterOf bt.e) n).free = true ∧
      ∀ m < n, (s.slotOf (x.quarterOf bt.e) m).free = false) one_
    fun s bt =>
      let q := x.quarterOf bt.e
      (bt.deliverLate { s.setSlot q n { s.slotOf q n with job := some x.job } with
          claimed := s.claimed.set q (s.clk.cyc, x.devElem bt.e) } d (BitVec.ofNat 64 n) bt.T 0 4, [])) ∧
  (∀ t d x, Runs (.claim t d) (form t none_ none_ none d.outs)
    (fun s bt => inUnit x s bt ∧ ∀ m < 512, (s.slotOf (x.quarterOf bt.e) m).free = false) one_
    fun s bt => (bt.deliverLate s d 0x8000000000000000 bt.T 0 4, [])) ∧
  (∀ t a x, Runs (.rlse t a) (oneForm t a []) (inUnit x) one_ fun s bt =>
    let q := x.quarterOf bt.e
    let n := bt.a.bits.toNat % 512
    let s := bt.raise s bt.poisonFlag
    (if (s.slotOf q n).job = some x.job then startZero (s.setSlot q n { s.slotOf q n with release := true }) q n
     else bt.raise s Flags.invalid, [])) ∧
  (∀ t d a x, Runs (.slq t d a) (oneForm t a d.outs) (inUnit x) one_ fun s bt =>
    let q := x.quarterOf bt.e
    let y := s.slotOf q (bt.a.bits.toNat % 512)
    let st := match y.job with
      | some j => if j = x.job then 2 else 3
      | none => if y.zeroAt.isSome then 1 else 0
    let free := (List.range 512).countP fun n => (s.slotOf q n).free
    (bt.deliverLate s d (BitVec.ofNat 64 (st + 2 ^ 16 * free)) bt.T 0 4, []))

/-- R279, R280, R321, R405, R406: CPY sends a copy to the engine of its section's quarter, unless the guard finds a slot of
another tenant in a descriptor: then it is dropped, counted, reported, and poison follows after 16 cycles; COLL sends a
collective that its tenant's scale-out budget admits, and is refused with reason 0x12 where the budget's limit is zero.  The
model's choice: a section's engine and slots are those of the quarter of its unit's north-west block (log 31, DEDUCED).
Completes: CPY, COLL. -/
def Obligations.CopiesAndCollectives : Prop :=
  open Sys2Proof Machine Spec in
  (∀ t n a b x, Runs (.cpy t n a b) (pairForm t a b) (fun s bt => inUnit x s bt) one_ fun s bt =>
    let src := bt.cap.words.getD 0 0
    let dst := bt.cap.words.getD 1 0
    let s1 := bt.raise s bt.poisonFlag
    let id := s1.nextId
    let s2 := s1.bumpId.openSent bt.u n id
    let doneB := bt.bb.bits.toNat / 2 ^ 24 % 32
    let dropped := fun (w : Word) =>
      let s3 := guardDrop s2 bt.u bt.e bt.slot w
      { s3 with guards := s3.guards.set id { u := bt.u, e := bt.e, bind := n.val, doneB := doneB, num := id, due := s3.clk.cyc + 16 } }
    (match (s.unit? bt.u) with
     | none => s
     | some x =>
       if guardedSlot s2 x.nwQuarter x.tenant src then dropped src
       else if guardedSlot s2 x.nwQuarter x.tenant dst then dropped dst
       else
         let k : Copy := { u := bt.u, e := bt.e, slot := bt.slot, bind := n, tenant := x.tenant, job := x.job
                           secure := x.secure, src := src, dst := dst, len := bt.bb.bits.toNat % 2 ^ 24, doneB := doneB
                           tag := BitVec.ofNat 3 (bt.bb.bits.toNat / 2 ^ 29) }
         let f := Fin.ofNat 4 x.nwQuarter
         let e := s2.copies[f]
         { s2 with copies := s2.copies.set f { e with copies := e.copies.set id k } }, [])) ∧
  (∀ t n a b x, Runs (.coll t n a b) (pairForm t a b)
    (fun s bt => inUnit x s bt ∧ farReady (bt.raise s bt.poisonFlag) x.tenant = true) one_ fun s bt =>
    let w0 := bt.cap.words.getD 0 0
    let s1 := bt.raise s bt.poisonFlag
    let id := s1.nextId
    let s2 := s1.bumpId.openSent bt.u n id
    (if s2.noBudget x.tenant 3 then
       s2.complete bt.u n id (w0.toNat / 2 ^ 16 % 32) (State.compTok 2 0 0x12 0 0 (BitVec.ofNat 3 (w0.toNat / 2 ^ 21)))
     else
       let size := if w0.toNat / 2 ^ 4 % 16 = 1 then 8 else if w0.toNat / 2 ^ 4 % 16 = 3 then 2 else 4
       let s3 := s2.charge x.tenant 3 (kibOf (w0.toNat / 2 ^ 32 % 2 ^ 24 * size))
       let k : Coll := { u := bt.u, e := bt.e, slot := bt.slot, bind := n, w0 := w0, w1 := bt.cap.words.getD 1 0
                         root := bt.bb.bits.toNat % 1024, sentAt := s3.clk.cyc }
       { s3 with colls := s3.colls.set id k }, []))

/-- R134, R281, R284, R285, R414: PORT puts source A into its binding's input queue where a place is free (drain is consumed;
a request of a slot binding is noted under a fresh number for fences), DRN
asks for a completion token once what is open has completed, CNTI takes one off the unit's tile count; each completes.
Completes: PORT, DRN, CNTI. -/
def Obligations.PortsDrainsAndCounts : Prop :=
  open Sys2Proof Machine Spec in
  (∀ t n a, Runs (.port t n a) (form t a none_ none [])
    (fun s bt => ∀ x, s.unit? bt.u = some x → x.portRoom n ≠ 0) one_ fun s bt =>
    (if (bt.fwd bt.a).isDrain then s
     else
       let s1 := portTake s bt.u n (bt.fwd bt.a)
       if ((s1.cfgOf bt.u).bindCfg n).kind = .slot then
         (s1.modUnit bt.u fun x =>
           let y := x.bindSt n
           x.setBind n { y with own := y.own ++ [{ e := bt.e, num := s1.nextId, wave := s.stamps bt, place := y.inq.length }] }).bumpId
       else s1, [])) ∧
  (∀ t n a, Runs (.drn t n a) (oneForm t a []) always one_ fun s bt =>
    ((bt.raise s bt.poisonFlag).modUnit bt.u fun x =>
      let y := x.bindSt n
      x.setBind n { y with drn := y.drn ++ [(bt.a.bits.toNat % 32, bt.a.bits.toNat / 32 % 8, y.open_)] }, [])) ∧
  (∀ t, Completes (.cnti t) t none_ none_ none [] one_ fun s bt =>
    (s.modUnit bt.u fun x => { x with count := x.count.map fun k => k - 1 }, []))

namespace Sys2Proof.Spec
open Machine

/-- One beat of WREM (R251, R282, R339, R394): the write goes out through a valid window; it is reported and not performed
where the tenant's budget is zero (0x12), the window is not valid or, of a .full write, an earlier write of the element to its
package has not been performed (0x14), or the address runs past its tile or buffer (0x05). -/
def farWrite (n : Fin 32) (a : Src) (full : Bool) (s : State) (bt : Beat) : State × List (Nat × Token) :=
  match s.unit? bt.u with
  | none => (s, [])
  | some x =>
    let low := bt.a.bits.toNat % 2 ^ 32
    let size := if low < 2 ^ 31 then 2 ^ 18 else 2 ^ 25
    let past := decide (size ≤ low % size + stride a bt)
    let window := bt.a.bits.toNat / 2 ^ 32 % 64
    let entry := s.windowOf x.tenant window
    let s1 := bt.raise s bt.poisonFlag
    let r : Remote := { u := bt.u, e := bt.e, slot := bt.slot, bind := n, message := false, full := full
                        window := window, entry := entry, addr := if past then low else low + stride a bt
                        toks := [⟨0, 0, 0, bt.bb.bits⟩], doneB := 0, tag := 0, sentAt := s1.clk.cyc
                        after := if full then earlierFar s1 bt.u bt.e entry else [], beat := bt.b, wave := s1.stamps bt }
    (if s1.noBudget x.tenant 3 then wremFail s1.bumpId r 0x12
     else if entry.toNat % 2 = 0 ∨ (full = true ∧ (entry.toNat / 2 % 1024) ∈ (s1.elem bt.u bt.e).farFailed) then
       wremFail s1.bumpId r 0x14
     else if past then wremFail s1.bumpId r 0x05
     else
       let s2 := (s1.bumpId.charge x.tenant 3 1).openSent bt.u n s1.nextId
       { s2 with remotes := s2.remotes.set s1.nextId r }, [])

end Sys2Proof.Spec

/-- R282, R283, R339, R394: WREM writes through its window, or reports; SNDM sends the whole burst at the head of its channel
through a valid window, or completes refused.  The model's choice: the order of 0x12, 0x14 and 0x05, and that a write whose
offset runs past its tile or buffer is reported at the sender with 0x05 (log 38, DESIGN CHOICE).
Completes: WREM, SNDM. -/
def Obligations.RemoteWritesAndMessages : Prop :=
  open Sys2Proof Machine Spec in
  (∀ t n a b full, Runs (.wrem t n a b full) (form t a b none [])
    (fun s bt => ∀ x, s.unit? bt.u = some x → farReady (bt.raise s bt.poisonFlag) x.tenant = true) one_
    (farWrite n a.src full)) ∧
  (∀ t n a b x burst, Runs (.sndm t n a b) { t := t, a := .ch a, b := b, srcs := [b], takes := b.take?.toList }
    (fun s bt => inUnit x s bt ∧ (s.elem bt.u bt.e).headBurst a = burst ∧ burst ≠ [] ∧
      farReady s x.tenant = true) (fun _ _ => burst.length) fun s bt =>
    let w := bt.bb.bits.toNat
    let entry := s.windowOf x.tenant (w / 2 ^ 32 % 64)
    let tag : BitVec 3 := BitVec.ofNat 3 (w / 2 ^ 45)
    let doneB := w / 2 ^ 40 % 32
    let s1 := bt.mod (bt.raise s bt.poisonFlag) fun y => burst.foldl (fun z _ => z.dequeue a) y
    let id := s1.nextId
    let s2 := s1.bumpId.openSent bt.u n id
    let s3 :=
      if s2.noBudget x.tenant 3 then s2.complete bt.u n id doneB (State.compTok 2 0 0x12 0 0 tag)
      else if entry.toNat % 2 = 0 then s2.complete bt.u n id doneB (State.compTok 2 0 0x14 0 0 tag)
      else
        let s3 := s2.charge x.tenant 3 (kibOf (16 * burst.length))
        let r : Remote := { u := bt.u, e := bt.e, slot := bt.slot, bind := n, message := true, full := false
                            window := w / 2 ^ 32 % 64, entry := entry, addr := w % 2 ^ 32, toks := burst, doneB := doneB
                            tag := tag, sentAt := s2.clk.cyc, wave := s2.stamps bt }
        { s3 with remotes := s3.remotes.set id r }
    (match b.chan? with
     | some ch => bt.mod s3 fun y => if ch = a then y else y.dequeue ch
     | none => s3, []))

namespace Sys2Proof.Spec
open Machine

/-- The predicates, whether each is an S variant, and how each is written (R292, R294, R295, R300). -/
def predTable : List ((Fin 64 → ODst → Fin 4 → Bool → Bool → Instr) × Machine.Pred × Bool) :=
  [ (.ori2, .ori2, false), (.ori2s, .ori2, true), (.ori3, .ori3, false), (.ori3s, .ori3, true), (.incr, .incr, false),
    (.incrs, .incr, true), (.insp, .insp, false), (.insps, .insp, true), (.segx, .segx, false), (.segxs, .segx, true) ]

/-- The form of a predicate: it takes the tokens of its instance itself (R293). -/
def geoForm (t : Fin 64) (a : Fin 4) : Form where
  t := t
  a := .ch a

/-- The tokens that an instance takes from its channel, the element without them, and a mark head other than poison that
stands in its way (R293, R303). -/
def instanceAt (p : Machine.Pred) (a : Fin 4) (s : State) (bt : Beat) : List Token × Elem × Option Token :=
  takeInst a (p.dim * p.points) (s.elem bt.u bt.e) []

/-- An instance stands whole in the channel and the reorder window has a place (R293, R304). -/
def standing (p : Machine.Pred) (a : Fin 4) (s : State) (bt : Beat) (c : Carry) : Prop :=
  c.n = 0 ∧ c.toks = [] ∧ (s.elem bt.u bt.e).win.length < 8 ∧ (instanceAt p a s bt).2.2 = none ∧
    (instanceAt p a s bt).1.length = p.dim * p.points

/-- The lane 0 values of an instance; none where a token has a format that the predicate does not admit (R292). -/
def valuesOf (p : Machine.Pred) (a : Fin 4) (s : State) (bt : Beat) : Option (List FVal) :=
  (instanceAt p a s bt).1.mapM (coordVal bt.pal)

/-- A coordinate is infinite or NaN, and no token is poison (R303). -/
def infinite (p : Machine.Pred) (a : Fin 4) (s : State) (bt : Beat) : Prop :=
  (∀ k ∈ (instanceAt p a s bt).1, k.isPoison = false) ∧
    ∃ vs, valuesOf p a s bt = some vs ∧ ∃ v ∈ vs, v.isFinite = false

/-- The points of an instance with their indices (R292). -/
def pointsOf (p : Machine.Pred) (toks : List Token) (vs : List FVal) : List (List Dy × BitVec 32) :=
  geoPoints p.dim toks (vs.map FVal.dy) p.points

/-- The coordinate of the first token, and its tag. -/
def firstCoord (toks : List Token) : BitVec 32 := (toks.head?.map Token.coord).getD 0
def firstTag (toks : List Token) : BitVec 3 := (toks.head?.map Token.tag).getD 0

/-- A predicate over one instance (R291-R305): its tokens are taken; a poison token or a format it does not admit gives a
poison token and invalid, an infinite or NaN coordinate the value -32 and nfgeom; else stage A's value, where it decides,
as a SIGN token with the first point's index: the token joins the reorder window, due when stage A's cycles have passed;
where stage A does not decide, the instance goes to stage B in the bricks, one orientation after another. -/
def judged (p : Machine.Pred) (sym : Bool) (d : ODst) (a : Fin 4) (stg : Bool) (s : State) (bt : Beat) :
    State × List (Nat × Token) :=
  let r := instanceAt p a s bt
  let co := firstCoord r.1
  let tag := firstTag r.1
  let s1 := bt.mod s fun _ => r.2.1
  let fin := begins s bt + p.cyclesA
  let known := fun (k : Token) (fl : Flags) =>
    let g : GeoInst := { pred := p, sym := sym, stg := stg, pts := [([], co)], dst := d, tag := tag, stage := .known k, due := fin }
    (bt.raise (bt.mod s1 fun z => z.window g) fl, ([] : List (Nat × Token)))
  match r.1.find? Token.isPoison, valuesOf p a s bt with
  | some k, _ => known k Flags.invalid
  | none, none => known (Token.poison 0x30 co) Flags.invalid
  | none, some vs =>
    if vs.any fun v => !v.isFinite then
      let k := signTok bt.pal tag co 0x80
      known k.1 (k.2 ||| Flags.nfgeom)
    else
      let pts := pointsOf p r.1 vs
      match decideInst p sym .a pts with
      | some v =>
        let k := signTok bt.pal tag (pts.headD ([], 0)).2 (signByte v.1 stg v.2)
        known k.1 k.2
      | none =>
        let x := s.elem bt.u bt.e
        let due := max fin (max x.brickBusy x.sysBusy) + p.cyclesB * escalated p pts
        let g : GeoInst := { pred := p, sym := sym, stg := stg, pts := pts, dst := d, tag := tag, stage := .inB, due := due }
        (bt.mod s1 fun z => { z.window g with brickBusy := due }, [])

end Sys2Proof.Spec

/-- R291-R305: a predicate completes on every instance that stands whole in its channel; under `.nfm` also on one with an
infinite or NaN coordinate, which else traps with cause 0x25 once its tokens are taken.
Completes: ORI2, ORI2S, ORI3, ORI3S, INCR, INCRS, INSP, INSPS, SEGX, SEGXS. -/
def Obligations.PredicatesComplete : Prop :=
  open Sys2Proof Machine Spec in
  ∀ r ∈ predTable, ∀ t d a stg nfm,
    Fires (r.1 t d a stg nfm) (geoForm t a)
      (fun s bt c => standing r.2.1 a s bt c ∧ (nfm = true ∨ ¬infinite r.2.1 a s bt)) (fun _ _ => r.2.1.cyclesA)
      (each (judged r.2.1 r.2.2 d a stg)) ∧
    ∀ (s s' : State) (f : Focus) (x : UnitSt), Fresh s f x → nfm = false →
      let m := geoForm t a
      let n := Trig.n ((x.elem f.e).trigger t)
      let s0 := m.pre (beginFiring s f.u f.e f.slot t) f n 0
      let bt := m.beat (beginFiring s f.u f.e f.slot t) f n 0 (m.cap (x.elem f.e) f.slot)
      standing r.2.1 a s0 bt {} → infinite r.2.1 a s0 bt → s' = bt.mod s0 (fun _ => (instanceAt r.2.1 a s0 bt).2.1) →
      s'.canTrap f.u = true → exec (r.1 t d a stg nfm) s = .next (s'.trap f.u f.e f.slot 0x25 0 0 0 0)

/-- R306-R311: the coordinate-stream instructions complete: BAND joins bitmaps aligned by coordinate, BPOS finds the next
set bit, CCMP compares coordinates, CSET and CGET set and split a coordinate, RTE picks an output by it; each with the
coordinate its rule gives its token.
Completes: BAND, BPOS, CCMP, CSET, CGET, RTE. -/
def Obligations.CoordinateStreams : Prop :=
  open Sys2Proof Machine Spec in
  (∀ t d a b, Completes (.band t d a b) t a b none d.outs one_ fun s bt =>
    if bt.F = some .bitmap then
      let ca := bt.a.coord
      let cb := if b.src.chan?.isSome then bt.bb.coord else ca
      bt.deliverAt ca s d (bt.a.inFmt .bitmap &&&
        (if ca ≤ cb then bt.bb.inFmt .bitmap <<< (cb - ca) else bt.bb.inFmt .bitmap >>> (ca - cb))) bt.T bt.mismatchFlag
    else refused d s bt) ∧
  (∀ t d a b, Completes (.bpos t d a b) t a b none d.outs one_ fun s bt =>
    match twinTag bt.pal .int32 with
    | none => refused d s bt
    | some tw =>
      match (List.range 64).find? fun j => decide (bt.bb.bits.toNat % 64 ≤ j) && (bt.a.inFmt .bitmap).getLsbD j with
      | some j =>
        let n := (bt.a.coord + j) % 2 ^ 32
        bt.deliverAt n s d (BitVec.ofNat 64 (n + 2 ^ 32 * (j + 1))) tw 0
      | none => bt.deliverAt bt.a.coord s d 0x00000040FFFFFFFF tw 0) ∧
  (∀ t d a b, CompletesAtLast (.ccmp t d a b) t a b none [] (compared d fun bt => (decide (bt.a.coord < bt.bb.coord), 0))) ∧
  (∀ t d a b, Completes (.cset t d a b) t a b none d.outs one_ fun s bt => bt.forwardAt (bt.bb.bits.toNat % 2 ^ 32) s d bt.a) ∧
  (∀ t d a b, Completes (.cget t d a b) t a b none d.outs one_ fun s bt =>
    match twinTag bt.pal .coord with
    | none => refused d s bt
    | some tw =>
      let k := bt.a.coord
      let w := bt.bb.bits.toNat % 2 ^ 32
      bt.deliverAt k s d (ofLanes 32 [(if w = 0 then 0 else k / w) % 2 ^ 32, (if w = 0 then k else k % w) % 2 ^ 32]) tw 0) ∧
  (∀ t d a b, Completes (.rte t d a b) t a b none (outsOf d) one_ fun s bt =>
    let k := bt.fwd bt.a
    if k.isData = false then (s, sendFwd (outsOf d) k)
    else
      let v := (bt.a.coord + 2 ^ 32 - bt.bb.bits.toNat % 2 ^ 32) % 2 ^ 32
      match (outsOf d)[v / 2 ^ (bt.bb.bits.toNat / 2 ^ 32 % 32)]? with
      | none => (bt.raise s Flags.invalid, [])
      | some o => (s, sendFwd [o] (if bt.bb.bits.getLsbD 37 then { k with coord := BitVec.ofNat 32 v } else k)))

namespace Sys2Proof.Spec
open Machine

/-- A result of class 7: it is known at once and may reach its destination in the next cycle (R347). -/
def answer (d : Dst) (v : Word) (tag : BitVec 3) (fl : Flags) (s : State) (bt : Beat) : State × List (Nat × Token) :=
  (bt.deliverLate s d v tag fl 0, [])

/-- A code that is known at once, or one that comes later as the result numbered `id` (R350). -/
def promised (d : Dst) (id : Nat) (r : State × Option Nat × Flags) (bt : Beat) : State × List (Nat × Token) :=
  match r.2.1 with
  | some code => answer d (BitVec.ofNat 64 code) bt.T r.2.2 r.1 bt
  | none => (bt.promise (bt.raise r.1 bt.poisonFlag) d bt.T 0 id, [])

/-- The count a PERF code names (R355); counter 1 as it stands in this cycle. -/
def perfOf (s : State) (bt : Beat) : Option Nat :=
  match s.unit? bt.u with
  | none => none
  | some x =>
    let n := bt.a.bits.toNat % 256
    if n = 1 then some ((x.elem bt.e).perf[1] + match (x.elem bt.e).heldAt with
      | some (c, none) => s.clk.cyc - c
      | some (c, some d) => min s.clk.cyc d - c
      | none => 0)
    else if h : n < 4 then some (x.elem bt.e).perf[n]
    else if n = 4 then some x.riders
    else if n = 5 then some (s.exactCnt.getD (x.blockOf bt.e) 0)
    else if n = 6 then some x.drops
    else none

/-- The count a TIME code names (R355). -/
def timeOf (s : State) (bt : Beat) : Option Nat :=
  let n := bt.a.bits.toNat % 8
  if n = 0 then some s.clk.cyc
  else if n = 1 then some s.sweep.quick.step
  else if n = 2 then some s.sweep.steady.step
  else if n = 3 then some s.sweep.deep.step
  else if n = 4 then some s.clk.win
  else if n = 5 then (s.unit? bt.u).map fun x => s.clk.cyc - x.armedAt
  else none

/-- A count, or zero with invalid for a code that names none (R355). -/
def counted (d : Dst) (n : Option Nat) (s : State) (bt : Beat) : State × List (Nat × Token) :=
  match n with
  | some k => answer d (BitVec.ofNat 64 (min k (2 ^ 64 - 1))) ((bt.a.bits >>> 16).setWidth 3) 0 s bt
  | none => answer d 0 ((bt.a.bits >>> 16).setWidth 3) Flags.invalid s bt

end Sys2Proof.Spec

/-- R349: CSRR returns the register its operand names, with invalid where the element may not read it; CSRW writes it, or
raises invalid where it may not.
Completes: CSRR, CSRW. -/
def Obligations.RegisterAccess : Prop :=
  open Sys2Proof Machine Spec in
  (∀ t d a, Completes (.csrr t d a) t a none_ none d.outs one_ fun s bt =>
    let r := s.readReg (.elem bt.u bt.e) (bt.a.bits.toNat % 65536)
    answer d r.2.1 ((bt.a.bits >>> 16).setWidth 3) (if r.2.2 then 0 else Flags.invalid) r.1 bt) ∧
  (∀ t a b, Completes (.csrw t a b) t a b none [] one_ fun s bt =>
    let r := (bt.raise s bt.poisonFlag).writeReg (.elem bt.u bt.e) (bt.a.bits.toNat % 65536) bt.bb.bits
    (bt.raise r.1 (if r.2 then 0 else Flags.invalid), []))

/-- R350, R352, R374-R379, R411: FRZ freezes what its word names and THAW thaws it; the code comes at once, or, where a section
is read out or an image is read, as the result of a later happening; SNAP asks for a snapshot at the end of the
unit and returns its serial, TLBI starts an invalidation whose result comes when it has completed, or returns 3.
Completes: FRZ, THAW, SNAP, TLBI. -/
def Obligations.FreezeThawSnapInvalidate : Prop :=
  open Sys2Proof Machine Spec in
  (∀ t d a b, Completes (.frz t d a b) t a b none d.outs one_ fun s bt =>
    let r := s.bumpId.freezeOp (FrzWord.of (bt.a.bits.toNat % 2 ^ 32)) (bt.bb.bits.toNat % 2 ^ 56) (some bt.u) (bt.secure s)
      (some (bt.u, bt.e, s.nextId))
    promised d s.nextId r bt) ∧
  (∀ t d a b, Completes (.thaw t d a b) t a b none d.outs one_ fun s bt =>
    let r := s.bumpId.thawOp (FrzWord.of (bt.a.bits.toNat % 2 ^ 32)) (bt.bb.bits.toNat % 2 ^ 56) (bt.secure s)
      (some (bt.u, bt.e, s.nextId))
    promised d s.nextId r bt) ∧
  (∀ t d a, Completes (.snap t d a) t a none_ none d.outs one_ fun s bt =>
    answer d (BitVec.ofNat 64 (s.askSnap bt.u).2) bt.T 0 (s.askSnap bt.u).1 bt) ∧
  (∀ t d a b x, Runs (.tlbi t d a b) (form t a b none d.outs) (inUnit x) one_ fun s bt =>
    match tlbiRange bt.a.bits.toNat bt.bb.bits.toNat with
    | none => answer d 3 bt.T 0 s bt
    | some (lo, hi) =>
      let s1 := bt.promise (bt.raise s.bumpId bt.poisonFlag) d bt.T 0 s.nextId
      (s1.tlbiStart { tenant := x.tenant, lo := lo, hi := hi, u := bt.u, e := bt.e, late := some s.nextId }, []))

/-- R353, R354: CFGW writes one configuration item of the element it names and returns 0, or returns the reason why not, at
once where the target is not in the middle of a firing; a target whose words cannot be corrected traps, and the code is a free
value of the model (log 58); CANC, but in the cycle of a CANCEL of the host, cancels at its level and returns its code, 2 with
invalid where the element may not.
Completes: CFGW, CANC. -/
def Obligations.ConfigurationWritesAndCancels : Prop :=
  open Sys2Proof Machine Spec in
  (∀ t d a b v e, Runs (.cfgw t d a b) (form t a b none d.outs)
    (fun s bt => s.cfgwTarget bt.u bt.a.bits.toNat = some (v, e) ∧ ((s.elem v e).firing = none ∨ (v = bt.u ∧ e = bt.e)) ∧
      cfgwBroken (s.elem v e) (bitsOf bt.a.bits.toNat 17 16) bt.bb.bits = false) one_
    fun s bt =>
      let item := bitsOf bt.a.bits.toNat 17 16
      let idx := bitsOf bt.a.bits.toNat 23 18
      let code := cfgwReason (s.cfgOf v) (((s.unit? v).map UnitSt.priv).getD false) (s.elem v e) item idx bt.bb.bits
      answer d (BitVec.ofNat 64 code) bt.T 0 (if code = 0 then s.modElem v e fun y => cfgwWrite y item idx bt.bb.bits else s)
        bt) ∧
  (∀ t d a b v e, Runs (.cfgw t d a b) (form t a b none d.outs)
    (fun s bt => s.cfgwTarget bt.u bt.a.bits.toNat = some (v, e) ∧ (s.elem v e).firing = none ∧ ¬(v = bt.u ∧ e = bt.e) ∧
      cfgwBroken (s.elem v e) (bitsOf bt.a.bits.toNat 17 16) bt.bb.bits = true ∧
      s.canTrap v = true) one_
    fun s bt =>
      let slot := if bitsOf bt.a.bits.toNat 17 16 = 2 then 0 else bitsOf bt.a.bits.toNat 23 18
      answer d (BitVec.ofNat 64 (Config.free s.freeCtr % 256)) bt.T 0
        (({ s with freeCtr := s.freeCtr + 1 } : State).trap v e slot 0x27 0 0 0 0) bt) ∧
  (∀ t d a b, Runs (.cfgw t d a b) (form t a b none d.outs) (fun s bt => s.cfgwTarget bt.u bt.a.bits.toNat = none) one_
    fun s bt => answer d 0x11 bt.T 0 s bt) ∧
  (∀ t d a x, Runs (.canc t d a) (form t a none_ none d.outs) (fun s bt => inUnit x s bt ∧ s.host.cancelAt ≠ some s.clk.cyc)
    one_ fun s bt =>
    let r := cancOp s x bt.a.bits.toNat
    answer d (BitVec.ofNat 64 r.2) bt.T (if r.2 = 2 then Flags.invalid else 0) r.1 bt)

/-- R351, R355, R356: BRK stops the picker and reports under the debug attribute and else does nothing, PERF and TIME return
their counts, IDLE stops the picker until something rises or its limit passes, ATTN writes an attention record where one
finds a place, LOG writes a record of two words or counts a loss.
Completes: BRK, PERF, TIME, IDLE, ATTN, LOG. -/
def Obligations.ControlAndCounters : Prop :=
  open Sys2Proof Machine Spec in
  (∀ t x, Runs (.brk t) (form t none_ none_ none []) (inUnit x) one_ fun s bt =>
    (if x.debug then
       (bt.mod s fun y => { y with pick := .brk }).putFault { State.elemRec x bt.e bt.slot with kind := 2, cause := 0x28 }
     else s, [])) ∧
  (∀ t d a, Completes (.perf t d a) t a none_ none d.outs one_ fun s bt => counted d (perfOf s bt) s bt) ∧
  (∀ t d a, Completes (.time t d a) t a none_ none d.outs one_ fun s bt => counted d (timeOf s bt) s bt) ∧
  (∀ t a x, Runs (.idle t a) (form t a none_ none []) (inUnit x) one_ fun s bt =>
    let n := bt.a.bits.toNat % 2 ^ 24
    (bt.mod (bt.raise s bt.poisonFlag) fun y =>
      { y with pick := .idle (if n = 0 then none else some (s.clk.cyc + n)) (match a.src.chan? with
        | some ch => if a.peek then idleSig x bt.e else listUpd (idleSig x bt.e) ch.val fun _ => 0
        | none => idleSig x bt.e) }, [])) ∧
  (∀ t a x, Runs (.attn t a) (form t a none_ none []) (fun s bt => inUnit x s bt ∧ s.waitingRecs (s.queueOf x.job) < 64) one_
    fun s bt => ((bt.raise s bt.poisonFlag).putRecord (s.queueOf x.job) .comp (attnRecord bt.a.bits), [])) ∧
  (∀ t a b x, Runs (.log t a b) (form t a b none []) (inUnit x) one_ fun s bt =>
    let q := s.queueOf x.job
    let r := (s.queue q).log
    let s1 := bt.raise s bt.poisonFlag
    (if ({ r with wr := (r.wr + r.waiting.length) % 2 ^ 32 } : Ring).room then
       s1.putRecord q .log (bytesOfNat 8 bt.a.bits.toNat ++ bytesOfNat 8 bt.bb.bits.toNat)
     else s1.countUp 0x0501, []))

/-- R197, R348, R371, R372: TRAP traps its element with cause 0x26 and source A's payload as the record's address, where the
record finds a place.  A trap stops the element as HALT does and ends its firing, its requests that wait at tiles withdrawn
and those on their way to a tile kept, its status word showing the slot and its registers, predicates, accumulators and flags
as they are; it writes a fault record with its cause and flags; its launch has failed and is cancelled.  The model's choice:
what of the beat that traps remains (log 11, DEDUCED).
Completes: TRAP. -/
def Obligations.TrapsAreTaken : Prop :=
  open Sys2Proof Machine Spec in
  (∀ t a, Traps (.trap t a) (form t a none_ none []) (fun _ _ _ => False) one_ (each fun s _ => (s, []))
    (trapped fun _ bt => some (0x26, bt.a.bits.toNat))) ∧
  (∀ (s : State) (u e slot : Nat) (x : UnitSt), s.unit? u = some x →
    let y := x.elem e
    let s1 := (s.modElem u e fun y => { y with pick := .trapped, firing := none, last := BitVec.ofNat 5 slot }).withdrawAside u e
    let s2 := s1.modElem u e fun y => (List.finRange 8).foldl State.endPending y
    let z := s2.elem u e
    (∃ v, s2.unit? u = some v ∧ v.reqs = x.reqs ∧ ∀ t, ∀ r ∈ (v.tile t).waiting, r ∈ (x.tile t).waiting ∧ r.e ≠ e) ∧
    z.pick = .trapped ∧ z.firing = none ∧ z.last = BitVec.ofNat 5 slot ∧ z.k = y.k ∧ z.p = y.p ∧ z.acc = y.acc ∧
      z.wave = y.wave ∧ z.fl = y.fl ∧ z.ins = y.ins ∧
      ∀ n : Fin 8, z.g[n].val = y.g[n].val ∧ z.g[n].tag = y.g[n].tag ∧ z.g[n].present = y.g[n].present) ∧
  (∀ (s : State) (u e slot cause item va : Nat) (fl : Flags) (x : UnitSt), s.unit? u = some x →
    let s1 := (s.modElem u e fun y => { y with pick := .trapped, firing := none, last := BitVec.ofNat 5 slot }).withdrawAside u e
    let s2 := (s1.modElem u e fun y => (List.finRange 8).foldl State.endPending y).putFault
      { State.elemRec x e slot with cause := cause, item := item, va := va, flags := fl.toNat }
    let s3 := (s2.modUnit u fun y => { y with failed := true }).modLaunch x.launch fun l => { l with fail := true }
    s.trap u e slot cause item va 0 0 fl = s3.cancelLaunch x.launch)

/-- R73-R76, R351, R355: the events of one element of a placed section complete: an idled picker wakes when something it
watches rose or its limit is reached, a picker stopped by BRK resumes, a trigger held for 2^20 cycles sets its starve bit,
2^24 cycles without a firing set the idle bit and, for a whole section, make the watchdog report, a gated half takes the
state asked for between two firings and loses its registers where it was or goes off.
Completes: PEEK_CONTINUE_IDLE_WAKE, BREAKPOINT_RESUME, WATCHDOG_EXPIRY, STARVE_BIT_SET, GATE_STATE_CHANGE,
ELEMENT_STATUS_IDLE_SET. -/
def Obligations.ElementEvents : Prop :=
  open Sys2Proof Machine in
  (∀ s u e x, s.unit? u = some x → s.wakes x e = true →
    ∃ r, exec (.peekContinueIdleWake u e) s = .next r ∧ (r.elem u e).pick = .run) ∧
  (∀ s u e x, s.boot.powered = true → s.linkUp = true → s.unit? u = some x → (x.elem e).pick = .brk →
    ∃ r, exec (.breakpointResume u e) s = .next r ∧ (r.elem u e).pick = .run) ∧
  (∀ s u e k x c, s.placed? u = some x → (x.elem e).starveAt.get? k = some c → slotHolds x e k = true → k < 32 →
    c + 2 ^ 20 ≤ s.clk.cyc →
    ∃ r, exec (.starveBitSet u e k) s = .next r ∧ (r.elem u e).starve = (x.elem e).starve ||| (1#32 <<< k)) ∧
  (∀ s u e x, s.placed? u = some x → (x.elem e).lastFire + 2 ^ 24 ≤ s.clk.cyc → x.armedAt + 2 ^ 24 ≤ s.clk.cyc →
    ∃ r, exec (.elementStatusIdleSet u e) s = .next r ∧ r.elem u e = { x.elem e with idleBit := true }) ∧
  (∀ s u e x, s.placed? u = some x → (x.elem e).cfg.gated = true → (x.elem e).firing = none →
    (x.elem e).busy ≤ s.clk.cyc →
    ∃ r, exec (.gateStateChange u e) s = .next r ∧
      let want := s.gateWanted (x.quarterOf e) true
      (r.elem u e).gate = (if (x.elem e).gate = .off ∧ want ≠ .on then .off else want) ∧
      ∀ i : Fin 8, (r.elem u e).g[i] =
        if 4 ≤ i.val ∧ (x.elem e).gate ≠ want ∧ ((x.elem e).gate = .off ∧ want = .on ∨ want = .off) then {} else (x.elem e).g[i]) ∧
  (∀ s u x, s.placed? u = some x → (x.elems.any fun p => p.2.pick == .brk) = false → quietSince x + 2 ^ 24 ≤ s.clk.cyc →
    exec (.watchdogExpiry u) s = .next ((s.setUnit u { x with quietAt := s.clk.cyc }).putFault
      { kind := 2, agent := 6, cause := 0x2A, job := x.job, section_ := x.section_, replica := x.replica
        unit := x.serial, snap := x.lastSnap, pa := watchCause s u x }))

/-- R28, R57, R61, R62, R72, R134, R191, R318: a token at the head of a route lands at the route's target, or at its divert
target where the route does not admit its tag; a corner turn gathers and emits; a pulse that no fence of its sender holds
back adds one to a counter, at most 32; a configuration token writes the k-register its coordinate names between two
firings; a token of the host waits at the host port's ingress point, or for the section's next unit once the unit drains.  The
model's choice: that a pulse behind a fence waits on its way for that fence (log 55, DEDUCED).
Completes: CONFIG_TOKEN_CONSUME, PULSE_ARRIVAL, INGRESS_TOKEN, CHANNEL_TOKEN_ARRIVAL, CORNER_TURN_EMIT. -/
def Obligations.TokenEvents : Prop :=
  open Sys2Proof Machine in
  (∀ s u i x r t y, s.placed? u = some x → x.cfg.routes[i]? = some r → State.routeHead x i r = some (t, y) →
    (State.Route.refuses r t = false → r.turn = 0 → State.endRoom x r.dst = true →
      exec (.channelTokenArrival u i) s = .next (s.land u y r.dst t)) ∧
    (State.Route.refuses r t = true → State.endRoom x r.divert = true →
      exec (.channelTokenArrival u i) s = .next (s.land u y r.divert t)) ∧
    (State.Route.refuses r t = false → r.turn ≠ 0 → (y.route i).order = [] → t.isData = true →
      (y.route i).turn.length + 1 < r.turn * r.turn →
      exec (.channelTokenArrival u i) s = .next (s.setUnit u
        { y.setRoute i { y.route i with turn := (y.route i).turn ++ [t] } with quietAt := s.clk.cyc }))) ∧
  (∀ s u i x r t rest, s.placed? u = some x → x.cfg.routes[i]? = some r → (x.route i).order = t :: rest →
    State.endRoom x r.dst = true →
    exec (.cornerTurnEmit u i) s = .next (s.land u (x.setRoute i { x.route i with order := rest }) r.dst t)) ∧
  (∀ s u i x r row col ch, s.placed? u = some x → x.cfg.routes[i]? = some r → r.dst = .chan row col ch → 8 ≤ ch →
    ((x.route i).pulses ≠ 0 →
      ∃ t, exec (.pulseArrival u i) s = .next t ∧
        t.elem u (x.cfg.elemAt row col) = (x.elem (x.cfg.elemAt row col)).addPulse (Fin.ofNat 4 ch) 1 ∧
        ∃ y, t.unit? u = some y ∧ (y.route i).pulses + 1 = (x.route i).pulses ∧ (y.route i).fenced = (x.route i).fenced) ∧
    (∀ n rest, (x.route i).pulses = 0 → (x.route i).fenced = n :: rest → fencesPast s u x r n = true →
      ∃ t, exec (.pulseArrival u i) s = .next t ∧
        t.elem u (x.cfg.elemAt row col) = (x.elem (x.cfg.elemAt row col)).addPulse (Fin.ofNat 4 ch) 1 ∧
        ∃ y, t.unit? u = some y ∧ (y.route i).fenced = rest)) ∧
  (∀ s u e ch x t, s.placed? u = some x → (x.elem e).front (Fin.ofNat 4 ch) = some t → t.isConfig = true →
    (x.elem e).firing = none → (x.elem e).busy ≤ s.clk.cyc →
    ∃ r, exec (.configTokenConsume u e ch) s = .next r ∧
      (r.elem u e).k = (if t.coord.toNat < 8 then (x.elem e).k.set (Fin.ofNat 8 t.coord.toNat) t.payload else (x.elem e).k)) ∧
  (∀ s u n tok x, s.unit? u = some x → (x.cfg.bindCfg n).kind = .host →
    ((x.phase = .running ∨ ∃ a, x.phase = .frozen a false) → exec (.ingressToken u n tok) s = .next (s.deliverTo 13 u n [tok])) ∧
    (x.phase ≠ .running → (∀ a, x.phase ≠ .frozen a false) → ∃ r, exec (.ingressToken u n tok) s = .next r ∧
      r.heldIn = s.heldIn ++ [{ tenant := x.tenant, u := u, n := n, tok := tok }] ∧ r.units = s.units))

/-- R224, R253, R297, R298, R304, R315, R316, R406: a known late result is written where it goes once its latency is over; a
request set aside at a tile is performed when its condition holds; the first instance in stage B is settled where stage B
decides it, or else its request reaches the exact unit as of the cycle after stage B, which settles the head of its queue once
no request that comes before it is still to arrive; the
oldest predicate token leaves the reorder window; the poison of a dropped copy returns in its cycle.
Completes: LATE_RESULT_WRITE, FE_WAIT_COMPLETE, GUARD_POISON_RETURN, STAGE_B_RESULT, EXACT_UNIT_RESULT,
PREDICATE_RESULT_SEND. -/
def Obligations.ResultEvents : Prop :=
  open Sys2Proof Machine in
  (∀ s u e i x l k n, s.placed? u = some x → (x.elem e).late[i]? = some l → l.tok = some k → l.due ≤ s.clk.cyc →
    firstThere (x.elem e).late i l.dst = true → l.dst = .reg n → l.last = true →
    ∃ r, exec (.lateResultWrite u e i) s = .next r ∧
      (r.elem u e).g[n].val = k.payload ∧ (r.elem u e).g[n].present = true ∧ (r.elem u e).g[n].pending = false ∧
      (r.elem u e).g[n].tag = k.tag ∧ (r.elem u e).fl = (x.elem e).fl ||| l.fl ∧
      ∀ m : Fin 8, m ≠ n → (r.elem u e).g[m] = (x.elem e).g[m]) ∧
  (∀ s u e i x l k, s.placed? u = some x → (x.elem e).late[i]? = some l → l.tok = some k → l.due ≤ s.clk.cyc →
    firstThere (x.elem e).late i l.dst = true →
    exec (.lateResultWrite u e i) s =
      .next (s.setUnit u (State.writeLate (x.setElem e { x.elem e with late := listDel (x.elem e).late i }) e l))) ∧
  (∀ s u t i x w, s.placed? u = some x → (x.tile t).waiting[i]? = some w → w.op.ready (x.tile t) w.word = true →
    aheadOf (x.tile t) i w = false → State.badWord x w = false →
    exec (.feWaitComplete u t i) s =
      .next ((s.setUnit u (x.setTile t { x.tile t with waiting := listDel (x.tile t).waiting i })).perform u w)) ∧
  (∀ s u e i x g, s.placed? u = some x → (x.elem e).win[i]? = some g → g.stage = .inB → g.due ≤ s.clk.cyc →
    (((x.elem e).win.take i).any fun h => h.stage == .inB) = false →
    (∀ v, decideInst g.pred g.sym .b g.pts = some v →
      exec (.stageBResult u e i) s = .next (s.setUnit u (settleInst x e i g s.clk.cyc v))) ∧
    (decideInst g.pred g.sym .b g.pts = none →
      exec (.stageBResult u e i) s = .next (exactJoin (s.setUnit u (x.setElem e { x.elem e with
        win := listUpd (x.elem e).win i fun h => { h with stage := .inC } })) (x.blockOf e) u e g.due))) ∧
  (∀ s b u e at_ rest x (g : GeoInst) v, s.exact.getD b [] = (u, e, at_) :: rest → s.placed? u = some x →
    (x.elem e).win[(x.elem e).win.findIdx fun (g : GeoInst) => g.stage == GeoStage.inC]? = some g →
    decideInst g.pred g.sym .c g.pts = some v → exactBefore s b u e at_ = false →
    exec (.exactUnitResult b) s = .next ({ s with exact := s.exact.put b rest [] }.setUnit u
      (settleInst x e ((x.elem e).win.findIdx fun (g : GeoInst) => g.stage == GeoStage.inC) g s.clk.cyc v))) ∧
  (∀ s u e x g t rest, s.placed? u = some x → (x.elem e).win = g :: rest → g.stage = .known t → g.due ≤ s.clk.cyc →
    (∀ o ∈ outsOf g.dst, x.credit e o 1 = true) →
    let later := match rest with
      | h :: q => { h with due := max h.due (s.clk.cyc + 1) } :: q
      | [] => []
    exec (.predicateResultSend u e) s =
      .next (s.setUnit u ((outsOf g.dst).foldl (fun z o => z.send e o t) (x.setElem e { x.elem e with win := later })))) ∧
  (∀ s i g, s.guards.get? i = some g → g.due ≤ s.clk.cyc →
    exec (.guardPoisonReturn i) s =
      .next ({ s with guards := s.guards.erase i }.complete g.u g.bind g.num g.doneB (Token.poison 0x29 0)))

namespace Sys2Proof.Spec
open Machine

/-- The value of lane `c` of a vector of partial sums (R232). -/
def vecVal (p : PsVec) (flush : Bool) (c : Nat) : FVal :=
  let b := (p.lanes.getD c 0).toNat
  if p.fp = true then FFmt.fp32.decode flush b else .fin (decide (sintOf 32 b < 0)) (sintOf 32 b).natAbs 0

/-- An accumulator's type and lanes before a vector is added: FP32 when either is, else INT32, lanes of another type zero, which
is invalid (R230, R233). -/
def southOld (p : PsVec) (a : Acc) : Acc × Flags :=
  a.retype (if p.fp = true ∨ a.ty = .fp32 then .fp32 else .int32) true

/-- What lane `i` of it becomes with lane `c` of the vector added, one rounding or clamp (R233). -/
def southLane (p : PsVec) (flush : Bool) (mode : RMode) (a : Acc) (i c : Nat) : Lane :=
  storeLane a.ty flush mode (sumT mode [Term.of (a.val flush i), Term.of (vecVal p flush c)])

end Sys2Proof.Spec

/-- R68, R70, R81, R232-R235, R247, R305: a systolic element whose rules could see a head on i0 takes it when its datapath is free
and no WLD goes first: data and poison meet a vector and pass east and south, another mark goes east alone; a vector at the
south edge is added into accumulator coordinate[7:6] when no ACRD of it and no firing on the bricks or accumulators is in
progress: with n columns and slot j = coordinate[31:8] mod 256/n, lane n j + c takes lane c in one rounding or clamp, every other
lane and accumulator stays; a tail pulses c3.  The model's choice: a poison token takes a vector and one cycle, and an addition
waits for a firing on the bricks or accumulators (log 52, DEDUCED).
Completes: SYSTOLIC_TOKEN_PROCESS, SOUTH_EDGE_ADD. -/
def Obligations.SystolicEvents : Prop :=
  open Sys2Proof Machine Spec in
  (∀ s u e x t, s.placed? u = some x → (x.elem e).cfg.systolic = true → (x.elem e).stopped = false →
    (x.elem e).sysBusy ≤ s.clk.cyc → (x.elem e).brickBusy ≤ s.clk.cyc → wldFirst s u x e = false →
    ((x.elem e).visible 0).head? = some t →
    (∀ p x1 x2, t.isData = true → northVec x e = some (p, x1) →
      let r := sysMeet x1.cfg.pal x1.cfg.flush (RMode.ofCode x1.cfg.mode) (x.elem e).mb t p
      passEast (x1.setElem e { (x1.elem e).dequeue 0 with sysBusy := s.clk.cyc + r.2.2, fl := (x1.elem e).fl ||| r.2.1 }) e t
        = some x2 →
      exec (.systolicTokenProcess u e) s = .next (s.setUnit u { passSouth x2 e r.1 t with quietAt := s.clk.cyc })) ∧
    (∀ p x1 x2, t.isPoison = true → northVec x e = some (p, x1) →
      passEast (x1.setElem e { (x1.elem e).dequeue 0 with sysBusy := s.clk.cyc + 1 }) e t = some x2 →
      exec (.systolicTokenProcess u e) s =
        .next (s.setUnit u { passSouth x2 e { p with poison := true } t with quietAt := s.clk.cyc })) ∧
    (∀ x2, t.isData = false → t.isPoison = false → t.isDrain = false → passEast (x.setElem e ((x.elem e).dequeue 0)) e t = some x2 →
      exec (.systolicTokenProcess u e) s = .next (s.setUnit u { x2 with quietAt := s.clk.cyc }))) ∧
  (∀ s u e x p t rest, s.placed? u = some x → (x.elem e).south = (p, t) :: rest →
    (p.poison = true ∨ additionWaits (x.elem e) (Fin.ofNat 4 (t.coord.toNat / 64)) = false) →
    ∃ r, exec (.southEdgeAdd u e) s = .next r ∧ (r.elem u e).south = rest ∧
      (r.elem u e).ctl = (if t.isTail then (x.elem e).ctl.set 3 (min 32 ((x.elem e).ctl[3] + 1)) else (x.elem e).ctl) ∧
      (p.poison = true → (r.elem u e).acc = (x.elem e).acc ∧ (r.elem u e).fl = (x.elem e).fl ||| Flags.invalid) ∧
      (∀ k : Fin 4, k ≠ Fin.ofNat 4 (t.coord.toNat / 64) → (r.elem u e).acc[k] = (x.elem e).acc[k]) ∧
      (p.poison = false →
        let k := Fin.ofNat 4 (t.coord.toNat / 64)
        let n := max p.n 1
        let j := t.coord.toNat / 256 % (256 / n)
        let old := southOld p (x.elem e).acc[k]
        let lane := fun c => southLane p x.cfg.flush (RMode.ofCode x.cfg.mode) old.1 (n * j + c) c
        (r.elem u e).acc[k].ty = old.1.ty ∧ (∀ c < n, (r.elem u e).acc[k].raw (n * j + c) = (lane c).bits % 2 ^ 32) ∧
          (∀ i, i < n * j ∨ n * j + n ≤ i → (r.elem u e).acc[k].raw i = old.1.raw i) ∧
          (r.elem u e).fl = (x.elem e).fl ||| (List.range n).foldl (fun f c => f ||| (lane c).fl) old.2))

/-- R84, R114-R116, R118, R119, R122, R133, R263-R265: a slot stream answers its oldest request with one burst once it is its
turn among those of its element for the slot (its point of entry is the model's choice, log 21, DEDUCED); a landed delivery is
counted off its buffer, ready when none is left; a slot whose 1,024 cycles are over is free and zero; a line that returned
fills its way where the cache holds the superblock, and the accesses that waited for it are done; a tag walk that is over, with no earlier access of its element to its
range still to be performed, writes back or invalidates its range; a window with less than 32 KiB ahead has a transport
rider of 32 KiB sent for its head (when that happens is the model's choice, log 20, DEDUCED).
Completes: SLOT_ZERO_COMPLETE, SLOT_STREAM_REQUEST, BUFFER_DELIVERY_COMPLETE, CACHE_FILL_RETURN, CACHE_WALK_END,
WINDOW_EXTEND. -/
def Obligations.StorageEvents : Prop :=
  open Sys2Proof Machine in
  (∀ s u n x k rest, s.placed? u = some x → (x.bindSt n).inq = k :: rest → (x.cfg.bindCfg n).kind = .slot →
    slotTurn x n = true → exec (.slotStreamRequest u n) s =
      .next ((s.setUnit u (x.setBind n { (x.bindSt n).ownNext with inq := rest })).deliverTo 14 u n (slotStream s x k))) ∧
  (∀ s u b x, s.placed? u = some x → (x.buf b).landed ≠ 0 →
    ∃ r y, exec (.bufferDeliveryComplete u b) s = .next r ∧ r.unit? u = some y ∧
      (y.buf b).count = (x.buf b).count - 1 ∧ (y.buf b).landed = (x.buf b).landed - 1 ∧
      ((x.buf b).count = 1 → (x.buf b).phase = .filling → (x.buf b).byCmd = false → (y.buf b).phase = .ready)) ∧
  (∀ s q n c, (s.slotOf q n).zeroAt = some c → c ≤ s.clk.cyc →
    ∃ r, exec (.slotZeroComplete q n) s = .next r ∧ r.slotOf q n = {}) ∧
  (∀ s u i x item line ws, s.placed? u = some x → x.cache.fills[i]? = some (item, line, ws) →
    (x.cache.way? (sbOf line)).isSome = true →
    let c : Cache := { x.cache with fills := listDel x.cache.fills i
                                    waits := x.cache.waits.filter fun w => !(w.item == item && !w.direct) }
    let s1 := s.modCache u fun c => { c with fills := listDel c.fills i
                                             waits := c.waits.filter fun w => !(w.item == item && !w.direct) }
    exec (.cacheFillReturn u i) s = .next ((x.cache.waits.filter fun w => w.item == item && !w.direct).foldl
      (fun t w => afterFill t u w) (s1.modCache u fun _ => c.fillLine (sbOf line) line ws s1.nextId).bumpId)) ∧
  (∀ s u i x item line ws, s.placed? u = some x → x.cache.fills[i]? = some (item, line, ws) →
    (x.cache.way? (sbOf line)).isSome = true → (x.cache.waits.filter fun w => w.item == item && !w.direct) = [] →
    ∃ r y, exec (.cacheFillReturn u i) s = .next r ∧ r.unit? u = some y ∧ y.cache.fills = listDel x.cache.fills i ∧
      y.cache.waits = x.cache.waits ∧
      y.cache.ways = ({ x.cache with fills := listDel x.cache.fills i }.fillLine (sbOf line) line ws s.nextId).ways) ∧
  (∀ s u i x w, s.placed? u = some x → x.cache.walks[i]? = some w → w.fin ≤ s.clk.cyc → walkWaits x.cache w = false →
    (w.wb = false → exec (.cacheWalkEnd u i) s = .next ((s.modCache u fun c => { c with walks := listDel c.walks i }).modCache u
      fun c => c.invalidate w.lo w.hi)) ∧
    (w.wb = true → exec (.cacheWalkEnd u i) s = .next (((s.modCache u fun c => { c with walks := listDel c.walks i }).modCache u
      fun c => { c with ways := (x.cache.clean w.lo w.hi).1.ways }).sendLines u w.e w.slot w.wave w.num
        (x.cache.clean w.lo w.hi).2))) ∧
  (∀ s u i x w, s.placed? u = some x → (x.cache.wins.getD 0 [])[i]? = some w → w.head < w.lastRead + 32768 → w.ext = none →
    let s1 := s.serveWindows u
    ∃ t r, exec (.windowExtend u i) s = .next t ∧ t.sweep.riders.get? s1.nextId = some r ∧ r.what = .window ∧ r.u = u ∧
      r.tenant = x.tenant ∧ r.base = w.head ∧ 64 * r.len = 32768 ∧ r.phase = .arrived ∧
      ∀ z, s1.unit? u = some z → ∃ y, t.unit? u = some y ∧
        y.cache.wins.getD 0 [] = listUpd (x.cache.wins.getD 0 []) i fun w => { w with ext := some s1.nextId })

/-- R86-R88, R92, R99, R105, R106, R131, R269, R363: the oldest packet of a sweep binding reaches its port and is refused or
becomes a rider; an arrived rider that is first in its binding is translated, ready where its span lies in one class, a line of
a table that its walk needs being fetched by a rider; a request of an element is translated when it is its turn; the head of a
carriage's queue is offered to the window; an end-of-stream closes its carriage, also under a hold; a rider whose visits are
over delivers its data before its completion token; a request of the management path is translated as another is, and accepted
where its class is not held and the window has an entry for every line of it.  The model's choice: the index a completion carries where every item was
applied (log 51, DEDUCED), and that a completion waits for data at another ingress point (log 34, DEDUCED).
Completes: RIDER_PACKET_CHECK, RIDER_TRANSLATE, TRANSLATION_WALK, RIDER_ALIGHT, ITEM_ACCEPT, CARRIAGE_CLOSE. -/
def Obligations.RiderEvents : Prop :=
  open Sys2Proof Machine in
  (∀ s u n x p rest k, s.placed? u = some x → (x.bindSt n).packets = p :: rest → isPort x.cfg n = true →
    packetKind p = some k → packetRefused x.cfg p (riderOf x u n p k) = none →
    ∃ r, exec (.riderPacketCheck u n) s = .next r ∧ r.sweep.riders.get? p.id = some (riderOf x u n p k) ∧
      ∃ y, r.unit? u = some y ∧ (y.bindSt n).packets = rest ∧
        (k = .gat ∨ k = .sca → (y.bindSt n).carriage = some p.id)) ∧
  (∀ s u n x p rest k cause, s.placed? u = some x → (x.bindSt n).packets = p :: rest → isPort x.cfg n = true →
    packetKind p = some k → packetRefused x.cfg p (riderOf x u n p k) = some cause →
    exec (.riderPacketCheck u n) s = .next ((s.setUnit u (x.setBind n { x.bindSt n with packets := rest })).complete u n p.id
      (riderOf x u n p k).doneB (State.compTok 2 0 cause 0 0 (riderOf x u n p k).tag))) ∧
  (∀ s i r s1 ps c, s.sweep.riders.get? i = some r → r.phase = .arrived → firstToTranslate s i r = true →
    s.spanPages r.port (riderAsk i r) r.base (64 * r.firstLines) = (s1, .ok ps) →
    spanClasses (s1.endWalk i) { r with pages := ps, len := r.firstLines } = [c] → (c ≠ .deep ∨ r.kind ≠ .tblb) →
    exec (.riderTranslate i) s = .next ((s1.endWalk i).setRider i { r with pages := ps, phase := .ready, cls := c }) ∧
    exec (.translationWalk i) s = .next ((s1.endWalk i).setRider i { r with pages := ps, phase := .ready, cls := c })) ∧
  (∀ s i r s1 va line, s.sweep.riders.get? i = some r → r.phase = .arrived → firstToTranslate s i r = true →
    s.spanPages r.port (riderAsk i r) r.base (64 * r.firstLines) = (s1, .error (va, .fetch line)) →
    exec (.translationWalk i) s = .next (s1.fetchLine (riderAsk i r) r.u r.job r.port va line)) ∧
  (∀ s i k s1 p, s.sweep.riders.get? i = none → s.sweep.items.get? i = some k → k.pa = none → k.held = none →
    itemFirst s i k = true → itemRuns s k = true → k.man = 0 →
    s.translate (s.portOfVa k.tenant k.va) { tenant := k.tenant, secure := k.secure, host := false, who := i, write := match k.kind with
      | .wb => true
      | _ => false } k.va = (s1, .page p) →
    s1.classHeld (s1.classAt (p.at_ k.va)) = false →
    windowTakes s1 (portAt (p.at_ k.va)) (entryOf s1 { k with pa := some (p.at_ k.va) }) = true →
    exec (.translationWalk i) s = .next (acceptItem s1 i k p k.va)) ∧
  (∀ s i k s1 p, s.sweep.riders.get? i = none → s.sweep.items.get? i = some k → k.pa = none → k.held = none →
    itemFirst s i k = true → itemRuns s k = true → k.man ≠ 0 → k.size ≠ 0 →
    s.translate (s.portOfVa k.tenant k.va) { tenant := k.tenant, secure := k.secure, host := false, who := i, write := match k.kind with
      | .mput _ => true
      | _ => false } k.va = (s1, .page p) →
    (k.deepOnly = true → targetOf (p.at_ k.va) = .deep) → manBytes s1 k p = k.size →
    exec (.translationWalk i) s = .next (acceptItem s1 i k p k.va)) ∧
  (∀ s u n x i k rest r, s.placed? u = some x → (x.bindSt n).carriage = some i → (x.bindSt n).inq = k :: rest →
    s.sweep.riders.get? i = some r → takesItems s i r = true → k.isEos = false →
    exec (.itemAccept u n) s = .next (acceptFrom s i r k)) ∧
  (∀ s u n x i k rest r s1 p, s.placed? u = some x → (x.bindSt n).carriage = some i → (x.bindSt n).inq = k :: rest →
    s.sweep.riders.get? i = some r → takesItems s i r = true → k.isData = true → r.kind = .gat → answerRoom s i r = true →
    k.coord.toNat < 8 * r.len → s.translate r.port (riderAsk i r) (r.base + 8 * k.coord.toNat) = (s1, .page p) →
    (s1.endWalk i).classAt (p.at_ (r.base + 8 * k.coord.toNat)) = r.cls →
    let item : Item := { u := r.u, e := r.e, slot := r.slot, wave := false, kind := .gat i r.nextItem (k.payload.setWidth 32)
                         va := r.base + 8 * k.coord.toNat, tenant := r.tenant, secure := r.secure }
    windowTakes (s1.endWalk i) (portAt (p.at_ item.va)) (entryOf (s1.endWalk i) { item with pa := some (p.at_ item.va) }) = true →
    exec (.itemAccept u n) s = .next (acceptItem ((takeHead (s1.endWalk i).bumpId r).setRider i
      { r with nextItem := r.nextItem + 1, waiting := r.waiting + 1 }) (s1.endWalk i).nextId item p item.va)) ∧
  (∀ s i r x k rest, s.sweep.riders.get? i = some r → s.placed? r.u = some x → (x.bindSt r.bind).inq = k :: rest →
    k.isEos = true → streamOn s i r = true →
    ∃ t, exec (.carriageClose i) s = .next t ∧ t.sweep.riders.get? i = some { r with closed := true } ∧
      ∃ y, t.unit? r.u = some y ∧ (y.bindSt r.bind).inq = rest) ∧
  (∀ s i r, s.sweep.riders.get? i = some r → r.phase = .alighted →
    let put := s.deliverRider i r (alightData r).1
    let q := { r with fl := r.fl ||| (alightData r).2 }
    (alightData r).1.length ≤ put.2 →
    (dataAway put.1 i q = true → exec (.riderAlight i) s = .next (endRide put.1 i q)) ∧
    (dataAway put.1 i q = false → exec (.riderAlight i) s = .next (put.1.setRider i { q with phase := .leaving, out := [] }))) ∧
  (∀ s i r, s.sweep.riders.get? i = some r → r.phase = .leaving → dataAway s i r = true →
    exec (.riderAlight i) s = .next (endRide s i r)) ∧
  (∀ s i r, r.buffer = none → endRide s i r = (startZeros (s.finishRider i r
      (State.compTok (alightStatus r) r.fl (alightCause r) r.count (r.firstBad.getD (itemsOf r)) r.tag))))

/-- R20, R82, R110, R130, R325, R334, R339-R344: a step boundary of a class that may fall advances its step count by
one; a held class with nothing aboard or accepted stops, an idle one pauses, a stopped one resumes with something to do or
once its hold ends, its first visit two quick steps or one step of another class ahead; a posted ring change is granted when the
ring is free, and made at a boundary of its new class; a budget window begins at the quick boundary whose step is a multiple of
65,536, once no record must be taken before it: the limit of each budget is what its register says, but for a write in that very
cycle, and its balance the limit and the deficit it had, clamped, or the greatest value where the limit is unlimited; a charge is
taken from a limited balance; a token passes its ingress bucket, charged, waits for its budget, and is refused by a budget whose
limit is 0; bucket rates are recomputed once in a quick step.  The model's choice: the steps a deep class takes to resume (log 62),
and what becomes of a token that is refused (log 36).
Completes: STEP_BOUNDARY, BUDGET_WINDOW_BOUNDARY, CLASS_STOP, IDLE_PAUSE, CLASS_RESUME, RING_CLASS_CHANGE,
INGRESS_BUCKET_PASS, BUCKET_RATE_RECOMPUTE. -/
def Obligations.SweepEvents : Prop :=
  open Sys2Proof Machine in
  (∀ s c, s.mayStep c = true →
    ∃ r, exec (.stepBoundary c) s = .next r ∧ (r.classSt c).step = (s.classSt c).step + 1 ∧
      (r.classSt c).stopped = ((s.classSt c).stopped && !s.resumeDue c)) ∧
  (∀ s c, s.classHeld c = true → s.aboard c = [] → s.waitingItems c = [] → (s.classSt c).stopped = false →
    exec (.classStop c) s = .next (s.setClass c { s.classSt c with stopped := true, idle := 0 })) ∧
  (∀ s c, pauseOn s c = true → 65536 ≤ (s.classSt c).idle → s.classIdle c = true → (s.classSt c).stopped = false →
    exec (.idlePause c) s = .next (s.setClass c { s.classSt c with stopped := true })) ∧
  (∀ s c, (s.classSt c).stopped = true → s.classHeld c = false → (s.classIdle c = false ∨ (s.classSt c).idle < 65536) →
    exec (.classResume c) s = .next (s.setClass c { s.classSt c with
      stopped := false, idle := 0, lead := (s.classSt c).step + (if c = .quick then 2 else 1) })) ∧
  (∀ s k quick, s.sweep.ringReq = some (k, quick) → s.ringFree k = true →
    exec (.ringClassChange k) s = .next { s with sweep := { s.sweep with ringGo := true } }) ∧
  (∀ (s : State) (k : Nat) (quick : Bool) (c : SweepClass), s.sweep.ringReq = some (k, quick) → s.sweep.ringGo = true → s.ringFree k = true → k < 320 →
    c = (if quick then SweepClass.quick else SweepClass.steady) →
    (s.joinRing c).sweep.ringReq = none ∧ (s.joinRing c).ringQuick k = quick) ∧
  (∀ s, (s.sweep.quick.step + 1) % 65536 = 0 → s.clk.win ≠ (s.sweep.quick.step + 1) / 65536 → s.mayStep .quick = true →
    exec .budgetWindowBoundary s = exec (.stepBoundary .quick) s ∧
    ∃ r, exec .budgetWindowBoundary s = .next r ∧ r.clk.win = (s.sweep.quick.step + 1) / 65536 ∧
      (r.classSt .quick).step = (s.classSt .quick).step + 1) ∧
  (∀ (s : State) (w t k : Nat), t < 1024 → k < 4 →
    let r := s.turnWindow w
    let limit := s.refillLimit (4 * t + k)
    r.clk.win = w ∧ r.limitOf t k = limit ∧
    r.balanceOf t k = (if limit = 0xFFFFFFFF then 0x7FFFFFFF else
      max (-(2 ^ 31)) (min ((limit : Int) + min (s.balanceOf t k) 0) (2 ^ 31 - 1)))) ∧
  (∀ (s : State) (t k : Nat), t < 1024 → k < 4 →
    ((s.power.written.get? (4 * t + k) = none ∨ ∃ c old, s.power.written.get? (4 * t + k) = some (c, old) ∧ c ≠ s.clk.cyc) →
      s.refillLimit (4 * t + k) = (s.reg (tbud t k)).toNat % 2 ^ 32) ∧
    (∀ old, s.power.written.get? (4 * t + k) = some (s.clk.cyc, old) → s.refillLimit (4 * t + k) = old)) ∧
  (∀ (s : State) (t k n : Nat), t < 1024 → k < 4 →
    (s.limitOf t k = 0xFFFFFFFF → s.charge t k n = s) ∧
    (s.limitOf t k ≠ 0xFFFFFFFF → (s.charge t k n).limitOf t k = s.limitOf t k ∧
      (s.charge t k n).balanceOf t k = max (-(2 ^ 31)) (min (s.balanceOf t k - n) (2 ^ 31 - 1)))) ∧
  (∀ s p i, (s.ingress.getD p {}).q = [i] → s.canEnter i = true →
    (s.isOver i = false → s.inBudget i.tenant 1 = true → s.noBudget i.tenant 1 = false → 256 ≤ s.creditOf p →
      exec (.ingressBucketPass p) s = .next ((({ s with ingress := s.ingress.set p { q := [], turn := i.tenant } }.spendCredit p
        256).charge i.tenant 1 1).enter i)) ∧
    (s.isOver i = false → s.noBudget i.tenant 1 = true → 256 ≤ s.creditOf p →
      exec (.ingressBucketPass p) s = .next (({ s with ingress := s.ingress.set p { q := [], turn := i.tenant } }.spendCredit p
        256).refuseToken i)) ∧
    (s.isOver i = false → (s.inBudget i.tenant 1 = false ∧ s.noBudget i.tenant 1 = false ∨ s.creditOf p < 256) →
      exec (.ingressBucketPass p) s = .next s) ∧
    (s.isOver i = true →
      exec (.ingressBucketPass p) s = .next { s with ingress := s.ingress.set p { q := [], turn := i.tenant } })) ∧
  (∀ s, s.power.rated < s.sweep.quick.step →
    ∃ r, exec .bucketRateRecompute s = .next r ∧ r.power.rated = s.sweep.quick.step ∧ r.units = s.units)

namespace Sys2Proof.Spec
open Machine

/-- The entry of a window names another tenant than its sender's, and is not shared (R393). -/
def strange (entry : Word) (tenant : Nat) : Bool := bitsOf entry.toNat 47 38 != tenant && bitsOf entry.toNat 11 11 == 0

end Sys2Proof.Spec

/-- R279, R280, R284, R374, R390, R392, R393, R395: a copy engine that moves nothing starts the next copy, charged, or refuses it;
a started copy whose section is not frozen, whose host link is up and for which a port is in domain mode, so far as it goes through
them, completes with status done once its sectors have moved; one through a window the other package may refuse, and refuses with
0x14 where the entry names another tenant and is not shared; a DRN whose earlier traffic has completed is answered; the oldest
collective of a group is refused, completed or times out, and in each case ends with a completion token.  The model's choice: what
the other package answers to a copy (log 38), and whether the members agree and what they contribute (log 37), are free values.
Completes: COPY_START, COPY_COMPLETE, COLLECTIVE_COMPLETE, COLLECTIVE_MEMBER_TIMEOUT, DRN_COMPLETION. -/
def Obligations.EngineEvents : Prop :=
  open Sys2Proof Machine Spec in
  (∀ s (q : Fin 4) i c x, (State.moving (s.copies[q]).copies) = none → s.nextCopy q = some (i, c) → s.unit? c.u = some x →
    (∀ cause, s.copyRefused x c = some cause → exec (.copyStart q) s = .next (s.endCopy q i c 2 cause)) ∧
    (s.copyRefused x c = none → ∃ r, exec (.copyStart q) s = .next r ∧
      (r.copies[q]).copies.get? i = some { c with started := true, buffer := State.copyBuffer c })) ∧
  (∀ s (q : Fin 4) i c t c', State.moving (s.copies[q]).copies = some (i, c) →
    (∀ x, s.unit? c.u = some x → s.copyPath x c = true) →
    (descKind c.src ≠ 3 ∧ descKind c.dst ≠ 3 ∨ c.sector ≠ 0 ∨ c.pages ≠ [] →
      State.moveSectors q i (c.len / 32 + 1) (s, c) = (t, c', .done) →
      exec (.copyComplete q) s = .next (t.endCopy q i c' 0 0))) ∧
  (∀ s (q : Fin 4) i c, State.moving (s.copies[q]).copies = some (i, c) →
    (∀ x, s.unit? c.u = some x → s.copyPath x c = true) →
    (descKind c.src = 3 ∨ descKind c.dst = 3) → c.sector = 0 → c.pages = [] →
    ∃ n cause, n ≤ 2 ∧ cause ∈ [0, 0x14, 0x05] ∧
      (descKind c.src = 3 → strange (s.descWindow c.tenant c.src) c.tenant = true → cause = 0x14) ∧
      (descKind c.dst = 3 → strange (s.descWindow c.tenant c.dst) c.tenant = true → cause ≠ 0) ∧
      let s' := { s with freeCtr := s.freeCtr + n }
      (cause ≠ 0 → exec (.copyComplete q) s = .next (s'.endCopy q i c 2 cause)) ∧
      (cause = 0 → ∀ t c', State.moveSectors q i (c.len / 32 + 1) (s', c) = (t, c', .done) →
        exec (.copyComplete q) s = .next (t.endCopy q i c' 0 0))) ∧
  (∀ s u n x d rest, s.unit? u = some x → (x.bindSt n).drn = d :: rest → (∀ i ∈ d.2.2, i ∉ (x.bindSt n).open_) →
    exec (.drnCompletion u n) s = .next ((s.setUnit u (x.setBind n { x.bindSt n with drn := rest })).deliverTo
      (State.pointOf x.cfg n) u d.1 [State.compTok 0 0 0 0 0 (BitVec.ofNat 3 d.2.1)])) ∧
  (∀ s i c x, s.colls.get? i = some c → s.unit? c.u = some x →
    (s.colls.any fun p => decide (p.1 < i) && p.2.group == c.group) = false →
    (∀ cause, collRefused s x c = some cause → exec (.collectiveComplete i) s = .next (endColl s i c 2 0 cause)) ∧
    (collRefused s x c = none → x.placed = true → s.domainUp = true →
      ∃ r st fl cause, exec (.collectiveComplete i) s = .next (endColl r i c st fl cause) ∧ r.colls = s.colls ∧
        (st = 0 ∧ cause = 0 ∨ st = 2 ∧ fl = 0 ∧ cause = 0x09 ∧ r.units = s.units))) ∧
  (∀ s i c, s.colls.get? i = some c → (s.colls.any fun p => decide (p.1 < i) && p.2.group == c.group) = false →
    c.sentAt + 270000 ≤ s.clk.cyc →
    exec (.collectiveMemberTimeout i) s = .next (endColl s i c 4 0 0x15))

/-- R257, R282, R283, R342, R343, R392-R394: a write or message from another package whose window admits it is performed: the
word is written, and set full by a .full write; the tokens of a message join their ingress point, and once the last of them has
passed it the message joins its FIFO whole as soon as it fits, within 10,800 cycles; one that still does not fit after them, or that
no section takes, is refused; an acknowledgement, or 270,000 cycles without one, ends a write or message sent from here.  The model's
choice: what the other package acknowledges is a free value, but that it refuses with 0x14 where the entry names another tenant and
is not shared (log 38); and that a message's tokens pass the point of the collective and remote paths one by one (log 36).
Completes: REMOTE_WRITE_ARRIVAL, REMOTE_ACK_TIMEOUT, MESSAGE_ARRIVAL, MESSAGE_HOLD_EXPIRY, REMOTE_ACKNOWLEDGEMENT. -/
def Obligations.RemoteEvents : Prop :=
  open Sys2Proof Machine Spec in
  (∀ s i a u x t w k, s.arrivals.get? i = some a → a.message = false → s.farUnit a.entry.toNat = some (u, x) →
    farAdmits x a.entry.toNat a.tenant = true → x.frozen = false → x.cfg.access .st a.addr 0 = .at_ t w →
    a.toks.head? = some k →
    ∃ r y, exec (.remoteWriteArrival i) s = .next r ∧ r.unit? u = some y ∧ (y.tile t).word w = k.payload ∧
      (y.tile t).isFull w = (a.full || (x.tile t).isFull w) ∧ r.arrivals = s.arrivals.erase i) ∧
  (∀ s i a u x t w, s.arrivals.get? i = some a → a.message = true → s.farUnit a.entry.toNat = some (u, x) →
    farAdmits x a.entry.toNat a.tenant = true → x.frozen = false → x.cfg.access .push a.addr 0 = .at_ t w → a.passed = none →
    let p := 16 * quarterAt (8 * (x.tileBlock t).1) (8 * (x.tileBlock t).2) + 15
    ∃ r, exec (.messageArrival i) s = .next r ∧ r.units = s.units ∧ r.arrivals.get? i = some { a with passed := some 0 } ∧
      (r.ingress.getD p {}).q = (s.ingress.getD p {}).q ++ a.toks.map fun k =>
        { tenant := x.tenant, u := u, n := 0, tok := State.admitTok x.cfg k, msg := i }) ∧
  (∀ (s : State) (j : Ingress) a n, j.msg ≠ 0 → s.arrivals.get? j.msg = some a → a.passed = some n →
    s.canEnter j = true ∧ (s.enter j).units = s.units ∧
      (s.enter j).arrivals.get? j.msg = some { a with passed := some (n + 1), since := s.clk.cyc }) ∧
  (∀ s i a u x t w n, s.arrivals.get? i = some a → a.message = true → s.farUnit a.entry.toNat = some (u, x) →
    farAdmits x a.entry.toNat a.tenant = true → x.frozen = false → x.cfg.access .push a.addr 0 = .at_ t w →
    a.passed = some n → a.toks.length ≤ n → (x.tile t).fifo.length + a.toks.length ≤ 16384 →
    s.clk.cyc ≤ a.since + 10800 →
    ∃ r y, exec (.messageArrival i) s = .next r ∧ r.unit? u = some y ∧
      (y.tile t).fifo = (x.tile t).fifo ++ a.toks.map (State.admitTok x.cfg) ∧ r.arrivals = s.arrivals.erase i) ∧
  (∀ s i a u x t w n, s.arrivals.get? i = some a → a.message = true → a.passed = some n → a.toks.length ≤ n →
    a.since + 10800 ≤ s.clk.cyc →
    s.farUnit a.entry.toNat = some (u, x) → farAdmits x a.entry.toNat a.tenant = true → x.frozen = false →
    x.cfg.access .push a.addr 0 = .at_ t w → 16384 < (x.tile t).fifo.length + a.toks.length →
    exec (.messageHoldExpiry i) s = .next { s with arrivals := s.arrivals.erase i }) ∧
  (∀ s i a, s.arrivals.get? i = some a → a.message = true → s.farUnit a.entry.toNat = none →
    exec (.messageHoldExpiry i) s = .next { s with arrivals := s.arrivals.erase i }) ∧
  (∀ s i w x, s.remotes.get? i = some w → w.after = [] → s.domainUp = true → s.unit? w.u = some x →
    ∃ cause, cause ∈ (if w.message then [0, 0x14, 0x13, 0x05] else [0, 0x14, 0x05]) ∧
      (strange w.entry x.tenant = true → cause = 0x14) ∧
      exec (.remoteAcknowledgement i) s = .next ({ s with freeCtr := s.freeCtr + 1 }.answered i w cause)) ∧
  (∀ s i w, s.remotes.get? i = some w → w.after = [] → w.sentAt + 270000 ≤ s.clk.cyc →
    exec (.remoteAckTimeout i) s = .next (s.answered i w 0x14))

/-- R40, R72, R126, R379: a running unit whose tile count is zero begins to drain; an element that drain has passed on every
fed channel, with nothing in progress, passes drain and is marked, requests that wait at tiles being withdrawn first; drain
enters a quiet cycle of routes, behind the tokens of a tile that stands in front of it, and a tile that only PUSH, messages or
diverted tokens feed, wherever its route goes; a binding with nothing outstanding passes drain once; a unit all of whose parts have
drained ends, once its snapshot is on its way or has failed, and counts in its launch.  The model's choice: the drain of a tile that no route feeds (log 56) and of a cycle (log 39), and that requests which wait
at tiles are withdrawn at their element's own drain pass (log 33).
Completes: TILE_COUNT_EXPIRY, ELEMENT_DRAIN_PASS, CYCLE_DRAIN_INJECT, PORT_DRAIN_PASS, UNIT_END. -/
def Obligations.DrainEvents : Prop :=
  open Sys2Proof Machine in
  (∀ s u x, s.unit? u = some x → x.phase = .running → x.count = some 0 →
    ∃ r, exec (.tileCountExpiry u) s = .next r ∧ r.unit? u = some { x with phase := .draining }) ∧
  (∀ s u e x, s.placed? u = some x → x.phase = .draining → (x.elem e).drained = false → e < x.cfg.elemCount →
    let x' := x.setElem e (x.elem e).selfTake
    inputsPassed x' e = true → elemQuiet s u x' e = true →
    (∀ z, (∀ r ∈ x'.reqs, r.e ≠ e) → sendDrain x' e = some z →
      ∃ r, exec (.elementDrainPass u e) s = .next r ∧ (r.elem u e).drained = true) ∧
    ((x'.reqs.any fun r => r.e == e) = true →
      exec (.elementDrainPass u e) s = .next ((s.setUnit u x').withdrawWaiting u e))) ∧
  (∀ s u n x, s.placed? u = some x → x.phase = .draining → (x.bindSt n).passed = false → (x.cfg.bindCfg n).kind ≠ .unbound →
    portBusy s u n x = false →
    ∃ r y, exec (.portDrainPass u n) s = .next r ∧ r.unit? u = some y ∧ (y.bindSt n).passed = true ∧
      ∀ i q, x.cfg.routeFrom (.port n) = some (i, q) → (y.route i).toks = (x.route i).toks ++ [Token.drain]) ∧
  (∀ s u x, s.placed? u = some x → x.phase = .draining → State.sectionDone s u x = true → x.snapFlag = false →
    x.snapping = none →
    ∃ r, exec (.unitEnd u) s = .next r ∧
      r.unit? u = some { x with phase := .ended, uflag := x.elems.foldl (fun f p => f ||| p.2.fl) x.uflag } ∧
      r.launches = s.launches.upd x.launch fun l => { l with ended := l.ended + 1 }) ∧
  (∀ s u x, s.placed? u = some x → x.phase = .draining → State.sectionDone s u x = true →
    let t := s.endSnapshot u
    (snapWaits t u = true → exec (.unitEnd u) s = .next t) ∧
    (snapWaits t u = false → x.snapping = none → exec (.unitEnd u) s = .next (t.finishUnit u)) ∧
    (∀ man, snapWaits t u = false → x.snapping = some man →
      exec (.unitEnd u) s = .next ((if t.manFailed man then t.failSnapshot u man else t).finishUnit u))) ∧
  (∀ s u t ch x, s.placed? u = some x → x.phase = .draining → unfed x t = true → (x.cfg.routeFrom (.tile t)).isSome = true →
    tileReady x t = true → exec (.cycleDrainInject u (x.cfg.elemCount + t) ch) s = .next (s.setUnit u
      (x.setTile t { x.tile t with fifo := (x.tile t).fifo ++ [Token.drain] }))) ∧
  (∀ s u e ch x, s.placed? u = some x → x.phase = .draining → e < x.cfg.elemCount →
    let i := x.cfg.routes.findIdx fun r => r.dst == x.cfg.endAt e ch
    let src := (x.cfg.routes[i]?).map Route.src
    (∀ t, src = some (.tile t) → (x.tile t).fifo.any Token.isDrain = false) →
    (x.elem e).ins[Fin.ofNat 4 ch].passed = false → (x.route i).toks.any Token.isDrain = false →
    (x.route i).order.any Token.isDrain = false →
    ((x.elem e).ins[Fin.ofNat 4 ch].q ++ (x.elem e).ins[Fin.ofNat 4 ch].raw).any Token.isDrain = false →
    (e ∈ cycleOf x e → (∃ a, feederOf x e ch = some a ∧ a ∈ cycleOf x e) →
      (∀ d ∈ cycleOf x e, d < x.cfg.elemCount → liveTrigger x d = false ∧ (x.elem d).firing = none ∧
        ∀ c ∈ fedChannels x d, (∃ a, feederOf x d c.val = some a ∧ a ∈ cycleOf x e) ∨ ((x.elem d).selfTake).ins[c].passed = true) →
      ((∀ t, src ≠ some (.tile t)) → exec (.cycleDrainInject u e ch) s = .next (s.setUnit u
        (x.setRoute i { x.route i with toks := (x.route i).toks ++ [Token.drain] }))) ∧
      (∀ t, src = some (.tile t) → exec (.cycleDrainInject u e ch) s = .next (s.setUnit u
        (x.setTile t { x.tile t with fifo := (x.tile t).fifo ++ [Token.drain] })))) ∧
    (∀ t, e ∉ cycleOf x e → tileBefore x e ch = some t → tileReady x t = true →
      exec (.cycleDrainInject u e ch) s = .next (s.setUnit u
        (x.setTile t { x.tile t with fifo := (x.tile t).fifo ++ [Token.drain] }))))

namespace Sys2Proof.Spec
open Machine

/-- The walk of job `j` stands at a node of kind `kind` whose record `b` passes the checks of its graph, and it is its turn at
the sequencer of its quarter (R77, R331). -/
structure AtNode (s : State) (j kind : Nat) (x : Job) (w : Walk) (im : Image) (g : Graph) (b : List Byte) : Prop where
  walk : s.walkAt j = some (x, w, im, g)
  turn : s.nodeTurn g.quarter j = true
  node : g.nodes[w.node]? = some b
  good : nodeOk im.secs.length g.args.length g.nodes w.node b = true
  kind : recField b 0 1 = kind

/-- The walk of a job. -/
def walkOf (s : State) (j : Nat) : Option Walk :=
  match s.job j with
  | some x => x.walk
  | none => none

end Sys2Proof.Spec

/-- R77, R330, R331: the sequencer, one graph after the other, takes the node a walk stands at: ARM arms a launch of as many
units as the record's replica count, WAIT lets the walk pass when its condition holds, at once or later, SIGNAL adds to a
counter or posts a record, LOOP goes back to its target while turns are left and then on, END ends the walk.
Completes: NODE_ARM, NODE_WAIT, NODE_WAIT_RELEASE, NODE_SIGNAL, NODE_LOOP, NODE_END. -/
def Obligations.SequencerNodes : Prop :=
  open Sys2Proof Machine Spec in
  (∀ s j x w im g b c, AtNode s j 1 x w im g b → im.secs[recField b 2 2]? = some c →
    ∃ r, exec (.nodeArm j) s = .next r ∧ r.nextId = s.nextId + 1 + recField b 4 2 ∧
      r.launch? s.nextId = some { job := j, graph := w.graph, node := w.node, units := recField b 4 2 } ∧
      walkOf r j = some { w with node := w.node + 1, armed := w.armed.set w.node s.nextId, launches := w.launches ++ [s.nextId] }) ∧
  (∀ s j x w im g b, AtNode s j 2 x w im g b → waitHolds s x w b = true →
    exec (.nodeWait j) s = .next ((s.setWalk j { w with node := w.node + 1 }).tookNode g.quarter j) ∧
    exec (.nodeWaitRelease j) s = .next ((s.setWalk j { w with node := w.node + 1 }).tookNode g.quarter j)) ∧
  (∀ s j x w im g b, AtNode s j 3 x w im g b →
    (recField b 1 1 = 0 → exec (.nodeSignal j) s =
      .next (((s.setWalk j { w with node := w.node + 1 }).addCounter j (recField b 2 2)
        (BitVec.ofNat 64 (recField b 8 8))).tookNode g.quarter j)) ∧
    (recField b 1 1 ≠ 0 → exec (.nodeSignal j) s =
      .next (((s.setWalk j { w with node := w.node + 1 }).putRecord x.queue .comp
        (compRecord 0x86 0 0 0 (recField b 8 8) (bytesOfNat 2 j ++ bytesOfNat 2 w.graph))).tookNode g.quarter j))) ∧
  (∀ s j x w im g b, AtNode s j 4 x w im g b →
    ∃ r, exec (.nodeLoop j) s = .next r ∧ (walkOf r j).map Walk.node =
      some (if w.loops.getD w.node (recField b 4 4 - 1) = 0 then w.node + 1 else recField b 2 2)) ∧
  (∀ s j x w im g b, AtNode s j 5 x w im g b →
    exec (.nodeEnd j) s = .next ((s.setWalk j { w with ended := true }).tookNode g.quarter j))

/-- R78, R79, R118, R329, R372: a launch completes when all its units have ended, with the worst of done, cancelled and failed; a
graph when END is taken or its walk has stopped and no launch of it runs, with the worst of its own and its launches' outcomes; a
phase with its last graph; a job with its last phase, once its fault records have been written: every operand slot it held is released
and zeroed, one that traffic is still aimed at once that has completed, and its completion record is posted.
Completes: LAUNCH_COMPLETE, GRAPH_COMPLETE, PHASE_COMPLETE, JOB_COMPLETE. -/
def Obligations.CompletionEvents : Prop :=
  open Sys2Proof Machine Spec in
  (∀ s l x, s.launch? l = some x → x.status = .running → x.units ≤ x.ended →
    ∃ r, exec (.launchComplete l) s = .next r ∧ r.launch? l =
      some { x with status := if x.fail then .failed else if x.cancel then .cancelled else .done }) ∧
  (∀ s j x w, s.job j = some x → x.walk = some w → (w.ended || w.cancel || w.bad) = true →
    (∀ l ∈ w.launches, ∀ y, s.launch? l = some y → y.status ≠ .running) →
    let own : Status := if w.bad then .failed else if w.cancel then .cancelled else .done
    let st := (w.launches.map fun l => ((s.launch? l).map Launch.status).getD .done).foldl Status.worse own
    exec (.graphComplete j) s = .next (s.modJob j fun y => { y with
        walk := none, pos := y.pos + 1, graphStatus := st, graphsDone := y.graphsDone + 1, phaseWorst := y.phaseWorst.worse st
        }).startGraphs ∧
      (w.bad = true → st = .failed) ∧ (w.bad = false → w.cancel = true → st ≠ .done) ∧
      ((∃ l ∈ w.launches, ∃ y, s.launch? l = some y ∧ y.status = .failed) → st = .failed)) ∧
  (∀ s j x gs, s.job j = some x → x.phases[x.phase]? = some gs → x.active = true → x.walk = none → gs.length ≤ x.pos →
    exec (.phaseComplete j) s = .next (s.modJob j fun y => { y with
      phaseStatus := if x.phases.length ≤ x.phase + 1 then y.phaseWorst else .running
      phasesDone := y.phasesDone + 1, phase := y.phase + 1, pos := 0
      graphsDone := if x.phases.length ≤ x.phase + 1 then y.graphsDone else 0
      phaseCancel := y.jobCancel, phaseWorst := .done, graphWorst := y.graphWorst.worse y.phaseWorst }).startGraphs) ∧
  (∀ s j x, s.job j = some x → x.active = true → x.walk = none → x.phases.length ≤ x.phase → s.faultsWait x.queue j = false →
    ∃ (r : State) (y : Job), exec (.jobComplete j) s = .next (r.putRecord x.queue .comp (compRecord 0x83 (State.recStatus x.graphWorst) 0 0 j [])) ∧
      r.job j = some y ∧ y.active = false ∧ y.status = x.graphWorst ∧ j ∉ (r.queue x.queue).jobs ∧
      ∀ q n, q < 4 → n < 512 → (s.slotOf q n).job = some j →
        (slotBusy s q n = true → r.slotOf q n = { s.slotOf q n with release := true }) ∧
        (slotBusy s q n = false →
          r.slotOf q n = { s.slotOf q n with job := none, release := false, zeroAt := some (s.clk.cyc + 1024) }))

namespace Sys2Proof.Spec
open Machine

/-- The image of a unit that is thawed, read to its end, with the number it was read under (R376). -/
def thawRead (s : State) (u : Nat) : Option (Nat × ImgRead) :=
  s.sweep.reads.find? fun p => p.2.len != 64 && !p.2.bad && !s.unserved p.1 && (match p.2.use with
    | .thaw v _ _ => v == u
    | .rollback _ _ _ => false)

end Sys2Proof.Spec

/-- R337, R346, R376, R381, R411: the allocator places and arms a waiting unit for which it has a rectangle, when no unit before
it has one, no rotation is due and its section is not being rolled back; it thaws a frozen unit whose image has been read, where there
is room, and refuses it with 3 in a quarter that was asked for and has none; a hot section that waits moves to a cooler rectangle.
Completes: UNIT_PLACEMENT, SECTION_ROTATION. -/
def Obligations.PlacementEvents : Prop :=
  open Sys2Proof Machine Spec in
  (∀ s u x k, s.unit? u = some x → x.phase = .waiting →
    ((s.before u x).any fun y => (s.rectFor y).isSome && !s.rollsBack y) = false →
    s.rotation? x = none → s.rollsBack x = false → s.rectFor x = some k →
    exec (.unitPlacement u) s = .next (((s.armUnit u k).settleSince x.job).admitHeld u) ∧
    ∃ y, (s.armUnit u k).unit? u = some y ∧ y.phase = .running ∧ y.nw = k.nw ∧ y.armedAt = s.clk.cyc ∧
      y.count = (if x.tiles0 = 0 then none else some x.tiles0)) ∧
  (∀ s u x img dr man m q who y, s.unit? u = some x → x.phase = .frozen img dr → thawRead s u = some (man, m) →
    m.use = .thaw u q who → imageInto m.words m.len x false = some y →
    (∀ k, s.thawRect y.cfg x.secure x.job (imageQuarter m.words) q = some k →
      exec (.unitPlacement u) s = .next (((s.manOver man).thawInto u k (some y)).outcome who 0 0)) ∧
    (s.thawRect y.cfg x.secure x.job (imageQuarter m.words) q = none →
      exec (.unitPlacement u) s = .next (if q.isSome then (s.manOver man).outcome who 3 0 else s))) ∧
  (∀ s u x k, s.unit? u = some x → x.phase = .waiting → s.rotation? x = some k →
    ∃ r, exec (.sectionRotation u) s = .next r ∧ r.units = s.units ∧
      ∀ m ∈ r.residents, m.job = x.job → m.section_ = x.section_ → m.replica = x.replica → m.nw = some k.nw)

/-- R326-R334, R357, R388, R390: a 64-byte record posted to an open queue with a credit left is queued and takes a credit, one
beyond the queue's credits or the command store is not queued and is answered with status overrun; an OPEN waits at its closed queue;
one to a closed queue that is no OPEN, or one of another length, is discarded and counted; the arbiter takes the head record of
the queue whose turn it is, whatever is still to be run; a closing queue without work is closed; a queue's wait ends; a read index
moves.
Completes: QUEUE_RECORD_ARRIVAL, QUEUE_ARBITER_TAKE, QUEUE_CLOSED, QUEUE_WAIT_RELEASE, RING_READ_INDEX_WRITE. -/
def Obligations.QueueEvents : Prop :=
  open Sys2Proof Machine Spec in
  (∀ s q rec, s.boot.powered = true → s.linkUp = true → q < 131072 →
    (rec.length ≠ 64 ∨ s.boot.code ≠ 4 ∨ (s.queue q).st = .closing ∨ ((s.queue q).st = .closed ∧ recCmd rec ≠ 1)) →
    exec (.queueRecordArrival q rec) s = .next (s.countUp 0x0502)) ∧
  (∀ s q rec, s.boot.powered = true → s.linkUp = true → q < 131072 → rec.length = 64 → s.boot.code = 4 →
    (s.queue q).st = .opened → (s.queue q).used < (s.queue q).credit → s.stored < 16384 →
    ∃ r, exec (.queueRecordArrival q rec) s = .next r ∧
      ((s.queue q).userNow.1 ≠ s.clk.cyc → (r.queue q).recs = (s.queue q).recs ++ [(rec, true)]) ∧
      (rec, true) ∈ (r.queue q).recs ∧ (r.queue q).used = (s.queue q).used + 1) ∧
  (∀ s q rec, s.boot.powered = true → s.linkUp = true → q < 131072 → rec.length = 64 → s.boot.code = 4 →
    (s.queue q).st = .opened → (s.queue q).used < (s.queue q).credit → s.stored < 16384 →
    ∃ r, exec (.queueRecordArrival (q + 131072) rec) s = .next r ∧ (r.queue q).recs = (s.queue q).recs ++ [(rec, false)] ∧
      (r.queue q).used = (s.queue q).used + 1) ∧
  (∀ s q rec mgmt, s.boot.powered = true → s.linkUp = true → q < 131072 → rec.length = 64 → s.boot.code = 4 →
    let n := if mgmt then q else q + 131072
    ((s.queue q).st = .opened → (s.queue q).credit ≤ (s.queue q).used ∨ 16384 ≤ s.stored →
      exec (.queueRecordArrival n rec) s = .next (s.putRecord q .comp (compRecord (recCmd rec) 4 0 (recTag rec) 0 []))) ∧
    ((s.queue q).st = .closed → recCmd rec = 1 → (s.queue q).recs = [] →
      exec (.queueRecordArrival n rec) s = .next (s.setQueue q { s.queue q with recs := [(rec, mgmt)] }))) ∧
  (∀ s q h b mgmt rest, s.host.nextTake ≤ s.clk.cyc → s.markSince.pickQueue = some (q, h) →
    (s.markSince.queue q).recs = (b, mgmt) :: rest →
    recGood b = true → recCmd b ≠ 1 → (mgmtOnly (recCmd b) = true → mgmt = true) →
    ∃ r, exec .queueArbiterTake s = .next r ∧ r.host.taken = h.taken ++ [(q, b, mgmt)] ∧ r.host.nextTake = s.clk.cyc + 8 ∧
      (r.queue q).recs = rest) ∧
  (∀ s q b, (s.queue q).close = some b → (s.queue q).st = .closing → (s.queue q).jobs = [] → (s.queue q).recs = [] →
    (s.queue q).wait = none → (s.host.taken.any fun t => t.1 == q) = false → (s.queue q).comp.waiting = [] → (s.queue q).log.waiting = [] →
    (s.queue q).fault.waiting = [] → (s.queue q).comp.room = true → s.linkUp = true →
    ∃ r, exec (.queueClosed q) s = .next r ∧ (r.queue q).st = .closed ∧ ∀ p ∈ r.host.images, p.2.queue ≠ q) ∧
  (∀ s q b j, (s.queue q).wait = some b → s.job (recField b 12 2) = some j → waitDone j b = true →
    exec (.queueWaitRelease q) s = .next ((s.setQueue q { s.queue q with wait := none }).reply q b 0 0
      (if recField b 8 1 = 0 then recField b 12 2 else (j.counters.getD (recField b 14 1) 0).toNat) [])) ∧
  (∀ s q idx, ∀ p ∈ [(0, RingSel.comp), (1, RingSel.log), (2, RingSel.fault)], s.boot.powered = true → s.linkUp = true →
    s.boot.code ≠ 5 → q < 131072 → exec (.ringReadIndexWrite q p.1 idx) s =
      .next (((s.setQueue q ((s.queue q).setRing p.2 { (s.queue q).ring p.2 with rd := idx % 2 ^ 32 })).flushRing q p.2).markSince))

/-- R94, R329, R330, R336, R354, R401: a command the arbiter has taken completes with the effect of its code: OPEN opens its
queue, LOAD checks its image, is refused with the loader's reason or has the regions filled, and keeps the image once all
that fills them is stamped, PHASE appends a phase, RUN makes a job, WAIT holds the queue, SIGNAL adds to a counter or not and
returns it, CANCEL cancels and returns its code, CLOSE begins to close.  The model's choice: that a LOAD is answered once what fills
its regions is stamped (log 63), the plan of its regions and the refusal of one whose ring is withdrawn meanwhile (log 45), the order
among commands taken from several queues and the number of a job (log 43).
Completes: OPEN, LOAD, PHASE, RUN, WAIT, SIGNAL, CANCEL, CLOSE. -/
def Obligations.HostCommands : Prop :=
  open Sys2Proof Machine Spec in
  (∀ s q b, s.openWaits = some (q, b, true) → recGood b = true →
    ((s.queuesOf (recField b 8 2)).any fun x => x.secure != (recField b 10 1 / 8 % 2 == 1)) = false →
    ∃ r : State, exec .hostOpen s = .next (r.putRecord q .comp (compRecord 1 0 0 (recTag b) 0 [])) ∧ (r.queue q).st = .opened ∧
      (r.queue q).tenant = recField b 8 2 ∧ (r.queue q).credit = recField b 11 1 ∧ (r.queue q).prio = recField b 10 1 % 8) ∧
  (∀ s q b plan im man, s.takenCmd 2 = some (q, b) → s.host.loads.get? q = some (im, man) → s.manFailed man = false →
    s.unstamped man = false →
    exec (.hostLoad plan) s = .next (State.answer { s with host := { s.host with
      images := s.host.images.set (imageKey q (recField b 24 2)) im, loads := s.host.loads.erase q } } q b 0 0 (recField b 24 2) [])) ∧
  (∀ s q b plan im man, s.takenCmd 2 = some (q, b) → s.host.loads.get? q = some (im, man) → s.manFailed man = true →
    ∃ t detail, exec (.hostLoad plan) s = .next (State.answer t q b 2 0x10 (recField b 24 2) detail) ∧
      t.host.images = s.host.images ∧ t.host.loads = s.host.loads.erase q) ∧
  (∀ s q b plan, s.takenCmd 2 = some (q, b) → s.host.loads.get? q = none → s.linkUp = true →
    s.imageUsed q (recField b 24 2) = false →
    (∀ t im man, s.loadImage q { mem := s.mem, base := State.hostAddr (recField b 8 8) } (recField b 16 8) plan = .ok (t, im, man) →
      exec (.hostLoad plan) s = .next (t.endLoad q b im man)) ∧
    (∀ f, s.loadImage q { mem := s.mem, base := State.hostAddr (recField b 8 8) } (recField b 16 8) plan = .error f →
      exec (.hostLoad plan) s = .next (State.answer { s with host := { s.host with
        images := s.host.images.erase (imageKey q (recField b 24 2)) } } q b 2 f.reason (recField b 24 2) f.bytes))) ∧
  (∀ s q b, s.takenCmd 4 = some (q, b) →
    exec .hostPhase s = .next ((s.setQueue q { s.queue q with
      pending := (s.queue q).pending ++ [(List.range (recField b 8 1)).map fun i => recField b (16 + 2 * i) 2] }).answer q b 0 0 0 [])) ∧
  (∀ s q b im, s.takenCmd 3 = some (q, b) → s.host.images.get? (imageKey q (recField b 8 2)) = some im →
    recField b 10 1 ≤ (s.queue q).prio → (∀ p ∈ (s.queue q).pending, ∀ g ∈ p, g < im.graphs.length) →
    (∃ n < 4096, ∀ j, s.job n = some j → j.active = false) →
    ∃ (n : Nat) (r : State) (j : Job), n < 4096 ∧ (∀ k, s.job n = some k → k.active = false) ∧ r.job n = some j ∧ j.active = true ∧
      j.tenant = (s.queue q).tenant ∧ j.queue = q ∧ j.image = imageKey q (recField b 8 2) ∧ j.prio = recField b 10 1 ∧
      j.phases = (if (s.queue q).pending = [] then [List.range im.graphs.length] else (s.queue q).pending) ∧
      exec .hostRun s = .next (r.answer q b 0 0 n []).startGraphs) ∧
  (∀ s q b j, s.takenCmd 5 = some (q, b) → s.recJob q b = some j →
    ∃ r, exec .hostWait s = .next r ∧ (r.queue q).wait = some b ∧ r.host.taken = (s.untake q).host.taken) ∧
  (∀ s q b j, s.takenCmd 6 = some (q, b) → s.recJob q b = some j →
    (recField b 8 1 = 0 → ∃ v, exec .hostSignal s = .next ((s.addCounter (recField b 12 2) (recField b 14 1)
      (BitVec.ofNat 64 (recField b 16 8))).answer q b 0 0 v [])) ∧
    (recField b 8 1 ≠ 0 → exec .hostSignal s = .next (s.answer q b 0 0 (j.counters.getD (recField b 14 1) 0).toNat []))) ∧
  (∀ s q b, s.takenCmd 7 = some (q, b) → (∀ j, s.job (recField b 12 2) = some j → j.tenant = (s.queue q).tenant) →
    let r := s.cancelNamed (recField b 12 2) (recField b 8 1) (recField b 14 2) (recField b 16 2)
    exec .hostCancel s = .next (State.answer { r.1 with host := { r.1.host with cancelAt := some r.1.clk.cyc } } q b 0 0 r.2
      []).startGraphs) ∧
  (∀ s q b, s.takenCmd 8 = some (q, b) → (s.queue q).close = none →
    ∃ r, exec .hostClose s = .next r ∧ (r.queue q).st = .closing ∧ (r.queue q).close = some b ∧
      r.host.taken = (s.untake q).host.taken)

/-- R10, R76, R110, R320, R322-R325, R341, R344, R356, R362, R372, R388, R392: while the device has power and its link is up the
host's writes to its registers complete: SWPC takes five bits, GATE a power state (3 leaves it) and its automatic bit, a ring change
is posted, ignored and counted while another waits, refused for a ring that is none or withdrawn or for a 33rd quick one, or complete
at once where the ring is in its class, BWLD changes the worlds of blocks that no section occupies, SOCTL takes two bits and retrains
its port, a recovery image can be offered in state 5 only, a translation store word is stored, a bucket's credit is settled before its
fields change, the user view takes no write, and a read of a counter of losses returns what it held before the cycle and leaves what
was counted in it.  The model's choice: that the management view counts as secure and privileged, and the numbers of the user view,
from 2^28 on (log 42).
Completes: GATE_WRITE, RCLQ, SWPC_WRITE, BWLD_WRITE, TRANSLATION_STORE_WRITE, LOGD_READ, HREF_READ, FDROP_READ,
REGISTER_WRITE, SOCTL_WRITE, BOOTC. -/
def Obligations.RegisterEvents : Prop :=
  open Sys2Proof Machine in
  ∀ s : State, s.boot.powered = true → s.linkUp = true →
  (∀ v, exec (.swpcWrite v) s = .next (s.setReg 0x0106 (v &&& 0x1F))) ∧
  (∀ (q : Fin 4) v, ∃ r, exec (.gateWrite q v) s = .next r ∧
    (r.reg (0x0308 + q)).toNat = (if v.toNat % 4 = 3 then (s.reg (0x0308 + q)).toNat % 4 else v.toNat % 4) + 4 * (v.toNat / 4 % 2)) ∧
  (∀ v, s.sweep.ringReq.isSome = true → exec (.rclq v) s = .next (s.countUp 0x0502)) ∧
  (∀ v, s.sweep.ringReq = none → (287 < v.toNat % 512 ∨ s.ringLost (v.toNat % 512) = true) →
    exec (.rclq v) s = .next (s.setReg 0x0105 (BitVec.ofNat 64 (2 + 4 * (v.toNat % 512))))) ∧
  (∀ v, s.sweep.ringReq = none → v.toNat % 512 < 288 → s.ringQuick (v.toNat % 512) = false → v.getLsbD 9 = true →
    32 ≤ s.quickRings.length →
    exec (.rclq v) s = .next (s.setReg 0x0105 (BitVec.ofNat 64 (2 + 4 * (v.toNat % 512))))) ∧
  (∀ v, s.sweep.ringReq = none → v.toNat % 512 < 288 → s.ringLost (v.toNat % 512) = false →
    s.ringQuick (v.toNat % 512) = v.getLsbD 9 →
    exec (.rclq v) s = .next (s.setReg 0x0105 (BitVec.ofNat 64 (4 * (v.toNat % 512))))) ∧
  (∀ v, s.sweep.ringReq = none → v.toNat % 512 < 288 → s.ringLost (v.toNat % 512) = false →
    s.ringQuick (v.toNat % 512) ≠ v.getLsbD 9 → (v.getLsbD 9 = true → s.quickRings.length < 32) →
    ∃ r, exec (.rclq v) s = .next r ∧ r.sweep.ringReq = some (v.toNat % 512, v.getLsbD 9) ∧
      r.reg 0x0105 = BitVec.ofNat 64 (4 * (v.toNat % 512))) ∧
  (∀ (q : Fin 4) v (i : Fin 64), ∃ r, exec (.bwldWrite q v) s = .next r ∧
    (r.reg (0x0400 + q)).getLsbD i =
      if s.occupied (64 * q + i) then (s.reg (0x0400 + q)).getLsbD i else v.getLsbD i) ∧
  (∀ (p : Fin 8) v, exec (.soctlWrite p v) s = .next ((s.setReg (0x0618 + p) (v &&& 3)).setReg (0x0610 + p) 0)) ∧
  (∀ v, exec (.bootc v) s = .next (if s.boot.code = 5 then { s with boot := { s.boot with image := some v.toNat } } else s.countUp 0x0502)) ∧
  (∀ q a v, a < 0x800000 → exec (.translationStoreWrite q a v) s = .next { s with store := s.store.put (a / 8) v 0 }) ∧
  (∀ n v, 2 ^ 28 ≤ n → exec (.registerWrite n v) s = .next (if s.boot.code = 5 then s else s.countUp 0x0502)) ∧
  (∀ n v, 0x2000 ≤ n → n < 0x2040 →
    exec (.registerWrite n v) s =
      .next ((s.spendCredit (n - 0x2000) 0).setReg n ((s.reg n &&& ~~~0xFFFFFFFF) ||| (v &&& 0xFFFFFFFF)))) ∧
  (∀ n v, 0x1000 ≤ n → n < 0x2000 →
    exec (.registerWrite n v) s = .next ((s.noteLimit n).setReg n ((s.reg n &&& ~~~0xFFFFFFFF) ||| (v &&& 0xFFFFFFFF)))) ∧
  (∀ (p : Instr × Nat), p ∈ [(.logdRead, 0x0501), (.hrefRead, 0x0502), (.fdropRead, 0x0503)] →
    ∃ r, exec p.1 s = .next r ∧ s.readReg .host p.2 = (r, s.heldBefore p.2, true) ∧
      r.reg p.2 = s.reg p.2 - s.heldBefore p.2 ∧ (s.heldBefore p.2 = s.reg p.2 → r.reg p.2 = 0))

/-- R350, R358, R365, R372-R374, R376, R378, R400: while the device has power and its link is up FRES resolves the held fault of
its serial by a retry or as unresolvable, of an element's request once a record finds a place, TLBC begins an invalidation, which goes
on when its waits have ended, SCTL freezes, thaws or moves a section, shows busy and keeps the result code once there is one, and a
report that AREQ asked for lands at its address.  The model's choice: the bytes of the report, a free value over what R400 names (log 5),
and when a freeze or thaw goes on (logs 40, 63).
Completes: FRES_RETRY, FRES_UNRESOLVABLE, HOST_TLBI, TLBI_COMPLETE, SCTL_FREEZE, SCTL_THAW, SCTL_MOVE,
ATTESTATION_REPORT. -/
def Obligations.FaultAndFreezeEvents : Prop :=
  open Sys2Proof Machine in
  ∀ s : State, s.boot.powered = true → s.linkUp = true →
  let sres := fun (r : State × Option Nat × Flags) => match r.2.1 with
    | some code => r.1.setSres code 0
    | none => r.1.setReg 0x0542 0x100
  (∀ n f, n < 2 ^ 32 → s.faults.get? n = some f → s.heldInImage f = false →
    ∃ r, exec (.fresRetry n) s = .next r ∧ r.faults.get? n = none) ∧
  (∀ n f, n < 2 ^ 32 → s.faults.get? n = some f → s.heldInImage f = false →
    (s.canTrap f.u = true ∨ ∀ i, f.what ≠ .item i) →
    exec (.fresUnresolvable n) s = .next { s.unresolveHeld f with faults := (s.unresolveHeld f).faults.erase n }) ∧
  (∀ v lo hi, (s.reg 0x0532).getLsbD 0 = false → tlbiRange (s.reg 0x0530).toNat v.toNat = some (lo, hi) →
    exec (.hostTlbi v) s = .next ((s.setReg 0x0532 1).tlbiStart { tenant := bitsOf v.toNat 49 40, lo := lo, hi := hi })) ∧
  (∀ i x, s.tlbis.get? i = some x → x.wrote = true → (∀ k ∈ x.wbs, s.sweep.items.get? k = none) →
    ∃ r, exec (.tlbiComplete i) s = .next r ∧ r.tlbis.get? i = none ∧ (x.late = none → r.reg 0x0532 = 0)) ∧
  (∀ v, (s.reg 0x0542).getLsbD 8 = false → v.toNat / 2 ^ 62 = 0 → v.getLsbD 26 = false →
    exec (.sctlFreeze v) s =
      .next (sres (s.freezeOp (FrzWord.of (v.toNat % 2 ^ 32)) ((s.reg 0x0541).toNat % 2 ^ 56) none true none))) ∧
  (∀ v, (s.reg 0x0542).getLsbD 8 = false → v.toNat / 2 ^ 62 = 0 → v.getLsbD 26 = true →
    exec (.sctlMove v) s =
      .next (sres (s.freezeOp (FrzWord.of (v.toNat % 2 ^ 32)) ((s.reg 0x0541).toNat % 2 ^ 56) none true none))) ∧
  (∀ v, (s.reg 0x0542).getLsbD 8 = false → v.toNat / 2 ^ 62 = 1 →
    exec (.sctlThaw v) s =
      .next (sres (s.thawOp (FrzWord.of (v.toNat % 2 ^ 32)) ((s.reg 0x0541).toNat % 2 ^ 56) true none))) ∧
  ((s.reg 0x0705).getLsbD 0 = true →
    ∃ r, exec .attestationReport s = .next r ∧ r.reg 0x0705 = 2 ∧ r.mem = Memory.writeBytes s.mem
      (State.hostAddr (s.reg 0x0704).toNat) ((List.range 3885).map
      (Config.attest (reportOver s) s.boot.firmware ((List.range 8).map s.keyOf))))

/-- R2, R101, R384, R385, R387, R390-R392, R397, R402: a link that trains comes up with a mode and lanes, of a scale-out port
one to eight, one that goes down shows it; a frame leaves from owned descriptors and enters owned descriptors; power-good
starts bring-up, each stage leads to the next state, a failed verification to state 5, and power loss ends all but the host's
memory; a failed bank withdraws its ring, a failed region fences its block, its placed units and those still to be read out are
lost, its configurations roll back.  The model's choice: what a link trains to, the flash and the verdict of a signature are free
values (logs 5, 8), what the model keeps of a frame that was sent (log 24), and what of a section a failed region leaves (log 41).
Completes: HOST_LINK_TRAIN, HOST_LINK_DOWN, SCALEOUT_PORT_TRAIN, ETH_FRAME_SEND, ETH_FRAME_RECEIVE, POWER_GOOD,
BOOT_STATE_ADVANCE, BANK_FAILURE, REGION_FAILURE, SCALEOUT_LINK_DOWN, POWER_LOSS. -/
def Obligations.LinkAndPowerEvents : Prop :=
  open Sys2Proof Machine in
  (∀ s : State, s.linksUp = true → s.linkUp = false →
    ∃ r, exec .hostLinkTrain s = .next r ∧ r.linkUp = true ∧ r.boot.linked = true) ∧
  (∀ s : State, ∃ r, exec .hostLinkDown s = .next r ∧ r.linkUp = false ∧ r.units = s.units) ∧
  (∀ (s : State) (p : Fin 8), s.linksUp = true → s.boot.code ≠ 5 → (s.reg (0x0618 + p)).getLsbD 0 = true → (s.reg (0x0610 + p)).toNat % 4 = 0 →
    ∃ v, exec (.scaleoutPortTrain p) s = .next ({ s with freeCtr := s.freeCtr + 1 }.setReg (0x0610 + p) v) ∧ v.toNat % 4 ≠ 3 ∧
      (v.toNat % 4 ≠ 0 → 1 ≤ v.toNat / 4 % 16 ∧ v.toNat / 4 % 16 ≤ 8)) ∧
  (∀ (s : State) (p : Fin 8), exec (.scaleoutLinkDown p) s = .next (s.setReg (0x0610 + p) 0)) ∧
  (∀ (s : State) (p : Fin 8) q l, s.ethRing (0x0620 + 2 * p) = some q → ethUp s p = true →
    s.frameOut q q.size (s.eth[p]).send = some l →
    ∃ r f, exec (.ethFrameSend p) s = .next r ∧ (r.eth[p]).sent = (s.eth[p]).sent ++ [f] ∧
      (r.eth[p]).send = ((s.eth[p]).send + l.length) % q.size) ∧
  (∀ (s : State) (p : Fin 8) q l bytes, s.ethRing (0x0621 + 2 * p) = some q → ethUp s p = true →
    s.frameIn q q.size (s.eth[p]).recv bytes = some l →
    ∃ r, exec (.ethFrameReceive p bytes) s = .next r ∧ (r.eth[p]).recv = ((s.eth[p]).recv + l.length) % q.size) ∧
  (∀ s : State, s.boot.powered = false →
    ∃ r, exec .powerGood s = .next r ∧ r.boot = {} ∧ r.units = [] ∧ r.regs = []) ∧
  (∀ s : State, s.boot.powered = true →
    ∃ r, exec .powerLoss s = .next r ∧ r.boot.powered = false ∧ r.sweep = {} ∧ r.units = [] ∧
      r.mem = s.mem.filter fun c => decide (0x800000000000 ≤ c.1)) ∧
  (∀ s : State, s.boot.powered = true → s.boot.code ≤ 3 →
    ∃ r, exec .bootStateAdvance s = .next r ∧
      (s.boot.code = 0 → r.boot.code = 1 ∧ r.boot.firmware = Config.flash s.freeCtr) ∧
      (s.boot.code = 1 → signedBy s s.boot.firmware = some 0 → r.boot.code = 2 ∧ r.boot.sigOk = true) ∧
      (s.boot.code = 1 → signedBy s s.boot.firmware ≠ some 0 → r.boot.code = 5) ∧
      (s.boot.code = 2 → keyMissing s = false ∧ r.boot.code = 3 ∧ r.quickRings = [] ∨ r.boot.code = 6) ∧
      (s.boot.code = 3 → r.boot.code = 4 ∧ r.reg 0x0500 = 3)) ∧
  (∀ (s : State) n, s.boot.powered = true → s.boot.code = 5 → s.boot.image = some n →
    ∃ r, exec .bootStateAdvance s = .next r ∧
      (signedBy s (recoveryImage s n) = some 0 → r.boot.code = 2 ∧ r.boot.firmware = recoveryImage s n) ∧
      (signedBy s (recoveryImage s n) ≠ some 0 → r.boot = { s.boot with image := none })) ∧
  (∀ (s : State) k, k < 288 → s.ringLost k = false →
    ∃ r, exec (.bankFailure k) s = .next r ∧ r.ringLost k = true) ∧
  (∀ (s : State) k, k < 256 → s.blockLost k = false →
    let hit := s.units.filter fun p => (p.2.placed || p.2.readout.isSome) && p.2.rect.blocks.contains k
    let kept := s.residents.filter fun r => match r.nw with
      | some nw => ({ nw := nw, rows := r.cfg.rows, cols := r.cfg.cols } : Rect).blocks.contains k
      | none => false
    (s.setBit 0x0520 k).blockLost k = true ∧
    exec (.regionFailure k) s = .next (kept.foldl (fun (t : State) r => t.rollback r.job r.section_ r.replica r.tenant r.secure r.cfg)
      (hit.foldl (fun (t : State) p => t.loseUnit p.1 p.2) (s.setBit 0x0520 k))))

namespace Sys2Proof.Spec
open Machine

/-- What a step makes of exec's answer: no element stays in focus, what goes on by itself has done so, and every trigger is looked
at as it stands (R74, R355). -/
def settled : Host.Outcome State Fault Refusal → Host.Outcome State Fault Refusal
  | .next r => .next (settle r)
  | o => o

/-- The words written out from the encoding tables of R152, R156-R158, and the instructions they stand for. -/
def knownWords : List (BitVec 32 × Instr) :=
  [ (0x00811880, .add 0 (.out (.o 0)) ⟨.ch 0, false⟩ ⟨.k 0, false⟩ false),
    (0x00F05884, .cmplt 0 2 ⟨.ch 0, true⟩ ⟨.k 0, false⟩ false),
    (0x08893891, .adds 2 (.out (.o 1)) ⟨.ch 0, false⟩ ⟨.k 2, false⟩ true),
    (0x0D821864, .mac 3 (.acc 0) ⟨.ch 0, false⟩ 3 1),
    (0x119102A9, .acrd 4 (.out (.o 0)) 2 ⟨.k 5, false⟩ true),
    (0x165856E1, .ldc 5 (.g 2) ⟨.k 6, false⟩ true),
    (0x0E945090, .brdSca 3 2 (.k 0) (.k 2)),
    (0x06C0B191, .wrem 1 5 ⟨.k 1, false⟩ ⟨.k 2, false⟩ true),
    (0x03111806, .incr 0 (.o 0) 0 true true),
    (0x078DF018, .csrw 1 ⟨.k 0, false⟩ ⟨.g 3, false⟩) ]

/-- The lane instructions of classes 1 and 2 whose result comes at once: the instruction, its destination and its sources
(R198-R206, R215-R221). -/
inductive LaneInstr : Instr → Dst → Opd → Opd → Prop where
  | wide (r) (h : r ∈ wideTable) (t d a b bc) : LaneInstr (r.1 t d a b bc) d a b
  | one (r) (h : r ∈ oneTable) (t d a) : LaneInstr (r.1 t d a) d a none_
  | float (r) (h : r ∈ floatTable) (t d a b bc) : LaneInstr (r.1 t d a b bc) d a b
  | floatOne (r) (h : r ∈ floatOne) (t d a) : LaneInstr (r.1 t d a) d a none_
  | mad (t d a b bc) : LaneInstr (.mad t d a b bc) (.g d) a b
  | ffma (t d a b bc) : LaneInstr (.ffma t d a b bc) (.g d) a b
  | ffms (t d a b bc) : LaneInstr (.ffms t d a b bc) (.g d) a b
  | fscl (t d a b bc) : LaneInstr (.fscl t d a b bc) d a b
  | bfx (t d a b) : LaneInstr (.bfx t d a b) d a b
  | idx (t d a b) : LaneInstr (.idx t d a b) d a b
  | satn (t d a b) : LaneInstr (.satn t d a b) d a b
  | ftoi (t d a b) : LaneInstr (.ftoi t d a b) d a b
  | itof (t d a b) : LaneInstr (.itof t d a b) d a b

end Sys2Proof.Spec

/-- R152, R156-R163: for every instruction with a slot word, decoding what its encoding gives is that instruction, with every
operand at every value its field admits; and a word that decodes at all is the encoding of a well-formed instruction. -/
def Obligations.DecodeEncodeRoundTrip : Prop :=
  open Sys2Proof in
  (∀ i : Instr, i.hasWord = true → i.wellFormed = true → ∃ w, encode i = some w ∧ decode w = .ok i) ∧
  (∀ (w : BitVec 32) (i : Instr), decode w = .ok i → i.hasWord = true ∧ i.wellFormed = true ∧ encode i = some w)

/-- R152, R156-R158: words written out bit by bit from the tables decode to the instructions they stand for. -/
def Obligations.KnownWordsDecode : Prop :=
  open Sys2Proof Spec in
  ∀ p ∈ knownWords, decode p.1 = .ok p.2

/-- R62-R65, R182: a step runs the decoded word.  Where the next happening is the picker of a placed element that is free to
fire, the step is exec of the instruction that the picked slot's word decodes to, with that rule in focus: the rule of the
firing that stands stopped, else the lowest slot whose trigger holds and whose resources are free.  A happening that is an
event of the device is exec of that event. -/
def Obligations.AStepRunsTheDecodedWord : Prop :=
  open Sys2Proof Machine Spec in
  (∀ (s : State) (n u e slot : Nat) (defer : Bool) (rest : List Happening) (x0 : UnitSt) (w : BitVec 32) (i : Instr),
    s.agenda = { wait := n, what := .fire u e defer } :: rest → s.boot.powered = true →
    let s1 := elapse { s with agenda := rest } n
    s1.placed? u = some x0 → e < x0.cfg.elemCount →
    let y := (x0.elem e).selfTake
    let x := x0.setElem e y
    let s2 := s1.setUnit u x
    y.pick = .run → y.busy ≤ s2.clk.cyc → y.heldBy = none → y.drained = false →
    y.slots.get? slot = some w → decode w = .ok i →
    (∀ st, y.firing = some st → st.slot = slot → claimTurn s2 x e i = true → step s = settled (exec i (focusOn s2 u e slot defer))) ∧
    (∀ t, y.firing = none → slot < 32 → y.trig.get? (useOf i).t = some t → holds x e (useOf i) t = true →
      waveAdmits y slot = true → resources s2 u x e slot i (useOf i) t = true → claimTurn s2 x e i = true →
      portTakes s2 u e slot i = true → (∀ k < slot, lookAt (claimTurn s2 x e) s2 u e x k = .no) → y.broken (.slot slot) = false → y.broken (.trig (useOf i).t.val) = false →
      y.broken (.desc slot) = false → (∀ n ∈ kRegs (useOf i), y.broken (.k n) = false) →
      step s = settled (exec i (focusOn s2 u e slot defer)))) ∧
  (∀ (s : State) (n : Nat) (rest : List Happening) (i : Instr),
    s.agenda = { wait := n, what := .event i } :: rest → i.hasWord = false → s.boot.powered = true ∨ i = .powerGood →
    step s = settled (exec i (elapse { s with agenda := rest } n)))

/-- Every instruction answers a next state: an event always, a slot instruction wherever the element in focus exists (the
model's choice where an event's occasion does not hold: nothing happens, log 1). -/
def Obligations.EveryInstructionAnswers : Prop :=
  open Sys2Proof Machine in
  ∀ (i : Instr) (s : State),
    (i.hasWord = true → ∃ f, s.focus = some f ∧ s.elemExists f.u f.e = true) → ∃ t, exec i s = .next t

/-- Physical memory keeps its canonical form, addresses rising and no listed byte zero, in every step of the machine (the
model's own representation, logs 2 and 4). -/
def Obligations.MemoryStaysCanonical : Prop :=
  open Sys2Proof Machine in
  ∀ s t : State, step s = .next t → Memory.wf s.mem = true → Memory.wf t.mem = true

/-- R76, R110, R324, R325, R340-R345, R360, R380, R391, R402: what power-good leaves: the boot ROM's state, cycle 0, every ring
steady, the reset values of SWPC (R110), LPOL, the thermal, budget and bucket registers, GATE (R76), TROOT (R360) and SNAPA (R380),
links down; nothing open, armed or aboard; memory listed in canonical form.  The model's choice: the zeros of the fields of TROOT and
SNAPA for which the rules state no reset value (log 3). -/
def Obligations.ResetState : Prop :=
  open Sys2Proof Machine in
  let s := State.reset
  s.boot.code = 0 ∧ s.boot.sigOk = false ∧ s.boot.powered = true ∧ s.clk.cyc = 0 ∧ s.clk.win = 0 ∧ s.quickRings = [] ∧
  s.reg 0x0106 = 0x3 ∧ s.reg 0x0500 = 0x3 ∧
  (∀ q : Fin 4, s.reg (0x0300 + q) = BitVec.ofNat 64 (300 + 95 * 2 ^ 12 + 5 * 2 ^ 20 + 2 ^ 24) ∧ s.reg (0x0304 + q) = 0 ∧
    s.reg (0x0308 + q) = 0) ∧
  (∀ n < 0x1000, s.reg (0x1000 + n) = 0x7FFFFFFFFFFFFFFF) ∧
  (∀ n < 64, s.reg (0x2000 + n) = BitVec.ofNat 64 (0xFFFF + 4096 * 2 ^ 16 + 0xFFFF * 2 ^ 32)) ∧
  (∀ n < 0x400, s.reg (0x3000 + n) = 0 ∧ s.reg (0x3400 + n) = 0) ∧ s.linkUp = false ∧
  s.units = [] ∧ s.jobs = [] ∧ s.sweep.riders = [] ∧ s.sweep.items = [] ∧ (∀ q, (s.queue q).st = .closed) ∧ s.host.images = [] ∧
  Memory.wf s.mem = true

/-- R65, R66, R178, R198, R215: THE FRAME of the lane instructions of classes 1 and 2, whatever their firing comes to: memory,
every register of the device, every other unit and every other element stay; in the element the k-registers, accumulators,
micro-block, burst latches, stochastic state, configuration, slots and triggers stay, and every register but the
destination and those the firing takes; flags only rise; predicates change only as the firing's trigger says. -/
def Obligations.LaneFrame : Prop :=
  open Sys2Proof Machine Spec in
  ∀ (i : Instr) (d : Dst) (a b : Opd) (tr : Fin 64) (s t : State) (f : Focus) (x : UnitSt), LaneInstr i d a b →
    (useOf i).t = tr → s.focus = some f → s.unit? f.u = some x → exec i s = .next t →
    t = { s with units := t.units } ∧ (∀ v, v ≠ f.u → t.unit? v = s.unit? v) ∧
    ∃ z, t.unit? f.u = some z ∧ z = { x with elems := z.elems, flight := z.flight } ∧ (∀ e, e ≠ f.e → z.elem e = x.elem e) ∧
      let y := x.elem f.e
      let w := z.elem f.e
      let en := match y.firing with
        | some st => st.cap.entry
        | none => y.trigger tr
      w.k = y.k ∧ w.acc = y.acc ∧ w.mb = y.mb ∧ w.mx = y.mx ∧ w.sr = y.sr ∧ w.cfg = y.cfg ∧ w.slots = y.slots ∧
      w.desc = y.desc ∧ w.trig = y.trig ∧ w.late = y.late ∧ w.win = y.win ∧ w.fl &&& y.fl = y.fl ∧
      (w.p = y.p ∨ w.p = (y.p ||| (Trig.pset en &&& 0x7F)) &&& ~~~(Trig.pclr en)) ∧
      ∀ n : Fin 8, d.reg? ≠ some n → n ∉ taken a.src b.src → w.g[n] = y.g[n]

namespace Sys2Proof.Spec
open Machine

/-- The accesses of class 4 that write their word, those that write its full bit, and those that change a FIFO (R254-R259). -/
def wordOps : List MemOp := [.st, .stf, .ste, .amoCas] ++ atomics.map fun r => r.2.1
def fullOps : List MemOp := [.lde, .stf, .ste]
def fifoOps : List MemOp := [.push, .pop]

/-- `i` keeps what it does not write, in a firing of however many beats: physical memory, the registers of the device, every other
unit and element, the k-registers, accumulators and configuration of its element and every register but its destination `d` and those
it takes; and every word, every full bit and every FIFO of a tile but where a beat leads and its access writes one. -/
def Keeps (i : Instr) (op : MemOp) (m : Form) (a : Src) (d : Option (Fin 8)) (ok : State → Beat → Prop)
    (eff : State → Beat → State × List (Nat × Token)) : Prop :=
  ∀ (s t : State) (f : Focus) (x z : UnitSt), Fresh s f x →
    let n := Trig.n ((x.elem f.e).trigger m.t)
    let cap := m.cap (x.elem f.e) f.slot
    let at_ := m.upTo s f n cap one_ (each eff)
    let goal := fun (b : Nat) => spot op a (m.pre (at_ b).1 f n b) (m.beat (at_ b).1 f n b cap)
    (∀ b < n, m.Goes (at_ b).1 f n b ∧ ok (m.pre (at_ b).1 f n b) (m.beat (at_ b).1 f n b cap)) →
    exec i s = .next t → t.unit? f.u = some z →
    t.mem = s.mem ∧ t.regs = s.regs ∧ (∀ v, v ≠ f.u → t.unit? v = s.unit? v) ∧ (∀ e, e ≠ f.e → z.elem e = x.elem e) ∧
    (let y := x.elem f.e
     let w := z.elem f.e
     w.k = y.k ∧ w.acc = y.acc ∧ w.mb = y.mb ∧ w.cfg = y.cfg ∧ w.slots = y.slots ∧ w.trig = y.trig ∧ w.desc = y.desc ∧
       ∀ r : Fin 8, d ≠ some r → r ∉ m.takes → w.g[r] = y.g[r]) ∧
    ∀ tl w,
      ((op ∈ wordOps → ∀ b < n, goal b ≠ some (tl, w)) → (z.tile tl).word w = (x.tile tl).word w) ∧
      ((op ∈ fullOps → ∀ b < n, goal b ≠ some (tl, w)) → (z.tile tl).isFull w = (x.tile tl).isFull w) ∧
      ((op ∈ fifoOps → ∀ b < n, ∀ v, goal b ≠ some (tl, v)) → (z.tile tl).fifo = (x.tile tl).fifo)

end Sys2Proof.Spec

/-- R250-R260: THE FRAME of the accesses of class 4 to memory tiles, in firings of any number of beats: a load writes nothing, LDE
only the full bits of the words its addresses lead to, a store those words and STF and STE their full bits too, an atomic those words
and no full bit, PUSH and POP the FIFOs of the tiles they lead to; all else, in memory, in the registers and in the other elements,
stays. -/
def Obligations.StoreFrame : Prop :=
  open Sys2Proof Machine Spec in
  (∀ r ∈ ([(Instr.ld, MemOp.ld), (.lds, .lds), (.lde, .lde), (.pop, .pop)] : List ((Fin 64 → Dst → Opd → Instr) × MemOp)),
    ∀ t d a, Keeps (r.1 t d a) r.2 (form t a none_ none d.outs) a.src d.reg? (leads r.2 0 a.src) (loading r.2 d a.src)) ∧
  (∀ r ∈ ([(Instr.st, MemOp.st), (.stf, .stf), (.ste, .ste)] : List ((Fin 64 → Fin 4 → Opd → Opd → Instr) × MemOp)),
    ∀ t (n : Fin 4) a b, Keeps (r.1 t n a b) r.2 (form t a b none []) a.src none (leads r.2 n.val a.src)
      (wordStore r.2 n.val a.src)) ∧
  (∀ t (n : Fin 4) a b, Keeps (.push t n a b) .push (form t a b none []) a.src none (leads .push n.val a.src)
    (pushing n.val a.src)) ∧
  (∀ r ∈ atomics, ∀ t d a b, Keeps (r.1 t d a b) r.2.1 (form t a b none d.outs) a.src d.reg? (atomicGoes r.2.1 r.2.2 a.src)
    (atomic r.2.1 r.2.2 d a.src)) ∧
  (∀ t n a b, Keeps (.amocas t n a b) .amoCas (form t a b (some n) []) a.src (some n) (atomicGoes .amoCas (fun _ => true) a.src)
    (atomic .amoCas (fun _ => true) (.g n) a.src))
end

