-- ==== Sys2Proof/Laws/Assoc.lean ====
section
/-! SUPPORT. Reading a table after a write of it. -/

namespace Sys2Proof.Machine.Assoc

variable {α : Type}

@[simp] theorem get?_nil (n : Nat) : get? ([] : Assoc α) n = none := rfl

@[simp] theorem get?_set_self (m : Assoc α) (n : Nat) (v : α) : get? (set m n v) n = some v := by
  induction m with
  | nil => simp [set, get?]
  | cons p t ih =>
    obtain ⟨k, w⟩ := p
    unfold set
    split
    · simp [get?]
    · split
      · simp [get?]
      · rename_i h1 h2; simp [get?, Ne.symm h2, ih]

theorem get?_set_ne (m : Assoc α) {n k : Nat} (v : α) (h : k ≠ n) : get? (set m n v) k = get? m k := by
  induction m with
  | nil => simp [set, get?, Ne.symm h]
  | cons p t ih =>
    obtain ⟨j, w⟩ := p
    unfold set
    split
    · simp [get?, Ne.symm h]
    · split
      · rename_i h2; subst h2; simp [get?, Ne.symm h]
      · simp only [get?, ih]

@[simp] theorem get?_upd_self (m : Assoc α) (n : Nat) (f : α → α) : get? (upd m n f) n = (get? m n).map f := by
  induction m with
  | nil => rfl
  | cons p t ih =>
    obtain ⟨j, w⟩ := p
    unfold upd
    split
    · rename_i h; simp [get?, h]
    · rename_i h; simp [get?, h, ih]

theorem get?_upd_ne (m : Assoc α) {n k : Nat} (f : α → α) (h : k ≠ n) : get? (upd m n f) k = get? m k := by
  induction m with
  | nil => rfl
  | cons p t ih =>
    obtain ⟨j, w⟩ := p
    unfold upd
    split
    · rename_i h2; subst h2; simp [get?, Ne.symm h]
    · simp only [get?, ih]

@[simp] theorem getD_set_self (m : Assoc α) (n : Nat) (v d : α) : getD (set m n v) n d = v := by
  simp [getD]

theorem getD_set_ne (m : Assoc α) {n k : Nat} (v d : α) (h : k ≠ n) : getD (set m n v) k d = getD m k d := by
  simp [getD, get?_set_ne m v h]

theorem get?_erase_ne (m : Assoc α) {n k : Nat} (h : k ≠ n) : get? (erase m n) k = get? m k := by
  induction m with
  | nil => rfl
  | cons p t ih =>
    obtain ⟨j, w⟩ := p
    unfold erase
    split
    · rename_i h2; subst h2; simp [get?, Ne.symm h, ih]
    · simp only [get?, ih]

theorem getD_put_ne [DecidableEq α] (m : Assoc α) {n k : Nat} (v d e : α) (h : k ≠ n) :
    getD (put m n v d) k e = getD m k e := by
  unfold put
  split
  · simp [getD, get?_erase_ne m h]
  · exact getD_set_ne m v e h

@[simp] theorem get?_erase_self (m : Assoc α) (n : Nat) : get? (erase m n) n = none := by
  induction m with
  | nil => rfl
  | cons p t ih =>
    obtain ⟨k, w⟩ := p
    unfold erase
    split
    · exact ih
    · rename_i hk; simp only [get?]; rw [if_neg hk]; exact ih

@[simp] theorem getD_put_self [DecidableEq α] (m : Assoc α) (n : Nat) (v d : α) : getD (put m n v d) n d = v := by
  unfold put
  split
  · rename_i hv; simp [getD, hv]
  · simp

end Sys2Proof.Machine.Assoc
end

