-- ==== Sys2Proof/Laws/State.lean ====
section
/-! SUPPORT. What each update of the state, of a unit and of an element leaves alone: one lemma per field. -/

namespace Sys2Proof.Machine

@[simp] theorem State.setUnit_clk (s : State) (u : Nat) (x : UnitSt) : (s.setUnit u x).clk = s.clk := rfl
@[simp] theorem State.setUnit_boot (s : State) (u : Nat) (x : UnitSt) : (s.setUnit u x).boot = s.boot := rfl
@[simp] theorem State.setUnit_regs (s : State) (u : Nat) (x : UnitSt) : (s.setUnit u x).regs = s.regs := rfl
@[simp] theorem State.setUnit_counted (s : State) (u : Nat) (x : UnitSt) : (s.setUnit u x).counted = s.counted := rfl
@[simp] theorem State.setUnit_mem (s : State) (u : Nat) (x : UnitSt) : (s.setUnit u x).mem = s.mem := rfl
@[simp] theorem State.setUnit_store (s : State) (u : Nat) (x : UnitSt) : (s.setUnit u x).store = s.store := rfl
@[simp] theorem State.setUnit_tcache (s : State) (u : Nat) (x : UnitSt) : (s.setUnit u x).tcache = s.tcache := rfl
@[simp] theorem State.setUnit_slots (s : State) (u : Nat) (x : UnitSt) : (s.setUnit u x).slots = s.slots := rfl
@[simp] theorem State.setUnit_claimed (s : State) (u : Nat) (x : UnitSt) : (s.setUnit u x).claimed = s.claimed := rfl
@[simp] theorem State.setUnit_launches (s : State) (u : Nat) (x : UnitSt) : (s.setUnit u x).launches = s.launches := rfl
@[simp] theorem State.setUnit_jobs (s : State) (u : Nat) (x : UnitSt) : (s.setUnit u x).jobs = s.jobs := rfl
@[simp] theorem State.setUnit_host (s : State) (u : Nat) (x : UnitSt) : (s.setUnit u x).host = s.host := rfl
@[simp] theorem State.setUnit_sweep (s : State) (u : Nat) (x : UnitSt) : (s.setUnit u x).sweep = s.sweep := rfl
@[simp] theorem State.setUnit_copies (s : State) (u : Nat) (x : UnitSt) : (s.setUnit u x).copies = s.copies := rfl
@[simp] theorem State.setUnit_remotes (s : State) (u : Nat) (x : UnitSt) : (s.setUnit u x).remotes = s.remotes := rfl
@[simp] theorem State.setUnit_arrivals (s : State) (u : Nat) (x : UnitSt) : (s.setUnit u x).arrivals = s.arrivals := rfl
@[simp] theorem State.setUnit_colls (s : State) (u : Nat) (x : UnitSt) : (s.setUnit u x).colls = s.colls := rfl
@[simp] theorem State.setUnit_guards (s : State) (u : Nat) (x : UnitSt) : (s.setUnit u x).guards = s.guards := rfl
@[simp] theorem State.setUnit_faults (s : State) (u : Nat) (x : UnitSt) : (s.setUnit u x).faults = s.faults := rfl
@[simp] theorem State.setUnit_losses (s : State) (u : Nat) (x : UnitSt) : (s.setUnit u x).losses = s.losses := rfl
@[simp] theorem State.setUnit_nextSerial (s : State) (u : Nat) (x : UnitSt) : (s.setUnit u x).nextSerial = s.nextSerial := rfl
@[simp] theorem State.setUnit_tlbis (s : State) (u : Nat) (x : UnitSt) : (s.setUnit u x).tlbis = s.tlbis := rfl
@[simp] theorem State.setUnit_snaps (s : State) (u : Nat) (x : UnitSt) : (s.setUnit u x).snaps = s.snaps := rfl
@[simp] theorem State.setUnit_snapNext (s : State) (u : Nat) (x : UnitSt) : (s.setUnit u x).snapNext = s.snapNext := rfl
@[simp] theorem State.setUnit_snapPos (s : State) (u : Nat) (x : UnitSt) : (s.setUnit u x).snapPos = s.snapPos := rfl
@[simp] theorem State.setUnit_residents (s : State) (u : Nat) (x : UnitSt) : (s.setUnit u x).residents = s.residents := rfl
@[simp] theorem State.setUnit_exact (s : State) (u : Nat) (x : UnitSt) : (s.setUnit u x).exact = s.exact := rfl
@[simp] theorem State.setUnit_exactCnt (s : State) (u : Nat) (x : UnitSt) : (s.setUnit u x).exactCnt = s.exactCnt := rfl
@[simp] theorem State.setUnit_windows (s : State) (u : Nat) (x : UnitSt) : (s.setUnit u x).windows = s.windows := rfl
@[simp] theorem State.setUnit_groups (s : State) (u : Nat) (x : UnitSt) : (s.setUnit u x).groups = s.groups := rfl
@[simp] theorem State.setUnit_keys (s : State) (u : Nat) (x : UnitSt) : (s.setUnit u x).keys = s.keys := rfl
@[simp] theorem State.setUnit_keyNext (s : State) (u : Nat) (x : UnitSt) : (s.setUnit u x).keyNext = s.keyNext := rfl
@[simp] theorem State.setUnit_power (s : State) (u : Nat) (x : UnitSt) : (s.setUnit u x).power = s.power := rfl
@[simp] theorem State.setUnit_ingress (s : State) (u : Nat) (x : UnitSt) : (s.setUnit u x).ingress = s.ingress := rfl
@[simp] theorem State.setUnit_heldIn (s : State) (u : Nat) (x : UnitSt) : (s.setUnit u x).heldIn = s.heldIn := rfl
@[simp] theorem State.setUnit_eth (s : State) (u : Nat) (x : UnitSt) : (s.setUnit u x).eth = s.eth := rfl
@[simp] theorem State.setUnit_agenda (s : State) (u : Nat) (x : UnitSt) : (s.setUnit u x).agenda = s.agenda := rfl
@[simp] theorem State.setUnit_focus (s : State) (u : Nat) (x : UnitSt) : (s.setUnit u x).focus = s.focus := rfl
@[simp] theorem State.setUnit_freeCtr (s : State) (u : Nat) (x : UnitSt) : (s.setUnit u x).freeCtr = s.freeCtr := rfl
@[simp] theorem State.setUnit_nextId (s : State) (u : Nat) (x : UnitSt) : (s.setUnit u x).nextId = s.nextId := rfl

@[simp] theorem State.modUnit_clk (s : State) (u : Nat) (f : UnitSt → UnitSt) : (s.modUnit u f).clk = s.clk := rfl
@[simp] theorem State.modUnit_boot (s : State) (u : Nat) (f : UnitSt → UnitSt) : (s.modUnit u f).boot = s.boot := rfl
@[simp] theorem State.modUnit_regs (s : State) (u : Nat) (f : UnitSt → UnitSt) : (s.modUnit u f).regs = s.regs := rfl
@[simp] theorem State.modUnit_counted (s : State) (u : Nat) (f : UnitSt → UnitSt) : (s.modUnit u f).counted = s.counted := rfl
@[simp] theorem State.modUnit_mem (s : State) (u : Nat) (f : UnitSt → UnitSt) : (s.modUnit u f).mem = s.mem := rfl
@[simp] theorem State.modUnit_store (s : State) (u : Nat) (f : UnitSt → UnitSt) : (s.modUnit u f).store = s.store := rfl
@[simp] theorem State.modUnit_tcache (s : State) (u : Nat) (f : UnitSt → UnitSt) : (s.modUnit u f).tcache = s.tcache := rfl
@[simp] theorem State.modUnit_slots (s : State) (u : Nat) (f : UnitSt → UnitSt) : (s.modUnit u f).slots = s.slots := rfl
@[simp] theorem State.modUnit_claimed (s : State) (u : Nat) (f : UnitSt → UnitSt) : (s.modUnit u f).claimed = s.claimed := rfl
@[simp] theorem State.modUnit_launches (s : State) (u : Nat) (f : UnitSt → UnitSt) : (s.modUnit u f).launches = s.launches := rfl
@[simp] theorem State.modUnit_jobs (s : State) (u : Nat) (f : UnitSt → UnitSt) : (s.modUnit u f).jobs = s.jobs := rfl
@[simp] theorem State.modUnit_host (s : State) (u : Nat) (f : UnitSt → UnitSt) : (s.modUnit u f).host = s.host := rfl
@[simp] theorem State.modUnit_sweep (s : State) (u : Nat) (f : UnitSt → UnitSt) : (s.modUnit u f).sweep = s.sweep := rfl
@[simp] theorem State.modUnit_copies (s : State) (u : Nat) (f : UnitSt → UnitSt) : (s.modUnit u f).copies = s.copies := rfl
@[simp] theorem State.modUnit_remotes (s : State) (u : Nat) (f : UnitSt → UnitSt) : (s.modUnit u f).remotes = s.remotes := rfl
@[simp] theorem State.modUnit_arrivals (s : State) (u : Nat) (f : UnitSt → UnitSt) : (s.modUnit u f).arrivals = s.arrivals := rfl
@[simp] theorem State.modUnit_colls (s : State) (u : Nat) (f : UnitSt → UnitSt) : (s.modUnit u f).colls = s.colls := rfl
@[simp] theorem State.modUnit_guards (s : State) (u : Nat) (f : UnitSt → UnitSt) : (s.modUnit u f).guards = s.guards := rfl
@[simp] theorem State.modUnit_faults (s : State) (u : Nat) (f : UnitSt → UnitSt) : (s.modUnit u f).faults = s.faults := rfl
@[simp] theorem State.modUnit_losses (s : State) (u : Nat) (f : UnitSt → UnitSt) : (s.modUnit u f).losses = s.losses := rfl
@[simp] theorem State.modUnit_nextSerial (s : State) (u : Nat) (f : UnitSt → UnitSt) : (s.modUnit u f).nextSerial = s.nextSerial := rfl
@[simp] theorem State.modUnit_tlbis (s : State) (u : Nat) (f : UnitSt → UnitSt) : (s.modUnit u f).tlbis = s.tlbis := rfl
@[simp] theorem State.modUnit_snaps (s : State) (u : Nat) (f : UnitSt → UnitSt) : (s.modUnit u f).snaps = s.snaps := rfl
@[simp] theorem State.modUnit_snapNext (s : State) (u : Nat) (f : UnitSt → UnitSt) : (s.modUnit u f).snapNext = s.snapNext := rfl
@[simp] theorem State.modUnit_snapPos (s : State) (u : Nat) (f : UnitSt → UnitSt) : (s.modUnit u f).snapPos = s.snapPos := rfl
@[simp] theorem State.modUnit_residents (s : State) (u : Nat) (f : UnitSt → UnitSt) : (s.modUnit u f).residents = s.residents := rfl
@[simp] theorem State.modUnit_exact (s : State) (u : Nat) (f : UnitSt → UnitSt) : (s.modUnit u f).exact = s.exact := rfl
@[simp] theorem State.modUnit_exactCnt (s : State) (u : Nat) (f : UnitSt → UnitSt) : (s.modUnit u f).exactCnt = s.exactCnt := rfl
@[simp] theorem State.modUnit_windows (s : State) (u : Nat) (f : UnitSt → UnitSt) : (s.modUnit u f).windows = s.windows := rfl
@[simp] theorem State.modUnit_groups (s : State) (u : Nat) (f : UnitSt → UnitSt) : (s.modUnit u f).groups = s.groups := rfl
@[simp] theorem State.modUnit_keys (s : State) (u : Nat) (f : UnitSt → UnitSt) : (s.modUnit u f).keys = s.keys := rfl
@[simp] theorem State.modUnit_keyNext (s : State) (u : Nat) (f : UnitSt → UnitSt) : (s.modUnit u f).keyNext = s.keyNext := rfl
@[simp] theorem State.modUnit_power (s : State) (u : Nat) (f : UnitSt → UnitSt) : (s.modUnit u f).power = s.power := rfl
@[simp] theorem State.modUnit_ingress (s : State) (u : Nat) (f : UnitSt → UnitSt) : (s.modUnit u f).ingress = s.ingress := rfl
@[simp] theorem State.modUnit_heldIn (s : State) (u : Nat) (f : UnitSt → UnitSt) : (s.modUnit u f).heldIn = s.heldIn := rfl
@[simp] theorem State.modUnit_eth (s : State) (u : Nat) (f : UnitSt → UnitSt) : (s.modUnit u f).eth = s.eth := rfl
@[simp] theorem State.modUnit_agenda (s : State) (u : Nat) (f : UnitSt → UnitSt) : (s.modUnit u f).agenda = s.agenda := rfl
@[simp] theorem State.modUnit_focus (s : State) (u : Nat) (f : UnitSt → UnitSt) : (s.modUnit u f).focus = s.focus := rfl
@[simp] theorem State.modUnit_freeCtr (s : State) (u : Nat) (f : UnitSt → UnitSt) : (s.modUnit u f).freeCtr = s.freeCtr := rfl
@[simp] theorem State.modUnit_nextId (s : State) (u : Nat) (f : UnitSt → UnitSt) : (s.modUnit u f).nextId = s.nextId := rfl

@[simp] theorem State.modElem_clk (s : State) (u e : Nat) (f : Elem → Elem) : (s.modElem u e f).clk = s.clk := rfl
@[simp] theorem State.modElem_boot (s : State) (u e : Nat) (f : Elem → Elem) : (s.modElem u e f).boot = s.boot := rfl
@[simp] theorem State.modElem_regs (s : State) (u e : Nat) (f : Elem → Elem) : (s.modElem u e f).regs = s.regs := rfl
@[simp] theorem State.modElem_counted (s : State) (u e : Nat) (f : Elem → Elem) : (s.modElem u e f).counted = s.counted := rfl
@[simp] theorem State.modElem_mem (s : State) (u e : Nat) (f : Elem → Elem) : (s.modElem u e f).mem = s.mem := rfl
@[simp] theorem State.modElem_store (s : State) (u e : Nat) (f : Elem → Elem) : (s.modElem u e f).store = s.store := rfl
@[simp] theorem State.modElem_tcache (s : State) (u e : Nat) (f : Elem → Elem) : (s.modElem u e f).tcache = s.tcache := rfl
@[simp] theorem State.modElem_slots (s : State) (u e : Nat) (f : Elem → Elem) : (s.modElem u e f).slots = s.slots := rfl
@[simp] theorem State.modElem_claimed (s : State) (u e : Nat) (f : Elem → Elem) : (s.modElem u e f).claimed = s.claimed := rfl
@[simp] theorem State.modElem_launches (s : State) (u e : Nat) (f : Elem → Elem) : (s.modElem u e f).launches = s.launches := rfl
@[simp] theorem State.modElem_jobs (s : State) (u e : Nat) (f : Elem → Elem) : (s.modElem u e f).jobs = s.jobs := rfl
@[simp] theorem State.modElem_host (s : State) (u e : Nat) (f : Elem → Elem) : (s.modElem u e f).host = s.host := rfl
@[simp] theorem State.modElem_sweep (s : State) (u e : Nat) (f : Elem → Elem) : (s.modElem u e f).sweep = s.sweep := rfl
@[simp] theorem State.modElem_copies (s : State) (u e : Nat) (f : Elem → Elem) : (s.modElem u e f).copies = s.copies := rfl
@[simp] theorem State.modElem_remotes (s : State) (u e : Nat) (f : Elem → Elem) : (s.modElem u e f).remotes = s.remotes := rfl
@[simp] theorem State.modElem_arrivals (s : State) (u e : Nat) (f : Elem → Elem) : (s.modElem u e f).arrivals = s.arrivals := rfl
@[simp] theorem State.modElem_colls (s : State) (u e : Nat) (f : Elem → Elem) : (s.modElem u e f).colls = s.colls := rfl
@[simp] theorem State.modElem_guards (s : State) (u e : Nat) (f : Elem → Elem) : (s.modElem u e f).guards = s.guards := rfl
@[simp] theorem State.modElem_faults (s : State) (u e : Nat) (f : Elem → Elem) : (s.modElem u e f).faults = s.faults := rfl
@[simp] theorem State.modElem_losses (s : State) (u e : Nat) (f : Elem → Elem) : (s.modElem u e f).losses = s.losses := rfl
@[simp] theorem State.modElem_nextSerial (s : State) (u e : Nat) (f : Elem → Elem) : (s.modElem u e f).nextSerial = s.nextSerial := rfl
@[simp] theorem State.modElem_tlbis (s : State) (u e : Nat) (f : Elem → Elem) : (s.modElem u e f).tlbis = s.tlbis := rfl
@[simp] theorem State.modElem_snaps (s : State) (u e : Nat) (f : Elem → Elem) : (s.modElem u e f).snaps = s.snaps := rfl
@[simp] theorem State.modElem_snapNext (s : State) (u e : Nat) (f : Elem → Elem) : (s.modElem u e f).snapNext = s.snapNext := rfl
@[simp] theorem State.modElem_snapPos (s : State) (u e : Nat) (f : Elem → Elem) : (s.modElem u e f).snapPos = s.snapPos := rfl
@[simp] theorem State.modElem_residents (s : State) (u e : Nat) (f : Elem → Elem) : (s.modElem u e f).residents = s.residents := rfl
@[simp] theorem State.modElem_exact (s : State) (u e : Nat) (f : Elem → Elem) : (s.modElem u e f).exact = s.exact := rfl
@[simp] theorem State.modElem_exactCnt (s : State) (u e : Nat) (f : Elem → Elem) : (s.modElem u e f).exactCnt = s.exactCnt := rfl
@[simp] theorem State.modElem_windows (s : State) (u e : Nat) (f : Elem → Elem) : (s.modElem u e f).windows = s.windows := rfl
@[simp] theorem State.modElem_groups (s : State) (u e : Nat) (f : Elem → Elem) : (s.modElem u e f).groups = s.groups := rfl
@[simp] theorem State.modElem_keys (s : State) (u e : Nat) (f : Elem → Elem) : (s.modElem u e f).keys = s.keys := rfl
@[simp] theorem State.modElem_keyNext (s : State) (u e : Nat) (f : Elem → Elem) : (s.modElem u e f).keyNext = s.keyNext := rfl
@[simp] theorem State.modElem_power (s : State) (u e : Nat) (f : Elem → Elem) : (s.modElem u e f).power = s.power := rfl
@[simp] theorem State.modElem_ingress (s : State) (u e : Nat) (f : Elem → Elem) : (s.modElem u e f).ingress = s.ingress := rfl
@[simp] theorem State.modElem_heldIn (s : State) (u e : Nat) (f : Elem → Elem) : (s.modElem u e f).heldIn = s.heldIn := rfl
@[simp] theorem State.modElem_eth (s : State) (u e : Nat) (f : Elem → Elem) : (s.modElem u e f).eth = s.eth := rfl
@[simp] theorem State.modElem_agenda (s : State) (u e : Nat) (f : Elem → Elem) : (s.modElem u e f).agenda = s.agenda := rfl
@[simp] theorem State.modElem_focus (s : State) (u e : Nat) (f : Elem → Elem) : (s.modElem u e f).focus = s.focus := rfl
@[simp] theorem State.modElem_freeCtr (s : State) (u e : Nat) (f : Elem → Elem) : (s.modElem u e f).freeCtr = s.freeCtr := rfl
@[simp] theorem State.modElem_nextId (s : State) (u e : Nat) (f : Elem → Elem) : (s.modElem u e f).nextId = s.nextId := rfl

@[simp] theorem State.raise_clk (s : State) (u e : Nat) (f : Flags) : (s.raise u e f).clk = s.clk := rfl
@[simp] theorem State.raise_boot (s : State) (u e : Nat) (f : Flags) : (s.raise u e f).boot = s.boot := rfl
@[simp] theorem State.raise_regs (s : State) (u e : Nat) (f : Flags) : (s.raise u e f).regs = s.regs := rfl
@[simp] theorem State.raise_counted (s : State) (u e : Nat) (f : Flags) : (s.raise u e f).counted = s.counted := rfl
@[simp] theorem State.raise_mem (s : State) (u e : Nat) (f : Flags) : (s.raise u e f).mem = s.mem := rfl
@[simp] theorem State.raise_store (s : State) (u e : Nat) (f : Flags) : (s.raise u e f).store = s.store := rfl
@[simp] theorem State.raise_tcache (s : State) (u e : Nat) (f : Flags) : (s.raise u e f).tcache = s.tcache := rfl
@[simp] theorem State.raise_slots (s : State) (u e : Nat) (f : Flags) : (s.raise u e f).slots = s.slots := rfl
@[simp] theorem State.raise_claimed (s : State) (u e : Nat) (f : Flags) : (s.raise u e f).claimed = s.claimed := rfl
@[simp] theorem State.raise_launches (s : State) (u e : Nat) (f : Flags) : (s.raise u e f).launches = s.launches := rfl
@[simp] theorem State.raise_jobs (s : State) (u e : Nat) (f : Flags) : (s.raise u e f).jobs = s.jobs := rfl
@[simp] theorem State.raise_host (s : State) (u e : Nat) (f : Flags) : (s.raise u e f).host = s.host := rfl
@[simp] theorem State.raise_sweep (s : State) (u e : Nat) (f : Flags) : (s.raise u e f).sweep = s.sweep := rfl
@[simp] theorem State.raise_copies (s : State) (u e : Nat) (f : Flags) : (s.raise u e f).copies = s.copies := rfl
@[simp] theorem State.raise_remotes (s : State) (u e : Nat) (f : Flags) : (s.raise u e f).remotes = s.remotes := rfl
@[simp] theorem State.raise_arrivals (s : State) (u e : Nat) (f : Flags) : (s.raise u e f).arrivals = s.arrivals := rfl
@[simp] theorem State.raise_colls (s : State) (u e : Nat) (f : Flags) : (s.raise u e f).colls = s.colls := rfl
@[simp] theorem State.raise_guards (s : State) (u e : Nat) (f : Flags) : (s.raise u e f).guards = s.guards := rfl
@[simp] theorem State.raise_faults (s : State) (u e : Nat) (f : Flags) : (s.raise u e f).faults = s.faults := rfl
@[simp] theorem State.raise_losses (s : State) (u e : Nat) (f : Flags) : (s.raise u e f).losses = s.losses := rfl
@[simp] theorem State.raise_nextSerial (s : State) (u e : Nat) (f : Flags) : (s.raise u e f).nextSerial = s.nextSerial := rfl
@[simp] theorem State.raise_tlbis (s : State) (u e : Nat) (f : Flags) : (s.raise u e f).tlbis = s.tlbis := rfl
@[simp] theorem State.raise_snaps (s : State) (u e : Nat) (f : Flags) : (s.raise u e f).snaps = s.snaps := rfl
@[simp] theorem State.raise_snapNext (s : State) (u e : Nat) (f : Flags) : (s.raise u e f).snapNext = s.snapNext := rfl
@[simp] theorem State.raise_snapPos (s : State) (u e : Nat) (f : Flags) : (s.raise u e f).snapPos = s.snapPos := rfl
@[simp] theorem State.raise_residents (s : State) (u e : Nat) (f : Flags) : (s.raise u e f).residents = s.residents := rfl
@[simp] theorem State.raise_exact (s : State) (u e : Nat) (f : Flags) : (s.raise u e f).exact = s.exact := rfl
@[simp] theorem State.raise_exactCnt (s : State) (u e : Nat) (f : Flags) : (s.raise u e f).exactCnt = s.exactCnt := rfl
@[simp] theorem State.raise_windows (s : State) (u e : Nat) (f : Flags) : (s.raise u e f).windows = s.windows := rfl
@[simp] theorem State.raise_groups (s : State) (u e : Nat) (f : Flags) : (s.raise u e f).groups = s.groups := rfl
@[simp] theorem State.raise_keys (s : State) (u e : Nat) (f : Flags) : (s.raise u e f).keys = s.keys := rfl
@[simp] theorem State.raise_keyNext (s : State) (u e : Nat) (f : Flags) : (s.raise u e f).keyNext = s.keyNext := rfl
@[simp] theorem State.raise_power (s : State) (u e : Nat) (f : Flags) : (s.raise u e f).power = s.power := rfl
@[simp] theorem State.raise_ingress (s : State) (u e : Nat) (f : Flags) : (s.raise u e f).ingress = s.ingress := rfl
@[simp] theorem State.raise_heldIn (s : State) (u e : Nat) (f : Flags) : (s.raise u e f).heldIn = s.heldIn := rfl
@[simp] theorem State.raise_eth (s : State) (u e : Nat) (f : Flags) : (s.raise u e f).eth = s.eth := rfl
@[simp] theorem State.raise_agenda (s : State) (u e : Nat) (f : Flags) : (s.raise u e f).agenda = s.agenda := rfl
@[simp] theorem State.raise_focus (s : State) (u e : Nat) (f : Flags) : (s.raise u e f).focus = s.focus := rfl
@[simp] theorem State.raise_freeCtr (s : State) (u e : Nat) (f : Flags) : (s.raise u e f).freeCtr = s.freeCtr := rfl
@[simp] theorem State.raise_nextId (s : State) (u e : Nat) (f : Flags) : (s.raise u e f).nextId = s.nextId := rfl

@[simp] theorem State.bumpId_clk (s : State) : s.bumpId.clk = s.clk := rfl
@[simp] theorem State.bumpId_boot (s : State) : s.bumpId.boot = s.boot := rfl
@[simp] theorem State.bumpId_regs (s : State) : s.bumpId.regs = s.regs := rfl
@[simp] theorem State.bumpId_counted (s : State) : s.bumpId.counted = s.counted := rfl
@[simp] theorem State.bumpId_mem (s : State) : s.bumpId.mem = s.mem := rfl
@[simp] theorem State.bumpId_store (s : State) : s.bumpId.store = s.store := rfl
@[simp] theorem State.bumpId_tcache (s : State) : s.bumpId.tcache = s.tcache := rfl
@[simp] theorem State.bumpId_slots (s : State) : s.bumpId.slots = s.slots := rfl
@[simp] theorem State.bumpId_claimed (s : State) : s.bumpId.claimed = s.claimed := rfl
@[simp] theorem State.bumpId_units (s : State) : s.bumpId.units = s.units := rfl
@[simp] theorem State.bumpId_launches (s : State) : s.bumpId.launches = s.launches := rfl
@[simp] theorem State.bumpId_jobs (s : State) : s.bumpId.jobs = s.jobs := rfl
@[simp] theorem State.bumpId_host (s : State) : s.bumpId.host = s.host := rfl
@[simp] theorem State.bumpId_sweep (s : State) : s.bumpId.sweep = s.sweep := rfl
@[simp] theorem State.bumpId_copies (s : State) : s.bumpId.copies = s.copies := rfl
@[simp] theorem State.bumpId_remotes (s : State) : s.bumpId.remotes = s.remotes := rfl
@[simp] theorem State.bumpId_arrivals (s : State) : s.bumpId.arrivals = s.arrivals := rfl
@[simp] theorem State.bumpId_colls (s : State) : s.bumpId.colls = s.colls := rfl
@[simp] theorem State.bumpId_guards (s : State) : s.bumpId.guards = s.guards := rfl
@[simp] theorem State.bumpId_faults (s : State) : s.bumpId.faults = s.faults := rfl
@[simp] theorem State.bumpId_losses (s : State) : s.bumpId.losses = s.losses := rfl
@[simp] theorem State.bumpId_nextSerial (s : State) : s.bumpId.nextSerial = s.nextSerial := rfl
@[simp] theorem State.bumpId_tlbis (s : State) : s.bumpId.tlbis = s.tlbis := rfl
@[simp] theorem State.bumpId_snaps (s : State) : s.bumpId.snaps = s.snaps := rfl
@[simp] theorem State.bumpId_snapNext (s : State) : s.bumpId.snapNext = s.snapNext := rfl
@[simp] theorem State.bumpId_snapPos (s : State) : s.bumpId.snapPos = s.snapPos := rfl
@[simp] theorem State.bumpId_residents (s : State) : s.bumpId.residents = s.residents := rfl
@[simp] theorem State.bumpId_exact (s : State) : s.bumpId.exact = s.exact := rfl
@[simp] theorem State.bumpId_exactCnt (s : State) : s.bumpId.exactCnt = s.exactCnt := rfl
@[simp] theorem State.bumpId_windows (s : State) : s.bumpId.windows = s.windows := rfl
@[simp] theorem State.bumpId_groups (s : State) : s.bumpId.groups = s.groups := rfl
@[simp] theorem State.bumpId_keys (s : State) : s.bumpId.keys = s.keys := rfl
@[simp] theorem State.bumpId_keyNext (s : State) : s.bumpId.keyNext = s.keyNext := rfl
@[simp] theorem State.bumpId_power (s : State) : s.bumpId.power = s.power := rfl
@[simp] theorem State.bumpId_ingress (s : State) : s.bumpId.ingress = s.ingress := rfl
@[simp] theorem State.bumpId_heldIn (s : State) : s.bumpId.heldIn = s.heldIn := rfl
@[simp] theorem State.bumpId_eth (s : State) : s.bumpId.eth = s.eth := rfl
@[simp] theorem State.bumpId_agenda (s : State) : s.bumpId.agenda = s.agenda := rfl
@[simp] theorem State.bumpId_focus (s : State) : s.bumpId.focus = s.focus := rfl
@[simp] theorem State.bumpId_freeCtr (s : State) : s.bumpId.freeCtr = s.freeCtr := rfl

@[simp] theorem State.setReg_clk (s : State) (n : Nat) (v : Word) : (s.setReg n v).clk = s.clk := rfl
@[simp] theorem State.setReg_boot (s : State) (n : Nat) (v : Word) : (s.setReg n v).boot = s.boot := rfl
@[simp] theorem State.setReg_counted (s : State) (n : Nat) (v : Word) : (s.setReg n v).counted = s.counted := rfl
@[simp] theorem State.setReg_mem (s : State) (n : Nat) (v : Word) : (s.setReg n v).mem = s.mem := rfl
@[simp] theorem State.setReg_store (s : State) (n : Nat) (v : Word) : (s.setReg n v).store = s.store := rfl
@[simp] theorem State.setReg_tcache (s : State) (n : Nat) (v : Word) : (s.setReg n v).tcache = s.tcache := rfl
@[simp] theorem State.setReg_slots (s : State) (n : Nat) (v : Word) : (s.setReg n v).slots = s.slots := rfl
@[simp] theorem State.setReg_claimed (s : State) (n : Nat) (v : Word) : (s.setReg n v).claimed = s.claimed := rfl
@[simp] theorem State.setReg_units (s : State) (n : Nat) (v : Word) : (s.setReg n v).units = s.units := rfl
@[simp] theorem State.setReg_launches (s : State) (n : Nat) (v : Word) : (s.setReg n v).launches = s.launches := rfl
@[simp] theorem State.setReg_jobs (s : State) (n : Nat) (v : Word) : (s.setReg n v).jobs = s.jobs := rfl
@[simp] theorem State.setReg_host (s : State) (n : Nat) (v : Word) : (s.setReg n v).host = s.host := rfl
@[simp] theorem State.setReg_sweep (s : State) (n : Nat) (v : Word) : (s.setReg n v).sweep = s.sweep := rfl
@[simp] theorem State.setReg_copies (s : State) (n : Nat) (v : Word) : (s.setReg n v).copies = s.copies := rfl
@[simp] theorem State.setReg_remotes (s : State) (n : Nat) (v : Word) : (s.setReg n v).remotes = s.remotes := rfl
@[simp] theorem State.setReg_arrivals (s : State) (n : Nat) (v : Word) : (s.setReg n v).arrivals = s.arrivals := rfl
@[simp] theorem State.setReg_colls (s : State) (n : Nat) (v : Word) : (s.setReg n v).colls = s.colls := rfl
@[simp] theorem State.setReg_guards (s : State) (n : Nat) (v : Word) : (s.setReg n v).guards = s.guards := rfl
@[simp] theorem State.setReg_faults (s : State) (n : Nat) (v : Word) : (s.setReg n v).faults = s.faults := rfl
@[simp] theorem State.setReg_losses (s : State) (n : Nat) (v : Word) : (s.setReg n v).losses = s.losses := rfl
@[simp] theorem State.setReg_nextSerial (s : State) (n : Nat) (v : Word) : (s.setReg n v).nextSerial = s.nextSerial := rfl
@[simp] theorem State.setReg_tlbis (s : State) (n : Nat) (v : Word) : (s.setReg n v).tlbis = s.tlbis := rfl
@[simp] theorem State.setReg_snaps (s : State) (n : Nat) (v : Word) : (s.setReg n v).snaps = s.snaps := rfl
@[simp] theorem State.setReg_snapNext (s : State) (n : Nat) (v : Word) : (s.setReg n v).snapNext = s.snapNext := rfl
@[simp] theorem State.setReg_snapPos (s : State) (n : Nat) (v : Word) : (s.setReg n v).snapPos = s.snapPos := rfl
@[simp] theorem State.setReg_residents (s : State) (n : Nat) (v : Word) : (s.setReg n v).residents = s.residents := rfl
@[simp] theorem State.setReg_exact (s : State) (n : Nat) (v : Word) : (s.setReg n v).exact = s.exact := rfl
@[simp] theorem State.setReg_exactCnt (s : State) (n : Nat) (v : Word) : (s.setReg n v).exactCnt = s.exactCnt := rfl
@[simp] theorem State.setReg_windows (s : State) (n : Nat) (v : Word) : (s.setReg n v).windows = s.windows := rfl
@[simp] theorem State.setReg_groups (s : State) (n : Nat) (v : Word) : (s.setReg n v).groups = s.groups := rfl
@[simp] theorem State.setReg_keys (s : State) (n : Nat) (v : Word) : (s.setReg n v).keys = s.keys := rfl
@[simp] theorem State.setReg_keyNext (s : State) (n : Nat) (v : Word) : (s.setReg n v).keyNext = s.keyNext := rfl
@[simp] theorem State.setReg_power (s : State) (n : Nat) (v : Word) : (s.setReg n v).power = s.power := rfl
@[simp] theorem State.setReg_ingress (s : State) (n : Nat) (v : Word) : (s.setReg n v).ingress = s.ingress := rfl
@[simp] theorem State.setReg_heldIn (s : State) (n : Nat) (v : Word) : (s.setReg n v).heldIn = s.heldIn := rfl
@[simp] theorem State.setReg_eth (s : State) (n : Nat) (v : Word) : (s.setReg n v).eth = s.eth := rfl
@[simp] theorem State.setReg_agenda (s : State) (n : Nat) (v : Word) : (s.setReg n v).agenda = s.agenda := rfl
@[simp] theorem State.setReg_focus (s : State) (n : Nat) (v : Word) : (s.setReg n v).focus = s.focus := rfl
@[simp] theorem State.setReg_freeCtr (s : State) (n : Nat) (v : Word) : (s.setReg n v).freeCtr = s.freeCtr := rfl
@[simp] theorem State.setReg_nextId (s : State) (n : Nat) (v : Word) : (s.setReg n v).nextId = s.nextId := rfl

@[simp] theorem State.countUp_clk (s : State) (n : Nat) : (s.countUp n).clk = s.clk := rfl
@[simp] theorem State.countUp_boot (s : State) (n : Nat) : (s.countUp n).boot = s.boot := rfl
@[simp] theorem State.countUp_mem (s : State) (n : Nat) : (s.countUp n).mem = s.mem := rfl
@[simp] theorem State.countUp_store (s : State) (n : Nat) : (s.countUp n).store = s.store := rfl
@[simp] theorem State.countUp_tcache (s : State) (n : Nat) : (s.countUp n).tcache = s.tcache := rfl
@[simp] theorem State.countUp_slots (s : State) (n : Nat) : (s.countUp n).slots = s.slots := rfl
@[simp] theorem State.countUp_claimed (s : State) (n : Nat) : (s.countUp n).claimed = s.claimed := rfl
@[simp] theorem State.countUp_units (s : State) (n : Nat) : (s.countUp n).units = s.units := rfl
@[simp] theorem State.countUp_launches (s : State) (n : Nat) : (s.countUp n).launches = s.launches := rfl
@[simp] theorem State.countUp_jobs (s : State) (n : Nat) : (s.countUp n).jobs = s.jobs := rfl
@[simp] theorem State.countUp_host (s : State) (n : Nat) : (s.countUp n).host = s.host := rfl
@[simp] theorem State.countUp_sweep (s : State) (n : Nat) : (s.countUp n).sweep = s.sweep := rfl
@[simp] theorem State.countUp_copies (s : State) (n : Nat) : (s.countUp n).copies = s.copies := rfl
@[simp] theorem State.countUp_remotes (s : State) (n : Nat) : (s.countUp n).remotes = s.remotes := rfl
@[simp] theorem State.countUp_arrivals (s : State) (n : Nat) : (s.countUp n).arrivals = s.arrivals := rfl
@[simp] theorem State.countUp_colls (s : State) (n : Nat) : (s.countUp n).colls = s.colls := rfl
@[simp] theorem State.countUp_guards (s : State) (n : Nat) : (s.countUp n).guards = s.guards := rfl
@[simp] theorem State.countUp_faults (s : State) (n : Nat) : (s.countUp n).faults = s.faults := rfl
@[simp] theorem State.countUp_losses (s : State) (n : Nat) : (s.countUp n).losses = s.losses := rfl
@[simp] theorem State.countUp_nextSerial (s : State) (n : Nat) : (s.countUp n).nextSerial = s.nextSerial := rfl
@[simp] theorem State.countUp_tlbis (s : State) (n : Nat) : (s.countUp n).tlbis = s.tlbis := rfl
@[simp] theorem State.countUp_snaps (s : State) (n : Nat) : (s.countUp n).snaps = s.snaps := rfl
@[simp] theorem State.countUp_snapNext (s : State) (n : Nat) : (s.countUp n).snapNext = s.snapNext := rfl
@[simp] theorem State.countUp_snapPos (s : State) (n : Nat) : (s.countUp n).snapPos = s.snapPos := rfl
@[simp] theorem State.countUp_residents (s : State) (n : Nat) : (s.countUp n).residents = s.residents := rfl
@[simp] theorem State.countUp_exact (s : State) (n : Nat) : (s.countUp n).exact = s.exact := rfl
@[simp] theorem State.countUp_exactCnt (s : State) (n : Nat) : (s.countUp n).exactCnt = s.exactCnt := rfl
@[simp] theorem State.countUp_windows (s : State) (n : Nat) : (s.countUp n).windows = s.windows := rfl
@[simp] theorem State.countUp_groups (s : State) (n : Nat) : (s.countUp n).groups = s.groups := rfl
@[simp] theorem State.countUp_keys (s : State) (n : Nat) : (s.countUp n).keys = s.keys := rfl
@[simp] theorem State.countUp_keyNext (s : State) (n : Nat) : (s.countUp n).keyNext = s.keyNext := rfl
@[simp] theorem State.countUp_power (s : State) (n : Nat) : (s.countUp n).power = s.power := rfl
@[simp] theorem State.countUp_ingress (s : State) (n : Nat) : (s.countUp n).ingress = s.ingress := rfl
@[simp] theorem State.countUp_heldIn (s : State) (n : Nat) : (s.countUp n).heldIn = s.heldIn := rfl
@[simp] theorem State.countUp_eth (s : State) (n : Nat) : (s.countUp n).eth = s.eth := rfl
@[simp] theorem State.countUp_agenda (s : State) (n : Nat) : (s.countUp n).agenda = s.agenda := rfl
@[simp] theorem State.countUp_focus (s : State) (n : Nat) : (s.countUp n).focus = s.focus := rfl
@[simp] theorem State.countUp_freeCtr (s : State) (n : Nat) : (s.countUp n).freeCtr = s.freeCtr := rfl
@[simp] theorem State.countUp_nextId (s : State) (n : Nat) : (s.countUp n).nextId = s.nextId := rfl

@[simp] theorem State.setQueue_clk (s : State) (q : Nat) (x : Queue) : (s.setQueue q x).clk = s.clk := rfl
@[simp] theorem State.setQueue_boot (s : State) (q : Nat) (x : Queue) : (s.setQueue q x).boot = s.boot := rfl
@[simp] theorem State.setQueue_regs (s : State) (q : Nat) (x : Queue) : (s.setQueue q x).regs = s.regs := rfl
@[simp] theorem State.setQueue_counted (s : State) (q : Nat) (x : Queue) : (s.setQueue q x).counted = s.counted := rfl
@[simp] theorem State.setQueue_mem (s : State) (q : Nat) (x : Queue) : (s.setQueue q x).mem = s.mem := rfl
@[simp] theorem State.setQueue_store (s : State) (q : Nat) (x : Queue) : (s.setQueue q x).store = s.store := rfl
@[simp] theorem State.setQueue_tcache (s : State) (q : Nat) (x : Queue) : (s.setQueue q x).tcache = s.tcache := rfl
@[simp] theorem State.setQueue_slots (s : State) (q : Nat) (x : Queue) : (s.setQueue q x).slots = s.slots := rfl
@[simp] theorem State.setQueue_claimed (s : State) (q : Nat) (x : Queue) : (s.setQueue q x).claimed = s.claimed := rfl
@[simp] theorem State.setQueue_units (s : State) (q : Nat) (x : Queue) : (s.setQueue q x).units = s.units := rfl
@[simp] theorem State.setQueue_launches (s : State) (q : Nat) (x : Queue) : (s.setQueue q x).launches = s.launches := rfl
@[simp] theorem State.setQueue_jobs (s : State) (q : Nat) (x : Queue) : (s.setQueue q x).jobs = s.jobs := rfl
@[simp] theorem State.setQueue_sweep (s : State) (q : Nat) (x : Queue) : (s.setQueue q x).sweep = s.sweep := rfl
@[simp] theorem State.setQueue_copies (s : State) (q : Nat) (x : Queue) : (s.setQueue q x).copies = s.copies := rfl
@[simp] theorem State.setQueue_remotes (s : State) (q : Nat) (x : Queue) : (s.setQueue q x).remotes = s.remotes := rfl
@[simp] theorem State.setQueue_arrivals (s : State) (q : Nat) (x : Queue) : (s.setQueue q x).arrivals = s.arrivals := rfl
@[simp] theorem State.setQueue_colls (s : State) (q : Nat) (x : Queue) : (s.setQueue q x).colls = s.colls := rfl
@[simp] theorem State.setQueue_guards (s : State) (q : Nat) (x : Queue) : (s.setQueue q x).guards = s.guards := rfl
@[simp] theorem State.setQueue_faults (s : State) (q : Nat) (x : Queue) : (s.setQueue q x).faults = s.faults := rfl
@[simp] theorem State.setQueue_losses (s : State) (q : Nat) (x : Queue) : (s.setQueue q x).losses = s.losses := rfl
@[simp] theorem State.setQueue_nextSerial (s : State) (q : Nat) (x : Queue) : (s.setQueue q x).nextSerial = s.nextSerial := rfl
@[simp] theorem State.setQueue_tlbis (s : State) (q : Nat) (x : Queue) : (s.setQueue q x).tlbis = s.tlbis := rfl
@[simp] theorem State.setQueue_snaps (s : State) (q : Nat) (x : Queue) : (s.setQueue q x).snaps = s.snaps := rfl
@[simp] theorem State.setQueue_snapNext (s : State) (q : Nat) (x : Queue) : (s.setQueue q x).snapNext = s.snapNext := rfl
@[simp] theorem State.setQueue_snapPos (s : State) (q : Nat) (x : Queue) : (s.setQueue q x).snapPos = s.snapPos := rfl
@[simp] theorem State.setQueue_residents (s : State) (q : Nat) (x : Queue) : (s.setQueue q x).residents = s.residents := rfl
@[simp] theorem State.setQueue_exact (s : State) (q : Nat) (x : Queue) : (s.setQueue q x).exact = s.exact := rfl
@[simp] theorem State.setQueue_exactCnt (s : State) (q : Nat) (x : Queue) : (s.setQueue q x).exactCnt = s.exactCnt := rfl
@[simp] theorem State.setQueue_windows (s : State) (q : Nat) (x : Queue) : (s.setQueue q x).windows = s.windows := rfl
@[simp] theorem State.setQueue_groups (s : State) (q : Nat) (x : Queue) : (s.setQueue q x).groups = s.groups := rfl
@[simp] theorem State.setQueue_keys (s : State) (q : Nat) (x : Queue) : (s.setQueue q x).keys = s.keys := rfl
@[simp] theorem State.setQueue_keyNext (s : State) (q : Nat) (x : Queue) : (s.setQueue q x).keyNext = s.keyNext := rfl
@[simp] theorem State.setQueue_power (s : State) (q : Nat) (x : Queue) : (s.setQueue q x).power = s.power := rfl
@[simp] theorem State.setQueue_ingress (s : State) (q : Nat) (x : Queue) : (s.setQueue q x).ingress = s.ingress := rfl
@[simp] theorem State.setQueue_heldIn (s : State) (q : Nat) (x : Queue) : (s.setQueue q x).heldIn = s.heldIn := rfl
@[simp] theorem State.setQueue_eth (s : State) (q : Nat) (x : Queue) : (s.setQueue q x).eth = s.eth := rfl
@[simp] theorem State.setQueue_agenda (s : State) (q : Nat) (x : Queue) : (s.setQueue q x).agenda = s.agenda := rfl
@[simp] theorem State.setQueue_focus (s : State) (q : Nat) (x : Queue) : (s.setQueue q x).focus = s.focus := rfl
@[simp] theorem State.setQueue_freeCtr (s : State) (q : Nat) (x : Queue) : (s.setQueue q x).freeCtr = s.freeCtr := rfl
@[simp] theorem State.setQueue_nextId (s : State) (q : Nat) (x : Queue) : (s.setQueue q x).nextId = s.nextId := rfl

@[simp] theorem State.modJob_clk (s : State) (j : Nat) (f : Job → Job) : (s.modJob j f).clk = s.clk := rfl
@[simp] theorem State.modJob_boot (s : State) (j : Nat) (f : Job → Job) : (s.modJob j f).boot = s.boot := rfl
@[simp] theorem State.modJob_regs (s : State) (j : Nat) (f : Job → Job) : (s.modJob j f).regs = s.regs := rfl
@[simp] theorem State.modJob_counted (s : State) (j : Nat) (f : Job → Job) : (s.modJob j f).counted = s.counted := rfl
@[simp] theorem State.modJob_mem (s : State) (j : Nat) (f : Job → Job) : (s.modJob j f).mem = s.mem := rfl
@[simp] theorem State.modJob_store (s : State) (j : Nat) (f : Job → Job) : (s.modJob j f).store = s.store := rfl
@[simp] theorem State.modJob_tcache (s : State) (j : Nat) (f : Job → Job) : (s.modJob j f).tcache = s.tcache := rfl
@[simp] theorem State.modJob_slots (s : State) (j : Nat) (f : Job → Job) : (s.modJob j f).slots = s.slots := rfl
@[simp] theorem State.modJob_claimed (s : State) (j : Nat) (f : Job → Job) : (s.modJob j f).claimed = s.claimed := rfl
@[simp] theorem State.modJob_units (s : State) (j : Nat) (f : Job → Job) : (s.modJob j f).units = s.units := rfl
@[simp] theorem State.modJob_launches (s : State) (j : Nat) (f : Job → Job) : (s.modJob j f).launches = s.launches := rfl
@[simp] theorem State.modJob_host (s : State) (j : Nat) (f : Job → Job) : (s.modJob j f).host = s.host := rfl
@[simp] theorem State.modJob_sweep (s : State) (j : Nat) (f : Job → Job) : (s.modJob j f).sweep = s.sweep := rfl
@[simp] theorem State.modJob_copies (s : State) (j : Nat) (f : Job → Job) : (s.modJob j f).copies = s.copies := rfl
@[simp] theorem State.modJob_remotes (s : State) (j : Nat) (f : Job → Job) : (s.modJob j f).remotes = s.remotes := rfl
@[simp] theorem State.modJob_arrivals (s : State) (j : Nat) (f : Job → Job) : (s.modJob j f).arrivals = s.arrivals := rfl
@[simp] theorem State.modJob_colls (s : State) (j : Nat) (f : Job → Job) : (s.modJob j f).colls = s.colls := rfl
@[simp] theorem State.modJob_guards (s : State) (j : Nat) (f : Job → Job) : (s.modJob j f).guards = s.guards := rfl
@[simp] theorem State.modJob_faults (s : State) (j : Nat) (f : Job → Job) : (s.modJob j f).faults = s.faults := rfl
@[simp] theorem State.modJob_losses (s : State) (j : Nat) (f : Job → Job) : (s.modJob j f).losses = s.losses := rfl
@[simp] theorem State.modJob_nextSerial (s : State) (j : Nat) (f : Job → Job) : (s.modJob j f).nextSerial = s.nextSerial := rfl
@[simp] theorem State.modJob_tlbis (s : State) (j : Nat) (f : Job → Job) : (s.modJob j f).tlbis = s.tlbis := rfl
@[simp] theorem State.modJob_snaps (s : State) (j : Nat) (f : Job → Job) : (s.modJob j f).snaps = s.snaps := rfl
@[simp] theorem State.modJob_snapNext (s : State) (j : Nat) (f : Job → Job) : (s.modJob j f).snapNext = s.snapNext := rfl
@[simp] theorem State.modJob_snapPos (s : State) (j : Nat) (f : Job → Job) : (s.modJob j f).snapPos = s.snapPos := rfl
@[simp] theorem State.modJob_residents (s : State) (j : Nat) (f : Job → Job) : (s.modJob j f).residents = s.residents := rfl
@[simp] theorem State.modJob_exact (s : State) (j : Nat) (f : Job → Job) : (s.modJob j f).exact = s.exact := rfl
@[simp] theorem State.modJob_exactCnt (s : State) (j : Nat) (f : Job → Job) : (s.modJob j f).exactCnt = s.exactCnt := rfl
@[simp] theorem State.modJob_windows (s : State) (j : Nat) (f : Job → Job) : (s.modJob j f).windows = s.windows := rfl
@[simp] theorem State.modJob_groups (s : State) (j : Nat) (f : Job → Job) : (s.modJob j f).groups = s.groups := rfl
@[simp] theorem State.modJob_keys (s : State) (j : Nat) (f : Job → Job) : (s.modJob j f).keys = s.keys := rfl
@[simp] theorem State.modJob_keyNext (s : State) (j : Nat) (f : Job → Job) : (s.modJob j f).keyNext = s.keyNext := rfl
@[simp] theorem State.modJob_power (s : State) (j : Nat) (f : Job → Job) : (s.modJob j f).power = s.power := rfl
@[simp] theorem State.modJob_ingress (s : State) (j : Nat) (f : Job → Job) : (s.modJob j f).ingress = s.ingress := rfl
@[simp] theorem State.modJob_heldIn (s : State) (j : Nat) (f : Job → Job) : (s.modJob j f).heldIn = s.heldIn := rfl
@[simp] theorem State.modJob_eth (s : State) (j : Nat) (f : Job → Job) : (s.modJob j f).eth = s.eth := rfl
@[simp] theorem State.modJob_agenda (s : State) (j : Nat) (f : Job → Job) : (s.modJob j f).agenda = s.agenda := rfl
@[simp] theorem State.modJob_focus (s : State) (j : Nat) (f : Job → Job) : (s.modJob j f).focus = s.focus := rfl
@[simp] theorem State.modJob_freeCtr (s : State) (j : Nat) (f : Job → Job) : (s.modJob j f).freeCtr = s.freeCtr := rfl
@[simp] theorem State.modJob_nextId (s : State) (j : Nat) (f : Job → Job) : (s.modJob j f).nextId = s.nextId := rfl

@[simp] theorem State.modLaunch_clk (s : State) (l : Nat) (f : Launch → Launch) : (s.modLaunch l f).clk = s.clk := rfl
@[simp] theorem State.modLaunch_boot (s : State) (l : Nat) (f : Launch → Launch) : (s.modLaunch l f).boot = s.boot := rfl
@[simp] theorem State.modLaunch_regs (s : State) (l : Nat) (f : Launch → Launch) : (s.modLaunch l f).regs = s.regs := rfl
@[simp] theorem State.modLaunch_counted (s : State) (l : Nat) (f : Launch → Launch) : (s.modLaunch l f).counted = s.counted := rfl
@[simp] theorem State.modLaunch_mem (s : State) (l : Nat) (f : Launch → Launch) : (s.modLaunch l f).mem = s.mem := rfl
@[simp] theorem State.modLaunch_store (s : State) (l : Nat) (f : Launch → Launch) : (s.modLaunch l f).store = s.store := rfl
@[simp] theorem State.modLaunch_tcache (s : State) (l : Nat) (f : Launch → Launch) : (s.modLaunch l f).tcache = s.tcache := rfl
@[simp] theorem State.modLaunch_slots (s : State) (l : Nat) (f : Launch → Launch) : (s.modLaunch l f).slots = s.slots := rfl
@[simp] theorem State.modLaunch_claimed (s : State) (l : Nat) (f : Launch → Launch) : (s.modLaunch l f).claimed = s.claimed := rfl
@[simp] theorem State.modLaunch_units (s : State) (l : Nat) (f : Launch → Launch) : (s.modLaunch l f).units = s.units := rfl
@[simp] theorem State.modLaunch_jobs (s : State) (l : Nat) (f : Launch → Launch) : (s.modLaunch l f).jobs = s.jobs := rfl
@[simp] theorem State.modLaunch_host (s : State) (l : Nat) (f : Launch → Launch) : (s.modLaunch l f).host = s.host := rfl
@[simp] theorem State.modLaunch_sweep (s : State) (l : Nat) (f : Launch → Launch) : (s.modLaunch l f).sweep = s.sweep := rfl
@[simp] theorem State.modLaunch_copies (s : State) (l : Nat) (f : Launch → Launch) : (s.modLaunch l f).copies = s.copies := rfl
@[simp] theorem State.modLaunch_remotes (s : State) (l : Nat) (f : Launch → Launch) : (s.modLaunch l f).remotes = s.remotes := rfl
@[simp] theorem State.modLaunch_arrivals (s : State) (l : Nat) (f : Launch → Launch) : (s.modLaunch l f).arrivals = s.arrivals := rfl
@[simp] theorem State.modLaunch_colls (s : State) (l : Nat) (f : Launch → Launch) : (s.modLaunch l f).colls = s.colls := rfl
@[simp] theorem State.modLaunch_guards (s : State) (l : Nat) (f : Launch → Launch) : (s.modLaunch l f).guards = s.guards := rfl
@[simp] theorem State.modLaunch_faults (s : State) (l : Nat) (f : Launch → Launch) : (s.modLaunch l f).faults = s.faults := rfl
@[simp] theorem State.modLaunch_losses (s : State) (l : Nat) (f : Launch → Launch) : (s.modLaunch l f).losses = s.losses := rfl
@[simp] theorem State.modLaunch_nextSerial (s : State) (l : Nat) (f : Launch → Launch) : (s.modLaunch l f).nextSerial = s.nextSerial := rfl
@[simp] theorem State.modLaunch_tlbis (s : State) (l : Nat) (f : Launch → Launch) : (s.modLaunch l f).tlbis = s.tlbis := rfl
@[simp] theorem State.modLaunch_snaps (s : State) (l : Nat) (f : Launch → Launch) : (s.modLaunch l f).snaps = s.snaps := rfl
@[simp] theorem State.modLaunch_snapNext (s : State) (l : Nat) (f : Launch → Launch) : (s.modLaunch l f).snapNext = s.snapNext := rfl
@[simp] theorem State.modLaunch_snapPos (s : State) (l : Nat) (f : Launch → Launch) : (s.modLaunch l f).snapPos = s.snapPos := rfl
@[simp] theorem State.modLaunch_residents (s : State) (l : Nat) (f : Launch → Launch) : (s.modLaunch l f).residents = s.residents := rfl
@[simp] theorem State.modLaunch_exact (s : State) (l : Nat) (f : Launch → Launch) : (s.modLaunch l f).exact = s.exact := rfl
@[simp] theorem State.modLaunch_exactCnt (s : State) (l : Nat) (f : Launch → Launch) : (s.modLaunch l f).exactCnt = s.exactCnt := rfl
@[simp] theorem State.modLaunch_windows (s : State) (l : Nat) (f : Launch → Launch) : (s.modLaunch l f).windows = s.windows := rfl
@[simp] theorem State.modLaunch_groups (s : State) (l : Nat) (f : Launch → Launch) : (s.modLaunch l f).groups = s.groups := rfl
@[simp] theorem State.modLaunch_keys (s : State) (l : Nat) (f : Launch → Launch) : (s.modLaunch l f).keys = s.keys := rfl
@[simp] theorem State.modLaunch_keyNext (s : State) (l : Nat) (f : Launch → Launch) : (s.modLaunch l f).keyNext = s.keyNext := rfl
@[simp] theorem State.modLaunch_power (s : State) (l : Nat) (f : Launch → Launch) : (s.modLaunch l f).power = s.power := rfl
@[simp] theorem State.modLaunch_ingress (s : State) (l : Nat) (f : Launch → Launch) : (s.modLaunch l f).ingress = s.ingress := rfl
@[simp] theorem State.modLaunch_heldIn (s : State) (l : Nat) (f : Launch → Launch) : (s.modLaunch l f).heldIn = s.heldIn := rfl
@[simp] theorem State.modLaunch_eth (s : State) (l : Nat) (f : Launch → Launch) : (s.modLaunch l f).eth = s.eth := rfl
@[simp] theorem State.modLaunch_agenda (s : State) (l : Nat) (f : Launch → Launch) : (s.modLaunch l f).agenda = s.agenda := rfl
@[simp] theorem State.modLaunch_focus (s : State) (l : Nat) (f : Launch → Launch) : (s.modLaunch l f).focus = s.focus := rfl
@[simp] theorem State.modLaunch_freeCtr (s : State) (l : Nat) (f : Launch → Launch) : (s.modLaunch l f).freeCtr = s.freeCtr := rfl
@[simp] theorem State.modLaunch_nextId (s : State) (l : Nat) (f : Launch → Launch) : (s.modLaunch l f).nextId = s.nextId := rfl

@[simp] theorem State.setSlot_clk (s : State) (q n : Nat) (x : OpSlot) : (s.setSlot q n x).clk = s.clk := rfl
@[simp] theorem State.setSlot_boot (s : State) (q n : Nat) (x : OpSlot) : (s.setSlot q n x).boot = s.boot := rfl
@[simp] theorem State.setSlot_regs (s : State) (q n : Nat) (x : OpSlot) : (s.setSlot q n x).regs = s.regs := rfl
@[simp] theorem State.setSlot_counted (s : State) (q n : Nat) (x : OpSlot) : (s.setSlot q n x).counted = s.counted := rfl
@[simp] theorem State.setSlot_mem (s : State) (q n : Nat) (x : OpSlot) : (s.setSlot q n x).mem = s.mem := rfl
@[simp] theorem State.setSlot_store (s : State) (q n : Nat) (x : OpSlot) : (s.setSlot q n x).store = s.store := rfl
@[simp] theorem State.setSlot_tcache (s : State) (q n : Nat) (x : OpSlot) : (s.setSlot q n x).tcache = s.tcache := rfl
@[simp] theorem State.setSlot_claimed (s : State) (q n : Nat) (x : OpSlot) : (s.setSlot q n x).claimed = s.claimed := rfl
@[simp] theorem State.setSlot_units (s : State) (q n : Nat) (x : OpSlot) : (s.setSlot q n x).units = s.units := rfl
@[simp] theorem State.setSlot_launches (s : State) (q n : Nat) (x : OpSlot) : (s.setSlot q n x).launches = s.launches := rfl
@[simp] theorem State.setSlot_jobs (s : State) (q n : Nat) (x : OpSlot) : (s.setSlot q n x).jobs = s.jobs := rfl
@[simp] theorem State.setSlot_host (s : State) (q n : Nat) (x : OpSlot) : (s.setSlot q n x).host = s.host := rfl
@[simp] theorem State.setSlot_sweep (s : State) (q n : Nat) (x : OpSlot) : (s.setSlot q n x).sweep = s.sweep := rfl
@[simp] theorem State.setSlot_copies (s : State) (q n : Nat) (x : OpSlot) : (s.setSlot q n x).copies = s.copies := rfl
@[simp] theorem State.setSlot_remotes (s : State) (q n : Nat) (x : OpSlot) : (s.setSlot q n x).remotes = s.remotes := rfl
@[simp] theorem State.setSlot_arrivals (s : State) (q n : Nat) (x : OpSlot) : (s.setSlot q n x).arrivals = s.arrivals := rfl
@[simp] theorem State.setSlot_colls (s : State) (q n : Nat) (x : OpSlot) : (s.setSlot q n x).colls = s.colls := rfl
@[simp] theorem State.setSlot_guards (s : State) (q n : Nat) (x : OpSlot) : (s.setSlot q n x).guards = s.guards := rfl
@[simp] theorem State.setSlot_faults (s : State) (q n : Nat) (x : OpSlot) : (s.setSlot q n x).faults = s.faults := rfl
@[simp] theorem State.setSlot_losses (s : State) (q n : Nat) (x : OpSlot) : (s.setSlot q n x).losses = s.losses := rfl
@[simp] theorem State.setSlot_nextSerial (s : State) (q n : Nat) (x : OpSlot) : (s.setSlot q n x).nextSerial = s.nextSerial := rfl
@[simp] theorem State.setSlot_tlbis (s : State) (q n : Nat) (x : OpSlot) : (s.setSlot q n x).tlbis = s.tlbis := rfl
@[simp] theorem State.setSlot_snaps (s : State) (q n : Nat) (x : OpSlot) : (s.setSlot q n x).snaps = s.snaps := rfl
@[simp] theorem State.setSlot_snapNext (s : State) (q n : Nat) (x : OpSlot) : (s.setSlot q n x).snapNext = s.snapNext := rfl
@[simp] theorem State.setSlot_snapPos (s : State) (q n : Nat) (x : OpSlot) : (s.setSlot q n x).snapPos = s.snapPos := rfl
@[simp] theorem State.setSlot_residents (s : State) (q n : Nat) (x : OpSlot) : (s.setSlot q n x).residents = s.residents := rfl
@[simp] theorem State.setSlot_exact (s : State) (q n : Nat) (x : OpSlot) : (s.setSlot q n x).exact = s.exact := rfl
@[simp] theorem State.setSlot_exactCnt (s : State) (q n : Nat) (x : OpSlot) : (s.setSlot q n x).exactCnt = s.exactCnt := rfl
@[simp] theorem State.setSlot_windows (s : State) (q n : Nat) (x : OpSlot) : (s.setSlot q n x).windows = s.windows := rfl
@[simp] theorem State.setSlot_groups (s : State) (q n : Nat) (x : OpSlot) : (s.setSlot q n x).groups = s.groups := rfl
@[simp] theorem State.setSlot_keys (s : State) (q n : Nat) (x : OpSlot) : (s.setSlot q n x).keys = s.keys := rfl
@[simp] theorem State.setSlot_keyNext (s : State) (q n : Nat) (x : OpSlot) : (s.setSlot q n x).keyNext = s.keyNext := rfl
@[simp] theorem State.setSlot_power (s : State) (q n : Nat) (x : OpSlot) : (s.setSlot q n x).power = s.power := rfl
@[simp] theorem State.setSlot_ingress (s : State) (q n : Nat) (x : OpSlot) : (s.setSlot q n x).ingress = s.ingress := rfl
@[simp] theorem State.setSlot_heldIn (s : State) (q n : Nat) (x : OpSlot) : (s.setSlot q n x).heldIn = s.heldIn := rfl
@[simp] theorem State.setSlot_eth (s : State) (q n : Nat) (x : OpSlot) : (s.setSlot q n x).eth = s.eth := rfl
@[simp] theorem State.setSlot_agenda (s : State) (q n : Nat) (x : OpSlot) : (s.setSlot q n x).agenda = s.agenda := rfl
@[simp] theorem State.setSlot_focus (s : State) (q n : Nat) (x : OpSlot) : (s.setSlot q n x).focus = s.focus := rfl
@[simp] theorem State.setSlot_freeCtr (s : State) (q n : Nat) (x : OpSlot) : (s.setSlot q n x).freeCtr = s.freeCtr := rfl
@[simp] theorem State.setSlot_nextId (s : State) (q n : Nat) (x : OpSlot) : (s.setSlot q n x).nextId = s.nextId := rfl

@[simp] theorem State.claimSlot_clk (s : State) (x : UnitSt) (e n : Nat) : (s.claimSlot x e n).clk = s.clk := rfl
@[simp] theorem State.claimSlot_boot (s : State) (x : UnitSt) (e n : Nat) : (s.claimSlot x e n).boot = s.boot := rfl
@[simp] theorem State.claimSlot_regs (s : State) (x : UnitSt) (e n : Nat) : (s.claimSlot x e n).regs = s.regs := rfl
@[simp] theorem State.claimSlot_counted (s : State) (x : UnitSt) (e n : Nat) : (s.claimSlot x e n).counted = s.counted := rfl
@[simp] theorem State.claimSlot_mem (s : State) (x : UnitSt) (e n : Nat) : (s.claimSlot x e n).mem = s.mem := rfl
@[simp] theorem State.claimSlot_store (s : State) (x : UnitSt) (e n : Nat) : (s.claimSlot x e n).store = s.store := rfl
@[simp] theorem State.claimSlot_tcache (s : State) (x : UnitSt) (e n : Nat) : (s.claimSlot x e n).tcache = s.tcache := rfl
@[simp] theorem State.claimSlot_units (s : State) (x : UnitSt) (e n : Nat) : (s.claimSlot x e n).units = s.units := rfl
@[simp] theorem State.claimSlot_launches (s : State) (x : UnitSt) (e n : Nat) : (s.claimSlot x e n).launches = s.launches := rfl
@[simp] theorem State.claimSlot_jobs (s : State) (x : UnitSt) (e n : Nat) : (s.claimSlot x e n).jobs = s.jobs := rfl
@[simp] theorem State.claimSlot_host (s : State) (x : UnitSt) (e n : Nat) : (s.claimSlot x e n).host = s.host := rfl
@[simp] theorem State.claimSlot_sweep (s : State) (x : UnitSt) (e n : Nat) : (s.claimSlot x e n).sweep = s.sweep := rfl
@[simp] theorem State.claimSlot_copies (s : State) (x : UnitSt) (e n : Nat) : (s.claimSlot x e n).copies = s.copies := rfl
@[simp] theorem State.claimSlot_remotes (s : State) (x : UnitSt) (e n : Nat) : (s.claimSlot x e n).remotes = s.remotes := rfl
@[simp] theorem State.claimSlot_arrivals (s : State) (x : UnitSt) (e n : Nat) : (s.claimSlot x e n).arrivals = s.arrivals := rfl
@[simp] theorem State.claimSlot_colls (s : State) (x : UnitSt) (e n : Nat) : (s.claimSlot x e n).colls = s.colls := rfl
@[simp] theorem State.claimSlot_guards (s : State) (x : UnitSt) (e n : Nat) : (s.claimSlot x e n).guards = s.guards := rfl
@[simp] theorem State.claimSlot_faults (s : State) (x : UnitSt) (e n : Nat) : (s.claimSlot x e n).faults = s.faults := rfl
@[simp] theorem State.claimSlot_losses (s : State) (x : UnitSt) (e n : Nat) : (s.claimSlot x e n).losses = s.losses := rfl
@[simp] theorem State.claimSlot_nextSerial (s : State) (x : UnitSt) (e n : Nat) : (s.claimSlot x e n).nextSerial = s.nextSerial := rfl
@[simp] theorem State.claimSlot_tlbis (s : State) (x : UnitSt) (e n : Nat) : (s.claimSlot x e n).tlbis = s.tlbis := rfl
@[simp] theorem State.claimSlot_snaps (s : State) (x : UnitSt) (e n : Nat) : (s.claimSlot x e n).snaps = s.snaps := rfl
@[simp] theorem State.claimSlot_snapNext (s : State) (x : UnitSt) (e n : Nat) : (s.claimSlot x e n).snapNext = s.snapNext := rfl
@[simp] theorem State.claimSlot_snapPos (s : State) (x : UnitSt) (e n : Nat) : (s.claimSlot x e n).snapPos = s.snapPos := rfl
@[simp] theorem State.claimSlot_residents (s : State) (x : UnitSt) (e n : Nat) : (s.claimSlot x e n).residents = s.residents := rfl
@[simp] theorem State.claimSlot_exact (s : State) (x : UnitSt) (e n : Nat) : (s.claimSlot x e n).exact = s.exact := rfl
@[simp] theorem State.claimSlot_exactCnt (s : State) (x : UnitSt) (e n : Nat) : (s.claimSlot x e n).exactCnt = s.exactCnt := rfl
@[simp] theorem State.claimSlot_windows (s : State) (x : UnitSt) (e n : Nat) : (s.claimSlot x e n).windows = s.windows := rfl
@[simp] theorem State.claimSlot_groups (s : State) (x : UnitSt) (e n : Nat) : (s.claimSlot x e n).groups = s.groups := rfl
@[simp] theorem State.claimSlot_keys (s : State) (x : UnitSt) (e n : Nat) : (s.claimSlot x e n).keys = s.keys := rfl
@[simp] theorem State.claimSlot_keyNext (s : State) (x : UnitSt) (e n : Nat) : (s.claimSlot x e n).keyNext = s.keyNext := rfl
@[simp] theorem State.claimSlot_power (s : State) (x : UnitSt) (e n : Nat) : (s.claimSlot x e n).power = s.power := rfl
@[simp] theorem State.claimSlot_ingress (s : State) (x : UnitSt) (e n : Nat) : (s.claimSlot x e n).ingress = s.ingress := rfl
@[simp] theorem State.claimSlot_heldIn (s : State) (x : UnitSt) (e n : Nat) : (s.claimSlot x e n).heldIn = s.heldIn := rfl
@[simp] theorem State.claimSlot_eth (s : State) (x : UnitSt) (e n : Nat) : (s.claimSlot x e n).eth = s.eth := rfl
@[simp] theorem State.claimSlot_agenda (s : State) (x : UnitSt) (e n : Nat) : (s.claimSlot x e n).agenda = s.agenda := rfl
@[simp] theorem State.claimSlot_focus (s : State) (x : UnitSt) (e n : Nat) : (s.claimSlot x e n).focus = s.focus := rfl
@[simp] theorem State.claimSlot_freeCtr (s : State) (x : UnitSt) (e n : Nat) : (s.claimSlot x e n).freeCtr = s.freeCtr := rfl
@[simp] theorem State.claimSlot_nextId (s : State) (x : UnitSt) (e n : Nat) : (s.claimSlot x e n).nextId = s.nextId := rfl

@[simp] theorem State.spendCredit_clk (s : State) (k n : Nat) : (s.spendCredit k n).clk = s.clk := rfl
@[simp] theorem State.spendCredit_boot (s : State) (k n : Nat) : (s.spendCredit k n).boot = s.boot := rfl
@[simp] theorem State.spendCredit_regs (s : State) (k n : Nat) : (s.spendCredit k n).regs = s.regs := rfl
@[simp] theorem State.spendCredit_counted (s : State) (k n : Nat) : (s.spendCredit k n).counted = s.counted := rfl
@[simp] theorem State.spendCredit_mem (s : State) (k n : Nat) : (s.spendCredit k n).mem = s.mem := rfl
@[simp] theorem State.spendCredit_store (s : State) (k n : Nat) : (s.spendCredit k n).store = s.store := rfl
@[simp] theorem State.spendCredit_tcache (s : State) (k n : Nat) : (s.spendCredit k n).tcache = s.tcache := rfl
@[simp] theorem State.spendCredit_slots (s : State) (k n : Nat) : (s.spendCredit k n).slots = s.slots := rfl
@[simp] theorem State.spendCredit_claimed (s : State) (k n : Nat) : (s.spendCredit k n).claimed = s.claimed := rfl
@[simp] theorem State.spendCredit_units (s : State) (k n : Nat) : (s.spendCredit k n).units = s.units := rfl
@[simp] theorem State.spendCredit_launches (s : State) (k n : Nat) : (s.spendCredit k n).launches = s.launches := rfl
@[simp] theorem State.spendCredit_jobs (s : State) (k n : Nat) : (s.spendCredit k n).jobs = s.jobs := rfl
@[simp] theorem State.spendCredit_host (s : State) (k n : Nat) : (s.spendCredit k n).host = s.host := rfl
@[simp] theorem State.spendCredit_sweep (s : State) (k n : Nat) : (s.spendCredit k n).sweep = s.sweep := rfl
@[simp] theorem State.spendCredit_copies (s : State) (k n : Nat) : (s.spendCredit k n).copies = s.copies := rfl
@[simp] theorem State.spendCredit_remotes (s : State) (k n : Nat) : (s.spendCredit k n).remotes = s.remotes := rfl
@[simp] theorem State.spendCredit_arrivals (s : State) (k n : Nat) : (s.spendCredit k n).arrivals = s.arrivals := rfl
@[simp] theorem State.spendCredit_colls (s : State) (k n : Nat) : (s.spendCredit k n).colls = s.colls := rfl
@[simp] theorem State.spendCredit_guards (s : State) (k n : Nat) : (s.spendCredit k n).guards = s.guards := rfl
@[simp] theorem State.spendCredit_faults (s : State) (k n : Nat) : (s.spendCredit k n).faults = s.faults := rfl
@[simp] theorem State.spendCredit_losses (s : State) (k n : Nat) : (s.spendCredit k n).losses = s.losses := rfl
@[simp] theorem State.spendCredit_nextSerial (s : State) (k n : Nat) : (s.spendCredit k n).nextSerial = s.nextSerial := rfl
@[simp] theorem State.spendCredit_tlbis (s : State) (k n : Nat) : (s.spendCredit k n).tlbis = s.tlbis := rfl
@[simp] theorem State.spendCredit_snaps (s : State) (k n : Nat) : (s.spendCredit k n).snaps = s.snaps := rfl
@[simp] theorem State.spendCredit_snapNext (s : State) (k n : Nat) : (s.spendCredit k n).snapNext = s.snapNext := rfl
@[simp] theorem State.spendCredit_snapPos (s : State) (k n : Nat) : (s.spendCredit k n).snapPos = s.snapPos := rfl
@[simp] theorem State.spendCredit_residents (s : State) (k n : Nat) : (s.spendCredit k n).residents = s.residents := rfl
@[simp] theorem State.spendCredit_exact (s : State) (k n : Nat) : (s.spendCredit k n).exact = s.exact := rfl
@[simp] theorem State.spendCredit_exactCnt (s : State) (k n : Nat) : (s.spendCredit k n).exactCnt = s.exactCnt := rfl
@[simp] theorem State.spendCredit_windows (s : State) (k n : Nat) : (s.spendCredit k n).windows = s.windows := rfl
@[simp] theorem State.spendCredit_groups (s : State) (k n : Nat) : (s.spendCredit k n).groups = s.groups := rfl
@[simp] theorem State.spendCredit_keys (s : State) (k n : Nat) : (s.spendCredit k n).keys = s.keys := rfl
@[simp] theorem State.spendCredit_keyNext (s : State) (k n : Nat) : (s.spendCredit k n).keyNext = s.keyNext := rfl
@[simp] theorem State.spendCredit_ingress (s : State) (k n : Nat) : (s.spendCredit k n).ingress = s.ingress := rfl
@[simp] theorem State.spendCredit_heldIn (s : State) (k n : Nat) : (s.spendCredit k n).heldIn = s.heldIn := rfl
@[simp] theorem State.spendCredit_eth (s : State) (k n : Nat) : (s.spendCredit k n).eth = s.eth := rfl
@[simp] theorem State.spendCredit_agenda (s : State) (k n : Nat) : (s.spendCredit k n).agenda = s.agenda := rfl
@[simp] theorem State.spendCredit_focus (s : State) (k n : Nat) : (s.spendCredit k n).focus = s.focus := rfl
@[simp] theorem State.spendCredit_freeCtr (s : State) (k n : Nat) : (s.spendCredit k n).freeCtr = s.freeCtr := rfl
@[simp] theorem State.spendCredit_nextId (s : State) (k n : Nat) : (s.spendCredit k n).nextId = s.nextId := rfl

@[simp] theorem State.setRider_clk (s : State) (id : Nat) (r : Rider) : (s.setRider id r).clk = s.clk := rfl
@[simp] theorem State.setRider_boot (s : State) (id : Nat) (r : Rider) : (s.setRider id r).boot = s.boot := rfl
@[simp] theorem State.setRider_regs (s : State) (id : Nat) (r : Rider) : (s.setRider id r).regs = s.regs := rfl
@[simp] theorem State.setRider_counted (s : State) (id : Nat) (r : Rider) : (s.setRider id r).counted = s.counted := rfl
@[simp] theorem State.setRider_mem (s : State) (id : Nat) (r : Rider) : (s.setRider id r).mem = s.mem := rfl
@[simp] theorem State.setRider_store (s : State) (id : Nat) (r : Rider) : (s.setRider id r).store = s.store := rfl
@[simp] theorem State.setRider_tcache (s : State) (id : Nat) (r : Rider) : (s.setRider id r).tcache = s.tcache := rfl
@[simp] theorem State.setRider_slots (s : State) (id : Nat) (r : Rider) : (s.setRider id r).slots = s.slots := rfl
@[simp] theorem State.setRider_claimed (s : State) (id : Nat) (r : Rider) : (s.setRider id r).claimed = s.claimed := rfl
@[simp] theorem State.setRider_units (s : State) (id : Nat) (r : Rider) : (s.setRider id r).units = s.units := rfl
@[simp] theorem State.setRider_launches (s : State) (id : Nat) (r : Rider) : (s.setRider id r).launches = s.launches := rfl
@[simp] theorem State.setRider_jobs (s : State) (id : Nat) (r : Rider) : (s.setRider id r).jobs = s.jobs := rfl
@[simp] theorem State.setRider_host (s : State) (id : Nat) (r : Rider) : (s.setRider id r).host = s.host := rfl
@[simp] theorem State.setRider_copies (s : State) (id : Nat) (r : Rider) : (s.setRider id r).copies = s.copies := rfl
@[simp] theorem State.setRider_remotes (s : State) (id : Nat) (r : Rider) : (s.setRider id r).remotes = s.remotes := rfl
@[simp] theorem State.setRider_arrivals (s : State) (id : Nat) (r : Rider) : (s.setRider id r).arrivals = s.arrivals := rfl
@[simp] theorem State.setRider_colls (s : State) (id : Nat) (r : Rider) : (s.setRider id r).colls = s.colls := rfl
@[simp] theorem State.setRider_guards (s : State) (id : Nat) (r : Rider) : (s.setRider id r).guards = s.guards := rfl
@[simp] theorem State.setRider_faults (s : State) (id : Nat) (r : Rider) : (s.setRider id r).faults = s.faults := rfl
@[simp] theorem State.setRider_losses (s : State) (id : Nat) (r : Rider) : (s.setRider id r).losses = s.losses := rfl
@[simp] theorem State.setRider_nextSerial (s : State) (id : Nat) (r : Rider) : (s.setRider id r).nextSerial = s.nextSerial := rfl
@[simp] theorem State.setRider_tlbis (s : State) (id : Nat) (r : Rider) : (s.setRider id r).tlbis = s.tlbis := rfl
@[simp] theorem State.setRider_snaps (s : State) (id : Nat) (r : Rider) : (s.setRider id r).snaps = s.snaps := rfl
@[simp] theorem State.setRider_snapNext (s : State) (id : Nat) (r : Rider) : (s.setRider id r).snapNext = s.snapNext := rfl
@[simp] theorem State.setRider_snapPos (s : State) (id : Nat) (r : Rider) : (s.setRider id r).snapPos = s.snapPos := rfl
@[simp] theorem State.setRider_residents (s : State) (id : Nat) (r : Rider) : (s.setRider id r).residents = s.residents := rfl
@[simp] theorem State.setRider_exact (s : State) (id : Nat) (r : Rider) : (s.setRider id r).exact = s.exact := rfl
@[simp] theorem State.setRider_exactCnt (s : State) (id : Nat) (r : Rider) : (s.setRider id r).exactCnt = s.exactCnt := rfl
@[simp] theorem State.setRider_windows (s : State) (id : Nat) (r : Rider) : (s.setRider id r).windows = s.windows := rfl
@[simp] theorem State.setRider_groups (s : State) (id : Nat) (r : Rider) : (s.setRider id r).groups = s.groups := rfl
@[simp] theorem State.setRider_keys (s : State) (id : Nat) (r : Rider) : (s.setRider id r).keys = s.keys := rfl
@[simp] theorem State.setRider_keyNext (s : State) (id : Nat) (r : Rider) : (s.setRider id r).keyNext = s.keyNext := rfl
@[simp] theorem State.setRider_power (s : State) (id : Nat) (r : Rider) : (s.setRider id r).power = s.power := rfl
@[simp] theorem State.setRider_ingress (s : State) (id : Nat) (r : Rider) : (s.setRider id r).ingress = s.ingress := rfl
@[simp] theorem State.setRider_heldIn (s : State) (id : Nat) (r : Rider) : (s.setRider id r).heldIn = s.heldIn := rfl
@[simp] theorem State.setRider_eth (s : State) (id : Nat) (r : Rider) : (s.setRider id r).eth = s.eth := rfl
@[simp] theorem State.setRider_agenda (s : State) (id : Nat) (r : Rider) : (s.setRider id r).agenda = s.agenda := rfl
@[simp] theorem State.setRider_focus (s : State) (id : Nat) (r : Rider) : (s.setRider id r).focus = s.focus := rfl
@[simp] theorem State.setRider_freeCtr (s : State) (id : Nat) (r : Rider) : (s.setRider id r).freeCtr = s.freeCtr := rfl
@[simp] theorem State.setRider_nextId (s : State) (id : Nat) (r : Rider) : (s.setRider id r).nextId = s.nextId := rfl

@[simp] theorem State.dropItem_clk (s : State) (id : Nat) : (s.dropItem id).clk = s.clk := rfl
@[simp] theorem State.dropItem_boot (s : State) (id : Nat) : (s.dropItem id).boot = s.boot := rfl
@[simp] theorem State.dropItem_regs (s : State) (id : Nat) : (s.dropItem id).regs = s.regs := rfl
@[simp] theorem State.dropItem_counted (s : State) (id : Nat) : (s.dropItem id).counted = s.counted := rfl
@[simp] theorem State.dropItem_mem (s : State) (id : Nat) : (s.dropItem id).mem = s.mem := rfl
@[simp] theorem State.dropItem_store (s : State) (id : Nat) : (s.dropItem id).store = s.store := rfl
@[simp] theorem State.dropItem_tcache (s : State) (id : Nat) : (s.dropItem id).tcache = s.tcache := rfl
@[simp] theorem State.dropItem_slots (s : State) (id : Nat) : (s.dropItem id).slots = s.slots := rfl
@[simp] theorem State.dropItem_claimed (s : State) (id : Nat) : (s.dropItem id).claimed = s.claimed := rfl
@[simp] theorem State.dropItem_units (s : State) (id : Nat) : (s.dropItem id).units = s.units := rfl
@[simp] theorem State.dropItem_launches (s : State) (id : Nat) : (s.dropItem id).launches = s.launches := rfl
@[simp] theorem State.dropItem_jobs (s : State) (id : Nat) : (s.dropItem id).jobs = s.jobs := rfl
@[simp] theorem State.dropItem_host (s : State) (id : Nat) : (s.dropItem id).host = s.host := rfl
@[simp] theorem State.dropItem_copies (s : State) (id : Nat) : (s.dropItem id).copies = s.copies := rfl
@[simp] theorem State.dropItem_remotes (s : State) (id : Nat) : (s.dropItem id).remotes = s.remotes := rfl
@[simp] theorem State.dropItem_arrivals (s : State) (id : Nat) : (s.dropItem id).arrivals = s.arrivals := rfl
@[simp] theorem State.dropItem_colls (s : State) (id : Nat) : (s.dropItem id).colls = s.colls := rfl
@[simp] theorem State.dropItem_guards (s : State) (id : Nat) : (s.dropItem id).guards = s.guards := rfl
@[simp] theorem State.dropItem_faults (s : State) (id : Nat) : (s.dropItem id).faults = s.faults := rfl
@[simp] theorem State.dropItem_losses (s : State) (id : Nat) : (s.dropItem id).losses = s.losses := rfl
@[simp] theorem State.dropItem_nextSerial (s : State) (id : Nat) : (s.dropItem id).nextSerial = s.nextSerial := rfl
@[simp] theorem State.dropItem_tlbis (s : State) (id : Nat) : (s.dropItem id).tlbis = s.tlbis := rfl
@[simp] theorem State.dropItem_snaps (s : State) (id : Nat) : (s.dropItem id).snaps = s.snaps := rfl
@[simp] theorem State.dropItem_snapNext (s : State) (id : Nat) : (s.dropItem id).snapNext = s.snapNext := rfl
@[simp] theorem State.dropItem_snapPos (s : State) (id : Nat) : (s.dropItem id).snapPos = s.snapPos := rfl
@[simp] theorem State.dropItem_residents (s : State) (id : Nat) : (s.dropItem id).residents = s.residents := rfl
@[simp] theorem State.dropItem_exact (s : State) (id : Nat) : (s.dropItem id).exact = s.exact := rfl
@[simp] theorem State.dropItem_exactCnt (s : State) (id : Nat) : (s.dropItem id).exactCnt = s.exactCnt := rfl
@[simp] theorem State.dropItem_windows (s : State) (id : Nat) : (s.dropItem id).windows = s.windows := rfl
@[simp] theorem State.dropItem_groups (s : State) (id : Nat) : (s.dropItem id).groups = s.groups := rfl
@[simp] theorem State.dropItem_keys (s : State) (id : Nat) : (s.dropItem id).keys = s.keys := rfl
@[simp] theorem State.dropItem_keyNext (s : State) (id : Nat) : (s.dropItem id).keyNext = s.keyNext := rfl
@[simp] theorem State.dropItem_power (s : State) (id : Nat) : (s.dropItem id).power = s.power := rfl
@[simp] theorem State.dropItem_ingress (s : State) (id : Nat) : (s.dropItem id).ingress = s.ingress := rfl
@[simp] theorem State.dropItem_heldIn (s : State) (id : Nat) : (s.dropItem id).heldIn = s.heldIn := rfl
@[simp] theorem State.dropItem_eth (s : State) (id : Nat) : (s.dropItem id).eth = s.eth := rfl
@[simp] theorem State.dropItem_agenda (s : State) (id : Nat) : (s.dropItem id).agenda = s.agenda := rfl
@[simp] theorem State.dropItem_focus (s : State) (id : Nat) : (s.dropItem id).focus = s.focus := rfl
@[simp] theorem State.dropItem_freeCtr (s : State) (id : Nat) : (s.dropItem id).freeCtr = s.freeCtr := rfl
@[simp] theorem State.dropItem_nextId (s : State) (id : Nat) : (s.dropItem id).nextId = s.nextId := rfl

@[simp] theorem State.setClass_clk (s : State) (c : SweepClass) (x : ClassSt) : (s.setClass c x).clk = s.clk := rfl
@[simp] theorem State.setClass_boot (s : State) (c : SweepClass) (x : ClassSt) : (s.setClass c x).boot = s.boot := rfl
@[simp] theorem State.setClass_regs (s : State) (c : SweepClass) (x : ClassSt) : (s.setClass c x).regs = s.regs := rfl
@[simp] theorem State.setClass_counted (s : State) (c : SweepClass) (x : ClassSt) : (s.setClass c x).counted = s.counted := rfl
@[simp] theorem State.setClass_mem (s : State) (c : SweepClass) (x : ClassSt) : (s.setClass c x).mem = s.mem := rfl
@[simp] theorem State.setClass_store (s : State) (c : SweepClass) (x : ClassSt) : (s.setClass c x).store = s.store := rfl
@[simp] theorem State.setClass_tcache (s : State) (c : SweepClass) (x : ClassSt) : (s.setClass c x).tcache = s.tcache := rfl
@[simp] theorem State.setClass_slots (s : State) (c : SweepClass) (x : ClassSt) : (s.setClass c x).slots = s.slots := rfl
@[simp] theorem State.setClass_claimed (s : State) (c : SweepClass) (x : ClassSt) : (s.setClass c x).claimed = s.claimed := rfl
@[simp] theorem State.setClass_units (s : State) (c : SweepClass) (x : ClassSt) : (s.setClass c x).units = s.units := rfl
@[simp] theorem State.setClass_launches (s : State) (c : SweepClass) (x : ClassSt) : (s.setClass c x).launches = s.launches := rfl
@[simp] theorem State.setClass_jobs (s : State) (c : SweepClass) (x : ClassSt) : (s.setClass c x).jobs = s.jobs := rfl
@[simp] theorem State.setClass_host (s : State) (c : SweepClass) (x : ClassSt) : (s.setClass c x).host = s.host := rfl
@[simp] theorem State.setClass_copies (s : State) (c : SweepClass) (x : ClassSt) : (s.setClass c x).copies = s.copies := rfl
@[simp] theorem State.setClass_remotes (s : State) (c : SweepClass) (x : ClassSt) : (s.setClass c x).remotes = s.remotes := rfl
@[simp] theorem State.setClass_arrivals (s : State) (c : SweepClass) (x : ClassSt) : (s.setClass c x).arrivals = s.arrivals := rfl
@[simp] theorem State.setClass_colls (s : State) (c : SweepClass) (x : ClassSt) : (s.setClass c x).colls = s.colls := rfl
@[simp] theorem State.setClass_guards (s : State) (c : SweepClass) (x : ClassSt) : (s.setClass c x).guards = s.guards := rfl
@[simp] theorem State.setClass_faults (s : State) (c : SweepClass) (x : ClassSt) : (s.setClass c x).faults = s.faults := rfl
@[simp] theorem State.setClass_losses (s : State) (c : SweepClass) (x : ClassSt) : (s.setClass c x).losses = s.losses := rfl
@[simp] theorem State.setClass_nextSerial (s : State) (c : SweepClass) (x : ClassSt) : (s.setClass c x).nextSerial = s.nextSerial := rfl
@[simp] theorem State.setClass_tlbis (s : State) (c : SweepClass) (x : ClassSt) : (s.setClass c x).tlbis = s.tlbis := rfl
@[simp] theorem State.setClass_snaps (s : State) (c : SweepClass) (x : ClassSt) : (s.setClass c x).snaps = s.snaps := rfl
@[simp] theorem State.setClass_snapNext (s : State) (c : SweepClass) (x : ClassSt) : (s.setClass c x).snapNext = s.snapNext := rfl
@[simp] theorem State.setClass_snapPos (s : State) (c : SweepClass) (x : ClassSt) : (s.setClass c x).snapPos = s.snapPos := rfl
@[simp] theorem State.setClass_residents (s : State) (c : SweepClass) (x : ClassSt) : (s.setClass c x).residents = s.residents := rfl
@[simp] theorem State.setClass_exact (s : State) (c : SweepClass) (x : ClassSt) : (s.setClass c x).exact = s.exact := rfl
@[simp] theorem State.setClass_exactCnt (s : State) (c : SweepClass) (x : ClassSt) : (s.setClass c x).exactCnt = s.exactCnt := rfl
@[simp] theorem State.setClass_windows (s : State) (c : SweepClass) (x : ClassSt) : (s.setClass c x).windows = s.windows := rfl
@[simp] theorem State.setClass_groups (s : State) (c : SweepClass) (x : ClassSt) : (s.setClass c x).groups = s.groups := rfl
@[simp] theorem State.setClass_keys (s : State) (c : SweepClass) (x : ClassSt) : (s.setClass c x).keys = s.keys := rfl
@[simp] theorem State.setClass_keyNext (s : State) (c : SweepClass) (x : ClassSt) : (s.setClass c x).keyNext = s.keyNext := rfl
@[simp] theorem State.setClass_power (s : State) (c : SweepClass) (x : ClassSt) : (s.setClass c x).power = s.power := rfl
@[simp] theorem State.setClass_ingress (s : State) (c : SweepClass) (x : ClassSt) : (s.setClass c x).ingress = s.ingress := rfl
@[simp] theorem State.setClass_heldIn (s : State) (c : SweepClass) (x : ClassSt) : (s.setClass c x).heldIn = s.heldIn := rfl
@[simp] theorem State.setClass_eth (s : State) (c : SweepClass) (x : ClassSt) : (s.setClass c x).eth = s.eth := rfl
@[simp] theorem State.setClass_agenda (s : State) (c : SweepClass) (x : ClassSt) : (s.setClass c x).agenda = s.agenda := rfl
@[simp] theorem State.setClass_focus (s : State) (c : SweepClass) (x : ClassSt) : (s.setClass c x).focus = s.focus := rfl
@[simp] theorem State.setClass_freeCtr (s : State) (c : SweepClass) (x : ClassSt) : (s.setClass c x).freeCtr = s.freeCtr := rfl
@[simp] theorem State.setClass_nextId (s : State) (c : SweepClass) (x : ClassSt) : (s.setClass c x).nextId = s.nextId := rfl

@[simp] theorem UnitSt.setElem_job (x : UnitSt) (e : Nat) (y : Elem) : (x.setElem e y).job = x.job := rfl
@[simp] theorem UnitSt.setElem_tenant (x : UnitSt) (e : Nat) (y : Elem) : (x.setElem e y).tenant = x.tenant := rfl
@[simp] theorem UnitSt.setElem_secure (x : UnitSt) (e : Nat) (y : Elem) : (x.setElem e y).secure = x.secure := rfl
@[simp] theorem UnitSt.setElem_priv (x : UnitSt) (e : Nat) (y : Elem) : (x.setElem e y).priv = x.priv := rfl
@[simp] theorem UnitSt.setElem_debug (x : UnitSt) (e : Nat) (y : Elem) : (x.setElem e y).debug = x.debug := rfl
@[simp] theorem UnitSt.setElem_launch (x : UnitSt) (e : Nat) (y : Elem) : (x.setElem e y).launch = x.launch := rfl
@[simp] theorem UnitSt.setElem_section_ (x : UnitSt) (e : Nat) (y : Elem) : (x.setElem e y).section_ = x.section_ := rfl
@[simp] theorem UnitSt.setElem_replica (x : UnitSt) (e : Nat) (y : Elem) : (x.setElem e y).replica = x.replica := rfl
@[simp] theorem UnitSt.setElem_serial (x : UnitSt) (e : Nat) (y : Elem) : (x.setElem e y).serial = x.serial := rfl
@[simp] theorem UnitSt.setElem_args (x : UnitSt) (e : Nat) (y : Elem) : (x.setElem e y).args = x.args := rfl
@[simp] theorem UnitSt.setElem_tiles0 (x : UnitSt) (e : Nat) (y : Elem) : (x.setElem e y).tiles0 = x.tiles0 := rfl
@[simp] theorem UnitSt.setElem_cfg (x : UnitSt) (e : Nat) (y : Elem) : (x.setElem e y).cfg = x.cfg := rfl
@[simp] theorem UnitSt.setElem_phase (x : UnitSt) (e : Nat) (y : Elem) : (x.setElem e y).phase = x.phase := rfl
@[simp] theorem UnitSt.setElem_quarter (x : UnitSt) (e : Nat) (y : Elem) : (x.setElem e y).quarter = x.quarter := rfl
@[simp] theorem UnitSt.setElem_nw (x : UnitSt) (e : Nat) (y : Elem) : (x.setElem e y).nw = x.nw := rfl
@[simp] theorem UnitSt.setElem_mem (x : UnitSt) (e : Nat) (y : Elem) : (x.setElem e y).mem = x.mem := rfl
@[simp] theorem UnitSt.setElem_flight (x : UnitSt) (e : Nat) (y : Elem) : (x.setElem e y).flight = x.flight := rfl
@[simp] theorem UnitSt.setElem_bind (x : UnitSt) (e : Nat) (y : Elem) : (x.setElem e y).bind = x.bind := rfl
@[simp] theorem UnitSt.setElem_bufs (x : UnitSt) (e : Nat) (y : Elem) : (x.setElem e y).bufs = x.bufs := rfl
@[simp] theorem UnitSt.setElem_cache (x : UnitSt) (e : Nat) (y : Elem) : (x.setElem e y).cache = x.cache := rfl
@[simp] theorem UnitSt.setElem_reqs (x : UnitSt) (e : Nat) (y : Elem) : (x.setElem e y).reqs = x.reqs := rfl
@[simp] theorem UnitSt.setElem_count (x : UnitSt) (e : Nat) (y : Elem) : (x.setElem e y).count = x.count := rfl
@[simp] theorem UnitSt.setElem_cancelled (x : UnitSt) (e : Nat) (y : Elem) : (x.setElem e y).cancelled = x.cancelled := rfl
@[simp] theorem UnitSt.setElem_failed (x : UnitSt) (e : Nat) (y : Elem) : (x.setElem e y).failed = x.failed := rfl
@[simp] theorem UnitSt.setElem_uflag (x : UnitSt) (e : Nat) (y : Elem) : (x.setElem e y).uflag = x.uflag := rfl
@[simp] theorem UnitSt.setElem_armedAt (x : UnitSt) (e : Nat) (y : Elem) : (x.setElem e y).armedAt = x.armedAt := rfl
@[simp] theorem UnitSt.setElem_quietAt (x : UnitSt) (e : Nat) (y : Elem) : (x.setElem e y).quietAt = x.quietAt := rfl
@[simp] theorem UnitSt.setElem_snapFlag (x : UnitSt) (e : Nat) (y : Elem) : (x.setElem e y).snapFlag = x.snapFlag := rfl
@[simp] theorem UnitSt.setElem_snapSerial (x : UnitSt) (e : Nat) (y : Elem) : (x.setElem e y).snapSerial = x.snapSerial := rfl
@[simp] theorem UnitSt.setElem_lastSnap (x : UnitSt) (e : Nat) (y : Elem) : (x.setElem e y).lastSnap = x.lastSnap := rfl
@[simp] theorem UnitSt.setElem_riders (x : UnitSt) (e : Nat) (y : Elem) : (x.setElem e y).riders = x.riders := rfl
@[simp] theorem UnitSt.setElem_drops (x : UnitSt) (e : Nat) (y : Elem) : (x.setElem e y).drops = x.drops := rfl
@[simp] theorem UnitSt.setElem_resolved (x : UnitSt) (e : Nat) (y : Elem) : (x.setElem e y).resolved = x.resolved := rfl
@[simp] theorem UnitSt.setElem_unmapped (x : UnitSt) (e : Nat) (y : Elem) : (x.setElem e y).unmapped = x.unmapped := rfl
@[simp] theorem UnitSt.setElem_readout (x : UnitSt) (e : Nat) (y : Elem) : (x.setElem e y).readout = x.readout := rfl
@[simp] theorem UnitSt.setElem_imaging (x : UnitSt) (e : Nat) (y : Elem) : (x.setElem e y).imaging = x.imaging := rfl
@[simp] theorem UnitSt.setElem_snapping (x : UnitSt) (e : Nat) (y : Elem) : (x.setElem e y).snapping = x.snapping := rfl
@[simp] theorem UnitSt.setElem_prio (x : UnitSt) (e : Nat) (y : Elem) : (x.setElem e y).prio = x.prio := rfl
@[simp] theorem UnitSt.setElem_order (x : UnitSt) (e : Nat) (y : Elem) : (x.setElem e y).order = x.order := rfl

@[simp] theorem UnitSt.setTile_job (x : UnitSt) (t : Nat) (y : Tile) : (x.setTile t y).job = x.job := rfl
@[simp] theorem UnitSt.setTile_tenant (x : UnitSt) (t : Nat) (y : Tile) : (x.setTile t y).tenant = x.tenant := rfl
@[simp] theorem UnitSt.setTile_secure (x : UnitSt) (t : Nat) (y : Tile) : (x.setTile t y).secure = x.secure := rfl
@[simp] theorem UnitSt.setTile_priv (x : UnitSt) (t : Nat) (y : Tile) : (x.setTile t y).priv = x.priv := rfl
@[simp] theorem UnitSt.setTile_debug (x : UnitSt) (t : Nat) (y : Tile) : (x.setTile t y).debug = x.debug := rfl
@[simp] theorem UnitSt.setTile_launch (x : UnitSt) (t : Nat) (y : Tile) : (x.setTile t y).launch = x.launch := rfl
@[simp] theorem UnitSt.setTile_section_ (x : UnitSt) (t : Nat) (y : Tile) : (x.setTile t y).section_ = x.section_ := rfl
@[simp] theorem UnitSt.setTile_replica (x : UnitSt) (t : Nat) (y : Tile) : (x.setTile t y).replica = x.replica := rfl
@[simp] theorem UnitSt.setTile_serial (x : UnitSt) (t : Nat) (y : Tile) : (x.setTile t y).serial = x.serial := rfl
@[simp] theorem UnitSt.setTile_args (x : UnitSt) (t : Nat) (y : Tile) : (x.setTile t y).args = x.args := rfl
@[simp] theorem UnitSt.setTile_tiles0 (x : UnitSt) (t : Nat) (y : Tile) : (x.setTile t y).tiles0 = x.tiles0 := rfl
@[simp] theorem UnitSt.setTile_cfg (x : UnitSt) (t : Nat) (y : Tile) : (x.setTile t y).cfg = x.cfg := rfl
@[simp] theorem UnitSt.setTile_phase (x : UnitSt) (t : Nat) (y : Tile) : (x.setTile t y).phase = x.phase := rfl
@[simp] theorem UnitSt.setTile_quarter (x : UnitSt) (t : Nat) (y : Tile) : (x.setTile t y).quarter = x.quarter := rfl
@[simp] theorem UnitSt.setTile_nw (x : UnitSt) (t : Nat) (y : Tile) : (x.setTile t y).nw = x.nw := rfl
@[simp] theorem UnitSt.setTile_elems (x : UnitSt) (t : Nat) (y : Tile) : (x.setTile t y).elems = x.elems := rfl
@[simp] theorem UnitSt.setTile_flight (x : UnitSt) (t : Nat) (y : Tile) : (x.setTile t y).flight = x.flight := rfl
@[simp] theorem UnitSt.setTile_bind (x : UnitSt) (t : Nat) (y : Tile) : (x.setTile t y).bind = x.bind := rfl
@[simp] theorem UnitSt.setTile_bufs (x : UnitSt) (t : Nat) (y : Tile) : (x.setTile t y).bufs = x.bufs := rfl
@[simp] theorem UnitSt.setTile_cache (x : UnitSt) (t : Nat) (y : Tile) : (x.setTile t y).cache = x.cache := rfl
@[simp] theorem UnitSt.setTile_reqs (x : UnitSt) (t : Nat) (y : Tile) : (x.setTile t y).reqs = x.reqs := rfl
@[simp] theorem UnitSt.setTile_count (x : UnitSt) (t : Nat) (y : Tile) : (x.setTile t y).count = x.count := rfl
@[simp] theorem UnitSt.setTile_cancelled (x : UnitSt) (t : Nat) (y : Tile) : (x.setTile t y).cancelled = x.cancelled := rfl
@[simp] theorem UnitSt.setTile_failed (x : UnitSt) (t : Nat) (y : Tile) : (x.setTile t y).failed = x.failed := rfl
@[simp] theorem UnitSt.setTile_uflag (x : UnitSt) (t : Nat) (y : Tile) : (x.setTile t y).uflag = x.uflag := rfl
@[simp] theorem UnitSt.setTile_armedAt (x : UnitSt) (t : Nat) (y : Tile) : (x.setTile t y).armedAt = x.armedAt := rfl
@[simp] theorem UnitSt.setTile_quietAt (x : UnitSt) (t : Nat) (y : Tile) : (x.setTile t y).quietAt = x.quietAt := rfl
@[simp] theorem UnitSt.setTile_snapFlag (x : UnitSt) (t : Nat) (y : Tile) : (x.setTile t y).snapFlag = x.snapFlag := rfl
@[simp] theorem UnitSt.setTile_snapSerial (x : UnitSt) (t : Nat) (y : Tile) : (x.setTile t y).snapSerial = x.snapSerial := rfl
@[simp] theorem UnitSt.setTile_lastSnap (x : UnitSt) (t : Nat) (y : Tile) : (x.setTile t y).lastSnap = x.lastSnap := rfl
@[simp] theorem UnitSt.setTile_riders (x : UnitSt) (t : Nat) (y : Tile) : (x.setTile t y).riders = x.riders := rfl
@[simp] theorem UnitSt.setTile_drops (x : UnitSt) (t : Nat) (y : Tile) : (x.setTile t y).drops = x.drops := rfl
@[simp] theorem UnitSt.setTile_resolved (x : UnitSt) (t : Nat) (y : Tile) : (x.setTile t y).resolved = x.resolved := rfl
@[simp] theorem UnitSt.setTile_unmapped (x : UnitSt) (t : Nat) (y : Tile) : (x.setTile t y).unmapped = x.unmapped := rfl
@[simp] theorem UnitSt.setTile_readout (x : UnitSt) (t : Nat) (y : Tile) : (x.setTile t y).readout = x.readout := rfl
@[simp] theorem UnitSt.setTile_imaging (x : UnitSt) (t : Nat) (y : Tile) : (x.setTile t y).imaging = x.imaging := rfl
@[simp] theorem UnitSt.setTile_snapping (x : UnitSt) (t : Nat) (y : Tile) : (x.setTile t y).snapping = x.snapping := rfl
@[simp] theorem UnitSt.setTile_prio (x : UnitSt) (t : Nat) (y : Tile) : (x.setTile t y).prio = x.prio := rfl
@[simp] theorem UnitSt.setTile_order (x : UnitSt) (t : Nat) (y : Tile) : (x.setTile t y).order = x.order := rfl

@[simp] theorem UnitSt.setBind_job (x : UnitSt) (n : Nat) (b : BindSt) : (x.setBind n b).job = x.job := rfl
@[simp] theorem UnitSt.setBind_tenant (x : UnitSt) (n : Nat) (b : BindSt) : (x.setBind n b).tenant = x.tenant := rfl
@[simp] theorem UnitSt.setBind_secure (x : UnitSt) (n : Nat) (b : BindSt) : (x.setBind n b).secure = x.secure := rfl
@[simp] theorem UnitSt.setBind_priv (x : UnitSt) (n : Nat) (b : BindSt) : (x.setBind n b).priv = x.priv := rfl
@[simp] theorem UnitSt.setBind_debug (x : UnitSt) (n : Nat) (b : BindSt) : (x.setBind n b).debug = x.debug := rfl
@[simp] theorem UnitSt.setBind_launch (x : UnitSt) (n : Nat) (b : BindSt) : (x.setBind n b).launch = x.launch := rfl
@[simp] theorem UnitSt.setBind_section_ (x : UnitSt) (n : Nat) (b : BindSt) : (x.setBind n b).section_ = x.section_ := rfl
@[simp] theorem UnitSt.setBind_replica (x : UnitSt) (n : Nat) (b : BindSt) : (x.setBind n b).replica = x.replica := rfl
@[simp] theorem UnitSt.setBind_serial (x : UnitSt) (n : Nat) (b : BindSt) : (x.setBind n b).serial = x.serial := rfl
@[simp] theorem UnitSt.setBind_args (x : UnitSt) (n : Nat) (b : BindSt) : (x.setBind n b).args = x.args := rfl
@[simp] theorem UnitSt.setBind_tiles0 (x : UnitSt) (n : Nat) (b : BindSt) : (x.setBind n b).tiles0 = x.tiles0 := rfl
@[simp] theorem UnitSt.setBind_cfg (x : UnitSt) (n : Nat) (b : BindSt) : (x.setBind n b).cfg = x.cfg := rfl
@[simp] theorem UnitSt.setBind_phase (x : UnitSt) (n : Nat) (b : BindSt) : (x.setBind n b).phase = x.phase := rfl
@[simp] theorem UnitSt.setBind_quarter (x : UnitSt) (n : Nat) (b : BindSt) : (x.setBind n b).quarter = x.quarter := rfl
@[simp] theorem UnitSt.setBind_nw (x : UnitSt) (n : Nat) (b : BindSt) : (x.setBind n b).nw = x.nw := rfl
@[simp] theorem UnitSt.setBind_elems (x : UnitSt) (n : Nat) (b : BindSt) : (x.setBind n b).elems = x.elems := rfl
@[simp] theorem UnitSt.setBind_mem (x : UnitSt) (n : Nat) (b : BindSt) : (x.setBind n b).mem = x.mem := rfl
@[simp] theorem UnitSt.setBind_flight (x : UnitSt) (n : Nat) (b : BindSt) : (x.setBind n b).flight = x.flight := rfl
@[simp] theorem UnitSt.setBind_bufs (x : UnitSt) (n : Nat) (b : BindSt) : (x.setBind n b).bufs = x.bufs := rfl
@[simp] theorem UnitSt.setBind_cache (x : UnitSt) (n : Nat) (b : BindSt) : (x.setBind n b).cache = x.cache := rfl
@[simp] theorem UnitSt.setBind_reqs (x : UnitSt) (n : Nat) (b : BindSt) : (x.setBind n b).reqs = x.reqs := rfl
@[simp] theorem UnitSt.setBind_count (x : UnitSt) (n : Nat) (b : BindSt) : (x.setBind n b).count = x.count := rfl
@[simp] theorem UnitSt.setBind_cancelled (x : UnitSt) (n : Nat) (b : BindSt) : (x.setBind n b).cancelled = x.cancelled := rfl
@[simp] theorem UnitSt.setBind_failed (x : UnitSt) (n : Nat) (b : BindSt) : (x.setBind n b).failed = x.failed := rfl
@[simp] theorem UnitSt.setBind_uflag (x : UnitSt) (n : Nat) (b : BindSt) : (x.setBind n b).uflag = x.uflag := rfl
@[simp] theorem UnitSt.setBind_armedAt (x : UnitSt) (n : Nat) (b : BindSt) : (x.setBind n b).armedAt = x.armedAt := rfl
@[simp] theorem UnitSt.setBind_quietAt (x : UnitSt) (n : Nat) (b : BindSt) : (x.setBind n b).quietAt = x.quietAt := rfl
@[simp] theorem UnitSt.setBind_snapFlag (x : UnitSt) (n : Nat) (b : BindSt) : (x.setBind n b).snapFlag = x.snapFlag := rfl
@[simp] theorem UnitSt.setBind_snapSerial (x : UnitSt) (n : Nat) (b : BindSt) : (x.setBind n b).snapSerial = x.snapSerial := rfl
@[simp] theorem UnitSt.setBind_lastSnap (x : UnitSt) (n : Nat) (b : BindSt) : (x.setBind n b).lastSnap = x.lastSnap := rfl
@[simp] theorem UnitSt.setBind_riders (x : UnitSt) (n : Nat) (b : BindSt) : (x.setBind n b).riders = x.riders := rfl
@[simp] theorem UnitSt.setBind_drops (x : UnitSt) (n : Nat) (b : BindSt) : (x.setBind n b).drops = x.drops := rfl
@[simp] theorem UnitSt.setBind_resolved (x : UnitSt) (n : Nat) (b : BindSt) : (x.setBind n b).resolved = x.resolved := rfl
@[simp] theorem UnitSt.setBind_unmapped (x : UnitSt) (n : Nat) (b : BindSt) : (x.setBind n b).unmapped = x.unmapped := rfl
@[simp] theorem UnitSt.setBind_readout (x : UnitSt) (n : Nat) (b : BindSt) : (x.setBind n b).readout = x.readout := rfl
@[simp] theorem UnitSt.setBind_imaging (x : UnitSt) (n : Nat) (b : BindSt) : (x.setBind n b).imaging = x.imaging := rfl
@[simp] theorem UnitSt.setBind_snapping (x : UnitSt) (n : Nat) (b : BindSt) : (x.setBind n b).snapping = x.snapping := rfl
@[simp] theorem UnitSt.setBind_prio (x : UnitSt) (n : Nat) (b : BindSt) : (x.setBind n b).prio = x.prio := rfl
@[simp] theorem UnitSt.setBind_order (x : UnitSt) (n : Nat) (b : BindSt) : (x.setBind n b).order = x.order := rfl

@[simp] theorem UnitSt.setRoute_job (x : UnitSt) (i : Nat) (r : RouteSt) : (x.setRoute i r).job = x.job := rfl
@[simp] theorem UnitSt.setRoute_tenant (x : UnitSt) (i : Nat) (r : RouteSt) : (x.setRoute i r).tenant = x.tenant := rfl
@[simp] theorem UnitSt.setRoute_secure (x : UnitSt) (i : Nat) (r : RouteSt) : (x.setRoute i r).secure = x.secure := rfl
@[simp] theorem UnitSt.setRoute_priv (x : UnitSt) (i : Nat) (r : RouteSt) : (x.setRoute i r).priv = x.priv := rfl
@[simp] theorem UnitSt.setRoute_debug (x : UnitSt) (i : Nat) (r : RouteSt) : (x.setRoute i r).debug = x.debug := rfl
@[simp] theorem UnitSt.setRoute_launch (x : UnitSt) (i : Nat) (r : RouteSt) : (x.setRoute i r).launch = x.launch := rfl
@[simp] theorem UnitSt.setRoute_section_ (x : UnitSt) (i : Nat) (r : RouteSt) : (x.setRoute i r).section_ = x.section_ := rfl
@[simp] theorem UnitSt.setRoute_replica (x : UnitSt) (i : Nat) (r : RouteSt) : (x.setRoute i r).replica = x.replica := rfl
@[simp] theorem UnitSt.setRoute_serial (x : UnitSt) (i : Nat) (r : RouteSt) : (x.setRoute i r).serial = x.serial := rfl
@[simp] theorem UnitSt.setRoute_args (x : UnitSt) (i : Nat) (r : RouteSt) : (x.setRoute i r).args = x.args := rfl
@[simp] theorem UnitSt.setRoute_tiles0 (x : UnitSt) (i : Nat) (r : RouteSt) : (x.setRoute i r).tiles0 = x.tiles0 := rfl
@[simp] theorem UnitSt.setRoute_cfg (x : UnitSt) (i : Nat) (r : RouteSt) : (x.setRoute i r).cfg = x.cfg := rfl
@[simp] theorem UnitSt.setRoute_phase (x : UnitSt) (i : Nat) (r : RouteSt) : (x.setRoute i r).phase = x.phase := rfl
@[simp] theorem UnitSt.setRoute_quarter (x : UnitSt) (i : Nat) (r : RouteSt) : (x.setRoute i r).quarter = x.quarter := rfl
@[simp] theorem UnitSt.setRoute_nw (x : UnitSt) (i : Nat) (r : RouteSt) : (x.setRoute i r).nw = x.nw := rfl
@[simp] theorem UnitSt.setRoute_elems (x : UnitSt) (i : Nat) (r : RouteSt) : (x.setRoute i r).elems = x.elems := rfl
@[simp] theorem UnitSt.setRoute_mem (x : UnitSt) (i : Nat) (r : RouteSt) : (x.setRoute i r).mem = x.mem := rfl
@[simp] theorem UnitSt.setRoute_bind (x : UnitSt) (i : Nat) (r : RouteSt) : (x.setRoute i r).bind = x.bind := rfl
@[simp] theorem UnitSt.setRoute_bufs (x : UnitSt) (i : Nat) (r : RouteSt) : (x.setRoute i r).bufs = x.bufs := rfl
@[simp] theorem UnitSt.setRoute_cache (x : UnitSt) (i : Nat) (r : RouteSt) : (x.setRoute i r).cache = x.cache := rfl
@[simp] theorem UnitSt.setRoute_reqs (x : UnitSt) (i : Nat) (r : RouteSt) : (x.setRoute i r).reqs = x.reqs := rfl
@[simp] theorem UnitSt.setRoute_count (x : UnitSt) (i : Nat) (r : RouteSt) : (x.setRoute i r).count = x.count := rfl
@[simp] theorem UnitSt.setRoute_cancelled (x : UnitSt) (i : Nat) (r : RouteSt) : (x.setRoute i r).cancelled = x.cancelled := rfl
@[simp] theorem UnitSt.setRoute_failed (x : UnitSt) (i : Nat) (r : RouteSt) : (x.setRoute i r).failed = x.failed := rfl
@[simp] theorem UnitSt.setRoute_uflag (x : UnitSt) (i : Nat) (r : RouteSt) : (x.setRoute i r).uflag = x.uflag := rfl
@[simp] theorem UnitSt.setRoute_armedAt (x : UnitSt) (i : Nat) (r : RouteSt) : (x.setRoute i r).armedAt = x.armedAt := rfl
@[simp] theorem UnitSt.setRoute_quietAt (x : UnitSt) (i : Nat) (r : RouteSt) : (x.setRoute i r).quietAt = x.quietAt := rfl
@[simp] theorem UnitSt.setRoute_snapFlag (x : UnitSt) (i : Nat) (r : RouteSt) : (x.setRoute i r).snapFlag = x.snapFlag := rfl
@[simp] theorem UnitSt.setRoute_snapSerial (x : UnitSt) (i : Nat) (r : RouteSt) : (x.setRoute i r).snapSerial = x.snapSerial := rfl
@[simp] theorem UnitSt.setRoute_lastSnap (x : UnitSt) (i : Nat) (r : RouteSt) : (x.setRoute i r).lastSnap = x.lastSnap := rfl
@[simp] theorem UnitSt.setRoute_riders (x : UnitSt) (i : Nat) (r : RouteSt) : (x.setRoute i r).riders = x.riders := rfl
@[simp] theorem UnitSt.setRoute_drops (x : UnitSt) (i : Nat) (r : RouteSt) : (x.setRoute i r).drops = x.drops := rfl
@[simp] theorem UnitSt.setRoute_resolved (x : UnitSt) (i : Nat) (r : RouteSt) : (x.setRoute i r).resolved = x.resolved := rfl
@[simp] theorem UnitSt.setRoute_unmapped (x : UnitSt) (i : Nat) (r : RouteSt) : (x.setRoute i r).unmapped = x.unmapped := rfl
@[simp] theorem UnitSt.setRoute_readout (x : UnitSt) (i : Nat) (r : RouteSt) : (x.setRoute i r).readout = x.readout := rfl
@[simp] theorem UnitSt.setRoute_imaging (x : UnitSt) (i : Nat) (r : RouteSt) : (x.setRoute i r).imaging = x.imaging := rfl
@[simp] theorem UnitSt.setRoute_snapping (x : UnitSt) (i : Nat) (r : RouteSt) : (x.setRoute i r).snapping = x.snapping := rfl
@[simp] theorem UnitSt.setRoute_prio (x : UnitSt) (i : Nat) (r : RouteSt) : (x.setRoute i r).prio = x.prio := rfl
@[simp] theorem UnitSt.setRoute_order (x : UnitSt) (i : Nat) (r : RouteSt) : (x.setRoute i r).order = x.order := rfl

@[simp] theorem UnitSt.setBuf_job (x : UnitSt) (n : Nat) (b : BufSt) : (x.setBuf n b).job = x.job := rfl
@[simp] theorem UnitSt.setBuf_tenant (x : UnitSt) (n : Nat) (b : BufSt) : (x.setBuf n b).tenant = x.tenant := rfl
@[simp] theorem UnitSt.setBuf_secure (x : UnitSt) (n : Nat) (b : BufSt) : (x.setBuf n b).secure = x.secure := rfl
@[simp] theorem UnitSt.setBuf_priv (x : UnitSt) (n : Nat) (b : BufSt) : (x.setBuf n b).priv = x.priv := rfl
@[simp] theorem UnitSt.setBuf_debug (x : UnitSt) (n : Nat) (b : BufSt) : (x.setBuf n b).debug = x.debug := rfl
@[simp] theorem UnitSt.setBuf_launch (x : UnitSt) (n : Nat) (b : BufSt) : (x.setBuf n b).launch = x.launch := rfl
@[simp] theorem UnitSt.setBuf_section_ (x : UnitSt) (n : Nat) (b : BufSt) : (x.setBuf n b).section_ = x.section_ := rfl
@[simp] theorem UnitSt.setBuf_replica (x : UnitSt) (n : Nat) (b : BufSt) : (x.setBuf n b).replica = x.replica := rfl
@[simp] theorem UnitSt.setBuf_serial (x : UnitSt) (n : Nat) (b : BufSt) : (x.setBuf n b).serial = x.serial := rfl
@[simp] theorem UnitSt.setBuf_args (x : UnitSt) (n : Nat) (b : BufSt) : (x.setBuf n b).args = x.args := rfl
@[simp] theorem UnitSt.setBuf_tiles0 (x : UnitSt) (n : Nat) (b : BufSt) : (x.setBuf n b).tiles0 = x.tiles0 := rfl
@[simp] theorem UnitSt.setBuf_cfg (x : UnitSt) (n : Nat) (b : BufSt) : (x.setBuf n b).cfg = x.cfg := rfl
@[simp] theorem UnitSt.setBuf_phase (x : UnitSt) (n : Nat) (b : BufSt) : (x.setBuf n b).phase = x.phase := rfl
@[simp] theorem UnitSt.setBuf_quarter (x : UnitSt) (n : Nat) (b : BufSt) : (x.setBuf n b).quarter = x.quarter := rfl
@[simp] theorem UnitSt.setBuf_nw (x : UnitSt) (n : Nat) (b : BufSt) : (x.setBuf n b).nw = x.nw := rfl
@[simp] theorem UnitSt.setBuf_elems (x : UnitSt) (n : Nat) (b : BufSt) : (x.setBuf n b).elems = x.elems := rfl
@[simp] theorem UnitSt.setBuf_mem (x : UnitSt) (n : Nat) (b : BufSt) : (x.setBuf n b).mem = x.mem := rfl
@[simp] theorem UnitSt.setBuf_flight (x : UnitSt) (n : Nat) (b : BufSt) : (x.setBuf n b).flight = x.flight := rfl
@[simp] theorem UnitSt.setBuf_bind (x : UnitSt) (n : Nat) (b : BufSt) : (x.setBuf n b).bind = x.bind := rfl
@[simp] theorem UnitSt.setBuf_cache (x : UnitSt) (n : Nat) (b : BufSt) : (x.setBuf n b).cache = x.cache := rfl
@[simp] theorem UnitSt.setBuf_reqs (x : UnitSt) (n : Nat) (b : BufSt) : (x.setBuf n b).reqs = x.reqs := rfl
@[simp] theorem UnitSt.setBuf_count (x : UnitSt) (n : Nat) (b : BufSt) : (x.setBuf n b).count = x.count := rfl
@[simp] theorem UnitSt.setBuf_cancelled (x : UnitSt) (n : Nat) (b : BufSt) : (x.setBuf n b).cancelled = x.cancelled := rfl
@[simp] theorem UnitSt.setBuf_failed (x : UnitSt) (n : Nat) (b : BufSt) : (x.setBuf n b).failed = x.failed := rfl
@[simp] theorem UnitSt.setBuf_uflag (x : UnitSt) (n : Nat) (b : BufSt) : (x.setBuf n b).uflag = x.uflag := rfl
@[simp] theorem UnitSt.setBuf_armedAt (x : UnitSt) (n : Nat) (b : BufSt) : (x.setBuf n b).armedAt = x.armedAt := rfl
@[simp] theorem UnitSt.setBuf_quietAt (x : UnitSt) (n : Nat) (b : BufSt) : (x.setBuf n b).quietAt = x.quietAt := rfl
@[simp] theorem UnitSt.setBuf_snapFlag (x : UnitSt) (n : Nat) (b : BufSt) : (x.setBuf n b).snapFlag = x.snapFlag := rfl
@[simp] theorem UnitSt.setBuf_snapSerial (x : UnitSt) (n : Nat) (b : BufSt) : (x.setBuf n b).snapSerial = x.snapSerial := rfl
@[simp] theorem UnitSt.setBuf_lastSnap (x : UnitSt) (n : Nat) (b : BufSt) : (x.setBuf n b).lastSnap = x.lastSnap := rfl
@[simp] theorem UnitSt.setBuf_riders (x : UnitSt) (n : Nat) (b : BufSt) : (x.setBuf n b).riders = x.riders := rfl
@[simp] theorem UnitSt.setBuf_drops (x : UnitSt) (n : Nat) (b : BufSt) : (x.setBuf n b).drops = x.drops := rfl
@[simp] theorem UnitSt.setBuf_resolved (x : UnitSt) (n : Nat) (b : BufSt) : (x.setBuf n b).resolved = x.resolved := rfl
@[simp] theorem UnitSt.setBuf_unmapped (x : UnitSt) (n : Nat) (b : BufSt) : (x.setBuf n b).unmapped = x.unmapped := rfl
@[simp] theorem UnitSt.setBuf_readout (x : UnitSt) (n : Nat) (b : BufSt) : (x.setBuf n b).readout = x.readout := rfl
@[simp] theorem UnitSt.setBuf_imaging (x : UnitSt) (n : Nat) (b : BufSt) : (x.setBuf n b).imaging = x.imaging := rfl
@[simp] theorem UnitSt.setBuf_snapping (x : UnitSt) (n : Nat) (b : BufSt) : (x.setBuf n b).snapping = x.snapping := rfl
@[simp] theorem UnitSt.setBuf_prio (x : UnitSt) (n : Nat) (b : BufSt) : (x.setBuf n b).prio = x.prio := rfl
@[simp] theorem UnitSt.setBuf_order (x : UnitSt) (n : Nat) (b : BufSt) : (x.setBuf n b).order = x.order := rfl

@[simp] theorem Elem.setPred_cfg (y : Elem) (n : Nat) (b : Bool) : (y.setPred n b).cfg = y.cfg := by unfold Elem.setPred; split <;> rfl
@[simp] theorem Elem.setPred_slots (y : Elem) (n : Nat) (b : Bool) : (y.setPred n b).slots = y.slots := by unfold Elem.setPred; split <;> rfl
@[simp] theorem Elem.setPred_desc (y : Elem) (n : Nat) (b : Bool) : (y.setPred n b).desc = y.desc := by unfold Elem.setPred; split <;> rfl
@[simp] theorem Elem.setPred_trig (y : Elem) (n : Nat) (b : Bool) : (y.setPred n b).trig = y.trig := by unfold Elem.setPred; split <;> rfl
@[simp] theorem Elem.setPred_g (y : Elem) (n : Nat) (b : Bool) : (y.setPred n b).g = y.g := by unfold Elem.setPred; split <;> rfl
@[simp] theorem Elem.setPred_k (y : Elem) (n : Nat) (b : Bool) : (y.setPred n b).k = y.k := by unfold Elem.setPred; split <;> rfl
@[simp] theorem Elem.setPred_acc (y : Elem) (n : Nat) (b : Bool) : (y.setPred n b).acc = y.acc := by unfold Elem.setPred; split <;> rfl
@[simp] theorem Elem.setPred_ins (y : Elem) (n : Nat) (b : Bool) : (y.setPred n b).ins = y.ins := by unfold Elem.setPred; split <;> rfl
@[simp] theorem Elem.setPred_ctl (y : Elem) (n : Nat) (b : Bool) : (y.setPred n b).ctl = y.ctl := by unfold Elem.setPred; split <;> rfl
@[simp] theorem Elem.setPred_wave (y : Elem) (n : Nat) (b : Bool) : (y.setPred n b).wave = y.wave := by unfold Elem.setPred; split <;> rfl
@[simp] theorem Elem.setPred_fl (y : Elem) (n : Nat) (b : Bool) : (y.setPred n b).fl = y.fl := by unfold Elem.setPred; split <;> rfl
@[simp] theorem Elem.setPred_sr (y : Elem) (n : Nat) (b : Bool) : (y.setPred n b).sr = y.sr := by unfold Elem.setPred; split <;> rfl
@[simp] theorem Elem.setPred_mb (y : Elem) (n : Nat) (b : Bool) : (y.setPred n b).mb = y.mb := by unfold Elem.setPred; split <;> rfl
@[simp] theorem Elem.setPred_mx (y : Elem) (n : Nat) (b : Bool) : (y.setPred n b).mx = y.mx := by unfold Elem.setPred; split <;> rfl
@[simp] theorem Elem.setPred_starve (y : Elem) (n : Nat) (b : Bool) : (y.setPred n b).starve = y.starve := by unfold Elem.setPred; split <;> rfl
@[simp] theorem Elem.setPred_starveAt (y : Elem) (n : Nat) (b : Bool) : (y.setPred n b).starveAt = y.starveAt := by unfold Elem.setPred; split <;> rfl
@[simp] theorem Elem.setPred_starveNow (y : Elem) (n : Nat) (b : Bool) : (y.setPred n b).starveNow = y.starveNow := by unfold Elem.setPred; split <;> rfl
@[simp] theorem Elem.setPred_last (y : Elem) (n : Nat) (b : Bool) : (y.setPred n b).last = y.last := by unfold Elem.setPred; split <;> rfl
@[simp] theorem Elem.setPred_idleBit (y : Elem) (n : Nat) (b : Bool) : (y.setPred n b).idleBit = y.idleBit := by unfold Elem.setPred; split <;> rfl
@[simp] theorem Elem.setPred_gate (y : Elem) (n : Nat) (b : Bool) : (y.setPred n b).gate = y.gate := by unfold Elem.setPred; split <;> rfl
@[simp] theorem Elem.setPred_pick (y : Elem) (n : Nat) (b : Bool) : (y.setPred n b).pick = y.pick := by unfold Elem.setPred; split <;> rfl
@[simp] theorem Elem.setPred_firing (y : Elem) (n : Nat) (b : Bool) : (y.setPred n b).firing = y.firing := by unfold Elem.setPred; split <;> rfl
@[simp] theorem Elem.setPred_late (y : Elem) (n : Nat) (b : Bool) : (y.setPred n b).late = y.late := by unfold Elem.setPred; split <;> rfl
@[simp] theorem Elem.setPred_busy (y : Elem) (n : Nat) (b : Bool) : (y.setPred n b).busy = y.busy := by unfold Elem.setPred; split <;> rfl
@[simp] theorem Elem.setPred_win (y : Elem) (n : Nat) (b : Bool) : (y.setPred n b).win = y.win := by unfold Elem.setPred; split <;> rfl
@[simp] theorem Elem.setPred_brickBusy (y : Elem) (n : Nat) (b : Bool) : (y.setPred n b).brickBusy = y.brickBusy := by unfold Elem.setPred; split <;> rfl
@[simp] theorem Elem.setPred_psIn (y : Elem) (n : Nat) (b : Bool) : (y.setPred n b).psIn = y.psIn := by unfold Elem.setPred; split <;> rfl
@[simp] theorem Elem.setPred_south (y : Elem) (n : Nat) (b : Bool) : (y.setPred n b).south = y.south := by unfold Elem.setPred; split <;> rfl
@[simp] theorem Elem.setPred_sysBusy (y : Elem) (n : Nat) (b : Bool) : (y.setPred n b).sysBusy = y.sysBusy := by unfold Elem.setPred; split <;> rfl
@[simp] theorem Elem.setPred_fences (y : Elem) (n : Nat) (b : Bool) : (y.setPred n b).fences = y.fences := by unfold Elem.setPred; split <;> rfl
@[simp] theorem Elem.setPred_wldBusy (y : Elem) (n : Nat) (b : Bool) : (y.setPred n b).wldBusy = y.wldBusy := by unfold Elem.setPred; split <;> rfl
@[simp] theorem Elem.setPred_walkEnd (y : Elem) (n : Nat) (b : Bool) : (y.setPred n b).walkEnd = y.walkEnd := by unfold Elem.setPred; split <;> rfl
@[simp] theorem Elem.setPred_drained (y : Elem) (n : Nat) (b : Bool) : (y.setPred n b).drained = y.drained := by unfold Elem.setPred; split <;> rfl
@[simp] theorem Elem.setPred_heldBy (y : Elem) (n : Nat) (b : Bool) : (y.setPred n b).heldBy = y.heldBy := by unfold Elem.setPred; split <;> rfl
@[simp] theorem Elem.setPred_perf (y : Elem) (n : Nat) (b : Bool) : (y.setPred n b).perf = y.perf := by unfold Elem.setPred; split <;> rfl
@[simp] theorem Elem.setPred_heldAt (y : Elem) (n : Nat) (b : Bool) : (y.setPred n b).heldAt = y.heldAt := by unfold Elem.setPred; split <;> rfl
@[simp] theorem Elem.setPred_farFailed (y : Elem) (n : Nat) (b : Bool) : (y.setPred n b).farFailed = y.farFailed := by unfold Elem.setPred; split <;> rfl
@[simp] theorem Elem.setPred_lastFire (y : Elem) (n : Nat) (b : Bool) : (y.setPred n b).lastFire = y.lastFire := by unfold Elem.setPred; split <;> rfl
@[simp] theorem Elem.setPred_badCfg (y : Elem) (n : Nat) (b : Bool) : (y.setPred n b).badCfg = y.badCfg := by unfold Elem.setPred; split <;> rfl

@[simp] theorem Elem.setG_cfg (y : Elem) (n : Fin 8) (v : Word) (t : BitVec 3) : (y.setG n v t).cfg = y.cfg := rfl
@[simp] theorem Elem.setG_slots (y : Elem) (n : Fin 8) (v : Word) (t : BitVec 3) : (y.setG n v t).slots = y.slots := rfl
@[simp] theorem Elem.setG_desc (y : Elem) (n : Fin 8) (v : Word) (t : BitVec 3) : (y.setG n v t).desc = y.desc := rfl
@[simp] theorem Elem.setG_trig (y : Elem) (n : Fin 8) (v : Word) (t : BitVec 3) : (y.setG n v t).trig = y.trig := rfl
@[simp] theorem Elem.setG_k (y : Elem) (n : Fin 8) (v : Word) (t : BitVec 3) : (y.setG n v t).k = y.k := rfl
@[simp] theorem Elem.setG_p (y : Elem) (n : Fin 8) (v : Word) (t : BitVec 3) : (y.setG n v t).p = y.p := rfl
@[simp] theorem Elem.setG_acc (y : Elem) (n : Fin 8) (v : Word) (t : BitVec 3) : (y.setG n v t).acc = y.acc := rfl
@[simp] theorem Elem.setG_ins (y : Elem) (n : Fin 8) (v : Word) (t : BitVec 3) : (y.setG n v t).ins = y.ins := rfl
@[simp] theorem Elem.setG_ctl (y : Elem) (n : Fin 8) (v : Word) (t : BitVec 3) : (y.setG n v t).ctl = y.ctl := rfl
@[simp] theorem Elem.setG_wave (y : Elem) (n : Fin 8) (v : Word) (t : BitVec 3) : (y.setG n v t).wave = y.wave := rfl
@[simp] theorem Elem.setG_fl (y : Elem) (n : Fin 8) (v : Word) (t : BitVec 3) : (y.setG n v t).fl = y.fl := rfl
@[simp] theorem Elem.setG_sr (y : Elem) (n : Fin 8) (v : Word) (t : BitVec 3) : (y.setG n v t).sr = y.sr := rfl
@[simp] theorem Elem.setG_mb (y : Elem) (n : Fin 8) (v : Word) (t : BitVec 3) : (y.setG n v t).mb = y.mb := rfl
@[simp] theorem Elem.setG_mx (y : Elem) (n : Fin 8) (v : Word) (t : BitVec 3) : (y.setG n v t).mx = y.mx := rfl
@[simp] theorem Elem.setG_starve (y : Elem) (n : Fin 8) (v : Word) (t : BitVec 3) : (y.setG n v t).starve = y.starve := rfl
@[simp] theorem Elem.setG_starveAt (y : Elem) (n : Fin 8) (v : Word) (t : BitVec 3) : (y.setG n v t).starveAt = y.starveAt := rfl
@[simp] theorem Elem.setG_starveNow (y : Elem) (n : Fin 8) (v : Word) (t : BitVec 3) : (y.setG n v t).starveNow = y.starveNow := rfl
@[simp] theorem Elem.setG_last (y : Elem) (n : Fin 8) (v : Word) (t : BitVec 3) : (y.setG n v t).last = y.last := rfl
@[simp] theorem Elem.setG_idleBit (y : Elem) (n : Fin 8) (v : Word) (t : BitVec 3) : (y.setG n v t).idleBit = y.idleBit := rfl
@[simp] theorem Elem.setG_gate (y : Elem) (n : Fin 8) (v : Word) (t : BitVec 3) : (y.setG n v t).gate = y.gate := rfl
@[simp] theorem Elem.setG_pick (y : Elem) (n : Fin 8) (v : Word) (t : BitVec 3) : (y.setG n v t).pick = y.pick := rfl
@[simp] theorem Elem.setG_firing (y : Elem) (n : Fin 8) (v : Word) (t : BitVec 3) : (y.setG n v t).firing = y.firing := rfl
@[simp] theorem Elem.setG_late (y : Elem) (n : Fin 8) (v : Word) (t : BitVec 3) : (y.setG n v t).late = y.late := rfl
@[simp] theorem Elem.setG_busy (y : Elem) (n : Fin 8) (v : Word) (t : BitVec 3) : (y.setG n v t).busy = y.busy := rfl
@[simp] theorem Elem.setG_win (y : Elem) (n : Fin 8) (v : Word) (t : BitVec 3) : (y.setG n v t).win = y.win := rfl
@[simp] theorem Elem.setG_brickBusy (y : Elem) (n : Fin 8) (v : Word) (t : BitVec 3) : (y.setG n v t).brickBusy = y.brickBusy := rfl
@[simp] theorem Elem.setG_psIn (y : Elem) (n : Fin 8) (v : Word) (t : BitVec 3) : (y.setG n v t).psIn = y.psIn := rfl
@[simp] theorem Elem.setG_south (y : Elem) (n : Fin 8) (v : Word) (t : BitVec 3) : (y.setG n v t).south = y.south := rfl
@[simp] theorem Elem.setG_sysBusy (y : Elem) (n : Fin 8) (v : Word) (t : BitVec 3) : (y.setG n v t).sysBusy = y.sysBusy := rfl
@[simp] theorem Elem.setG_fences (y : Elem) (n : Fin 8) (v : Word) (t : BitVec 3) : (y.setG n v t).fences = y.fences := rfl
@[simp] theorem Elem.setG_wldBusy (y : Elem) (n : Fin 8) (v : Word) (t : BitVec 3) : (y.setG n v t).wldBusy = y.wldBusy := rfl
@[simp] theorem Elem.setG_walkEnd (y : Elem) (n : Fin 8) (v : Word) (t : BitVec 3) : (y.setG n v t).walkEnd = y.walkEnd := rfl
@[simp] theorem Elem.setG_drained (y : Elem) (n : Fin 8) (v : Word) (t : BitVec 3) : (y.setG n v t).drained = y.drained := rfl
@[simp] theorem Elem.setG_heldBy (y : Elem) (n : Fin 8) (v : Word) (t : BitVec 3) : (y.setG n v t).heldBy = y.heldBy := rfl
@[simp] theorem Elem.setG_perf (y : Elem) (n : Fin 8) (v : Word) (t : BitVec 3) : (y.setG n v t).perf = y.perf := rfl
@[simp] theorem Elem.setG_heldAt (y : Elem) (n : Fin 8) (v : Word) (t : BitVec 3) : (y.setG n v t).heldAt = y.heldAt := rfl
@[simp] theorem Elem.setG_farFailed (y : Elem) (n : Fin 8) (v : Word) (t : BitVec 3) : (y.setG n v t).farFailed = y.farFailed := rfl
@[simp] theorem Elem.setG_lastFire (y : Elem) (n : Fin 8) (v : Word) (t : BitVec 3) : (y.setG n v t).lastFire = y.lastFire := rfl
@[simp] theorem Elem.setG_badCfg (y : Elem) (n : Fin 8) (v : Word) (t : BitVec 3) : (y.setG n v t).badCfg = y.badCfg := rfl

@[simp] theorem Elem.clearG_cfg (y : Elem) (n : Fin 8) : (y.clearG n).cfg = y.cfg := rfl
@[simp] theorem Elem.clearG_slots (y : Elem) (n : Fin 8) : (y.clearG n).slots = y.slots := rfl
@[simp] theorem Elem.clearG_desc (y : Elem) (n : Fin 8) : (y.clearG n).desc = y.desc := rfl
@[simp] theorem Elem.clearG_trig (y : Elem) (n : Fin 8) : (y.clearG n).trig = y.trig := rfl
@[simp] theorem Elem.clearG_k (y : Elem) (n : Fin 8) : (y.clearG n).k = y.k := rfl
@[simp] theorem Elem.clearG_p (y : Elem) (n : Fin 8) : (y.clearG n).p = y.p := rfl
@[simp] theorem Elem.clearG_acc (y : Elem) (n : Fin 8) : (y.clearG n).acc = y.acc := rfl
@[simp] theorem Elem.clearG_ins (y : Elem) (n : Fin 8) : (y.clearG n).ins = y.ins := rfl
@[simp] theorem Elem.clearG_ctl (y : Elem) (n : Fin 8) : (y.clearG n).ctl = y.ctl := rfl
@[simp] theorem Elem.clearG_wave (y : Elem) (n : Fin 8) : (y.clearG n).wave = y.wave := rfl
@[simp] theorem Elem.clearG_fl (y : Elem) (n : Fin 8) : (y.clearG n).fl = y.fl := rfl
@[simp] theorem Elem.clearG_sr (y : Elem) (n : Fin 8) : (y.clearG n).sr = y.sr := rfl
@[simp] theorem Elem.clearG_mb (y : Elem) (n : Fin 8) : (y.clearG n).mb = y.mb := rfl
@[simp] theorem Elem.clearG_mx (y : Elem) (n : Fin 8) : (y.clearG n).mx = y.mx := rfl
@[simp] theorem Elem.clearG_starve (y : Elem) (n : Fin 8) : (y.clearG n).starve = y.starve := rfl
@[simp] theorem Elem.clearG_starveAt (y : Elem) (n : Fin 8) : (y.clearG n).starveAt = y.starveAt := rfl
@[simp] theorem Elem.clearG_starveNow (y : Elem) (n : Fin 8) : (y.clearG n).starveNow = y.starveNow := rfl
@[simp] theorem Elem.clearG_last (y : Elem) (n : Fin 8) : (y.clearG n).last = y.last := rfl
@[simp] theorem Elem.clearG_idleBit (y : Elem) (n : Fin 8) : (y.clearG n).idleBit = y.idleBit := rfl
@[simp] theorem Elem.clearG_gate (y : Elem) (n : Fin 8) : (y.clearG n).gate = y.gate := rfl
@[simp] theorem Elem.clearG_pick (y : Elem) (n : Fin 8) : (y.clearG n).pick = y.pick := rfl
@[simp] theorem Elem.clearG_firing (y : Elem) (n : Fin 8) : (y.clearG n).firing = y.firing := rfl
@[simp] theorem Elem.clearG_late (y : Elem) (n : Fin 8) : (y.clearG n).late = y.late := rfl
@[simp] theorem Elem.clearG_busy (y : Elem) (n : Fin 8) : (y.clearG n).busy = y.busy := rfl
@[simp] theorem Elem.clearG_win (y : Elem) (n : Fin 8) : (y.clearG n).win = y.win := rfl
@[simp] theorem Elem.clearG_brickBusy (y : Elem) (n : Fin 8) : (y.clearG n).brickBusy = y.brickBusy := rfl
@[simp] theorem Elem.clearG_psIn (y : Elem) (n : Fin 8) : (y.clearG n).psIn = y.psIn := rfl
@[simp] theorem Elem.clearG_south (y : Elem) (n : Fin 8) : (y.clearG n).south = y.south := rfl
@[simp] theorem Elem.clearG_sysBusy (y : Elem) (n : Fin 8) : (y.clearG n).sysBusy = y.sysBusy := rfl
@[simp] theorem Elem.clearG_fences (y : Elem) (n : Fin 8) : (y.clearG n).fences = y.fences := rfl
@[simp] theorem Elem.clearG_wldBusy (y : Elem) (n : Fin 8) : (y.clearG n).wldBusy = y.wldBusy := rfl
@[simp] theorem Elem.clearG_walkEnd (y : Elem) (n : Fin 8) : (y.clearG n).walkEnd = y.walkEnd := rfl
@[simp] theorem Elem.clearG_drained (y : Elem) (n : Fin 8) : (y.clearG n).drained = y.drained := rfl
@[simp] theorem Elem.clearG_heldBy (y : Elem) (n : Fin 8) : (y.clearG n).heldBy = y.heldBy := rfl
@[simp] theorem Elem.clearG_perf (y : Elem) (n : Fin 8) : (y.clearG n).perf = y.perf := rfl
@[simp] theorem Elem.clearG_heldAt (y : Elem) (n : Fin 8) : (y.clearG n).heldAt = y.heldAt := rfl
@[simp] theorem Elem.clearG_farFailed (y : Elem) (n : Fin 8) : (y.clearG n).farFailed = y.farFailed := rfl
@[simp] theorem Elem.clearG_lastFire (y : Elem) (n : Fin 8) : (y.clearG n).lastFire = y.lastFire := rfl
@[simp] theorem Elem.clearG_badCfg (y : Elem) (n : Fin 8) : (y.clearG n).badCfg = y.badCfg := rfl

@[simp] theorem Elem.pendG_cfg (y : Elem) (n : Fin 8) (b : Bool) : (y.pendG n b).cfg = y.cfg := rfl
@[simp] theorem Elem.pendG_slots (y : Elem) (n : Fin 8) (b : Bool) : (y.pendG n b).slots = y.slots := rfl
@[simp] theorem Elem.pendG_desc (y : Elem) (n : Fin 8) (b : Bool) : (y.pendG n b).desc = y.desc := rfl
@[simp] theorem Elem.pendG_trig (y : Elem) (n : Fin 8) (b : Bool) : (y.pendG n b).trig = y.trig := rfl
@[simp] theorem Elem.pendG_k (y : Elem) (n : Fin 8) (b : Bool) : (y.pendG n b).k = y.k := rfl
@[simp] theorem Elem.pendG_p (y : Elem) (n : Fin 8) (b : Bool) : (y.pendG n b).p = y.p := rfl
@[simp] theorem Elem.pendG_acc (y : Elem) (n : Fin 8) (b : Bool) : (y.pendG n b).acc = y.acc := rfl
@[simp] theorem Elem.pendG_ins (y : Elem) (n : Fin 8) (b : Bool) : (y.pendG n b).ins = y.ins := rfl
@[simp] theorem Elem.pendG_ctl (y : Elem) (n : Fin 8) (b : Bool) : (y.pendG n b).ctl = y.ctl := rfl
@[simp] theorem Elem.pendG_wave (y : Elem) (n : Fin 8) (b : Bool) : (y.pendG n b).wave = y.wave := rfl
@[simp] theorem Elem.pendG_fl (y : Elem) (n : Fin 8) (b : Bool) : (y.pendG n b).fl = y.fl := rfl
@[simp] theorem Elem.pendG_sr (y : Elem) (n : Fin 8) (b : Bool) : (y.pendG n b).sr = y.sr := rfl
@[simp] theorem Elem.pendG_mb (y : Elem) (n : Fin 8) (b : Bool) : (y.pendG n b).mb = y.mb := rfl
@[simp] theorem Elem.pendG_mx (y : Elem) (n : Fin 8) (b : Bool) : (y.pendG n b).mx = y.mx := rfl
@[simp] theorem Elem.pendG_starve (y : Elem) (n : Fin 8) (b : Bool) : (y.pendG n b).starve = y.starve := rfl
@[simp] theorem Elem.pendG_starveAt (y : Elem) (n : Fin 8) (b : Bool) : (y.pendG n b).starveAt = y.starveAt := rfl
@[simp] theorem Elem.pendG_starveNow (y : Elem) (n : Fin 8) (b : Bool) : (y.pendG n b).starveNow = y.starveNow := rfl
@[simp] theorem Elem.pendG_last (y : Elem) (n : Fin 8) (b : Bool) : (y.pendG n b).last = y.last := rfl
@[simp] theorem Elem.pendG_idleBit (y : Elem) (n : Fin 8) (b : Bool) : (y.pendG n b).idleBit = y.idleBit := rfl
@[simp] theorem Elem.pendG_gate (y : Elem) (n : Fin 8) (b : Bool) : (y.pendG n b).gate = y.gate := rfl
@[simp] theorem Elem.pendG_pick (y : Elem) (n : Fin 8) (b : Bool) : (y.pendG n b).pick = y.pick := rfl
@[simp] theorem Elem.pendG_firing (y : Elem) (n : Fin 8) (b : Bool) : (y.pendG n b).firing = y.firing := rfl
@[simp] theorem Elem.pendG_late (y : Elem) (n : Fin 8) (b : Bool) : (y.pendG n b).late = y.late := rfl
@[simp] theorem Elem.pendG_busy (y : Elem) (n : Fin 8) (b : Bool) : (y.pendG n b).busy = y.busy := rfl
@[simp] theorem Elem.pendG_win (y : Elem) (n : Fin 8) (b : Bool) : (y.pendG n b).win = y.win := rfl
@[simp] theorem Elem.pendG_brickBusy (y : Elem) (n : Fin 8) (b : Bool) : (y.pendG n b).brickBusy = y.brickBusy := rfl
@[simp] theorem Elem.pendG_psIn (y : Elem) (n : Fin 8) (b : Bool) : (y.pendG n b).psIn = y.psIn := rfl
@[simp] theorem Elem.pendG_south (y : Elem) (n : Fin 8) (b : Bool) : (y.pendG n b).south = y.south := rfl
@[simp] theorem Elem.pendG_sysBusy (y : Elem) (n : Fin 8) (b : Bool) : (y.pendG n b).sysBusy = y.sysBusy := rfl
@[simp] theorem Elem.pendG_fences (y : Elem) (n : Fin 8) (b : Bool) : (y.pendG n b).fences = y.fences := rfl
@[simp] theorem Elem.pendG_wldBusy (y : Elem) (n : Fin 8) (b : Bool) : (y.pendG n b).wldBusy = y.wldBusy := rfl
@[simp] theorem Elem.pendG_walkEnd (y : Elem) (n : Fin 8) (b : Bool) : (y.pendG n b).walkEnd = y.walkEnd := rfl
@[simp] theorem Elem.pendG_drained (y : Elem) (n : Fin 8) (b : Bool) : (y.pendG n b).drained = y.drained := rfl
@[simp] theorem Elem.pendG_heldBy (y : Elem) (n : Fin 8) (b : Bool) : (y.pendG n b).heldBy = y.heldBy := rfl
@[simp] theorem Elem.pendG_perf (y : Elem) (n : Fin 8) (b : Bool) : (y.pendG n b).perf = y.perf := rfl
@[simp] theorem Elem.pendG_heldAt (y : Elem) (n : Fin 8) (b : Bool) : (y.pendG n b).heldAt = y.heldAt := rfl
@[simp] theorem Elem.pendG_farFailed (y : Elem) (n : Fin 8) (b : Bool) : (y.pendG n b).farFailed = y.farFailed := rfl
@[simp] theorem Elem.pendG_lastFire (y : Elem) (n : Fin 8) (b : Bool) : (y.pendG n b).lastFire = y.lastFire := rfl
@[simp] theorem Elem.pendG_badCfg (y : Elem) (n : Fin 8) (b : Bool) : (y.pendG n b).badCfg = y.badCfg := rfl

@[simp] theorem Elem.setChan_cfg (y : Elem) (n : Fin 4) (c : Chan) : (y.setChan n c).cfg = y.cfg := rfl
@[simp] theorem Elem.setChan_slots (y : Elem) (n : Fin 4) (c : Chan) : (y.setChan n c).slots = y.slots := rfl
@[simp] theorem Elem.setChan_desc (y : Elem) (n : Fin 4) (c : Chan) : (y.setChan n c).desc = y.desc := rfl
@[simp] theorem Elem.setChan_trig (y : Elem) (n : Fin 4) (c : Chan) : (y.setChan n c).trig = y.trig := rfl
@[simp] theorem Elem.setChan_g (y : Elem) (n : Fin 4) (c : Chan) : (y.setChan n c).g = y.g := rfl
@[simp] theorem Elem.setChan_k (y : Elem) (n : Fin 4) (c : Chan) : (y.setChan n c).k = y.k := rfl
@[simp] theorem Elem.setChan_p (y : Elem) (n : Fin 4) (c : Chan) : (y.setChan n c).p = y.p := rfl
@[simp] theorem Elem.setChan_acc (y : Elem) (n : Fin 4) (c : Chan) : (y.setChan n c).acc = y.acc := rfl
@[simp] theorem Elem.setChan_ctl (y : Elem) (n : Fin 4) (c : Chan) : (y.setChan n c).ctl = y.ctl := rfl
@[simp] theorem Elem.setChan_wave (y : Elem) (n : Fin 4) (c : Chan) : (y.setChan n c).wave = y.wave := rfl
@[simp] theorem Elem.setChan_fl (y : Elem) (n : Fin 4) (c : Chan) : (y.setChan n c).fl = y.fl := rfl
@[simp] theorem Elem.setChan_sr (y : Elem) (n : Fin 4) (c : Chan) : (y.setChan n c).sr = y.sr := rfl
@[simp] theorem Elem.setChan_mb (y : Elem) (n : Fin 4) (c : Chan) : (y.setChan n c).mb = y.mb := rfl
@[simp] theorem Elem.setChan_mx (y : Elem) (n : Fin 4) (c : Chan) : (y.setChan n c).mx = y.mx := rfl
@[simp] theorem Elem.setChan_starve (y : Elem) (n : Fin 4) (c : Chan) : (y.setChan n c).starve = y.starve := rfl
@[simp] theorem Elem.setChan_starveAt (y : Elem) (n : Fin 4) (c : Chan) : (y.setChan n c).starveAt = y.starveAt := rfl
@[simp] theorem Elem.setChan_starveNow (y : Elem) (n : Fin 4) (c : Chan) : (y.setChan n c).starveNow = y.starveNow := rfl
@[simp] theorem Elem.setChan_last (y : Elem) (n : Fin 4) (c : Chan) : (y.setChan n c).last = y.last := rfl
@[simp] theorem Elem.setChan_idleBit (y : Elem) (n : Fin 4) (c : Chan) : (y.setChan n c).idleBit = y.idleBit := rfl
@[simp] theorem Elem.setChan_gate (y : Elem) (n : Fin 4) (c : Chan) : (y.setChan n c).gate = y.gate := rfl
@[simp] theorem Elem.setChan_pick (y : Elem) (n : Fin 4) (c : Chan) : (y.setChan n c).pick = y.pick := rfl
@[simp] theorem Elem.setChan_firing (y : Elem) (n : Fin 4) (c : Chan) : (y.setChan n c).firing = y.firing := rfl
@[simp] theorem Elem.setChan_late (y : Elem) (n : Fin 4) (c : Chan) : (y.setChan n c).late = y.late := rfl
@[simp] theorem Elem.setChan_busy (y : Elem) (n : Fin 4) (c : Chan) : (y.setChan n c).busy = y.busy := rfl
@[simp] theorem Elem.setChan_win (y : Elem) (n : Fin 4) (c : Chan) : (y.setChan n c).win = y.win := rfl
@[simp] theorem Elem.setChan_brickBusy (y : Elem) (n : Fin 4) (c : Chan) : (y.setChan n c).brickBusy = y.brickBusy := rfl
@[simp] theorem Elem.setChan_psIn (y : Elem) (n : Fin 4) (c : Chan) : (y.setChan n c).psIn = y.psIn := rfl
@[simp] theorem Elem.setChan_south (y : Elem) (n : Fin 4) (c : Chan) : (y.setChan n c).south = y.south := rfl
@[simp] theorem Elem.setChan_sysBusy (y : Elem) (n : Fin 4) (c : Chan) : (y.setChan n c).sysBusy = y.sysBusy := rfl
@[simp] theorem Elem.setChan_fences (y : Elem) (n : Fin 4) (c : Chan) : (y.setChan n c).fences = y.fences := rfl
@[simp] theorem Elem.setChan_wldBusy (y : Elem) (n : Fin 4) (c : Chan) : (y.setChan n c).wldBusy = y.wldBusy := rfl
@[simp] theorem Elem.setChan_walkEnd (y : Elem) (n : Fin 4) (c : Chan) : (y.setChan n c).walkEnd = y.walkEnd := rfl
@[simp] theorem Elem.setChan_drained (y : Elem) (n : Fin 4) (c : Chan) : (y.setChan n c).drained = y.drained := rfl
@[simp] theorem Elem.setChan_heldBy (y : Elem) (n : Fin 4) (c : Chan) : (y.setChan n c).heldBy = y.heldBy := rfl
@[simp] theorem Elem.setChan_perf (y : Elem) (n : Fin 4) (c : Chan) : (y.setChan n c).perf = y.perf := rfl
@[simp] theorem Elem.setChan_heldAt (y : Elem) (n : Fin 4) (c : Chan) : (y.setChan n c).heldAt = y.heldAt := rfl
@[simp] theorem Elem.setChan_farFailed (y : Elem) (n : Fin 4) (c : Chan) : (y.setChan n c).farFailed = y.farFailed := rfl
@[simp] theorem Elem.setChan_lastFire (y : Elem) (n : Fin 4) (c : Chan) : (y.setChan n c).lastFire = y.lastFire := rfl
@[simp] theorem Elem.setChan_badCfg (y : Elem) (n : Fin 4) (c : Chan) : (y.setChan n c).badCfg = y.badCfg := rfl

@[simp] theorem Elem.addPulse_cfg (y : Elem) (n : Fin 4) (k : Nat) : (y.addPulse n k).cfg = y.cfg := rfl
@[simp] theorem Elem.addPulse_slots (y : Elem) (n : Fin 4) (k : Nat) : (y.addPulse n k).slots = y.slots := rfl
@[simp] theorem Elem.addPulse_desc (y : Elem) (n : Fin 4) (k : Nat) : (y.addPulse n k).desc = y.desc := rfl
@[simp] theorem Elem.addPulse_trig (y : Elem) (n : Fin 4) (k : Nat) : (y.addPulse n k).trig = y.trig := rfl
@[simp] theorem Elem.addPulse_g (y : Elem) (n : Fin 4) (k : Nat) : (y.addPulse n k).g = y.g := rfl
@[simp] theorem Elem.addPulse_k (y : Elem) (n : Fin 4) (k : Nat) : (y.addPulse n k).k = y.k := rfl
@[simp] theorem Elem.addPulse_p (y : Elem) (n : Fin 4) (k : Nat) : (y.addPulse n k).p = y.p := rfl
@[simp] theorem Elem.addPulse_acc (y : Elem) (n : Fin 4) (k : Nat) : (y.addPulse n k).acc = y.acc := rfl
@[simp] theorem Elem.addPulse_ins (y : Elem) (n : Fin 4) (k : Nat) : (y.addPulse n k).ins = y.ins := rfl
@[simp] theorem Elem.addPulse_wave (y : Elem) (n : Fin 4) (k : Nat) : (y.addPulse n k).wave = y.wave := rfl
@[simp] theorem Elem.addPulse_fl (y : Elem) (n : Fin 4) (k : Nat) : (y.addPulse n k).fl = y.fl := rfl
@[simp] theorem Elem.addPulse_sr (y : Elem) (n : Fin 4) (k : Nat) : (y.addPulse n k).sr = y.sr := rfl
@[simp] theorem Elem.addPulse_mb (y : Elem) (n : Fin 4) (k : Nat) : (y.addPulse n k).mb = y.mb := rfl
@[simp] theorem Elem.addPulse_mx (y : Elem) (n : Fin 4) (k : Nat) : (y.addPulse n k).mx = y.mx := rfl
@[simp] theorem Elem.addPulse_starve (y : Elem) (n : Fin 4) (k : Nat) : (y.addPulse n k).starve = y.starve := rfl
@[simp] theorem Elem.addPulse_starveAt (y : Elem) (n : Fin 4) (k : Nat) : (y.addPulse n k).starveAt = y.starveAt := rfl
@[simp] theorem Elem.addPulse_starveNow (y : Elem) (n : Fin 4) (k : Nat) : (y.addPulse n k).starveNow = y.starveNow := rfl
@[simp] theorem Elem.addPulse_last (y : Elem) (n : Fin 4) (k : Nat) : (y.addPulse n k).last = y.last := rfl
@[simp] theorem Elem.addPulse_idleBit (y : Elem) (n : Fin 4) (k : Nat) : (y.addPulse n k).idleBit = y.idleBit := rfl
@[simp] theorem Elem.addPulse_gate (y : Elem) (n : Fin 4) (k : Nat) : (y.addPulse n k).gate = y.gate := rfl
@[simp] theorem Elem.addPulse_pick (y : Elem) (n : Fin 4) (k : Nat) : (y.addPulse n k).pick = y.pick := rfl
@[simp] theorem Elem.addPulse_firing (y : Elem) (n : Fin 4) (k : Nat) : (y.addPulse n k).firing = y.firing := rfl
@[simp] theorem Elem.addPulse_late (y : Elem) (n : Fin 4) (k : Nat) : (y.addPulse n k).late = y.late := rfl
@[simp] theorem Elem.addPulse_busy (y : Elem) (n : Fin 4) (k : Nat) : (y.addPulse n k).busy = y.busy := rfl
@[simp] theorem Elem.addPulse_win (y : Elem) (n : Fin 4) (k : Nat) : (y.addPulse n k).win = y.win := rfl
@[simp] theorem Elem.addPulse_brickBusy (y : Elem) (n : Fin 4) (k : Nat) : (y.addPulse n k).brickBusy = y.brickBusy := rfl
@[simp] theorem Elem.addPulse_psIn (y : Elem) (n : Fin 4) (k : Nat) : (y.addPulse n k).psIn = y.psIn := rfl
@[simp] theorem Elem.addPulse_south (y : Elem) (n : Fin 4) (k : Nat) : (y.addPulse n k).south = y.south := rfl
@[simp] theorem Elem.addPulse_sysBusy (y : Elem) (n : Fin 4) (k : Nat) : (y.addPulse n k).sysBusy = y.sysBusy := rfl
@[simp] theorem Elem.addPulse_fences (y : Elem) (n : Fin 4) (k : Nat) : (y.addPulse n k).fences = y.fences := rfl
@[simp] theorem Elem.addPulse_wldBusy (y : Elem) (n : Fin 4) (k : Nat) : (y.addPulse n k).wldBusy = y.wldBusy := rfl
@[simp] theorem Elem.addPulse_walkEnd (y : Elem) (n : Fin 4) (k : Nat) : (y.addPulse n k).walkEnd = y.walkEnd := rfl
@[simp] theorem Elem.addPulse_drained (y : Elem) (n : Fin 4) (k : Nat) : (y.addPulse n k).drained = y.drained := rfl
@[simp] theorem Elem.addPulse_heldBy (y : Elem) (n : Fin 4) (k : Nat) : (y.addPulse n k).heldBy = y.heldBy := rfl
@[simp] theorem Elem.addPulse_perf (y : Elem) (n : Fin 4) (k : Nat) : (y.addPulse n k).perf = y.perf := rfl
@[simp] theorem Elem.addPulse_heldAt (y : Elem) (n : Fin 4) (k : Nat) : (y.addPulse n k).heldAt = y.heldAt := rfl
@[simp] theorem Elem.addPulse_farFailed (y : Elem) (n : Fin 4) (k : Nat) : (y.addPulse n k).farFailed = y.farFailed := rfl
@[simp] theorem Elem.addPulse_lastFire (y : Elem) (n : Fin 4) (k : Nat) : (y.addPulse n k).lastFire = y.lastFire := rfl
@[simp] theorem Elem.addPulse_badCfg (y : Elem) (n : Fin 4) (k : Nat) : (y.addPulse n k).badCfg = y.badCfg := rfl

@[simp] theorem Elem.addPerf_cfg (y : Elem) (n : Fin 4) (k : Nat) : (y.addPerf n k).cfg = y.cfg := rfl
@[simp] theorem Elem.addPerf_slots (y : Elem) (n : Fin 4) (k : Nat) : (y.addPerf n k).slots = y.slots := rfl
@[simp] theorem Elem.addPerf_desc (y : Elem) (n : Fin 4) (k : Nat) : (y.addPerf n k).desc = y.desc := rfl
@[simp] theorem Elem.addPerf_trig (y : Elem) (n : Fin 4) (k : Nat) : (y.addPerf n k).trig = y.trig := rfl
@[simp] theorem Elem.addPerf_g (y : Elem) (n : Fin 4) (k : Nat) : (y.addPerf n k).g = y.g := rfl
@[simp] theorem Elem.addPerf_k (y : Elem) (n : Fin 4) (k : Nat) : (y.addPerf n k).k = y.k := rfl
@[simp] theorem Elem.addPerf_p (y : Elem) (n : Fin 4) (k : Nat) : (y.addPerf n k).p = y.p := rfl
@[simp] theorem Elem.addPerf_acc (y : Elem) (n : Fin 4) (k : Nat) : (y.addPerf n k).acc = y.acc := rfl
@[simp] theorem Elem.addPerf_ins (y : Elem) (n : Fin 4) (k : Nat) : (y.addPerf n k).ins = y.ins := rfl
@[simp] theorem Elem.addPerf_ctl (y : Elem) (n : Fin 4) (k : Nat) : (y.addPerf n k).ctl = y.ctl := rfl
@[simp] theorem Elem.addPerf_wave (y : Elem) (n : Fin 4) (k : Nat) : (y.addPerf n k).wave = y.wave := rfl
@[simp] theorem Elem.addPerf_fl (y : Elem) (n : Fin 4) (k : Nat) : (y.addPerf n k).fl = y.fl := rfl
@[simp] theorem Elem.addPerf_sr (y : Elem) (n : Fin 4) (k : Nat) : (y.addPerf n k).sr = y.sr := rfl
@[simp] theorem Elem.addPerf_mb (y : Elem) (n : Fin 4) (k : Nat) : (y.addPerf n k).mb = y.mb := rfl
@[simp] theorem Elem.addPerf_mx (y : Elem) (n : Fin 4) (k : Nat) : (y.addPerf n k).mx = y.mx := rfl
@[simp] theorem Elem.addPerf_starve (y : Elem) (n : Fin 4) (k : Nat) : (y.addPerf n k).starve = y.starve := rfl
@[simp] theorem Elem.addPerf_starveAt (y : Elem) (n : Fin 4) (k : Nat) : (y.addPerf n k).starveAt = y.starveAt := rfl
@[simp] theorem Elem.addPerf_starveNow (y : Elem) (n : Fin 4) (k : Nat) : (y.addPerf n k).starveNow = y.starveNow := rfl
@[simp] theorem Elem.addPerf_last (y : Elem) (n : Fin 4) (k : Nat) : (y.addPerf n k).last = y.last := rfl
@[simp] theorem Elem.addPerf_idleBit (y : Elem) (n : Fin 4) (k : Nat) : (y.addPerf n k).idleBit = y.idleBit := rfl
@[simp] theorem Elem.addPerf_gate (y : Elem) (n : Fin 4) (k : Nat) : (y.addPerf n k).gate = y.gate := rfl
@[simp] theorem Elem.addPerf_pick (y : Elem) (n : Fin 4) (k : Nat) : (y.addPerf n k).pick = y.pick := rfl
@[simp] theorem Elem.addPerf_firing (y : Elem) (n : Fin 4) (k : Nat) : (y.addPerf n k).firing = y.firing := rfl
@[simp] theorem Elem.addPerf_late (y : Elem) (n : Fin 4) (k : Nat) : (y.addPerf n k).late = y.late := rfl
@[simp] theorem Elem.addPerf_busy (y : Elem) (n : Fin 4) (k : Nat) : (y.addPerf n k).busy = y.busy := rfl
@[simp] theorem Elem.addPerf_win (y : Elem) (n : Fin 4) (k : Nat) : (y.addPerf n k).win = y.win := rfl
@[simp] theorem Elem.addPerf_brickBusy (y : Elem) (n : Fin 4) (k : Nat) : (y.addPerf n k).brickBusy = y.brickBusy := rfl
@[simp] theorem Elem.addPerf_psIn (y : Elem) (n : Fin 4) (k : Nat) : (y.addPerf n k).psIn = y.psIn := rfl
@[simp] theorem Elem.addPerf_south (y : Elem) (n : Fin 4) (k : Nat) : (y.addPerf n k).south = y.south := rfl
@[simp] theorem Elem.addPerf_sysBusy (y : Elem) (n : Fin 4) (k : Nat) : (y.addPerf n k).sysBusy = y.sysBusy := rfl
@[simp] theorem Elem.addPerf_fences (y : Elem) (n : Fin 4) (k : Nat) : (y.addPerf n k).fences = y.fences := rfl
@[simp] theorem Elem.addPerf_wldBusy (y : Elem) (n : Fin 4) (k : Nat) : (y.addPerf n k).wldBusy = y.wldBusy := rfl
@[simp] theorem Elem.addPerf_walkEnd (y : Elem) (n : Fin 4) (k : Nat) : (y.addPerf n k).walkEnd = y.walkEnd := rfl
@[simp] theorem Elem.addPerf_drained (y : Elem) (n : Fin 4) (k : Nat) : (y.addPerf n k).drained = y.drained := rfl
@[simp] theorem Elem.addPerf_heldBy (y : Elem) (n : Fin 4) (k : Nat) : (y.addPerf n k).heldBy = y.heldBy := rfl
@[simp] theorem Elem.addPerf_heldAt (y : Elem) (n : Fin 4) (k : Nat) : (y.addPerf n k).heldAt = y.heldAt := rfl
@[simp] theorem Elem.addPerf_farFailed (y : Elem) (n : Fin 4) (k : Nat) : (y.addPerf n k).farFailed = y.farFailed := rfl
@[simp] theorem Elem.addPerf_lastFire (y : Elem) (n : Fin 4) (k : Nat) : (y.addPerf n k).lastFire = y.lastFire := rfl
@[simp] theorem Elem.addPerf_badCfg (y : Elem) (n : Fin 4) (k : Nat) : (y.addPerf n k).badCfg = y.badCfg := rfl

@[simp] theorem Elem.hold_cfg (y : Elem) (now k : Nat) : (y.hold now k).cfg = y.cfg := rfl
@[simp] theorem Elem.hold_slots (y : Elem) (now k : Nat) : (y.hold now k).slots = y.slots := rfl
@[simp] theorem Elem.hold_desc (y : Elem) (now k : Nat) : (y.hold now k).desc = y.desc := rfl
@[simp] theorem Elem.hold_trig (y : Elem) (now k : Nat) : (y.hold now k).trig = y.trig := rfl
@[simp] theorem Elem.hold_g (y : Elem) (now k : Nat) : (y.hold now k).g = y.g := rfl
@[simp] theorem Elem.hold_k (y : Elem) (now k : Nat) : (y.hold now k).k = y.k := rfl
@[simp] theorem Elem.hold_p (y : Elem) (now k : Nat) : (y.hold now k).p = y.p := rfl
@[simp] theorem Elem.hold_acc (y : Elem) (now k : Nat) : (y.hold now k).acc = y.acc := rfl
@[simp] theorem Elem.hold_ins (y : Elem) (now k : Nat) : (y.hold now k).ins = y.ins := rfl
@[simp] theorem Elem.hold_ctl (y : Elem) (now k : Nat) : (y.hold now k).ctl = y.ctl := rfl
@[simp] theorem Elem.hold_wave (y : Elem) (now k : Nat) : (y.hold now k).wave = y.wave := rfl
@[simp] theorem Elem.hold_fl (y : Elem) (now k : Nat) : (y.hold now k).fl = y.fl := rfl
@[simp] theorem Elem.hold_sr (y : Elem) (now k : Nat) : (y.hold now k).sr = y.sr := rfl
@[simp] theorem Elem.hold_mb (y : Elem) (now k : Nat) : (y.hold now k).mb = y.mb := rfl
@[simp] theorem Elem.hold_mx (y : Elem) (now k : Nat) : (y.hold now k).mx = y.mx := rfl
@[simp] theorem Elem.hold_starve (y : Elem) (now k : Nat) : (y.hold now k).starve = y.starve := rfl
@[simp] theorem Elem.hold_starveAt (y : Elem) (now k : Nat) : (y.hold now k).starveAt = y.starveAt := rfl
@[simp] theorem Elem.hold_starveNow (y : Elem) (now k : Nat) : (y.hold now k).starveNow = y.starveNow := rfl
@[simp] theorem Elem.hold_last (y : Elem) (now k : Nat) : (y.hold now k).last = y.last := rfl
@[simp] theorem Elem.hold_idleBit (y : Elem) (now k : Nat) : (y.hold now k).idleBit = y.idleBit := rfl
@[simp] theorem Elem.hold_gate (y : Elem) (now k : Nat) : (y.hold now k).gate = y.gate := rfl
@[simp] theorem Elem.hold_pick (y : Elem) (now k : Nat) : (y.hold now k).pick = y.pick := rfl
@[simp] theorem Elem.hold_firing (y : Elem) (now k : Nat) : (y.hold now k).firing = y.firing := rfl
@[simp] theorem Elem.hold_late (y : Elem) (now k : Nat) : (y.hold now k).late = y.late := rfl
@[simp] theorem Elem.hold_win (y : Elem) (now k : Nat) : (y.hold now k).win = y.win := rfl
@[simp] theorem Elem.hold_brickBusy (y : Elem) (now k : Nat) : (y.hold now k).brickBusy = y.brickBusy := rfl
@[simp] theorem Elem.hold_psIn (y : Elem) (now k : Nat) : (y.hold now k).psIn = y.psIn := rfl
@[simp] theorem Elem.hold_south (y : Elem) (now k : Nat) : (y.hold now k).south = y.south := rfl
@[simp] theorem Elem.hold_sysBusy (y : Elem) (now k : Nat) : (y.hold now k).sysBusy = y.sysBusy := rfl
@[simp] theorem Elem.hold_fences (y : Elem) (now k : Nat) : (y.hold now k).fences = y.fences := rfl
@[simp] theorem Elem.hold_wldBusy (y : Elem) (now k : Nat) : (y.hold now k).wldBusy = y.wldBusy := rfl
@[simp] theorem Elem.hold_walkEnd (y : Elem) (now k : Nat) : (y.hold now k).walkEnd = y.walkEnd := rfl
@[simp] theorem Elem.hold_drained (y : Elem) (now k : Nat) : (y.hold now k).drained = y.drained := rfl
@[simp] theorem Elem.hold_heldBy (y : Elem) (now k : Nat) : (y.hold now k).heldBy = y.heldBy := rfl
@[simp] theorem Elem.hold_perf (y : Elem) (now k : Nat) : (y.hold now k).perf = y.perf := rfl
@[simp] theorem Elem.hold_heldAt (y : Elem) (now k : Nat) : (y.hold now k).heldAt = y.heldAt := rfl
@[simp] theorem Elem.hold_farFailed (y : Elem) (now k : Nat) : (y.hold now k).farFailed = y.farFailed := rfl
@[simp] theorem Elem.hold_lastFire (y : Elem) (now k : Nat) : (y.hold now k).lastFire = y.lastFire := rfl
@[simp] theorem Elem.hold_badCfg (y : Elem) (now k : Nat) : (y.hold now k).badCfg = y.badCfg := rfl

end Sys2Proof.Machine
end

