-- ==== Sys2Proof/Laws/Fire.lean ====
section
/-! SUPPORT. What a firing of one beat comes to (R62-R66, R182), and reading units and elements after they changed. -/

namespace Sys2Proof.Machine

/-! ## Units and elements -/

@[simp] theorem State.unit?_setUnit_self (s : State) (u : Nat) (x : UnitSt) : (s.setUnit u x).unit? u = some x := by
  simp [State.unit?, State.setUnit]

theorem State.unit?_setUnit_ne (s : State) {u v : Nat} (x : UnitSt) (h : v ≠ u) : (s.setUnit u x).unit? v = s.unit? v := by
  simp [State.unit?, State.setUnit, Assoc.get?_set_ne _ _ h]

@[simp] theorem State.unit?_modUnit_self (s : State) (u : Nat) (f : UnitSt → UnitSt) :
    (s.modUnit u f).unit? u = (s.unit? u).map f := by
  simp [State.unit?, State.modUnit]

theorem State.unit?_modUnit_ne (s : State) {u v : Nat} (f : UnitSt → UnitSt) (h : v ≠ u) :
    (s.modUnit u f).unit? v = s.unit? v := by
  simp [State.unit?, State.modUnit, Assoc.get?_upd_ne _ _ h]

@[simp] theorem State.unit?_modElem_self (s : State) (u e : Nat) (f : Elem → Elem) :
    (s.modElem u e f).unit? u = (s.unit? u).map fun x => x.setElem e (f (x.elem e)) := by
  simp [State.modElem]

theorem State.unit?_modElem_ne (s : State) {u v : Nat} (e : Nat) (f : Elem → Elem) (h : v ≠ u) :
    (s.modElem u e f).unit? v = s.unit? v := by
  simp [State.modElem, State.unit?_modUnit_ne _ _ h]

@[simp] theorem UnitSt.elem_setElem_self (x : UnitSt) (e : Nat) (y : Elem) : (x.setElem e y).elem e = y := by
  simp [UnitSt.elem, UnitSt.setElem]

theorem UnitSt.elem_setElem_ne (x : UnitSt) {e d : Nat} (y : Elem) (h : d ≠ e) : (x.setElem e y).elem d = x.elem d := by
  simp [UnitSt.elem, UnitSt.setElem, Assoc.getD_set_ne _ _ _ h]

theorem State.elem_of_unit {s : State} {u : Nat} {x : UnitSt} (h : s.unit? u = some x) (e : Nat) : s.elem u e = x.elem e := by
  simp [State.elem, h]

theorem State.cfgOf_of_unit {s : State} {u : Nat} {x : UnitSt} (h : s.unit? u = some x) : s.cfgOf u = x.cfg := by
  simp [State.cfgOf, h]

@[simp] theorem State.elem_modElem_self {s : State} {u : Nat} {x : UnitSt} (h : s.unit? u = some x) (e : Nat)
    (f : Elem → Elem) : (s.modElem u e f).elem u e = f (x.elem e) := by
  simp [State.elem, h]

theorem State.elem_modElem_ne {s : State} {u v e d : Nat} (f : Elem → Elem) (h : ¬ (v = u ∧ d = e)) :
    (s.modElem u e f).elem v d = s.elem v d := by
  by_cases hv : v = u
  · subst hv
    have hd : d ≠ e := fun h' => h ⟨rfl, h'⟩
    simp only [State.elem, State.unit?_modElem_self]
    cases s.unit? v <;> simp [UnitSt.elem_setElem_ne _ _ hd]
  · simp [State.elem, State.unit?_modElem_ne _ _ _ hv]

/-! ## The beginning of a firing (R62, R65, R75) -/

/-- The element as the first beat finds it. -/
def Elem.begun (y : Elem) (slot cyc : Nat) (m : BitVec 4) : Elem :=
  let dec := fun (i : Fin 4) (z : Elem) => if m.getLsbD i then { z with ctl := z.ctl.set i (z.ctl[i] - 1) } else z
  let z := dec 0 (dec 1 (dec 2 (dec 3 y)))
  { z.addPerf 0 1 with last := BitVec.ofNat 5 slot, lastFire := cyc, idleBit := false, starveAt := z.starveAt.erase slot }

theorem beginFiring_eq (s : State) (u e slot : Nat) (t : Fin 64) :
    beginFiring s u e slot t = s.modElem u e fun y => y.begun slot s.clk.cyc (Trig.cmask (y.trigger t)) := rfl

section begun
variable (y : Elem) (slot cyc : Nat) (m : BitVec 4)

/-- A begun element differs from the element in its control counters and its bookkeeping only. -/
theorem Elem.begun_shape : ∃ c, y.begun slot cyc m =
    { y with ctl := c, perf := (y.addPerf 0 1).perf, last := BitVec.ofNat 5 slot, lastFire := cyc, idleBit := false
             starveAt := y.starveAt.erase slot } := by
  simp only [Elem.begun]; repeat' split
  all_goals exact ⟨_, rfl⟩

theorem Elem.begun_ins : (y.begun slot cyc m).ins = y.ins := by
  obtain ⟨c, h⟩ := y.begun_shape slot cyc m; rw [h]
theorem Elem.begun_cfg : (y.begun slot cyc m).cfg = y.cfg := by
  obtain ⟨c, h⟩ := y.begun_shape slot cyc m; rw [h]
theorem Elem.begun_late : (y.begun slot cyc m).late = y.late := by
  obtain ⟨c, h⟩ := y.begun_shape slot cyc m; rw [h]
theorem Elem.begun_g : (y.begun slot cyc m).g = y.g := by
  obtain ⟨c, h⟩ := y.begun_shape slot cyc m; rw [h]
theorem Elem.begun_k : (y.begun slot cyc m).k = y.k := by
  obtain ⟨c, h⟩ := y.begun_shape slot cyc m; rw [h]
theorem Elem.begun_p : (y.begun slot cyc m).p = y.p := by
  obtain ⟨c, h⟩ := y.begun_shape slot cyc m; rw [h]
theorem Elem.begun_acc : (y.begun slot cyc m).acc = y.acc := by
  obtain ⟨c, h⟩ := y.begun_shape slot cyc m; rw [h]
theorem Elem.begun_fl : (y.begun slot cyc m).fl = y.fl := by
  obtain ⟨c, h⟩ := y.begun_shape slot cyc m; rw [h]
theorem Elem.begun_sr : (y.begun slot cyc m).sr = y.sr := by
  obtain ⟨c, h⟩ := y.begun_shape slot cyc m; rw [h]
theorem Elem.begun_mb : (y.begun slot cyc m).mb = y.mb := by
  obtain ⟨c, h⟩ := y.begun_shape slot cyc m; rw [h]
theorem Elem.begun_mx : (y.begun slot cyc m).mx = y.mx := by
  obtain ⟨c, h⟩ := y.begun_shape slot cyc m; rw [h]
theorem Elem.begun_trig : (y.begun slot cyc m).trig = y.trig := by
  obtain ⟨c, h⟩ := y.begun_shape slot cyc m; rw [h]
theorem Elem.begun_desc : (y.begun slot cyc m).desc = y.desc := by
  obtain ⟨c, h⟩ := y.begun_shape slot cyc m; rw [h]
theorem Elem.begun_firing : (y.begun slot cyc m).firing = y.firing := by
  obtain ⟨c, h⟩ := y.begun_shape slot cyc m; rw [h]
theorem Elem.begun_pick : (y.begun slot cyc m).pick = y.pick := by
  obtain ⟨c, h⟩ := y.begun_shape slot cyc m; rw [h]
theorem Elem.begun_busy : (y.begun slot cyc m).busy = y.busy := by
  obtain ⟨c, h⟩ := y.begun_shape slot cyc m; rw [h]
theorem Elem.begun_win : (y.begun slot cyc m).win = y.win := by
  obtain ⟨c, h⟩ := y.begun_shape slot cyc m; rw [h]

theorem Elem.begun_visible (c : Fin 4) : (y.begun slot cyc m).visible c = y.visible c := by
  obtain ⟨d, h⟩ := y.begun_shape slot cyc m; rw [h]; rfl

theorem Elem.begun_tokReady (a : Src) : (y.begun slot cyc m).tokReady a = y.tokReady a := by
  unfold Elem.tokReady; cases a.chan? <;> simp [Elem.begun_visible]

theorem Elem.begun_operand (cap : OpVal) (b : Nat) (cx : BitVec 32) (a : Src) :
    (y.begun slot cyc m).operand cap b cx a = y.operand cap b cx a := by
  unfold Elem.operand; cases a <;> simp [Elem.begun_visible]

end begun

theorem beginFiring_unit {s : State} {u : Nat} {x : UnitSt} (h : s.unit? u = some x) (e slot : Nat) (t : Fin 64) :
    (beginFiring s u e slot t).unit? u =
      some (x.setElem e ((x.elem e).begun slot s.clk.cyc (Trig.cmask ((x.elem e).trigger t)))) := by
  simp [beginFiring_eq, h]

/-! ## Credit -/

/-- Credit looks at an element's queues and late results only. -/
theorem UnitSt.credit_setElem (x : UnitSt) (e d o n : Nat) (y : Elem) (hi : y.ins = (x.elem e).ins)
    (hl : y.late = (x.elem e).late) : (x.setElem e y).credit d o n = x.credit d o n := by
  have hins : ∀ k, ((x.setElem e y).elem k).ins = (x.elem k).ins := by
    intro k
    by_cases hk : k = e
    · subst hk; simp [hi]
    · rw [UnitSt.elem_setElem_ne _ _ hk]
  have hlate : ∀ k, ((x.setElem e y).elem k).lateOn o = (x.elem k).lateOn o := by
    intro k
    by_cases hk : k = e
    · subst hk; simp [Elem.lateOn, hl]
    · rw [UnitSt.elem_setElem_ne _ _ hk]
  unfold UnitSt.credit
  simp only [UnitSt.setElem_cfg, hlate]
  cases x.cfg.routeFrom (x.cfg.endAt d (4 + o)) with
  | none => rfl
  | some p =>
    obtain ⟨i, r⟩ := p
    have hs : (x.setElem e y).space i r = x.space i r := by
      unfold UnitSt.space
      simp only [UnitSt.route, UnitSt.setElem_flight, UnitSt.setElem_cfg, UnitSt.tile, UnitSt.setElem_mem, UnitSt.bindSt,
        UnitSt.setElem_bind, hins]
      rfl
    simp only [hs]

theorem beginFiring_credit {s : State} {u : Nat} {x : UnitSt} (h : s.unit? u = some x) (e slot : Nat) (t : Fin 64)
    (d : Done) : d.credit (beginFiring s u e slot t) u e = d.credit s u e := by
  unfold Done.credit
  rw [beginFiring_unit h, h]
  simp only [UnitSt.credit_setElem _ _ _ _ _ _ (Elem.begun_ins _ _ _ _) (Elem.begun_late _ _ _ _)]

/-- Credit for at most one token on each of some outputs. -/
theorem Done.credit_of {d : Done} {s : State} {u e : Nat} {x : UnitSt} (h : s.unit? u = some x) (outs : List Nat)
    (ho : ∀ o ∈ outs, x.credit e o 1 = true)
    (hs : ∀ o, ((d.sends.filter fun p => p.1 = o).length + (d.need.filter fun p => p = o).length) ≤
      if o ∈ outs then 1 else 0) : d.credit s u e = true := by
  unfold Done.credit
  rw [h]
  simp only [List.all_eq_true, Bool.or_eq_true, beq_iff_eq]
  intro o _
  have := hs o
  by_cases hm : o ∈ outs
  · rw [if_pos hm] at this
    rcases Nat.le_one_iff_eq_zero_or_eq_one.mp this with h0 | h1
    · exact .inl h0
    · right; rw [h1]; exact ho o hm
  · rw [if_neg hm] at this; exact .inl (Nat.le_zero.mp this)

/-! ## A firing of one beat -/

section single
variable {p : Plan} {s : State} {f : Focus} {x : UnitSt}

/-- The beat of a firing of one beat. -/
theorem beatOf_begun (hx : s.unit? f.u = some x) :
    p.beatOf (beginFiring s f.u f.e f.slot p.t) f.u f.e f.slot 1 0 (p.capture (x.elem f.e) f.slot) =
      p.beatOf s f.u f.e f.slot 1 0 (p.capture (x.elem f.e) f.slot) := by
  simp only [Plan.beatOf, State.elem, beginFiring_unit hx, hx, State.cfgOf, UnitSt.elem_setElem_self, UnitSt.setElem_cfg,
    Elem.begun_visible, Elem.begun_operand]

/-- A FIRING OF ONE BEAT that has its tokens and its credit runs to its end. -/
theorem fire_single (hf : s.focus = some f) (hx : s.unit? f.u = some x) (he : f.e < x.cfg.elemCount)
    (hn : (x.elem f.e).firing = none) (h1 : Trig.n ((x.elem f.e).trigger p.t) = 1)
    (ht : p.tokens (x.elem f.e) = true) (hp : p.fin = none) {d : Done}
    (hb : p.beat (clearTaken (beginFiring s f.u f.e f.slot p.t) f.u f.e p.taken) (p.beatOf s f.u f.e f.slot 1 0 (p.capture (x.elem f.e) f.slot)) {} = .go d)
    (hc : d.credit s f.u f.e = true) :
    fire p s = .next (endFiring ((sendOut d.s f.u f.e d.sends).modElem f.u f.e fun y =>
      (p.deqs.foldl Elem.dequeue y).hold s.clk.cyc d.cyc) f.u f.e (p.capture (x.elem f.e) f.slot)) := by
  have htok : p.tokens ((beginFiring s f.u f.e f.slot p.t).elem f.u f.e) = true := by
    rw [State.elem_of_unit (beginFiring_unit hx _ _ _), UnitSt.elem_setElem_self]
    simpa only [Plan.tokens, Elem.begun_tokReady] using ht
  have hlast : (p.beatOf s f.u f.e f.slot 1 0 (p.capture (x.elem f.e) f.slot)).last = true := rfl
  unfold fire
  rw [hf]
  simp only [State.elemExists, hx, he, decide_true, Bool.not_true, if_neg (Bool.false_ne_true), State.elem_of_unit hx, hn, h1]
  unfold runBeats
  simp only [htok, Bool.not_true, if_neg (Bool.false_ne_true), beatOf_begun hx, hlast, if_true]
  rw [hb]
  simp only [beginFiring_credit hx, hc, Bool.not_true, if_neg (Bool.false_ne_true), runFin, hp]
  rfl

end single

end Sys2Proof.Machine
end

