-- ==== Sys2Proof/Laws/Beats.lean ====
section
/-! SUPPORT. A firing of any number of beats (R62-R66, R182): what it comes to when its beats go, what stands between two of
them, and that what a beat sends stays within its destination. -/

namespace Sys2Proof.Machine

/-! ## Beats in order -/

/-- BEATS IN ORDER: a firing whose beats all go comes to its end in the state the last of them leaves. -/
theorem runBeats_go {p : Plan} {u e slot n : Nat} {cap : Captured} (hp : p.fin = none) (r : Nat → State × Carry)
    (h : ∀ b < n, p.tokens ((r b).1.elem u e) = true ∧ ∃ d,
      p.beat (if b + 1 = n then clearTaken (r b).1 u e p.taken else (r b).1) (p.beatOf (r b).1 u e slot n b cap)
        (r b).2 = .go d ∧
      d.credit (r b).1 u e = true ∧
      r (b + 1) = ((sendOut d.s u e d.sends).modElem u e fun y =>
        (p.deqs.foldl Elem.dequeue y).hold (r b).1.clk.cyc d.cyc, d.c)) :
    ∀ k b, b + (k + 1) = n → runBeats p u e slot n cap (k + 1) b (r b).1 (r b).2 = endFiring (r n).1 u e cap := by
  have one : ∀ k b, b < n → runBeats p u e slot n cap (k + 1) b (r b).1 (r b).2 =
      if k = 0 then endFiring (r (b + 1)).1 u e cap else runBeats p u e slot n cap k (b + 1) (r (b + 1)).1 (r (b + 1)).2 := by
    intro k b hb
    obtain ⟨ht, d, hd, hc, hr⟩ := h b hb
    have hl : (p.beatOf (r b).1 u e slot n b cap).last = (b + 1 == n) := rfl
    conv => lhs; unfold runBeats
    simp only [ht, Bool.not_true, if_neg (Bool.false_ne_true), hl, beq_iff_eq]
    rw [hd, hr]
    simp only [hc, Bool.not_true, if_neg (Bool.false_ne_true), runFin, hp]
  intro k
  induction k with
  | zero => intro b hb; rw [one 0 b (by omega), if_pos rfl, show b + 1 = n from hb]
  | succ k ih => intro b hb; rw [one (k + 1) b (by omega), if_neg (Nat.succ_ne_zero k)]; exact ih (b + 1) (by omega)

/-- The first beats of a firing done, the rest ahead. -/
theorem runBeats_upto {p : Plan} {u e slot n : Nat} {cap : Captured} (r : Nat → State × Carry)
    (m : Nat) (hm : m < n)
    (h : ∀ b < m, p.tokens ((r b).1.elem u e) = true ∧ ∃ d,
      p.beat (if b + 1 = n then clearTaken (r b).1 u e p.taken else (r b).1) (p.beatOf (r b).1 u e slot n b cap)
        (r b).2 = .go d ∧
      d.credit (r b).1 u e = true ∧
      r (b + 1) = ((sendOut d.s u e d.sends).modElem u e fun y =>
        (p.deqs.foldl Elem.dequeue y).hold (r b).1.clk.cyc d.cyc, d.c)) :
    runBeats p u e slot n cap n 0 (r 0).1 (r 0).2 = runBeats p u e slot n cap (n - m) m (r m).1 (r m).2 := by
  induction m with
  | zero => rfl
  | succ m ih =>
    rw [ih (by omega) fun b hb => h b (by omega)]
    obtain ⟨ht, d, hd, hc, hr⟩ := h m (by omega)
    have hl : (p.beatOf (r m).1 u e slot n m cap).last = (m + 1 == n) := rfl
    obtain ⟨k, hk⟩ : ∃ k, n - m = k + 1 := ⟨n - m - 1, by omega⟩
    rw [hk]
    have hk0 : k ≠ 0 := by omega
    conv => lhs; unfold runBeats
    simp only [ht, Bool.not_true, if_neg (Bool.false_ne_true), hl, beq_iff_eq]
    rw [hd, hr]
    simp only [hc, Bool.not_true, if_neg (Bool.false_ne_true), if_neg hk0]
    rw [show n - (m + 1) = k by omega]

theorem Trig.n_pos (w : BitVec 64) : 0 < Trig.n w := by simp [Trig.n]

/-- A NEW FIRING whose beats all go. -/
theorem fire_go {p : Plan} {s : State} {f : Focus} {x : UnitSt} (hf : s.focus = some f) (hx : s.unit? f.u = some x)
    (he : f.e < x.cfg.elemCount) (hn : (x.elem f.e).firing = none) (hp : p.fin = none) (r : Nat → State × Carry)
    (h0 : r 0 = (beginFiring s f.u f.e f.slot p.t, {}))
    (h : ∀ b < Trig.n ((x.elem f.e).trigger p.t), p.tokens ((r b).1.elem f.u f.e) = true ∧ ∃ d,
      p.beat (if b + 1 = Trig.n ((x.elem f.e).trigger p.t) then clearTaken (r b).1 f.u f.e p.taken else (r b).1)
        (p.beatOf (r b).1 f.u f.e f.slot (Trig.n ((x.elem f.e).trigger p.t)) b (p.capture (x.elem f.e) f.slot))
        (r b).2 = .go d ∧
      d.credit (r b).1 f.u f.e = true ∧
      r (b + 1) = ((sendOut d.s f.u f.e d.sends).modElem f.u f.e fun y =>
        (p.deqs.foldl Elem.dequeue y).hold (r b).1.clk.cyc d.cyc, d.c)) :
    fire p s = .next (endFiring (r (Trig.n ((x.elem f.e).trigger p.t))).1 f.u f.e (p.capture (x.elem f.e) f.slot)) := by
  unfold fire
  rw [hf]
  simp only [State.elemExists, hx, he, decide_true, Bool.not_true, if_neg (Bool.false_ne_true), State.elem_of_unit hx, hn]
  obtain ⟨k, hk⟩ := Nat.exists_eq_succ_of_ne_zero (Nat.pos_iff_ne_zero.1 (Trig.n_pos ((x.elem f.e).trigger p.t)))
  have := runBeats_go (slot := f.slot) (cap := p.capture (x.elem f.e) f.slot) hp r h k 0 (by omega)
  rw [h0, ← Nat.succ_eq_add_one, ← hk] at this
  rw [this]

theorem UnitSt.credit_mono {x : UnitSt} {e o n m : Nat} (h : x.credit e o n = true) (hm : m ≤ n) : x.credit e o m = true := by
  revert h
  unfold UnitSt.credit
  split
  · exact id
  · simp only [decide_eq_true_eq]; omega

/-- Credit for at most `k` tokens on each of some outputs. -/
theorem Done.credit_upto {d : Done} {s : State} {u e k : Nat} {x : UnitSt} (h : s.unit? u = some x) (outs : List Nat)
    (ho : k = 0 ∨ ∀ o ∈ outs, x.credit e o k = true)
    (hs : ∀ o, ((d.sends.filter fun p => p.1 = o).length + (d.need.filter fun p => p = o).length) ≤
      if o ∈ outs then k else 0) : d.credit s u e = true := by
  unfold Done.credit
  rw [h]
  simp only [List.all_eq_true, Bool.or_eq_true, beq_iff_eq]
  intro o _
  have := hs o
  by_cases hm : o ∈ outs
  · rw [if_pos hm] at this
    rcases ho with rfl | ho
    · exact .inl (Nat.le_zero.1 this)
    · exact .inr (UnitSt.credit_mono (ho o hm) this)
  · rw [if_neg hm] at this; exact .inl (Nat.le_zero.mp this)

/-! ## What a beat sends -/

theorem outs_nodup (d : ODst) : (outsOf d).Nodup := by
  cases d <;> simp [outsOf]
theorem dst_nodup (d : Dst) : d.outs.Nodup := by
  cases d <;> simp [Dst.outs, outs_nodup]

theorem sendAll_sub (d : ODst) (k : Option Token) : ((sendAll d k).map Prod.fst).Sublist (outsOf d) := by
  cases k <;> simp [sendAll, Function.comp_def]
theorem sendFwd_sub (l : List Nat) (k : Token) : ((sendFwd l k).map Prod.fst).Sublist l := by
  unfold sendFwd; split <;> simp [Function.comp_def]
theorem deliver_sub (bt : Beat) (s : State) (d : Dst) (v : Word) (tag : BitVec 3) (fl : Flags) :
    ((bt.deliver s d v tag fl).2.map Prod.fst).Sublist d.outs := by
  cases d <;> simp [Beat.deliver, Dst.outs, sendAll_sub]
theorem forward_sub (bt : Beat) (s : State) (d : Dst) (o : OpVal) :
    ((bt.forward s d o).2.map Prod.fst).Sublist d.outs := by
  cases d <;> simp [Beat.forward, Dst.outs, sendFwd_sub]

theorem count_ok {l : List (Nat × Token)} {n outs : List Nat} (hn : outs.Nodup)
    (h : (l.map Prod.fst ++ n).Sublist outs) (o : Nat) :
    ((l.filter fun q => q.1 = o).length + (n.filter fun q => q = o).length) ≤ if o ∈ outs then 1 else 0 := by
  have e : (l.filter fun q => q.1 = o).length + (n.filter fun q => q = o).length = (l.map Prod.fst ++ n).count o := by
    rw [List.count_append, List.count_eq_countP, List.count_eq_countP, List.countP_map, List.countP_eq_length_filter,
      List.countP_eq_length_filter]
    congr 3
  rw [e]
  have := h.count_le o
  split
  · exact this.trans (List.nodup_iff_count_le_one.1 hn o)
  · rename_i hno
    rw [List.count_eq_zero.2 hno] at this
    exact this

theorem clearTaken_unit {s : State} {u e : Nat} {l} :
    (s.unit? u).isSome = true → ((clearTaken s u e l).unit? u).isSome = true := by
  unfold clearTaken; split
  · exact id
  · simp

/-! ## Units and their elements -/

theorem placed_unit {s : State} {u : Nat} {x : UnitSt} (h : s.placed? u = some x) : s.unit? u = some x := by
  unfold State.placed? at h; split at h
  · rename_i y hy; split at h <;> simp_all
  · simp at h

theorem mergePair_k (y : Elem) (a b : Fin 4) : (y.mergePair a b).k = y.k := by
  unfold Elem.mergePair; simp only; split <;> simp [Elem.setChan]
theorem merge_k (y : Elem) : y.merge.k = y.k := by simp [Elem.merge, mergePair_k]
theorem dropFront_k (y : Elem) (c : Fin 4) : (y.dropFront c).k = y.k := by
  unfold Elem.dropFront; split <;> simp [Elem.setChan]

end Sys2Proof.Machine
end

