-- ==== Sys2Proof/Laws/Memory.lean ====
section
/-! SUPPORT. Memory: a write is read back, leaves every other address alone, and keeps the canonical form. -/

namespace Sys2Proof.Machine.Memory

@[simp] theorem wf_nil : wf [] = true := rfl

theorem wfFrom_mono {lo lo' : Nat} {m : Memory} (h : wfFrom lo m = true) (hl : lo' ≤ lo) : wfFrom lo' m = true := by
  cases m with
  | nil => rfl
  | cons p t =>
    obtain ⟨k, v⟩ := p
    simp only [wfFrom, Bool.and_eq_true, decide_eq_true_eq] at h ⊢
    exact ⟨⟨by omega, h.1.2⟩, h.2⟩

theorem wfFrom_write {lo : Nat} {m : Memory} (h : wfFrom lo m = true) (a : Nat) (b : Byte) (ha : lo ≤ a) :
    wfFrom lo (write m a b) = true := by
  induction m generalizing lo with
  | nil =>
    unfold write
    split
    · rfl
    · rename_i hb; simp [wfFrom, ha, hb]
  | cons p t ih =>
    obtain ⟨k, v⟩ := p
    have h' := h
    simp only [wfFrom, Bool.and_eq_true, decide_eq_true_eq] at h'
    unfold write
    split
    · split
      · exact h
      · rename_i hk hb
        simp only [wfFrom, Bool.and_eq_true, decide_eq_true_eq]
        exact ⟨⟨ha, by simpa using hb⟩, ⟨⟨by omega, h'.1.2⟩, h'.2⟩⟩
    · split
      · split
        · exact wfFrom_mono h'.2 (by omega)
        · rename_i hk he hb
          simp only [wfFrom, Bool.and_eq_true, decide_eq_true_eq]
          exact ⟨⟨ha, by simpa using hb⟩, by rw [he]; exact h'.2⟩
      · simp only [wfFrom, Bool.and_eq_true, decide_eq_true_eq]
        exact ⟨h'.1, ih h'.2 (by omega)⟩

/-- A write keeps the canonical form. -/
@[simp] theorem wf_write {m : Memory} (h : wf m = true) (a : Nat) (b : Byte) : wf (write m a b) = true :=
  wfFrom_write h a b (Nat.zero_le a)

/-- So does a write of bytes. -/
@[simp] theorem wf_writeBytes {m : Memory} (h : wf m = true) (a : Nat) (bs : List Byte) : wf (writeBytes m a bs) = true := by
  induction bs generalizing m a with
  | nil => exact h
  | cons b bs ih => exact ih (wf_write h a b) (a + 1)

/-- So does a write of a word. -/
@[simp] theorem wf_setWord {m : Memory} (h : wf m = true) (a : Nat) (w : Word) : wf (setWord m a w) = true :=
  wf_writeBytes h a _

theorem read_of_wfFrom {lo : Nat} {m : Memory} (h : wfFrom lo m = true) {a : Nat} (ha : a < lo) : read m a = blank := by
  induction m generalizing lo with
  | nil => rfl
  | cons p t ih =>
    obtain ⟨k, v⟩ := p
    simp only [wfFrom, Bool.and_eq_true, decide_eq_true_eq] at h
    simp only [read]
    rw [if_neg (by omega)]
    exact ih h.2 (by omega)

theorem read_writeFrom {lo : Nat} {m : Memory} (h : wfFrom lo m = true) (a : Nat) (b : Byte) : read (write m a b) a = b := by
  induction m generalizing lo with
  | nil =>
    unfold write
    split
    · rename_i hb; simp [read, hb]
    · simp [read]
  | cons p t ih =>
    obtain ⟨k, v⟩ := p
    have h' := h
    simp only [wfFrom, Bool.and_eq_true, decide_eq_true_eq] at h'
    unfold write
    split
    · split
      · rename_i hk hb
        simp only [read]
        rw [if_neg (by omega), hb]
        exact read_of_wfFrom h'.2 (by omega)
      · simp [read]
    · split
      · split
        · rename_i hk he hb
          rw [hb]
          exact read_of_wfFrom h'.2 (by omega)
        · simp [read]
      · rename_i hk he
        simp only [read]
        rw [if_neg (Ne.symm he)]
        exact ih h'.2

/-- A byte written is read back. -/
theorem read_write_self {m : Memory} (h : wf m = true) (a : Nat) (b : Byte) : read (write m a b) a = b := read_writeFrom h a b

/-- A write leaves every other address alone. -/
theorem read_write_ne (m : Memory) {a c : Nat} (b : Byte) (hc : c ≠ a) (h : wf m = true) : read (write m a b) c = read m c := by
  unfold wf at h
  generalize 0 = lo at h
  induction m generalizing lo with
  | nil =>
    unfold write
    split
    · rfl
    · simp [read, Ne.symm hc]
  | cons p t ih =>
    obtain ⟨k, v⟩ := p
    have h' := h
    simp only [wfFrom, Bool.and_eq_true, decide_eq_true_eq] at h'
    unfold write
    split
    · split
      · rfl
      · simp [read, Ne.symm hc]
    · split
      · rename_i hk he
        subst he
        split
        · simp [read, Ne.symm hc]
        · simp [read, Ne.symm hc]
      · simp only [read, ih _ h'.2]

/-- A write of bytes leaves every address outside them alone. -/
theorem read_writeBytes_out {m : Memory} (h : wf m = true) (a : Nat) (bs : List Byte) {c : Nat}
    (hc : c < a ∨ a + bs.length ≤ c) : read (writeBytes m a bs) c = read m c := by
  induction bs generalizing m a with
  | nil => rfl
  | cons b bs ih =>
    simp only [writeBytes]
    rw [ih (wf_write h a b) (a + 1) (by simp at hc ⊢; omega)]
    exact read_write_ne m b (by simp at hc; omega) h

end Sys2Proof.Machine.Memory
end

