-- ==== Sys2Proof/Machine/AsmImage.lean ====
section
/-! DEFINITION. The version 3 image that the assembler writes: records as bytes (R165-R170, R77). -/

namespace Sys2Proof.Machine.Asm

/-- A region (R58, R170): size, class code, sealed. -/
structure RingDef where
  size : Nat
  cls : Nat
  sealed : Bool
  deriving DecidableEq, Repr

/-- A patch (R170): graph, ARM node, argument, ring. -/
structure PatchDef where
  graph : Nat
  node : Nat
  arg : Nat
  ring : Nat
  deriving DecidableEq, Repr

/-- A data record (R170): target kind, its index, section, offset, words. -/
structure DataDef where
  kind : Nat
  idx : Nat
  sec : Nat
  off : Nat
  words : List Nat
  deriving DecidableEq, Repr

/-- What an image holds. -/
structure Parts where
  secs : List SecCfg
  graphs : List Graph
  rings : List RingDef
  patches : List PatchDef
  data : List DataDef
  priv : Bool
  deriving DecidableEq, Repr

/-- Zeros. -/
def zeros (n : Nat) : List Byte := List.replicate n 0

/-- An endpoint (R169). -/
def endWord : Endpoint → Nat
  | .chan row col ch => row * 2 ^ 16 + col * 2 ^ 8 + ch
  | .tile t => 2 ^ 30 + t
  | .port n => 2 ^ 31 + n
  | .none => 3 * 2 ^ 30

/-- A route record (R169). -/
def routeBytes (r : Route) : List Byte :=
  bytesOfNat 4 (endWord r.src) ++ bytesOfNat 4 (endWord r.dst) ++ [r.admits] ++ bytesOfNat 1 (r.turn / 8 - r.turn / 32) ++ zeros 2 ++
    bytesOfNat 4 (endWord r.divert)

/-- The set of keys below `n` as a mask. -/
def maskOf {α : Type} (n : Nat) (m : Assoc α) : Nat := ((List.range n).map fun k => if (m.get? k).isSome then 2 ^ k else 0).foldl (· + ·) 0

/-- An element record (R168). -/
def elemBytes (r : ElemRec) : List Byte :=
  let bit := fun (b : Bool) => if b then 1 else 0
  bytesOfNat 1 r.row ++ bytesOfNat 1 r.col ++ bytesOfNat 1 (bit r.cfg.systolic + 2 * bit r.cfg.gated + 4 * r.cfg.m01 + 16 * r.cfg.m23) ++
    bytesOfNat 1 r.cfg.whole.toNat ++ bytesOfNat 4 (maskOf 32 r.slots) ++ bytesOfNat 8 (maskOf 64 r.trig) ++
    ((List.range 8).map fun j => bytesOfNat 1 (r.ksrc.getD j 0)).flatten ++ zeros 8 ++
    ((List.range 32).map fun j => bytesOfNat 4 (r.slots.getD j 0).toNat).flatten ++
    ((List.range 32).map fun j => bytesOfNat 4 (r.desc.getD j 0).toNat).flatten ++
    ((List.range 64).map fun j => bytesOfNat 8 (r.trig.getD j 0).toNat).flatten ++
    ((List.range 8).map fun j => bytesOfNat 8 (r.k.getD j 0).toNat).flatten

/-- The code of a tile role (R167). -/
def Role.code : Role → Nat
  | .ab => 0
  | .tf => 1
  | .cb => 2

/-- A tile-role table, filled to a multiple of 8 bytes (R167). -/
def roleBytes (c : SecCfg) : List Byte :=
  let n := (c.tileCount + 31) / 32 * 8
  (List.range n).map fun i => BitVec.ofNat 8 (packLanes 2 ((List.range 4).map fun j => Role.code (c.role (4 * i + j))))

/-- The code of a binding's kind (R167). -/
def kindCode : BindKind → Nat
  | .unbound => 0
  | .host => 1
  | .sweep => 2
  | .deep => 3
  | .copy => 4
  | .coll => 5
  | .remote => 6
  | .seq => 7
  | .slot => 8

/-- A section record whose element, route and role records begin at the offsets given (R167). -/
def secBytes (c : SecCfg) (elems routes roles : Nat) : List Byte :=
  let bit := fun (b : Bool) => if b then 1 else 0
  bytesOfNat 1 c.rows ++ bytesOfNat 1 c.cols ++ bytesOfNat 1 (c.mode + 4 * bit c.flush) ++ zeros 1 ++ bytesOfNat 4 c.seed.toNat ++
    bytesOfNat 8 c.pal.toNat ++ bytesOfNat 4 c.elems.length ++ bytesOfNat 4 c.routes.length ++ bytesOfNat 8 elems ++ bytesOfNat 8 routes ++
    bytesOfNat 8 roles ++
    ((List.range 32).map fun j => let b := c.bindCfg j; bytesOfNat 1 (kindCode b.kind) ++ bytesOfNat 1 b.stack ++ zeros 6).flatten ++
    ((List.range 64).map fun j =>
      let b := (c.bufs[j]?).getD ({ } : BufCfg)
      bytesOfNat 1 (bit b.valid) ++ bytesOfNat 1 b.row ++ bytesOfNat 1 b.col ++ bytesOfNat 1 b.rows ++ bytesOfNat 1 b.cols ++ zeros 3 ++
        bytesOfNat 4 b.base ++ bytesOfNat 4 b.size).flatten ++ zeros 16

/-- Sections' records from a section-table offset on: the section records, and what they point to from `at_` on. -/
def layoutSecs : Nat → List SecCfg → List Byte × List Byte
  | _, [] => ([], [])
  | at_, c :: cs =>
    let es := (c.elems.map elemBytes).flatten
    let rs := (c.routes.map routeBytes).flatten
    let ts := roleBytes c
    let e := at_ + es.length
    let r := e + rs.length
    let rest := layoutSecs (r + ts.length) cs
    (secBytes c at_ e r ++ rest.1, es ++ rs ++ ts ++ rest.2)

/-- Graph records, and the nodes and argument blocks they point to from `at_` on (R170). -/
def layoutGraphs : Nat → List Graph → List Byte × List Byte
  | _, [] => ([], [])
  | at_, g :: gs =>
    let ns := g.nodes.flatten
    let as := (g.args.map fun b => (b.map fun w => bytesOfNat 8 w.toNat).flatten).flatten
    let a := at_ + ns.length
    let rest := layoutGraphs (a + as.length) gs
    (bytesOfNat 1 g.quarter ++ zeros 3 ++ bytesOfNat 4 g.nodes.length ++ bytesOfNat 8 at_ ++ bytesOfNat 8 a ++ bytesOfNat 4 g.args.length ++
      zeros 4 ++ rest.1, ns ++ as ++ rest.2)

def ringBytes (r : RingDef) : List Byte := bytesOfNat 8 r.size ++ bytesOfNat 1 r.cls ++ bytesOfNat 1 (if r.sealed then 1 else 0) ++ zeros 6

def patchBytes (p : PatchDef) : List Byte :=
  bytesOfNat 2 p.graph ++ bytesOfNat 2 p.node ++ bytesOfNat 1 p.arg ++ zeros 3 ++ bytesOfNat 4 p.ring ++ zeros 4

def dataBytes (d : DataDef) : List Byte :=
  bytesOfNat 1 d.kind ++ zeros 3 ++ bytesOfNat 4 d.idx ++ bytesOfNat 4 d.sec ++ bytesOfNat 4 (8 * d.words.length) ++ bytesOfNat 8 d.off ++
    (d.words.map (bytesOfNat 8)).flatten

/-- The image (R166): header, section records, what they point to, graph records, what they point to, ring records, patches,
data. -/
def imageOf (p : Parts) : List Byte :=
  let s0 := 64
  let s1 := s0 + 1344 * p.secs.length
  let ss := layoutSecs s1 p.secs
  let g0 := s1 + ss.2.length
  let g1 := g0 + 32 * p.graphs.length
  let gs := layoutGraphs g1 p.graphs
  let r0 := g1 + gs.2.length
  let rs := (p.rings.map ringBytes).flatten ++ (p.patches.map patchBytes).flatten
  let d0 := r0 + rs.length
  let ds := (p.data.map dataBytes).flatten
  bytesOfNat 4 0x1A494358 ++ bytesOfNat 2 3 ++ bytesOfNat 2 (if p.priv then 2 else 0) ++ bytesOfNat 8 (d0 + ds.length) ++
    bytesOfNat 2 p.secs.length ++ bytesOfNat 2 p.graphs.length ++ bytesOfNat 2 p.rings.length ++ bytesOfNat 2 p.patches.length ++
    bytesOfNat 4 p.data.length ++ zeros 4 ++ bytesOfNat 8 s0 ++ bytesOfNat 8 g0 ++ bytesOfNat 8 r0 ++ bytesOfNat 8 d0 ++
    ss.1 ++ ss.2 ++ gs.1 ++ gs.2 ++ rs ++ ds

end Sys2Proof.Machine.Asm
end

