-- ==== Sys2Proof/Machine/AsmText.lean ====
section
/-! DEFINITION. The text of a tilas file: lines, tokens, inclusions and text definitions (R43, R44, R45, R51, R52). -/

namespace Sys2Proof.Machine.Asm

/-- A piece of source text. -/
abbrev Text := List Char

/-- Text from a string literal. -/
def txt (s : String) : Text := s.toList

/-- What the assembler refuses or warns of; the messages name the line, and some the token (R43-R60). -/
inductive Wrong where
  | badByte
  | longLine
  /-- No token begins here, or a token of the table is malformed (R44). -/
  | badToken (t : Text)
  /-- The statement matches no production: the first token that does not match, empty at the end of the line (R47). -/
  | noMatch (t : Text)
  | reserved (name : Text)
  | twice (name : Text)
  | undefined (name : Text)
  | circular (name : Text)
  | divZero
  | badShift
  | notPower
  | badSlice
  /-- A value does not fit the named field (R49). -/
  | field (name : Text)
  | badFormat (name : Text)
  | laneCount
  | badLane
  | noFile (path : Text)
  | inclusionCycle (path : Text)
  | tooDeep
  /-- A text definition without its end, or with too many arguments (R52). -/
  | noEnd (name : Text)
  | tooManyArgs (name : Text)
  /-- Outside a section, an element selection, or the shape; or such a thing is still open (R54). -/
  | place
  | gated
  | badTrigger
  | noTrigger
  | badSuffix (s : Text)
  | operand
  | peek
  | routed
  | noRole
  | noRoom
  | beyond
  | overlap
  | node
  /-- Warnings (R49, R50). -/
  | inexact
  | hides (name : Text)
  deriving DecidableEq, Repr

/-- A message: file, line, what (R51). -/
structure Note where
  file : Text
  line : Nat
  what : Wrong
  deriving DecidableEq, Repr

/-- A line of source, comments off and continuations joined, with the place where it begins. -/
structure Line where
  file : Text
  no : Nat
  text : Text
  deriving DecidableEq, Repr

/-! ## Characters -/

def isLetter (c : Char) : Bool := (decide ('a' ≤ c) && decide (c ≤ 'z')) || (decide ('A' ≤ c) && decide (c ≤ 'Z'))
def isNum (c : Char) : Bool := decide ('0' ≤ c) && decide (c ≤ '9')
def isBlank (c : Char) : Bool := c == ' ' || c == '\t'
def isName (c : Char) : Bool := isLetter c || isNum c || c == '_'
/-- Lower case. -/
def low (c : Char) : Char := if decide ('A' ≤ c) && decide (c ≤ 'Z') then Char.ofNat (c.toNat + 32) else c
def lower (t : Text) : Text := t.map low
/-- The value of a digit up to base 16. -/
def digitOf (c : Char) : Option Nat :=
  if isNum c then some (c.toNat - 48)
  else
    let d := low c
    if decide ('a' ≤ d) && decide (d ≤ 'f') then some (d.toNat - 87) else none
/-- A number from its digits, underscores between two digits allowed where `us`. -/
def numOf (base : Nat) (us : Bool) : Bool → Nat → Text → Option Nat
  | seen, n, [] => if seen then some n else none
  | seen, n, c :: cs =>
    if c == '_' then (if us && seen && !cs.isEmpty then (match cs with
      | '_' :: _ => none
      | _ => numOf base us false n cs) else none)
    else match digitOf c with
      | some d => if d < base then numOf base us true (base * n + d) cs else none
      | none => none
/-- Decimal digits of a number. -/
def digits (n : Nat) : Text := (Nat.toDigits 10 n)

def trimL (t : Text) : Text := t.dropWhile isBlank
def trim (t : Text) : Text := ((trimL t).reverse.dropWhile isBlank).reverse

/-- The text before a comment: `;` outside a string (R43). -/
def uncomment : Bool → Text → Text
  | _, [] => []
  | q, c :: cs => if c == ';' && !q then [] else c :: uncomment (if c == '"' then !q else q) cs

/-! ## Tokens (R44) -/

inductive Tok where
  /-- A name, or a mnemonic. -/
  | name (t : Text)
  /-- `.` and what follows it: a directive, a suffix, a channel of an endpoint. -/
  | dot (t : Text)
  | num (n : Nat)
  /-- m * 10^e. -/
  | real (m : Nat) (e : Int)
  | str (t : Text)
  | punct (t : Text)
  deriving DecidableEq, Repr

/-- The token as written, for messages. -/
def Tok.show : Tok → Text
  | .name t => t
  | .dot t => '.' :: t
  | .num n => digits n
  | .real m e => digits m ++ txt "e" ++ (if e < 0 then '-' :: digits e.natAbs else digits e.natAbs)
  | .str t => t
  | .punct t => t

/-- Punctuation of two characters, and of one. -/
def pairs : List Text := [txt "<<", txt ">>", txt "==", txt "!=", txt "<=", txt ">=", txt "..", txt "->"]
def singles : Text := txt ",:()=+-*/%&^|~!<>"

/-- A number or a real at the head of a text, and the rest.  The sign of an exponent may be left out (DESIGN CHOICE,
log 13). -/
def lexNum (t : Text) : Option (Tok × Text) :=
  let word := t.takeWhile isName
  let rest := t.dropWhile isName
  match word with
  | '0' :: 'x' :: h => (numOf 16 true false 0 h).map fun n => (.num n, rest)
  | '0' :: 'b' :: h => (numOf 2 true false 0 h).map fun n => (.num n, rest)
  | _ =>
    match rest with
    | '.' :: c :: _ =>
      if isNum c then
        let frac := (rest.drop 1).takeWhile isName
        let after := (rest.drop 1).dropWhile isName
        let ds := frac.takeWhile isNum
        let ex := frac.dropWhile isNum
        let real := fun (e : Int) (r : Text) =>
          match numOf 10 false false 0 (word ++ ds) with
          | some m => some (Tok.real m (e - ds.length), r)
          | none => none
        match ex with
        | [] => if word.all isNum then real 0 after else none
        | ['e'] =>
          (match after with
           | s :: r =>
             if s == '-' || s == '+' then
               let es := r.takeWhile isName
               (numOf 10 false false 0 es).bind fun n => real (if s == '-' then -(n : Int) else n) (r.dropWhile isName)
             else none
           | [] => none)
        | 'e' :: es => (numOf 10 false false 0 es).bind fun n => real n after
        | _ => none
      else (numOf 10 false false 0 word).map fun n => (.num n, rest)
    | _ => (numOf 10 false false 0 word).map fun n => (.num n, rest)

/-- The next token of a text that does not begin with a blank. -/
def lexOne (t : Text) : Option (Tok × Text) :=
  match t with
  | [] => none
  | c :: cs =>
    if isNum c then lexNum t
    else if isName c then some (.name (t.takeWhile isName), t.dropWhile isName)
    else if c == '"' then
      let s := cs.takeWhile fun x => x != '"'
      (match cs.dropWhile fun x => x != '"' with
       | _ :: r => some (.str s, r)
       | [] => none)
    else if pairs.contains (t.take 2) then some (.punct (t.take 2), t.drop 2)
    else if c == '.' then
      (match cs with
       | d :: _ => if isName d then some (.dot (cs.takeWhile isName), cs.dropWhile isName) else none
       | [] => none)
    else if singles.contains c then some (.punct [c], cs)
    else none

/-- The tokens of a line, at most `n`. -/
def lex : Nat → Text → Except Wrong (List Tok)
  | 0, _ => .ok []
  | n + 1, t =>
    match trimL t with
    | [] => .ok []
    | u => match lexOne u with
      | some (k, r) => (lex n r).map fun ks => k :: ks
      | none => .error (.badToken (u.takeWhile fun c => !isBlank c))

def tokens (t : Text) : Except Wrong (List Tok) := lex (t.length + 1) t

/-! ## Lines (R43) -/

/-- Splits at line ends. -/
def splitLines (t : Text) : List Text := t.splitOn '\n'

/-- A byte the assembler accepts. -/
def goodChar (c : Char) : Bool := c == '\t' || (decide (32 ≤ c.toNat) && decide (c.toNat ≤ 126))

/-- Physical lines made logical: what a comma at the end leaves open goes on with the next line. -/
def joinLines (file : Text) : Nat → Option Line → List Text → List Line
  | _, none, [] => []
  | _, some l, [] => [l]
  | n, open_, t :: ts =>
    let u := trim (uncomment false t)
    let l : Line := match open_ with
      | none => { file := file, no := n, text := u }
      | some l => { l with text := l.text ++ ' ' :: u }
    if u.getLast? == some ',' then joinLines file (n + 1) (some l) ts else l :: joinLines file (n + 1) none ts

/-- The lines of a file and what is wrong with them. -/
def fileLines (file : Text) (src : Text) : List Line × List Note :=
  let ls := (splitLines src).map fun t => if t.getLast? == some '\r' then t.dropLast else t
  let bad := (ls.zipIdx 1).filterMap fun p =>
    if !p.1.all goodChar then some { file := file, line := p.2, what := .badByte }
    else if 1000 < p.1.length then some { file := file, line := p.2, what := .longLine }
    else none
  (joinLines file 1 none ls, bad)

/-! ## Reserved names (R45) -/

/-- `stem` and a number below `n`. -/
def indexed (stem : String) (n : Nat) (t : Text) : Option Nat :=
  let s := txt stem
  if s.isPrefixOf t then
    let ds := t.drop s.length
    (numOf 10 false false 0 ds).bind fun k => if k < n && digits k == ds then some k else none
  else none

/-- Registers, channels and words of the syntax, in lower case. -/
def isReservedWord (t : Text) : Bool :=
  (indexed "g" 8 t).isSome || (indexed "k" 8 t).isSome || (indexed "p" 8 t).isSome || (indexed "a" 4 t).isSome ||
  (indexed "i" 4 t).isSome || (indexed "o" 4 t).isSome || (indexed "c" 4 t).isSome || (indexed "co" 4 t).isSome ||
  (indexed "m" 4 t).isSome ||
  [txt "o01", txt "o23", txt "oall", txt "z", txt "one", txt "bt", txt "cx", txt "ey", txt "ex", txt "on", txt "e", txt "t",
   txt "port", txt "arg"].contains t

/-! ## Inclusions and text definitions (R52) -/

/-- A definition by `.macro`: name, parameters, body, where it stands. -/
structure Mac where
  name : Text
  params : List Text
  body : List Line
  at_ : Line
  deriving DecidableEq, Repr

/-- The state of the first reading: lines so far (last first), definitions, expansions counted, messages, the definition
being read with how many are open in it. -/
structure Reading where
  out : List Line := []
  macs : List Mac := []
  uniq : Nat := 0
  notes : List Note := []
  open_ : Option (Mac × Line × Nat) := none
  /-- Sections and element selections met so far, and whether a section is open. -/
  secs : Nat := 0
  sels : Nat := 0
  inside : Bool := false
  /-- Names of the inner scopes: section, selection where it is a name of elements, name (R50). -/
  inner : List (Nat × Option Nat × Text) := []
  deriving DecidableEq, Repr

/-- Files of the inclusion in progress, innermost first, and how deep text definitions are nested. -/
structure Depth where
  files : List Text := []
  macs : Nat := 0
  deriving DecidableEq, Repr

/-- Splits at commas outside parentheses and strings. -/
def splitArgs : Nat → Bool → Text → List Text
  | _, _, [] => [[]]
  | d, q, c :: cs =>
    if c == ',' && d == 0 && !q then [] :: splitArgs d q cs
    else
      let d' := if q then d else if c == '(' then d + 1 else if c == ')' then d - 1 else d
      match splitArgs d' (if c == '"' then !q else q) cs with
      | [] => [[c]]
      | a :: as => (c :: a) :: as

/-- The arguments of a call or the parameters of a definition. -/
def argsOf (t : Text) : List Text := if (trim t).isEmpty then [] else (splitArgs 0 false t).map trim

/-- `%name` in a body replaced, at most `n` characters looked at. -/
def subst (vals : List (Text × Text)) : Nat → Text → Text
  | 0, t => t
  | _, [] => []
  | n + 1, c :: cs =>
    if c == '%' then
      let w := cs.takeWhile isName
      match vals.find? fun p => p.1 == w with
      | some p => p.2 ++ subst vals n (cs.drop w.length)
      | none => c :: subst vals n cs
    else c :: subst vals n cs

/-- The first word of a line, and the rest: a directive with its dot, or a name. -/
def firstWord (t : Text) : Text × Text :=
  match trimL t with
  | '.' :: cs => ('.' :: lower (cs.takeWhile isName), cs.dropWhile isName)
  | cs => (cs.takeWhile isName, cs.dropWhile isName)

def goodName (t : Text) : Bool :=
  match t with
  | [] => false
  | c :: _ => !isNum c && t.all isName

/-- A path relative to the file that includes it. -/
def beside (file path : Text) : Text := (file.reverse.dropWhile fun c => c != '/').reverse ++ path

/-- The name that a line defines in a section, and whether it is a name of the elements selected (R50). -/
def innerOf (t : Text) : Option (Bool × Text) :=
  let (w, rest) := firstWord t
  let (n, more) := firstWord rest
  if [txt ".equ", txt ".port", txt ".buffer", txt ".wave"].contains w then some (false, n)
  else if w == txt ".trigger" then some (true, n)
  else if (indexed "s" 32 (lower w)).isSome && (trimL more).head? == some ':' then some (true, n)
  else none

namespace Reading

/-- A line that is none of the text definitions goes out; it may open or close a section, or select elements. -/
def put (r : Reading) (l : Line) : Reading :=
  let w := (firstWord l.text).1
  let r := if w == txt ".section" then { r with secs := r.secs + 1, inside := true }
    else if w == txt ".endsec" then { r with inside := false }
    else if w == txt ".element" then { r with sels := r.sels + 1 }
    else r
  let r := match innerOf l.text with
    | some (own, n) => if r.inside then { r with inner := (r.secs, if own then some r.sels else none, n) :: r.inner } else r
    | none => r
  { r with out := l :: r.out }

/-- A name of an inner scope hides a text definition of the same spelling (R50). -/
def hides (r : Reading) (n : Text) : Bool :=
  r.inside && r.inner.any fun p => p.1 == r.secs && p.2.2 == n && (match p.2.1 with
    | some k => k == r.sels
    | none => true)

def note (r : Reading) (l : Line) (w : Wrong) : Reading := { r with notes := r.notes ++ [{ file := l.file, line := l.no, what := w }] }

/-- A definition begins. -/
def begin (r : Reading) (l : Line) (rest : Text) : Reading :=
  let (name, more) := firstWord rest
  let ps := match trimL more with
    | ',' :: cs => some (argsOf cs)
    | [] => some []
    | _ => none
  let m : Mac := { name := name, params := ps.getD [], body := [], at_ := l }
  let r := if !goodName name then r.note l (.noMatch name)
    else if ps.any fun l => l.all goodName then r else r.note l (.noMatch (trim more))
  { r with open_ := some (m, l, 0) }

/-- A definition ends. -/
def finish (r : Reading) (m : Mac) (at_ : Line) : Reading :=
  let r := { r with open_ := none }
  if r.macs.any fun k => k.name == m.name then r.note at_ (.twice m.name) else { r with macs := r.macs ++ [m] }

end Reading

/-- Lines read in order; `inner` reads the lines of an inclusion or of an expansion.  A name is a call only behind the
`.macro` that defines it (DESIGN CHOICE, log 13). -/
def readLines (files : List (Text × Text)) (inner : Depth → List Line → Reading → Reading) (d : Depth) : List Line → Reading → Reading
  | [], r =>
    (match r.open_ with
     | some (m, l, _) => { r with open_ := none }.note l (.noEnd m.name)
     | none => r)
  | l :: ls, r =>
    let (w, rest) := firstWord l.text
    match r.open_ with
    | some (m, l0, k) =>
      if w == txt ".endm" then
        if k = 0 then
          let r := if (trim rest).isEmpty then r else r.note l (.noMatch (trim rest))
          readLines files inner d ls (r.finish m l0)
        else readLines files inner d ls { r with open_ := some ({ m with body := m.body ++ [l] }, l0, k - 1) }
      else
        let k := if w == txt ".macro" then k + 1 else k
        readLines files inner d ls { r with open_ := some ({ m with body := m.body ++ [l] }, l0, k) }
    | none =>
      if w == txt ".macro" then readLines files inner d ls (r.begin l rest)
      else if w == txt ".endm" then readLines files inner d ls (r.note l (.noMatch w))
      else if w == txt ".include" then
        let r := match tokens rest with
          | .ok [.str p] =>
            let path := beside l.file p
            (match files.find? fun f => f.1 == path with
             | none => r.note l (.noFile path)
             | some f =>
               if d.files.contains path then r.note l (.inclusionCycle path)
               else if 17 ≤ d.files.length then r.note l .tooDeep
               else
                 let p := fileLines path f.2
                 inner { d with files := path :: d.files } p.1 { r with notes := r.notes ++ p.2 })
          | _ => r.note l (.noMatch w)
        readLines files inner d ls r
      else
        let r := match r.macs.find? fun m => m.name == w && !r.hides w with
          | none => r.put l
          | some m =>
            let as := argsOf rest
            if m.params.length < as.length then r.note l (.tooManyArgs m.name)
            else if 32 ≤ d.macs then r.note l .tooDeep
            else
              let vals := (m.params.zipIdx.map fun p => (p.1, as.getD p.2 [])) ++ [(txt "uniq", digits r.uniq)]
              let body := m.body.map fun b => { b with text := subst vals (b.text.length + 1) b.text }
              inner { d with macs := d.macs + 1 } body { r with uniq := r.uniq + 1 }
        readLines files inner d ls r

/-- The same, inclusions and expansions nested at most `n` deep. -/
def readAll (files : List (Text × Text)) : Nat → Depth → List Line → Reading → Reading
  | 0, _, _, r => r
  | n + 1, d, ls, r => readLines files (readAll files n) d ls r

/-- A file with its inclusions and expansions: the lines in order, the definitions, the messages.  It is read twice, so that a
name of an inner scope hides a text definition before the line that defines it too (R50). -/
def readFile (files : List (Text × Text)) (main : Text) : List Line × List Mac × List Note :=
  match files.find? fun f => f.1 == main with
  | none => ([], [], [{ file := main, line := 0, what := .noFile main }])
  | some f =>
    let p := fileLines main f.2
    let read := fun (inner : List (Nat × Option Nat × Text)) => readAll files 52 { files := [main] } p.1 { notes := p.2, inner := inner }
    let r := read (read []).inner
    (r.out.reverse, r.macs, r.notes)

end Sys2Proof.Machine.Asm
end

