-- ==== Sys2Proof/Machine/AsmExpr.lean ====
section
/-! DEFINITION. Expressions of a tilas file, the formats by name, and `pack` (R46, R48, R49). -/

namespace Sys2Proof.Machine.Asm

/-- The catalogue formats by the spelling of R46. -/
def fmtNames : List (Text × Fmt) :=
  [ (txt "RAW64", .raw64), (txt "FP64", .fp64), (txt "FP32X2", .fp32), (txt "FP16X4", .fp16), (txt "BF16X4", .bf16),
    (txt "E4M3X8", .e4m3), (txt "E5M2X8", .e5m2), (txt "E3M2X10", .e3m2), (txt "E2M3X10", .e2m3), (txt "E2M1X16", .e2m1),
    (txt "MXINT8X8", .mxint8), (txt "INT64", .int64), (txt "INT32X2", .int32), (txt "INT16X4", .int16), (txt "INT8X8", .int8),
    (txt "UINT8X8", .uint8), (txt "INT4X16", .int4), (txt "UINT4X16", .uint4), (txt "QN4X16", .qn4), (txt "SIGNX8", .sign),
    (txt "BITMAP64", .bitmap), (txt "COORD", .coord) ]

/-- A format by its name, in any letter case (DESIGN CHOICE, log 13). -/
def fmtOf (t : Text) : Option Fmt := (fmtNames.find? fun p => lower p.1 == lower t).map Prod.snd

/-- The catalogue code of a format (R29). -/
def fmtCode (f : Fmt) : Nat := (List.range 0x16).findIdx fun c => Fmt.ofCode c == some f

/-- A value of an expression: the number, and whether a conversion in it was inexact. -/
structure Val where
  v : Int
  inexact : Bool := false
  deriving DecidableEq, Repr

/-- A value placed into a field of n bits (R49). -/
def fit (name : Text) (n : Nat) (v : Int) : Except Wrong Nat :=
  if -(2 ^ (n - 1)) ≤ v ∧ v < 2 ^ n then .ok (toBitsN n v) else .error (.field name)

/-! ## Lane values of `pack` (R49) -/

/-- A lane value as written: an exact number m * 10^e with its sign, an infinity, a NaN, or an integer. -/
inductive LaneLit where
  | real (neg : Bool) (m : Nat) (e : Int)
  | inf (neg : Bool)
  | nan (neg : Bool)
  | snan (neg : Bool)
  | int (v : Int)
  deriving DecidableEq, Repr

/-- The dyadic value that stands for m * 10^e in every rounding: exact where it is dyadic, else strictly between the same
neighbours. -/
def decDy (m : Nat) (e : Int) : Dy :=
  if m = 0 then Dy.zero
  else if 0 ≤ e then ⟨m * 10 ^ e.toNat, 0⟩
  else divMag ⟨m, 0⟩ ⟨10 ^ e.natAbs, 0⟩

/-- A finite value into a floating format or MXINT8, rounded to nearest even: the lane and whether it was inexact; none where
it overflows or saturates. -/
def laneReal (f : Fmt) (neg : Bool) (x : Dy) : Option (Nat × Bool) :=
  match f.float? with
  | some df =>
    let l := df.round false .rne 0 neg x.m.natAbs x.e
    if l.fl &&& (Flags.overflow ||| Flags.saturation) = 0 then some (l.bits, l.fl &&& Flags.inexact != 0) else none
  | none =>
    let r := roundClamp .rne 0 neg x.m.natAbs x.e (-6) (-128) 127
    if r.2 &&& Flags.saturation = 0 then some (toBitsN 8 r.1, r.2 &&& Flags.inexact != 0) else none

/-- One lane, and whether it was inexact (R49). -/
def laneOf (f : Fmt) (l : LaneLit) : Except Wrong (Nat × Bool) :=
  let whole := fun (lo hi : Int) (k : Int → Nat) => match l with
    | .int v => if lo ≤ v ∧ v ≤ hi then Except.ok (k v, false) else .error .badLane
    | _ => .error .badLane
  let opt := fun (o : Option (Nat × Bool)) => match o with
    | some r => Except.ok r
    | none => .error .badLane
  if f == .mxint8 || f.float?.isSome then
    match l with
    | .int v => opt (laneReal f (decide (v < 0)) ⟨v, 0⟩)
    | .real neg m e => opt (laneReal f neg (decDy m e))
    | .inf neg => (match f.float? with
      | some df => if df.spec = .ieee then .ok (df.infBits neg, false) else .error .badLane
      | none => .error .badLane)
    | .nan neg => (match f.float? with
      | some df => if df.spec = .none then .error .badLane else .ok (df.signBit neg + df.defaultNaN, false)
      | none => .error .badLane)
    | .snan neg => (match f.float? with
      | some df => if df.spec = .ieee then .ok (df.infBits neg + 1, false) else .error .badLane
      | none => .error .badLane)
  else if f.isInt then whole f.loVal f.hiVal (toBitsN f.laneW)
  else if f == .qn4 then whole 0 15 Int.toNat
  else if f == .sign then whole (-32) 31 fun v => 4 * toBitsN 6 v
  else if f == .coord then whole 0 (2 ^ 32 - 1) Int.toNat
  else whole (-(2 ^ 63)) (2 ^ 64 - 1) (toBitsN 64)

/-- The lanes of one word of a format: one for RAW64 and BITMAP64 (R49). -/
def lanesOf (f : Fmt) : Nat := if f == .bitmap then 1 else f.lanes
def laneWidth (f : Fmt) : Nat := if f == .bitmap then 64 else f.laneW

/-- A payload from lane values, those not given zero. -/
def packWord (f : Fmt) (ls : List LaneLit) : Except Wrong (Nat × Bool) :=
  if lanesOf f < ls.length then .error .laneCount
  else
    (ls.mapM (laneOf f)).map fun l => (packLanes (laneWidth f) (l.map Prod.fst), l.any Prod.snd)

/-! ## Expressions (R48) -/

/-- Binary operators: how tightly they bind, and what they give. -/
def binary (op : Text) : Option (Nat × (Int → Int → Except Wrong Int)) :=
  let ok := fun (f : Int → Int → Int) => fun (a b : Int) => (Except.ok (f a b) : Except Wrong Int)
  let test := fun (f : Int → Int → Bool) => ok fun a b => if f a b then 1 else 0
  let shift := fun (f : Int → Nat → Int) => fun (a b : Int) =>
    if 0 ≤ b ∧ b ≤ 127 then (Except.ok (f a b.toNat) : Except Wrong Int) else .error .badShift
  let quot := fun (f : Int → Int → Int) => fun (a b : Int) => if b = 0 then (Except.error .divZero : Except Wrong Int) else .ok (f a b)
  match op with
  | ['*'] => some (7, ok fun a b => a * b)
  | ['/'] => some (7, quot fun a b => Int.fdiv a b)
  | ['%'] => some (7, quot fun a b => Int.fmod a b)
  | ['+'] => some (6, ok fun a b => a + b)
  | ['-'] => some (6, ok fun a b => a - b)
  | ['<', '<'] => some (5, shift fun a n => a * 2 ^ n)
  | ['>', '>'] => some (5, shift fun a n => Int.fdiv a (2 ^ n))
  | ['&'] => some (4, ok fun a b => intAnd a b)
  | ['^'] => some (3, ok fun a b => intXor a b)
  | ['|'] => some (2, ok fun a b => intOr a b)
  | ['=', '='] => some (1, test fun a b => a == b)
  | ['!', '='] => some (1, test fun a b => a != b)
  | ['<'] => some (1, test fun a b => decide (a < b))
  | ['<', '='] => some (1, test fun a b => decide (a ≤ b))
  | ['>'] => some (1, test fun a b => decide (b < a))
  | ['>', '='] => some (1, test fun a b => decide (b ≤ a))
  | _ => none
where
  /-- Bitwise operators on infinite two's complement, by way of a width that holds both operands. -/
  width (a b : Int) : Nat := a.natAbs.log2 + b.natAbs.log2 + 3
  signed (w n : Nat) : Int := if n < 2 ^ (w - 1) then n else (n : Int) - 2 ^ w
  intAnd (a b : Int) : Int := let w := width a b; signed w (toBitsN w a &&& toBitsN w b)
  intXor (a b : Int) : Int := let w := width a b; signed w (toBitsN w a ^^^ toBitsN w b)
  intOr (a b : Int) : Int := let w := width a b; signed w (toBitsN w a ||| toBitsN w b)

/-- What an expression may read: the value of a symbol. -/
abbrev Look := Text → Except Wrong Val

/-- The token that did not match. -/
def stuck {α : Type} (ts : List Tok) : Except Wrong α := .error (.noMatch ((ts.head?.map Tok.show).getD []))

/-- Nothing stands behind the operands that a statement takes; else the comma before it does not match (R47). -/
def noMore (more : List (List Tok)) : Except Wrong Unit := if more.isEmpty then .ok () else .error (.noMatch (txt ","))

/-- A token taken. -/
def expect (p : String) (ts : List Tok) : Except Wrong (List Tok) :=
  match ts with
  | .punct q :: r => if q == txt p then .ok r else stuck ts
  | _ => stuck ts

/-- Expressions separated by commas, after `(`, up to `)`. -/
def exprList (e : List Tok → Except Wrong (Val × List Tok)) : Nat → List Tok → Except Wrong (List Val × List Tok)
  | 0, ts => stuck ts
  | n + 1, ts => do
    let (v, r) ← e ts
    match r with
    | .punct [','] :: r => do
      let (vs, r) ← exprList e n r
      pure (v :: vs, r)
    | _ => do
      let r ← expect ")" r
      pure ([v], r)

/-- One lane value: a real with its sign, or an expression (R49). -/
def laneLit (e : List Tok → Except Wrong (Val × List Tok)) (ts : List Tok) : Except Wrong (LaneLit × List Tok) :=
  let word := fun (neg : Bool) (ts : List Tok) => match ts with
    | .real m x :: r => some (LaneLit.real neg m x, r)
    | .name t :: r =>
      if t == txt "inf" then some (.inf neg, r) else if t == txt "nan" then some (.nan neg, r)
      else if t == txt "snan" then some (.snan neg, r) else none
    | _ => none
  let (neg, us) := match ts with
    | .punct ['-'] :: r => (true, r)
    | _ => (false, ts)
  match word neg us with
  | some p => .ok p
  | none => (e ts).map fun p => (.int p.1.v, p.2)

/-- Lane values separated by commas, up to the end or to `)`. -/
def laneLits (e : List Tok → Except Wrong (Val × List Tok)) : Nat → List Tok → Except Wrong (List LaneLit × List Tok)
  | 0, ts => stuck ts
  | n + 1, ts => do
    let (v, r) ← laneLit e ts
    match r with
    | .punct [','] :: r => do
      let (vs, r) ← laneLits e n r
      pure (v :: vs, r)
    | _ => pure ([v], r)

/-- A built-in function applied. -/
def builtin (f : Text) (e : List Tok → Except Wrong (Val × List Tok)) (ts : List Tok) : Except Wrong (Val × List Tok) :=
  if f == txt "pack" then
    match ts with
    | .name t :: r =>
      (match fmtOf t with
       | none => .error (.badFormat t)
       | some fm => do
         let (ls, r) ← (match r with
           | .punct [','] :: r => laneLits e (r.length + 1) r
           | _ => pure ([], r))
         let r ← expect ")" r
         let w ← packWord fm ls
         pure ({ v := w.1, inexact := w.2 }, r))
    | _ => stuck ts
  else do
    let (vs, r) ← exprList e (ts.length + 1) ts
    match vs with
    | [x] =>
      if f == txt "log2" then
        if 0 < x.v ∧ 2 ^ x.v.natAbs.log2 = x.v.natAbs then pure ({ x with v := x.v.natAbs.log2 }, r) else .error .notPower
      else .error (.undefined f)
    | [x, hi, lo] =>
      if f == txt "slice" then
        if 0 ≤ lo.v ∧ lo.v ≤ hi.v then
          pure ({ v := Int.fdiv x.v (2 ^ lo.v.toNat) % 2 ^ (hi.v - lo.v + 1).toNat, inexact := x.inexact || hi.inexact || lo.inexact }, r)
        else .error .badSlice
      else .error (.undefined f)
    | _ => if [txt "slice", txt "log2"].contains f then stuck r else .error (.undefined f)

/-- A primary or a unary operator applied. -/
def atom (look : Look) (e : List Tok → Except Wrong (Val × List Tok)) : Nat → List Tok → Except Wrong (Val × List Tok)
  | 0, ts => stuck ts
  | n + 1, ts =>
    match ts with
    | .num k :: r => .ok ({ v := k }, r)
    | .name f :: .punct ['('] :: r => builtin f e r
    | .name x :: r => (look x).map fun v => (v, r)
    | .punct ['('] :: r => do
      let (v, r) ← e r
      let r ← expect ")" r
      pure (v, r)
    | .punct ['-'] :: r => (atom look e n r).map fun p => ({ p.1 with v := -p.1.v }, p.2)
    | .punct ['~'] :: r => (atom look e n r).map fun p => ({ p.1 with v := -p.1.v - 1 }, p.2)
    | .punct ['!'] :: r => (atom look e n r).map fun p => ({ p.1 with v := if p.1.v = 0 then 1 else 0 }, p.2)
    | _ => stuck ts

/-- Binary operators that bind at least as tightly as `p`, grouped from the left. -/
def climb (e : Nat → List Tok → Except Wrong (Val × List Tok)) (p : Nat) : Nat → Val → List Tok → Except Wrong (Val × List Tok)
  | 0, v, ts => .ok (v, ts)
  | n + 1, v, ts =>
    match ts with
    | .punct op :: r =>
      (match binary op with
       | some (q, f) =>
         if q < p then .ok (v, ts)
         else do
           let (w, r) ← e (q + 1) r
           let x ← f v.v w.v
           climb e p n { v := x, inexact := v.inexact || w.inexact } r
       | none => .ok (v, ts))
    | _ => .ok (v, ts)

/-- An expression whose operators bind at least as tightly as `p`, nested at most `n` deep. -/
def expr (look : Look) : Nat → Nat → List Tok → Except Wrong (Val × List Tok)
  | 0, _, ts => stuck ts
  | n + 1, p, ts => do
    let (v, r) ← atom look (expr look n 0) (ts.length + 1) ts
    climb (expr look n) p (ts.length + 1) v r

/-- An expression at the head of some tokens. -/
def exprAt (look : Look) (ts : List Tok) : Except Wrong (Val × List Tok) := expr look (2 * ts.length + 2) 0 ts

/-- An expression that takes all of the tokens. -/
def exprAll (look : Look) (ts : List Tok) : Except Wrong Val := do
  let (v, r) ← exprAt look ts
  match r with
  | [] => pure v
  | _ => stuck r

/-- A `pack` among the tokens converts a value that its format does not hold exactly (R49). -/
def rounds (look : Look) : List Tok → Bool
  | [] => false
  | t :: ts =>
    (match t, ts with
     | .name f, .punct ['('] :: _ => f == txt "pack" && (match exprAt look (t :: ts) with
       | .ok (v, _) => v.inexact
       | .error _ => false)
     | _, _ => false) || rounds look ts

/-- Lane values that take all of the tokens. -/
def lanesAll (look : Look) (ts : List Tok) : Except Wrong (List LaneLit) := do
  let (v, r) ← laneLits (exprAt look) (ts.length + 1) ts
  match r with
  | [] => pure v
  | _ => stuck r

/-! ## Symbols (R48, R50) -/

/-- A symbol: its name and its expression. -/
structure Sym where
  name : Text
  toks : List Tok
  deriving DecidableEq, Repr

/-- The value of a symbol: the section's first, then the file's; one of the file reads the file's only.  Definitions lead to one
another at most `n` deep. -/
def symbol (file : List Sym) : Nat → List Sym → Look
  | 0, _, x => .error (.circular x)
  | n + 1, own, x =>
    match own.find? fun s => s.name == x with
    | some s => exprAll (symbol file n own) s.toks
    | none =>
      match file.find? fun s => s.name == x with
      | some s => exprAll (symbol file n []) s.toks
      | none => .error (.undefined x)

end Sys2Proof.Machine.Asm
end

