-- ==== Sys2Proof/Machine/AsmRule.lean ====
section
/-! DEFINITION. Rules and triggers of a tilas file as words (R47, R55, R56, with the form tables of R176, R177, R212, R213, R248,
R249, R291 and R347). -/

namespace Sys2Proof.Machine.Asm

/-! ## Mnemonics -/

/-- What the first operand of a form is. -/
inductive DstForm where
  | none
  | reg
  | pred
  | ctl
  | bind
  deriving DecidableEq, Repr

/-- The form of an instruction: its first operand, how many sources it takes, whether source A is an accumulator, the word's
format (R151), its name for modifier bit 0 (R155). -/
structure OpForm where
  dst : DstForm := .reg
  lo : Nat
  hi : Nat
  accA : Bool := false
  fmtM : Bool := false
  fmtG : Bool := false
  bit0 : String := ""
  fence : Bool := false
  deriving DecidableEq, Repr

def dForm (n : Nat) (bit0 : String := "") : OpForm := { lo := n, hi := n, bit0 := bit0 }
def pForm (bit0 : String := "") : OpForm := { dst := .pred, lo := 2, hi := 2, bit0 := bit0 }
def sForm (lo hi : Nat) : OpForm := { dst := .none, lo := lo, hi := hi }
def bForm (lo hi : Nat) (bit0 : String := "") : OpForm := { dst := .bind, lo := lo, hi := hi, bit0 := bit0 }

/-- The forms, by the opcode of the first mnemonic of each run; the others follow it in opcode order (R159). -/
def forms : List (Nat × String × OpForm) :=
  [ (0x00, "NOP", sForm 0 2), (0x01, "MOV", dForm 1), (0x02, "MOVT FORK SEL MRG SPLIT", dForm 2), (0x07, "DROP", sForm 1 1),
    (0x08, "MARK", dForm 2), (0x09, "EMIT", { lo := 0, hi := 2 }), (0x0A, "TAGS", dForm 1), (0x0B, "PSET PCLR", pForm),
    (0x0D, "CTR", dForm 2), (0x0E, "SIG", { dst := .ctl, lo := 0, hi := 2 }), (0x0F, "HALT", sForm 0 0),
    (0x20, "ADD SUB ADDS SUBS MUL MULH MULHU MAD", dForm 2 "bc"), (0x28, "NEG ABS", dForm 1),
    (0x2A, "MIN MAX MINU MAXU AND OR XOR SHL SHR SAR ROT", dForm 2 "bc"), (0x35, "CLZ POPC", dForm 1), (0x37, "BFX IDX SATN", dForm 2),
    (0x3A, "CMPEQ CMPNE CMPLT CMPLE CMPLTU CMPLEU", pForm "bc"),
    (0x40, "FADD FSUB FMUL FFMA FFMS FMIN FMAX", dForm 2 "bc"), (0x47, "FABS FNEG FCLS", dForm 1), (0x4A, "FSCL", dForm 2 "bc"),
    (0x4B, "FFRC", dForm 1), (0x4C, "FCMPEQ FCMPLT FCMPLE FCMPUN", pForm "bc"), (0x50, "FRCP FRSQ FSQRT", dForm 1),
    (0x53, "FDIV", dForm 2 "bc"), (0x54, "FEXP2 FLOG2 FSIN FCOS FTANH FRND", dForm 1), (0x5A, "FTOI ITOF", dForm 2) ] ++
  [ (0x60, "MAC MACN MACZ", { lo := 1, hi := 1, fmtM := true }), (0x63, "WLD", sForm 2 2),
    (0x64, "ACRD", { lo := 2, hi := 2, accA := true, bit0 := "sr" }), (0x65, "ACCLR", dForm 0), (0x66, "ACMV", { lo := 1, hi := 1, accA := true }),
    (0x67, "CVT", dForm 2 "sr"), (0x68, "QDEC", dForm 2), (0x69, "QENC", dForm 2 "sr"), (0x6A, "MXS", dForm 1),
    (0x6B, "PACK UNPK SHFL BCST", dForm 2), (0x6F, "RMAX RSUM RSEX", dForm 1), (0x72, "SCALE", dForm 2),
    (0x80, "LD", dForm 1), (0x81, "ST", dForm 2), (0x82, "LDS LDE", dForm 1), (0x84, "STF STE PUSH", dForm 2), (0x87, "POP", dForm 1),
    (0x88, "AMOADD AMOMIN AMOMAX AMOAND AMOOR AMOXOR AMOSWP AMOCAS FAMOADD FAMOMIN FAMOMAX", dForm 2), (0x93, "BUFQ", dForm 1),
    (0x94, "BUFSET", sForm 2 2), (0x95, "FENCE", { dst := .none, lo := 0, hi := 0, fence := true }), (0x96, "LDC", dForm 1 "ef"),
    (0x97, "STC", dForm 2 "ef"), (0x98, "CINV CWB", { lo := 1, hi := 2 }), (0x9A, "CHOLD", sForm 2 2), (0x9B, "CFREE", sForm 1 1),
    (0x9C, "LDW", dForm 1) ] ++
  [ (0xA0, "BRD.RD BRD.FL BRD.RED BRD.UPD BRD.GAT BRD.SCA BRD.LUT", bForm 1 2), (0xA7, "TBLB", bForm 2 2), (0xA8, "RIDQ RCAN", bForm 1 1),
    (0xAA, "CLAIM", dForm 0), (0xAB, "RLSE", sForm 1 1), (0xAC, "SLQ", dForm 1), (0xAD, "CPY COLL", bForm 2 2), (0xAF, "PORT", bForm 1 1),
    (0xB0, "WREM", bForm 2 2 "full"), (0xB1, "SNDM", bForm 2 2), (0xB2, "DRN", bForm 1 1), (0xB3, "CNTI", sForm 0 0),
    (0xC0, "ORI2 ORI2S ORI3 ORI3S INCR INCRS INSP INSPS SEGX SEGXS", { lo := 1, hi := 1, fmtG := true }), (0xCA, "BAND BPOS", dForm 2),
    (0xCC, "CCMP", pForm), (0xCD, "CMRG CSET CGET RTE", dForm 2),
    (0xE0, "TRAP", sForm 1 1), (0xE1, "BRK", sForm 0 0), (0xE2, "CSRR", dForm 1), (0xE3, "CSRW", sForm 2 2), (0xE4, "FRZ THAW", dForm 2),
    (0xE6, "SNAP", dForm 1), (0xE7, "TLBI CFGW", dForm 2), (0xE9, "CANC PERF TIME", dForm 1), (0xEC, "IDLE", sForm 0 1),
    (0xED, "ATTN", sForm 1 1), (0xEE, "LOG", sForm 2 2) ]

/-- Every mnemonic in upper case with its opcode and form. -/
def mnemonics : List (Text × Nat × OpForm) :=
  (forms.map fun r => ((txt r.2.1).splitOn ' ').zipIdx.map fun p => (lower p.1, r.1 + p.2, r.2.2)).flatten

/-- A mnemonic with its suffixes: opcode, form and the suffixes left (R44, R56). -/
def mnemonicOf (name : Text) (sfx : List Text) : Option (Nat × OpForm × List Text) :=
  let find := fun (t : Text) => (mnemonics.find? fun p => p.1 == lower t).map Prod.snd
  match sfx with
  | s :: rest =>
    (match find (name ++ '.' :: s) with
     | some p => some (p.1, p.2, rest)
     | none => (find name).map fun p => (p.1, p.2, sfx))
  | [] => (find name).map fun p => (p.1, p.2, [])

/-- A symbol that spells a reserved name; BRD alone, which is no mnemonic without its suffix, is free (R45; DESIGN CHOICE,
log 13). -/
def isReserved (t : Text) : Bool :=
  let t := lower t
  isReservedWord t || (mnemonics.any fun p => p.1 == t) || fmtNames.any fun p => lower p.1 == t

/-! ## Operands (R56, R152-R154, R176) -/

/-- A destination code (R153). -/
def dstCode (t : Text) : Option Nat :=
  let t := lower t
  (indexed "g" 8 t) <|> ((indexed "o" 4 t).map (8 + ·)) <|> ((indexed "a" 4 t).map (16 + ·)) <|> ((indexed "m" 4 t).map (20 + ·)) <|>
    (if t == txt "o01" then some 12 else if t == txt "o23" then some 13 else if t == txt "oall" then some 14
     else if t == txt "z" then some 15 else none)

/-- A source code (R152). -/
def srcCode (ts : List Tok) : Option Nat :=
  match ts with
  | [.name t, .punct ['!']] => (indexed "g" 8 (lower t)).map (8 + ·)
  | [.name t] =>
    let t := lower t
    (indexed "g" 8 t) <|> ((indexed "k" 8 t).map (16 + ·)) <|> ((indexed "i" 4 t).map (24 + ·)) <|>
      (if t == txt "z" then some 28 else if t == txt "one" then some 29 else if t == txt "bt" then some 30
       else if t == txt "cx" then some 31 else none)
  | _ => none

/-- Splits at commas outside parentheses. -/
def splitToks : Nat → List Tok → List (List Tok)
  | _, [] => [[]]
  | d, t :: ts =>
    if t == .punct [','] && d == 0 then [] :: splitToks d ts
    else
      let d' := if t == .punct ['('] then d + 1 else if t == .punct [')'] then d - 1 else d
      match splitToks d' ts with
      | [] => [[t]]
      | a :: as => (t :: a) :: as

/-- The operands of a statement. -/
def items (ts : List Tok) : List (List Tok) := if ts.isEmpty then [] else splitToks 0 ts

/-- The suffix `.wAxB`: the two pairing codes (R156). -/
def pairingOf (s : Text) : Option (Nat × Nat) :=
  let width := fun (t : Text) => (numOf 10 false false 0 t).bind fun n => [2, 4, 6, 8, 12, 16, 24, 53].idxOf? n
  match s with
  | 'w' :: r => (match r.splitOn 'x' with
    | [a, b] => (width a).bind fun x => (width b).map fun y => (x, y)
    | _ => none)
  | _ => none

/-- The scopes of FENCE (R155). -/
def scopes : List Text := [txt "elem", txt "sec", txt "qtr", txt "dev", txt "dom"]

/-- What the suffixes write: modifier bits and, for format M, the pairing (R56). -/
structure Sfx where
  m : Nat := 0
  pair : Option (Nat × Nat) := none
  scope : Option Nat := none
  deriving DecidableEq, Repr

/-- The suffixes of an instruction whose sources have the codes given. -/
def suffixes (f : OpForm) (a b : Option Nat) : List Text → Except Wrong Sfx
  | [] => .ok {}
  | s :: ss => do
    if ss.contains s then .error (.badSuffix s) else pure ()
    let r ← suffixes f a b ss
    let ch := fun (o : Option Nat) => match o with
      | some c => decide (24 ≤ c) && decide (c ≤ 27)
      | none => false
    let bit := fun (n : Nat) => if r.m / 2 ^ n % 2 = 1 then Except.error (.badSuffix s) else .ok { r with m := r.m + 2 ^ n }
    if f.fence then
      match scopes.idxOf? s with
      | some n => if r.scope.isNone then .ok { r with m := n, scope := some n } else .error (.badSuffix s)
      | none => .error (.badSuffix s)
    else if f.fmtG then
      if s == txt "stg" then bit 2 else if s == txt "nfm" then bit 1 else if s == txt "m0" then bit 0 else .error (.badSuffix s)
    else if s == txt "pka" then (if ch a then bit (if f.fmtM then 1 else 2) else .error .peek)
    else if s == txt "pkb" && !f.fmtM then (if ch b then bit 1 else .error .peek)
    else if s == txt "m0" || (f.bit0 != "" && s == txt f.bit0) then bit 0
    else
      match if f.fmtM then pairingOf s else none with
      | some p => if r.pair.isNone then .ok { r with pair := some p } else .error (.badSuffix s)
      | none => .error (.badSuffix s)

/-- The names of the bindings of a section. -/
abbrev Ports := List (Text × Nat)

/-- A number from `lo` to `hi`. -/
def rangeAt (look : Look) (name : String) (lo hi : Nat) (ts : List Tok) : Except Wrong Nat :=
  (exprAll look ts).bind fun v => if (lo : Int) ≤ v.v ∧ v.v ≤ hi then .ok v.v.toNat else .error (.field (txt name))

/-- The first operand. -/
def dstField (look : Look) (ports : Ports) (f : DstForm) (ts : List Tok) : Except Wrong Nat :=
  let opt := fun (o : Option Nat) => match o with
    | some n => Except.ok n
    | none => .error .operand
  match f, ts with
  | .none, _ => .ok 15
  | .reg, [.name t] => opt (dstCode t)
  | .pred, [.name t] => opt (indexed "p" 8 (lower t))
  | .ctl, [.name t] => opt (indexed "co" 4 (lower t))
  | .bind, ts =>
    let e := rangeAt look "binding" 0 31 ts
    (match ts with
     | [.name t] => (match ports.find? fun p => p.1 == t with
       | some p => .ok p.2
       | none => e)
     | _ => e)
  | _, ts => stuck ts

/-- A source operand. -/
def srcField (acc : Bool) (ts : List Tok) : Except Wrong Nat :=
  let o := if acc then (match ts with
    | [.name t] => indexed "a" 4 (lower t)
    | _ => none) else srcCode ts
  match o with
  | some n => .ok n
  | none => .error .operand

/-- The word of a rule but for its trigger, with `trig` in that field (R56, R151-R157, R175). -/
def ruleWord (look : Look) (ports : Ports) (name : Text) (sfx : List Text) (ops : List (List Tok)) (trig : Nat) :
    Except Wrong (BitVec 32 × Instr) := do
  match mnemonicOf name sfx with
  | none => .error (.noMatch name)
  | some (op, f, sfx) =>
    let srcs := if f.dst = .none then ops else ops.drop 1
    if f.dst ≠ .none ∧ ops.isEmpty then stuck [] else pure ()
    let d ← dstField look ports f.dst (ops.headD [])
    let cs ← (srcs.take f.hi).zipIdx.mapM fun p => srcField (f.accA && p.2 == 0) p.1
    if srcs.length < f.lo then stuck [] else noMore (srcs.drop f.hi)
    let s ← suffixes f cs[0]? cs[1]? (sfx.map lower)
    let a := cs.getD 0 28
    let b := cs.getD 1 28
    let p := s.pair.getD (7, 7)
    let w : Fields :=
      if f.fmtM then { t := trig, op := op, d := d, a := a, b := 4 * p.1 + p.2 / 2, m := 4 * (p.2 % 2) + s.m }
      else if f.fmtG then { t := trig, op := op, d := d, a := a, b := 0, m := s.m }
      else { t := trig, op := op, d := d, a := a, b := b, m := s.m }
    let w := BitVec.ofNat 32 w.toWord
    match decode w with
    | .ok i => .ok (w, i)
    | .error _ => .error .operand

/-- A rule as read: slot, label, mnemonic, suffixes, operands, and the trigger reference if it has one (R47). -/
structure RuleText where
  slot : Nat
  label : Text
  name : Text
  sfx : List Text
  ops : List (List Tok)
  on_ : Option (List Tok)
  deriving DecidableEq, Repr

/-- The suffixes at the head of some tokens. -/
def takeDots : List Tok → List Text × List Tok
  | .dot s :: ts => let r := takeDots ts; (s :: r.1, r.2)
  | ts => ([], ts)

/-- The tokens before the word `on`, and after it. -/
def splitOnWord : List Tok → List Tok × Option (List Tok)
  | [] => ([], none)
  | .name t :: ts => if lower t == txt "on" then ([], some ts) else let r := splitOnWord ts; (.name t :: r.1, r.2)
  | t :: ts => let r := splitOnWord ts; (t :: r.1, r.2)

/-- A rule statement, none where the tokens do not begin one. -/
def ruleText (ts : List Tok) : Option RuleText :=
  match ts with
  | .name s :: .name l :: .punct [':'] :: .name m :: rest =>
    (indexed "s" 32 (lower s)).map fun n =>
      let p := takeDots rest
      let q := splitOnWord p.2
      { slot := n, label := l, name := m, sfx := p.1, ops := items q.1, on_ := q.2 }
  | _ => none

/-! ## Triggers (R55) -/

/-- The fields of a trigger entry (R162), with what has been given. -/
structure Trg where
  pmask : Nat := 0
  pval : Nat := 0
  rmask : Nat := 0
  cmask : Nat := 0
  cond : List (Option Nat) := [none, none, none, none]
  tag : Option Nat := none
  n : Option Nat := none
  pset : Nat := 0
  pclr : Nat := 0
  space : Option Nat := none
  deriving DecidableEq, Repr

/-- The entry (R162). -/
def Trg.word (t : Trg) : BitVec 64 :=
  BitVec.ofNat 64 (t.pmask + 2 ^ 8 * t.pval + 2 ^ 16 * t.rmask + 2 ^ 24 * t.cmask + 2 ^ 28 * packLanes 3 (t.cond.map fun c => c.getD 0) +
    2 ^ 40 * t.tag.getD 0 + 2 ^ 43 * t.n.getD 0 + 2 ^ 46 * t.pset + 2 ^ 54 * t.pclr + 2 ^ 62 * t.space.getD 0)

/-- A bit added to a mask. -/
def withBit (m n : Nat) : Nat := if m / 2 ^ n % 2 = 1 then m else m + 2 ^ n

/-- The condition codes of a channel, in order (R55). -/
def condNames : List Text := [txt "ignore", txt "data", txt "mark", txt "eos", txt "head", txt "tail", txt "drain", txt "tag"]

/-- One predicate tested for a value; one tested for both values is refused (DESIGN CHOICE, log 13). -/
def Trg.test (t : Trg) (n : Nat) (v : Bool) : Except Wrong Trg :=
  if n = 7 ∧ v = false then .error .badTrigger
  else if t.pmask / 2 ^ n % 2 = 1 ∧ t.pval / 2 ^ n % 2 ≠ (if v then 1 else 0) then .error .badTrigger
  else .ok { t with pmask := withBit t.pmask n, pval := if v then withBit t.pval n else t.pval }

/-- One condition or effect of a trigger. -/
def trigItem (look : Look) (t : Trg) (ts : List Tok) : Except Wrong Trg :=
  let pred := fun (w : Text) (k : Nat → Except Wrong Trg) => match indexed "p" 8 (lower w) with
    | some n => k n
    | none => stuck [.name w]
  match ts with
  | [.punct ['!'], .name w] => pred w fun n => t.test n false
  | [.name a, .name b] =>
    if a == txt "have" then
      (match indexed "g" 8 (lower b) with
       | some n => .ok { t with rmask := withBit t.rmask n }
       | none => stuck [.name b])
    else if a == txt "set" then pred b fun n => .ok { t with pset := withBit t.pset n }
    else if a == txt "clr" then pred b fun n => .ok { t with pclr := withBit t.pclr n }
    else stuck ts
  | [.name w] =>
    (match indexed "c" 4 (lower w) with
     | some n => .ok { t with cmask := withBit t.cmask n }
     | none => pred w fun n => t.test n true)
  | .name key :: .punct ['='] :: v =>
    if key == txt "tag" then (if t.tag.isSome then .error (.twice key) else do
      let n ← rangeAt look "tag" 0 7 v
      pure { t with tag := some n })
    else if key == txt "n" then (if t.n.isSome then .error (.twice key) else do
      let x ← exprAll look v
      match [1, 2, 4, 8, 16, 32].idxOf? x.v with
      | some k => pure { t with n := some k }
      | none => .error (.field key))
    else if key == txt "space" then
      (match v with
       | [.name w] =>
         if t.space.isSome then .error (.twice key)
         else (match [txt "dst", txt "out", txt "both"].idxOf? w with
           | some k => .ok { t with space := some (k + 1) }
           | none => stuck v)
       | _ => stuck v)
    else
      (match indexed "i" 4 (lower key), v with
       | some n, [.name w] =>
         (match condNames.idxOf? w with
          | some c => if ((t.cond[n]?).getD none).isSome then .error (.twice key) else .ok { t with cond := t.cond.set n (some c) }
          | none => stuck v)
       | _, _ => stuck ts)
  | _ => stuck ts

/-- A trigger from its conditions (R55). -/
def trigOf (look : Look) (l : List (List Tok)) : Except Wrong Trg := do
  let t ← l.foldlM (trigItem look) ({} : Trg)
  if t.pset &&& t.pclr ≠ 0 then .error .badTrigger
  else if t.cond.contains (some 7) && t.tag.isNone then .error .badTrigger
  else pure t

end Sys2Proof.Machine.Asm
end

