-- ==== Sys2Proof/Machine/AsmSection.lean ====
section
/-! DEFINITION. A section of a tilas file as the assembler reads it (R53-R57, R60). -/

namespace Sys2Proof.Machine.Asm

/-- A statement: its line and its tokens. -/
structure Stmt where
  line : Line
  toks : List Tok
  deriving DecidableEq, Repr

def Stmt.note (s : Stmt) (w : Wrong) : Note := { file := s.line.file, line := s.line.no, what := w }

/-- The directive that a statement begins with, in lower case without its dot; empty for anything else. -/
def Stmt.dir (s : Stmt) : Text :=
  match s.toks with
  | .dot d :: _ => lower d
  | _ => []

/-- The operands behind the directive. -/
def Stmt.args (s : Stmt) : List (List Tok) := items (s.toks.drop 1)

/-- The name that a directive defines. -/
def Stmt.defines (s : Stmt) : Option Text :=
  match s.args.head? with
  | some (.name n :: _) => some n
  | _ => none

/-- Operand `k` read by `f`; where it ends too early, the comma behind it does not match, or the end of the line (R47). -/
def Stmt.arg {α : Type} (s : Stmt) (k : Nat) (f : List Tok → Except Wrong α) : Except Wrong α :=
  match s.args[k]? with
  | none => stuck []
  | some ts =>
    match f ts with
    | .error (.noMatch []) => .error (.noMatch (if k + 1 < s.args.length then txt "," else []))
    | r => r

/-- The result of an attempt, with a message where it fails. -/
def attempt {α : Type} (s : Stmt) (d : α) (e : Except Wrong α) : α × List Note :=
  match e with
  | .ok a => (a, [])
  | .error w => (d, [s.note w])

/-- A key with its value, or a bare word. -/
def keyOf (ts : List Tok) : Except Wrong (Text × Option (List Tok)) :=
  match ts with
  | [.name k] => .ok (k, none)
  | .name k :: .punct ['='] :: v => .ok (k, some v)
  | _ => stuck ts

/-- Keys of which each stands once and is among those that take a value, with it, or among the bare words, alone (R47,
R59). -/
def keysOf (vals words : List String) (l : List (List Tok)) : Except Wrong (List (Text × Option (List Tok))) := do
  let ks ← l.mapM keyOf
  match ks.find? fun k => !((if k.2.isSome then vals else words).map txt).contains k.1 with
  | some k => .error (.noMatch k.1)
  | none =>
    match (ks.zipIdx.find? fun p => (ks.take p.2).any fun q => q.1 == p.1.1) with
    | some p => .error (.twice p.1.1)
    | none => .ok ks

/-- Keys of one of the forms of a statement, each a list of keys that all stand: the first key that the form of the first one
does not have does not match, else the end of the line (R47). -/
def formOf {α : Type} (ks : List (Text × Option (List Tok))) (forms : List (List String)) : Except Wrong α :=
  let own := (forms.map fun f => f.map txt).find? fun f => (ks.head?.map fun k => f.contains k.1).getD false
  .error (.noMatch (((ks.find? fun k => !(own.getD []).contains k.1).map Prod.fst).getD []))

/-- The value of a key. -/
def valueOf (ks : List (Text × Option (List Tok))) (k : String) : Option (List Tok) :=
  (ks.find? fun p => p.1 == txt k).bind Prod.snd

/-- The word is given. -/
def flagOf (ks : List (Text × Option (List Tok))) (k : String) : Bool := ks.any fun p => p.1 == txt k

/-- A number for a field of n bits. -/
def numAt (look : Look) (name : String) (n : Nat) (ts : List Tok) : Except Wrong Nat :=
  (exprAll look ts).bind fun v => fit (txt name) n v.v

/-- A number of a key that may be absent. -/
def numKey (look : Look) (ks : List (Text × Option (List Tok))) (k : String) (n d : Nat) : Except Wrong Nat :=
  match valueOf ks k with
  | some ts => numAt look k n ts
  | none => .ok d

/-- A word of a list as its place in it. -/
def wordAt (names : List String) (ts : List Tok) : Except Wrong Nat :=
  match ts with
  | [.name w] =>
    (match (names.map txt).idxOf? w with
     | some n => .ok n
     | none => stuck ts)
  | .name w :: r => if (names.map txt).contains w then stuck r else stuck ts
  | _ => stuck ts

/-- A name alone. -/
def nameAt (ts : List Tok) : Except Wrong Text :=
  match ts with
  | [.name w] => .ok w
  | .name _ :: r => stuck r
  | _ => stuck ts

/-- `lo .. hi`, or one value (R47). -/
def spanAt (look : Look) (ts : List Tok) : Except Wrong ((Nat × Nat) × List Tok) := do
  let (a, r) ← exprAt look ts
  let (b, r) ← (match r with
    | .punct ['.', '.'] :: r => exprAt look r
    | _ => pure (a, r))
  if 0 ≤ a.v ∧ a.v ≤ b.v then pure ((a.v.toNat, b.v.toNat), r) else .error (.field (txt "range"))

/-- A span that takes all of the tokens. -/
def spanAll (look : Look) (ts : List Tok) : Except Wrong (Nat × Nat) := do
  let (p, r) ← spanAt look ts
  match r with
  | [] => pure p
  | _ => stuck r

/-- `t(range, range)` at the head of some tokens. -/
def tileAt (look : Look) (ts : List Tok) : Except Wrong (((Nat × Nat) × (Nat × Nat)) × List Tok) :=
  match ts with
  | .name t :: .punct ['('] :: r =>
    if lower t == txt "t" then do
      let (ys, r) ← spanAt look r
      let r ← expect "," r
      let (xs, r) ← spanAt look r
      let r ← expect ")" r
      pure ((ys, xs), r)
    else stuck ts
  | _ => stuck ts

/-- The numbers of a span. -/
def spanList (p : Nat × Nat) : List Nat := (List.range (p.2 + 1 - p.1)).map fun i => p.1 + i

/-! ## Names of a section (R50) -/

/-- What is known of a section before its lines are read in order: its symbols, bindings, buffers and waves. -/
structure Env where
  file : List Sym := []
  own : List Sym := []
  ports : Ports := []
  binds : List BindCfg := List.replicate 32 {}
  bufNames : List (Text × Nat) := []
  bufs : List BufCfg := List.replicate 64 {}
  /-- Waves: name and own, predecessor, successor numbers. -/
  waves : List (Text × Nat × Nat × Nat) := []
  /-- Slot and trigger names of each element, by `elemKey`. -/
  inner : Assoc (List Text) := []
  rows : Nat := 0
  cols : Nat := 0
  deriving Repr

def Env.look (e : Env) : Look := symbol e.file (e.file.length + e.own.length + 1) e.own

/-- Elements are kept by row and column. -/
def elemKey (row col : Nat) : Nat := 128 * row + col

/-- A name of the element's own scope, which hides the section's and the file's (R50). -/
def Env.hidden (e : Env) (row col : Nat) (x : Text) : Bool := (Assoc.getD e.inner (elemKey row col) []).contains x

/-- The same within an element, where `ey` and `ex` stand for its place (R54) and a slot's or trigger's name for nothing
that has a value (R50). -/
def Env.lookIn (e : Env) (row col : Nat) : Look := fun x =>
  if lower x == txt "ey" then .ok { v := row } else if lower x == txt "ex" then .ok { v := col }
  else if e.hidden row col x then .error (.undefined x) else e.look x

/-- The bindings that a rule of an element can name. -/
def Env.portsIn (e : Env) (row col : Nat) : Ports := e.ports.filter fun p => !e.hidden row col p.1

/-- Names defined in one scope: those reserved or defined already are refused (R45, R50). -/
def scopeNotes : List Text → List (Stmt × Text) → List Note
  | _, [] => []
  | seen, (s, n) :: rest =>
    (if isReserved n then [s.note (.reserved n)] else if seen.contains n then [s.note (.twice n)] else []) ++ scopeNotes (n :: seen) rest

/-- Names that hide one of an outer scope (R50). -/
def hideNotes (outer : List Text) (l : List (Stmt × Text)) : List Note :=
  l.filterMap fun p => if outer.contains p.2 then some (p.1.note (.hides p.2)) else none

/-- Statements that define a name in the section. -/
def sectionDefs (body : List Stmt) : List (Stmt × Text) :=
  body.filterMap fun s => if [txt "equ", txt "port", txt "buffer", txt "wave"].contains s.dir then s.defines.map fun n => (s, n) else none

/-- A symbol's definition. -/
def symOf (s : Stmt) : Except Wrong Sym :=
  do
    let n ← s.arg 0 nameAt
    let e ← s.arg 1 fun ts => if ts.isEmpty then stuck [] else .ok ts
    let _ ← noMore (s.args.drop 2)
    pure { name := n, toks := e }

/-- The kinds as tilas writes them (R167). -/
def kindNames : List String := ["host", "sweep", "deep", "copy", "collective", "remote", "sequencer", "slot"]

/-- A `.port` line (R53). -/
def Env.port (e : Env) (s : Stmt) : Except Wrong Env := do
  let name ← s.arg 0 nameAt
  let i ← s.arg 1 (rangeAt e.look "index" 0 31)
  let k ← s.arg 2 (wordAt kindNames)
  let kind := ImgSrc.bindKind (k + 1)
  let more := s.args.drop 3
  let stack ← if more.isEmpty ∨ kind ≠ .sweep then pure 0 else s.arg 3 (rangeAt e.look "target" 0 11)
  noMore (if kind = .sweep then more.drop 1 else more)
  if (e.ports.any fun p => p.2 == i) then .error (.twice name) else pure ()
  pure { e with ports := e.ports ++ [(name, i)], binds := e.binds.set i { kind := kind, stack := stack } }

/-- A `.buffer` line (R53, R113). -/
def Env.buffer (e : Env) (s : Stmt) : Except Wrong Env :=
  do
    let name ← s.arg 0 nameAt
    let ks ← keysOf ["id", "tile", "base", "size"] [] (s.args.drop 1)
    match valueOf ks "id", valueOf ks "tile", valueOf ks "base", valueOf ks "size" with
    | some id, some tile, some base, some size => do
      let i ← rangeAt e.look "id" 0 63 id
      let ((ys, xs), r) ← tileAt e.look tile
      if r.isEmpty then pure () else stuck r
      let b ← numAt e.look "base" 32 base
      let z ← numAt e.look "size" 32 size
      if 255 < ys.2 ∨ 255 < xs.2 then .error (.field (txt "tile")) else pure ()
      if (e.bufNames.any fun p => p.2 == i) then .error (.twice name) else pure ()
      pure { e with bufNames := e.bufNames ++ [(name, i)],
                    bufs := e.bufs.set i { valid := true, row := ys.1, col := xs.1, rows := ys.2 + 1 - ys.1, cols := xs.2 + 1 - xs.1, base := b, size := z } }
    | _, _, _, _ => stuck []

/-- The own number of a `.wave` line, with the names of its neighbours. -/
def Env.wave (e : Env) (s : Stmt) : Except Wrong (Text × Nat × Option Text × Option Text) :=
  do
    let name ← s.arg 0 nameAt
    let ks ← keysOf ["own", "pred", "succ"] [] (s.args.drop 1)
    let other := fun (k : String) => match valueOf ks k with
      | some ts => (nameAt ts).map some
      | none => .ok none
    let p ← other "pred"
    let q ← other "succ"
    match valueOf ks "own" with
    | some ts => (rangeAt e.look "own" 0 255 ts).map fun n => (name, n, p, q)
    | none => stuck []

/-- A `.shape` line (R53). -/
def Env.shape (e : Env) (s : Stmt) : Except Wrong Env := do
  let r ← s.arg 0 (rangeAt e.look "rows" 1 16)
  let c ← s.arg 1 (rangeAt e.look "cols" 1 16)
  noMore (s.args.drop 2)
  if e.rows ≠ 0 then .error (.twice (txt "shape")) else pure ()
  pure { e with rows := r, cols := c }

/-- The first pass over a section: its names, bindings, buffers, waves and shape, with what is wrong (R50). -/
def Env.collect (file : List Sym) (body : List Stmt) : Env × List Note :=
  let pick := fun (d : String) => body.filter fun s => s.dir == txt d
  let run := fun (d : String) (f : Env → Stmt → Except Wrong Env) (p : Env × List Note) =>
    (pick d).foldl (fun p s => let q := attempt s p.1 (f p.1 s); (q.1, p.2 ++ q.2)) p
  let syms := (pick "equ").map fun s => attempt s ({ name := [], toks := [] } : Sym) (symOf s)
  let others := (body.filter fun s => [txt "port", txt "buffer", txt "wave"].contains s.dir).filterMap Stmt.defines
  let e : Env := { file := file, own := syms.map Prod.fst ++ others.map fun n => { name := n, toks := [] } }
  let checked := (pick "equ").map fun s => match symOf s with
    | .ok y => (attempt s ({ v := 0 } : Val) (e.look y.name)).2
    | .error _ => []
  let p := run "shape" Env.shape (e, (syms.map Prod.snd).flatten ++ checked.flatten)
  let p := run "buffer" Env.buffer (run "port" Env.port p)
  let ws := (pick "wave").map fun s => (s, p.1.wave s)
  let own := fun (n : Text) => ws.findSome? fun w => match w.2 with
    | .ok x => if x.1 == n then some x.2.1 else none
    | .error _ => none
  ws.foldl (fun p w => match w.2 with
    | .error x => (p.1, p.2 ++ [w.1.note x])
    | .ok (n, o, a, b) =>
      let num := fun (k : Option Text) => match k with
        | none => Except.ok o
        | some m => (match own m with
          | some v => .ok v
          | none => .error (Wrong.undefined m))
      (match num a, num b with
       | .ok x, .ok y => ({ p.1 with waves := p.1.waves ++ [(n, o, x, y)] }, p.2)
       | .error x, _ => (p.1, p.2 ++ [w.1.note x])
       | _, .error x => (p.1, p.2 ++ [w.1.note x]))) p

/-! ## Elements (R53-R56) -/

/-- What the lines read so far give an element. -/
structure ElemDef where
  cfg : ElemCfg := {}
  m01 : Option Nat := none
  m23 : Option Nat := none
  slots : Assoc (BitVec 32) := []
  desc : Assoc (BitVec 32) := []
  trig : Assoc (BitVec 64) := []
  /-- k-registers: source byte and value. -/
  ks : Assoc (Nat × Word) := []
  labels : List Text := []
  trigs : List (Text × Nat) := []
  deriving DecidableEq, Repr

/-- The section under construction. -/
structure Build where
  elems : Assoc ElemDef := []
  /-- The elements selected, none before the first selection. -/
  sel : Option (List Nat) := none
  pal : Assoc Nat := []
  roles : Assoc Role := []
  routes : List (Stmt × Route) := []
  later : List (Stmt × List Nat) := []
  notes : List Note := []
  deriving Repr

def Build.say (b : Build) (s : Stmt) (w : Wrong) : Build := { b with notes := b.notes ++ [s.note w] }

/-- A line applied to elements: what goes wrong in several of them is said once. -/
def Build.onElems (b : Build) (s : Stmt) (keys : List Nat) (f : Nat → Nat → ElemDef → Except Wrong (ElemDef × List Wrong)) : Build :=
  let r := keys.foldl (fun (p : Assoc ElemDef × List Wrong) k =>
    match f (k / 128) (k % 128) (Assoc.getD p.1 k {}) with
    | .ok (x, ws) => (p.1.set k x, p.2 ++ ws.filter fun w => !p.2.contains w)
    | .error w => (p.1, if p.2.contains w then p.2 else p.2 ++ [w])) (b.elems, [])
  { b with elems := r.1, notes := b.notes ++ (r.2.map s.note).filter fun n => !b.notes.contains n }

/-- The same for the elements selected; a line before any selection is refused (R54). -/
def Build.onSel (b : Build) (s : Stmt) (f : Nat → Nat → ElemDef → Except Wrong (ElemDef × List Wrong)) : Build :=
  match b.sel with
  | none => b.say s .place
  | some keys => b.onElems s keys f

/-- A mode given once more must be the same (R54). -/
def sameMode (key : String) (old : Option Nat) (new : Option Nat) : Except Wrong (Option Nat) :=
  match old, new with
  | some a, some b => if a = b then .ok old else .error (.twice (txt key))
  | some _, none => .ok old
  | none, n => .ok n

/-- The inputs that `whole=` names. -/
def wholeOf : List Tok → Except Wrong (BitVec 4)
  | [] => .ok 0
  | .name t :: ts =>
    (match indexed "i" 4 (lower t) with
     | some n => (wholeOf ts).map fun w => w ||| BitVec.ofNat 4 (2 ^ n)
     | none => stuck (.name t :: ts))
  | ts => stuck ts

/-- An `.element` line (R53, R54). -/
def Build.element (e : Env) (b : Build) (s : Stmt) : Build :=
  let parse : Except Wrong (List Nat × (Nat → Nat → ElemDef → Except Wrong (ElemDef × List Wrong))) :=
    do
      let y ← s.arg 0 (spanAll e.look)
      let x ← s.arg 1 (spanAll e.look)
      let more := s.args.drop 2
      if 8 * e.rows ≤ y.2 ∨ 8 * e.cols ≤ x.2 then .error .place else pure ()
      let all ← more.mapM keyOf
      let whole := all.filter fun k => k.1 == txt "whole"
      let ks ← keysOf ["i01", "i23"] ["systolic", "gated"] (more.filter fun ts => ts.head? != some (.name (txt "whole")))
      let mode := fun (k : String) => match valueOf ks k with
        | some ts => (wordAt ["off", "intersect", "union", "leftjoin"] ts).map some
        | none => .ok none
      let a ← mode "i01"
      let c ← mode "i23"
      let w ← whole.foldlM (fun w p => match p.2 with
        | some (t :: ts) => (wholeOf (t :: ts)).map fun v => w ||| v
        | _ => .error (.noMatch (txt "whole"))) (0 : BitVec 4)
      pure ((spanList y).flatMap fun r => (spanList x).map fun q => elemKey r q,
        fun _ _ d => do
          let m ← sameMode "i01" d.m01 a
          let n ← sameMode "i23" d.m23 c
          pure ({ d with m01 := m, m23 := n, cfg := { systolic := d.cfg.systolic || flagOf ks "systolic", gated := d.cfg.gated || flagOf ks "gated", m01 := m.getD 0, m23 := n.getD 0, whole := d.cfg.whole ||| w } }, []))
  match parse with
  | .error w => b.say s w
  | .ok (keys, f) => ({ b with sel := some keys }).onElems s keys f

/-- A `.const` line (R53): a value, or the launch argument it takes. -/
def Build.const (e : Env) (b : Build) (s : Stmt) : Build :=
  let head : Except Wrong (Text × Nat) := do
    let k ← s.arg 0 nameAt
    match indexed "k" 8 (lower k) with
    | none => .error (.noMatch k)
    | some n => pure (k, n)
  match head with
  | .error w => b.say s w
  | .ok (k, n) =>
    b.onSel s fun row col d =>
      if (Assoc.get? d.ks n).isSome then .error (.twice k)
      else do
        let r ← s.arg 1 fun v => match v with
          | .name a :: .punct ['('] :: r =>
            if lower a == txt "arg" then do
              let r ← (if r.getLast? == some (.punct [')']) then pure r.dropLast else stuck r)
              let j ← rangeAt (e.lookIn row col) "arg" 0 3 r
              pure ({ d with ks := d.ks.set n (j + 1, 0) }, [])
            else value row col d n k v
          | _ => value row col d n k v
        let _ ← noMore (s.args.drop 2)
        pure r
where
  value (row col : Nat) (d : ElemDef) (n : Nat) (k : Text) (v : List Tok) : Except Wrong (ElemDef × List Wrong) := do
    let x ← exprAll (e.lookIn row col) v
    let w ← fit k 64 x.v
    pure ({ d with ks := d.ks.set n (0, BitVec.ofNat 64 w) }, if x.inexact then [.inexact] else [])

/-- The lowest `n` numbers below `top` that a register file does not hold. -/
def freeBelow {α : Type} (top : Nat) (m : Assoc α) : List Nat := (List.range top).filter fun i => (Assoc.get? m i).isNone

/-- A `.trigger` line (R55). -/
def Build.trigger (e : Env) (b : Build) (s : Stmt) : Build :=
  match s.args with
  | (.name t :: ix) :: conds =>
    b.onSel s fun row col d => do
      if isReserved t then .error (.reserved t) else pure ()
      if d.labels.contains t || d.trigs.any fun p => p.1 == t then .error (.twice t) else pure ()
      let look := e.lookIn row col
      let n ← s.arg 0 fun _ => (match ix with
        | [] => (match freeBelow 64 d.trig with
          | n :: _ => .ok n
          | [] => .error .noRoom)
        | .punct ['='] :: v => rangeAt look "trigger" 0 63 v
        | _ => stuck ix)
      if (Assoc.get? d.trig n).isSome then .error (.twice t) else pure ()
      let g ← trigOf look conds
      pure ({ d with trig := d.trig.set n g.word, trigs := d.trigs ++ [(t, n)] }, [])
  | _ => match (s.arg 0 nameAt) with
    | .error w => b.say s w
    | .ok t => b.say s (.noMatch t)

/-- A slot by its number. -/
def slotOf (ts : List Tok) : Except Wrong Nat :=
  match ts with
  | [.name t] =>
    (match indexed "s" 32 (lower t) with
     | some n => .ok n
     | none => stuck ts)
  | .name t :: r => if (indexed "s" 32 (lower t)).isSome then stuck r else stuck ts
  | _ => stuck ts

/-- A `.slot` line (R53, R165); without `stamp=` it has stamp none (DESIGN CHOICE, log 13: R53 gives no default). -/
def Build.slot (e : Env) (b : Build) (s : Stmt) : Build :=
  let parse : Except Wrong (Nat × Text × BitVec 32) :=
    do
      let n ← s.arg 0 slotOf
      let ks ← keysOf ["wave", "stamp"] ["ordered"] (s.args.drop 1)
      let st ← (match valueOf ks "stamp" with
        | some ts => wordAt ["none", "wave"] ts
        | none => .ok 0)
      match valueOf ks "wave" with
      | some ts => do
        let w ← nameAt ts
        match e.waves.find? fun p => p.1 == w with
        | some (_, own, p, q) =>
          pure (n, w, BitVec.ofNat 32 (own + 2 ^ 8 * p + 2 ^ 16 * q + (if flagOf ks "ordered" then 2 ^ 24 else 0) + 2 ^ 25 * st))
        | none => .error (.undefined w)
      | none => stuck []
  match parse with
  | .error w => b.say s w
  | .ok (n, x, w) =>
    b.onSel s fun row col d =>
      if e.hidden row col x then .error (.undefined x)
      else if (Assoc.get? d.desc n).isSome then .error (.twice (txt "s" ++ digits n)) else .ok ({ d with desc := d.desc.set n w }, [])

/-- A `.palette` line (R28, R53). -/
def Build.palette (e : Env) (b : Build) (s : Stmt) : Build :=
  let parse : Except Wrong (Nat × Nat) :=
    do
      let t ← s.arg 0 (rangeAt e.look "tag" 0 7)
      let n ← s.arg 1 nameAt
      let ks ← keysOf [] ["mx"] (s.args.drop 2)
      match fmtOf n with
      | some f => pure (t, fmtCode f + if ks.isEmpty then 0 else 32)
      | none => .error (.badFormat n)
  match parse with
  | .error w => b.say s w
  | .ok (t, c) => if (Assoc.get? b.pal t).isSome then b.say s (.twice (digits t)) else { b with pal := b.pal.set t c }

/-- An `.mtile` line (R53). -/
def Build.mtile (e : Env) (b : Build) (s : Stmt) : Build :=
  let parse : Except Wrong (List Nat × Role) :=
    do
      let (ys, xs) ← s.arg 0 fun tl => do
        let ((ys, xs), r) ← tileAt e.look tl
        if r.isEmpty then pure (ys, xs) else stuck r
      let ks ← keysOf ["role"] [] ((s.args.drop 1).take 1)
      let _ ← noMore (s.args.drop 2)
      if 4 * e.rows ≤ ys.2 ∨ 4 * e.cols ≤ xs.2 then .error .place else pure ()
      match valueOf ks "role" with
      | some ts => do
        let k ← wordAt ["AB", "TF", "CB"] ts
        pure ((spanList ys).flatMap fun y => (spanList xs).map fun x => y * (4 * e.cols) + x, if k = 0 then .ab else if k = 1 then .tf else .cb)
      | none => stuck []
  match parse with
  | .error w => b.say s w
  | .ok (ts, r) =>
    if ts.any fun t => match Assoc.get? b.roles t with
        | some q => q != r
        | none => false
      then b.say s (.twice (txt "role")) else { b with roles := ts.foldl (fun m t => m.set t r) b.roles }

/-! ## Routes (R57, R169) -/

/-- A channel by its name (R169). -/
def channelOf (t : Text) : Option Nat :=
  let t := lower t
  (indexed "i" 4 t) <|> ((indexed "o" 4 t).map (4 + ·)) <|> ((indexed "c" 4 t).map (8 + ·)) <|> ((indexed "co" 4 t).map (12 + ·))

/-- An endpoint at the head of some tokens. -/
def endpointAt (e : Env) (ts : List Tok) : Except Wrong (Endpoint × List Tok) :=
  match ts with
  | .name w :: .dot p :: r =>
    if lower w == txt "port" then
      match e.ports.find? fun q => q.1 == p with
      | some q => .ok (.port q.2, r)
      | none => .error (.undefined p)
    else stuck ts
  | .name w :: .punct ['('] :: r =>
    if lower w == txt "e" then do
      let (y, r) ← exprAt e.look r
      let r ← expect "," r
      let (x, r) ← exprAt e.look r
      let r ← expect ")" r
      match r with
      | .dot c :: r =>
        (match channelOf c with
         | some n => if 0 ≤ y.v ∧ y.v < 8 * e.rows ∧ 0 ≤ x.v ∧ x.v < 8 * e.cols then .ok (.chan y.v.toNat x.v.toNat n, r) else .error .place
         | none => .error (.noMatch c))
      | _ => stuck r
    else do
      let ((ys, xs), r) ← tileAt e.look ts
      if ys.1 ≠ ys.2 ∨ xs.1 ≠ xs.2 ∨ 4 * e.rows ≤ ys.1 ∨ 4 * e.cols ≤ xs.1 then .error .place else pure ()
      pure (.tile (ys.1 * (4 * e.cols) + xs.1), r)
  | _ => stuck ts

/-- A `.route` line (R57). -/
def Build.route (e : Env) (b : Build) (s : Stmt) : Build :=
  let parse : Except Wrong Route :=
    match s.args with
    | path :: more => do
      let (src, r) ← endpointAt e path
      let r ← expect "->" r
      let (dst, r) ← endpointAt e r
      if r.isEmpty then pure () else stuck r
      let ks ← keysOf ["admit", "divert", "turn"] [] more
      let m ← numKey e.look ks "admit" 8 0xFF
      let dv ← (match valueOf ks "divert" with
        | some ts => do
          let (d, r) ← endpointAt e ts
          if r.isEmpty then pure d else stuck r
        | none => pure Endpoint.none)
      let tn ← (match valueOf ks "turn" with
        | some ts => do
          let v ← exprAll e.look ts
          if v.v = 8 ∨ v.v = 16 ∨ v.v = 32 then pure v.v.toNat else .error (.field (txt "turn"))
        | none => pure 0)
      let chan := fun (x : Endpoint) => match x with
        | .chan _ _ _ => true
        | _ => false
      if (b.routes.any fun q => (chan src && q.2.src == src) || (chan dst && q.2.dst == dst)) then .error .routed else pure ()
      pure { src := src, dst := dst, admits := BitVec.ofNat 8 m, turn := tn, divert := dv }
    | [] => stuck []
  match parse with
  | .error w => b.say s w
  | .ok r => { b with routes := b.routes ++ [(s, r)] }

/-! ## Rules and the pairing (R54, R56, R60) -/

/-- A rule line put into an element. -/
def putRule (e : Env) (r : RuleText) (row col : Nat) (d : ElemDef) : Except Wrong (ElemDef × List Wrong) := do
  let look := e.lookIn row col
  if isReserved r.label then .error (.reserved r.label) else pure ()
  if (Assoc.get? d.slots r.slot).isSome || d.labels.contains r.label || d.trigs.any fun p => p.1 == r.label then .error (.twice r.label) else pure ()
  let t ← (match r.on_ with
    | none => if (Assoc.get? d.trig r.slot).isSome then .ok r.slot else .error .noTrigger
    | some ts =>
      let v := rangeAt look "trigger" 0 63 ts
      (match ts with
       | [.name x] => (match d.trigs.find? fun p => p.1 == x with
         | some p => .ok p.2
         | none => v)
       | _ => v))
  let (w, i) ← ruleWord look (e.portsIn row col) r.name r.sfx r.ops t
  if d.cfg.gated && namesUpper (useOf i) then .error .gated else pure ()
  if (useOf i).burst && sndmLoose d.cfg w then .error .operand else pure ()
  pure ({ d with slots := d.slots.set r.slot w, labels := d.labels ++ [r.label] }, [])

/-- The three rows of the pairing: what is to arrive on the two inputs, and the rule (R60, R192). -/
def pairRows (a b o : Nat) : List (Nat × Nat × Fields) :=
  [(3, 3, { t := 0, op := 0x09, d := 8 + o, a := 24 + a, b := 24 + b, m := 0 }),
   (3, 1, { t := 0, op := 0x07, d := 15, a := 24 + b, b := 28, m := 0 }),
   (1, 3, { t := 0, op := 0x07, d := 15, a := 24 + a, b := 28, m := 0 })]

/-- A `.pairdrain` line put into an element. -/
def putPair (a b o : Nat) (base : Option Nat) (d : ElemDef) : Except Wrong (ElemDef × List Wrong) := do
  let free := freeBelow 32 d.slots
  let slots ← (match base with
    | some k => if [k, k + 1, k + 2].all free.contains then .ok [k, k + 1, k + 2] else .error .noRoom
    | none => if free.length < 3 then .error .noRoom else .ok (free.drop (free.length - 3)))
  let trigs := freeBelow 64 d.trig
  if trigs.length < 3 then .error .noRoom else pure ()
  let rows := (slots.zip trigs).zip (pairRows a b o)
  pure (rows.foldl (fun d p =>
    let w : Fields := { p.2.2.2 with t := p.1.2 }
    let g : Trg := { cond := (([none, none, none, none] : List (Option Nat)).set a (some p.2.1)).set b (some p.2.2.1) }
    { d with slots := d.slots.set p.1.1 (BitVec.ofNat 32 w.toWord), trig := d.trig.set p.1.2 g.word }) d, [])

/-- The inputs, the output and the base of a `.pairdrain` line. -/
def pairOf (s : Stmt) : Except Wrong (Nat × Nat × Nat × Option Nat) := do
  let chan := fun (stem : String) (ts : List Tok) => do
    let x ← nameAt ts
    match indexed stem 4 (lower x) with
    | some n => pure n
    | none => stuck ts
  let a ← s.arg 0 (chan "i")
  let b ← s.arg 1 (chan "i")
  let o ← s.arg 2 (chan "o")
  if a = b then .error .operand else pure ()
  let ks ← keysOf ["base"] [] (s.args.drop 3)
  let k ← (match valueOf ks "base" with
    | none => pure none
    | some ts => (slotOf ts).map some)
  match k with
  | some n => if 31 < n + 2 then .error .noRoom else pure (a, b, o, k)
  | none => pure (a, b, o, k)

/-! ## The section -/

/-- A warning where a `pack` of the line rounds, for any of the elements it applies to (R49). -/
def Build.warn (e : Env) (b : Build) (s : Stmt) : Build :=
  let inElem := s.dir.isEmpty || [txt "const", txt "trigger"].contains s.dir
  let looks := if inElem then (b.sel.getD []).map fun k => e.lookIn (k / 128) (k % 128) else [e.look]
  if looks.any fun look => rounds look s.toks then b.say s .inexact else b

/-- One line in order; rules and pairings are kept for the end. -/
def Build.line (e : Env) (b : Build) (s : Stmt) : Build :=
  let b := b.warn e s
  let d := s.dir
  if d == txt "element" then b.element e s
  else if d == txt "const" then b.const e s
  else if d == txt "trigger" then b.trigger e s
  else if d == txt "slot" then b.slot e s
  else if d == txt "palette" then b.palette e s
  else if d == txt "mtile" then b.mtile e s
  else if d == txt "route" then b.route e s
  else if [txt "equ", txt "port", txt "buffer", txt "wave", txt "shape"].contains d then b
  else
    match b.sel with
    | none => b.say s .place
    | some keys => { b with later := b.later ++ [(s, keys)] }

/-- The rules, behind them the pairings that name their slots, and then those that choose among what is left (R60); of
several of a kind the first line comes first (DESIGN CHOICE, log 13). -/
def Build.finish (e : Env) (b : Build) : Build :=
  let isPair := fun (p : Stmt × List Nat) => p.1.dir == txt "pairdrain"
  let placed := fun (p : Stmt × List Nat) => decide (3 < p.1.args.length)
  let b := (b.later.filter fun p => !isPair p).foldl (fun b p =>
    match ruleText p.1.toks with
    | some r => b.onElems p.1 p.2 (putRule e r)
    | none => b.say p.1 (.noMatch ((p.1.toks.head?.map Tok.show).getD []))) b
  ((b.later.filter fun p => isPair p && placed p) ++ b.later.filter fun p => isPair p && !placed p).foldl (fun b p =>
    match pairOf p.1 with
    | .ok (x, y, z, k) => b.onElems p.1 p.2 fun _ _ d => putPair x y z k d
    | .error w => b.say p.1 w) b

/-- The element record of what the lines gave (R168). -/
def recOf (p : Nat × ElemDef) : ElemRec where
  row := p.1 / 128
  col := p.1 % 128
  cfg := p.2.cfg
  slots := p.2.slots
  desc := p.2.desc.filter fun d => d.2 != 0
  trig := p.2.trig
  ksrc := (List.range 8).map fun j => (Assoc.getD p.2.ks j (0, 0)).1
  k := (List.range 8).map fun j => (Assoc.getD p.2.ks j (0, 0)).2

/-- What the `.section` line sets: rounding mode, flush, seed (R53). -/
def headOf (look : Look) (s : Stmt) : Except Wrong (Nat × Bool × Nat) := do
  let ks ← keysOf ["round", "seed"] ["flush"] (s.args.drop 1)
  let r ← (match valueOf ks "round" with
    | some ts => wordAt ["RNE", "RTZ", "RUP", "RDN"] ts
    | none => .ok 0)
  let v ← numKey look ks "seed" 32 1
  pure (r, flagOf ks "flush", v)

/-- The name that a line of an element defines. -/
def Stmt.innerName (s : Stmt) : Option Text :=
  if s.dir == txt "trigger" then s.defines else (ruleText s.toks).map RuleText.label

/-- The elements that a selection names, as far as it can be read. -/
def Env.selected (e : Env) (s : Stmt) : List Nat :=
  match s.args with
  | ys :: xs :: _ =>
    (match spanAll e.look ys, spanAll e.look xs with
     | .ok y, .ok x => if y.2 < 8 * e.rows ∧ x.2 < 8 * e.cols then (spanList y).flatMap fun r => (spanList x).map fun q => elemKey r q else []
     | _, _ => [])
  | _ => []

/-- The slot and trigger names of each element, wherever in the section they stand (R50). -/
def Env.names (e : Env) (body : List Stmt) : Env :=
  (body.foldl (fun (p : Env × List Nat) s =>
    if s.dir == txt "element" then (p.1, e.selected s)
    else match s.innerName with
      | some n => ({ p.1 with inner := p.2.foldl (fun m k => m.set k (n :: Assoc.getD m k [])) p.1.inner }, p.2)
      | none => p) (e, [])).1

/-- A section: its record, and what is wrong in it.  A tile that no `.mtile` line names has role AB (DESIGN CHOICE, log 13: no
rule gives a default). -/
def sectionOf (file : List Sym) (outer : List Text) (head : Stmt) (body : List Stmt) : SecCfg × List (Text × Nat) × List Note :=
  let (e, notes) := Env.collect file body
  let e := e.names body
  let defs := sectionDefs body
  let own := defs.map Prod.snd
  let hd := attempt head (0, false, 1) (headOf (symbol file (file.length + 1) []) head)
  let shape := if e.rows = 0 then [head.note .place] else []
  let b := (body.foldl (Build.line e) ({ } : Build)).finish e
  let inner := body.filterMap fun s => s.innerName.map fun n => (s, n)
  let c : SecCfg :=
    { rows := e.rows, cols := e.cols, mode := hd.1.1, flush := hd.1.2.1, seed := BitVec.ofNat 32 hd.1.2.2
      pal := BitVec.ofNat 64 (packLanes 8 ((List.range 8).map fun j => Assoc.getD b.pal j 0x1F))
      roles := (List.range (16 * e.rows * e.cols)).map fun t => Assoc.getD b.roles t .ab
      routes := b.routes.map Prod.snd, binds := e.binds, bufs := e.bufs, elems := b.elems.map recOf, window := false }
  let ends := b.routes.filterMap fun r =>
    match r.2.src with
    | .tile t => if c.role t = .tf then none else some (r.1.note .noRole)
    | _ =>
      if ImgSrc.endGood c true r.2.src && ImgSrc.endGood c false r.2.dst && ImgSrc.divertGood c r.2.divert &&
        (ImgSrc.isControl r.2.src == ImgSrc.isControl r.2.dst) then none else some (r.1.note .operand)
  (c, e.bufNames, notes ++ hd.2 ++ shape ++ scopeNotes [] defs ++ hideNotes outer defs ++ hideNotes (outer ++ own) inner ++ b.notes ++ ends)

end Sys2Proof.Machine.Asm
end

