-- ==== Sys2Proof/Machine/Asm.lean ====
section
/-! DEFINITION. The tilas assembler: a file's text to a version 3 image and messages (R43-R60). -/

namespace Sys2Proof.Machine.Asm

/-! ## The file in blocks (R50, R58) -/

/-- Where the next line stands. -/
inductive Ctx where
  | top
  | sec
  | graph
  deriving DecidableEq, Repr

/-- The file's parts; sections and graphs each with their lines. -/
structure Outline where
  ctx : Ctx := .top
  secs : List (Stmt × List Stmt) := []
  graphs : List (Stmt × List Stmt) := []
  rings : List Stmt := []
  equs : List Stmt := []
  /-- Data lines, each with the section in which it stands. -/
  data : List (Stmt × Option Nat) := []
  notes : List Note := []
  deriving Repr

def Outline.say (o : Outline) (s : Stmt) (w : Wrong) : Outline := { o with notes := o.notes ++ [s.note w] }

/-- Lines of a section, and of a graph. -/
def sectionDirs : List Text :=
  [txt "shape", txt "element", txt "palette", txt "const", txt "trigger", txt "slot", txt "mtile", txt "route", txt "port", txt "buffer",
   txt "wave", txt "pairdrain"]
def graphDirs : List Text := [txt "node", txt "edge"]

/-- The last block with a line more. -/
def addLast (l : List (Stmt × List Stmt)) (s : Stmt) : List (Stmt × List Stmt) :=
  listUpd l (l.length - 1) fun p => (p.1, p.2 ++ [s])

def Outline.addSec (o : Outline) (s : Stmt) : Outline :=
  if o.ctx = .sec then { o with secs := addLast o.secs s } else o.say s .place

/-- One line put where it belongs. -/
def Outline.add (o : Outline) (s : Stmt) : Outline :=
  let d := s.dir
  let open_ := fun (o : Outline) => if o.ctx = .sec then o.say s .place else o
  if d == txt "section" then let o := open_ o; { o with ctx := .sec, secs := o.secs ++ [(s, [])] }
  else if d == txt "endsec" then (if o.ctx ≠ .sec then o.say s .place
    else
      let o := match s.toks[1]? with
        | some t => o.say s (.noMatch t.show)
        | none => o
      { o with ctx := .top })
  else if d == txt "graph" then let o := open_ o; { o with ctx := .graph, graphs := o.graphs ++ [(s, [])] }
  else if d == txt "ring" then { o with rings := o.rings ++ [s] }
  else if d == txt "data" then { o with data := o.data ++ [(s, if o.ctx = .sec then some (o.secs.length - 1) else none)] }
  else if d == txt "equ" then (if o.ctx = .sec then o.addSec s else { o with equs := o.equs ++ [s] })
  else if graphDirs.contains d then (if o.ctx = .graph then { o with graphs := addLast o.graphs s } else o.say s .place)
  else if sectionDirs.contains d || (d.isEmpty && (ruleText s.toks).isSome) then o.addSec s
  else o.say s (.noMatch ((s.toks.head?.map Tok.show).getD []))

/-! ## Regions (R58) -/

/-- A `.ring` line. -/
def ringOf (look : Look) (s : Stmt) : Except Wrong RingDef := do
  do
    let _ ← s.arg 0 nameAt
    let ks ← keysOf ["size", "class"] ["sealed"] (s.args.drop 1)
    let c ← (match valueOf ks "class" with
      | some ts => wordAt ["quick", "steady", "deep"] ts
      | none => .ok 3)
    match valueOf ks "size" with
    | some ts => do
      let n ← rangeAt look "size" 1 (2 ^ 64 - 1) ts
      if n % 65536 ≠ 0 then .error (.field (txt "size")) else pure { size := n, cls := c, sealed := flagOf ks "sealed" }
    | none => stuck []

/-! ## Graphs (R58, R59, R77, R170) -/

/-- An argument: its value, and the region whose base is to be added. -/
abbrev Arg := Nat × Option Nat

inductive NodeDef where
  | arm (sec tiles : Nat) (args : List Arg) (snapshot : Bool)
  | waitFor (node : Text)
  | waitCount (counter threshold : Nat)
  | count (counter addend : Nat)
  | post (value : Nat)
  | loop (node : Text) (count : Nat)
  | fin
  deriving DecidableEq, Repr

/-- A node of a graph: its line, its name; an inserted WAIT has none. -/
structure NodeLine where
  stmt : Stmt
  name : Text
  node : NodeDef
  deriving DecidableEq, Repr

/-- An argument expression: a region's name stands for its base, which only one region may give and only added once. -/
def argOf (look : Look) (rings : List Text) (ts : List Tok) : Except Wrong Arg := do
  let at_ := fun (r : Nat) (v : Int) => exprAll (fun x => match rings.idxOf? x with
    | some k => .ok { v := if k = r then v else 0 }
    | none => look x) ts
  let zero ← at_ rings.length 0
  let used ← (List.range rings.length).filterMapM fun r => do
    let a ← at_ r 1
    let b ← at_ r (2 ^ 40)
    if a.v = zero.v ∧ b.v = zero.v then pure none
    else if a.v = zero.v + 1 ∧ b.v = zero.v + 2 ^ 40 then pure (some r)
    else .error (.field (txt "args"))
  let v ← fit (txt "args") 64 zero.v
  match used with
  | [] => pure (v, none)
  | [r] => pure (v, some r)
  | _ => .error (.field (txt "args"))

/-- The arguments in parentheses: four, those not given zero. -/
def argsAt (look : Look) (rings : List Text) (ts : List Tok) : Except Wrong (List Arg) := do
  let inner ← (match ts with
    | .punct ['('] :: r => if r.getLast? == some (.punct [')']) then pure r.dropLast else stuck ts
    | _ => stuck ts)
  let l ← (items inner).mapM (argOf look rings)
  let _ ← noMore ((items inner).drop 4)
  pure (l ++ List.replicate (4 - l.length) (0, none))

/-- A `.node` line (R59). -/
def nodeOf (look : Look) (rings secs : List Text) (s : Stmt) : Except Wrong NodeLine := do
  do
    let name ← s.arg 0 nameAt
    let k ← s.arg 1 (wordAt ["ARM", "WAIT", "SIGNAL", "LOOP", "END"])
    let d ← (match k, s.args.drop 2 with
      | 0, _ :: more => do
        let w ← s.arg 2 nameAt
        let i ← (match secs.idxOf? w with
          | some i => .ok i
          | none => .error (Wrong.undefined w))
        let ks ← keysOf ["tiles", "args"] ["snapshot"] more
        let t ← numKey look ks "tiles" 32 0
        let a ← (match valueOf ks "args" with
          | some ts => argsAt look rings ts
          | none => .ok (List.replicate 4 (0, none)))
        pure (NodeDef.arm i t a (flagOf ks "snapshot"))
      | 1, more => do
        let ks ← keysOf ["launch", "counter", "threshold"] [] more
        match valueOf ks "launch", valueOf ks "counter", valueOf ks "threshold" with
        | some l, none, none => (nameAt l).map .waitFor
        | none, some c, some t => do
          let c ← rangeAt look "counter" 0 63 c
          let t ← numAt look "threshold" 64 t
          pure (.waitCount c t)
        | _, _, _ => formOf ks [["launch"], ["counter", "threshold"]]
      | 2, more => do
        let ks ← keysOf ["counter", "add", "post"] [] more
        match valueOf ks "counter", valueOf ks "add", valueOf ks "post" with
        | some c, some a, none => do
          let c ← rangeAt look "counter" 0 63 c
          let a ← numAt look "add" 64 a
          pure (.count c a)
        | none, none, some p => (numAt look "post" 64 p).map .post
        | _, _, _ => formOf ks [["post"], ["counter", "add"]]
      | 3, more => do
        let ks ← keysOf ["target", "count"] [] more
        match valueOf ks "target", valueOf ks "count" with
        | some t, some c => do
          let t ← nameAt t
          let c ← rangeAt look "count" 1 (2 ^ 32 - 1) c
          pure (.loop t c)
        | _, _ => stuck []
      | 4, more => (noMore more).map fun _ => .fin
      | _, _ => stuck [])
    pure { stmt := s, name := name, node := d }

/-- The node of a name is an ARM. -/
def isArm (l : List NodeLine) (n : Text) : Bool :=
  l.any fun x => x.name == n && match x.node with
    | .arm _ _ _ _ => true
    | _ => false

/-- An `.edge` line: its two nodes, in an order that is allowed (R58). -/
def edgeOf (l : List NodeLine) (s : Stmt) : Except Wrong (Stmt × Text × Text) := do
  do
    let f ← s.arg 0 nameAt
    let t ← s.arg 1 nameAt
    noMore (s.args.drop 2)
    match l.findIdx? fun x => x.name == f, l.findIdx? fun x => x.name == t with
    | none, _ => .error (.undefined f)
    | _, none => .error (.undefined t)
    | some i, some j => if isArm l f ∧ i < j then pure (s, f, t) else .error .node

/-- The WAIT of an edge put directly before its node; of several before one node, in the order of their lines (DESIGN CHOICE,
log 13: R58 gives none). -/
def insertWait (l : List NodeLine) (e : Stmt × Text × Text) : List NodeLine :=
  let i := l.findIdx fun x => x.name == e.2.2
  l.take i ++ { stmt := e.1, name := [], node := .waitFor e.2.1 } :: l.drop i

/-- The record of node `i`, with `arms` ARM nodes before it (R77). -/
def nodeBytes (l : List NodeLine) (i arms : Nat) (x : NodeLine) : Except Wrong (List Byte) :=
  let before := fun (n : Text) (top : Nat) (k : Nat → List Byte) =>
    match l.findIdx? fun y => y.name == n with
    | some j => if j < top then Except.ok (k j) else .error .node
    | none => .error (.undefined n)
  match x.node with
  | .arm s t _ snap =>
    .ok (bytesOfNat 1 1 ++ bytesOfNat 1 (if snap then 1 else 0) ++ bytesOfNat 2 s ++ bytesOfNat 2 1 ++ zeros 2 ++ bytesOfNat 4 t ++
      bytesOfNat 4 (32 * arms) ++ zeros 16)
  | .waitFor n => if isArm (l.take i) n then before n i fun j => bytesOfNat 2 2 ++ bytesOfNat 2 j ++ zeros 28 else .error .node
  | .waitCount c t => .ok (bytesOfNat 2 0x102 ++ bytesOfNat 2 c ++ zeros 4 ++ bytesOfNat 8 t ++ zeros 16)
  | .count c a => .ok (bytesOfNat 2 3 ++ bytesOfNat 2 c ++ zeros 4 ++ bytesOfNat 8 a ++ zeros 16)
  | .post v => .ok (bytesOfNat 2 0x103 ++ zeros 6 ++ bytesOfNat 8 v ++ zeros 16)
  | .loop n c => before n (i + 1) fun j => bytesOfNat 2 4 ++ bytesOfNat 2 j ++ bytesOfNat 4 c ++ zeros 24
  | .fin => .ok (bytesOfNat 1 5 ++ zeros 31)

/-- A graph: its record, the patches of its arguments, what is wrong. -/
def graphOf (look : Look) (rings secs : List Text) (g : Nat) (head : Stmt) (body : List Stmt) : Graph × List PatchDef × List Note :=
  let q := attempt head 0 (do
    let ks ← keysOf ["quarter"] [] (head.args.drop 1)
    match valueOf ks "quarter" with
    | some ts => rangeAt look "quarter" 0 3 ts
    | none => stuck [])
  let ns := (body.filter fun s => s.dir == txt "node").map fun s => (s, nodeOf look rings secs s)
  let lines := ns.filterMap fun p => p.2.toOption
  let bad := ns.filterMap fun p => match p.2 with
    | .error w => some (p.1.note w)
    | .ok _ => none
  let es := (body.filter fun s => s.dir == txt "edge").map fun s => (s, edgeOf lines s)
  let badEdge := es.filterMap fun p => match p.2 with
    | .error w => some (p.1.note w)
    | .ok _ => none
  let all := (es.filterMap fun p => p.2.toOption).foldl insertWait lines
  let arms := fun (i : Nat) => ((all.take i).filter fun x => match x.node with
    | .arm _ _ _ _ => true
    | _ => false).length
  let bytes := all.zipIdx.map fun p => attempt p.1.stmt (zeros 32) (nodeBytes all p.2 (arms p.2) p.1)
  let args := all.filterMap fun x => match x.node with
    | .arm _ _ a _ => some a
    | _ => none
  let patches := (all.zipIdx.map fun p => match p.1.node with
    | .arm _ _ a _ => a.zipIdx.filterMap fun x => x.1.2.map fun r => ({ graph := g, node := p.2, arg := x.2, ring := r } : PatchDef)
    | _ => []).flatten
  ({ quarter := q.1, nodes := bytes.map Prod.fst ++ [bytesOfNat 1 5 ++ zeros 31]
     args := args.map fun a => a.map fun x => BitVec.ofNat 64 x.1 },
   patches, q.2 ++ bad ++ scopeNotes [] (lines.map fun x => (x.stmt, x.name)) ++ badEdge ++ (bytes.map Prod.snd).flatten)

/-! ## Data (R58, R170) -/

/-- Lists of at most `n` values each. -/
def chunks {α : Type} (n : Nat) : Nat → List α → List (List α)
  | 0, _ => []
  | _, [] => []
  | k + 1, l => l.take n :: chunks n k (l.drop n)

/-- A section as the data lines see it: its record, its buffers by name, and the names of its scope. -/
abbrev SecView := SecCfg × List (Text × Nat) × List Text

/-- The target of a data line; another name of the section hides a region's (R50).  Its kind, index, section, how many bytes it holds, and the tokens that give the offset. -/
def targetOf (look : Look) (rings : List (Text × RingDef)) (secs : List SecView) (sec : Option Nat) (ts : List Tok) :
    Except Wrong (Nat × Nat × Nat × Nat × List Tok) :=
  let here := (sec.bind fun i => secs[i]?.map fun v => (i, v))
  match ts with
  | .name t :: .punct ['('] :: _ =>
    if lower t == txt "t" then
      match here with
      | none => .error .place
      | some (i, c, _) => do
        let ((ys, xs), r) ← tileAt look ts
        if ys.1 ≠ ys.2 ∨ xs.1 ≠ xs.2 ∨ 4 * c.rows ≤ ys.1 ∨ 4 * c.cols ≤ xs.1 then .error .place else pure ()
        pure (1, ys.1 * (4 * c.cols) + xs.1, i, 2 ^ 18, r)
    else stuck ts
  | .name n :: r =>
    match here.bind fun p => (p.2.2.1.find? fun b => b.1 == n).map fun b => (p.1, b.2, p.2.1) with
    | some (i, b, c) => .ok (2, b, i, ((c.bufs[b]?).getD ({ } : BufCfg)).size, r)
    | none =>
      if (here.map fun p => p.2.2.2.contains n).getD false then .error (.undefined n)
      else match rings.findIdx? fun p => p.1 == n with
      | some k => .ok (0, k, 0, ((rings[k]?).map fun p => p.2.size).getD 0, r)
      | none => .error (.undefined n)
  | _ => stuck ts

/-- A data line: its records, and whether a value was inexact (R49, R58). -/
def dataOf (look : Look) (rings : List (Text × RingDef)) (secs : List SecView) (sec : Option Nat) (s : Stmt) : Except Wrong (List DataDef × Bool) := do
  do
    let ((kind, idx, sc, room), off) ← s.arg 0 fun tg => do
      let (kind, idx, sc, room, r) ← targetOf look rings secs sec tg
      match r with
      | [] => pure ((kind, idx, sc, room), 0)
      | .punct ['+'] :: r => (numAt look "offset" 64 r).map fun n => ((kind, idx, sc, room), n)
      | _ => stuck r
    let fn ← s.arg 1 nameAt
    let more := s.args.drop 2
    let f ← (match fmtOf fn with
      | some f => .ok f
      | none => .error (.badFormat fn))
    let isStride := fun (ts : List Tok) => match ts with
      | .name k :: .punct ['='] :: _ => k == txt "stride"
      | _ => false
    let stride ← (match more.getLast? with
      | some (.name k :: .punct ['='] :: v) => if k == txt "stride" then rangeAt look "stride" 8 (2 ^ 63) v else pure 8
      | _ => pure 8)
    let vals := if (more.getLast?.map isStride).getD false then more.dropLast else more
    if vals.isEmpty then (match more.head? with
      | some ts => stuck ts
      | none => stuck []) else pure ()
    if off % 8 ≠ 0 then .error (.field (txt "offset")) else pure ()
    if stride % 8 ≠ 0 then .error (.field (txt "stride")) else pure ()
    let ls ← vals.mapM fun ts => do
      let l ← lanesAll look ts
      match l with
      | [x] => pure x
      | _ => stuck ts
    let ws ← (chunks (lanesOf f) ls.length ls).mapM (packWord f)
    if room < off + stride * (ws.length - 1) + 8 then .error .beyond else pure ()
    let words := ws.map Prod.fst
    let recs := if stride = 8 then [{ kind := kind, idx := idx, sec := sc, off := off, words := words }]
      else words.zipIdx.map fun p => ({ kind := kind, idx := idx, sec := sc, off := off + stride * p.2, words := [p.1] } : DataDef)
    pure (recs, ws.any Prod.snd)

/-- The words that a data record writes: of a region, or of a tile of a section. -/
def placesOf (secs : List SecView) (d : DataDef) : List (Nat × Nat × Nat) :=
  (List.range d.words.length).map fun w =>
    if d.kind = 0 then (0, d.idx, d.off + 8 * w)
    else
      let t := ImgSrc.tileWord (((secs[d.sec]?).map Prod.fst).getD (SecCfg.mk 1 1 0 false 0 0 [] [] [] [] [] false []))
        { kind := d.kind, idx := d.idx, sec := d.sec, len := 8 * d.words.length, off := d.off, at_ := 0 } w
      (d.sec + 1, t.1, t.2)

/-- The data lines in order, each against those before it. -/
def dataAll (look : Option Nat → Look) (rings : List (Text × RingDef)) (secs : List SecView) :
    List (Stmt × Option Nat) → List (Nat × Nat × Nat) → List DataDef × List Note
  | [], _ => ([], [])
  | (s, sec) :: rest, seen =>
    match dataOf (look sec) rings secs sec s with
    | .error w => let r := dataAll look rings secs rest seen; (r.1, s.note w :: r.2)
    | .ok (ds, warn) =>
      let warn := warn || rounds (look sec) s.toks
      let ps := (ds.map (placesOf secs)).flatten
      let r := dataAll look rings secs rest (ps ++ seen)
      (ds ++ r.1, (if warn then [s.note .inexact] else []) ++ (if ps.any seen.contains then [s.note .overlap] else []) ++ r.2)

/-! ## The whole -/

/-- A message that stops no image (R51). -/
def Note.warns (n : Note) : Bool :=
  match n.what with
  | .inexact => true
  | .hides _ => true
  | _ => false

/-- Lines as statements; what is no token is reported (R44). -/
def statements (ls : List Line) : List Stmt × List Note :=
  ls.foldr (fun l p => match tokens l.text with
    | .ok [] => p
    | .ok ts => ({ line := l, toks := ts } :: p.1, p.2)
    | .error w => (p.1, { file := l.file, line := l.no, what := w } :: p.2)) ([], [])

/-- What a file says, and the messages (R50, R51). -/
def partsOf (files : List (Text × Text)) (main : Text) : Parts × List Note :=
  let (lines, macs, n0) := readFile files main
  let (stmts, n1) := statements lines
  let o := stmts.foldl Outline.add ({ } : Outline)
  let n2 := o.notes ++ (if o.ctx = .sec then (o.secs.getLast?.map fun p => [p.1.note .place]).getD [] else [])
  let defs := macs.map (fun m => (({ line := m.at_, toks := [] } : Stmt), m.name)) ++
    (o.equs ++ o.rings ++ o.secs.map Prod.fst ++ o.graphs.map Prod.fst).filterMap fun s => s.defines.map fun n => (s, n)
  let unnamed := (o.rings ++ o.secs.map Prod.fst ++ o.graphs.map Prod.fst).filterMap fun s =>
    match s.args.head? with
    | some [.name _] => none
    | some ts => some (s.note (.noMatch (((ts.drop 1).head?.map Tok.show).getD [])))
    | none => some (s.note (.noMatch []))
  let syms := o.equs.map fun s => attempt s ({ name := [], toks := [] } : Sym) (symOf s)
  let file := syms.map Prod.fst
  let look := symbol file (file.length + 1) []
  let n3 := scopeNotes [] defs ++ unnamed ++ (syms.map Prod.snd).flatten ++ (o.equs.map fun s => match symOf s with
    | .ok y => (attempt s ({ v := 0 } : Val) (look y.name)).2
    | .error _ => []).flatten
  let names := fun (l : List (Stmt × List Stmt)) => l.map fun p => (p.1.defines).getD []
  let rings := o.rings.map fun s => (s.defines.getD [], attempt s ({ size := 0, cls := 3, sealed := false } : RingDef) (ringOf look s))
  let ringNames := rings.map Prod.fst
  let secs := o.secs.map fun p => sectionOf file (defs.map Prod.snd) p.1 p.2
  let graphs := o.graphs.zipIdx.map fun p => graphOf look ringNames (names o.secs) p.2 p.1.1 p.1.2
  let secLook := fun (i : Option Nat) => match i.bind fun i => o.secs[i]? with
    | some p => (Env.collect file p.2).1.look
    | none => look
  let data := dataAll secLook (rings.map fun r => (r.1, r.2.1)) ((secs.zip o.secs).map fun p => (p.1.1, p.1.2.1, (sectionDefs p.2.2).map Prod.snd)) o.data []
  let atBase : Look := fun x => if ringNames.contains x then .ok { v := 0 } else look x
  let whole := o.equs ++ o.rings ++ (o.secs ++ o.graphs).map Prod.fst ++ (o.graphs.map Prod.snd).flatten
  let n4 := (whole.filter fun s => rounds atBase s.toks).map fun s => s.note .inexact
  let notes := n0 ++ n1 ++ n2 ++ n3 ++ n4 ++ (rings.map fun r => r.2.2).flatten ++ (secs.map fun s => s.2.2).flatten ++
    (graphs.map fun g => g.2.2).flatten ++ data.2
  let cfgs := secs.map fun s => s.1
  ({ secs := cfgs, graphs := graphs.map fun g => g.1, rings := rings.map fun r => r.2.1, patches := (graphs.map fun g => g.2.1).flatten
     data := data.1, priv := cfgs.any fun c => c.elems.any fun e => e.slots.any fun w => privWord w.2 }, notes)

/-- The image of a file, if nothing is wrong with it, and the messages (R51). -/
def assemble (files : List (Text × Text)) (main : Text) : Option (List Byte) × List Note :=
  let p := partsOf files main
  (if p.2.all Note.warns then some (imageOf p.1) else none, p.2)

end Sys2Proof.Machine.Asm
end

