-- ==== Sys2Proof/Safety.lean ====
section
/-! DEFINITION. What a safe run is: one that no step ends with a fault or a refusal. -/

namespace Sys2Proof

/-- The first `k` steps from `s` all answer a next state. -/
def Safe (k : Nat) (s : Machine.State) : Prop := ∃ t, core.run k s = .next t

end Sys2Proof
end

