-- ==== Sys2Proof/Tests/Asm.lean ====
section
/-! SUPPORT. Tests of the assembler: the worked example of 03_assembler.md. -/

set_option Elab.async false

namespace Sys2Proof.Tests

open Machine Machine.Asm

/-- The worked example "A complete section" of 03_assembler.md with two elements in place of 64 and shorter names. -/
def biasText : Text :=
  ['.', 'e', 'q', 'u', ' ', 'B', ',', ' ', '1', '0', '0', '\n'] ++
  ['.', 's', 'e', 'c', 't', 'i', 'o', 'n', ' ', 's', '\n'] ++
  ['.', 's', 'h', 'a', 'p', 'e', ' ', '1', ',', ' ', '1', '\n'] ++
  ['.', 'p', 'a', 'l', 'e', 't', 't', 'e', ' ', '0', ',', ' ', 'I', 'N', 'T', '3', '2', 'X', '2', '\n'] ++
  ['.', 'p', 'o', 'r', 't', ' ', 'h', ',', ' ', '0', ',', ' ', 'h', 'o', 's', 't', '\n'] ++
  ['.', 'p', 'o', 'r', 't', ' ', 'q', ',', ' ', '1', ',', ' ', 'h', 'o', 's', 't', '\n'] ++
  ['.', 'e', 'l', 'e', 'm', 'e', 'n', 't', ' ', '0', ',', ' ', '0', '.', '.', '1', '\n'] ++
  ['.', 'c', 'o', 'n', 's', 't', ' ', 'k', '0', ',', ' ', 'p', 'a', 'c', 'k', '(', 'I', 'N', 'T', '3',
    '2', 'X', '2', ',', ' ', 'B', ',', ' ', 'B', '*', '2', ')', '\n'] ++
  ['.', 'e', 'l', 'e', 'm', 'e', 'n', 't', ' ', '0', ',', ' ', '0', '\n'] ++
  ['.', 't', 'r', 'i', 'g', 'g', 'e', 'r', ' ', 'u', ',', ' ', 'i', '0', '=', 'd', 'a', 't', 'a', ',',
    ' ', 's', 'p', 'a', 'c', 'e', '=', 'o', 'u', 't', '\n'] ++
  ['s', '0', ' ', 'a', ':', ' ', 'A', 'D', 'D', ' ', 'o', '0', ',', ' ', 'i', '0', ',', ' ', 'k', '0',
    ' ', 'o', 'n', ' ', 'u', '\n'] ++
  ['.', 'r', 'o', 'u', 't', 'e', ' ', 'p', 'o', 'r', 't', '.', 'h', ' ', '-', '>', ' ', 'e', '(', '0',
    ',', '0', ')', '.', 'i', '0', '\n'] ++
  ['.', 'r', 'o', 'u', 't', 'e', ' ', 'e', '(', '0', ',', '0', ')', '.', 'o', '0', ' ', '-', '>', ' ',
    'p', 'o', 'r', 't', '.', 'q', '\n'] ++
  ['.', 'e', 'n', 'd', 's', 'e', 'c', '\n']

/-- Per element: row, column, k0, slot words, trigger entries. -/
def biasElems : List (List (List (List Nat))) :=
  (partsOf [(['m'], biasText)] ['m']).1.secs.map fun c => c.elems.map fun e =>
    [[e.row], [e.col], (e.k.map BitVec.toNat).take 1, e.slots.map fun p => p.2.toNat, e.trig.map fun p => p.2.toNat]

set_option maxRecDepth 100000 in
/-- k0, slot 0 and trigger entry 0 are those of the example's table; element (0,1) has its constant and no rule. -/
theorem test_asm_bias : biasElems =
    [[[[0], [0], [0x000000C800000064], [0x00811880], [0x8000000010000000]], [[0], [1], [0x000000C800000064], [], []]]] := by
  decide +kernel

/-- R51: a file with an error yields no image (here an unknown directive). -/
theorem test_asm_refused : (assemble [(['m'], ['.', 'x', '\n'])] ['m']).1 = none := by decide +kernel

end Sys2Proof.Tests
end

