-- ==== Sys2Proof/Tests/Slice0.lean ====
section
/-! SUPPORT. Tests: the checks of WellFormed, words written out from the encoding tables, and single firings whose results
are the spec's worked examples or computed by hand. -/

set_option Elab.async false

namespace Sys2Proof.Tests

open Machine

/-! ## WellFormed refuses what the tables do not admit -/

def z : Opd := ⟨.z, false⟩

/-- A peek bit needs a channel (R155). -/
theorem test_wellFormed_peek : (Instr.mov 0 (.g 0) ⟨.k 1, true⟩).wellFormed = false := by decide
theorem test_wellFormed_peek_b : (Instr.add 0 (.g 0) z ⟨.g 1, true⟩ false).wellFormed = false := by decide
/-- MRG and CMRG name two channels that differ (R189, R309). -/
theorem test_wellFormed_mrg : (Instr.mrg 0 (.g 0) 2 2).wellFormed = false := by decide
theorem test_wellFormed_cmrg : (Instr.cmrg 0 (.g 0) 1 1).wellFormed = false := by decide
/-- DROP takes no constant (R176). -/
theorem test_wellFormed_drop : (Instr.drop 0 (.k 0)).wellFormed = false := by decide
theorem test_wellFormed_drop_z : (Instr.drop 0 .z).wellFormed = false := by decide
/-- A pair begins with an even register, a quad with one of at most 4 (R252). -/
theorem test_wellFormed_pair : (Instr.tblb 0 0 (.k 3) .z).wellFormed = false := by decide
theorem test_wellFormed_cpy_pair : (Instr.cpy 0 0 .z .z).wellFormed = false := by decide
theorem test_wellFormed_coll_pair : (Instr.coll 0 0 (.take 5) .z).wellFormed = false := by decide
theorem test_wellFormed_brd_pair : (Instr.brdRd 0 0 (.k 1) (.k 0)).wellFormed = false := by decide
theorem test_wellFormed_brd_quad : (Instr.brdLut 0 0 (.k 0) (.k 5)).wellFormed = false := by decide

/-! ## Words written out field by field (R152, R156-R158) -/

/-- The common fields of a word: slot trigger 31:26 by class 25:23 and so on are in the numerals below, read from the table:
trigger, class, opcode, destination, source A, source B, peek and modifier bits. -/
theorem test_decode_add : decode 0x00811880 = .ok (.add 0 (.out (.o 0)) ⟨.ch 0, false⟩ ⟨.k 0, false⟩ false) := by decide
theorem test_decode_adds_bc : decode 0x08893891 = .ok (.adds 2 (.out (.o 1)) ⟨.ch 0, false⟩ ⟨.k 2, false⟩ true) := by decide
theorem test_decode_cmplt_peek : decode 0x00F05884 = .ok (.cmplt 0 2 ⟨.ch 0, true⟩ ⟨.k 0, false⟩ false) := by decide
theorem test_decode_fork : decode 0x0C0DDA48 = .ok (.fork 3 .oall ⟨.ch 2, false⟩ ⟨.take 1, false⟩) := by decide
theorem test_decode_sig : decode 0x14383CE0 = .ok (.sig 5 1 z z) := by decide
theorem test_decode_halt : decode 0x043DFCE0 = .ok (.halt 1) := by decide
theorem test_decode_mac : decode 0x0D821864 = .ok (.mac 3 (.acc 0) ⟨.ch 0, false⟩ 3 1) := by decide
theorem test_decode_mac_feed : decode 0x01813824 = .ok (.mac 0 (.out (.o 1)) ⟨.ch 0, false⟩ 1 1) := by decide
theorem test_decode_cvt : decode 0x099D1898 = .ok (.cvt 2 (.out (.o 0)) ⟨.ch 0, false⟩ ⟨.k 3, false⟩ false) := by decide
theorem test_decode_acrd_sr : decode 0x119102A9 = .ok (.acrd 4 (.out (.o 0)) 2 ⟨.k 5, false⟩ true) := by decide
theorem test_decode_fexp2 : decode 0x055079E0 = .ok (.fexp2 1 (.g 3) ⟨.ch 1, false⟩) := by decide
theorem test_decode_fcmplt : decode 0x0D342089 = .ok (.fcmplt 3 1 ⟨.g 0, false⟩ ⟨.k 1, false⟩ true) := by decide
theorem test_decode_stf : decode 0x06129190 = .ok (.stf 1 0 ⟨.k 1, false⟩ ⟨.k 2, false⟩) := by decide
theorem test_decode_lde : decode 0x020C11E0 = .ok (.lde 0 (.g 0) ⟨.k 1, false⟩) := by decide
theorem test_decode_famoadd : decode 0x0A41F0C8 = .ok (.famoadd 2 .z ⟨.k 0, false⟩ ⟨.ch 1, false⟩) := by decide
theorem test_decode_ldc : decode 0x165856E1 = .ok (.ldc 5 (.g 2) ⟨.k 6, false⟩ true) := by decide
theorem test_decode_fence : decode 0x0A55FCE3 = .ok (.fence 2 .dev) := by decide
theorem test_decode_brd : decode 0x0E945090 = .ok (.brdSca 3 2 (.k 0) (.k 2)) := by decide
theorem test_decode_wrem : decode 0x06C0B191 = .ok (.wrem 1 5 ⟨.k 1, false⟩ ⟨.k 2, false⟩ true) := by decide
theorem test_decode_cnti : decode 0x12CDFCE0 = .ok (.cnti 4) := by decide
theorem test_decode_incr : decode 0x03111806 = .ok (.incr 0 (.o 0) 0 true true) := by decide
theorem test_decode_incrs : decode 0x03151804 = .ok (.incrs 0 (.o 0) 0 true false) := by decide
theorem test_decode_segx : decode 0x07213A02 = .ok (.segx 1 (.o 1) 2 false true) := by decide
theorem test_decode_ccmp : decode 0x0B3078CE = .ok (.ccmp 2 3 ⟨.ch 0, true⟩ ⟨.ch 1, true⟩) := by decide
theorem test_decode_cmrg : decode 0x0F3518C8 = .ok (.cmrg 3 (.out (.o 0)) 0 1) := by decide
theorem test_decode_rte : decode 0x1341DA88 = .ok (.rte 4 .oall ⟨.ch 2, false⟩ ⟨.k 1, false⟩) := by decide
theorem test_decode_csrr : decode 0x038851E0 = .ok (.csrr 0 (.g 2) ⟨.k 1, false⟩) := by decide
theorem test_decode_csrw : decode 0x078DF018 = .ok (.csrw 1 ⟨.k 0, false⟩ ⟨.g 3, false⟩) := by decide
theorem test_decode_canc : decode 0x0BA432E0 = .ok (.canc 2 (.g 1) ⟨.k 2, false⟩) := by decide
theorem test_decode_time : decode 0x0FAC1DE0 = .ok (.time 3 (.g 0) ⟨.one, false⟩) := by decide
theorem test_decode_log : decode 0x03B9F0C8 = .ok (.log 0 ⟨.k 0, false⟩ ⟨.ch 1, false⟩) := by decide

/-- Opcode 14 of class 2 is assigned to nothing. -/
theorem test_decode_unassigned : decode 0x01700000 = .error .unassignedOpcode := by decide
/-- The first word's bytes come from the lowest address (R5). -/
theorem test_table_word : decodeTableWord 32 0x00811880 = some (.add 0 (.out (.o 0)) ⟨.ch 0, false⟩ ⟨.k 0, false⟩ false) := by
  decide

/-! ## A small machine: one unit, one element, a rule in focus -/

/-- Tokens of tag 0 on input 0, each a payload and a coordinate. -/
def data (l : List (Nat × Nat)) : List Token := l.map fun p => ⟨0, 0, BitVec.ofNat 32 p.2, BitVec.ofNat 64 p.1⟩

def unitOf (pal : Nat) (y : Elem) : UnitSt where
  job := 0
  tenant := 0
  secure := false
  priv := true
  debug := true
  launch := 0
  section_ := 0
  replica := 0
  serial := 0
  args := []
  tiles0 := 0
  cfg := { rows := 1, cols := 1, mode := 0, flush := false, seed := 1, pal := BitVec.ofNat 64 pal, roles := [], routes := [], binds := []
           bufs := [], elems := [], window := false }
  phase := .running
  quarter := 0
  elems := [(0, y)]

def placedUnit (x : UnitSt) : State := { State.reset with units := [(0, x)], focus := some ⟨0, 0, 0, false⟩ }

/-- Input 0 holds `l`, the rule's trigger has N = 2^n. -/
def elemOf (l : List Token) (n : Nat) : Elem where
  ins := (Vector.replicate 4 {}).set 0 { q := l }
  trig := [(0, BitVec.ofNat 64 (n * 2 ^ 43))]

def machine (pal : Nat) (y : Elem) : State := placedUnit (unitOf pal y)

/-- The element after an instruction. -/
def after (i : Instr) (s : State) : Elem :=
  match exec i s with
  | .next t => t.elem 0 0
  | _ => {}

/-- The unit after an instruction. -/
def unitAfter (i : Instr) (s : State) : Option UnitSt :=
  match exec i s with
  | .next t => t.unit? 0
  | _ => none

def ch0 : Opd := ⟨.ch 0, false⟩
def k0 : Opd := ⟨.k 0, false⟩

/-! ## The worked examples of the spec -/

/-- INT8x8 in palette entry 0; `ADDS.bc g1, i0, k2` (worked example "saturating lanes"). -/
def satLanes : State :=
  machine 0x0E { elemOf (data [(0x7F00801C1B059C78, 0)]) 0 with k := (Vector.replicate 8 0).set 2 0x64 }

theorem test_adds_saturates : (after (.adds 0 (.g 1) ch0 ⟨.k 2, false⟩ true) satLanes).g[1].val = 0x7F64E47F7F69007F ∧
    (after (.adds 0 (.g 1) ch0 ⟨.k 2, false⟩ true) satLanes).fl = Flags.saturation := by decide +kernel

/-- The same lanes under ADD wrap: lane 0 is -36, no flag. -/
theorem test_add_wraps : (after (.add 0 (.g 1) ch0 ⟨.k 2, false⟩ true) satLanes).g[1].val.toNat % 256 = 0xDC ∧
    (after (.add 0 (.g 1) ch0 ⟨.k 2, false⟩ true) satLanes).fl = 0 := by decide +kernel

theorem test_clz : (after (.clz 0 (.g 2) ch0) (machine 0x0E (elemOf (data [(0x7F64E47F7F69007F, 0)]) 0))).g[2].val =
    0x0101000101010801 := by decide +kernel

/-- 30 < 50 sets p2 and leaves the peeked head; 70 does not (worked example "routing by threshold"). -/
theorem test_cmplt_true : (after (.cmplt 0 2 ⟨.ch 0, true⟩ k0 false)
    (machine 0x0B { elemOf (data [(30, 0)]) 0 with k := (Vector.replicate 8 0).set 0 50 })).pred 2 = true := by decide +kernel
theorem test_cmplt_false : (after (.cmplt 0 2 ⟨.ch 0, true⟩ k0 false)
    (machine 0x0B { elemOf (data [(70, 0)]) 0 with p := 0xFF, k := (Vector.replicate 8 0).set 0 50 })).pred 2 = false := by
  decide +kernel

/-- `RSEX g2, i0`, n = 2, over (3, 1) and (3, 5) gives (5, 1.5625) (worked example "a softmax pair"). -/
def softmaxPair : State := machine 0x02 (elemOf (data [(0x3F80000040400000, 0), (0x40A0000040400000, 0)]) 1)

theorem test_rsex : (after (.rsex 0 2 ch0) softmaxPair).g[2].val = 0x3FC8000040A00000 ∧
    (after (.rsex 0 2 ch0) softmaxPair).g[2].present = true ∧ (after (.rsex 0 2 ch0) softmaxPair).fl = 0 := by decide +kernel

/-- Packing FP32 into E4M3: k3 = 0x42000001, (1, 300) and (-0.3, 470), into g1 over zeros. -/
def packPair : State :=
  machine 0x0502 { elemOf (data [(0x439600003F800000, 0), (0x43EB0000BE99999A, 0)]) 1 with
    k := (Vector.replicate 8 0).set 3 0x42000001 }

theorem test_cvt_pack : (after (.cvt 0 (.g 1) ch0 ⟨.k 3, false⟩ false) packPair).g[1].val = 0x7EAA7938 ∧
    (after (.cvt 0 (.g 1) ch0 ⟨.k 3, false⟩ false) packPair).g[1].tag = 1 ∧
    (after (.cvt 0 (.g 1) ch0 ⟨.k 3, false⟩ false) packPair).fl = Flags.inexact ||| Flags.saturation := by decide +kernel

/-- `WLD i1, k0` of (1.5, -2, 0.25, 3), then `MAC.w4x8` of (1.171875, 2): lanes 2.1875 and 3.75 (worked example "one
micro-block at two pairings"). -/
def mixed : State :=
  machine 0x020400 { trig := [(0, 0)], ins := ((Vector.replicate 4 {}).set 0 { q := [⟨0, 1, 0, 0x40003F96⟩] }).set 1
                       { q := [⟨0, 1, 0, 0x40403E80C0003FC0⟩] }
                     k := (Vector.replicate 8 0).set 0 0x111 }

def mixedLoaded : State :=
  match exec (.wld 0 ⟨.ch 1, false⟩ k0) mixed with
  | .next t => t
  | _ => mixed

theorem test_wld_mac : ((after (.mac 0 (.acc 0) ch0 1 3) mixedLoaded).acc[0].lanes.map fun p => (p.1, p.2.toNat)) =
    [(0, 0x400C0000), (1, 0x40700000)] := by decide +kernel

/-- The unit square in INCR: stage A leaves it, stage B certifies no zero, the exact unit finds the points on a circle; INCRS
gives -1 for it (worked example "the unit square in INCR and INCRS"). -/
def square : List (List Dy × BitVec 32) :=
  [([⟨0, 0⟩, ⟨0, 0⟩], 10), ([⟨1, 0⟩, ⟨0, 0⟩], 11), ([⟨1, 0⟩, ⟨1, 0⟩], 12), ([⟨0, 0⟩, ⟨1, 0⟩], 13)]

theorem test_incr_square : decideInst .incr false .a square = none ∧ decideInst .incr false .b square = none ∧
    (decideInst .incr false .c square).map Prod.fst = some 0 := by decide +kernel
theorem test_incrs_square : (decideInst .incr true .c square).map Prod.fst = some (-1) := by decide +kernel

/-- Three orientations: (0,0),(1,0),(0,1) is +1 and (0,0),(0,1),(1,0) is -1 at stage A; (0,0),(1,1),(2,2) is zero at stage
B, and -1 at stage C for the S variant (worked example "three orientations with divergence"). -/
def tri (a b c d e f : Int) (n : Nat) : List (List Dy × BitVec 32) :=
  [([⟨a, 0⟩, ⟨b, 0⟩], BitVec.ofNat 32 n), ([⟨c, 0⟩, ⟨d, 0⟩], BitVec.ofNat 32 (n + 1)), ([⟨e, 0⟩, ⟨f, 0⟩], BitVec.ofNat 32 (n + 2))]

theorem test_ori2 : (decideInst .ori2 false .a (tri 0 0 1 0 0 1 0)).map Prod.fst = some 1 ∧
    (decideInst .ori2 false .a (tri 0 0 0 1 1 0 6)).map Prod.fst = some (-1) ∧
    decideInst .ori2 false .a (tri 0 0 1 1 2 2 3) = none ∧
    (decideInst .ori2 false .b (tri 0 0 1 1 2 2 3)).map Prod.fst = some 0 := by decide +kernel
theorem test_ori2s : (decideInst .ori2 true .c (tri 0 0 1 1 2 2 3)).map Prod.fst = some (-1) := by decide +kernel

/-- FAMOADD of FP32x2: 3.0 and the NaN of infinities that cancel; a tie that keeps 1.0 (worked example "three beats of a
floating add"). -/
def famo (word data : Nat) : Tile × Word × Option Token × Flags :=
  tileApply { id := 0, e := 0, slot := 0, port := 0, stamp := false, tile := 0, word := 0, op := .famoAdd, flush := false, beat := 0
              hasDst := true, data := BitVec.ofNat 64 data, fmt := some .fp32 } { words := [(0, BitVec.ofNat 64 word)] }

theorem test_famoadd_nan : ((famo 0x7F8000003F800000 0xFF80000040000000).1.word 0) = 0x7FC0000040400000 ∧
    (famo 0x7F8000003F800000 0xFF80000040000000).2.2.2 = Flags.invalid := by decide +kernel
theorem test_famoadd_tie : ((famo 0x3F8000007FC00001 0x3380000000000000).1.word 0) = 0x3F8000007FC00000 ∧
    (famo 0x3F8000007FC00001 0x3380000000000000).2.2.2 = Flags.inexact := by decide +kernel

/-! ## By hand from the rules -/

def wide (pal a b : Nat) : State :=
  machine pal { elemOf (data [(a, 0)]) 0 with k := (Vector.replicate 8 0).set 0 (BitVec.ofNat 64 b) }

/-- INT64: the high half of (-1) * (-1) is 0, of the unsigned product 2^64 - 2 (R200). -/
theorem test_mulh : (after (.mulh 0 (.g 0) ch0 k0 false) (wide 0x0B (2 ^ 64 - 1) (2 ^ 64 - 1))).g[0].val = 0 := by decide +kernel
theorem test_mulhu : (after (.mulhu 0 (.g 0) ch0 k0 false) (wide 0x0B (2 ^ 64 - 1) (2 ^ 64 - 1))).g[0].val =
    0xFFFFFFFFFFFFFFFE := by decide +kernel
/-- A shift by the width gives 0, an arithmetic one copies of the sign (R203). -/
theorem test_shl_width : (after (.shl 0 (.g 0) ch0 k0 false) (wide 0x0B 5 64)).g[0].val = 0 := by decide +kernel
theorem test_sar_width : (after (.sar 0 (.g 0) ch0 k0 false) (wide 0x0B (2 ^ 63) 64)).g[0].val = 0xFFFFFFFFFFFFFFFF := by
  decide +kernel
/-- SEL takes source B where p0 is 0 (R188). -/
theorem test_sel : (after (.sel 0 (.g 0) ch0 k0) (wide 0x0B 5 9)).g[0].val = 9 := by decide +kernel
/-- FP64: 1 + 2 = 3 exactly; 1/0 of FDIV is put under way 40 cycles off with divide-by-zero raised (R217, R224). -/
theorem test_fadd : (after (.fadd 0 (.g 0) ch0 k0 false) (wide 0x01 0x3FF0000000000000 0x4000000000000000)).g[0].val =
    0x4008000000000000 := by decide +kernel
theorem test_fdiv_late : ((after (.fdiv 0 (.g 0) ch0 k0 false) (wide 0x01 0x3FF0000000000000 0)).late.map fun l => (l.due, l.tok.map Token.payload)) =
    [(40, some 0x7FF0000000000000)] := by decide +kernel
/-- A firing dequeues its channel, and holds the datapath one cycle a beat (R65). -/
theorem test_mov_dequeues : ((after (.mov 0 (.g 0) ch0) (wide 0x0B 5 0)).ins[0].q.map Token.payload, (after (.mov 0 (.g 0) ch0)
    (wide 0x0B 5 0)).busy) = ([], 1) := by decide +kernel
/-- HALT stops the picker (R197); TRAP stops it trapped and writes a record with its cause (R371). -/
theorem test_halt : (after (.halt 0) (wide 0x0B 0 0)).pick = .halted := by decide +kernel
theorem test_trap : (after (.trap 0 ch0) (wide 0x0B 0 0)).pick = .trapped := by decide +kernel

end Sys2Proof.Tests
end

