-- ==== Sys2Proof/Tests/Witnesses.lean ====
section
/-! SUPPORT. For every statement that has hypotheses, a state and operands that meet all of them together: each clause of a
statement with conditions of its own has its witness.  `Meets` and `MeetsTrap` are the hypotheses of `Fires` and `Traps`. -/

set_option Elab.async false

namespace Sys2Proof.Tests

open Machine Spec

/-! ## Firings -/

/-- The hypotheses of `Fires`, met by a rule in focus of `s`. -/
def Meets (m : Form) (ok : State → Beat → Carry → Prop) (cyc : State → Beat → Nat) (eff : Effect) (s : State) : Prop :=
  ∃ f x, Fresh s f x ∧
    let n := Trig.n ((x.elem f.e).trigger m.t)
    let cap := m.cap (x.elem f.e) f.slot
    let at_ := m.upTo s f n cap cyc eff
    ∀ b < n, m.Goes (at_ b).1 f n b ∧ ok (m.pre (at_ b).1 f n b) (m.beat (at_ b).1 f n b cap) (at_ b).2

/-- The hypotheses of `Traps` at beat `k`. -/
def MeetsTrap (m : Form) (ok : State → Beat → Carry → Prop) (cyc : State → Beat → Nat) (eff : Effect)
    (bad : State → Beat → Carry → Option (State × Nat × Nat × Flags)) (k cause : Nat) (s : State) : Prop :=
  ∃ f x y s' va fl, Fresh s f x ∧
    let n := Trig.n ((x.elem f.e).trigger m.t)
    let cap := m.cap (x.elem f.e) f.slot
    let at_ := m.upTo s f n cap cyc eff
    k < n ∧
    (∀ b < k, m.Goes (at_ b).1 f n b ∧ ok (m.pre (at_ b).1 f n b) (m.beat (at_ b).1 f n b cap) (at_ b).2) ∧
    (at_ k).1.unit? f.u = some y ∧ (∀ a ∈ m.srcs, (y.elem f.e).tokReady a = true) ∧
    bad (m.pre (at_ k).1 f n k) (m.beat (at_ k).1 f n k cap) (at_ k).2 = some (s', cause, va, fl) ∧ s'.canTrap f.u = true

/-- `Form.Goes`, computed. -/
def goes (m : Form) (s : State) (f : Focus) (n b : Nat) : Bool :=
  match s.unit? f.u with
  | none => false
  | some x =>
    m.srcs.all (fun a => (x.elem f.e).tokReady a) &&
      (m.room (b + 1 == n) == 0 || m.outs.all fun o => x.credit f.e o (m.room (b + 1 == n)))

theorem goes_sound {m : Form} {s : State} {f : Focus} {n b : Nat} (h : goes m s f n b = true) : m.Goes s f n b := by
  unfold goes at h
  split at h
  · exact absurd h Bool.false_ne_true
  · rename_i x hx
    simp only [Bool.and_eq_true, List.all_eq_true, Bool.or_eq_true, beq_iff_eq] at h
    exact ⟨x, hx, h.1, h.2⟩

/-- Beats `0` to `k - 1` can be done and meet `ok`, computed. -/
def beats (m : Form) (ok : State → Beat → Carry → Bool) (cyc : State → Beat → Nat) (eff : Effect) (s : State) (f : Focus)
    (n k : Nat) (cap : Captured) : Bool :=
  (List.range k).all fun b =>
    let q := m.upTo s f n cap cyc eff b
    goes m q.1 f n b && ok (m.pre q.1 f n b) (m.beat q.1 f n b cap) q.2

/-- The rule in focus is a new firing, computed. -/
def fresh (s : State) : Option (Focus × UnitSt) :=
  match s.focus with
  | none => none
  | some f =>
    match s.unit? f.u with
    | none => none
    | some x => if decide (f.e < x.cfg.elemCount) && (x.elem f.e).firing.isNone then some (f, x) else none

theorem fresh_sound {s : State} {f : Focus} {x : UnitSt} (h : fresh s = some (f, x)) : Fresh s f x := by
  unfold fresh at h
  split at h
  · exact absurd h (by simp)
  · rename_i g hg
    split at h
    · exact absurd h (by simp)
    · rename_i y hy
      split at h
      · rename_i hc
        simp only [Bool.and_eq_true, decide_eq_true_eq, Option.isNone_iff_eq_none] at hc
        obtain ⟨rfl, rfl⟩ : g = f ∧ y = x := by simpa using h
        exact ⟨hg, hy, hc.1, hc.2⟩
      · exact absurd h (by simp)

/-- All beats of the firing in focus can be done and meet `ok`, computed. -/
def meets (m : Form) (ok : State → Beat → Carry → Bool) (cyc : State → Beat → Nat) (eff : Effect) (s : State) : Bool :=
  match fresh s with
  | none => false
  | some (f, x) =>
    let n := Trig.n ((x.elem f.e).trigger m.t)
    beats m ok cyc eff s f n n (m.cap (x.elem f.e) f.slot)

theorem meets_sound {m : Form} {ok : State → Beat → Carry → Prop} (okB : State → Beat → Carry → Bool)
    {cyc : State → Beat → Nat} {eff : Effect} {s : State} (hok : ∀ s bt c, okB s bt c = true → ok s bt c)
    (h : meets m okB cyc eff s = true) : Meets m ok cyc eff s := by
  unfold meets at h
  split at h
  · exact absurd h Bool.false_ne_true
  · rename_i f x hf
    refine ⟨f, x, fresh_sound hf, fun b hb => ?_⟩
    have := List.all_eq_true.1 h b (List.mem_range.2 hb)
    simp only [Bool.and_eq_true] at this
    exact ⟨goes_sound this.1, hok _ _ _ this.2⟩

/-- A firing of one beat meets the hypotheses whatever its effect. -/
def meetsOne (m : Form) (ok : State → Beat → Bool) (s : State) : Bool :=
  match fresh s with
  | none => false
  | some (f, x) =>
    let s0 := beginFiring s f.u f.e f.slot m.t
    Trig.n ((x.elem f.e).trigger m.t) == 1 && goes m s0 f 1 0 &&
      ok (m.pre s0 f 1 0) (m.beat s0 f 1 0 (m.cap (x.elem f.e) f.slot))

theorem meetsOne_sound {m : Form} {ok : State → Beat → Prop} {s : State} (okB : State → Beat → Bool)
    (hok : ∀ s bt, okB s bt = true → ok s bt) (h : meetsOne m okB s = true) (cyc : State → Beat → Nat) (eff : Effect) :
    Meets m (plainly ok) cyc eff s := by
  unfold meetsOne at h
  split at h
  · exact absurd h Bool.false_ne_true
  · rename_i f x hf
    simp only [Bool.and_eq_true, beq_iff_eq] at h
    refine ⟨f, x, fresh_sound hf, fun b hb => ?_⟩
    simp only [h.1.1] at hb ⊢
    obtain rfl : b = 0 := by omega
    exact ⟨goes_sound h.1.2, hok _ _ h.2⟩

/-- The same with a condition about the unit. -/
theorem meetsOne_in {m : Form} {ok : UnitSt → State → Beat → Prop} {s : State} (okB : UnitSt → State → Beat → Bool)
    (hok : ∀ x s bt, okB x s bt = true → ok x s bt)
    (h : meetsOne m (fun s bt => match s.unit? bt.u with | some x => okB x s bt | none => false) s = true) :
    ∃ x, ∀ cyc eff, Meets m (plainly fun s bt => inUnit x s bt ∧ ok x s bt) cyc eff s := by
  unfold meetsOne at h
  split at h
  · exact absurd h Bool.false_ne_true
  · rename_i f x hf
    simp only [Bool.and_eq_true, beq_iff_eq] at h
    obtain ⟨⟨h1, h2⟩, h3⟩ := h
    split at h3
    · rename_i y hy
      refine ⟨y, fun cyc eff => ⟨f, x, fresh_sound hf, fun b hb => ?_⟩⟩
      simp only [h1] at hb ⊢
      obtain rfl : b = 0 := by omega
      exact ⟨goes_sound h2, hy, hok _ _ _ h3⟩
    · exact absurd h3 Bool.false_ne_true

/-- No condition of its own. -/
theorem meetsOne_always {m : Form} {s : State} (h : meetsOne m (fun _ _ => true) s = true) (cyc : State → Beat → Nat)
    (eff : Effect) : Meets m (plainly always) cyc eff s :=
  meetsOne_sound (fun _ _ => true) (fun _ _ _ => trivial) h cyc eff

/-- A trap at beat `k`, computed. -/
def meetsTrap (m : Form) (ok : State → Beat → Carry → Bool) (cyc : State → Beat → Nat) (eff : Effect)
    (bad : State → Beat → Carry → Option (State × Nat × Nat × Flags)) (k cause : Nat) (s : State) : Bool :=
  match fresh s with
  | none => false
  | some (f, x) =>
    let n := Trig.n ((x.elem f.e).trigger m.t)
    let cap := m.cap (x.elem f.e) f.slot
    let q := m.upTo s f n cap cyc eff k
    decide (k < n) && beats m ok cyc eff s f n k cap && m.srcs.all (fun a => (q.1.elem f.u f.e).tokReady a) && (q.1.unit? f.u).isSome &&
      match bad (m.pre q.1 f n k) (m.beat q.1 f n k cap) q.2 with
      | some p => p.2.1 == cause && p.1.canTrap f.u
      | none => false

theorem meetsTrap_sound {m : Form} {ok : State → Beat → Carry → Prop} (okB : State → Beat → Carry → Bool)
    {cyc : State → Beat → Nat} {eff : Effect} {bad : State → Beat → Carry → Option (State × Nat × Nat × Flags)} {k cause : Nat}
    {s : State} (hok : ∀ s bt c, okB s bt c = true → ok s bt c) (h : meetsTrap m okB cyc eff bad k cause s = true) :
    MeetsTrap m ok cyc eff bad k cause s := by
  unfold meetsTrap at h
  split at h
  · exact absurd h Bool.false_ne_true
  · rename_i f x hf
    simp only [Bool.and_eq_true, decide_eq_true_eq, List.all_eq_true] at h
    obtain ⟨⟨⟨⟨h1, h2⟩, h3⟩, h4⟩, h5⟩ := h
    obtain ⟨y, hy⟩ := Option.isSome_iff_exists.1 h4
    split at h5
    · rename_i p hp
      obtain ⟨s', c, va, fl⟩ := p
      simp only [Bool.and_eq_true, beq_iff_eq] at h5
      refine ⟨f, x, y, s', va, fl, fresh_sound hf, h1, fun b hb => ?_, hy, ?_, ?_, h5.2⟩
      · have := List.all_eq_true.1 h2 b (List.mem_range.2 hb)
        simp only [Bool.and_eq_true] at this
        exact ⟨goes_sound this.1, hok _ _ _ this.2⟩
      · intro a ha
        have := h3 a ha
        simpa [State.elem, hy] using this
      · rw [hp, h5.1]
    · exact absurd h5 Bool.false_ne_true

/-! ## Classes 0 to 3 -/

/-- Two channels with heads, k-registers of ones. -/
def two (pal : Nat) (n : Nat) : State :=
  machine pal { elemOf (data [(5, 0), (6, 1), (7, 2), (8, 3)]) n with
    ins := ((Vector.replicate 4 {}).set 0 { q := data [(5, 0), (6, 1), (7, 2), (8, 3)] }).set 1 { q := data [(9, 0), (3, 1)] }
    k := Vector.replicate 8 1 }

def ch1 : Opd := ⟨.ch 1, false⟩

/-- MOV over two beats, and a form with two channels, a taken register, and an output. -/
theorem meets_ForwardingInstructions : Meets (form 0 ch0 none_ none [0]) (plainly always) one_
    (each fun s bt => bt.forward s (.out (.o 0)) bt.a) (two 0x0B 1) :=
  meets_sound (fun _ _ _ => true) (fun _ _ _ _ => trivial) (by decide +kernel)
theorem meets_ForwardingInstructions_fork (cyc : State → Beat → Nat) (eff : Effect) :
    Meets (form 0 ch0 ch1 none [0, 1, 2, 3]) (plainly always) cyc eff (two 0x0B 0) := meetsOne_always (by decide +kernel) cyc eff
theorem meets_MarksPredicatesAndCounters (cyc : State → Beat → Nat) (eff : Effect) :
    Meets (form 0 ch0 k0 none [0, 1]) (plainly always) cyc eff (two 0x0B 0) := meetsOne_always (by decide +kernel) cyc eff
/-- PSET over two beats sends nothing. -/
theorem meets_MarksPredicatesAndCounters_pset :
    Meets { form 0 ch0 ch1 none [] with room := fun last => if last then 1 else 0 } (fun _ _ _ => True) one_ (predSet 2 true)
      (two 0x0B 1) :=
  meets_sound (fun _ _ _ => true) (fun _ _ _ _ => trivial) (by decide +kernel)

/-- A head on one channel only, and heads on both. -/
theorem meets_MergesForwardOneHead (cyc : State → Beat → Nat) (eff : Effect) :
    Meets { t := 0, a := .ch 2, b := .ch 0, outs := [0] } (plainly fun _ bt => bt.a.isData = true ∨ bt.bb.isData = true) cyc
      eff (two 0x0B 0) :=
  meetsOne_sound (fun _ bt => bt.a.isData || bt.bb.isData) (fun _ _ h => by simpa using h) (by decide +kernel) cyc eff
theorem meets_MergesForwardOneHead_both (cyc : State → Beat → Nat) (eff : Effect) :
    Meets { t := 0, a := .ch 0, b := .ch 1, outs := [0] } (plainly fun _ bt => bt.a.isData = true ∨ bt.bb.isData = true) cyc
      eff (two 0x0B 0) :=
  meetsOne_sound (fun _ bt => bt.a.isData && bt.bb.isData) (fun _ _ h => by simp at h; exact .inl h.1) (by decide +kernel) cyc eff

theorem meets_IntegerLaneResults (cyc : State → Beat → Nat) (eff : Effect) :
    Meets (form 0 ch0 k0 none [0]) (plainly always) cyc eff (two 0x0B 0) := meetsOne_always (by decide +kernel) cyc eff
/-- MAD reads its destination, at two beats. -/
theorem meets_IntegerLaneResults_mad : Meets (form 0 ch0 ch1 (some 3) []) (plainly always) one_
    (each (lanes intFmt (.g 3) false (cut fun l => l.vx * l.vy + l.vz))) (two 0x0B 1) :=
  meets_sound (fun _ _ _ => true) (fun _ _ _ _ => trivial) (by decide +kernel)
theorem meets_FloatLaneResults (cyc : State → Beat → Nat) (eff : Effect) :
    Meets (form 0 ch0 ch1 (some 3) [0]) (plainly always) cyc eff (two 0x01 0) := meetsOne_always (by decide +kernel) cyc eff
theorem meets_Compares : Meets { form 0 ch0 ch1 none [] with room := fun last => if last then 1 else 0 } (fun _ _ _ => True)
    one_ (compared 2 fun bt => bt.intTest intFmt false fun l => decide (l.sx < l.sy)) (two 0x0B 1) :=
  meets_sound (fun _ _ _ => true) (fun _ _ _ _ => trivial) (by decide +kernel)
theorem meets_LateFloatResults (cyc : State → Beat → Nat) (eff : Effect) :
    Meets (form 0 ch0 k0 none [0]) (plainly always) cyc eff (two 0x01 0) := meetsOne_always (by decide +kernel) cyc eff
theorem meets_FloatIntegerConversions (cyc : State → Beat → Nat) (eff : Effect) :
    Meets (form 0 ch0 k0 none [0]) (plainly always) cyc eff (two 0x0B01 0) := meetsOne_always (by decide +kernel) cyc eff

/-- MAC over two beats, and WLD over four. -/
theorem meets_BrickInstructions : Meets (form 0 ch0 none_ none []) (plainly always) (brickCycles 3 3) (each (brick .mac 0 3 3))
    (two 0x0E 1) :=
  meets_sound (fun _ _ _ => true) (fun _ _ _ _ => trivial) (by decide +kernel)
theorem meets_BrickInstructions_wld : Meets { form 0 ch0 k0 none [] with room := fun last => if last then 1 else 0 }
    (fun _ _ _ => True) one_ loaded (two 0x0E 2) :=
  meets_sound (fun _ _ _ => true) (fun _ _ _ _ => trivial) (by decide +kernel)
/-- CVT into a register, at two beats. -/
theorem meets_ConversionsAndLaneMoves : Meets (form 0 ch0 ⟨.k 3, false⟩ (some 1) []) (fun _ _ _ => True) one_
    (converted (.g 1) false) packPair :=
  meets_sound (fun _ _ _ => true) (fun _ _ _ _ => trivial) (by decide +kernel)
theorem meets_ConversionsAndLaneMoves_pack (cyc : State → Beat → Nat) (eff : Effect) :
    Meets (form 0 ch0 ch1 none [0]) (plainly always) cyc eff (two 0x0E0D 0) := meetsOne_always (by decide +kernel) cyc eff
theorem meets_Reductions : Meets { form 0 ch0 none_ (some 2) [] with room := fun last => if last then 1 else 0 }
    (fun _ _ _ => True) one_ (reduced (fun f => f.isWide || f.isInt) rmaxStep (.g 2)) softmaxPair :=
  meets_sound (fun _ _ _ => true) (fun _ _ _ _ => trivial) (by decide +kernel)
theorem meets_SharedExponentScaling (cyc : State → Beat → Nat) (eff : Effect) :
    Meets (form 0 ch0 none_ none [0]) (plainly fun _ bt => bt.a.tok.isSome = true) cyc eff (two 0x25 0) :=
  meetsOne_sound (fun _ bt => bt.a.tok.isSome) (fun _ _ h => h) (by decide +kernel) cyc eff
/-- QENC of FP32 with palette entry 1 QN4, at two beats, and of INT64. -/
theorem meets_BlockCoding : Meets { form 0 ch0 k0 none [0] with room := fun last => if last then 4 else 0 }
    (fun _ bt _ => bt.F = some .fp32 ∧ (Fmt.fp32 = .fp32 ∨ Fmt.fp32 = .fp16 ∨ Fmt.fp32 = .bf16) ∧ twinTag bt.pal .qn4 = some 1)
    (fun _ bt => if bt.last then 5 else 1) (coded (.o 0) false .fp32 1) (two 0x1202 1) :=
  meets_sound (fun _ bt _ => decide (bt.F = some .fp32) && decide (twinTag bt.pal .qn4 = some 1))
    (fun _ _ _ h => by simp at h; exact ⟨h.1, .inl rfl, h.2⟩) (by decide +kernel)
theorem meets_BlockCoding_refused (cyc : State → Beat → Nat) (eff : Effect) :
    Meets (form 0 ch0 k0 none [0]) (plainly fun _ bt => (∀ f, bt.F = some f → ¬(f = .fp32 ∨ f = .fp16 ∨ f = .bf16)) ∨
      twinTag bt.pal .qn4 = none) cyc eff (two 0x0B 0) :=
  meetsOne_sound (fun _ bt => decide (bt.F = some .int64))
    (fun _ _ h => .inl fun f hf => by simp at h; rw [h] at hf; injection hf with hf; subst hf; decide) (by decide +kernel) cyc eff

/-! ## Class 4 -/

/-- A section of one block: tile 0 AB, tile 1 TF, tile 2 CB, the others AB; buffer 1 in tile 0, bindings of every kind. -/
def memUnit (y : Elem) : UnitSt :=
  let x := unitOf 0x0B y
  let c : SecCfg := { x.cfg with
    roles := [.ab, .tf, .cb] ++ List.replicate 13 .ab
    bufs := [{}, { valid := true, row := 0, col := 0, rows := 1, cols := 1, base := 64, size := 4096 }]
    binds := [{}, { kind := .host }, { kind := .sweep }, { kind := .deep }, { kind := .copy }, { kind := .coll }, { kind := .remote },
              { kind := .seq }, { kind := .slot }] }
  { x with cfg := c }

/-- k0 and k1 as given, data on i0. -/
def mem2 (a b : Nat) (n : Nat) : State :=
  placedUnit (memUnit { elemOf (data [(a, 0), (a, 1)]) n with
    k := ((Vector.replicate 8 0).set 0 (BitVec.ofNat 64 a)).set 1 (BitVec.ofNat 64 b) })

def k1 : Opd := ⟨.k 1, false⟩

def leadsB (op : MemOp) (port : Nat) (a : Src) (s : State) (bt : Beat) : Bool :=
  match spot op a s bt, s.unit? bt.u with
  | some p, some x => !State.portBacked x bt.e port && !broken op x p
  | _, _ => false

theorem leadsB_sound {op : MemOp} {port : Nat} {a : Src} {s : State} {bt : Beat} (h : leadsB op port a s bt = true) :
    leads op port a s bt := by
  unfold leadsB at h
  split at h
  · rename_i p x hp hx
    simp only [Bool.and_eq_true, Bool.not_eq_true'] at h
    exact ⟨p, x, hp, hx, h.1, h.2⟩
  · exact absurd h Bool.false_ne_true

/-- A load over two beats up to the last word of a tile. -/
theorem meets_TileAccessesComplete : Meets (form 0 k0 none_ none []) (plainly (leads .ld 0 k0.src)) one_
    (each (loading .ld (.g 1) k0.src)) (mem2 0x3FFF0 7 1) :=
  meets_sound (fun s bt _ => leadsB .ld 0 k0.src s bt) (fun _ _ _ h => leadsB_sound h) (by decide +kernel)
theorem meets_TileAccessesComplete_store (cyc : State → Beat → Nat) (eff : Effect) :
    Meets (form 0 ch0 k1 none []) (plainly (leads .stf 0 ch0.src)) cyc eff (mem2 0x3FFF8 7 0) :=
  meetsOne_sound (fun s bt => leadsB .stf 0 ch0.src s bt) (fun _ _ h => leadsB_sound h) (by decide +kernel) cyc eff
/-- PUSH ignores the offset. -/
theorem meets_TileAccessesComplete_push (cyc : State → Beat → Nat) (eff : Effect) :
    Meets (form 0 k0 ch0 none []) (plainly (leads .push 0 k0.src)) cyc eff (mem2 0x40003 7 0) :=
  meetsOne_sound (fun s bt => leadsB .push 0 k0.src s bt) (fun _ _ h => leadsB_sound h) (by decide +kernel) cyc eff
/-- POP of a TF tile. -/
theorem meets_TileAccessesComplete_pop (cyc : State → Beat → Nat) (eff : Effect) :
    Meets (form 0 k0 none_ none [0]) (plainly (leads .pop 0 k0.src)) cyc eff (mem2 0x40000 7 0) :=
  meetsOne_sound (fun s bt => leadsB .pop 0 k0.src s bt) (fun _ _ h => leadsB_sound h) (by decide +kernel) cyc eff
/-- INT64 is a format AMOADD admits, and none that FAMOADD does. -/
theorem meets_TileAtomicsComplete (cyc : State → Beat → Nat) (eff : Effect) :
    Meets (form 0 k0 k1 none [0]) (plainly fun s bt => leads .amoAdd 0 k0.src s bt ∧ admitted Fmt.isInt .int64 bt) cyc eff (mem2 8 7 0) :=
  meetsOne_sound (fun s bt => leadsB .amoAdd 0 k0.src s bt && decide (bt.F = some .int64))
    (fun _ _ h => by simp at h; exact ⟨leadsB_sound h.1, h.2, by decide⟩) (by decide +kernel) cyc eff
theorem meets_TileAtomicsComplete_cas (cyc : State → Beat → Nat) (eff : Effect) :
    Meets (form 0 k0 k1 (some 2) []) (plainly fun s bt => leads .amoCas 0 k0.src s bt ∧ bt.F = some .int64) cyc eff (mem2 8 7 0) :=
  meetsOne_sound (fun s bt => leadsB .amoCas 0 k0.src s bt && decide (bt.F = some .int64))
    (fun _ _ h => by simp at h; exact ⟨leadsB_sound h.1, h.2⟩) (by decide +kernel) cyc eff
theorem meets_TileAtomicsComplete_refused (cyc : State → Beat → Nat) (eff : Effect) :
    Meets (form 0 k0 k1 none [0]) (plainly fun s bt => (∃ p, spot .famoAdd k0.src s bt = some p) ∧ ¬∃ f, admitted Fmt.isWide f bt)
      cyc eff (mem2 8 7 0) :=
  meetsOne_sound (fun s bt => (spot .famoAdd k0.src s bt).isSome && decide (bt.F = some .int64))
    (fun _ _ h => by
      simp at h
      refine ⟨Option.isSome_iff_exists.1 h.1, ?_⟩
      rintro ⟨f, hf, hw⟩
      rw [h.2] at hf; injection hf with hf; subst hf; exact absurd hw (by decide)) (by decide +kernel) cyc eff

/-- An atomic's address leads to a word, in a format it admits and in one that it does not. -/
theorem meets_StoreFrame (cyc : State → Beat → Nat) (eff : Effect) :
    Meets (form 0 k0 k1 none [0]) (plainly (atomicGoes .amoAdd Fmt.isInt k0.src)) cyc eff (mem2 8 7 0) :=
  meetsOne_sound (fun s bt => leadsB .amoAdd 0 k0.src s bt) (fun _ _ h => by
    have h := leadsB_sound h
    exact ⟨let ⟨p, _, hp, _⟩ := h; ⟨p, hp⟩, fun _ => h⟩) (by decide +kernel) cyc eff
theorem meets_StoreFrame_refused (cyc : State → Beat → Nat) (eff : Effect) :
    Meets (form 0 k0 k1 none [0]) (plainly (atomicGoes .famoAdd Fmt.isWide k0.src)) cyc eff (mem2 8 7 0) :=
  meetsOne_sound (fun s bt => (spot .famoAdd k0.src s bt).isSome && decide (bt.F.filter Fmt.isWide = none)) (fun _ _ h => by
    simp only [Bool.and_eq_true, decide_eq_true_eq] at h
    exact ⟨Option.isSome_iff_exists.1 h.1, fun hn => absurd h.2 hn⟩) (by decide +kernel) cyc eff
/-- The premises of the results of AMOADD and FAMOMAX. -/
theorem meets_TileOperations : (∃ p ∈ intAtomics, MemOp.amoAdd = p.1 ∧ Fmt.isInt .int8 = true) ∧
    ∃ p ∈ floatAtomics, MemOp.famoMax = p.1 ∧ Fmt.float? .fp32 = some .fp32 :=
  ⟨⟨_, .head _, rfl, rfl⟩, _, .tail _ (.tail _ (.head _)), rfl, rfl⟩

def namedB (s : State) (bt : Beat) : Bool :=
  decide (bufOf (tileAddr bt) = none) || decide ((s.cfgOf bt.u).bufTrap (tileAddr bt) = none)

theorem namedB_sound (s : State) (bt : Beat) (h : namedB s bt = true) : named s bt := by simpa [namedB, named] using h

/-- Buffer 1, and an address in raw form. -/
theorem meets_BuffersAndFences (cyc : State → Beat → Nat) (eff : Effect) :
    Meets (form 0 k0 none_ none [0]) (plainly named) cyc eff (mem2 0x82000000 1 0) :=
  meetsOne_sound namedB namedB_sound (by decide +kernel) cyc eff
theorem meets_BuffersAndFences_raw (cyc : State → Beat → Nat) (eff : Effect) :
    Meets (form 0 k0 k1 none []) (plainly named) cyc eff (mem2 0x8 1 0) :=
  meetsOne_sound namedB namedB_sound (by decide +kernel) cyc eff
theorem meets_BuffersAndFences_fence (cyc : State → Beat → Nat) (eff : Effect) :
    Meets (form 0 none_ none_ none []) (plainly always) cyc eff (mem2 0 0 0) := meetsOne_always (by decide +kernel) cyc eff
/-- The changes of R114, each allowed somewhere. -/
theorem meets_BuffersAndFences_states : (BufSt.request { phase := .empty } 1).isSome = true ∧
    (BufSt.request { phase := .filling } 2).isSome = true ∧ (BufSt.request { phase := .ready, count := 3 } 3).isSome = true ∧
    (BufSt.request { phase := .draining } 0).isSome = true ∧ BufSt.request { phase := .filling, count := 1 } 2 = none := by decide

def cachingB (a : Src) (s : State) (bt : Beat) : Bool :=
  !(s.cfgOf bt.u).cbTiles.isEmpty && !(s.cfgOf bt.u).window && virtAddr a bt % 8 == 0

theorem cachingB_sound {a : Src} (s : State) (bt : Beat) (h : cachingB a s bt = true) : caching a s bt := by
  simpa [cachingB, caching, and_assoc] using h

def readableB (s : State) (bt : Beat) (va : Nat) : Bool :=
  match s.unit? bt.u with
  | some x => (match held? x va with
    | some w => !w.bad.contains (va / 8 % 32)
    | none => true)
  | none => true

theorem readableB_sound {s : State} {bt : Beat} {va : Nat} (h : readableB s bt va = true) :
    ∀ x, s.unit? bt.u = some x → readable x va := by
  intro x hx w hw
  simpa [readableB, hx, hw] using h

/-- The last word of the 56-bit address space. -/
theorem meets_CacheAccesses (cyc : State → Beat → Nat) (eff : Effect) :
    Meets (form 0 k0 none_ none [0]) (plainly fun s bt => caching k0.src s bt ∧
      ∀ x, s.unit? bt.u = some x → readable x (virtAddr k0.src bt)) cyc eff (mem2 0xFFFFFFFFFFFFF8 1 0) :=
  meetsOne_sound (fun s bt => cachingB k0.src s bt && readableB s bt (virtAddr k0.src bt)) (fun _ _ h => by
    simp only [Bool.and_eq_true] at h
    exact ⟨cachingB_sound _ _ h.1, readableB_sound h.2⟩) (by decide +kernel) cyc eff

/-- The same unit in window mode, with the windows given. -/
def winUnit (ws : List CbWin) (a b n : Nat) : State :=
  (mem2 a b n).modUnit 0 fun x => { x with cfg := { x.cfg with window := true }, cache := { x.cache with wins := x.cache.wins.set 0 ws } }

/-- A window over 4 KiB from 0x1000 whose head is at 0x1800. -/
def win1 : CbWin := { base := 0x1000, tail := 0x1000, head := 0x1800, lastRead := 0x1000, used := 0 }

def windowedB (a : Src) (s : State) (bt : Beat) : Bool :=
  !(s.cfgOf bt.u).cbTiles.isEmpty && (s.cfgOf bt.u).window && virtAddr a bt % 8 == 0 && match s.unit? bt.u with
    | some x => (match windowOf? x (virtAddr a bt) s.nextId with
      | some w => decide (w.tail ≤ virtAddr a bt) && (w.bad.find? fun p => p.1 == virtAddr a bt).isNone
      | none => false)
    | none => false

theorem windowedB_sound {a : Src} {s : State} {bt : Beat} (h : windowedB a s bt = true) : windowed a s bt := by
  simp only [windowedB, Bool.and_eq_true] at h
  obtain ⟨⟨⟨h1, h2⟩, h3⟩, h4⟩ := h
  split at h4
  · rename_i x hx
    split at h4
    · rename_i w hw
      simp only [Bool.and_eq_true, decide_eq_true_eq, Option.isNone_iff_eq_none] at h4
      exact ⟨by simpa using h1, h2, by simpa using h3, x, w, hx, hw, h4.1, fun _ => h4.2⟩
    · exact absurd h4 Bool.false_ne_true
  · exact absurd h4 Bool.false_ne_true

/-- Window mode: a word below the head, the head itself, and an address that no window takes. -/
theorem meets_CacheAccesses_window (cyc : State → Beat → Nat) (eff : Effect) :
    Meets (form 0 k0 none_ none [0]) (plainly (windowed k0.src)) cyc eff (winUnit [win1] 0x17F8 0 0) :=
  meetsOne_sound (windowedB k0.src) (fun _ _ h => windowedB_sound h) (by decide +kernel) cyc eff
theorem meets_CacheAccesses_window_head (cyc : State → Beat → Nat) (eff : Effect) :
    Meets (form 0 k0 none_ none [0]) (plainly (windowed k0.src)) cyc eff (winUnit [win1] 0x1800 0 0) :=
  meetsOne_sound (windowedB k0.src) (fun _ _ h => windowedB_sound h) (by decide +kernel) cyc eff
theorem meets_CacheAccesses_window_new (cyc : State → Beat → Nat) (eff : Effect) :
    Meets (form 0 k0 none_ none [0]) (plainly (windowed k0.src)) cyc eff (winUnit [] 0x40 0 0) :=
  meetsOne_sound (windowedB k0.src) (fun _ _ h => windowedB_sound h) (by decide +kernel) cyc eff
theorem meets_CacheAccesses_store (cyc : State → Beat → Nat) (eff : Effect) :
    Meets (form 0 k0 k1 none []) (plainly (caching k0.src)) cyc eff (mem2 0 1 0) :=
  meetsOne_sound (cachingB k0.src) cachingB_sound (by decide +kernel) cyc eff
theorem meets_CacheControl (cyc : State → Beat → Nat) (eff : Effect) :
    Meets (form 0 k0 k1 none []) (plainly fun s bt => noWindow s bt ∧ rangeAddr bt % 8 = 0) cyc eff (mem2 64 1 0) :=
  meetsOne_sound (fun s bt => decide ((s.cfgOf bt.u).window = false ∧ rangeAddr bt % 8 = 0)) (fun _ _ h => of_decide_eq_true h)
    (by decide +kernel) cyc eff
/-- In window mode CWB and CFREE trap with 0x23; a misaligned CINV and a misaligned LDW trap with 0x22. -/
theorem meets_CacheControl_window : MeetsTrap (form 0 k0 k1 none []) (plainly fun s bt => noWindow s bt ∧ rangeAddr bt % 8 = 0) one_
    (each (walking true)) (trapped (windowTrap true)) 0 0x23 (winUnit [] 64 0 0) :=
  meetsTrap_sound (fun _ _ _ => false) (fun _ _ _ h => absurd h Bool.false_ne_true) (by decide +kernel)
theorem meets_CacheControl_misaligned : MeetsTrap (form 0 k0 k1 none []) (plainly fun s bt => noWindow s bt ∧ rangeAddr bt % 8 = 0)
    one_ (each (walking false)) (trapped (windowTrap true)) 0 0x22 (winUnit [] 68 0 0) :=
  meetsTrap_sound (fun _ _ _ => false) (fun _ _ _ h => absurd h Bool.false_ne_true) (by decide +kernel)
theorem meets_CacheControl_free : MeetsTrap (form 0 k0 none_ none []) (plainly noWindow) one_ (each (retaining fun _ => 0))
    (trapped (windowTrap false)) 0 0x23 (winUnit [] 3 0 0) :=
  meetsTrap_sound (fun _ _ _ => false) (fun _ _ _ h => absurd h Bool.false_ne_true) (by decide +kernel)
theorem meets_CacheControl_word : MeetsTrap (form 0 k0 none_ none [0]) (plainly fun _ bt => virtAddr k0.src bt % 8 = 0) one_
    (each (wordLoad (.out (.o 0)) k0.src))
    (trapped fun _ bt => if virtAddr k0.src bt % 8 ≠ 0 then some (0x22, virtAddr k0.src bt) else none) 0 0x22 (mem2 65 1 0) :=
  meetsTrap_sound (fun _ _ _ => false) (fun _ _ _ h => absurd h Bool.false_ne_true) (by decide +kernel)
theorem meets_CacheControl_hold (cyc : State → Beat → Nat) (eff : Effect) :
    Meets (form 0 k0 k1 none []) (plainly noWindow) cyc eff (mem2 3 1 0) :=
  meetsOne_sound (fun s bt => decide ((s.cfgOf bt.u).window = false)) (fun _ _ h => of_decide_eq_true h) (by decide +kernel) cyc eff
theorem meets_CacheControl_ldw (cyc : State → Beat → Nat) (eff : Effect) :
    Meets (form 0 k0 none_ none [0]) (plainly fun _ bt => virtAddr k0.src bt % 8 = 0) cyc eff (mem2 64 1 0) :=
  meetsOne_sound (fun _ bt => decide (virtAddr k0.src bt % 8 = 0)) (fun _ _ h => of_decide_eq_true h) (by decide +kernel) cyc eff

/-- At its second beat a load runs past its tile; a store is misaligned at its first. -/
theorem meets_AddressTraps : MeetsTrap (form 0 k0 none_ none []) (plainly (leads .ld 0 k0.src)) one_
    (each (loading .ld (.g 1) k0.src)) (trapped (misplaced .ld k0.src))
    1 0x20 (mem2 0x3FFF8 0 1) :=
  meetsTrap_sound (fun s bt _ => leadsB .ld 0 k0.src s bt) (fun _ _ _ h => leadsB_sound h) (by decide +kernel)
theorem meets_AddressTraps_store : MeetsTrap (form 0 k0 k1 none []) (plainly (leads .st 0 k0.src)) one_
    (each (wordStore .st 0 k0.src))
    (trapped (misplaced .st k0.src)) 0 0x22 (mem2 4 0 0) :=
  meetsTrap_sound (fun s bt _ => leadsB .st 0 k0.src s bt) (fun _ _ _ h => leadsB_sound h) (by decide +kernel)
/-- A tile of the wrong role. -/
theorem meets_AddressTraps_role : MeetsTrap (form 0 k0 none_ none []) (plainly (leads .ld 0 k0.src)) one_
    (each (loading .ld (.g 1) k0.src)) (trapped (misplaced .ld k0.src))
    0 0x21 (mem2 0x40000 0 0) :=
  meetsTrap_sound (fun s bt _ => leadsB .ld 0 k0.src s bt) (fun _ _ _ h => leadsB_sound h) (by decide +kernel)
/-- Traps at the first beat of the other accesses: PUSH to an AB tile, a misaligned atomic, AMOCAS past its section, BUFQ and BUFSET
of a buffer that is not valid, and reads of a word or a FIFO's head that has failed. -/
theorem meets_AddressTraps_push : MeetsTrap (form 0 k0 k1 none []) (plainly (leads .push 0 k0.src)) one_
    (each (pushing 0 k0.src)) (trapped (misplaced .push k0.src)) 0 0x21 (mem2 0 0 0) :=
  meetsTrap_sound (fun _ _ _ => false) (fun _ _ _ h => absurd h Bool.false_ne_true) (by decide +kernel)
theorem meets_AddressTraps_atomic : MeetsTrap (form 0 k0 k1 none [0]) (plainly (atomicGoes .famoAdd Fmt.isWide k0.src)) one_
    (each (atomic .famoAdd Fmt.isWide (.out (.o 0)) k0.src)) (trapped (misplaced .famoAdd k0.src)) 0 0x22 (mem2 4 0 0) :=
  meetsTrap_sound (fun _ _ _ => false) (fun _ _ _ h => absurd h Bool.false_ne_true) (by decide +kernel)
theorem meets_AddressTraps_cas : MeetsTrap (form 0 k0 k1 (some 2) []) (plainly (atomicGoes .amoCas (fun _ => true) k0.src)) one_
    (each (atomic .amoCas (fun _ => true) (.g 2) k0.src)) (trapped (misplaced .amoCas k0.src)) 0 0x20 (mem2 0x400000 0 0) :=
  meetsTrap_sound (fun _ _ _ => false) (fun _ _ _ h => absurd h Bool.false_ne_true) (by decide +kernel)
theorem meets_AddressTraps_bufq : MeetsTrap (form 0 k0 none_ none [0]) (plainly named) one_ (each (bufferState (.out (.o 0))))
    (trapped noBuffer) 0 0x20 (mem2 0x84000000 0 0) :=
  meetsTrap_sound (fun _ _ _ => false) (fun _ _ _ h => absurd h Bool.false_ne_true) (by decide +kernel)
theorem meets_AddressTraps_bufset : MeetsTrap (form 0 k0 k1 none []) (plainly named) one_ (each bufferChange)
    (trapped noBuffer) 0 0x20 (mem2 0x80000000 1 0) :=
  meetsTrap_sound (fun _ _ _ => false) (fun _ _ _ h => absurd h Bool.false_ne_true) (by decide +kernel)
theorem meets_AddressTraps_failed : MeetsTrap (form 0 k0 none_ none []) (plainly (leads .ld 0 k0.src)) one_
    (each (loading .ld (.g 1) k0.src)) (trapped (unread .ld k0.src)) 0 0x0D
    ((mem2 0x3FFF8 0 0).modUnit 0 fun x => x.setTile 0 { bad := [0x7FFF] }) :=
  meetsTrap_sound (fun _ _ _ => false) (fun _ _ _ h => absurd h Bool.false_ne_true) (by decide +kernel)
theorem meets_AddressTraps_failed_pop : MeetsTrap (form 0 k0 none_ none []) (plainly (leads .pop 0 k0.src)) one_
    (each (loading .pop (.g 1) k0.src)) (trapped (unread .pop k0.src)) 0 0x0D
    ((mem2 0x40000 0 0).modUnit 0 fun x => x.setTile 1 { fifo := [Token.eos], badFifo := [0] }) :=
  meetsTrap_sound (fun _ _ _ => false) (fun _ _ _ h => absurd h Bool.false_ne_true) (by decide +kernel)
/-- LDC and STC at an address that is not aligned, LDC in a section without CB tiles, at a word of its cache that has failed, and
in window mode below the tail of its window; STC in window mode. -/
theorem meets_AddressTraps_cache : MeetsTrap (form 0 k0 none_ none []) (plainly fun s bt => caching k0.src s bt ∧
      ∀ x, s.unit? bt.u = some x → readable x (virtAddr k0.src bt)) one_
    (each (cacheLoad (.g 1) k0.src false)) (trapped (uncached false k0.src)) 0 0x22 (mem2 4 0 0) :=
  meetsTrap_sound (fun _ _ _ => false) (fun _ _ _ h => absurd h Bool.false_ne_true) (by decide +kernel)
theorem meets_AddressTraps_uncached : MeetsTrap (form 0 ⟨.z, false⟩ none_ none []) (plainly (windowed .z)) one_
    (each (windowLoad (.g 1) .z)) (trapped (uncached false .z)) 0 0x21 (two 0x0B 0) :=
  meetsTrap_sound (fun _ _ _ => false) (fun _ _ _ h => absurd h Bool.false_ne_true) (by decide +kernel)
theorem meets_AddressTraps_line : MeetsTrap (form 0 k0 none_ none []) (plainly fun s bt => caching k0.src s bt ∧
      ∀ x, s.unit? bt.u = some x → readable x (virtAddr k0.src bt)) one_
    (each (cacheLoad (.g 1) k0.src false)) (trapped (cacheMissing k0.src)) 0 0x0D
    ((mem2 0x108 0 0).modUnit 0 fun x => { x with cache := { x.cache with
      ways := [{ sb := sbOf 0x108, valid := 1, bad := [1] }] } }) :=
  meetsTrap_sound (fun _ _ _ => false) (fun _ _ _ h => absurd h Bool.false_ne_true) (by decide +kernel)
theorem meets_AddressTraps_window : MeetsTrap (form 0 k0 none_ none []) (plainly (windowed k0.src)) one_
    (each (windowLoad (.g 1) k0.src)) (trapped (windowMiss k0.src)) 0 0x23 (winUnit [{ win1 with tail := 0x1008 }] 0x1000 0 0) :=
  meetsTrap_sound (fun _ _ _ => false) (fun _ _ _ h => absurd h Bool.false_ne_true) (by decide +kernel)
theorem meets_AddressTraps_window_failed : MeetsTrap (form 0 k0 none_ none []) (plainly (windowed k0.src)) one_
    (each (windowLoad (.g 1) k0.src)) (trapped (windowMiss k0.src)) 0 0x0D (winUnit [{ win1 with bad := [(0x17F8, 0x0D)] }] 0x17F8 0 0) :=
  meetsTrap_sound (fun _ _ _ => false) (fun _ _ _ h => absurd h Bool.false_ne_true) (by decide +kernel)
theorem meets_AddressTraps_stc : MeetsTrap (form 0 k0 k1 none []) (plainly (caching k0.src)) one_
    (each (cacheStore k0.src false)) (trapped (uncached true k0.src)) 0 0x22 (mem2 4 0 0) :=
  meetsTrap_sound (fun _ _ _ => false) (fun _ _ _ h => absurd h Bool.false_ne_true) (by decide +kernel)
theorem meets_AddressTraps_stc_window : MeetsTrap (form 0 k0 k1 none []) (plainly (caching k0.src)) one_
    (each (cacheStore k0.src false)) (trapped (uncached true k0.src)) 0 0x23 (winUnit [] 8 0 0) :=
  meetsTrap_sound (fun _ _ _ => false) (fun _ _ _ h => absurd h Bool.false_ne_true) (by decide +kernel)

/-- Addresses at the bounds of the clauses: 0x3FFF8 + 0 is inside, + 8 outside; the last tile of 16 and the one beyond; the last word
of a buffer of 4,096 bytes and the one beyond; a buffer that is not valid; the reserved raw bit; a TF tile. -/
theorem meets_WhereAnAddressLeads : let c := (memUnit {}).cfg
    c.access .ld 0x3FFF8 0 = .at_ 0 0x7FFF ∧ c.access .ld 0x3FFF8 8 = .bad 0x20 ∧ c.access .ld 0x40000000 0 = .bad 0x20 ∧
    c.access .ld 0x40000 0 = .bad 0x21 ∧ c.access .push 0x40001 0 = .at_ 1 0 ∧ c.access .st 1 0 = .bad 0x22 ∧
    c.tileCount = 16 ∧ c.access .ld 0x3C0000 0 = .at_ 15 0 ∧ c.access .ld 0x400000 0 = .bad 0x20 ∧ c.access .push 0x400001 0 = .bad 0x20 ∧
    c.access .ld 0x82000FF8 0 = .at_ 0 0x207 ∧ c.access .ld 0x82001000 0 = .bad 0x20 ∧ c.access .ld 0x82000FF8 8 = .bad 0x20 ∧
    c.access .ld 0x84000000 0 = .bad 0x20 ∧ c.access .pop 0x80000001 0 = .bad 0x20 ∧ c.access .push 0x82000000 0 = .bad 0x21 := by
  decide +kernel

theorem meetsOne_dec {m : Form} {ok : State → Beat → Prop} {s : State} [∀ s bt, Decidable (ok s bt)]
    (h : meetsOne m (fun s bt => decide (ok s bt)) s = true) (cyc : State → Beat → Nat) (eff : Effect) :
    Meets m (plainly ok) cyc eff s :=
  meetsOne_sound _ (fun _ _ h => of_decide_eq_true h) h cyc eff

/-! ## Class 5 -/

/-- k0 = w0, k1 = w1, k2 = v; a burst of 16 on i0. -/
def port3 (w0 w1 v : Nat) : State :=
  placedUnit (memUnit { elemOf fetchTokens 0 with
    k := (((Vector.replicate 8 0).set 0 (BitVec.ofNat 64 w0)).set 1 (BitVec.ofNat 64 w1)).set 2 (BitVec.ofNat 64 v) })

/-- An SCA rider over 4,096 lines with done binding 1, and an RD rider that delivers through binding 1. -/
theorem meets_RidersBoard (cyc : State → Beat → Nat) (eff : Effect) :
    Meets (brdForm 0 (.k 0) .z) (plainly (boards .sca 2)) cyc eff (port3 0x0500001234000000 0x0000000100001000 0) := by
  refine meetsOne_sound (fun s bt => decide ((s.cfgOf bt.u).unbound ((bt.cap.words.getD 1 0).toNat / 2 ^ 32 % 32) = false) &&
    decide ((s.cfgOf bt.u).unbound ((bt.cap.words.getD 1 0).toNat / 2 ^ 37 % 32) = false ∨
      RKind.delivers .sca ((riderWord .sca bt).toNat / 2 ^ 60) = false) && brdFree s bt.u 2 .sca) (fun s bt h => ?_)
    (by decide +kernel) cyc eff
  simp only [Bool.and_eq_true, decide_eq_true_eq] at h
  exact ⟨h.1.1, fun hd => h.1.2.resolve_right (by rw [hd]; simp), h.2⟩
theorem meets_RidersBoard_rd (cyc : State → Beat → Nat) (eff : Effect) :
    Meets (brdForm 0 (.k 0) .z) (plainly (boards .rd 2)) cyc eff (port3 0x0000001234000000 0x0000002100001000 0) := by
  refine meetsOne_sound (fun s bt => decide ((s.cfgOf bt.u).unbound ((bt.cap.words.getD 1 0).toNat / 2 ^ 32 % 32) = false) &&
    decide ((s.cfgOf bt.u).unbound ((bt.cap.words.getD 1 0).toNat / 2 ^ 37 % 32) = false) && brdFree s bt.u 2 .rd)
    (fun s bt h => ?_) (by decide +kernel) cyc eff
  simp only [Bool.and_eq_true, decide_eq_true_eq] at h
  exact ⟨h.1.1, fun _ => h.1.2, h.2⟩

/-- An SCA rider whose done field names binding 20, and an RD rider whose deliver field does: neither is bound. -/
theorem meets_RidersBoard_unbound : MeetsTrap (brdForm 0 (.k 0) .z) (plainly (boards .sca 2)) one_ (each (packetSent .sca 2))
    (fun s bt _ => if brdFree s bt.u 2 .sca = true ∧ strays .sca s bt = true then some (s, 0x24, 0, 0) else none) 0 0x24
    (port3 0x0500001234000000 0x0000001400001000 0) :=
  meetsTrap_sound (fun _ _ _ => false) (fun _ _ _ h => absurd h Bool.false_ne_true) (by decide +kernel)
theorem meets_RidersBoard_unbound_rd : MeetsTrap (brdForm 0 (.k 0) .z) (plainly (boards .rd 2)) one_ (each (packetSent .rd 2))
    (fun s bt _ => if brdFree s bt.u 2 .rd = true ∧ strays .rd s bt = true then some (s, 0x24, 0, 0) else none) 0 0x24
    (port3 0x0000001234000000 0x0000028100001000 0) :=
  meetsTrap_sound (fun _ _ _ => false) (fun _ _ _ h => absurd h Bool.false_ne_true) (by decide +kernel)

/-- TBLB of the row at offset 0x800 of tile 0. -/
def rowPs : List (Nat × Nat) := (List.range 256).map fun i => (0, 256 + i)
def rowAt (x : UnitSt) (_ : State) (bt : Beat) : Prop :=
  rowPs.length = 256 ∧
    (∀ i < 256, x.cfg.access .ld (bt.bb.bits.toNat % 2 ^ 32) (8 * i) = .at_ (rowPs.getD i (0, 0)).1 (rowPs.getD i (0, 0)).2) ∧
    (∀ p ∈ rowPs, (x.tile p.1).bad.contains p.2 = false ∧ tileBusy x bt.e p.1 = false) ∧ (x.bindSt 2).packets.length < 16

theorem meets_RiderControl : ∃ x, ∀ cyc eff, Meets (pairForm 0 (.k 0) (.k 2)) (plainly fun s bt => inUnit x s bt ∧ rowAt x s bt) cyc
    eff (port3 0 0 0x800) :=
  meetsOne_in (ok := rowAt) (fun x _ bt =>
      (List.range 256).all (fun i => decide (x.cfg.access .ld (bt.bb.bits.toNat % 2 ^ 32) (8 * i) =
        .at_ (rowPs.getD i (0, 0)).1 (rowPs.getD i (0, 0)).2)) &&
      rowPs.all (fun p => !(x.tile p.1).bad.contains p.2 && !tileBusy x bt.e p.1) && decide ((x.bindSt 2).packets.length < 16))
    (fun x s bt h => by
      simp only [Bool.and_eq_true, List.all_eq_true, List.mem_range, decide_eq_true_eq, Bool.not_eq_true'] at h
      exact ⟨by simp [rowPs], h.1.1, h.1.2, h.2⟩) (by decide +kernel)
theorem meets_RiderControl_ridq (cyc : State → Beat → Nat) (eff : Effect) :
    Meets (oneForm 0 (.k 0) []) (plainly always) cyc eff (port3 0x102 0 0) := meetsOne_always (by decide +kernel) cyc eff

/-- The first `k` slots are held. -/
def heldSlots (k : Nat) : Assoc OpSlot := (List.range k).map fun n => (n, { job := some 9 })

theorem heldSlots_get (k m : Nat) (h : m < k) : (heldSlots k).getD m {} = { job := some 9 } := by
  have : ∀ l : List Nat, m ∈ l → Assoc.get? (l.map fun n => (n, ({ job := some 9 } : OpSlot))) m = some { job := some 9 } := by
    intro l
    induction l with
    | nil => simp
    | cons n l ih =>
      intro hm
      by_cases hn : n = m
      · simp [Assoc.get?, hn]
      · simpa [Assoc.get?, hn] using ih (by simpa [Ne.symm hn] using hm)
  simp [heldSlots, Assoc.getD, this _ (List.mem_range.2 h)]

/-- The slots of quarter 0 are as given, and the unit's operand slots are those of quarter 0. -/
def slotsAre (l : Assoc OpSlot) (x : UnitSt) (s : State) (bt : Beat) : Bool := decide (s.slots = l) && x.quarterOf bt.e == 0

/-- The first slot is free; the last one only; none. -/
theorem meets_OperandSlots : ∃ x, ∀ cyc eff, Meets (form 0 none_ none_ none [0]) (plainly fun s bt => inUnit x s bt ∧ 0 < 512 ∧
      (s.slotOf (x.quarterOf bt.e) 0).free = true ∧ ∀ m < 0, (s.slotOf (x.quarterOf bt.e) m).free = false) cyc eff (port3 0 0 0) :=
  meetsOne_in (ok := fun x s bt => 0 < 512 ∧ (s.slotOf (x.quarterOf bt.e) 0).free = true ∧
    ∀ m < 0, (s.slotOf (x.quarterOf bt.e) m).free = false) (slotsAre [])
    (fun x s bt h => by
      simp only [slotsAre, Bool.and_eq_true, decide_eq_true_eq, beq_iff_eq] at h
      simp [State.slotOf, h.1, Assoc.getD, Assoc.get?, OpSlot.free]) (by decide +kernel)
theorem meets_OperandSlots_last : ∃ x, ∀ cyc eff, Meets (form 0 none_ none_ none [0]) (plainly fun s bt => inUnit x s bt ∧ 511 < 512 ∧
      (s.slotOf (x.quarterOf bt.e) 511).free = true ∧ ∀ m < 511, (s.slotOf (x.quarterOf bt.e) m).free = false) cyc eff
    { port3 0 0 0 with slots := heldSlots 511 } :=
  meetsOne_in (ok := fun x s bt => 511 < 512 ∧ (s.slotOf (x.quarterOf bt.e) 511).free = true ∧
    ∀ m < 511, (s.slotOf (x.quarterOf bt.e) m).free = false)
    (fun x s bt => slotsAre (heldSlots 511) x s bt && (s.slotOf 0 511).free)
    (fun x s bt h => by
      simp only [slotsAre, Bool.and_eq_true, decide_eq_true_eq, beq_iff_eq] at h
      refine ⟨by decide, by rw [h.1.2]; exact h.2, fun m hm => ?_⟩
      simp [State.slotOf, h.1.1, h.1.2, heldSlots_get _ _ hm, OpSlot.free]) (by decide +kernel)
theorem meets_OperandSlots_none : ∃ x, ∀ cyc eff, Meets (form 0 none_ none_ none [0]) (plainly fun s bt => inUnit x s bt ∧
      ∀ m < 512, (s.slotOf (x.quarterOf bt.e) m).free = false) cyc eff { port3 0 0 0 with slots := heldSlots 512 } :=
  meetsOne_in (ok := fun x s bt => ∀ m < 512, (s.slotOf (x.quarterOf bt.e) m).free = false) (slotsAre (heldSlots 512))
    (fun x s bt h m hm => by
      simp only [slotsAre, Bool.and_eq_true, decide_eq_true_eq, beq_iff_eq] at h
      simp [State.slotOf, h.1, h.2, heldSlots_get _ _ hm, OpSlot.free]) (by decide +kernel)
theorem meets_OperandSlots_rlse : ∃ x, ∀ cyc eff, Meets (oneForm 0 (.k 0) [0]) (plainly fun s bt => inUnit x s bt ∧ True) cyc eff
    (port3 5 0 0) :=
  meetsOne_in (ok := fun _ _ _ => True) (fun _ _ _ => true) (fun _ _ _ _ => trivial) (by decide +kernel)

theorem meets_CopiesAndCollectives : ∃ x, ∀ cyc eff, Meets (pairForm 0 (.k 0) (.k 2)) (plainly fun s bt => inUnit x s bt ∧ True) cyc
    eff (port3 0x1000000000000005 0x1000000000000006 0x01000040) :=
  meetsOne_in (ok := fun _ _ _ => True) (fun _ _ _ => true) (fun _ _ _ _ => trivial) (by decide +kernel)
/-- A scale-out budget that admits, and one of zero. -/
theorem meets_CopiesAndCollectives_coll : ∃ x, ∀ cyc eff, Meets (pairForm 0 (.k 0) (.k 2)) (plainly fun s bt => inUnit x s bt ∧
    farReady (bt.raise s bt.poisonFlag) x.tenant = true) cyc eff (port3 0 0 0) :=
  meetsOne_in (ok := fun x s bt => farReady (bt.raise s bt.poisonFlag) x.tenant = true)
    (fun x s bt => farReady (bt.raise s bt.poisonFlag) x.tenant) (fun _ _ _ h => h) (by decide +kernel)

theorem meets_PortsDrainsAndCounts (cyc : State → Beat → Nat) (eff : Effect) :
    Meets (form 0 ch0 none_ none []) (plainly fun s bt => ∀ x, s.unit? bt.u = some x → x.portRoom 1 ≠ 0) cyc eff (port3 0 0 0) :=
  meetsOne_sound (fun s bt => match s.unit? bt.u with | some x => x.portRoom 1 != 0 | none => false)
    (fun _ _ h x hx => by rw [hx] at h; simpa using h) (by decide +kernel) cyc eff
theorem meets_PortsDrainsAndCounts_drn (cyc : State → Beat → Nat) (eff : Effect) :
    Meets (oneForm 0 (.k 0) []) (plainly always) cyc eff (port3 0x21 0 0) := meetsOne_always (by decide +kernel) cyc eff
theorem meets_RemoteWritesAndMessages (cyc : State → Beat → Nat) (eff : Effect) :
    Meets (form 0 k0 k1 none []) (plainly fun s bt => ∀ x, s.unit? bt.u = some x →
      farReady (bt.raise s bt.poisonFlag) x.tenant = true) cyc eff (port3 0x100000008 0 0) :=
  meetsOne_sound (fun s bt => match s.unit? bt.u with | some x => farReady (bt.raise s bt.poisonFlag) x.tenant | none => false)
    (fun _ _ h x hx => by rw [hx] at h; exact h) (by decide +kernel) cyc eff
/-- SNDM of a burst of 16. -/
theorem meets_RemoteWritesAndMessages_sndm : ∃ x, ∀ cyc eff,
    Meets { t := 0, a := .ch 0, b := .k 0, srcs := [.k 0], takes := [] } (plainly fun s bt => inUnit x s bt ∧
      (s.elem bt.u bt.e).headBurst 0 = fetchTokens ∧ fetchTokens ≠ [] ∧ farReady s x.tenant = true) cyc eff (port3 0 0 0) :=
  meetsOne_in (ok := fun x s bt => (s.elem bt.u bt.e).headBurst 0 = fetchTokens ∧ fetchTokens ≠ [] ∧ farReady s x.tenant = true)
    (fun x s bt => decide ((s.elem bt.u bt.e).headBurst 0 = fetchTokens) && farReady s x.tenant)
    (fun _ _ _ h => by simp at h; exact ⟨h.1, by decide, h.2⟩) (by decide +kernel)

/-! ## Class 6 -/

/-- Three points of the plane in FP64: x tokens numbered 0, 1, 2. -/
def points (l : List Nat) : State := machine 0x01 (elemOf (data (l.zip [0, 0, 1, 1, 2, 2])) 0)

def standingB (p : Machine.Pred) (a : Fin 4) (s : State) (bt : Beat) : Bool :=
  decide ((s.elem bt.u bt.e).win.length < 8) && decide ((instanceAt p a s bt).2.2 = none) &&
    decide ((instanceAt p a s bt).1.length = p.dim * p.points)

theorem standingB_sound {p : Machine.Pred} {a : Fin 4} {s : State} {bt : Beat} (h : standingB p a s bt = true) (c : Carry)
    (h1 : c.n = 0) (h2 : c.toks = []) : standing p a s bt c := by
  simp [standingB] at h
  exact ⟨h1, h2, h.1.1, h.1.2, h.2⟩

/-- Finite points. -/
theorem meets_PredicatesComplete : Meets (geoForm 0 0)
    (fun s bt c => standing .ori2 0 s bt c ∧ (false = true ∨ ¬infinite .ori2 0 s bt)) (fun _ _ => Machine.Pred.cyclesA .ori2)
    (each (judged .ori2 false (.o 0) 0 true)) (points [0, 0, 0x3FF0000000000000, 0, 0, 0x3FF0000000000000]) :=
  meets_sound (fun s bt c => decide (c.n = 0) && decide (c.toks = []) && standingB .ori2 0 s bt &&
      match valuesOf .ori2 0 s bt with | some vs => vs.all FVal.isFinite | none => false)
    (fun s bt c h => by
      simp only [Bool.and_eq_true, decide_eq_true_eq] at h
      obtain ⟨⟨⟨h1, h2⟩, h3⟩, h4⟩ := h
      refine ⟨standingB_sound h3 c h1 h2, .inr ?_⟩
      rintro ⟨_, vs, hv, v, hm, hf⟩
      rw [hv] at h4
      have := List.all_eq_true.1 h4 v hm
      rw [hf] at this; exact absurd this Bool.false_ne_true) (by decide +kernel)

def infiniteB (p : Machine.Pred) (a : Fin 4) (s : State) (bt : Beat) : Bool :=
  (instanceAt p a s bt).1.all (fun k => !k.isPoison) &&
    match valuesOf p a s bt with
    | some vs => vs.any fun v => !v.isFinite
    | none => false

theorem infiniteB_sound {p : Machine.Pred} {a : Fin 4} {s : State} {bt : Beat} (h : infiniteB p a s bt = true) :
    infinite p a s bt := by
  simp only [infiniteB, Bool.and_eq_true, List.all_eq_true] at h
  refine ⟨fun k hk => by simpa using h.1 k hk, ?_⟩
  split at h
  · rename_i vs hv
    obtain ⟨v, hm, hf⟩ := List.any_eq_true.1 h.2
    exact ⟨vs, hv, v, hm, by simpa using hf⟩
  · exact absurd h.2 Bool.false_ne_true

/-- A NaN among them: the trap. -/
theorem meets_PredicatesComplete_trap : ∃ (s s' : State) (f : Focus) (x : UnitSt), Fresh s f x ∧
    let m := geoForm 0 0
    let s0 := m.pre (beginFiring s f.u f.e f.slot 0) f (Trig.n ((x.elem f.e).trigger (0 : Fin 64))) 0
    let bt := m.beat (beginFiring s f.u f.e f.slot 0) f (Trig.n ((x.elem f.e).trigger (0 : Fin 64))) 0 (m.cap (x.elem f.e) f.slot)
    standing .ori2 0 s0 bt {} ∧ infinite .ori2 0 s0 bt ∧ s' = bt.mod s0 (fun _ => (instanceAt .ori2 0 s0 bt).2.1) ∧
      s'.canTrap f.u = true := by
  refine ⟨points [0, 0, 0x7FF8000000000000, 0, 0, 0], _, ⟨0, 0, 0, false⟩, unitOf 0x01 (elemOf (data
    ([0, 0, 0x7FF8000000000000, 0, 0, 0].zip [0, 0, 1, 1, 2, 2])) 0), ⟨rfl, rfl, by decide +kernel, rfl⟩, ?_, ?_, rfl, ?_⟩
  · exact standingB_sound (by decide +kernel) _ rfl rfl
  · exact infiniteB_sound (by decide +kernel)
  · decide +kernel

theorem meets_CoordinateStreams (cyc : State → Beat → Nat) (eff : Effect) :
    Meets (form 0 ch0 ch1 none [0]) (plainly always) cyc eff (two 0x0C14 0) := meetsOne_always (by decide +kernel) cyc eff
theorem meets_CoordinateStreams_ccmp : Meets { form 0 ch0 ch1 none [] with room := fun last => if last then 1 else 0 }
    (fun _ _ _ => True) one_ (compared 2 fun bt => (decide (bt.a.coord < bt.bb.coord), 0)) (two 0x0B 1) :=
  meets_sound (fun _ _ _ => true) (fun _ _ _ _ => trivial) (by decide +kernel)

/-! ## Class 7 -/

theorem meets_RegisterAccess (cyc : State → Beat → Nat) (eff : Effect) :
    Meets (form 0 k0 k1 none [0]) (plainly always) cyc eff (port3 0x0106 3 0) := meetsOne_always (by decide +kernel) cyc eff
theorem meets_FreezeThawSnapInvalidate (cyc : State → Beat → Nat) (eff : Effect) :
    Meets (form 0 k0 k1 none [0]) (plainly always) cyc eff (port3 0 0 0) := meetsOne_always (by decide +kernel) cyc eff
theorem meets_FreezeThawSnapInvalidate_tlbi : ∃ x, ∀ cyc eff,
    Meets (form 0 k0 k1 none [0]) (plainly fun s bt => inUnit x s bt ∧ True) cyc eff (port3 0x1000 0x2000 0) :=
  meetsOne_in (ok := fun _ _ _ => True) (fun _ _ _ => true) (fun _ _ _ _ => trivial) (by decide +kernel)
/-- CFGW to element (0, 1), to its own element, and to a row outside the section. -/
theorem meets_ConfigurationWritesAndCancels (cyc : State → Beat → Nat) (eff : Effect) :
    Meets (form 0 k0 k1 none [0]) (plainly fun s bt => s.cfgwTarget bt.u bt.a.bits.toNat = some (0, 1) ∧
      ((s.elem 0 1).firing = none ∨ (0 = bt.u ∧ 1 = bt.e)) ∧
      cfgwBroken (s.elem 0 1) (bitsOf bt.a.bits.toNat 17 16) bt.bb.bits = false) cyc eff
      (port3 0x100 0 0) := meetsOne_dec (by decide +kernel) cyc eff
theorem meets_ConfigurationWritesAndCancels_own (cyc : State → Beat → Nat) (eff : Effect) :
    Meets (form 0 k0 k1 none [0]) (plainly fun s bt => s.cfgwTarget bt.u bt.a.bits.toNat = some (0, 0) ∧
      ((s.elem 0 0).firing = none ∨ (0 = bt.u ∧ 0 = bt.e)) ∧
      cfgwBroken (s.elem 0 0) (bitsOf bt.a.bits.toNat 17 16) bt.bb.bits = false) cyc eff
      (port3 0 0 0) := meetsOne_dec (by decide +kernel) cyc eff
/-- HALT under trigger 1 of element (0, 1), an entry that cannot be corrected. -/
theorem meets_ConfigurationWritesAndCancels_broken (cyc : State → Beat → Nat) (eff : Effect) :
    Meets (form 0 k0 k1 none [0]) (plainly fun s bt => s.cfgwTarget bt.u bt.a.bits.toNat = some (0, 1) ∧
      (s.elem 0 1).firing = none ∧ ¬(0 = bt.u ∧ 1 = bt.e) ∧
      cfgwBroken (s.elem 0 1) (bitsOf bt.a.bits.toNat 17 16) bt.bb.bits = true ∧
      s.canTrap 0 = true) cyc eff ((port3 0x100 0x043DFCE0 0).modElem 0 1 fun y => { y with badCfg := [33] }) :=
  meetsOne_dec (by decide +kernel) cyc eff
theorem meets_ConfigurationWritesAndCancels_outside (cyc : State → Beat → Nat) (eff : Effect) :
    Meets (form 0 k0 k1 none [0]) (plainly fun s bt => s.cfgwTarget bt.u bt.a.bits.toNat = none) cyc eff (port3 8 0 0) :=
  meetsOne_dec (by decide +kernel) cyc eff
theorem meets_ConfigurationWritesAndCancels_canc : ∃ x, ∀ cyc eff,
    Meets (form 0 k0 none_ none [0]) (plainly fun s bt => inUnit x s bt ∧ s.host.cancelAt ≠ some s.clk.cyc) cyc eff (port3 0 0 0) :=
  meetsOne_in (ok := fun _ s _ => s.host.cancelAt ≠ some s.clk.cyc) (fun _ s _ => decide (s.host.cancelAt ≠ some s.clk.cyc))
    (fun _ _ _ h => of_decide_eq_true h) (by decide +kernel)
theorem meets_ControlAndCounters : ∃ x, ∀ cyc eff,
    Meets (form 0 none_ none_ none []) (plainly fun s bt => inUnit x s bt ∧ True) cyc eff (port3 0 0 0) :=
  meetsOne_in (ok := fun _ _ _ => True) (fun _ _ _ => true) (fun _ _ _ _ => trivial) (by decide +kernel)
theorem meets_ControlAndCounters_perf (cyc : State → Beat → Nat) (eff : Effect) :
    Meets (form 0 k0 none_ none [0]) (plainly always) cyc eff (port3 7 0 0) := meetsOne_always (by decide +kernel) cyc eff
theorem meets_ControlAndCounters_attn : ∃ x, ∀ cyc eff,
    Meets (form 0 k0 none_ none []) (plainly fun s bt => inUnit x s bt ∧ s.waitingRecs (s.queueOf x.job) < 64) cyc eff (port3 0 0 0) :=
  meetsOne_in (ok := fun x s _ => s.waitingRecs (s.queueOf x.job) < 64) (fun x s _ => decide (s.waitingRecs (s.queueOf x.job) < 64))
    (fun _ _ _ h => of_decide_eq_true h) (by decide +kernel)
theorem meets_TrapsAreTaken : MeetsTrap (form 0 k0 none_ none []) (fun _ _ _ => False) one_ (each fun s _ => (s, []))
    (trapped fun _ bt => some (0x26, bt.a.bits.toNat)) 0 0x26 (port3 7 0 0) :=
  meetsTrap_sound (fun _ _ _ => false) (fun _ _ _ h => absurd h Bool.false_ne_true) (by decide +kernel)

end Sys2Proof.Tests
end

