-- ==== Sys2Proof/Tests/Events.lean ====
section
/-! SUPPORT. For every clause about an event that has hypotheses, a state that meets all of them together. -/

set_option Elab.async false

namespace Sys2Proof.Tests

open Machine Spec

/-- A booted device with one unit, its host link up, 2^25 cycles after power-good. -/
def ev (x : UnitSt) : State :=
  { State.reset with units := [(0, x)], clk := { cyc := 2 ^ 25 }, boot := { code := 4 }, regs := [(0x0601, 1)] }

/-! A result of a translation with what holds of it, from a test of both. -/

theorem exists_ok {α β ε : Type} {P : α → β → Prop} [∀ a b, Decidable (P a b)] {r : α × Except ε β}
    (h : (match r with | (a, .ok b) => decide (P a b) | _ => false) = true) : ∃ a b, r = (a, .ok b) ∧ P a b := by
  obtain ⟨a, e⟩ := r
  cases e with
  | ok b => exact ⟨a, b, rfl, of_decide_eq_true h⟩
  | error _ => exact absurd h Bool.false_ne_true

theorem exists_page {P : State → Page → Prop} [∀ a b, Decidable (P a b)] {r : State × Xlat}
    (h : (match r with | (a, .page b) => decide (P a b) | _ => false) = true) : ∃ a b, r = (a, .page b) ∧ P a b := by
  obtain ⟨a, e⟩ := r
  cases e with
  | page b => exact ⟨a, b, rfl, of_decide_eq_true h⟩
  | fault _ _ _ => exact absurd h Bool.false_ne_true
  | fetch _ => exact absurd h Bool.false_ne_true

theorem exists_fetch {β : Type} {r : State × Except (Nat × Xlat) β}
    (h : (match r with | (_, .error (_, .fetch _)) => true | _ => false) = true) : ∃ a va line, r = (a, .error (va, .fetch line)) := by
  obtain ⟨a, e⟩ := r
  cases e with
  | ok b => exact absurd h Bool.false_ne_true
  | error v =>
    obtain ⟨va, x⟩ := v
    cases x with
    | fetch l => exact ⟨a, va, l, rfl⟩
    | page _ => exact absurd h Bool.false_ne_true
    | fault _ _ _ => exact absurd h Bool.false_ne_true

/-! ## Elements -/

def idling : UnitSt := memUnit { pick := .idle (some 5) (idleSig (memUnit {}) 0) }
theorem meets_ElementEvents_wake : (ev idling).unit? 0 = some idling ∧ (ev idling).wakes idling 0 = true := by decide +kernel

def broken : UnitSt := memUnit { pick := .brk }
theorem meets_ElementEvents_resume : (ev broken).boot.powered = true ∧ (ev broken).linkUp = true ∧ (ev broken).unit? 0 = some broken ∧
    (broken.elem 0).pick = .brk := by decide +kernel

/-- Slot 31 holds HALT, its trigger holds since cycle 0. -/
def starving : UnitSt := memUnit { slots := [(31, 0x043DFCE0)], trig := [(1, 0)], starveAt := [(31, 0)] }
theorem meets_ElementEvents_starve : (ev starving).placed? 0 = some starving ∧ (starving.elem 0).starveAt.get? 31 = some 0 ∧
    slotHolds starving 0 31 = true ∧ 31 < 32 ∧ 0 + 2 ^ 20 ≤ (ev starving).clk.cyc := by decide +kernel

theorem meets_ElementEvents_idle : (ev (memUnit {})).placed? 0 = some (memUnit {}) ∧
    ((memUnit {}).elem 0).lastFire + 2 ^ 24 ≤ (ev (memUnit {})).clk.cyc ∧
    (memUnit {}).armedAt + 2 ^ 24 ≤ (ev (memUnit {})).clk.cyc ∧
    ((memUnit {}).elems.any fun p => p.2.pick == .brk) = false ∧ quietSince (memUnit {}) + 2 ^ 24 ≤ (ev (memUnit {})).clk.cyc := by
  decide +kernel

def gating : UnitSt := memUnit { cfg := { gated := true } }
theorem meets_ElementEvents_gate : (ev gating).placed? 0 = some gating ∧ (gating.elem 0).cfg.gated = true ∧
    (gating.elem 0).firing = none ∧ (gating.elem 0).busy ≤ (ev gating).clk.cyc := by decide +kernel

/-! ## Tokens -/

def tok (n : Nat) : Token := ⟨0, 0, BitVec.ofNat 32 n, BitVec.ofNat 64 n⟩

/-- One route from host binding 1 to channel 0, diverted to tile 1. -/
def routed (admits : BitVec 8) (turn : Nat) (dst : Endpoint) (fl : RouteSt) : UnitSt :=
  let x := memUnit {}
  let c : SecCfg := { x.cfg with routes := [{ src := .port 1, dst := dst, admits := admits, turn := turn, divert := .tile 1 }] }
  { x with cfg := c, flight := [(0, fl)] }

def land : UnitSt := routed 0xFF 0 (.chan 0 0 0) { toks := [tok 7] }
theorem meets_TokenEvents_land : ∃ r t y, (ev land).placed? 0 = some land ∧ land.cfg.routes[0]? = some r ∧
    State.routeHead land 0 r = some (t, y) ∧ State.Route.refuses r t = false ∧ r.turn = 0 ∧ State.endRoom land r.dst = true :=
  ⟨_, _, _, by decide +kernel, rfl, rfl, by decide +kernel, by decide +kernel, by decide +kernel⟩
def diverted : UnitSt := routed 0xFE 0 (.chan 0 0 0) { toks := [tok 7] }
theorem meets_TokenEvents_divert : ∃ r t y, (ev diverted).placed? 0 = some diverted ∧ diverted.cfg.routes[0]? = some r ∧
    State.routeHead diverted 0 r = some (t, y) ∧ State.Route.refuses r t = true ∧ State.endRoom diverted r.divert = true :=
  ⟨_, _, _, by decide +kernel, rfl, rfl, by decide +kernel, by decide +kernel⟩
def turning : UnitSt := routed 0xFF 8 (.chan 0 0 0) { toks := [tok 7] }
theorem meets_TokenEvents_turn : ∃ r t y, (ev turning).placed? 0 = some turning ∧ turning.cfg.routes[0]? = some r ∧
    State.routeHead turning 0 r = some (t, y) ∧ State.Route.refuses r t = false ∧ r.turn ≠ 0 ∧ (y.route 0).order = [] ∧
    t.isData = true ∧ (y.route 0).turn.length + 1 < r.turn * r.turn :=
  ⟨_, _, _, by decide +kernel, rfl, rfl, by decide +kernel, by decide +kernel, by decide +kernel, by decide +kernel, by decide +kernel⟩
def emitting : UnitSt := routed 0xFF 8 (.chan 0 0 0) { order := [tok 7] }
theorem meets_TokenEvents_emit : ∃ r, (ev emitting).placed? 0 = some emitting ∧ emitting.cfg.routes[0]? = some r ∧
    (emitting.route 0).order = [tok 7] ∧ State.endRoom emitting r.dst = true :=
  ⟨_, by decide +kernel, rfl, by decide +kernel, by decide +kernel⟩
def pulsed : UnitSt := routed 0xFF 0 (.chan 0 0 8) { pulses := 1 }
theorem meets_TokenEvents_pulse : ∃ r, (ev pulsed).placed? 0 = some pulsed ∧ pulsed.cfg.routes[0]? = some r ∧
    r.dst = .chan 0 0 8 ∧ 8 ≤ 8 ∧ (pulsed.route 0).pulses ≠ 0 := ⟨_, by decide +kernel, rfl, rfl, by decide, by decide +kernel⟩
/-- A pulse that came behind fences that have all ended. -/
def pulsedBehind : UnitSt := routed 0xFF 0 (.chan 0 0 8) { fenced := [3] }
theorem meets_TokenEvents_pulse_fenced : ∃ r, (ev pulsedBehind).placed? 0 = some pulsedBehind ∧ pulsedBehind.cfg.routes[0]? = some r ∧
    r.dst = .chan 0 0 8 ∧ (pulsedBehind.route 0).pulses = 0 ∧ (pulsedBehind.route 0).fenced = [3] ∧
    fencesPast (ev pulsedBehind) 0 pulsedBehind r 3 = true :=
  ⟨_, by decide +kernel, rfl, rfl, by decide +kernel, by decide +kernel, by decide +kernel⟩
/-- A configuration token for k7, and one for a coordinate that names no k-register. -/
def configuring (n : Nat) : UnitSt := memUnit { ins := (Vector.replicate 4 {}).set 0 { q := [⟨6, 0, BitVec.ofNat 32 n, 9⟩] } }
theorem meets_TokenEvents_config : (ev (configuring 7)).placed? 0 = some (configuring 7) ∧
    ((configuring 7).elem 0).front (Fin.ofNat 4 0) = some ⟨6, 0, 7, 9⟩ ∧ (⟨6, 0, 7, 9⟩ : Token).isConfig = true ∧
    ((configuring 7).elem 0).firing = none ∧ ((configuring 7).elem 0).busy ≤ (ev (configuring 7)).clk.cyc := by decide +kernel
theorem meets_TokenEvents_config_other : (ev (configuring 8)).placed? 0 = some (configuring 8) ∧
    ((configuring 8).elem 0).front (Fin.ofNat 4 0) = some ⟨6, 0, 8, 9⟩ ∧ (⟨6, 0, 8, 9⟩ : Token).isConfig = true ∧
    ((configuring 8).elem 0).firing = none ∧ ((configuring 8).elem 0).busy ≤ (ev (configuring 8)).clk.cyc := by decide +kernel
def draining : UnitSt := { memUnit {} with phase := .draining }
def freezing (a : Nat) : UnitSt := { memUnit {} with phase := .frozen a false }
theorem meets_TokenEvents_ingress : (ev (memUnit {})).unit? 0 = some (memUnit {}) ∧ ((memUnit {}).cfg.bindCfg 1).kind = .host ∧
    (memUnit {}).phase = .running ∧ (ev draining).unit? 0 = some draining ∧ (draining.cfg.bindCfg 1).kind = .host ∧
    draining.phase = .draining ∧ (ev (freezing 0)).unit? 0 = some (freezing 0) ∧ ((freezing 0).cfg.bindCfg 1).kind = .host ∧
    (freezing 0).phase = .frozen 0 false := by decide +kernel

/-! ## Results -/

def l0 : Late := { dst := .reg 3, due := 4, tok := some ⟨0, 3, 0, 9⟩ }
def returning : UnitSt := memUnit { late := [l0] }
theorem meets_ResultEvents_late : (ev returning).placed? 0 = some returning ∧ (returning.elem 0).late[0]? = some l0 ∧
    l0.tok = some ⟨0, 3, 0, 9⟩ ∧ l0.due ≤ (ev returning).clk.cyc ∧ firstThere (returning.elem 0).late 0 l0.dst = true ∧
    l0.dst = .reg 3 ∧ l0.last = true := by decide +kernel

/-- An LDS that waits for a word that has become full. -/
def w0 : MemReq := { id := 1, e := 0, slot := 0, port := 0, stamp := false, tile := 0, word := 5, op := .lds, hasDst := true }
def served : UnitSt := { memUnit {} with mem := [(0, { words := [(5, 9)], full := [(5, ())], waiting := [w0] })] }
theorem meets_ResultEvents_request : (ev served).placed? 0 = some served ∧ (served.tile 0).waiting[0]? = some w0 ∧
    w0.op.ready (served.tile 0) w0.word = true ∧ aheadOf (served.tile 0) 0 w0 = false ∧ State.badWord served w0 = false := by
  decide +kernel

/-- Three points on a line, which stage B decides; the unit square, which it leaves; both in the exact unit's queue. -/
def inst (p : Machine.Pred) (pts : List (List Dy × BitVec 32)) (st : GeoStage) : GeoInst :=
  { pred := p, sym := false, stg := true, pts := pts, dst := .o 0, tag := 0, stage := st, due := 46 }
def judging (g : GeoInst) : UnitSt := memUnit { win := [g] }
def gB : GeoInst := inst .ori2 (tri 0 0 1 1 2 2 3) .inB
theorem meets_ResultEvents_stageB : (ev (judging gB)).placed? 0 = some (judging gB) ∧ ((judging gB).elem 0).win[0]? = some gB ∧
    gB.stage = .inB ∧ gB.due ≤ (ev (judging gB)).clk.cyc ∧
    ((((judging gB).elem 0).win.take 0).any fun h => h.stage == .inB) = false ∧ (decideInst gB.pred gB.sym .b gB.pts).isSome = true := by decide +kernel
def gC : GeoInst := inst .incr square .inB
theorem meets_ResultEvents_escalates : (ev (judging gC)).placed? 0 = some (judging gC) ∧ ((judging gC).elem 0).win[0]? = some gC ∧
    gC.stage = .inB ∧ gC.due ≤ (ev (judging gC)).clk.cyc ∧
    ((((judging gC).elem 0).win.take 0).any fun h => h.stage == .inB) = false ∧ decideInst gC.pred gC.sym .b gC.pts = none := by decide +kernel
def gX : GeoInst := inst .incr square .inC
theorem meets_ResultEvents_exact : let s := { ev (judging gX) with exact := [(0, [(0, 0, 47)])] }
    s.exact.getD 0 [] = [(0, 0, 47)] ∧ s.placed? 0 = some (judging gX) ∧
    ((judging gX).elem 0).win[((judging gX).elem 0).win.findIdx fun (g : GeoInst) => g.stage == GeoStage.inC]? = some gX ∧
    (decideInst gX.pred gX.sym .c gX.pts).isSome = true ∧ exactBefore s 0 0 0 47 = false := by decide +kernel
def gK : GeoInst := inst .incr square (.known ⟨0, 0, 10, 3⟩)
theorem meets_ResultEvents_send : (ev (judging gK)).placed? 0 = some (judging gK) ∧ ((judging gK).elem 0).win = [gK] ∧
    gK.stage = .known ⟨0, 0, 10, 3⟩ ∧ gK.due ≤ (ev (judging gK)).clk.cyc ∧ ∀ o ∈ outsOf gK.dst, (judging gK).credit 0 o 1 = true := by
  decide +kernel
def g0 : GuardPoison := { u := 0, e := 0, bind := 4, doneB := 1, num := 3, due := 16 }
theorem meets_ResultEvents_guard : let s := { ev (memUnit {}) with guards := [(3, g0)] }
    s.guards.get? 3 = some g0 ∧ g0.due ≤ s.clk.cyc := by decide +kernel

/-! ## Systolic -/

/-- A grid of one element, its north and south edges, with a token at i0. -/
def grid (k : Token) : UnitSt := memUnit { cfg := { systolic := true }, ins := (Vector.replicate 4 {}).set 0 { q := [k] } }
theorem meets_SystolicEvents : ∀ k ∈ [tok 7, Token.poison 1 0, Token.eos], (ev (grid k)).placed? 0 = some (grid k) ∧
    ((grid k).elem 0).cfg.systolic = true ∧ ((grid k).elem 0).stopped = false ∧ ((grid k).elem 0).sysBusy ≤ (ev (grid k)).clk.cyc ∧
    ((grid k).elem 0).brickBusy ≤ (ev (grid k)).clk.cyc ∧ wldFirst (ev (grid k)) 0 (grid k) 0 = false ∧
    (((grid k).elem 0).visible 0).head? = some k := by decide +kernel
theorem meets_SystolicEvents_data : ∃ x1 x2, (tok 7).isData = true ∧ northVec (grid (tok 7)) 0 = some (PsVec.zero, x1) ∧
    let r := sysMeet x1.cfg.pal x1.cfg.flush (RMode.ofCode x1.cfg.mode) ((grid (tok 7)).elem 0).mb (tok 7) PsVec.zero
    passEast (x1.setElem 0 { (x1.elem 0).dequeue 0 with sysBusy := (ev (grid (tok 7))).clk.cyc + r.2.2, fl := (x1.elem 0).fl ||| r.2.1 }) 0
      (tok 7) = some x2 :=
  ⟨_, _, by decide, rfl, rfl⟩
theorem meets_SystolicEvents_poison : ∃ x1 x2, (Token.poison 1 0).isPoison = true ∧
    northVec (grid (Token.poison 1 0)) 0 = some (PsVec.zero, x1) ∧
    passEast (x1.setElem 0 { (x1.elem 0).dequeue 0 with sysBusy := (ev (grid (Token.poison 1 0))).clk.cyc + 1 }) 0 (Token.poison 1 0)
      = some x2 := ⟨_, _, by decide, rfl, rfl⟩
theorem meets_SystolicEvents_eos : ∃ x2, Token.eos.isData = false ∧ Token.eos.isPoison = false ∧ Token.eos.isDrain = false ∧
    passEast ((grid Token.eos).setElem 0 (((grid Token.eos).elem 0).dequeue 0)) 0 Token.eos = some x2 :=
  ⟨_, by decide, by decide, by decide, rfl⟩
/-- A poisoned vector, and one that is not, with a tail. -/
def p0 : PsVec := { lanes := [1], fp := false, poison := false }
def edge : UnitSt := memUnit { cfg := { systolic := true }, south := [(p0, ⟨2, 0, 64, 9⟩)] }
theorem meets_SystolicEvents_edge : (ev edge).placed? 0 = some edge ∧ (edge.elem 0).south = [(p0, ⟨2, 0, 64, 9⟩)] ∧
    additionWaits (edge.elem 0) (Fin.ofNat 4 ((64 : BitVec 32).toNat / 64)) = false ∧ (⟨2, 0, 64, 9⟩ : Token).isTail = true := by decide +kernel
def p1 : PsVec := { p0 with poison := true }
def edgeBad : UnitSt := memUnit { cfg := { systolic := true }, south := [(p1, tok 7)] }
theorem meets_SystolicEvents_edge_poison : (ev edgeBad).placed? 0 = some edgeBad ∧ (edgeBad.elem 0).south = [(p1, tok 7)] ∧
    p1.poison = true := by decide +kernel

/-! ## Storage -/

def streaming : UnitSt := { memUnit {} with bind := [(8, { inq := [tok 7] })] }
theorem meets_StorageEvents_stream : (ev streaming).placed? 0 = some streaming ∧ (streaming.bindSt 8).inq = [tok 7] ∧
    (streaming.cfg.bindCfg 8).kind = .slot ∧ slotTurn streaming 8 = true := by decide +kernel
def landing : UnitSt := { memUnit {} with bufs := [(1, { phase := .filling, count := 1, landed := 1 })] }
theorem meets_StorageEvents_buffer : (ev landing).placed? 0 = some landing ∧ (landing.buf 1).landed ≠ 0 ∧
    (landing.buf 1).count = 1 ∧ (landing.buf 1).phase = .filling ∧ (landing.buf 1).byCmd = false := by decide +kernel
theorem meets_StorageEvents_slot : let s := { ev (memUnit {}) with slots := [(511, { zeroAt := some 1024 })] }
    (s.slotOf 0 511).zeroAt = some 1024 ∧ 1024 ≤ s.clk.cyc := by decide +kernel
def filling : UnitSt := { memUnit {} with cache := { ways := [{ sb := 4 }], fills := [(9, 4 * 256 + 64, [1, 2, 3, 4, 5, 6, 7, 8])] } }
theorem meets_StorageEvents_fill : (ev filling).placed? 0 = some filling ∧
    filling.cache.fills[0]? = some (9, 4 * 256 + 64, [1, 2, 3, 4, 5, 6, 7, 8]) ∧
    (filling.cache.way? (sbOf (4 * 256 + 64))).isSome = true ∧
    (filling.cache.waits.filter fun w => w.item == 9 && !w.direct) = [] := by decide +kernel
def walk0 (wb : Bool) : CacheWalk := { e := 0, slot := 0, wave := false, wb := wb, lo := 0, hi := 64, fin := 128, num := 1 }
def walking (wb : Bool) : UnitSt := { memUnit {} with cache := { walks := [walk0 wb] } }
theorem meets_StorageEvents_walk : ∀ wb : Bool, (ev (walking wb)).placed? 0 = some (walking wb) ∧
    (walking wb).cache.walks[0]? = some (walk0 wb) ∧ (walk0 wb).fin ≤ (ev (walking wb)).clk.cyc ∧ (walk0 wb).wb = wb ∧
    walkWaits (walking wb).cache (walk0 wb) = false := by
  decide +kernel


/-! ## Windows, riders, the sweep -/

/-- Tenant 0 maps every address below 2^40 to itself: TROOT in the translation store, a pointer, a level 1 block. -/
def mapped (x : UnitSt) : State :=
  { ev x with regs := [(0x3000, 0x881)], store := [(256, 0x1083), (512, 0x19)] }

def w32 : CbWin := { base := 0, tail := 0, head := 0, lastRead := 0 }
def windowed : UnitSt := { memUnit {} with cache := { wins := [(0, [w32])] } }
theorem meets_StorageEvents_window : (mapped windowed).placed? 0 = some windowed ∧
    (windowed.cache.wins.getD 0 [])[0]? = some w32 ∧ w32.head < w32.lastRead + 32768 ∧ w32.ext = none := by decide +kernel

/-- An RD rider packet of 16 lines, a GAT one, and one of no lines. -/
def pkt (w0 w1 : Nat) : Packet :=
  { id := 5, e := 0, slot := 0, tblb := false, w0 := BitVec.ofNat 64 w0, w1 := BitVec.ofNat 64 w1, par := [0, 0, 0, 0] }
def sending (w0 w1 : Nat) : UnitSt := { memUnit {} with bind := [(2, { packets := [pkt w0 w1], open_ := [5] })] }
theorem meets_RiderEvents_check : let x := sending 0x1000000000000040 0x0000002100000010
    (ev x).placed? 0 = some x ∧ (x.bindSt 2).packets = [pkt 0x1000000000000040 0x0000002100000010] ∧ isPort x.cfg 2 = true ∧
    packetKind (pkt 0x1000000000000040 0x0000002100000010) = some .rd ∧
    packetRefused x.cfg (pkt 0x1000000000000040 0x0000002100000010)
      (riderOf x 0 2 (pkt 0x1000000000000040 0x0000002100000010) .rd) = none := by decide +kernel
theorem meets_RiderEvents_refused : let x := sending 0x0000000000000040 0x0000002100000000
    (ev x).placed? 0 = some x ∧ (x.bindSt 2).packets = [pkt 0x0000000000000040 0x0000002100000000] ∧ isPort x.cfg 2 = true ∧
    packetKind (pkt 0x0000000000000040 0x0000002100000000) = some .rd ∧
    packetRefused x.cfg (pkt 0x0000000000000040 0x0000002100000000)
      (riderOf x 0 2 (pkt 0x0000000000000040 0x0000002100000000) .rd) = some 0x04 := by decide +kernel

def rider (k : RKind) (ph : RPhase) : Rider :=
  { u := 0, e := 0, slot := 0, bind := 2, port := 0, job := 0, tenant := 0, secure := false, kind := k, op := 1, base := 64, len := 16
    doneB := 1, delivB := 1, tag := 0, aux3 := 0, aux16 := 0, par := [0, 0, 0, 0], phase := ph }
def withRider (x : UnitSt) (r : Rider) : State := { mapped x with sweep := { riders := [(5, r)] } }
theorem meets_RiderEvents_translate : let s := withRider (memUnit {}) (rider .rd .arrived)
    s.sweep.riders.get? 5 = some (rider .rd .arrived) ∧ (rider .rd .arrived).phase = .arrived ∧
    firstToTranslate s 5 (rider .rd .arrived) = true ∧ (SweepClass.steady ≠ .deep ∨ (rider .rd .arrived).kind ≠ .tblb) ∧
    ∃ s1 ps, s.spanPages 0 (riderAsk 5 (rider .rd .arrived)) 64 (64 * (rider .rd .arrived).firstLines) = (s1, .ok ps) ∧
      spanClasses (s1.endWalk 5) { rider .rd .arrived with pages := ps, len := (rider .rd .arrived).firstLines } = [.steady] :=
  ⟨by decide +kernel, by decide +kernel, by decide +kernel, by decide, exists_ok (by decide +kernel)⟩
/-- Tenant 0's root table stands in sweep memory. -/
def unfetched : State := { withRider (memUnit {}) (rider .rd .arrived) with regs := [(0x3000, 0x801)] }
theorem meets_RiderEvents_fetch : unfetched.sweep.riders.get? 5 = some (rider .rd .arrived) ∧
    firstToTranslate unfetched 5 (rider .rd .arrived) = true ∧
    ∃ s1 va line, unfetched.spanPages 0 (riderAsk 5 (rider .rd .arrived)) 64 (64 * (rider .rd .arrived).firstLines) =
      (s1, .error (va, .fetch line)) := ⟨by decide +kernel, by decide +kernel, exists_fetch (by decide +kernel)⟩
def ldw0 : Item := { u := 0, e := 0, slot := 0, wave := false, kind := .ldw 1, va := 64 }
def withItem (i : Item) : State := { mapped (memUnit {}) with sweep := { items := [(5, i)] } }
theorem meets_RiderEvents_item : let s := withItem ldw0
    s.sweep.riders.get? 5 = none ∧ s.sweep.items.get? 5 = some ldw0 ∧ ldw0.pa = none ∧ ldw0.held = none ∧
    itemFirst s 5 ldw0 = true ∧ itemRuns s ldw0 = true ∧ ldw0.man = 0 ∧
    ∃ s1 p, s.translate (s.portOfVa 0 64) { tenant := 0, secure := false, host := false, who := 5, write := false } 64 = (s1, .page p) ∧
      (s1.classHeld (s1.classAt (p.at_ 64)) = false ∧
       windowTakes s1 (portAt (p.at_ 64)) (entryOf s1 { ldw0 with pa := some (p.at_ 64) }) = true) :=
  ⟨by decide +kernel, by decide +kernel, rfl, rfl, by decide +kernel, by decide +kernel, rfl, exists_page (by decide +kernel)⟩
/-- A read of 64 bytes over the management path, and a write of as much. -/
def man0 (k : ItemKind) : Item := { u := 9, e := 0, slot := 0, wave := false, kind := k, va := 128, man := 3 }
theorem meets_RiderEvents_item_management : ∀ k ∈ [ItemKind.mget 64 0, .mput 64], let s := withItem (man0 k)
    s.sweep.riders.get? 5 = none ∧ s.sweep.items.get? 5 = some (man0 k) ∧ (man0 k).pa = none ∧ (man0 k).held = none ∧
    itemFirst s 5 (man0 k) = true ∧ itemRuns s (man0 k) = true ∧ (man0 k).man ≠ 0 ∧ (man0 k).size ≠ 0 ∧
    ∃ s1 p, s.translate (s.portOfVa 0 128) { tenant := 0, secure := false, host := false, who := 5, write := match k with
        | .mput _ => true
        | _ => false } 128 = (s1, .page p) ∧
      (((man0 k).deepOnly = true → targetOf (p.at_ 128) = .deep) ∧ manBytes s1 (man0 k) p = 64) := by
  intro k h
  simp only [List.mem_cons, List.not_mem_nil, or_false] at h
  obtain rfl | rfl := h <;>
    exact ⟨by decide +kernel, by decide +kernel, rfl, rfl, by decide +kernel, by decide +kernel, by decide, by decide,
      exists_page (by decide +kernel)⟩
def carrying (k : Token) : UnitSt := { memUnit {} with bind := [(2, { carriage := some 5, inq := [k] })] }
theorem meets_RiderEvents_accept : let s := withRider (carrying (tok 7)) (rider .gat .aboard)
    s.placed? 0 = some (carrying (tok 7)) ∧ ((carrying (tok 7)).bindSt 2).carriage = some 5 ∧
    ((carrying (tok 7)).bindSt 2).inq = [tok 7] ∧ s.sweep.riders.get? 5 = some (rider .gat .aboard) ∧
    takesItems s 5 (rider .gat .aboard) = true ∧ (tok 7).isEos = false := by decide +kernel
def gat0 : Rider := { rider .gat .aboard with cls := .steady }
theorem meets_RiderEvents_gat : let s := withRider (carrying (tok 7)) gat0
    s.placed? 0 = some (carrying (tok 7)) ∧ s.sweep.riders.get? 5 = some gat0 ∧ takesItems s 5 gat0 = true ∧ gat0.kind = .gat ∧
    (tok 7).isData = true ∧ answerRoom s 5 gat0 = true ∧ (tok 7).coord.toNat < 8 * gat0.len ∧
    ∃ s1 p, s.translate 0 (riderAsk 5 gat0) (64 + 8 * (tok 7).coord.toNat) = (s1, .page p) ∧
      ((s1.endWalk 5).classAt (p.at_ (64 + 8 * (tok 7).coord.toNat)) = gat0.cls ∧
       windowTakes (s1.endWalk 5) (portAt (p.at_ 120)) (entryOf (s1.endWalk 5)
         { u := 0, e := 0, slot := 0, wave := false, kind := .gat 5 0 7, va := 120, pa := some (p.at_ 120) }) = true) :=
  ⟨by decide +kernel, by decide +kernel, by decide +kernel, rfl, by decide, by decide +kernel, by decide, exists_page (by decide +kernel)⟩
theorem meets_RiderEvents_close : let s := withRider (carrying Token.eos) (rider .gat .aboard)
    s.sweep.riders.get? 5 = some (rider .gat .aboard) ∧ s.placed? 0 = some (carrying Token.eos) ∧
    ((carrying Token.eos).bindSt 2).inq = [Token.eos] ∧ Token.eos.isEos = true ∧ streamOn s 5 (rider .gat .aboard) = true := by
  decide +kernel
/-- An RD has data and its completion for one ingress point; an UPD has nothing to deliver; the third delivers at port 2 and
completes at the host, and its data have left. -/
theorem meets_RiderEvents_alight : ∀ k ∈ [RKind.rd, .upd], let r := { rider k .alighted with out := if k = .rd then [tok 7] else [] }
    let s := withRider (memUnit {}) r
    s.sweep.riders.get? 5 = some r ∧ r.phase = .alighted ∧
    let put := s.deliverRider 5 r (alightData r).1
    (alightData r).1.length ≤ put.2 ∧
      (dataAway put.1 5 { r with fl := r.fl ||| (alightData r).2 } = true ∨ dataAway put.1 5 { r with fl := r.fl ||| (alightData r).2 } = false) := by
  decide +kernel
theorem meets_RiderEvents_alight_away : let r := rider .upd .alighted
    dataAway ((withRider (memUnit {}) r).deliverRider 5 r (alightData r).1).1 5 { r with fl := r.fl ||| (alightData r).2 } = true := by
  decide +kernel
theorem meets_RiderEvents_alight_leaving : let r := { rider .rd .alighted with out := [tok 7], bind := 2, delivB := 1 }
    dataAway ((withRider (routed 0xFF 0 (.chan 0 0 0) {}) r).deliverRider 5 r (alightData r).1).1 5
      { r with fl := r.fl ||| (alightData r).2 } = false := by
  decide +kernel
theorem meets_RiderEvents_left : let s := withRider (memUnit {}) (rider .rd .leaving)
    s.sweep.riders.get? 5 = some (rider .rd .leaving) ∧ (rider .rd .leaving).phase = .leaving ∧
    dataAway s 5 (rider .rd .leaving) = true ∧ (rider .rd .leaving).buffer = none := by decide +kernel

def swept (w : Sweep) (swpc : Word) : State := { ev (memUnit {}) with sweep := w, regs := [(0x0106, swpc)] }
theorem meets_SweepEvents_step : (swept { steady := { step := 1 }, quick := { step := 8 } } 3).mayStep .quick = true ∧
    (swept { quick := { step := 8 } } 3).mayStep .steady = true ∧ (swept { quick := { step := 3052 } } 3).mayStep .deep = true := by decide +kernel
theorem meets_SweepEvents_stop : let s := swept {} 0xC
    s.classHeld .quick = true ∧ s.aboard .quick = [] ∧ s.waitingItems .quick = [] ∧ (s.classSt .quick).stopped = false := by
  decide +kernel
theorem meets_SweepEvents_pause : let s := swept { quick := { idle := 65536 } } 3
    pauseOn s .quick = true ∧ 65536 ≤ (s.classSt .quick).idle ∧ s.classIdle .quick = true ∧ (s.classSt .quick).stopped = false := by
  decide +kernel
theorem meets_SweepEvents_resume : let s := swept { quick := { stopped := true }, riders := [(5, rider .rd .ready)] } 3
    (s.classSt .quick).stopped = true ∧ s.classHeld .quick = false ∧ s.classIdle .quick = false := by decide +kernel
theorem meets_SweepEvents_ring : let s := swept { ringReq := some (287, true) } 3
    s.sweep.ringReq = some (287, true) ∧ 287 < 320 ∧ s.ringFree 287 = true := by decide +kernel
theorem meets_SweepEvents_ring_joins : let s := swept { ringReq := some (287, true), ringGo := true } 3
    s.sweep.ringReq = some (287, true) ∧ s.sweep.ringGo = true ∧ s.ringFree 287 = true := by decide +kernel
theorem meets_SweepEvents_window : let s := swept { quick := { step := 65535 }, steady := { step := 8191 }, deep := { step := 21 } } 3
    (s.sweep.quick.step + 1) % 65536 = 0 ∧ s.clk.win ≠ (s.sweep.quick.step + 1) / 65536 ∧ s.mayStep .quick = true := by
  decide +kernel
/-- A limit that no write changed in this cycle, one that a write did, and one that is unlimited. -/
def budgeted : State :=
  { ev (memUnit {}) with regs := [(tbud 1023 3, 7), (tbud 0 0, 0xFFFFFFFF)], power := { written := [(2, (2 ^ 25, 9)), (3, (1, 5))] } }
theorem meets_SweepEvents_budget : (1023 : Nat) < 1024 ∧ (3 : Nat) < 4 ∧ budgeted.power.written.get? (4 * 1023 + 3) = none ∧
    budgeted.power.written.get? (4 * 0 + 3) = some (1, 5) ∧ 1 ≠ budgeted.clk.cyc ∧
    budgeted.power.written.get? (4 * 0 + 2) = some (budgeted.clk.cyc, 9) := by decide +kernel
theorem meets_SweepEvents_charge : let s := { ev (memUnit {}) with power := { limit := [(4 * 1023 + 3, 10), (0, 0xFFFFFFFF)] } }
    s.limitOf 1023 3 ≠ 0xFFFFFFFF ∧ s.limitOf 0 0 = 0xFFFFFFFF := by decide +kernel
def entering : Ingress := { tenant := 0, u := 0, n := 1, tok := tok 7 }
theorem meets_SweepEvents_ingress : let s := { ev (memUnit {}) with ingress := [(13, { q := [entering] })] }
    (s.ingress.getD 13 {}).q = [entering] ∧ s.canEnter entering = true ∧ s.isOver entering = false ∧
    s.inBudget entering.tenant 1 = true ∧ s.noBudget entering.tenant 1 = false ∧ 256 ≤ s.creditOf 13 := by decide +kernel
/-- A budget whose limit is 0; one that is spent; a bucket without credit. -/
theorem meets_SweepEvents_ingress_limits :
    let s := { ev (memUnit {}) with ingress := [(13, { q := [entering] })], power := { limit := [(1, 0)] } }
    let t := { s with power := { limit := [(1, 5)] }, regs := [(tbud 0 1, 5)] }
    let v := { ev (memUnit {}) with ingress := [(13, { q := [entering] })], regs := [(0x200D, 1)] }
    (s.ingress.getD 13 {}).q = [entering] ∧ s.canEnter entering = true ∧ s.isOver entering = false ∧
    s.noBudget entering.tenant 1 = true ∧ 256 ≤ s.creditOf 13 ∧ t.canEnter entering = true ∧ t.isOver entering = false ∧
    t.inBudget entering.tenant 1 = false ∧ t.noBudget entering.tenant 1 = false ∧ v.canEnter entering = true ∧
    v.isOver entering = false ∧ v.creditOf 13 < 256 := by decide +kernel
/-- The unit of a token has ended. -/
theorem meets_SweepEvents_ingress_over : let s := { ev { memUnit {} with phase := .ended } with ingress := [(13, { q := [entering] })] }
    (s.ingress.getD 13 {}).q = [entering] ∧ s.canEnter entering = true ∧ s.isOver entering = true := by decide +kernel
theorem meets_SweepEvents_rate : (swept { quick := { step := 1 } } 3).power.rated < (swept { quick := { step := 1 } } 3).sweep.quick.step := by
  decide +kernel

/-! ## Engines, other packages -/

def copy0 (started : Bool) (src : Word) : Copy :=
  { u := 0, e := 0, slot := 0, bind := 4, tenant := 0, job := 0, secure := false, src := src, dst := 0x1000000000000006, len := 64
    doneB := 1, tag := 0, started := started }
def copying (c : Copy) : State :=
  let e : Vector CopyEng 4 := (Vector.replicate 4 ({} : CopyEng)).set 0 { copies := [(9, c)] }
  { ev (memUnit {}) with copies := e, slots := [(5, { job := some 0 }), (6, { job := some 0 })] }
theorem meets_EngineEvents_start : let s := copying (copy0 false 0x1000000000000005)
    State.moving (s.copies[(0 : Fin 4)]).copies = none ∧ s.nextCopy 0 = some (9, copy0 false 0x1000000000000005) ∧
    s.unit? 0 = some (memUnit {}) ∧ s.copyRefused (memUnit {}) (copy0 false 0x1000000000000005) = none := by decide +kernel
theorem meets_EngineEvents_start_refused : let s := copying (copy0 false 0x7000000000000005)
    State.moving (s.copies[(0 : Fin 4)]).copies = none ∧ s.nextCopy 0 = some (9, copy0 false 0x7000000000000005) ∧
    s.unit? 0 = some (memUnit {}) ∧ (s.copyRefused (memUnit {}) (copy0 false 0x7000000000000005)).isSome = true := by decide +kernel
theorem meets_EngineEvents_complete : ∃ t c', let s := copying (copy0 true 0x1000000000000005)
    State.moving (s.copies[(0 : Fin 4)]).copies = some (9, copy0 true 0x1000000000000005) ∧ s.unit? 0 = some (memUnit {}) ∧
    s.copyPath (memUnit {}) (copy0 true 0x1000000000000005) = true ∧ descKind 0x1000000000000005 ≠ 3 ∧
    descKind 0x1000000000000006 ≠ 3 ∧
    State.moveSectors 0 9 ((copy0 true 0x1000000000000005).len / 32 + 1) (s, copy0 true 0x1000000000000005) = (t, c', .done) :=
  ⟨_, _, by decide +kernel, by decide +kernel, by decide +kernel, by decide +kernel, by decide +kernel, rfl⟩
/-- From window 0 of another package, port 0 being in domain mode: an entry of its own tenant, and one of tenant 1. -/
def fetching (entry : Word) : State :=
  { copying (copy0 true 0x3000000000000005) with regs := [(0x0601, 1), (0x0610, 1)], windows := [(0, entry)] }
theorem meets_EngineEvents_complete_window : ∃ t c', let s := fetching 1
    State.moving (s.copies[(0 : Fin 4)]).copies = some (9, copy0 true 0x3000000000000005) ∧ s.unit? 0 = some (memUnit {}) ∧
    s.copyPath (memUnit {}) (copy0 true 0x3000000000000005) = true ∧ descKind 0x3000000000000005 = 3 ∧
    (copy0 true 0x3000000000000005).sector = 0 ∧ (copy0 true 0x3000000000000005).pages = [] ∧
    strange (s.descWindow 0 0x3000000000000005) 0 = false ∧
    State.moveSectors 0 9 ((copy0 true 0x3000000000000005).len / 32 + 1) ({ s with freeCtr := s.freeCtr + 2 },
      copy0 true 0x3000000000000005) = (t, c', .done) :=
  ⟨_, _, by decide +kernel, by decide +kernel, by decide +kernel, by decide +kernel, rfl, rfl, by decide +kernel, rfl⟩
theorem meets_EngineEvents_complete_strange : let s := fetching 0x4000000001
    s.copyPath (memUnit {}) (copy0 true 0x3000000000000005) = true ∧ strange (s.descWindow 0 0x3000000000000005) 0 = true := by
  decide +kernel
def asking : UnitSt := { memUnit {} with bind := [(1, { drn := [(1, 0, [4])], open_ := [7] })] }
theorem meets_EngineEvents_drn : (ev asking).unit? 0 = some asking ∧ (asking.bindSt 1).drn = [(1, 0, [4])] ∧
    ∀ i ∈ [4], i ∉ (asking.bindSt 1).open_ := by decide +kernel
def coll0 (w0 w1 : Word) : Coll := { u := 0, e := 0, slot := 0, bind := 5, w0 := w0, w1 := w1, root := 0, sentAt := 0 }
/-- A collective of an unknown kind is refused; one that none of the rules refuses runs while the domain is up. -/
def gathering (c : Coll) : State := { ev (memUnit {}) with colls := [(9, c)] }
theorem meets_EngineEvents_coll_refused : let c := coll0 0xF 0
    (gathering c).colls.get? 9 = some c ∧ (gathering c).unit? 0 = some (memUnit {}) ∧
    ((gathering c).colls.any fun p => decide (p.1 < 9) && p.2.group == c.group) = false ∧
    (collRefused (gathering c) (memUnit {}) c).isSome = true := by decide +kernel
theorem meets_EngineEvents_coll_timeout : (gathering (coll0 0 0)).colls.get? 9 = some (coll0 0 0) ∧
    ((gathering (coll0 0 0)).colls.any fun p => decide (p.1 < 9) && p.2.group == (coll0 0 0).group) = false ∧
    (coll0 0 0).sentAt + 270000 ≤ (gathering (coll0 0 0)).clk.cyc := by decide +kernel


def collUp : State :=
  { gathering (coll0 0x0000000200000000 0x0000000800000000) with
    groups := [(0, 2), (4, 1)], regs := [(0x0610, 1)] }
theorem meets_EngineEvents_coll : let c := coll0 0x0000000200000000 0x0000000800000000
    collUp.colls.get? 9 = some c ∧ collUp.unit? 0 = some (memUnit {}) ∧
    (collUp.colls.any fun p => decide (p.1 < 9) && p.2.group == c.group) = false ∧ collRefused collUp (memUnit {}) c = none ∧
    (memUnit {}).placed = true ∧ collUp.domainUp = true := by decide +kernel

/-- A window that names the unit of job 0, section 0, replica 0, tenant 0. -/
def arriving (message : Bool) (addr : Nat) (entry : Word) : Arrival :=
  { message := message, full := true, entry := entry, tenant := 0, addr := addr, toks := [tok 7], since := 2 ^ 25 }
def farState (a : Arrival) : State := { ev (memUnit {}) with arrivals := [(9, a)] }
theorem meets_RemoteEvents_write : let a := arriving false 0x3FFF8 1
    (farState a).arrivals.get? 9 = some a ∧ a.message = false ∧ (farState a).farUnit a.entry.toNat = some (0, memUnit {}) ∧
    farAdmits (memUnit {}) a.entry.toNat a.tenant = true ∧ (memUnit {}).frozen = false ∧
    (memUnit {}).cfg.access .st a.addr 0 = .at_ 0 0x7FFF ∧ a.toks.head? = some (tok 7) := by decide +kernel
theorem meets_RemoteEvents_message : let a := arriving true 0x40000 1
    (farState a).arrivals.get? 9 = some a ∧ a.message = true ∧ (farState a).farUnit a.entry.toNat = some (0, memUnit {}) ∧
    farAdmits (memUnit {}) a.entry.toNat a.tenant = true ∧ (memUnit {}).frozen = false ∧
    (memUnit {}).cfg.access .push a.addr 0 = .at_ 1 0 ∧ a.passed = none := by decide +kernel
/-- A token of a message at its point; the message once all its tokens have passed. -/
def passing (n : Nat) : Arrival := { arriving true 0x40000 1 with passed := some n }
theorem meets_RemoteEvents_message_passes : let j : Ingress := { tenant := 0, u := 0, n := 0, tok := tok 7, msg := 9 }
    j.msg ≠ 0 ∧ (farState (passing 0)).arrivals.get? j.msg = some (passing 0) ∧ (passing 0).passed = some 0 := by decide +kernel
theorem meets_RemoteEvents_message_lands : let a := passing 1
    (farState a).arrivals.get? 9 = some a ∧ a.message = true ∧ (farState a).farUnit a.entry.toNat = some (0, memUnit {}) ∧
    farAdmits (memUnit {}) a.entry.toNat a.tenant = true ∧ (memUnit {}).frozen = false ∧
    (memUnit {}).cfg.access .push a.addr 0 = .at_ 1 0 ∧ a.passed = some 1 ∧ a.toks.length ≤ 1 ∧
    ((memUnit {}).tile 1).fifo.length + a.toks.length ≤ 16384 ∧ (farState a).clk.cyc ≤ a.since + 10800 := by decide +kernel
/-- A message held for longer than 10,800 cycles, whose FIFO is full. -/
def heldLong : Arrival := { passing 1 with since := 0 }
def fullFifo : UnitSt := { memUnit {} with mem := [(1, { fifo := List.replicate 16384 (tok 7) })] }
theorem meets_RemoteEvents_hold_full : let s := { ev fullFifo with arrivals := [(9, heldLong)] }
    s.arrivals.get? 9 = some heldLong ∧ heldLong.message = true ∧ heldLong.passed = some 1 ∧ heldLong.toks.length ≤ 1 ∧
    heldLong.since + 10800 ≤ s.clk.cyc ∧
    s.farUnit heldLong.entry.toNat = some (0, fullFifo) ∧ farAdmits fullFifo heldLong.entry.toNat heldLong.tenant = true ∧
    fullFifo.frozen = false ∧ fullFifo.cfg.access .push heldLong.addr 0 = .at_ 1 0 ∧
    16384 < (fullFifo.tile 1).fifo.length + heldLong.toks.length :=
  ⟨rfl, rfl, rfl, by decide, by decide, rfl, by decide +kernel, rfl, by decide +kernel, by
    have h : (fullFifo.tile 1).fifo = List.replicate 16384 (tok 7) := rfl
    rw [h, List.length_replicate]; decide⟩
/-- A window of job 5, which is not there. -/
theorem meets_RemoteEvents_hold : let a := { arriving true 0x40000 0x14000001 with since := 0 }
    (farState a).arrivals.get? 9 = some a ∧ a.message = true ∧ (farState a).farUnit a.entry.toNat = none := by decide +kernel
def remote0 : Remote := { u := 0, e := 0, slot := 0, bind := 6, message := true, full := false, window := 0, entry := 1, addr := 0
                          toks := [tok 7], doneB := 1, tag := 0, sentAt := 0 }
theorem meets_RemoteEvents_ack : let s := { ev (memUnit {}) with remotes := [(9, remote0)], regs := [(0x0617, 1)] }
    s.remotes.get? 9 = some remote0 ∧ remote0.after = [] ∧ s.domainUp = true ∧ s.unit? 0 = some (memUnit {}) ∧
    strange remote0.entry (memUnit {}).tenant = false ∧ strange 0x4000000001 (memUnit {}).tenant = true ∧ remote0.sentAt + 270000 ≤ s.clk.cyc := by
  decide +kernel

/-! ## Drain -/

def counted0 : UnitSt := { memUnit {} with count := some 0 }
theorem meets_DrainEvents_count : (ev counted0).unit? 0 = some counted0 ∧ counted0.phase = .running ∧ counted0.count = some 0 := by
  decide +kernel
/-- Drain has passed on channel 0, which a route feeds. -/
def drainedIn : UnitSt :=
  let x := routed 0xFF 0 (.chan 0 0 0) {}
  { x with phase := .draining, elems := [(0, { ins := (Vector.replicate 4 {}).set 0 { passed := true } })] }
theorem meets_DrainEvents_element : (ev drainedIn).placed? 0 = some drainedIn ∧ drainedIn.phase = .draining ∧
    (drainedIn.elem 0).drained = false ∧ 0 < drainedIn.cfg.elemCount ∧
    let x' := drainedIn.setElem 0 (drainedIn.elem 0).selfTake
    inputsPassed x' 0 = true ∧ elemQuiet (ev drainedIn) 0 x' 0 = true ∧ (∀ r ∈ x'.reqs, r.e ≠ 0) ∧ (sendDrain x' 0).isSome = true := by
  decide +kernel
/-- A request of the element stands behind another, which waits at its tile for a word to become full. -/
def waitingFull : UnitSt :=
  { drainedIn with reqs := [{ w0 with id := 3, op := .st, stamp := true }], mem := [(0, { waiting := [{ w0 with stamp := true }] })] }
theorem meets_DrainEvents_element_waits : (ev waitingFull).placed? 0 = some waitingFull ∧ waitingFull.phase = .draining ∧
    (waitingFull.elem 0).drained = false ∧
    let x' := waitingFull.setElem 0 (waitingFull.elem 0).selfTake
    inputsPassed x' 0 = true ∧ elemQuiet (ev waitingFull) 0 x' 0 = true ∧ (x'.reqs.any fun r => r.e == 0) = true := by decide +kernel
theorem meets_DrainEvents_port : (ev draining).placed? 0 = some draining ∧ draining.phase = .draining ∧
    (draining.bindSt 1).passed = false ∧ (draining.cfg.bindCfg 1).kind ≠ .unbound ∧ portBusy (ev draining) 0 1 draining = false := by
  decide +kernel
/-- No routes, no bindings: nothing is left to drain. -/
def bare : UnitSt :=
  let x := unitOf 0x0B {}
  { x with phase := .draining, elems := [] }
theorem meets_DrainEvents_end : (ev bare).placed? 0 = some bare ∧ bare.phase = .draining ∧ State.sectionDone (ev bare) 0 bare = true ∧
    bare.snapFlag = false ∧ bare.snapping = none ∧ snapWaits ((ev bare).endSnapshot 0) 0 = false := by decide +kernel
/-- A section whose snapshot is on its way into memory, and one whose snapshot has failed. -/
def bareSnap : UnitSt := { bare with snapping := some 3 }
def snapHeld (bad : List Nat) : State := { ev bareSnap with sweep := { items := [(5, man0 (.mput 64))], manBad := bad } }
theorem meets_DrainEvents_end_snapshot : (snapHeld []).placed? 0 = some bareSnap ∧ bareSnap.phase = .draining ∧
    State.sectionDone (snapHeld []) 0 bareSnap = true ∧ snapWaits ((snapHeld []).endSnapshot 0) 0 = true := by decide +kernel
theorem meets_DrainEvents_end_snapshot_failed : (snapHeld [3]).placed? 0 = some bareSnap ∧
    State.sectionDone (snapHeld [3]) 0 bareSnap = true ∧ snapWaits ((snapHeld [3]).endSnapshot 0) 0 = false ∧
    bareSnap.snapping = some 3 ∧ ((snapHeld [3]).endSnapshot 0).manFailed 3 = true := by decide +kernel
/-- Element 0 feeds itself. -/
def ring1 : UnitSt :=
  let x := unitOf 0x0B {}
  let c : SecCfg := { x.cfg with routes := [{ src := .chan 0 0 4, dst := .chan 0 0 0, admits := 0xFF, turn := 0, divert := .none }] }
  { x with cfg := c, phase := .draining }
theorem meets_DrainEvents_cycle : (ev ring1).placed? 0 = some ring1 ∧ ring1.phase = .draining ∧ 0 < ring1.cfg.elemCount ∧
    0 ∈ cycleOf ring1 0 ∧ feederOf ring1 0 0 = some 0 ∧
    (∀ d ∈ cycleOf ring1 0, liveTrigger ring1 d = false ∧ (ring1.elem d).firing = none ∧
      ∀ c ∈ fedChannels ring1 d, feederOf ring1 d c.val = some 0) ∧
    let i := ring1.cfg.routes.findIdx fun r => r.dst == ring1.cfg.endAt 0 0
    (ring1.cfg.routes[i]?).map Route.src = some (.chan 0 0 4) ∧
    (ring1.elem 0).ins[(0 : Fin 4)].passed = false ∧ (ring1.route i).toks.any Token.isDrain = false ∧
    (ring1.route i).order.any Token.isDrain = false ∧
    ((ring1.elem 0).ins[(0 : Fin 4)].q ++ (ring1.elem 0).ins[(0 : Fin 4)].raw).any Token.isDrain = false := by decide +kernel


/-- A tile that no route feeds feeds element 0's channel 1. -/
def tileFed : UnitSt :=
  let x := memUnit {}
  let c : SecCfg := { x.cfg with routes := [{ src := .tile 1, dst := .chan 0 0 1, admits := 0xFF, turn := 0, divert := .none }] }
  { x with cfg := c, phase := .draining, elems := [(0, { drained := true })] }
/-- A tile that no route feeds leads to a host binding. -/
def tilePort : UnitSt :=
  let x := tileFed
  { x with cfg := { x.cfg with routes := [{ src := .tile 1, dst := .port 1, admits := 0xFF, turn := 0, divert := .none }] } }
theorem meets_DrainEvents_tile_node : (ev tilePort).placed? 0 = some tilePort ∧ tilePort.phase = .draining ∧ unfed tilePort 1 = true ∧
    (tilePort.cfg.routeFrom (.tile 1)).isSome = true ∧ tileReady tilePort 1 = true := by decide +kernel
theorem meets_DrainEvents_tile : (ev tileFed).placed? 0 = some tileFed ∧ tileFed.phase = .draining ∧ 0 ∉ cycleOf tileFed 0 ∧
    tileBefore tileFed 0 1 = some 1 ∧ tileReady tileFed 1 = true ∧ (tileFed.elem 0).ins[Fin.ofNat 4 1].passed = false ∧
    tileFed.cfg.routes.findIdx (fun r => r.dst == tileFed.cfg.endAt 0 1) = 0 ∧ (tileFed.route 0).toks = [] ∧
    (tileFed.route 0).order = [] := by decide +kernel

/-! ## Work -/

/-- A record of `n` bytes with the fields (offset, length, value) given and zeros elsewhere. -/
def record (n : Nat) (fs : List (Nat × Nat × Nat)) : List Byte :=
  (List.range n).map fun i => match fs.find? fun f => decide (f.1 ≤ i) && decide (i < f.1 + f.2.1) with
    | some f => BitVec.ofNat 8 (f.2.2 / 256 ^ (i - f.1))
    | none => 0

/-- ARM of section 0 with 64 units; WAIT for it; WAIT for counter 63; SIGNAL it; LOOP to node 0; END. -/
def nodes : List (List Byte) :=
  [ record 32 [(0, 1, 1), (4, 2, 64)], record 32 [(0, 1, 2)], record 32 [(0, 1, 2), (1, 1, 1), (2, 2, 63)],
    record 32 [(0, 1, 3), (2, 2, 63), (8, 8, 5)], record 32 [(0, 1, 4), (4, 4, 2)], record 32 [(0, 1, 5)] ]
def graph0 : Graph := { quarter := 0, nodes := nodes, args := [[0, 0, 0, 0]] }
def image0 : Image := { queue := 0, secs := [(memUnit {}).cfg], graphs := [graph0] }
def job0 (w : Option Walk) : Job :=
  { tenant := 0, secure := false, priv := true, debug := false, queue := 0, hostTag := 0, prio := 0, image := 0, phases := [[0]], walk := w }
def working (w : Option Walk) : State :=
  { ev (memUnit {}) with jobs := [(0, job0 w)], host := { images := [(0, image0)] } }
def at_ (n : Nat) : Walk := { graph := 0, node := n }

theorem meets_SequencerNodes (n kind : Nat) (b : List Byte) (h : (n, kind, b) ∈ ([0, 1, 2, 3, 4, 5].zip ([1, 2, 2, 3, 4, 5].zip nodes))) :
    AtNode (working (some (at_ n))) 0 kind (job0 (some (at_ n))) (at_ n) image0 graph0 b := by
  simp only [nodes, List.zip_cons_cons, List.zip_nil_right, List.mem_cons, Prod.mk.injEq, List.not_mem_nil, or_false] at h
  rcases h with h | h | h | h | h | h <;> obtain ⟨rfl, rfl, rfl⟩ := h <;>
    exact ⟨by decide +kernel, by decide +kernel, by decide +kernel, by decide +kernel, by decide +kernel⟩
theorem meets_SequencerNodes_arm : image0.secs[recField (nodes.getD 0 []) 2 2]? = some (memUnit {}).cfg := by decide +kernel
theorem meets_SequencerNodes_wait : waitHolds (working (some (at_ 1))) (job0 (some (at_ 1))) (at_ 1) (nodes.getD 1 []) = true ∧
    recField (nodes.getD 3 []) 1 1 = 0 ∧ recField (record 32 [(0, 1, 3), (1, 1, 1)]) 1 1 ≠ 0 := by decide +kernel

def launch0 : Launch := { job := 0, graph := 0, node := 0, units := 2, ended := 2 }
theorem meets_CompletionEvents_launch : let s := { working none with launches := [(7, launch0)] }
    s.launch? 7 = some launch0 ∧ launch0.status = .running ∧ launch0.units ≤ launch0.ended := by decide +kernel
def done0 (w : Walk) : Walk := { w with ended := true, launches := [7] }
theorem meets_CompletionEvents_graph : let s := { working (some (done0 (at_ 5))) with launches := [(7, { launch0 with status := .done })] }
    s.job 0 = some (job0 (some (done0 (at_ 5)))) ∧ ((done0 (at_ 5)).ended || (done0 (at_ 5)).cancel || (done0 (at_ 5)).bad) = true ∧
    (s.launch? 7).map Launch.status = some .done := by decide +kernel
theorem meets_CompletionEvents_phase : let x := { job0 none with pos := 1 }
    let s := { working none with jobs := [(0, x)] }
    s.job 0 = some x ∧ x.phases[x.phase]? = some [0] ∧ x.active = true ∧ x.walk = none ∧ [0].length ≤ x.pos := by decide +kernel
/-- The job holds the slots 6, which a copy is still to fill, and 511, which nothing is aimed at. -/
theorem meets_CompletionEvents_job : let x := { job0 none with phase := 1 }
    let s := { copying (copy0 true 0x1000000000000006) with jobs := [(0, x)], slots := [(6, { job := some 0 }), (511, { job := some 0 })] }
    s.job 0 = some x ∧ x.active = true ∧ x.walk = none ∧ x.phases.length ≤ x.phase ∧ s.faultsWait x.queue 0 = false ∧
    (s.slotOf 0 6).job = some 0 ∧ slotBusy s 0 6 = true ∧ (s.slotOf 0 511).job = some 0 ∧ slotBusy s 0 511 = false := by
  decide +kernel

def waiting : UnitSt := { memUnit {} with phase := .waiting }
def kept : Resident := { job := 0, section_ := 0, replica := 0, tenant := 0, nw := some 0, mem := [], bufs := [], cache := {}
                         elems := [], cfg := (memUnit {}).cfg, snap := 0, secure := false }
theorem meets_PlacementEvents : (ev waiting).unit? 0 = some waiting ∧ waiting.phase = .waiting ∧
    (((ev waiting).before 0 waiting).any fun y => ((ev waiting).rectFor y).isSome && !(ev waiting).rollsBack y) = false ∧
    (ev waiting).rotation? waiting = none ∧ (ev waiting).rollsBack waiting = false ∧
    ((ev waiting).rectFor waiting).isSome = true := by decide +kernel
/-- Block 0, where the section stood, is within the margin of its limit. -/
theorem meets_PlacementEvents_rotate : let s := { ev waiting with residents := [kept], power := { temp := [(0, 92)] } }
    s.unit? 0 = some waiting ∧ waiting.phase = .waiting ∧ (s.rotation? waiting).isSome = true := by decide +kernel
def frozen0 : UnitSt := { memUnit {} with phase := .frozen 0x1000 false }
/-- An image, the shortest there is: that of a section of no block; it has been read for any quarter, or for one there is not. -/
def read0 (q : Option Nat) : ImgRead := { tenant := 0, secure := false, va := 0x1000, len := 2848, use := .thaw 0 q none }
def thawing (q : Option Nat) : State := { ev frozen0 with sweep := { reads := [(3, read0 q)] } }
theorem meets_PlacementEvents_thaw : ∀ q ∈ [none, some 7], (thawing q).unit? 0 = some frozen0 ∧ frozen0.phase = .frozen 0x1000 false ∧
    thawRead (thawing q) 0 = some (3, read0 q) ∧ (read0 q).use = .thaw 0 q none := by decide +kernel
theorem meets_PlacementEvents_thaw_image : ((imageInto (read0 none).words (read0 none).len frozen0 false).map fun y =>
    ((thawing none).thawRect y.cfg false 0 (imageQuarter []) none).isSome) = some true ∧
    (thawing (some 7)).thawRect frozen0.cfg false 0 (imageQuarter []) (some 7) = none := by decide +kernel

/-! ## The host -/

/-- Queue 0 open, its completion ring of 16 places, the link up. -/
def queue0 : Queue := { st := .opened, priv := true, credit := 2, comp := { size := 16 }, log := { size := 16 }, fault := { size := 16 } }
def hosted (q : Queue) : State :=
  { ev (memUnit {}) with boot := { code := 4, linked := true }, regs := [(0x0601, 1)], host := { queues := [(0, q)] } }
def cmd (c : Nat) (fs : List (Nat × Nat × Nat)) : List Byte := record 64 ((0, 1, c) :: fs)

theorem meets_QueueEvents_discard : let s := hosted { queue0 with st := .closing }
    s.boot.powered = true ∧ s.linkUp = true ∧ 0 < 131072 ∧ (s.queue 0).st = .closing ∧ (s.queue 131071).st = .closed ∧
    recCmd (cmd 3 []) ≠ 1 := by decide +kernel
theorem meets_QueueEvents_take_in : let s := hosted queue0
    s.boot.powered = true ∧ s.linkUp = true ∧ 0 < 131072 ∧ (cmd 3 []).length = 64 ∧ s.boot.code = 4 ∧ (s.queue 0).st = .opened ∧
    (s.queue 0).used < (s.queue 0).credit ∧ s.stored < 16384 ∧ (s.queue 0).userNow.1 ≠ s.clk.cyc := by decide +kernel
/-- A queue whose credit is used up, and a closed one without records. -/
theorem meets_QueueEvents_overrun : let s := hosted { queue0 with used := 2 }
    let t := hosted { queue0 with st := .closed }
    s.boot.powered = true ∧ s.linkUp = true ∧ s.boot.code = 4 ∧ (cmd 3 []).length = 64 ∧ (s.queue 0).st = .opened ∧
    (s.queue 0).credit ≤ (s.queue 0).used ∧ (t.queue 0).st = .closed ∧ recCmd (cmd 1 []) = 1 ∧ (t.queue 0).recs = [] := by
  decide +kernel
def loaded0 : State := hosted { queue0 with recs := [(cmd 3 [], true)], used := 1 }
theorem meets_QueueEvents_arbiter : loaded0.host.nextTake ≤ loaded0.clk.cyc ∧
    loaded0.markSince.pickQueue.map Prod.fst = some 0 ∧ (loaded0.markSince.queue 0).recs = [(cmd 3 [], true)] ∧
    recGood (cmd 3 []) = true ∧ recCmd (cmd 3 []) ≠ 1 := by decide +kernel
/-- A RUN that came through the user view: only OPEN and CLOSE and the like need the management view. -/
theorem meets_QueueEvents_arbiter_user : let s := hosted { queue0 with recs := [(cmd 3 [], false)], used := 1 }
    s.markSince.pickQueue.map Prod.fst = some 0 ∧ (s.markSince.queue 0).recs = [(cmd 3 [], false)] ∧
    mgmtOnly (recCmd (cmd 3 [])) = false := by decide +kernel
theorem meets_QueueEvents_close : let s := hosted { queue0 with st := .closing, close := some (cmd 8 []) }
    (s.queue 0).close = some (cmd 8 []) ∧ (s.queue 0).st = .closing ∧ (s.queue 0).jobs = [] ∧ (s.queue 0).recs = [] ∧
    (s.queue 0).wait = none ∧ (s.host.taken.any fun t => t.1 == 0) = false ∧ (s.queue 0).comp.waiting = [] ∧ (s.queue 0).log.waiting = [] ∧
    (s.queue 0).fault.waiting = [] ∧ (s.queue 0).comp.room = true ∧ s.linkUp = true := by decide +kernel
theorem meets_QueueEvents_wait : let s := { hosted { queue0 with wait := some (cmd 5 []) } with jobs := [(0, { job0 none with active := false })] }
    (s.queue 0).wait = some (cmd 5 []) ∧ s.job (recField (cmd 5 []) 12 2) = some { job0 none with active := false } ∧
    waitDone { job0 none with active := false } (cmd 5 []) = true := by decide +kernel
/-- The last queue. -/
theorem meets_QueueEvents_index : (hosted queue0).boot.powered = true ∧ (hosted queue0).linkUp = true ∧ (hosted queue0).boot.code ≠ 5 ∧ 131071 < 131072 := by
  decide +kernel

def took (c : Nat) (fs : List (Nat × Nat × Nat)) : State :=
  let s := hosted queue0
  { s with host := { s.host with taken := [(0, cmd c fs, true)], images := [(0, image0)] }, jobs := [(0, job0 none)] }
def opening : List Byte := cmd 1 [(10, 1, 0x10), (11, 1, 64), (24, 4, 16), (40, 4, 16), (56, 4, 65536)]
theorem meets_HostCommands_open :
    let h : HostPort := { queues := [(3, { recs := [(opening, true)] })], taken := [(3, opening, true)] }
    let s := { hosted queue0 with host := h }
    s.openWaits = some (3, opening, true) ∧ recGood opening = true ∧
    ((s.queuesOf (recField opening 8 2)).any fun x => x.secure != (recField opening 10 1 / 8 % 2 == 1)) = false := by decide +kernel
/-- A LOAD that has been checked, all that it writes being stamped; one whose regions could not be written. -/
def loadedBy (bad : List Nat) : State :=
  let t := took 2 []
  { t with host := { t.host with loads := [(0, (image0, 7))] }, sweep := { manBad := bad } }
theorem meets_HostCommands_load_ends : (loadedBy []).takenCmd 2 = some (0, cmd 2 []) ∧
    (loadedBy []).host.loads.get? 0 = some (image0, 7) ∧ (loadedBy []).manFailed 7 = false ∧ (loadedBy []).unstamped 7 = false ∧
    (loadedBy [7]).takenCmd 2 = some (0, cmd 2 []) ∧ (loadedBy [7]).host.loads.get? 0 = some (image0, 7) ∧
    (loadedBy [7]).manFailed 7 = true := by decide +kernel
theorem refused_sound {α β : Type} {x : Except α β} (h : (match x with | .ok _ => false | .error _ => true) = true) :
    ∃ f, x = .error f := by
  cases x with
  | ok _ => exact absurd h Bool.false_ne_true
  | error f => exact ⟨f, rfl⟩
/-- A LOAD of zeros is refused. -/
theorem meets_HostCommands_load_refused : let s := took 2 [(24, 2, 9), (16, 8, 64)]
    s.takenCmd 2 = some (0, cmd 2 [(24, 2, 9), (16, 8, 64)]) ∧ s.host.loads.get? 0 = none ∧ s.linkUp = true ∧
    s.imageUsed 0 (recField (cmd 2 [(24, 2, 9), (16, 8, 64)]) 24 2) = false ∧
    ∃ f, s.loadImage 0 { mem := s.mem, base := State.hostAddr (recField (cmd 2 [(24, 2, 9), (16, 8, 64)]) 8 8) }
      (recField (cmd 2 [(24, 2, 9), (16, 8, 64)]) 16 8) { bases := [], tables := [], root := none } = .error f :=
  ⟨by decide +kernel, by decide +kernel, by decide +kernel, by decide +kernel, refused_sound (by decide +kernel)⟩
theorem meets_HostCommands_phase : (took 4 [(8, 1, 24)]).takenCmd 4 = some (0, cmd 4 [(8, 1, 24)]) := by decide +kernel
theorem meets_HostCommands_run : let s := took 3 []
    s.takenCmd 3 = some (0, cmd 3 []) ∧ s.host.images.get? (imageKey 0 (recField (cmd 3 []) 8 2)) = some image0 ∧
    recField (cmd 3 []) 10 1 ≤ (s.queue 0).prio ∧ (∀ p ∈ (s.queue 0).pending, ∀ g ∈ p, g < image0.graphs.length) ∧
    s.job 4095 = none := by decide +kernel
theorem meets_HostCommands_wait : (took 5 []).takenCmd 5 = some (0, cmd 5 []) ∧ (took 5 []).recJob 0 (cmd 5 []) = some (job0 none) := by
  decide +kernel
theorem meets_HostCommands_signal : (took 6 [(14, 1, 63), (16, 8, 5)]).takenCmd 6 = some (0, cmd 6 [(14, 1, 63), (16, 8, 5)]) ∧
    (took 6 [(14, 1, 63), (16, 8, 5)]).recJob 0 (cmd 6 [(14, 1, 63), (16, 8, 5)]) = some (job0 none) ∧
    recField (cmd 6 [(14, 1, 63), (16, 8, 5)]) 8 1 = 0 ∧ (took 6 [(8, 1, 1)]).takenCmd 6 = some (0, cmd 6 [(8, 1, 1)]) ∧
    (took 6 [(8, 1, 1)]).recJob 0 (cmd 6 [(8, 1, 1)]) = some (job0 none) ∧ recField (cmd 6 [(8, 1, 1)]) 8 1 ≠ 0 := by decide +kernel
theorem meets_HostCommands_cancel : (took 7 []).takenCmd 7 = some (0, cmd 7 []) ∧ (took 7 []).job (recField (cmd 7 []) 12 2) = some (job0 none) ∧
    (job0 none).tenant = ((took 7 []).queue 0).tenant := by decide +kernel
theorem meets_HostCommands_close : (took 8 []).takenCmd 8 = some (0, cmd 8 []) ∧ ((took 8 []).queue 0).close = none := by decide +kernel


/-! ## An image that LOAD accepts -/

/-- One section of one block with an element whose slot 0 holds CNTI; a graph of ARM, WAIT and END; no ring, no region. -/
def imageHeader : List Byte :=
  record 64 [(0, 4, 0x1A494358), (4, 2, 3), (8, 8, 2440), (16, 2, 1), (18, 2, 1), (32, 8, 64), (40, 8, 2280), (48, 8, 2440), (56, 8, 2440)]
def imageSection : List Byte :=
  record 1344 [(0, 1, 1), (1, 1, 1), (4, 4, 1), (8, 8, 0x1F1F1F1F1F1F1F0B), (16, 4, 1), (24, 8, 1408), (32, 8, 2272), (40, 8, 2272)]
def imageElement : List Byte := record 864 [(4, 4, 1), (8, 8, 1), (32, 4, 0x02CDFCE0), (288, 8, 1 + 2 ^ 46)]
def imageGraph : List Byte :=
  record 32 [(4, 4, 3), (8, 8, 2312), (16, 8, 2408), (24, 4, 1)] ++ record 32 [(0, 1, 1), (4, 2, 1), (8, 4, 1)] ++
    record 32 [(0, 1, 2)] ++ record 32 [(0, 1, 5)] ++ record 32 []
def image1 : List Byte := imageHeader ++ imageSection ++ imageElement ++ record 8 [] ++ imageGraph
/-- The cells of bytes at an address: those that are not zero. -/
def cellsAt (pa : Nat) (b : List Byte) : List Host.Cell := (b.zipIdx.filter fun p => p.1 != 0).map fun p => (pa + p.2, p.1)
def loading : List Byte := cmd 2 [(4, 4, 0x11), (8, 8, 0x10000), (16, 8, 2440), (24, 2, 5)]
/-- The image at host address 10000 hex; images need no signature (LPOL is 0). -/
def toLoad : State :=
  let s := hosted queue0
  { s with mem := cellsAt (State.hostAddr 0x10000) image1, regs := [(0x0500, 0), (0x0601, 1)]
           host := { s.host with taken := [(0, loading, true)] } }
theorem loaded_sound {α : Type} {x : Except α (State × Image × Nat)}
    (h : (match x with | .ok _ => true | .error _ => false) = true) : ∃ t im man, x = .ok (t, im, man) := by
  cases x with
  | ok r => exact ⟨r.1, r.2.1, r.2.2, rfl⟩
  | error _ => exact absurd h Bool.false_ne_true
theorem meets_HostCommands_load : toLoad.takenCmd 2 = some (0, loading) ∧ toLoad.host.loads.get? 0 = none ∧ toLoad.linkUp = true ∧
    toLoad.imageUsed 0 (recField loading 24 2) = false ∧
    ∃ t im man, toLoad.loadImage 0 { mem := toLoad.mem, base := State.hostAddr (recField loading 8 8) } (recField loading 16 8)
      { bases := [], tables := [], root := none } = .ok (t, im, man) :=
  ⟨by decide +kernel, by decide +kernel, by decide +kernel, by decide +kernel, loaded_sound (by decide +kernel)⟩

/-! ## Registers -/

/-- Ring 287 becomes quick; a request that waits; a ring in the class asked for. -/
theorem meets_RegisterEvents_rclq : (ev (memUnit {})).boot.powered = true ∧ (ev (memUnit {})).linkUp = true ∧ (ev (memUnit {})).sweep.ringReq = none ∧
    (0x31F : Word).toNat % 512 < 288 ∧ (ev (memUnit {})).ringLost ((0x31F : Word).toNat % 512) = false ∧
    (ev (memUnit {})).ringQuick ((0x31F : Word).toNat % 512) ≠ (0x31F : Word).getLsbD 9 ∧
    ((0x31F : Word).getLsbD 9 = true → (ev (memUnit {})).quickRings.length < 32) := by decide +kernel
theorem meets_RegisterEvents_rclq_waits : let s := { ev (memUnit {}) with sweep := { ringReq := some (287, true) } }
    s.boot.powered = true ∧ s.linkUp = true ∧ s.sweep.ringReq.isSome = true := by decide +kernel
/-- Ring 287 asked for in the class it is in; a 33rd quick ring. -/
def quick32 : State := { ev (memUnit {}) with regs := [(0x0601, 1), (0x0108, 0xFFFFFFFF)] }
theorem meets_RegisterEvents_rclq_same : (ev (memUnit {})).sweep.ringReq = none ∧ (0x11F : Word).toNat % 512 < 288 ∧
    (ev (memUnit {})).ringLost ((0x11F : Word).toNat % 512) = false ∧
    (ev (memUnit {})).ringQuick ((0x11F : Word).toNat % 512) = (0x11F : Word).getLsbD 9 := by decide +kernel
theorem meets_RegisterEvents_rclq_full : quick32.boot.powered = true ∧ quick32.linkUp = true ∧ quick32.sweep.ringReq = none ∧
    (0x31F : Word).toNat % 512 < 288 ∧ quick32.ringQuick ((0x31F : Word).toNat % 512) = false ∧ (0x31F : Word).getLsbD 9 = true ∧
    32 ≤ quick32.quickRings.length := by decide +kernel
/-- A ring that is not of the sweep, and one that is lost. -/
theorem meets_RegisterEvents_rclq_refused : (ev (memUnit {})).sweep.ringReq = none ∧ 287 < (0x120 : Word).toNat % 512 ∧
    { ev (memUnit {}) with regs := [(0x0510, 1)] }.ringLost ((0x200 : Word).toNat % 512) = true := by decide +kernel
/-- All that a counter of losses holds was counted before the cycle; one that was counted in this cycle. -/
theorem meets_RegisterEvents_counters : let s := { ev (memUnit {}) with regs := [(0x0502, 5), (0x0601, 1)] }
    s.boot.powered = true ∧ s.linkUp = true ∧ s.heldBefore 0x0502 = s.reg 0x0502 ∧ (s.countUp 0x0502).heldBefore 0x0502 = 5 ∧
    (s.countUp 0x0502).reg 0x0502 = 6 := by decide +kernel
theorem meets_RegisterEvents_ranges : (0x800000 - 8 : Nat) < 0x800000 ∧ (2 ^ 28 : Nat) ≤ 2 ^ 28 ∧ (0x1000 : Nat) ≤ 0x203F ∧
    (0x203F : Nat) < 0x2040 ∧ (0x1FFF : Nat) < 0x2000 := by decide

/-! ## Faults, freezing, attestation -/

def flt0 : FaultSt := { what := .item 4, cause := 8, detail := 0, va := 0x2000, u := 0 }
def faulted : State := { ev (memUnit {}) with faults := [(2 ^ 32 - 1, flt0)] }
theorem meets_FaultAndFreezeEvents_held : faulted.boot.powered = true ∧ faulted.linkUp = true ∧ (2 ^ 32 - 1 : Nat) < 2 ^ 32 ∧
    faulted.faults.get? (2 ^ 32 - 1) = some flt0 ∧ faulted.heldInImage flt0 = false ∧ faulted.canTrap flt0.u = true := by decide +kernel
/-- The last byte of the address space, and all of it. -/
theorem meets_FaultAndFreezeEvents_tlbi : let s := { ev (memUnit {}) with regs := [(0x0530, 2 ^ 56 - 1), (0x0601, 1)] }
    s.boot.powered = true ∧ s.linkUp = true ∧ (s.reg 0x0532).getLsbD 0 = false ∧
    tlbiRange (s.reg 0x0530).toNat (1 : Word).toNat = some (2 ^ 56 - 1, 2 ^ 56) ∧
    tlbiRange (s.reg 0x0530).toNat (2#64 ^ 63).toNat = some (0, 2 ^ 56) := by decide +kernel
def inv0 : Tlbi := { tenant := 0, lo := 0, hi := 4096, wrote := true, wbs := [9] }
theorem meets_FaultAndFreezeEvents_tlbi_end : let s := { ev (memUnit {}) with tlbis := [(3, inv0)] }
    s.boot.powered = true ∧ s.linkUp = true ∧ s.tlbis.get? 3 = some inv0 ∧ inv0.wrote = true ∧ (∀ k ∈ inv0.wbs, s.sweep.items.get? k = none) ∧
    inv0.late = none ∧ { inv0 with late := some 3 }.late ≠ none := by decide +kernel
theorem meets_FaultAndFreezeEvents_freeze : let s := ev (memUnit {})
    s.boot.powered = true ∧ s.linkUp = true ∧ (s.reg 0x0542).getLsbD 8 = false ∧ (0 : Word).toNat / 2 ^ 62 = 0 ∧
    (0 : Word).getLsbD 26 = false := by decide +kernel
theorem meets_FaultAndFreezeEvents_move : let s := ev (memUnit {})
    s.boot.powered = true ∧ s.linkUp = true ∧ (s.reg 0x0542).getLsbD 8 = false ∧ (0x4000000 : Word).toNat / 2 ^ 62 = 0 ∧
    (0x4000000 : Word).getLsbD 26 = true := by decide +kernel
theorem meets_FaultAndFreezeEvents_thaw : let s := ev (memUnit {})
    s.boot.powered = true ∧ s.linkUp = true ∧ (s.reg 0x0542).getLsbD 8 = false ∧ (0x4000000000000000 : Word).toNat / 2 ^ 62 = 1 := by
  decide +kernel
theorem meets_FaultAndFreezeEvents_report : let s := { ev (memUnit {}) with regs := [(0x0601, 1), (0x0705, 1)] }
    s.boot.powered = true ∧ (s.reg 0x0705).getLsbD 0 = true ∧ s.linkUp = true := by decide +kernel

/-! ## Links and power -/

theorem meets_LinkAndPowerEvents_train : let s := { ev (memUnit {}) with regs := [] }
    s.linksUp = true ∧ s.linkUp = false := by decide +kernel
theorem meets_LinkAndPowerEvents_port : let s := { ev (memUnit {}) with regs := [(0x061F, 1)] }
    s.linksUp = true ∧ s.boot.code ≠ 5 ∧ (s.reg (0x0618 + (7 : Fin 8))).getLsbD 0 = true ∧ (s.reg (0x0610 + (7 : Fin 8))).toNat % 4 = 0 := by
  decide +kernel
/-- Port 7 in Ethernet mode, both rings of 16 at host addresses 0 and 1000 hex: one owned descriptor of 64 bytes that ends a
frame in each. -/
def ether : State :=
  { ev (memUnit {}) with
    regs := [(0x0601, 1), (0x0617, 2), (0x062E, 16 * 2 ^ 48), (0x062F, 16 * 2 ^ 48 + 0x1000)]
    mem := [(State.hostAddr 8, 64), (State.hostAddr 10, 3), (State.hostAddr 0x1008, 64), (State.hostAddr 0x100A, 1)] }
theorem meets_LinkAndPowerEvents_send : ∃ q l, ether.ethRing (0x0620 + 2 * (7 : Fin 8)) = some q ∧ ethUp ether (7 : Fin 8) = true ∧
    ether.frameOut q q.size (ether.eth[(7 : Fin 8)]).send = some l :=
  ⟨{ base := 0, size := 16 }, [0], by decide +kernel, by decide +kernel, by decide +kernel⟩
theorem meets_LinkAndPowerEvents_receive : ∃ q l, ether.ethRing (0x0621 + 2 * (7 : Fin 8)) = some q ∧ ethUp ether (7 : Fin 8) = true ∧
    ether.frameIn q q.size (ether.eth[(7 : Fin 8)]).recv (List.replicate 64 5) = some l :=
  ⟨{ base := 4096, size := 16 }, [(0, List.replicate 64 5)], by decide +kernel, by decide +kernel, by decide +kernel⟩
theorem meets_LinkAndPowerEvents_power : ({ State.reset with boot := { powered := false } } : State).boot.powered = false ∧
    State.reset.boot.powered = true ∧ State.reset.boot.code ≤ 3 ∧
    ({ State.reset with boot := { code := 3 } } : State).boot.code ≤ 3 := by decide +kernel
/-- A recovery image is offered in state 5. -/
theorem meets_LinkAndPowerEvents_recovery : let s : State := { State.reset with boot := { code := 5, image := some 0x1000 } }
    s.boot.powered = true ∧ s.boot.code = 5 ∧ s.boot.image = some 0x1000 := by decide +kernel
theorem meets_LinkAndPowerEvents_lost : (287 : Nat) < 288 ∧ (ev (memUnit {})).ringLost 287 = false ∧ (255 : Nat) < 256 ∧
    (ev (memUnit {})).blockLost 255 = false := by decide +kernel

/-! ## The whole machine -/

/-- Every operand at the top of its field. -/
theorem meets_DecodeEncodeRoundTrip : (Instr.add 63 (.g 7) ⟨.ch 3, true⟩ ⟨.ch 3, true⟩ true).hasWord = true ∧
    (Instr.add 63 (.g 7) ⟨.ch 3, true⟩ ⟨.ch 3, true⟩ true).wellFormed = true ∧
    decode 0x043DFCE0 = .ok (.halt 1) := by decide

/-- Element 0 with CNTI in slot 31, whose trigger always holds, next to be picked; and with its firing that stands stopped. -/
def picking (st : Option Firing) : State :=
  { ev (memUnit { slots := [(31, 0x02CDFCE0)], trig := [(0, 0)], firing := st }) with agenda := [{ wait := 0, what := .fire 0 0 false }] }
def stood : Firing := { slot := 31, beat := 0, cap := {}, carry := {} }
theorem meets_AStepRunsTheDecodedWord_fresh : let s1 := elapse { picking none with agenda := [] } 0
    ∃ x0, s1.placed? 0 = some x0 ∧ (picking none).boot.powered = true ∧ 0 < x0.cfg.elemCount ∧
      let y := (x0.elem 0).selfTake
      let x := x0.setElem 0 y
      let s2 := s1.setUnit 0 x
      y.pick = .run ∧ y.busy ≤ s2.clk.cyc ∧ y.heldBy = none ∧ y.drained = false ∧ y.slots.get? 31 = some 0x02CDFCE0 ∧
        decode 0x02CDFCE0 = .ok (.cnti 0) ∧ y.firing = none ∧ y.trig.get? 0 = some 0 ∧ holds x 0 (useOf (.cnti 0)) 0 = true ∧
        waveAdmits y 31 = true ∧ resources s2 0 x 0 31 (.cnti 0) (useOf (.cnti 0)) 0 = true ∧ claimTurn s2 x 0 (.cnti 0) = true ∧
        portTakes s2 0 0 31 (.cnti 0) = true ∧ (∀ k < 31, lookAt (claimTurn s2 x 0) s2 0 0 x k = .no) ∧ y.broken (.slot 31) = false ∧ y.broken (.trig (useOf (.cnti 0)).t.val) = false ∧
        y.broken (.desc 31) = false ∧ (∀ n ∈ kRegs (useOf (.cnti 0)), y.broken (.k n) = false) :=
  ⟨memUnit { slots := [(31, 0x02CDFCE0)], trig := [(0, 0)] }, by decide +kernel⟩
theorem meets_AStepRunsTheDecodedWord_stopped : let s1 := elapse { picking (some stood) with agenda := [] } 0
    ∃ x0, s1.placed? 0 = some x0 ∧ 0 < x0.cfg.elemCount ∧
      let y := (x0.elem 0).selfTake
      let x := x0.setElem 0 y
      let s2 := s1.setUnit 0 x
      y.pick = .run ∧ y.busy ≤ s2.clk.cyc ∧ y.heldBy = none ∧ y.drained = false ∧ y.slots.get? 31 = some 0x02CDFCE0 ∧
        decode 0x02CDFCE0 = .ok (.cnti 0) ∧ y.firing = some stood ∧ stood.slot = 31 ∧
        claimTurn s2 x 0 (.cnti 0) = true :=
  ⟨memUnit { slots := [(31, 0x02CDFCE0)], trig := [(0, 0)], firing := some stood }, by decide +kernel⟩
theorem meets_AStepRunsTheDecodedWord_event : let s := { ev (memUnit {}) with agenda := [{ wait := 5, what := .event .queueArbiterTake }] }
    s.agenda = [{ wait := 5, what := .event .queueArbiterTake }] ∧ Instr.queueArbiterTake.hasWord = false ∧ s.boot.powered = true := by
  decide +kernel
theorem meets_EveryInstructionAnswers : (mem2 8 7 0).focus = some ⟨0, 0, 0, false⟩ ∧ (mem2 8 7 0).elemExists 0 0 = true := by decide +kernel

def isNext {α β γ : Type} : Host.Outcome α β γ → Bool
  | .next _ => true
  | _ => false
theorem isNext_sound {α β γ : Type} {x : Host.Outcome α β γ} (h : isNext x = true) : ∃ t, x = .next t := by
  cases x with
  | next t => exact ⟨t, rfl⟩
  | fault _ => exact absurd h (by simp [isNext])
  | refused _ => exact absurd h (by simp [isNext])
theorem meets_MemoryStaysCanonical : (∃ t, step (picking none) = .next t) ∧ Memory.wf (picking none).mem = true :=
  ⟨isNext_sound (by decide +kernel), by decide +kernel⟩
theorem meets_LaneFrame : (∃ t, exec (.add 0 (.g 1) ch0 ch1 false) (two 0x0B 1) = .next t) ∧
    LaneInstr (.add 0 (.g 1) ch0 ch1 false) (.g 1) ch0 ch1 ∧ (two 0x0B 1).focus = some ⟨0, 0, 0, false⟩ ∧
    ((two 0x0B 1).unit? 0).isSome = true :=
  ⟨isNext_sound (by decide +kernel), .wide (Instr.add, _) (.head _) .., by decide +kernel, by decide +kernel⟩

end Sys2Proof.Tests
end

section
/-! PROOFS. What the host's register writes and reads do (R10, R76, R110, R320-R325, R341, R344, R356, R362, R372, R388, R392). -/

namespace Sys2Proof.Machine

/-! ## Registers after a write -/

@[simp] theorem State.reg_setReg_self (s : State) (n : Nat) (v : Word) : (s.setReg n v).reg n = v := by
  simp [State.reg, State.setReg]

theorem State.reg_setReg_ne (s : State) {n m : Nat} (v : Word) (h : m ≠ n) : (s.setReg n v).reg m = s.reg m := by
  simp [State.reg, State.setReg, Assoc.getD_put_ne _ _ _ _ h]

theorem State.reg_of_regs {s t : State} (h : t.regs = s.regs) (n : Nat) : t.reg n = s.reg n := by
  simp [State.reg, h]

/-! ## What reaches the device (R390, R402) -/

theorem State.whenReached_of_up {s : State} (hp : s.boot.powered = true) (hl : s.linkUp = true) (t : State) :
    s.whenReached t = .next t := by
  simp [State.whenReached, hp, hl]

/-! ## Which operation a host write to a register is (R322, R325) -/

theorem State.writeReg_rclq (s : State) (v : Word) : s.writeReg .host 0x0104 v = (s.ringRequest v, true) := by
  simp [State.writeReg, State.writeDevice]

theorem State.writeReg_swpc (s : State) (v : Word) : s.writeReg .host 0x0106 v = (s.setReg 0x0106 (v &&& 0x1F), true) := by
  simp [State.writeReg, State.writeDevice]

theorem State.writeReg_bootc (s : State) (v : Word) : s.writeReg .host 0x0711 v = (s.writeBootc v, true) := by
  simp [State.writeReg, State.writeDevice]

theorem State.writeReg_gate (s : State) {q : Nat} (hq : q < 4) (v : Word) :
    s.writeReg .host (0x0308 + q) v = (s.setGates q v, true) := by
  simp (disch := omega) only [State.writeReg, State.writeDevice, if_neg, if_pos, Nat.add_sub_cancel_left]

theorem State.writeReg_bwld (s : State) {q : Nat} (hq : q < 4) (v : Word) :
    s.writeReg .host (0x0400 + q) v = (s.setWorlds q v, true) := by
  simp (disch := omega) only [State.writeReg, State.writeDevice, if_neg, if_pos, Nat.add_sub_cancel_left, if_true]

theorem State.writeReg_soctl (s : State) {p : Nat} (hp : p < 8) (v : Word) :
    s.writeReg .host (0x0618 + p) v = (s.writeSoctl p v, true) := by
  simp (disch := omega) only [State.writeReg, State.writeDevice, if_neg, if_pos, Nat.add_sub_cancel_left]

/-- The registers of budgets and buckets take a write in their lower halves (R341, R344). -/
theorem State.plainMask_budget {n : Nat} (h₁ : 0x1000 ≤ n) (h₂ : n < 0x2040) : State.plainMask n = some (2 ^ 32 - 1) := by
  simp (disch := omega) only [State.plainMask, if_neg, if_pos]

theorem State.writeReg_lowHalf (s : State) {n : Nat} (h₁ : 0x1000 ≤ n) (h₂ : n < 0x2040) (v : Word) :
    (s.writeReg .host n v).1 =
      let t := if 0x2000 ≤ n then s.spendCredit (n - 0x2000) 0 else s
      (t.noteLimit n).setReg n ((s.reg n &&& ~~~0xFFFFFFFF) ||| (v &&& 0xFFFFFFFF)) := by
  simp (disch := omega) only [State.writeReg, State.writeDevice, if_neg, State.plainMask_budget h₁ h₂]
  by_cases h : 0x2000 ≤ n
  · simp [h, h₂, State.reg_of_regs (State.spendCredit_regs s (n - 0x2000) 0)]
  · simp [h]

/-! ## A ring asks for a class (R325) -/

theorem State.ringRequest_of_waiting {s : State} (h : s.sweep.ringReq.isSome = true) (v : Word) :
    s.ringRequest v = s.countUp 0x0502 := by
  simp [State.ringRequest, h]

theorem State.ringRequest_of_none {s : State} (h : s.sweep.ringReq = none)
    {v : Word} (hv : 287 < v.toNat % 512 ∨ s.ringLost (v.toNat % 512) = true) :
    s.ringRequest v = s.setReg 0x0105 (BitVec.ofNat 64 (2 + 4 * (v.toNat % 512))) := by
  rcases hv with hv | hv <;> simp [State.ringRequest, h, hv]

theorem State.ringRequest_of_full {s : State} (h : s.sweep.ringReq = none) {v : Word}
    (hq : s.ringQuick (v.toNat % 512) = false) (hv : v.getLsbD 9 = true) (hf : 32 ≤ s.quickRings.length) :
    s.ringRequest v = s.setReg 0x0105 (BitVec.ofNat 64 (2 + 4 * (v.toNat % 512))) := by
  simp [State.ringRequest, h, hq, hv, hf]

theorem State.ringRequest_of_same {s : State} (h : s.sweep.ringReq = none) {v : Word} (hn : v.toNat % 512 < 288)
    (hl : s.ringLost (v.toNat % 512) = false) (hq : s.ringQuick (v.toNat % 512) = v.getLsbD 9) :
    s.ringRequest v = s.setReg 0x0105 (BitVec.ofNat 64 (4 * (v.toNat % 512))) := by
  have hn' : ¬ 287 < v.toNat % 512 := by omega
  simp [State.ringRequest, h, hn', hl, hq]

theorem State.ringRequest_of_other {s : State} (h : s.sweep.ringReq = none) {v : Word} (hn : v.toNat % 512 < 288)
    (hl : s.ringLost (v.toNat % 512) = false) (hq : s.ringQuick (v.toNat % 512) ≠ v.getLsbD 9)
    (hf : v.getLsbD 9 = true → s.quickRings.length < 32) :
    s.ringRequest v = { s with sweep := { s.sweep with ringReq := some (v.toNat % 512, v.getLsbD 9) } }.setReg 0x0105
      (BitVec.ofNat 64 (4 * (v.toNat % 512))) := by
  have hn' : ¬ 287 < v.toNat % 512 := by omega
  have hroom : (v.getLsbD 9 && !s.ringQuick (v.toNat % 512) && decide (32 ≤ s.quickRings.length)) = false := by
    cases hv : v.getLsbD 9 with
    | false => rfl
    | true => simp [Nat.not_le.mpr (hf hv)]
  simp only [State.ringRequest, h, Option.isSome_none, hl, hroom, decide_eq_false hn', Bool.or_false, if_neg hq,
    Bool.false_eq_true, if_false, Nat.zero_add]

/-! ## Gates and worlds (R76, R320) -/

theorem State.reg_setGates (s : State) (q : Nat) (v : Word) :
    ((s.setGates q v).reg (0x0308 + q)).toNat =
      (if v.toNat % 4 = 3 then (s.reg (0x0308 + q)).toNat % 4 else v.toNat % 4) + 4 * (v.toNat / 4 % 2) := by
  simp only [State.setGates, State.reg_setReg_self, BitVec.toNat_ofNat]
  split <;> omega

/-- Bits of a word turned over one by one, no bit twice. -/
theorem getLsbD_foldl_flip {l : List Nat} (hl : l.Nodup) (w : Word) {i : Nat} (hi : i < 64) :
    (l.foldl (fun (w : Word) j => w ^^^ (1#64 <<< j)) w).getLsbD i = (w.getLsbD i ^^ decide (i ∈ l)) := by
  induction l generalizing w with
  | nil => simp
  | cons j l ih =>
    obtain ⟨hj, hl⟩ := List.nodup_cons.mp hl
    rw [List.foldl_cons, ih hl]
    by_cases hij : i = j
    · subst hij
      simp [hj, hi]
    · have hbit : (1#64 <<< j).getLsbD i = (decide (j < 64) && decide (j = i)) := BitVec.getLsbD_twoPow j i
      simp [hbit, hij, Ne.symm hij]

theorem State.reg_setWorlds (s : State) (q : Nat) (v : Word) {i : Nat} (hi : i < 64) :
    ((s.setWorlds q v).reg (0x0400 + q)).getLsbD i =
      if s.occupied (64 * q + i) then (s.reg (0x0400 + q)).getLsbD i else v.getLsbD i := by
  have hreg : (s.setWorlds q v).reg (0x0400 + q) =
      ((List.range 64).filter fun i => (s.reg (0x0400 + q)).getLsbD i != v.getLsbD i && !s.occupied (64 * q + i)).foldl
        (fun (w : Word) i => w ^^^ (1#64 <<< i)) (s.reg (0x0400 + q)) :=
    State.reg_setReg_self s (0x0400 + q) _
  rw [hreg, getLsbD_foldl_flip (List.nodup_range.filter _) _ hi]
  simp only [List.mem_filter, List.mem_range, hi, true_and]
  cases s.occupied (64 * q + i) with
  | true => simp
  | false =>
    simp only [Bool.not_false, Bool.and_true, Bool.decide_eq_true, Bool.false_eq_true, if_false]
    exact Bool.bne_self_left _ _

/-! ## Words of the aperture (R322, R362, R388, R402) -/

theorem State.hostWrite_userView (s : State) {n : Nat} (h : 2 ^ 28 ≤ n) (v : Word) :
    s.hostWrite n v = if s.boot.code = 5 then s else s.countUp 0x0502 := by
  rw [State.hostWrite, if_pos (by omega)]

theorem State.hostWrite_deviceReg (s : State) {n : Nat} (h : n < 0x10000) (v : Word) :
    s.hostWrite n v = (s.writeReg .host n v).1 := by
  rw [State.hostWrite, if_neg (by omega), if_pos h]

theorem State.hostWrite_store (s : State) {k : Nat} (h : k < 0x100000) (v : Word) :
    s.hostWrite (0x8000000 + k) v = { s with store := s.store.put k v 0 } := by
  simp (disch := omega) only [State.hostWrite, if_neg, if_pos, Nat.add_sub_cancel_left]

/-! ## Reads that clear a count (R323, R356, R372) -/

theorem State.readReg_clears (s : State) (who : Who) {n : Nat} (h : readClears n = true) (hn : 0x20 ≤ n) :
    s.readReg who n = ((s.clearCount n).1, s.heldBefore n, true) := by
  simp (disch := omega) only [State.readReg, if_neg, h, if_true]
  rfl

theorem State.hostRead_clears (s : State) {n : Nat} (h : readClears n = true) (hn : 0x20 ≤ n) (hn' : n < 0x10000) :
    (s.hostRead n).1 = (s.clearCount n).1 := by
  simp (disch := omega) only [State.hostRead, State.hostReg, if_neg, if_pos, State.readReg_clears s .host h hn]

theorem State.reg_clearCount (s : State) (n : Nat) : (s.clearCount n).1.reg n = s.reg n - s.heldBefore n :=
  State.reg_setReg_self _ n _

end Sys2Proof.Machine

namespace Sys2Proof.Spec
open Machine

section reached
variable {s : State} (hp : s.boot.powered = true) (hl : s.linkUp = true)
include hp hl

/-! ## The host's accesses while the device has power and its link is up (R390, R402) -/

theorem exec_swpcWrite (v : Word) : exec (.swpcWrite v) s = .next (s.setReg 0x0106 (v &&& 0x1F)) := by
  rw [show exec (.swpcWrite v) s = s.whenReached (s.writeReg .host 0x0106 v).1 from rfl,
    State.whenReached_of_up hp hl, State.writeReg_swpc]

theorem exec_rclq (v : Word) : exec (.rclq v) s = .next (s.ringRequest v) := by
  rw [show exec (.rclq v) s = s.whenReached (s.writeReg .host 0x0104 v).1 from rfl,
    State.whenReached_of_up hp hl, State.writeReg_rclq]

theorem exec_bootc (v : Word) : exec (.bootc v) s = .next (s.writeBootc v) := by
  rw [show exec (.bootc v) s = s.whenReached (s.writeReg .host 0x0711 v).1 from rfl,
    State.whenReached_of_up hp hl, State.writeReg_bootc]

theorem exec_gateWrite (q : Fin 4) (v : Word) : exec (.gateWrite q v) s = .next (s.setGates q v) := by
  rw [show exec (.gateWrite q v) s = s.whenReached (s.writeReg .host (0x0308 + q % 4) v).1 from rfl,
    Nat.mod_eq_of_lt q.isLt, State.whenReached_of_up hp hl, State.writeReg_gate s q.isLt]

theorem exec_bwldWrite (q : Fin 4) (v : Word) : exec (.bwldWrite q v) s = .next (s.setWorlds q v) := by
  rw [show exec (.bwldWrite q v) s = s.whenReached (s.writeReg .host (0x0400 + q % 4) v).1 from rfl,
    Nat.mod_eq_of_lt q.isLt, State.whenReached_of_up hp hl, State.writeReg_bwld s q.isLt]

theorem exec_soctlWrite (p : Fin 8) (v : Word) : exec (.soctlWrite p v) s = .next (s.writeSoctl p v) := by
  rw [show exec (.soctlWrite p v) s = s.whenReached (s.writeReg .host (0x0618 + p % 8) v).1 from rfl,
    Nat.mod_eq_of_lt p.isLt, State.whenReached_of_up hp hl, State.writeReg_soctl s p.isLt]

theorem exec_registerWrite (n : Nat) (v : Word) : exec (.registerWrite n v) s = .next (s.hostWrite n v) :=
  State.whenReached_of_up hp hl _

theorem exec_translationStoreWrite (q : Nat) {a : Nat} (ha : a < 0x800000) (v : Word) :
    exec (.translationStoreWrite q a v) s = .next { s with store := s.store.put (a / 8) v 0 } := by
  rw [show exec (.translationStoreWrite q a v) s = s.whenReached (s.hostWrite (0x8000000 + a / 8 % 0x100000) v) from rfl,
    Nat.mod_eq_of_lt (by omega), State.whenReached_of_up hp hl, State.hostWrite_store s (by omega)]

/-- A read of a counter of losses clears it (R323, R356, R372). -/
theorem exec_counterRead {p : Instr × Nat} (h : p ∈ [(Instr.logdRead, 0x0501), (.hrefRead, 0x0502), (.fdropRead, 0x0503)]) :
    exec p.1 s = .next (s.clearCount p.2).1 ∧ s.readReg .host p.2 = ((s.clearCount p.2).1, s.heldBefore p.2, true) := by
  have hread : ∀ n, readClears n = true → 0x20 ≤ n → n < 0x10000 →
      s.whenReached (s.hostRead n).1 = .next (s.clearCount n).1 ∧
        s.readReg .host n = ((s.clearCount n).1, s.heldBefore n, true) := fun n hc hn hn' =>
    ⟨by rw [State.whenReached_of_up hp hl, State.hostRead_clears s hc hn hn'], State.readReg_clears s .host hc hn⟩
  simp only [List.mem_cons, List.not_mem_nil, or_false] at h
  rcases h with rfl | rfl | rfl
  · exact hread 0x0501 rfl (by decide) (by decide)
  · exact hread 0x0502 rfl (by decide) (by decide)
  · exact hread 0x0503 rfl (by decide) (by decide)

end reached

/-- Settles O50: each write is one of the operations above on the register it names, each read of a counter clears it. -/
theorem registerEvents : Obligations.RegisterEvents := by
  unfold Obligations.RegisterEvents
  intro s hp hl
  refine ⟨exec_swpcWrite hp hl, ?gate, ?waiting, ?refused, ?full, ?same, ?other, ?bwld, exec_soctlWrite hp hl, exec_bootc hp hl,
    fun q a v ha => exec_translationStoreWrite hp hl q ha v, ?user, ?bucket, ?budget, ?counter⟩
  case gate => exact fun q v => ⟨_, exec_gateWrite hp hl q v, State.reg_setGates s q v⟩
  case waiting => exact fun v h => by rw [exec_rclq hp hl, State.ringRequest_of_waiting h]
  case refused => exact fun v h hv => by rw [exec_rclq hp hl, State.ringRequest_of_none h hv]
  case full => exact fun v h _ hq hv hf => by rw [exec_rclq hp hl, State.ringRequest_of_full h hq hv hf]
  case same => exact fun v h hn hlost hq => by rw [exec_rclq hp hl, State.ringRequest_of_same h hn hlost hq]
  case other =>
    intro v h hn hlost hq hf
    refine ⟨_, exec_rclq hp hl v, ?_⟩
    rw [State.ringRequest_of_other h hn hlost hq hf]
    exact ⟨rfl, State.reg_setReg_self _ _ _⟩
  case bwld => exact fun q v i => ⟨_, exec_bwldWrite hp hl q v, State.reg_setWorlds s q v i.isLt⟩
  case user => exact fun n v h => by rw [exec_registerWrite hp hl, State.hostWrite_userView s h]
  case bucket =>
    intro n v h₁ h₂
    have hlimit : ¬ n < 0x2000 := by omega
    rw [exec_registerWrite hp hl, State.hostWrite_deviceReg s (by omega), State.writeReg_lowHalf s (by omega) h₂]
    simp [h₁, State.noteLimit, hlimit]
  case budget =>
    intro n v h₁ h₂
    have hbucket : ¬ 0x2000 ≤ n := by omega
    rw [exec_registerWrite hp hl, State.hostWrite_deviceReg s (by omega), State.writeReg_lowHalf s h₁ (by omega)]
    simp [hbucket]
  case counter =>
    intro p h
    obtain ⟨hexec, hread⟩ := exec_counterRead hp hl h
    exact ⟨_, hexec, hread, State.reg_clearCount s p.2, fun hall => by simp [State.reg_clearCount, hall]⟩

end Sys2Proof.Spec
end

section
/-! PROOFS. Links, frames, power, bring-up and failures (R2, R101, R384, R385, R387, R390-R392, R397, R402). -/

namespace Sys2Proof.Machine

/-! ## What landing records leaves (R329, R372, R390) -/

/-- What every step of a fold keeps, the fold keeps. -/
theorem foldl_keeps {α β γ : Type} (g : α → γ) {f : α → β → α} (h : ∀ a b, g (f a b) = g a) (l : List β) (a : α) :
    g (l.foldl f a) = g a := by
  induction l generalizing a with
  | nil => rfl
  | cons b l ih => rw [List.foldl_cons, ih, h]

@[simp] theorem State.flushRing_regs (s : State) (q : Nat) (w : RingSel) : (s.flushRing q w).regs = s.regs := by
  unfold State.flushRing
  split <;> rfl

@[simp] theorem State.flushRing_boot (s : State) (q : Nat) (w : RingSel) : (s.flushRing q w).boot = s.boot := by
  unfold State.flushRing
  split <;> rfl

@[simp] theorem State.flushAll_regs (s : State) : s.flushAll.regs = s.regs :=
  foldl_keeps State.regs (fun _ _ => foldl_keeps State.regs (fun t w => t.flushRing_regs _ w) _ _) _ _

@[simp] theorem State.flushAll_boot (s : State) : s.flushAll.boot = s.boot :=
  foldl_keeps State.boot (fun _ _ => foldl_keeps State.boot (fun t w => t.flushRing_boot _ w) _ _) _ _

@[simp] theorem State.putRecord_regs (s : State) (q : Nat) (w : RingSel) (r : List Byte) :
    (s.putRecord q w r).regs = s.regs := by
  simp [State.putRecord]

theorem State.reg_countUp_ne (s : State) {n m : Nat} (h : m ≠ n) : (s.countUp n).reg m = s.reg m :=
  State.reg_setReg_ne _ _ h

/-- A loss record changes no register but FDROP. -/
theorem State.reg_putLoss (s : State) (r : FaultRec) {n : Nat} (h : n ≠ 0x0503) : (s.putLoss r).reg n = s.reg n := by
  simp only [State.putLoss, State.putFault]
  split
  · split
    · exact s.reg_countUp_ne h
    · exact State.reg_of_regs (s.putRecord_regs _ _ _) n
  · rfl

theorem State.reg_foldl_putLoss (s : State) (r : Nat → FaultRec) (jobs : List Nat) {n : Nat} (h : n ≠ 0x0503) :
    (jobs.foldl (fun (t : State) j => t.putLoss (r j)) s).reg n = s.reg n :=
  foldl_keeps (fun t => t.reg n) (fun t j => t.reg_putLoss (r j) h) jobs s

/-! ## Links (R387, R390-R392) -/

theorem hlst_up {mode : Nat} (h₁ : 1 ≤ mode) (h₂ : mode < 4) (lanes retrains : Nat) :
    (State.hlst mode lanes retrains).toNat % 4 ≠ 0 := by
  simp only [State.hlst, BitVec.toNat_ofNat]
  omega

theorem hlst_down (retrains : Nat) : (State.hlst 0 0 retrains).toNat % 4 = 0 := by
  simp only [State.hlst, BitVec.toNat_ofNat]
  omega

/-- A port comes up in one of two modes, with the lanes that trained, or stays down. -/
theorem portStatus_lanes (s : State) (p : Nat) {lanes : Nat} (h₁ : 1 ≤ lanes) (h₂ : lanes ≤ 8) (domain : Bool) (number : Nat)
    (eth : Bool) : (portStatus s p lanes domain number eth).toNat % 4 ≠ 3 ∧
      ((portStatus s p lanes domain number eth).toNat % 4 ≠ 0 →
        1 ≤ (portStatus s p lanes domain number eth).toNat / 4 % 16 ∧
          (portStatus s p lanes domain number eth).toNat / 4 % 16 ≤ 8) := by
  have hdomain : (BitVec.ofNat 64 (1 + 2 ^ 2 * lanes + 2 ^ 16 * (number % 2 ^ 10))).toNat =
      1 + 2 ^ 2 * lanes + 2 ^ 16 * (number % 2 ^ 10) := by
    rw [BitVec.toNat_ofNat]; omega
  have heth : (BitVec.ofNat 64 (2 + 2 ^ 2 * lanes)).toNat = 2 + 2 ^ 2 * lanes := by
    rw [BitVec.toNat_ofNat]; omega
  simp only [portStatus]
  split
  · split
    · simp
    · rw [hdomain]; omega
  · split
    · rw [heth]; omega
    · simp

theorem execHostLinkTrain_up {s : State} (h : s.linksUp = true) (hl : s.linkUp = false) :
    ∃ r, execHostLinkTrain s = .next r ∧ r.linkUp = true ∧ r.boot.linked = true := by
  refine ⟨_, by rw [execHostLinkTrain, if_neg (by simp [h, hl])], ?_, ?_⟩
  · simp only [State.linkUp, State.reg_of_regs (State.flushAll_regs _), State.reg_setReg_self, bne_iff_ne]
    exact hlst_up (by omega) (by omega) _ _
  · simp

theorem execScaleoutPortTrain_up {s : State} {p : Nat} (hp : p < 8) (h : s.linksUp = true) (hc : s.boot.code ≠ 5)
    (hen : (s.reg (0x0618 + p)).getLsbD 0 = true) (hdown : (s.reg (0x0610 + p)).toNat % 4 = 0) :
    ∃ v, execScaleoutPortTrain p s = .next ({ s with freeCtr := s.freeCtr + 1 }.setReg (0x0610 + p) v) ∧ v.toNat % 4 ≠ 3 ∧
      (v.toNat % 4 ≠ 0 → 1 ≤ v.toNat / 4 % 16 ∧ v.toNat / 4 % 16 ≤ 8) := by
  rw [execScaleoutPortTrain, if_neg (by simp [h, hc, hen, hdown]; omega)]
  exact ⟨_, rfl, portStatus_lanes s p (by omega) (by omega) _ _ _⟩

/-! ## Frames (R397) -/

theorem execEthFrameSend_whole {s : State} {p : Fin 8} {q : EthRing} {l : List Nat}
    (hq : s.ethRing (0x0620 + 2 * p) = some q) (hup : ethUp s p = true)
    (hl : s.frameOut q q.size (s.eth[p]).send = some l) :
    ∃ r f, execEthFrameSend p s = .next r ∧ (r.eth[p]).sent = (s.eth[p]).sent ++ [f] ∧
      (r.eth[p]).send = ((s.eth[p]).send + l.length) % q.size := by
  have hp : Fin.ofNat 8 p = p := by simp
  simp only [execEthFrameSend, hq, hup, hp, hl, Bool.not_true, Bool.false_eq_true, if_false]
  exact ⟨_, _, rfl, congrArg EthSt.sent (Vector.getElem_set_self _), congrArg EthSt.send (Vector.getElem_set_self _)⟩

theorem execEthFrameReceive_whole {s : State} {p : Fin 8} {q : EthRing} {bytes : List Byte} {l : List (Nat × List Byte)}
    (hq : s.ethRing (0x0621 + 2 * p) = some q) (hup : ethUp s p = true)
    (hl : s.frameIn q q.size (s.eth[p]).recv bytes = some l) :
    ∃ r, execEthFrameReceive p bytes s = .next r ∧ (r.eth[p]).recv = ((s.eth[p]).recv + l.length) % q.size := by
  have hp : Fin.ofNat 8 p = p := by simp
  simp only [execEthFrameReceive, hq, hup, hp, hl, Bool.not_true, Bool.false_eq_true, if_false]
  exact ⟨_, rfl, congrArg EthSt.recv (Vector.getElem_set_self _)⟩

/-! ## Memory at the end of bring-up state 2 (R402) -/

theorem Assoc.get?_filter_key {α : Type} (m : Assoc α) (f : Nat → Bool) (n : Nat) :
    Assoc.get? (m.filter fun p => f p.1) n = if f n then Assoc.get? m n else none := by
  induction m with
  | nil => simp
  | cons p t ih =>
    obtain ⟨k, v⟩ := p
    by_cases hk : k = n
    · subst hk
      cases hf : f k <;> simp [hf, Assoc.get?, ih]
    · cases hf : f k <;> simp [hf, Assoc.get?, ih, hk]

/-- The registers that put rings in the quick class lose what they held. -/
theorem State.reg_initMemory (s : State) {n : Nat} (h₁ : 0x0108 ≤ n) (h₂ : n ≤ 0x010C) : s.initMemory.reg n = 0 := by
  have hreset : regReset n = 0 := by simp (disch := omega) only [regReset, if_neg]
  have hgone : s.initMemory.regs.get? n = none :=
    (Assoc.get?_filter_key s.regs (fun k => !(decide (0x0108 ≤ k) && decide (k ≤ 0x010C))) n).trans (by simp [h₁, h₂])
  rw [State.reg, Assoc.getD, hgone, hreset, Option.getD_none]

theorem State.quickRings_initMemory (s : State) : s.initMemory.quickRings = [] := by
  refine List.filter_eq_nil_iff.mpr fun ring hring => ?_
  have hlt := List.mem_range.mp hring
  simp [State.ringQuick, s.reg_initMemory (n := 0x0108 + ring / 64) (by omega) (by omega)]

/-! ## The states of bring-up (R402) -/

theorem execBootStateAdvance_rom {s : State} (hp : s.boot.powered = true) (hc : s.boot.code = 0) :
    execBootStateAdvance s = .next { s with
      freeCtr := s.freeCtr + 1
      boot := { s.boot with code := 1, err := 0, firmware := Config.flash s.freeCtr } } := by
  simp [execBootStateAdvance, hp, hc]

theorem execBootStateAdvance_verify {s : State} (hp : s.boot.powered = true) (hc : s.boot.code = 1) :
    execBootStateAdvance s =
      .next (if signedBy s s.boot.firmware = some 0 then runFirmware s s.boot.firmware else s.bootTo 5 0) := by
  simp only [execBootStateAdvance, hp, hc, Bool.not_true, Bool.false_eq_true, if_false]
  split <;> rfl

theorem execBootStateAdvance_memory {s : State} (hp : s.boot.powered = true) (hc : s.boot.code = 2) :
    ∃ r, execBootStateAdvance s = .next r ∧
      (keyMissing s = false ∧ r.boot.code = 3 ∧ r.quickRings = [] ∨ r.boot.code = 6) := by
  simp only [execBootStateAdvance, hp, hc, Bool.not_true, Bool.false_eq_true, if_false]
  split
  · next hgood =>
    obtain ⟨-, hkeys⟩ := Bool.and_eq_true_iff.mp hgood
    exact ⟨_, rfl, .inl ⟨by simpa using hkeys, rfl, State.quickRings_initMemory s.draw.1⟩⟩
  · exact ⟨_, rfl, .inr rfl⟩

theorem execBootStateAdvance_links {s : State} (hp : s.boot.powered = true) (hc : s.boot.code = 3) :
    execBootStateAdvance s = .next ((s.bootTo 4 0).setReg 0x0500 3) := by
  simp [execBootStateAdvance, hp, hc]

theorem execBootStateAdvance_recovery {s : State} {n : Nat} (hp : s.boot.powered = true) (hc : s.boot.code = 5)
    (hi : s.boot.image = some n) :
    execBootStateAdvance s =
      .next (if signedBy s (recoveryImage s n) = some 0 then runFirmware s (recoveryImage s n)
        else { s with boot := { s.boot with image := none } }) := by
  simp only [execBootStateAdvance, hp, hc, hi, Bool.not_true, Bool.false_eq_true, if_false]
  split <;> rfl

/-! ## Failures (R384, R385) -/

@[simp] theorem State.reg_setBit_getLsbD (s : State) (n i : Nat) :
    ((s.setBit n i).reg (n + i / 64)).getLsbD (i % 64) = true := by
  have hbit : (1#64 <<< (i % 64)).getLsbD (i % 64) = true := by simp [Nat.mod_lt]
  rw [State.setBit, State.reg_setReg_self, BitVec.getLsbD_or, hbit, Bool.or_true]

theorem State.blockLost_setBit (s : State) (k : Nat) : (s.setBit 0x0520 k).blockLost k = true :=
  s.reg_setBit_getLsbD 0x0520 k

/-- What active jobs learn of a bank leaves its ring withdrawn. -/
theorem execBankFailure_lost {s : State} {k : Nat} (hk : k < 288) (hlost : s.ringLost k = false) :
    ∃ r, execBankFailure k s = .next r ∧ r.ringLost k = true := by
  refine ⟨_, by rw [execBankFailure, if_neg (by simp [hlost]; omega)], ?_⟩
  rw [State.ringLost, State.reg_foldl_putLoss _ _ _ (by omega)]
  exact s.reg_setBit_getLsbD 0x0510 k

end Sys2Proof.Machine

namespace Sys2Proof.Spec
open Machine

/-- Each state of bring-up up to 3 leads to the next, or to a state of failure (R402). -/
theorem exec_bootStateAdvance {s : State} (hp : s.boot.powered = true) (hc : s.boot.code ≤ 3) :
    ∃ r, exec .bootStateAdvance s = .next r ∧
      (s.boot.code = 0 → r.boot.code = 1 ∧ r.boot.firmware = Config.flash s.freeCtr) ∧
      (s.boot.code = 1 → signedBy s s.boot.firmware = some 0 → r.boot.code = 2 ∧ r.boot.sigOk = true) ∧
      (s.boot.code = 1 → signedBy s s.boot.firmware ≠ some 0 → r.boot.code = 5) ∧
      (s.boot.code = 2 → keyMissing s = false ∧ r.boot.code = 3 ∧ r.quickRings = [] ∨ r.boot.code = 6) ∧
      (s.boot.code = 3 → r.boot.code = 4 ∧ r.reg 0x0500 = 3) := by
  obtain h | h | h | h : s.boot.code = 0 ∨ s.boot.code = 1 ∨ s.boot.code = 2 ∨ s.boot.code = 3 := by omega
  · exact ⟨_, execBootStateAdvance_rom hp h, by simp [h]⟩
  · refine ⟨_, execBootStateAdvance_verify hp h, ?_⟩
    by_cases hsig : signedBy s s.boot.firmware = some 0
    · simp [h, hsig, runFirmware]
    · simp [h, hsig, State.bootTo]
  · obtain ⟨r, hr, hcode⟩ := execBootStateAdvance_memory hp h
    exact ⟨r, hr, by simpa [h] using hcode⟩
  · exact ⟨_, execBootStateAdvance_links hp h, by simp [h, State.bootTo]⟩

theorem exec_recovery {s : State} {n : Nat} (hp : s.boot.powered = true) (hc : s.boot.code = 5)
    (hi : s.boot.image = some n) :
    ∃ r, exec .bootStateAdvance s = .next r ∧
      (signedBy s (recoveryImage s n) = some 0 → r.boot.code = 2 ∧ r.boot.firmware = recoveryImage s n) ∧
      (signedBy s (recoveryImage s n) ≠ some 0 → r.boot = { s.boot with image := none }) := by
  refine ⟨_, execBootStateAdvance_recovery hp hc hi, fun h => ?_, fun h => ?_⟩
  · rw [if_pos h]
    exact ⟨rfl, rfl⟩
  · rw [if_neg h]

/-- Settles O52: each event is the operation above that it names. -/
theorem linkAndPowerEvents : Obligations.LinkAndPowerEvents := by
  unfold Obligations.LinkAndPowerEvents
  refine ⟨fun s => execHostLinkTrain_up, ?hostDown, fun s p => execScaleoutPortTrain_up p.isLt, ?portDown,
    fun s p q l => execEthFrameSend_whole, fun s p q l bytes => execEthFrameReceive_whole, ?good, ?loss,
    fun s => exec_bootStateAdvance, fun s n => exec_recovery, fun s k => execBankFailure_lost, ?region⟩
  case hostDown =>
    refine fun s => ⟨_, rfl, ?_, rfl⟩
    simp [State.linkUp, hlst_down]
  case portDown => exact fun s p => if_pos p.isLt
  case good => exact fun s hp => ⟨_, if_neg (by simp [hp]), rfl, rfl, rfl⟩
  case loss => exact fun s hp => ⟨_, if_pos hp, rfl, rfl, rfl, rfl⟩
  case region => exact fun s k hk hlost => ⟨s.blockLost_setBit k, if_neg (by simp [hlost]; omega)⟩

end Sys2Proof.Spec
end

section
/-! PROOFS. Physical memory in canonical form: what it means of an outcome; records, faults, cancels and a firing (R17, R23). -/

namespace Sys2Proof.Machine

variable {s : State}

/-! ## What has its memory in canonical form -/

/-- The memory of what a beat leaves is in canonical form. -/
def Out.Wf : Out → Prop
  | .go d => Memory.wf d.s.mem
  | .hold s _ => Memory.wf s.mem
  | .quit d => Memory.wf d.s.mem
  | .trap s _ _ _ => Memory.wf s.mem

/-- So is that of what an instruction answers. -/
def AnswerWf : Host.Outcome State Fault Refusal → Prop
  | .next s => Memory.wf s.mem
  | .fault _ => True
  | .refused _ => True

/-- So is that of what a happening comes to. -/
def Ready.Wf : Ready → Prop
  | .settled s => Memory.wf s.mem
  | .run _ s => Memory.wf s.mem
  | .undecodable => True

@[simp] theorem mem_ite (c : Prop) [Decidable c] (s t : State) :
    (if c then s else t).mem = if c then s.mem else t.mem :=
  apply_ite State.mem c s t

@[simp] theorem Memory.wf_ite (c : Prop) [Decidable c] (m m' : Memory) :
    Memory.wf (if c then m else m') = if c then Memory.wf m else Memory.wf m' :=
  apply_ite Memory.wf c m m'

@[simp] theorem foldl_mem {β : Type} {f : State → β → State} (hf : ∀ t b, (f t b).mem = t.mem) (l : List β) (s : State) :
    (l.foldl f s).mem = s.mem := foldl_keeps State.mem hf l s

/-- What is so of the start and kept by every step of a fold is so of the fold. -/
theorem foldl_inv {α β : Type} {P : α → Prop} {f : α → β → α} (hf : ∀ a b, P a → P (f a b)) (l : List β) {a : α}
    (h : P a) : P (l.foldl f a) :=
  List.foldlRecOn l f h fun a ha b _ => hf a b ha

theorem foldl_wf {β : Type} {f : State → β → State} (hf : ∀ t b, Memory.wf t.mem → Memory.wf (f t b).mem) (l : List β)
    {s : State} (h : Memory.wf s.mem) : Memory.wf (l.foldl f s).mem := foldl_inv hf l h

@[simp] theorem Out.wf_ite (c : Prop) [Decidable c] (a b : Out) : (if c then a else b).Wf = if c then a.Wf else b.Wf :=
  apply_ite Out.Wf c a b

@[simp] theorem answerWf_ite (c : Prop) [Decidable c] (a b : Host.Outcome State Fault Refusal) :
    AnswerWf (if c then a else b) = if c then AnswerWf a else AnswerWf b :=
  apply_ite AnswerWf c a b

@[simp] theorem Out.wf_go (d : Done) : (Out.go d).Wf ↔ Memory.wf d.s.mem := Iff.rfl

@[simp] theorem Out.wf_hold (c : Carry) : (Out.hold s c).Wf ↔ Memory.wf s.mem := Iff.rfl

@[simp] theorem Out.wf_quit (d : Done) : (Out.quit d).Wf ↔ Memory.wf d.s.mem := Iff.rfl

@[simp] theorem Out.wf_trap (cause item va : Nat) : (Out.trap s cause item va).Wf ↔ Memory.wf s.mem := Iff.rfl

@[simp] theorem answerWf_next : AnswerWf (.next s) ↔ Memory.wf s.mem := Iff.rfl

@[simp] theorem answerWf_fault (r : Fault) : AnswerWf (.fault r) := trivial

@[simp] theorem answerWf_refused (r : Refusal) : AnswerWf (.refused r) := trivial

@[simp] theorem Ready.wf_settled : (Ready.settled s).Wf ↔ Memory.wf s.mem := Iff.rfl

@[simp] theorem Ready.wf_run (i : Instr) : (Ready.run i s).Wf ↔ Memory.wf s.mem := Iff.rfl

@[simp] theorem Ready.wf_undecodable : Ready.undecodable.Wf := trivial

@[simp] theorem goSends_wf (c : Carry) (r : State × List (Nat × Token)) :
    (goSends c r).Wf ↔ Memory.wf r.1.mem := Iff.rfl

@[simp] theorem Memory.wf_foldl {β : Type} {f : Memory → β → Memory} (hf : ∀ m b, Memory.wf m → Memory.wf (f m b)) (l : List β)
    {m : Memory} (h : Memory.wf m) : Memory.wf (l.foldl f m) := foldl_inv (P := fun m => Memory.wf m = true) hf l h

theorem wf_of_eq {α : Type} {r : State × α} {t : State} {a : α} (e : r = (t, a)) (h : Memory.wf r.1.mem) :
    Memory.wf t.mem := by
  rw [e] at h; exact h

theorem mem_of_eq {α : Type} {r : State × α} {t : State} {a : α} (e : r = (t, a)) (h : r.1.mem = s.mem) :
    t.mem = s.mem := by
  rw [e] at h; exact h

/-! ## Records, faults and what a cancel takes away -/

@[simp] theorem State.clearCount_mem (s : State) (n : Nat) : (s.clearCount n).1.mem = s.mem := rfl

theorem Ring.land_wf (k : Nat) (r : Ring) (l : List (List Byte)) {m : Memory} (h : Memory.wf m) :
    Memory.wf (r.land k l m).2 := by
  induction l generalizing r m with
  | nil => exact h
  | cons x l ih =>
    unfold Ring.land
    split
    · exact ih _ (Memory.wf_writeBytes h _ x)
    · exact h

@[simp] theorem State.flushRing_wf {q : Nat} {w : RingSel} (h : Memory.wf s.mem) : Memory.wf (s.flushRing q w).mem := by
  unfold State.flushRing
  split
  · exact Ring.land_wf _ _ _ h
  · exact h

@[simp] theorem State.putRecord_wf {q : Nat} {w : RingSel} {rec : List Byte} (h : Memory.wf s.mem) :
    Memory.wf (s.putRecord q w rec).mem := by
  simp [State.putRecord, h]

@[simp] theorem State.putFault_wf {r : FaultRec} (h : Memory.wf s.mem) : Memory.wf (s.putFault r).mem := by
  simp [State.putFault, h]

@[simp] theorem State.putLoss_wf {r : FaultRec} (h : Memory.wf s.mem) : Memory.wf (s.putLoss r).mem := by
  simp [State.putLoss, h]

@[simp] theorem State.postLosses_wf (h : Memory.wf s.mem) : Memory.wf s.postLosses.mem := by
  simp +contextual [State.postLosses, h, foldl_wf]

@[simp] theorem State.deliverFrom_mem (s : State) (src pt u n : Nat) (ts : List Token) :
    (s.deliverFrom src pt u n ts).mem = s.mem := by
  unfold State.deliverFrom
  split <;> simp

@[simp] theorem State.deliverTo_mem (s : State) (pt u n : Nat) (ts : List Token) :
    (s.deliverTo pt u n ts).mem = s.mem := by
  simp [State.deliverTo]

@[simp] theorem State.settleSent_mem (s : State) (u n id : Nat) : (s.settleSent u n id).mem = s.mem := rfl

@[simp] theorem State.complete_mem (s : State) (u n id doneB : Nat) (t : Token) :
    (s.complete u n id doneB t).mem = s.mem := by
  simp [State.complete]

@[simp] theorem State.dropFaults_mem (s : State) (gone : Held → Bool) : (s.dropFaults gone).mem = s.mem := rfl

@[simp] theorem State.dropRider_mem (s : State) (id : Nat) : (s.dropRider id).mem = s.mem := rfl

@[simp] theorem State.finishRider_mem (s : State) (id : Nat) (r : Rider) (t : Token) :
    (s.finishRider id r t).mem = s.mem := by
  simp [State.finishRider]

@[simp] theorem State.finishCopy_mem (s : State) (q : Fin 4) (id : Nat) (c : Copy) (t : Token) :
    (s.finishCopy q id c t).mem = s.mem := by
  simp [State.finishCopy]

@[simp] theorem State.cancelRider_mem (s : State) (id : Nat) : (s.cancelRider id).mem = s.mem := by
  unfold State.cancelRider
  split <;> simp

@[simp] theorem State.cancelPackets_mem (s : State) (u n : Nat) (sel : Packet → Bool) :
    (s.cancelPackets u n sel).mem = s.mem := by
  unfold State.cancelPackets
  split <;> simp

@[simp] theorem State.withdrawHeld_mem (s : State) (u : Nat) : (s.withdrawHeld u).mem = s.mem := rfl

@[simp] theorem State.cancelTraffic_mem (s : State) (u : Nat) : (s.cancelTraffic u).mem = s.mem := by
  simp [State.cancelTraffic]

@[simp] theorem State.settleSince_mem (s : State) (j : Nat) : (s.settleSince j).mem = s.mem := by
  simp [State.settleSince]

@[simp] theorem State.cancelUnit_mem (s : State) (u : Nat) : (s.cancelUnit u).mem = s.mem := by
  unfold State.cancelUnit
  repeat' split
  all_goals simp

@[simp] theorem State.cancelLaunch_mem (s : State) (l : Nat) : (s.cancelLaunch l).mem = s.mem := by
  simp [State.cancelLaunch]

@[simp] theorem State.withdraw_mem (s : State) (u e : Nat) : (s.withdraw u e).mem = s.mem := rfl

@[simp] theorem State.withdrawAside_mem (s : State) (u e : Nat) : (s.withdrawAside u e).mem = s.mem := rfl

@[simp] theorem State.trap_wf {u e slot cause item va detail pa : Nat} {flags : Flags} (h : Memory.wf s.mem) :
    Memory.wf (s.trap u e slot cause item va detail pa flags).mem := by
  unfold State.trap
  split <;> simp [h]

@[simp] theorem State.windowTraps_wf {u : Nat} {ws : List (CacheWait × Nat)} (h : Memory.wf s.mem) :
    Memory.wf (s.windowTraps u ws).mem := by
  simp +contextual [State.windowTraps, h, foldl_wf]

@[simp] theorem State.failOwn_wf {id : Nat} {r : Rider} {cause : Nat} (h : Memory.wf s.mem) :
    Memory.wf (s.failOwn id r cause).mem := by
  unfold State.failOwn
  repeat' split
  all_goals simp [h]

@[simp] theorem State.refuseRider_wf {id : Nat} {r : Rider} {cause : Nat} (h : Memory.wf s.mem) :
    Memory.wf (s.refuseRider id r cause).mem := by
  simp [State.refuseRider, h]

@[simp] theorem State.resume_mem (s : State) (u e : Nat) : (s.resume u e).mem = s.mem := rfl

/-! ## Budgets -/

@[simp] theorem State.setBalance_mem (s : State) (t k : Nat) (v : Int) : (s.setBalance t k v).mem = s.mem := rfl

@[simp] theorem State.charge_mem (s : State) (t k amount : Nat) : (s.charge t k amount).mem = s.mem := by
  simp [State.charge]

/-! ## Delivering a result -/

@[simp] theorem Beat.raise_mem (bt : Beat) (s : State) (f : Flags) : (bt.raise s f).mem = s.mem := by simp [Beat.raise]

@[simp] theorem Beat.mod_mem (bt : Beat) (s : State) (f : Elem → Elem) : (bt.mod s f).mem = s.mem := rfl

@[simp] theorem Beat.deliver_mem (bt : Beat) (s : State) (d : Dst) (v : Word) (tag : BitVec 3) (fl : Flags) :
    (bt.deliver s d v tag fl).1.mem = s.mem := by
  unfold Beat.deliver
  split <;> simp

@[simp] theorem Beat.forward_mem (bt : Beat) (s : State) (d : Dst) (o : OpVal) : (bt.forward s d o).1.mem = s.mem := by
  unfold Beat.forward
  split <;> simp

@[simp] theorem Beat.addLate_mem (bt : Beat) (s : State) (d : Dst) (tok : Option Token) (send : Bool) (due req : Nat)
    (last : Bool) (acc : Option (Fin 4)) : (bt.addLate s d tok send due req last acc).mem = s.mem := by
  unfold Beat.addLate
  split <;> simp

@[simp] theorem Beat.deliverLate_mem (bt : Beat) (s : State) (d : Dst) (v : Word) (tag : BitVec 3) (fl : Flags)
    (lat : Nat) (acc : Option (Fin 4)) : (bt.deliverLate s d v tag fl lat acc).mem = s.mem := by
  unfold Beat.deliverLate
  repeat' split
  all_goals simp

/-! ## A firing -/

@[simp] theorem sendOut_mem (s : State) (u e : Nat) (l : List (Nat × Token)) : (sendOut s u e l).mem = s.mem := by
  induction l generalizing s with
  | nil => rfl
  | cons p l ih => exact ih _

@[simp] theorem stopAt_mem (s : State) (u e slot b : Nat) (cap : Captured) (c : Carry) :
    (stopAt s u e slot b cap c).mem = s.mem := rfl

@[simp] theorem clearTaken_mem (s : State) (u e : Nat) (l : List (Fin 8)) : (clearTaken s u e l).mem = s.mem := by
  simp [clearTaken]

@[simp] theorem endFiring_mem (s : State) (u e : Nat) (cap : Captured) : (endFiring s u e cap).mem = s.mem := rfl

@[simp] theorem beatTrap_wf {f : State → Out} {s0 s : State} {u e slot b : Nat} {cap : Captured} {c : Carry} {cause item va : Nat}
    (h0 : Memory.wf s0.mem) (h : Memory.wf s.mem) : Memory.wf (beatTrap f s0 s u e slot b cap c cause item va).mem := by
  simp [beatTrap, h0, h]

/-- No beat of a plan, and nothing after its last, takes memory out of its canonical form. -/
structure Plan.Wf (p : Plan) : Prop where
  beat : ∀ {s : State} (bt : Beat) (c : Carry), Memory.wf s.mem → (p.beat s bt c).Wf
  fin : ∀ f ∈ p.fin, ∀ {s : State} (bt : Beat) (c : Carry), Memory.wf s.mem → (f s bt c).Wf

theorem runFin_wf {p : Plan} (hp : p.Wf) {u e slot n : Nat} {cap : Captured} {bt : Beat} {c : Carry} (h : Memory.wf s.mem) :
    Memory.wf (runFin p s u e slot n cap bt c).mem := by
  unfold runFin
  split
  · simp [h]
  · next f hf =>
    have hd := hp.fin f hf bt c h
    split
    all_goals
      next hb =>
      rw [hb] at hd
      simp_all

theorem runBeats_wf {p : Plan} (hp : p.Wf) {u e slot n : Nat} {cap : Captured} {k b : Nat} {c : Carry} (h : Memory.wf s.mem) :
    Memory.wf (runBeats p u e slot n cap k b s c).mem := by
  induction k generalizing b s c with
  | zero => exact h
  | succ k ih =>
    unfold runBeats
    extract_lets x bt s0
    have h0 : Memory.wf s0.mem := by
      unfold s0
      split <;> simp [h]
    have hd := hp.beat bt c h0
    clear_value x bt s0
    split
    · simp [h]
    · split
      · next hb => rw [hb] at hd; simpa using hd
      · next hb => rw [hb] at hd; exact beatTrap_wf h hd
      · next d hb =>
        rw [hb] at hd
        split
        · simpa using hd
        · simp [h]
      · next d hb =>
        rw [hb] at hd
        have h1 : Memory.wf (sendOut d.s u e d.sends).mem := by simpa using hd
        split
        · simp [h]
        · split
          · exact runFin_wf hp h1
          · exact ih h1

/-- A firing keeps memory in canonical form where its beats do. -/
theorem fire_wf {p : Plan} (hp : p.Wf) (h : Memory.wf s.mem) : AnswerWf (fire p s) := by
  unfold fire
  split
  · simp
  · split
    · simp
    · simp only []
      split
      · split
        · exact h
        · split
          · exact runBeats_wf hp h
          · exact runFin_wf hp h
      · exact runBeats_wf hp h

end Sys2Proof.Machine
end

section
/-! PROOFS. Beats of the slot instructions of classes 0 to 6 and canonical memory. -/

namespace Sys2Proof.Machine

variable {s : State}

/-! ## Beats of class 0 -/

@[simp] theorem idleBeat_wf {v : Beat} {c : Carry} (h : Memory.wf s.mem) : (idleBeat s v c).Wf := by simp [idleBeat, h]

@[simp] theorem predTest_wf {v : Bool} {d : Fin 8} {bt : Beat} {c : Carry} (h : Memory.wf s.mem) :
    (predTest v d s bt c).Wf := by
  simp [predTest, h]

@[simp] theorem sendPulse_mem (s : State) (u e n : Nat) : (sendPulse s u e n).mem = s.mem := by simp [sendPulse]

/-! ## Beats of class 1 -/

@[simp] theorem intBeat_wf {adm : Fmt → Option IntFmt} {d : Dst} {bc : Bool} {op : LaneArg → Nat × Flags} {bt : Beat}
    {c : Carry} (h : Memory.wf s.mem) : (intBeat adm d bc op s bt c).Wf := by
  simp [intBeat, h]

@[simp] theorem cmpBeat_wf {d : Fin 8} {holds : Bool × Flags} {bt : Beat} {c : Carry} (h : Memory.wf s.mem) :
    (cmpBeat d holds s bt c).Wf := by
  simp [cmpBeat, h]

/-! ## Beats of class 2 -/

@[simp] theorem fpBeat_wf {adm : Fmt → Option FFmt} {d : Dst} {bc : Bool} {op : FCtx → Nat → Nat → Nat → Lane}
    {bt : Beat} {c : Carry} (h : Memory.wf s.mem) : (fpBeat adm d bc op s bt c).Wf := by
  simp [fpBeat, h]

@[simp] theorem fpLateBeat_wf {adm : Fmt → Option FFmt} {d : Dst} {bc : Bool} {lat : Option Fmt → Nat × Nat}
    {op : FCtx → Nat → Nat → Nat → Lane} {bt : Beat} {c : Carry} (h : Memory.wf s.mem) :
    (fpLateBeat adm d bc lat op s bt c).Wf := by
  simp [fpLateBeat, h]

/-! ## Beats of the bricks -/

@[simp] theorem macBeat_wf {op : MacOp} {d : Fin 4} {ca cb : Fin 8} {bt : Beat} {c : Carry} (h : Memory.wf s.mem) :
    (macBeat op d ca cb s bt c).Wf := by
  unfold macBeat
  repeat' split
  all_goals simp [h]

@[simp] theorem wldBeat_wf {bt : Beat} {c : Carry} (h : Memory.wf s.mem) : (wldBeat s bt c).Wf := by simp [wldBeat, h]

@[simp] theorem acrdBeat_wf {d : Dst} {n : Fin 4} {sr : Bool} {bt : Beat} {c : Carry} (h : Memory.wf s.mem) :
    (acrdBeat d n sr s bt c).Wf := by
  simp only [acrdBeat]
  repeat' split
  all_goals simp [h]

/-! ## Beats of the lane movers and reductions -/

@[simp] theorem zeroBeat_wf {d : Dst} {bt : Beat} {c : Carry} (h : Memory.wf s.mem) : (zeroBeat d s bt c).Wf := by
  simp [zeroBeat, h]

@[simp] theorem Beat.deliverOnce_mem (bt : Beat) (s : State) (d : Dst) (c : Carry) (v : Word) (tag : BitVec 3)
    (fl : Flags) : (bt.deliverOnce s d c v tag fl).1.mem = s.mem := by
  unfold Beat.deliverOnce
  split <;> simp

@[simp] theorem cvtBeat_wf {d : Dst} {sr : Bool} {bt : Beat} {c : Carry} (h : Memory.wf s.mem) :
    (cvtBeat d sr s bt c).Wf := by
  simp only [cvtBeat]
  split <;> simp [h]

@[simp] theorem mxsBeat_wf {d : Dst} {ch : Fin 4} {bt : Beat} {c : Carry} (h : Memory.wf s.mem) :
    (mxsBeat d ch s bt c).Wf := by
  unfold mxsBeat
  repeat' split
  all_goals simp [h]

@[simp] theorem qencBeat_wf {d : ODst} {sr : Bool} {bt : Beat} {c : Carry} (h : Memory.wf s.mem) :
    (qencBeat d sr s bt c).Wf := by
  unfold qencBeat
  split <;> simp [h]

@[simp] theorem moveBeat_wf {d : Dst} {idx : Word → Nat → Nat} {bt : Beat} {c : Carry} (h : Memory.wf s.mem) :
    (moveBeat d idx s bt c).Wf := by
  unfold moveBeat
  split <;> simp [h]

@[simp] theorem redBeat_wf {adm : Fmt → Bool} {step : Fmt → Bool → RMode → Option Nat → Nat → Lane} {d : Dst}
    {bt : Beat} {c : Carry} (h : Memory.wf s.mem) : (redBeat adm step d s bt c).Wf := by
  simp only [redBeat]
  split <;> simp [h]

@[simp] theorem rsexBeat_wf {d : Fin 8} {bt : Beat} {c : Carry} (h : Memory.wf s.mem) : (rsexBeat d s bt c).Wf := by
  simp only [rsexBeat]
  split <;> simp [h]

/-! ## Memory tiles -/

@[simp] theorem State.perform_mem (s : State) (u : Nat) (r : MemReq) : (s.perform u r).mem = s.mem := rfl

theorem State.arrive_mem {s t : State} {u : Nat} {x : UnitSt} {r : MemReq} (ht : s.arrive u x r = some t) :
    t.mem = s.mem := by
  simp only [State.arrive] at ht
  split at ht
  · cases ht
  · split at ht
    · cases ht; simp
    · split at ht
      · cases ht; simp
      · cases ht

@[simp] theorem State.arrive_getD_mem {s t : State} (u : Nat) (x : UnitSt) (r : MemReq) (ht : t.mem = s.mem) :
    ((s.arrive u x r).getD t).mem = s.mem := by
  cases ha : s.arrive u x r with
  | none => exact ht
  | some t' => exact State.arrive_mem ha

theorem State.arrive_getD_wf {t : State} {u : Nat} {x : UnitSt} {r : MemReq} (h : Memory.wf s.mem) (ht : Memory.wf t.mem) :
    Memory.wf ((s.arrive u x r).getD t).mem := by
  cases ha : s.arrive u x r with
  | none => exact ht
  | some t' => exact State.arrive_mem ha ▸ h

@[simp] theorem State.issue_mem (s : State) (u : Nat) (r : MemReq) (defer : Bool) :
    (s.issue u r defer).mem = s.mem := by
  unfold State.issue
  split
  · rfl
  · dsimp only
    split
    · rfl
    · exact State.arrive_getD_mem u _ r rfl

@[simp] theorem State.failReq_wf {u : Nat} {r : MemReq} (h : Memory.wf s.mem) : Memory.wf (s.failReq u r).mem := by
  simp [State.failReq, h]

@[simp] theorem State.serveReq_wf {u i : Nat} (h : Memory.wf s.mem) : Memory.wf (s.serveReq u i).mem := by
  simp only [State.serveReq]
  split
  · exact h
  · split
    · exact h
    · split
      · split <;> simp [h]
      · exact State.arrive_getD_wf h h

/-! ## Beats on memory tiles and buffers -/

@[simp] theorem Beat.promise_mem (bt : Beat) (s : State) (d : Dst) (tag : BitVec 3) (lat id : Nat) :
    (bt.promise s d tag lat id).mem = s.mem := by
  unfold Beat.promise
  split <;> simp

@[simp] theorem memBeat_wf {op : MemOp} {port : Nat} {a : Src} {d : Option Dst} {tag : Beat → BitVec 3} {lat : Nat}
    {mk : State → Beat → MemReq → MemReq} {bt : Beat} {c : Carry} (h : Memory.wf s.mem) :
    (memBeat op port a d tag lat mk s bt c).Wf := by
  simp only [memBeat]
  repeat' split
  all_goals simp [h]

@[simp] theorem amoBeat_wf {op : MemOp} {adm : Fmt → Bool} {a : Src} {d : Dst} {bt : Beat} {c : Carry}
    (h : Memory.wf s.mem) : (amoBeat op adm a d s bt c).Wf := by
  simp only [amoBeat]
  repeat' split
  all_goals simp [h]

@[simp] theorem bufqBeat_wf {d : Dst} {bt : Beat} {c : Carry} (h : Memory.wf s.mem) : (bufqBeat d s bt c).Wf := by
  simp only [bufqBeat]
  repeat' split
  all_goals simp [h]

@[simp] theorem bufsetBeat_wf {bt : Beat} {c : Carry} (h : Memory.wf s.mem) : (bufsetBeat s bt c).Wf := by
  simp only [bufsetBeat]
  repeat' split
  all_goals simp [h]

/-! ## The section cache -/

@[simp] theorem State.sendItem_mem (s : State) (u e slot : Nat) (wave : Bool) (ord : Nat) (kind : ItemKind) (va : Nat)
    (words : List (Nat × Word)) : (s.sendItem u e slot wave ord kind va words).mem = s.mem := by
  unfold State.sendItem
  split <;> simp

@[simp] theorem State.sendLines_mem (s : State) (u e slot : Nat) (wave : Bool) (ord : Nat) (l : List (Nat × List (Nat × Word))) :
    (s.sendLines u e slot wave ord l).mem = s.mem := by
  induction l generalizing s with
  | nil => rfl
  | cons p l ih => exact (ih _).trans (s.sendItem_mem u e slot wave ord .wb p.1 p.2)

@[simp] theorem State.modCache_mem (s : State) (u : Nat) (f : Cache → Cache) : (s.modCache u f).mem = s.mem := rfl

@[simp] theorem State.pastCache_mem (s : State) (u line : Nat) (ws : List Word) (w : CacheWait) :
    (s.pastCache u line ws w).mem = s.mem := by
  simp [State.pastCache]

@[simp] theorem cacheMiss_mem (s : State) (bt : Beat) (va : Nat) (w : CacheWait) :
    (cacheMiss s bt va w).mem = s.mem := by
  simp only [cacheMiss]
  split <;> simp

@[simp] theorem windowRead_wf {bt : Beat} {c : Carry} {d : Dst} {va cap hops : Nat} (h : Memory.wf s.mem) :
    (windowRead s bt c d va cap hops).Wf := by
  simp only [windowRead]
  repeat' split
  all_goals simp [h]

@[simp] theorem ldcBeat_wf {a : Src} {d : Dst} {ef : Bool} {bt : Beat} {c : Carry} (h : Memory.wf s.mem) :
    (ldcBeat a d ef s bt c).Wf := by
  simp only [ldcBeat]
  repeat' split
  all_goals simp [h]

@[simp] theorem stcBeat_wf {a : Src} {ef : Bool} {bt : Beat} {c : Carry} (h : Memory.wf s.mem) :
    (stcBeat a ef s bt c).Wf := by
  simp only [stcBeat]
  repeat' split
  all_goals simp [h]

@[simp] theorem walkBeat_wf {wb : Bool} {bt : Beat} {c : Carry} (h : Memory.wf s.mem) : (walkBeat wb s bt c).Wf := by
  simp only [walkBeat]
  repeat' split
  all_goals simp [h]

@[simp] theorem retainBeat_wf {len : Beat → Nat} {bt : Beat} {c : Carry} (h : Memory.wf s.mem) :
    (retainBeat len s bt c).Wf := by
  simp only [retainBeat]
  split <;> simp [h]

@[simp] theorem ldwBeat_wf {a : Src} {d : Dst} {bt : Beat} {c : Carry} (h : Memory.wf s.mem) :
    (ldwBeat a d s bt c).Wf := by
  simp only [ldwBeat]
  split <;> simp [h]

/-! ## Engine packets and operand slots -/

@[simp] theorem State.sendPacket_mem (s : State) (u n : Nat) (p : Packet) : (s.sendPacket u n p).mem = s.mem := rfl

@[simp] theorem State.openSent_mem (s : State) (u n id : Nat) : (s.openSent u n id).mem = s.mem := rfl

@[simp] theorem brdBeat_wf {k : RKind} {n : Fin 32} {bt : Beat} {c : Carry} (h : Memory.wf s.mem) :
    (brdBeat k n s bt c).Wf := by
  simp only [brdBeat]
  repeat' split
  all_goals simp [h]

@[simp] theorem tblbBeat_wf {n : Fin 32} {bt : Beat} {c : Carry} (h : Memory.wf s.mem) : (tblbBeat n s bt c).Wf := by
  simp only [tblbBeat]
  repeat' split
  all_goals simp [h]

@[simp] theorem rcan_mem (s : State) (u n d : Nat) : (rcan s u n d).mem = s.mem := by simp [rcan]

@[simp] theorem startZero_mem (s : State) (q n : Nat) : (startZero s q n).mem = s.mem := by simp [startZero]

@[simp] theorem startZeros_mem (s : State) : (startZeros s).mem = s.mem := by simp [startZeros]

@[simp] theorem guardDrop_wf {u e slot : Nat} {desc : Word} (h : Memory.wf s.mem) :
    Memory.wf (guardDrop s u e slot desc).mem := by
  unfold guardDrop
  split <;> simp [h]

@[simp] theorem cpyBeat_wf {n : Fin 32} {bt : Beat} {c : Carry} (h : Memory.wf s.mem) : (cpyBeat n s bt c).Wf := by
  simp only [cpyBeat]
  repeat' split
  all_goals simp [h]

@[simp] theorem collBeat_wf {n : Fin 32} {bt : Beat} {c : Carry} (h : Memory.wf s.mem) : (collBeat n s bt c).Wf := by
  simp only [collBeat]
  repeat' split
  all_goals simp [h]

@[simp] theorem State.addCounter_mem (s : State) (j i : Nat) (v : Word) : (s.addCounter j i v).mem = s.mem := rfl

@[simp] theorem portTake_mem (s : State) (u n : Nat) (k : Token) : (portTake s u n k).mem = s.mem := by
  unfold portTake
  repeat' split
  all_goals simp

@[simp] theorem State.ownRequest_mem (s : State) (u e n : Nat) (wave : Bool) :
    (s.ownRequest u e n wave).mem = s.mem := by
  simp [State.ownRequest]

@[simp] theorem wremFail_wf {r : Remote} {cause : Nat} (h : Memory.wf s.mem) : Memory.wf (wremFail s r cause).mem := by
  unfold wremFail
  split <;> simp [h]

@[simp] theorem wremBeat_wf {n : Fin 32} {a : Src} {full : Bool} {bt : Beat} {c : Carry} (h : Memory.wf s.mem) :
    (wremBeat n a full s bt c).Wf := by
  simp only [wremBeat]
  repeat' split
  all_goals simp [h]

@[simp] theorem sndmBeat_wf {n : Fin 32} {a : Fin 4} {bt : Beat} {c : Carry} (h : Memory.wf s.mem) :
    (sndmBeat n a s bt c).Wf := by
  simp only [sndmBeat]
  repeat' split
  all_goals simp [h]

@[simp] theorem cntiBeat_wf {bt : Beat} {c : Carry} (h : Memory.wf s.mem) : (cntiBeat s bt c).Wf := by
  simp [cntiBeat, h]

/-! ## Beats of class 6 -/

@[simp] theorem geoBeat_wf {p : Pred} {sym : Bool} {d : ODst} {ch : Fin 4} {stg nfm : Bool} {bt : Beat} {c : Carry}
    (h : Memory.wf s.mem) : (geoBeat p sym d ch stg nfm s bt c).Wf := by
  simp only [geoBeat]
  repeat' split
  all_goals simp [h]

@[simp] theorem Beat.deliverAt_mem (bt : Beat) (coord : Nat) (s : State) (d : Dst) (v : Word) (tag : BitVec 3)
    (fl : Flags) : (bt.deliverAt coord s d v tag fl).1.mem = s.mem := by
  simp [Beat.deliverAt]

@[simp] theorem Beat.forwardAt_mem (bt : Beat) (coord : Nat) (s : State) (d : Dst) (o : OpVal) :
    (bt.forwardAt coord s d o).1.mem = s.mem := by
  unfold Beat.forwardAt
  split <;> simp

end Sys2Proof.Machine
end

section
/-! PROOFS. Arming, translation, freezing, cancels, system registers and canonical memory. -/

namespace Sys2Proof.Machine

variable {s : State}

/-! ## Arming -/

@[simp] theorem State.evict_mem (s : State) (x : UnitSt) (k : Rect) : (s.evict x k).mem = s.mem := rfl

@[simp] theorem State.armUnit_mem (s : State) (u : Nat) (k : Rect) : (s.armUnit u k).mem = s.mem := by
  unfold State.armUnit
  split <;> simp

@[simp] theorem State.keepSection_mem (s : State) (x : UnitSt) : (s.keepSection x).mem = s.mem := rfl

/-! ## Translation and held work -/

@[simp] theorem State.endWalk_mem (s : State) (who : Nat) : (s.endWalk who).mem = s.mem := rfl

@[simp] theorem State.translate_mem (s : State) (agent : Nat) (a : Ask) (va : Nat) :
    (s.translate agent a va).1.mem = s.mem := by
  simp only [State.translate]
  repeat' split
  all_goals simp

@[simp] theorem State.translateSpan_mem (s : State) (agent : Nat) (a : Ask) (hi k va : Nat) :
    (State.translateSpan agent a hi k va s).1.mem = s.mem := by
  induction k generalizing s va with
  | zero => rfl
  | succ k ih =>
    unfold State.translateSpan
    split
    · rfl
    · have hs := s.translate_mem agent a va
      split
      · next t p ht =>
        rw [ht] at hs
        have hr := ih t (p.va + p.size)
        split
        · next t' ps ht' => rw [ht'] at hr; exact hr.trans hs
        · exact hr.trans hs
      · next t f _ ht => rw [ht] at hs; exact hs

@[simp] theorem State.spanPages_mem (s : State) (agent : Nat) (a : Ask) (va len : Nat) :
    (s.spanPages agent a va len).1.mem = s.mem := by
  simp [State.spanPages]

@[simp] theorem State.fetchLine_mem (s : State) (a : Ask) (u job port va line : Nat) :
    (s.fetchLine a u job port va line).mem = s.mem := by
  simp [State.fetchLine]

@[simp] theorem State.holdFault_wf {r : FaultRec} {f : FaultSt} (h : Memory.wf s.mem) :
    Memory.wf (s.holdFault r f).mem := by
  simp [State.holdFault, h]

@[simp] theorem State.freeElem_mem (s : State) (u e : Nat) : (s.freeElem u e).mem = s.mem := rfl

@[simp] theorem State.retryHeld_mem (s : State) (what : Held) : (s.retryHeld what).mem = s.mem := by
  unfold State.retryHeld
  repeat' split
  all_goals simp

@[simp] theorem State.unresolveHeld_wf {f : FaultSt} (h : Memory.wf s.mem) : Memory.wf (s.unresolveHeld f).mem := by
  simp only [State.unresolveHeld]
  repeat' split
  all_goals simp [h]

@[simp] theorem State.fres_wf {serial : Nat} {unresolvable : Bool} (h : Memory.wf s.mem) :
    Memory.wf (s.fres serial unresolvable).mem := by
  unfold State.fres
  split <;> simp [h]

@[simp] theorem State.tlbiStart_mem (s : State) (x : Tlbi) : (s.tlbiStart x).mem = s.mem := rfl

@[simp] theorem State.tlbiResult_mem (s : State) (x : Tlbi) (code : Nat) : (s.tlbiResult x code).mem = s.mem := by
  unfold State.tlbiResult
  split <;> simp

@[simp] theorem State.tlbiUnit_mem (s : State) (id u : Nat) (y : UnitSt) (x : Tlbi)
    (r : Cache × List (Nat × List (Nat × Word))) : (s.tlbiUnit id u y x r).mem = s.mem := by
  simp [State.tlbiUnit]

@[simp] theorem State.tlbiFlush_mem (s : State) (id : Nat) (x : Tlbi) : (s.tlbiFlush id x).mem = s.mem := by
  simp only [State.tlbiFlush]
  refine (foldl_mem (fun t r => ?_) _ _).trans (foldl_mem (fun t p => ?_) _ _)
  · split <;> simp
  · repeat' split
    all_goals simp

@[simp] theorem State.tlbiStep_mem (s : State) (id : Nat) : (s.tlbiStep id).mem = s.mem := by
  unfold State.tlbiStep
  split <;> simp

/-! ## The management path, freezing and thawing -/

@[simp] theorem State.settleReqs_wf {u k : Nat} (h : Memory.wf s.mem) : Memory.wf (State.settleReqs u k s).mem := by
  induction k generalizing s with
  | zero => exact h
  | succ k ih =>
    unfold State.settleReqs
    repeat' split
    · exact h
    · exact h
    · exact ih (foldl_wf (fun t i ht => State.serveReq_wf ht) _ h)

@[simp] theorem State.exactWithdraw_mem (s : State) (u : Nat) : (s.exactWithdraw u).mem = s.mem := rfl

@[simp] theorem State.exactAgain_mem (s : State) (u : Nat) (x : UnitSt) : (s.exactAgain u x).mem = s.mem := by
  simp [State.exactAgain]

@[simp] theorem State.stopSection_wf {u : Nat} (h : Memory.wf s.mem) : Memory.wf (s.stopSection u).mem := by
  simp [State.stopSection, h]

@[simp] theorem State.manItem_mem (s : State) (man : Nat) (i : Item) : (s.manItem man i).mem = s.mem := rfl

@[simp] theorem State.manFail_mem (s : State) (man : Nat) : (s.manFail man).mem = s.mem := rfl

@[simp] theorem State.manOver_mem (s : State) (man : Nat) : (s.manOver man).mem = s.mem := rfl

@[simp] theorem State.writeImage_mem (s : State) (x : UnitSt) (va : Nat) (im : Nat × List (Nat × Word)) :
    (s.writeImage x va im).1.mem = s.mem := rfl

@[simp] theorem State.beginRead_mem (s : State) (r : ImgRead) : (s.beginRead r).mem = s.mem := rfl

@[simp] theorem State.setSres_mem (s : State) (code size : Nat) : (s.setSres code size).mem = s.mem := rfl

@[simp] theorem State.outcome_mem (s : State) (who : Option (Nat × Nat × Nat)) (code size : Nat) :
    (s.outcome who code size).mem = s.mem := by
  unfold State.outcome
  split <;> simp

@[simp] theorem State.renewArrivals_mem (s : State) (u : Nat) : (s.renewArrivals u).mem = s.mem := rfl

@[simp] theorem State.thawInto_wf {u : Nat} {k : Rect} {img : Option UnitSt} (h : Memory.wf s.mem) :
    Memory.wf (s.thawInto u k img).mem := by
  simp only [State.thawInto]
  repeat' split
  all_goals simp +contextual [h, foldl_wf]

@[simp] theorem State.readOut_wf {u : Nat} (h : Memory.wf s.mem) : Memory.wf (s.readOut u).mem := by
  simp only [State.readOut]
  repeat' split
  all_goals simp [h]

@[simp] theorem State.imageOut_wf {u : Nat} (h : Memory.wf s.mem) : Memory.wf (s.imageOut u).mem := by
  unfold State.imageOut
  repeat' split
  all_goals simp [h]

@[simp] theorem State.readFailed_mem (s : State) (man : Nat) (r : ImgRead) : (s.readFailed man r).mem = s.mem := by
  unfold State.readFailed
  split <;> simp

@[simp] theorem State.readRest_mem (s : State) (man : Nat) (r : ImgRead) (total : Nat) :
    (s.readRest man r total).mem = s.mem := rfl

@[simp] theorem State.rollbackDone_mem (s : State) (man : Nat) (r : ImgRead) (res : Resident) :
    (s.rollbackDone man r res).mem = s.mem := by
  unfold State.rollbackDone
  split <;> simp

@[simp] theorem State.stepRead_mem (s : State) (man : Nat) (r : ImgRead) : (s.stepRead man r).mem = s.mem := by
  unfold State.stepRead
  repeat' split
  all_goals simp

@[simp] theorem State.settleImages_wf (h : Memory.wf s.mem) : Memory.wf s.settleImages.mem := by
  refine foldl_wf (fun t p ht => ?_) _ (foldl_wf (fun t u ht => State.imageOut_wf ht) _
    (foldl_wf (fun t u ht => State.readOut_wf ht) _ h))
  split <;> simp [ht]

@[simp] theorem State.placeThaw_wf {u : Nat} {x : UnitSt} (h : Memory.wf s.mem) : Memory.wf (s.placeThaw u x).mem := by
  simp only [State.placeThaw]
  repeat' split
  all_goals simp [h]

@[simp] theorem State.freezeOp_wf {w : FrzWord} {img : Nat} {own : Option Nat} {seesSecure : Bool}
    {who : Option (Nat × Nat × Nat)} (h : Memory.wf s.mem) : Memory.wf (s.freezeOp w img own seesSecure who).1.mem := by
  unfold State.freezeOp
  repeat' split
  all_goals simp [h]

@[simp] theorem State.thawOp_mem (s : State) (w : FrzWord) (img : Nat) (seesSecure : Bool)
    (who : Option (Nat × Nat × Nat)) : (s.thawOp w img seesSecure who).1.mem = s.mem := by
  unfold State.thawOp
  repeat' split
  all_goals simp

/-! ## Graphs that begin and cancels -/

@[simp] theorem State.startGraph_mem (s : State) (j k : Nat) : (State.startGraph j k s).mem = s.mem := by
  induction k generalizing s with
  | zero => rfl
  | succ k ih =>
    unfold State.startGraph
    repeat' split
    all_goals simp [ih]

@[simp] theorem State.startNext_mem (s : State) (j : Nat) : (s.startNext j).mem = s.mem := by simp [State.startNext]

@[simp] theorem State.startGraphs_mem (s : State) : s.startGraphs.mem = s.mem := by simp [State.startGraphs]

@[simp] theorem State.cancelOneLaunch_mem (s : State) (l : Nat) : (s.cancelOneLaunch l).1.mem = s.mem := by
  unfold State.cancelOneLaunch
  repeat' split
  all_goals simp

@[simp] theorem State.cancelWalk_mem (s : State) (j : Nat) : (s.cancelWalk j).mem = s.mem := by
  unfold State.cancelWalk
  repeat' split
  all_goals simp

@[simp] theorem State.cancelGraph_mem (s : State) (j g : Nat) : (s.cancelGraph j g).1.mem = s.mem := by
  simp only [State.cancelGraph]
  repeat' split
  all_goals simp

@[simp] theorem State.cancelPhase_mem (s : State) (j : Nat) : (s.cancelPhase j).1.mem = s.mem := by
  unfold State.cancelPhase
  repeat' split
  all_goals simp

@[simp] theorem State.cancelJob_mem (s : State) (j : Nat) : (s.cancelJob j).1.mem = s.mem := by
  unfold State.cancelJob
  repeat' split
  all_goals simp

@[simp] theorem State.cancelNamed_mem (s : State) (j level graph node : Nat) :
    (s.cancelNamed j level graph node).1.mem = s.mem := by
  unfold State.cancelNamed
  repeat' split
  all_goals simp

@[simp] theorem State.cancelOwn_mem (s : State) (x : UnitSt) (level : Nat) : (s.cancelOwn x level).1.mem = s.mem := by
  unfold State.cancelOwn
  repeat' split
  all_goals simp

/-! ## System registers -/

@[simp] theorem State.readReg_mem (s : State) (who : Who) (n : Nat) : (s.readReg who n).1.mem = s.mem := by
  unfold State.readReg
  repeat' split
  all_goals simp

@[simp] theorem State.setWorlds_mem (s : State) (q : Nat) (v : Word) : (s.setWorlds q v).mem = s.mem := rfl

@[simp] theorem State.setGates_mem (s : State) (q : Nat) (v : Word) : (s.setGates q v).mem = s.mem := rfl

@[simp] theorem State.setRing_mem (s : State) (ring : Nat) (quick : Bool) : (s.setRing ring quick).mem = s.mem := rfl

@[simp] theorem State.ringRequest_mem (s : State) (v : Word) : (s.ringRequest v).mem = s.mem := by
  simp [State.ringRequest]

@[simp] theorem State.hostTlbiStart_mem (s : State) (v : Word) : (s.hostTlbiStart v).mem = s.mem := by
  unfold State.hostTlbiStart
  repeat' split
  all_goals simp

@[simp] theorem State.writeSctl_wf {v : Word} (h : Memory.wf s.mem) : Memory.wf (s.writeSctl v).mem := by
  simp only [State.writeSctl]
  split
  · simp [h]
  · split
    · exact h
    · split
      all_goals
        next ht =>
        have hm := wf_of_eq ht (by split <;> simp [h])
        simp [hm]

@[simp] theorem State.writeFres_wf {v : Word} (h : Memory.wf s.mem) : Memory.wf (s.writeFres v).mem := by
  simp [State.writeFres, h]

@[simp] theorem State.writeBootc_mem (s : State) (v : Word) : (s.writeBootc v).mem = s.mem := by simp [State.writeBootc]

@[simp] theorem State.writeAreq_mem (s : State) (v : Word) : (s.writeAreq v).mem = s.mem := by simp [State.writeAreq]

@[simp] theorem State.writeLocal_mem (s : State) (u e n : Nat) (v : Word) : (s.writeLocal u e n v).1.mem = s.mem := by
  unfold State.writeLocal
  split <;> simp

@[simp] theorem State.noteLimit_mem (s : State) (n : Nat) : (s.noteLimit n).mem = s.mem := by simp [State.noteLimit]

@[simp] theorem State.writeSoctl_mem (s : State) (p : Nat) (v : Word) : (s.writeSoctl p v).mem = s.mem := rfl

@[simp] theorem State.writeDevice_wf {who : Who} {n : Nat} {v : Word} (h : Memory.wf s.mem) :
    Memory.wf (s.writeDevice who n v).1.mem := by
  unfold State.writeDevice
  cases State.plainMask n <;> simp [apply_ite Prod.fst, h]

@[simp] theorem State.writeReg_wf {who : Who} {n : Nat} {v : Word} (h : Memory.wf s.mem) :
    Memory.wf (s.writeReg who n v).1.mem := by
  unfold State.writeReg
  repeat' split
  all_goals simp [h]

theorem State.wf_ite {c : Prop} [Decidable c] {s t : State} (h : Memory.wf s.mem) (ht : Memory.wf t.mem) :
    Memory.wf (if c then s else t).mem := by
  split <;> assumption

/-- A write of the host to a register of an element: what `State.hostWrite` does at the addresses of the elements.  It
has a name so that the distance of the address is an argument. -/
def State.hostElemWrite (s : State) (v : Word) (k : Nat) : State :=
  match s.elemAtDev (k / 0x20) with
  | some (u, e) => (s.writeLocal u e (k % 0x20) v).1
  | none => s

theorem State.hostElemWrite_wf {v : Word} {k : Nat} (h : Memory.wf s.mem) : Memory.wf (s.hostElemWrite v k).mem := by
  unfold State.hostElemWrite
  split
  · simp [h]
  · exact h

@[simp] theorem State.hostWrite_wf {n : Nat} {v : Word} (h : Memory.wf s.mem) : Memory.wf (s.hostWrite n v).mem := by
  unfold State.hostWrite
  exact wf_ite (wf_ite h (by simp [h])) <| wf_ite (State.writeReg_wf h) <| wf_ite h <| wf_ite (hostElemWrite_wf h) <|
    wf_ite h <| wf_ite h <| wf_ite h <| wf_ite h h

@[simp] theorem State.hostReg_mem (s : State) (n : Nat) : (s.hostReg n).1.mem = s.mem := by
  simp only [State.hostReg]
  repeat' split
  all_goals simp

@[simp] theorem State.hostRead_mem (s : State) (n : Nat) : (s.hostRead n).1.mem = s.mem := by
  simp only [State.hostRead]
  repeat' split
  all_goals simp

@[simp] theorem State.whenReached_wf {t : State} (h : Memory.wf s.mem) (ht : Memory.wf t.mem) :
    AnswerWf (s.whenReached t) := by
  simp [State.whenReached, h, ht]

@[simp] theorem execBreakpointResume_wf {u e : Nat} (h : Memory.wf s.mem) : AnswerWf (execBreakpointResume u e s) := by
  simp [execBreakpointResume, h]

@[simp] theorem execGateWrite_wf {quarter : Nat} {v : Word} (h : Memory.wf s.mem) :
    AnswerWf (execGateWrite quarter v s) := by
  simp [execGateWrite, h]

@[simp] theorem execRclq_wf {v : Word} (h : Memory.wf s.mem) : AnswerWf (execRclq v s) := by simp [execRclq, h]

@[simp] theorem execSwpcWrite_wf {v : Word} (h : Memory.wf s.mem) : AnswerWf (execSwpcWrite v s) := by
  simp [execSwpcWrite, h]

@[simp] theorem execBwldWrite_wf {quarter : Nat} {v : Word} (h : Memory.wf s.mem) :
    AnswerWf (execBwldWrite quarter v s) := by
  simp [execBwldWrite, h]

@[simp] theorem execFresRetry_wf {serial : Nat} (h : Memory.wf s.mem) : AnswerWf (execFresRetry serial s) := by
  simp [execFresRetry, h]

@[simp] theorem execFresUnresolvable_wf {serial : Nat} (h : Memory.wf s.mem) :
    AnswerWf (execFresUnresolvable serial s) := by
  simp [execFresUnresolvable, h]

@[simp] theorem execHostTlbi_wf {v : Word} (h : Memory.wf s.mem) : AnswerWf (execHostTlbi v s) := by
  simp [execHostTlbi, h]

@[simp] theorem execTlbiComplete_wf {id : Nat} (h : Memory.wf s.mem) : AnswerWf (execTlbiComplete id s) := by
  simp [execTlbiComplete, h]

@[simp] theorem execSctlFreeze_wf {v : Word} (h : Memory.wf s.mem) : AnswerWf (execSctlFreeze v s) := by
  simp [execSctlFreeze, h]

@[simp] theorem execSctlThaw_wf {v : Word} (h : Memory.wf s.mem) : AnswerWf (execSctlThaw v s) := by
  simp [execSctlThaw, h]

@[simp] theorem execSctlMove_wf {v : Word} (h : Memory.wf s.mem) : AnswerWf (execSctlMove v s) := by
  simp [execSctlMove, h]

@[simp] theorem execTranslationStoreWrite_wf {q addr : Nat} {v : Word} (h : Memory.wf s.mem) :
    AnswerWf (execTranslationStoreWrite q addr v s) := State.whenReached_wf h (State.hostWrite_wf h)

@[simp] theorem execLogdRead_wf (h : Memory.wf s.mem) : AnswerWf (execLogdRead s) := by simp [execLogdRead, h]

@[simp] theorem execHrefRead_wf (h : Memory.wf s.mem) : AnswerWf (execHrefRead s) := by simp [execHrefRead, h]

@[simp] theorem execFdropRead_wf (h : Memory.wf s.mem) : AnswerWf (execFdropRead s) := by simp [execFdropRead, h]

@[simp] theorem execRegisterWrite_wf {n : Nat} {v : Word} (h : Memory.wf s.mem) :
    AnswerWf (execRegisterWrite n v s) := by
  simp [execRegisterWrite, h]

@[simp] theorem execSoctlWrite_wf {port : Nat} {v : Word} (h : Memory.wf s.mem) :
    AnswerWf (execSoctlWrite port v s) := by
  simp [execSoctlWrite, h]

@[simp] theorem execAttestationReport_wf (h : Memory.wf s.mem) : AnswerWf (execAttestationReport s) := by
  unfold execAttestationReport
  split <;> simp [h]

@[simp] theorem execBootc_wf {v : Word} (h : Memory.wf s.mem) : AnswerWf (execBootc v s) := by simp [execBootc, h]

/-! ## Beats of class 7 -/

@[simp] theorem sysResult_wf {bt : Beat} {c : Carry} {d : Dst} {v : Word} {tag : BitVec 3} {fl : Flags}
    (h : Memory.wf s.mem) : (sysResult s bt c d v tag fl).Wf := by
  simp [sysResult, h]

@[simp] theorem brkBeat_wf {bt : Beat} {c : Carry} (h : Memory.wf s.mem) : (brkBeat s bt c).Wf := by
  unfold brkBeat
  repeat' split
  all_goals simp [h]

@[simp] theorem frzBeat_wf {d : Dst} {bt : Beat} {c : Carry} (h : Memory.wf s.mem) : (frzBeat d s bt c).Wf := by
  simp only [frzBeat]
  split
  all_goals
    next ht =>
    have hm := wf_of_eq ht (by simp [h])
    simp [hm]

@[simp] theorem thawBeat_wf {d : Dst} {bt : Beat} {c : Carry} (h : Memory.wf s.mem) : (thawBeat d s bt c).Wf := by
  simp only [thawBeat]
  split
  all_goals
    next ht =>
    have hm := wf_of_eq ht (by simp [h])
    simp [hm]

@[simp] theorem State.askSnap_mem (s : State) (u : Nat) : (s.askSnap u).1.mem = s.mem := by
  unfold State.askSnap
  repeat' split
  all_goals simp

@[simp] theorem tlbiBeat_wf {d : Dst} {bt : Beat} {c : Carry} (h : Memory.wf s.mem) : (tlbiBeat d s bt c).Wf := by
  unfold tlbiBeat
  repeat' split
  all_goals simp [h]

@[simp] theorem cfgwBeat_wf {d : Dst} {bt : Beat} {c : Carry} (h : Memory.wf s.mem) : (cfgwBeat d s bt c).Wf := by
  simp only [cfgwBeat]
  split <;> simp [h]

@[simp] theorem cancOp_mem (s : State) (x : UnitSt) (a : Nat) : (cancOp s x a).1.mem = s.mem := by
  simp only [cancOp]
  repeat' split
  all_goals simp

@[simp] theorem countResult_wf {bt : Beat} {c : Carry} {d : Dst} {n : Option Nat} (h : Memory.wf s.mem) :
    (countResult s bt c d n).Wf := by
  simp [countResult, h]

@[simp] theorem execPeekContinueIdleWake_wf {u e : Nat} (h : Memory.wf s.mem) :
    AnswerWf (execPeekContinueIdleWake u e s) := by
  unfold execPeekContinueIdleWake
  repeat' split
  all_goals simp [h]

end Sys2Proof.Machine
end

section
/-! PROOFS. What happens in sections and to jobs and canonical memory. -/

namespace Sys2Proof.Machine

variable {s : State}

/-! ## Between firings -/

@[simp] theorem State.land_mem (s : State) (u : Nat) (x : UnitSt) (ep : Endpoint) (t : Token) :
    (s.land u x ep t).mem = s.mem := by
  unfold State.land
  split <;> simp

@[simp] theorem State.arriveRoute_mem (s : State) (u i : Nat) : (s.arriveRoute u i).mem = s.mem := by
  unfold State.arriveRoute
  repeat' split
  all_goals simp

@[simp] theorem State.emitTurn_mem (s : State) (u i : Nat) : (s.emitTurn u i).mem = s.mem := by
  simp only [State.emitTurn]
  repeat' split
  all_goals simp

@[simp] theorem inSection_wf {u : Nat} {f : UnitSt → State} (h : Memory.wf s.mem) (hf : ∀ x, Memory.wf (f x).mem) :
    AnswerWf (inSection s u f) := by
  unfold inSection
  split <;> simp [h, hf]

/-- The condition stands for one as it is written: `c x` keeps its literals folded. -/
theorem inSection_ite_wf {u : Nat} {c : UnitSt → Prop} [DecidablePred c] {f : UnitSt → State} (h : Memory.wf s.mem)
    (hf : ∀ x, (f x).mem = s.mem) : AnswerWf (inSection s u fun x => if c x then f x else s) :=
  inSection_wf h fun x => by
    split
    · exact hf x ▸ h
    · exact h

@[simp] theorem execChannelTokenArrival_wf {u route : Nat} (h : Memory.wf s.mem) :
    AnswerWf (execChannelTokenArrival u route s) := by
  simp [execChannelTokenArrival, h]

@[simp] theorem execCornerTurnEmit_wf {u route : Nat} (h : Memory.wf s.mem) :
    AnswerWf (execCornerTurnEmit u route s) := by
  simp [execCornerTurnEmit, h]

@[simp] theorem execPulseArrival_wf {u route : Nat} (h : Memory.wf s.mem) : AnswerWf (execPulseArrival u route s) := by
  refine inSection_wf h fun x => ?_
  dsimp only
  repeat' split
  all_goals simp [h]

@[simp] theorem execConfigTokenConsume_wf {u e ch : Nat} (h : Memory.wf s.mem) :
    AnswerWf (execConfigTokenConsume u e ch s) := by
  refine inSection_wf h fun x => ?_
  dsimp only
  split <;> simp [h]

@[simp] theorem execLateResultWrite_wf {u e idx : Nat} (h : Memory.wf s.mem) :
    AnswerWf (execLateResultWrite u e idx s) := by
  refine inSection_wf h fun x => ?_
  dsimp only
  split <;> simp [h]

@[simp] theorem execFeWaitComplete_wf {u tile idx : Nat} (h : Memory.wf s.mem) :
    AnswerWf (execFeWaitComplete u tile idx s) := by
  refine inSection_wf h fun x => ?_
  dsimp only
  split <;> simp [h]

@[simp] theorem exactJoin_mem (s : State) (b u e at_ : Nat) : (exactJoin s b u e at_).mem = s.mem := rfl

@[simp] theorem execStageBResult_wf {u e idx : Nat} (h : Memory.wf s.mem) : AnswerWf (execStageBResult u e idx s) := by
  refine inSection_wf h fun x => ?_
  dsimp only
  repeat' split
  all_goals simp [h]

@[simp] theorem execExactUnitResult_wf {block : Nat} (h : Memory.wf s.mem) :
    AnswerWf (execExactUnitResult block s) := by
  simp only [execExactUnitResult]
  repeat' split
  all_goals simp [h]

@[simp] theorem execPredicateResultSend_wf {u e : Nat} (h : Memory.wf s.mem) :
    AnswerWf (execPredicateResultSend u e s) := by
  refine inSection_wf h fun x => ?_
  dsimp only
  repeat' split
  all_goals simp [h]

@[simp] theorem execSystolicTokenProcess_wf {u e : Nat} (h : Memory.wf s.mem) :
    AnswerWf (execSystolicTokenProcess u e s) := by
  refine inSection_wf h fun x => ?_
  dsimp only
  repeat' split
  all_goals simp [h]

@[simp] theorem execSouthEdgeAdd_wf {u e : Nat} (h : Memory.wf s.mem) : AnswerWf (execSouthEdgeAdd u e s) := by
  refine inSection_wf h fun x => ?_
  dsimp only
  split
  · exact h
  · split
    · exact h
    · exact h

@[simp] theorem execStarveBitSet_wf {u e slot : Nat} (h : Memory.wf s.mem) :
    AnswerWf (execStarveBitSet u e slot s) := by
  refine inSection_wf h fun x => ?_
  dsimp only
  split <;> simp [h]

@[simp] theorem execElementStatusIdleSet_wf {u e : Nat} (h : Memory.wf s.mem) :
    AnswerWf (execElementStatusIdleSet u e s) :=
  inSection_ite_wf (c := fun x => max (x.elem e).lastFire x.armedAt + 2 ^ 24 ≤ s.clk.cyc)
    (f := fun x => s.setUnit u (x.setElem e { x.elem e with idleBit := true })) h fun _ => rfl

@[simp] theorem execGateStateChange_wf {u e : Nat} (h : Memory.wf s.mem) : AnswerWf (execGateStateChange u e s) := by
  simp [execGateStateChange, h]

@[simp] theorem execWatchdogExpiry_wf {u : Nat} (h : Memory.wf s.mem) : AnswerWf (execWatchdogExpiry u s) := by
  simp [execWatchdogExpiry, h]

@[simp] theorem execSlotStreamRequest_wf {u n : Nat} (h : Memory.wf s.mem) :
    AnswerWf (execSlotStreamRequest u n s) := by
  refine inSection_wf h fun x => ?_
  dsimp only
  split <;> simp [h]

/-! ## Drain and snapshots -/

@[simp] theorem State.beginDrain_mem (s : State) (u : Nat) : (s.beginDrain u).mem = s.mem := rfl

@[simp] theorem execTileCountExpiry_wf {u : Nat} (h : Memory.wf s.mem) : AnswerWf (execTileCountExpiry u s) := by
  unfold execTileCountExpiry
  repeat' split
  all_goals simp [h]

@[simp] theorem State.withdrawWaiting_mem (s : State) (u e : Nat) : (s.withdrawWaiting u e).mem = s.mem := rfl

@[simp] theorem execElementDrainPass_wf {u e : Nat} (h : Memory.wf s.mem) : AnswerWf (execElementDrainPass u e s) := by
  refine inSection_wf h fun x => ?_
  dsimp only
  repeat' split
  all_goals simp [h]

@[simp] theorem execCycleDrainInject_wf {u e ch : Nat} (h : Memory.wf s.mem) :
    AnswerWf (execCycleDrainInject u e ch s) := by
  refine inSection_wf h fun x => ?_
  dsimp only
  repeat' split
  all_goals simp [h]

@[simp] theorem execPortDrainPass_wf {u n : Nat} (h : Memory.wf s.mem) : AnswerWf (execPortDrainPass u n s) := by
  simp [execPortDrainPass, h]

@[simp] theorem State.takeSnapshot_wf {u serial : Nat} (h : Memory.wf s.mem) :
    Memory.wf (s.takeSnapshot u serial).mem := by
  unfold State.takeSnapshot
  split <;> simp [h]

@[simp] theorem State.failSnapshot_wf {u man : Nat} (h : Memory.wf s.mem) : Memory.wf (s.failSnapshot u man).mem := by
  unfold State.failSnapshot
  split <;> simp [h]

@[simp] theorem State.endSnapshot_wf {u : Nat} (h : Memory.wf s.mem) : Memory.wf (s.endSnapshot u).mem := by
  unfold State.endSnapshot
  split <;> simp [h]

@[simp] theorem State.finishUnit_mem (s : State) (u : Nat) : (s.finishUnit u).mem = s.mem := by
  unfold State.finishUnit
  split <;> simp

@[simp] theorem execUnitEnd_wf {u : Nat} (h : Memory.wf s.mem) : AnswerWf (execUnitEnd u s) := by
  refine inSection_wf h fun x => ?_
  dsimp only
  repeat' split
  all_goals simp [h]

/-! ## Graph walks and jobs -/

@[simp] theorem State.setWalk_mem (s : State) (j : Nat) (w : Walk) : (s.setWalk j w).mem = s.mem := rfl

@[simp] theorem State.badNode_wf {j : Nat} {w : Walk} (h : Memory.wf s.mem) : Memory.wf (s.badNode j w).mem := by
  simp [State.badNode, h]

@[simp] theorem State.tookNode_mem (s : State) (q j : Nat) : (s.tookNode q j).mem = s.mem := rfl

@[simp] theorem State.withNode_wf {j kind : Nat} {f : Job → Walk → Image → Graph → List Byte → State} (h : Memory.wf s.mem)
    (hf : ∀ x w im g b, Memory.wf (f x w im g b).mem) : AnswerWf (s.withNode j kind f) := by
  unfold State.withNode
  repeat' split
  all_goals simp [h, hf]

@[simp] theorem State.addUnit_mem (s : State) (j : Nat) (x : Job) (g : Graph) (c : SecCfg) (l sec tiles : Nat)
    (args : List Word) (snap : Bool) (r : Nat) : (s.addUnit j x g c l sec tiles args snap r).mem = s.mem := rfl

@[simp] theorem execNodeArm_wf {job : Nat} (h : Memory.wf s.mem) : AnswerWf (execNodeArm job s) := by
  refine State.withNode_wf h fun x w im g b => ?_
  dsimp only
  split
  · exact State.badNode_wf h
  · refine foldl_wf (fun t r ht => ?_) _ ?_
    · simpa using ht
    · simpa using h

@[simp] theorem execNodeWait_wf {job : Nat} (h : Memory.wf s.mem) : AnswerWf (execNodeWait job s) := by
  simp [execNodeWait, h]

@[simp] theorem execNodeWaitRelease_wf {job : Nat} (h : Memory.wf s.mem) : AnswerWf (execNodeWaitRelease job s) := by
  simp [execNodeWaitRelease, h]

@[simp] theorem execNodeSignal_wf {job : Nat} (h : Memory.wf s.mem) : AnswerWf (execNodeSignal job s) := by
  simp [execNodeSignal, h]

@[simp] theorem execNodeLoop_wf {job : Nat} (h : Memory.wf s.mem) : AnswerWf (execNodeLoop job s) := by
  simp [execNodeLoop, h]

@[simp] theorem execNodeEnd_wf {job : Nat} (h : Memory.wf s.mem) : AnswerWf (execNodeEnd job s) := by
  simp [execNodeEnd, h]

@[simp] theorem execLaunchComplete_wf {l : Nat} (h : Memory.wf s.mem) : AnswerWf (execLaunchComplete l s) := by
  unfold execLaunchComplete
  repeat' split
  all_goals simp [h]

@[simp] theorem execGraphComplete_wf {job : Nat} (h : Memory.wf s.mem) : AnswerWf (execGraphComplete job s) := by
  simp only [execGraphComplete]
  repeat' split
  all_goals simp [h]

@[simp] theorem execPhaseComplete_wf {job : Nat} (h : Memory.wf s.mem) : AnswerWf (execPhaseComplete job s) := by
  unfold execPhaseComplete
  repeat' split
  all_goals simp [h]

@[simp] theorem State.releaseJob_mem (s : State) (j : Nat) : (s.releaseJob j).mem = s.mem := by simp [State.releaseJob]

@[simp] theorem execJobComplete_wf {job : Nat} (h : Memory.wf s.mem) : AnswerWf (execJobComplete job s) := by
  unfold execJobComplete
  repeat' split
  all_goals simp [h]

@[simp] theorem State.admitHeld_mem (s : State) (u : Nat) : (s.admitHeld u).mem = s.mem := by
  unfold State.admitHeld
  split <;> simp

@[simp] theorem execUnitPlacement_wf {u : Nat} (h : Memory.wf s.mem) : AnswerWf (execUnitPlacement u s) := by
  unfold execUnitPlacement
  repeat' split
  all_goals simp [h]

@[simp] theorem execSectionRotation_wf {u : Nat} (h : Memory.wf s.mem) : AnswerWf (execSectionRotation u s) := by
  unfold execSectionRotation
  repeat' split
  all_goals simp [h]

/-! ## The arbiter -/

@[simp] theorem State.markSince_mem (s : State) : s.markSince.mem = s.mem := rfl

end Sys2Proof.Machine
end

section
/-! PROOFS. Sweep memory: visits, ports, step boundaries and canonical memory. -/

namespace Sys2Proof.Machine

variable {s : State}

/-! ## A visit of the cursor -/

@[simp] theorem State.reseal_wf {key : Option Nat} {row : Nat} (h : Memory.wf s.mem) :
    Memory.wf (s.reseal key row).mem := by
  simp only [State.reseal]
  split
  · exact h
  · apply Memory.wf_foldl _ _ h
    exact fun m i hm => Memory.wf_writeBytes hm _ _

@[simp] theorem State.writeWord_wf {key : Option Nat} {pa : Nat} {w : Word} (h : Memory.wf s.mem) :
    Memory.wf (s.writeWord key pa w).mem := by
  simp [State.writeWord, h]

@[simp] theorem State.writeWords_wf {key : Option Nat} {pa : Nat} {ws : List Word} (h : Memory.wf s.mem) :
    Memory.wf (s.writeWords key pa ws).mem := by
  simp +contextual [State.writeWords, h, foldl_wf]

@[simp] theorem State.mergeLines_wf {c : SweepClass} {b : Nat} (h : Memory.wf s.mem) :
    Memory.wf (s.mergeLines c b).mem := by
  simp +contextual [State.mergeLines, h, foldl_wf]

@[simp] theorem State.deliverRider_mem (s : State) (id : Nat) (r : Rider) (ts : List Token) :
    (s.deliverRider id r ts).1.mem = s.mem := by
  unfold State.deliverRider
  repeat' split
  all_goals simp

@[simp] theorem State.serveWindows_wf {u : Nat} (h : Memory.wf s.mem) : Memory.wf (s.serveWindows u).mem := by
  simp only [State.serveWindows]
  repeat' split
  all_goals simp +contextual [h, foldl_wf]

@[simp] theorem rdTile_mem (s : State) (r : Rider) (line : Nat) (ws : List Word) :
    (rdTile s r line ws).mem = s.mem := rfl

@[simp] theorem rdSlot_mem (s : State) (r : Rider) (line : Nat) (ws : List Word) :
    (rdSlot s r line ws).mem = s.mem := by
  unfold rdSlot
  split <;> simp

@[simp] theorem riderLine_wf {id : Nat} {r : Rider} {line pa : Nat} (h : Memory.wf s.mem) :
    Memory.wf (riderLine s id r line pa).1.mem := by
  simp only [riderLine]
  repeat' split
  all_goals simp [h]

@[simp] theorem lutAdd_mem (s : State) (r : Rider) (bank : Nat) (sums scales : List Int) :
    (lutAdd s r bank sums scales).1.mem = s.mem := by
  refine foldl_keeps (fun a : State × Rider => a.1.mem) (fun a o => ?_) _ _
  dsimp only
  split <;> rfl

@[simp] theorem lutRow_mem (s : State) (r : Rider) (line pa : Nat) : (lutRow s r line pa).1.mem = s.mem := by
  simp only [lutRow]
  split
  · refine foldl_keeps (fun a : State × Rider => a.1.mem) (fun a k => ?_) _ _
    split <;> simp
  · split <;> simp

@[simp] theorem lutDeliver_mem (s : State) (r : Rider) : (lutDeliver s r).1.mem = s.mem := by
  refine foldl_keeps (fun a : State × List Token => a.1.mem) (fun a k => ?_) _ _
  rfl

@[simp] theorem riderBand_wf {id : Nat} {r : Rider} {b : Nat} (h : Memory.wf s.mem) :
    Memory.wf (riderBand s id r b).mem := by
  unfold riderBand
  dsimp only
  split
  · exact foldl_inv (P := fun a : State × Rider => Memory.wf a.1.mem = true) (fun a l ha => by simp [ha]) _ h
  · exact foldl_inv (P := fun a : State × Rider => Memory.wf a.1.mem = true) (fun a l ha => riderLine_wf ha) _ h

@[simp] theorem State.itemDone_mem (s : State) (rid : Nat) (f : Rider → Rider) : (s.itemDone rid f).mem = s.mem := rfl

@[simp] theorem State.answerPoison_mem (s : State) (id : Nat) (r : Rider) (cause n : Nat) :
    (s.answerPoison id r cause n).mem = s.mem := by
  simp [State.answerPoison]

@[simp] theorem State.readTrap_wf {i : Item} {e slot cause : Nat} (h : Memory.wf s.mem) :
    Memory.wf (s.readTrap i e slot cause).mem := by
  simp [State.readTrap, h]

@[simp] theorem State.loseLates_mem (s : State) (u e : Nat) (gone : List Nat) :
    (s.loseLates u e gone).mem = s.mem := rfl

@[simp] theorem State.fillFails_wf {id : Nat} {i : Item} {cause : Nat} (h : Memory.wf s.mem) :
    Memory.wf (s.fillFails id i cause).mem := by
  simp only [State.fillFails]
  repeat' split
  all_goals simp +contextual [h, foldl_wf]

@[simp] theorem State.itemTrap_wf {id : Nat} {i : Item} {cause : Nat} (h : Memory.wf s.mem) :
    Memory.wf (s.itemTrap id i cause).mem := by
  unfold State.itemTrap
  split <;> simp [h]

theorem Memory.wfFrom_filter {lo : Nat} {m : Memory} (h : wfFrom lo m = true) (f : Host.Cell → Bool) :
    wfFrom lo (m.filter f) = true := by
  induction m generalizing lo with
  | nil => rfl
  | cons p m ih =>
    obtain ⟨k, v⟩ := p
    simp only [wfFrom, Bool.and_eq_true, decide_eq_true_eq] at h
    obtain ⟨⟨hk, hv⟩, hm⟩ := h
    rw [List.filter_cons]
    split
    · simp [wfFrom, hk, hv, ih hm]
    · exact wfFrom_mono (ih hm) (by omega)

/-- Bytes that become zero leave the list, so what is left is a part of it. -/
@[simp] theorem Memory.wf_filter {m : Memory} (h : Memory.wf m) (f : Host.Cell → Bool) : Memory.wf (m.filter f) :=
  Memory.wfFrom_filter h f

@[simp] theorem State.zeroRange_wf {key : Option Nat} {pa n : Nat} (h : Memory.wf s.mem) :
    Memory.wf (s.zeroRange key pa n).mem :=
  Memory.wf_filter h _

@[simp] theorem State.putRange_wf {i : Item} {n : Nat} (h : Memory.wf s.mem) : Memory.wf (s.putRange i n).mem := by
  simp only [State.putRange]
  repeat' split
  all_goals simp +contextual [h, foldl_wf]

@[simp] theorem State.getRange_mem (s : State) (i : Item) (n off : Nat) : (s.getRange i n off).mem = s.mem := by
  simp only [State.getRange]
  split <;> simp

@[simp] theorem State.loseWrite_wf {id : Nat} {i : Item} (h : Memory.wf s.mem) : Memory.wf (s.loseWrite id i).mem := by
  unfold State.loseWrite
  split <;> simp [h]

@[simp] theorem State.serveItem_wf {id : Nat} {i : Item} (h : Memory.wf s.mem) : Memory.wf (s.serveItem id i).mem := by
  simp only [State.serveItem]
  repeat' split
  all_goals simp +contextual [h, foldl_wf]

@[simp] theorem State.visitBand_wf {c : SweepClass} {step : Nat} (h : Memory.wf s.mem) :
    Memory.wf (s.visitBand c step).mem := by
  refine foldl_wf (fun t x ht => ?_) _ (State.mergeLines_wf h)
  split
  · split <;> simp [ht]
  · split <;> simp [ht]

/-! ## At a port -/

@[simp] theorem execRiderPacketCheck_wf {u n : Nat} (h : Memory.wf s.mem) : AnswerWf (execRiderPacketCheck u n s) := by
  refine inSection_wf h fun x => ?_
  dsimp only
  repeat' split
  all_goals simp [h]

@[simp] theorem translateRider_wf {id : Nat} {r : Rider} (h : Memory.wf s.mem) :
    Memory.wf (translateRider s id r).mem := by
  unfold translateRider
  split
  · next ht =>
    have hm := mem_of_eq ht (s.spanPages_mem _ _ _ _)
    dsimp only
    split
    · split <;> simp [hm, h]
    · simp [hm, h]
  · next ht =>
    have hm := mem_of_eq ht (s.spanPages_mem _ _ _ _)
    repeat' split
    all_goals simp [hm, h]
  · next ht => simp [mem_of_eq ht (s.spanPages_mem _ _ _ _), h]
  · next ht => exact mem_of_eq ht (s.spanPages_mem _ _ _ _) ▸ h

@[simp] theorem execRiderTranslate_wf {id : Nat} (h : Memory.wf s.mem) : AnswerWf (execRiderTranslate id s) := by
  unfold execRiderTranslate
  repeat' split
  all_goals simp [h]

@[simp] theorem acceptItem_mem (s : State) (id : Nat) (i : Item) (p : Page) (va : Nat) :
    (acceptItem s id i p va).mem = s.mem := rfl

@[simp] theorem translateMan_mem (s : State) (id : Nat) (i : Item) : (translateMan s id i).mem = s.mem := by
  unfold translateMan
  extract_lets agent write ask
  split
  all_goals
    next ht =>
    have hm := mem_of_eq ht (s.translate_mem _ _ _)
    repeat' split
    all_goals simp [hm]

@[simp] theorem translateItem_wf {id : Nat} {i : Item} (h : Memory.wf s.mem) :
    Memory.wf (translateItem s id i).mem := by
  unfold translateItem
  extract_lets isWb agent ask
  split
  all_goals
    next ht =>
    have hm := mem_of_eq ht (s.translate_mem _ _ _)
    repeat' split
    all_goals simp [hm, h]

@[simp] theorem execTranslationWalk_wf {id : Nat} (h : Memory.wf s.mem) : AnswerWf (execTranslationWalk id s) := by
  unfold execTranslationWalk
  repeat' split
  all_goals simp [h]

@[simp] theorem takeHead_mem (s : State) (r : Rider) : (takeHead s r).mem = s.mem := rfl

@[simp] theorem acceptFrom_wf {id : Nat} {r : Rider} {k : Token} (h : Memory.wf s.mem) :
    Memory.wf (acceptFrom s id r k).mem := by
  unfold acceptFrom
  extract_lets next coord va hold
  have hnext : ∀ t f, (next t f).mem = t.mem := fun t f => by simp [next]
  have hhold : ∀ t cause detail pa, t.mem = s.mem → Memory.wf (hold t cause detail pa).mem := fun t cause detail pa ht => by
    unfold hold
    split <;> simp [ht, h]
  clear_value next hold
  split
  · simp [hnext, h]
  · split
    · simp [h]
    · split
      · exact h
      · split
        · simp [hnext, h]
        · split
          · next ht => simp [mem_of_eq ht (s.translate_mem _ _ _), h]
          · next ht =>
            have hm := mem_of_eq ht (s.translate_mem _ _ _)
            dsimp only
            split <;> simp [hnext, hhold, hm, h]
          · next ht =>
            have hm := mem_of_eq ht (s.translate_mem _ _ _)
            extract_lets t pa f
            have ht : t.mem = s.mem := by simp [t, hm]
            clear_value t f
            repeat' split
            all_goals simp [hnext, hhold, ht, h]

@[simp] theorem execItemAccept_wf {u n : Nat} (h : Memory.wf s.mem) : AnswerWf (execItemAccept u n s) := by
  refine inSection_wf h fun x => ?_
  dsimp only
  repeat' split
  all_goals simp [h]

@[simp] theorem execCarriageClose_wf {id : Nat} (h : Memory.wf s.mem) : AnswerWf (execCarriageClose id s) := by
  unfold execCarriageClose
  split
  · exact h
  · refine inSection_wf h fun x => ?_
    split <;> simp [h]

@[simp] theorem endRide_mem (s : State) (id : Nat) (r : Rider) : (endRide s id r).mem = s.mem := by
  unfold endRide
  split <;> simp

@[simp] theorem execRiderAlight_wf {id : Nat} (h : Memory.wf s.mem) : AnswerWf (execRiderAlight id s) := by
  unfold execRiderAlight
  repeat' split
  all_goals simp [h]

@[simp] theorem execBufferDeliveryComplete_wf {u buf : Nat} (h : Memory.wf s.mem) :
    AnswerWf (execBufferDeliveryComplete u buf s) := by
  simp [execBufferDeliveryComplete, h]

/-! ## A step boundary -/

@[simp] theorem State.turnBudget_mem (s : State) (n : Nat) : (s.turnBudget n).mem = s.mem := by
  unfold State.turnBudget
  exact (mem_ite _ _ _).trans (by rw [State.setReg_mem, State.setBalance_mem, ite_self])

@[simp] theorem State.turnWindow_mem (s : State) (w : Nat) : (s.turnWindow w).mem = s.mem := by simp [State.turnWindow]

@[simp] theorem State.boardRider_mem (s : State) (c : SweepClass) (step q id : Nat) (r : Rider) :
    (s.boardRider c step q id r).mem = s.mem := by
  simp [State.boardRider]

@[simp] theorem State.boardAll_wf {c : SweepClass} {step : Nat} {l : List (Nat × Rider)} {a : State × Nat × Option Nat}
    (h : Memory.wf a.1.mem) : Memory.wf (State.boardAll c step l a).1.mem := by
  induction l generalizing a with
  | nil => exact h
  | cons p l ih =>
    unfold State.boardAll
    split
    · exact ih (State.refuseRider_wf h)
    · exact ih h
    · exact ih (by simpa using h)

@[simp] theorem State.writeTable_mem (s : State) (r : Rider) (rings : List Nat) :
    (s.writeTable r rings).mem = s.mem := rfl

@[simp] theorem State.postRows_wf {c : SweepClass} {l : List (Nat × Rider)} {busy : List Nat} {a : State × Nat}
    (h : Memory.wf a.1.mem) : Memory.wf (State.postRows c l busy a).1.mem := by
  induction l generalizing busy a with
  | nil => exact h
  | cons p l ih =>
    unfold State.postRows
    dsimp only
    split
    · exact ih (State.refuseRider_wf h)
    · split
      · exact ih h
      · exact ih (by simpa using h)

@[simp] theorem State.postWrite_wf {i : Item} (h : Memory.wf s.mem) : Memory.wf (s.postWrite i).mem := by
  unfold State.postWrite
  split <;> simp [h]

@[simp] theorem State.stampItems_wf {c : SweepClass} {step q : Nat} (h : Memory.wf s.mem) :
    Memory.wf (s.stampItems c step q).mem := by
  simp +contextual [State.stampItems, h, foldl_wf]

@[simp] theorem State.ridqAnswer_mem (s : State) (c : SweepClass) (k : Ridq) : (s.ridqAnswer c k).mem = s.mem := by
  unfold State.ridqAnswer
  split <;> simp

@[simp] theorem State.answerRidq_mem (s : State) (c : SweepClass) : (s.answerRidq c).mem = s.mem := by
  simp [State.answerRidq]

@[simp] theorem State.takeLine_mem (s : State) (id : Nat) (r : Rider) (who : Nat) :
    (s.takeLine id r who).mem = s.mem := by
  simp [State.takeLine]

@[simp] theorem State.takeWindow_wf {id : Nat} {r : Rider} (h : Memory.wf s.mem) :
    Memory.wf (s.takeWindow id r).mem := by
  simp [State.takeWindow, h]

@[simp] theorem State.leaveCar_wf {id : Nat} {r : Rider} (h : Memory.wf s.mem) : Memory.wf (s.leaveCar id r).mem := by
  unfold State.leaveCar
  repeat' split
  all_goals simp [h]

@[simp] theorem State.endStep_wf {c : SweepClass} (h : Memory.wf s.mem) : Memory.wf (s.endStep c).mem := by
  simp +contextual [State.endStep, h, foldl_wf]

@[simp] theorem State.chargeCarriages_mem (s : State) (c : SweepClass) : (s.chargeCarriages c).mem = s.mem := by
  simp [State.chargeCarriages]

@[simp] theorem State.dropLost_mem (s : State) :
    s.dropLost.mem = s.mem := foldl_mem (fun t k => t.setRing_mem k false) _ s

@[simp] theorem State.sweepStep_wf {c : SweepClass} {step : Nat} (h : Memory.wf s.mem) :
    Memory.wf (s.sweepStep c step).mem := by
  unfold State.sweepStep
  split
  · simp [h]
  · extract_lets b _ t rows p busy t' _
    have hb : Memory.wf b.1.mem := by
      unfold b
      split <;> simp [h]
    have ht : Memory.wf t.mem := by
      unfold t
      split <;> simp [hb]
    have hp : Memory.wf p.1.mem := by
      unfold p
      split
      · exact ht
      · exact State.postRows_wf ht
    have ht' : Memory.wf t'.mem := by simp [t', hp]
    simp [ht']

@[simp] theorem State.joinRing_mem (s : State) (c : SweepClass) : (s.joinRing c).mem = s.mem := by
  unfold State.joinRing
  split <;> simp

@[simp] theorem State.resumeClass_mem (s : State) (c : SweepClass) : (s.resumeClass c).mem = s.mem := rfl

@[simp] theorem execStepBoundary_wf {c : SweepClass} (h : Memory.wf s.mem) : AnswerWf (execStepBoundary c s) := by
  simp only [execStepBoundary]
  repeat' split
  all_goals simp [h]

@[simp] theorem execBudgetWindowBoundary_wf (h : Memory.wf s.mem) : AnswerWf (execBudgetWindowBoundary s) := by
  unfold execBudgetWindowBoundary
  split
  · exact execStepBoundary_wf h
  · exact h

@[simp] theorem execClassStop_wf {c : SweepClass} (h : Memory.wf s.mem) : AnswerWf (execClassStop c s) := by
  unfold execClassStop
  split <;> simp [h]

@[simp] theorem execIdlePause_wf {c : SweepClass} (h : Memory.wf s.mem) : AnswerWf (execIdlePause c s) := by
  simp only [execIdlePause]
  split <;> simp [h]

@[simp] theorem execClassResume_wf {c : SweepClass} (h : Memory.wf s.mem) : AnswerWf (execClassResume c s) := by
  simp [execClassResume, h]

@[simp] theorem execRingClassChange_wf {ring : Nat} (h : Memory.wf s.mem) : AnswerWf (execRingClassChange ring s) := by
  unfold execRingClassChange
  split <;> simp [h]

end Sys2Proof.Machine
end

section
/-! PROOFS. Copies, fills, other packages, links, the loader, host queues and canonical memory. -/

namespace Sys2Proof.Machine

variable {s : State}

/-! ## Copies, DRN and guard poison -/

@[simp] theorem State.draw_mem (s : State) : s.draw.1.mem = s.mem := rfl

@[simp] theorem State.farAnswer_mem (s : State) (entry : Word) (tenant : Nat) (causes : List Nat) :
    (s.farAnswer entry tenant causes).1.mem = s.mem := by
  unfold State.farAnswer
  split <;> simp

@[simp] theorem State.setCopy_mem (s : State) (q : Fin 4) (id : Nat) (c : Copy) : (s.setCopy q id c).mem = s.mem := rfl

@[simp] theorem State.hostPage_mem (s : State) (q : Fin 4) (id : Nat) (c : Copy) (write : Bool) (va : Nat) :
    (s.hostPage q id c write va).1.mem = s.mem := by
  unfold State.hostPage
  split
  · rfl
  · split
    all_goals
      next ht =>
      exact (mem_of_eq ht (s.translate_mem _ _ _) :)

@[simp] theorem State.putSector_mem (s : State) (u : Nat) (w : Word) (off : Nat) (ws : List Word) :
    (s.putSector u w off ws).mem = s.mem := by
  unfold State.putSector
  repeat' split
  all_goals simp

@[simp] theorem State.moveSector_wf {q : Fin 4} {id : Nat} {c : Copy} (h : Memory.wf s.mem) :
    Memory.wf (s.moveSector q id c).1.mem := by
  unfold State.moveSector
  split
  · exact h
  · extract_lets off fault far srcVa dstVa read
    have hr : Memory.wf read.1.mem := by
      unfold read
      split
      · split
        all_goals
          next ht =>
          have hm := mem_of_eq ht (s.hostPage_mem _ _ _ _ _)
          simp [apply_ite Prod.fst, hm, h]
      · split
        · exact h
        · split <;> exact h
    clear_value read
    obtain ⟨t, c, e | ws⟩ := read
    · exact hr
    · replace hr : Memory.wf t.mem := hr
      simp only []
      split
      · split
        · next ht =>
          have hm := mem_of_eq ht (t.hostPage_mem _ _ _ _ _)
          split
          · exact hm ▸ hr
          · apply Memory.wf_foldl
            · exact fun m i hm => Memory.wf_setWord hm _ _
            · exact hm ▸ hr
        · next ht =>
          exact mem_of_eq ht (t.hostPage_mem _ _ _ _ _) ▸ hr
      · split
        · exact hr
        · exact (t.putSector_mem _ _ _ _) ▸ hr

@[simp] theorem State.moveSectors_wf {q : Fin 4} {id n : Nat} {a : State × Copy} (h : Memory.wf a.1.mem) :
    Memory.wf (State.moveSectors q id n a).1.mem := by
  induction n generalizing a with
  | zero => exact h
  | succ n ih =>
    obtain ⟨s, c⟩ := a
    have hm : Memory.wf (s.moveSector q id c).1.mem := State.moveSector_wf h
    unfold State.moveSectors
    split
    · exact h
    · split
      · next ht => rw [ht] at hm; exact hm
      · next ht => rw [ht] at hm; exact ih hm

@[simp] theorem State.endCopy_mem (s : State) (q : Fin 4) (id : Nat) (c : Copy) (status cause : Nat) :
    (s.endCopy q id c status cause).mem = s.mem := by
  unfold State.endCopy
  split <;> simp

@[simp] theorem execCopyStart_wf {quarter : Nat} (h : Memory.wf s.mem) : AnswerWf (execCopyStart quarter s) := by
  simp only [execCopyStart]
  repeat' split
  all_goals simp [h]

@[simp] theorem execCopyComplete_wf {quarter : Nat} (h : Memory.wf s.mem) : AnswerWf (execCopyComplete quarter s) := by
  unfold execCopyComplete
  extract_lets q
  split
  · exact h
  · next id c _ =>
    extract_lets ask stopped d
    split
    · exact h
    · have hask : ∀ a w, (ask a w).1.mem = a.1.mem := fun a w => by
        unfold ask
        split <;> simp
      have hd : Memory.wf d.1.mem := by
        unfold d
        split <;> simp [hask, h]
      clear_value d
      split
      · simp [hd]
      · have hmove : Memory.wf (State.moveSectors q id (c.len / 32 + 1) (d.1, c)).1.mem := State.moveSectors_wf hd
        split
        all_goals
          next ht =>
          have hm := wf_of_eq ht hmove
          simp [hm]

@[simp] theorem execDrnCompletion_wf {u n : Nat} (h : Memory.wf s.mem) : AnswerWf (execDrnCompletion u n s) := by
  simp only [execDrnCompletion]
  repeat' split
  all_goals simp [h]

@[simp] theorem execGuardPoisonReturn_wf {id : Nat} (h : Memory.wf s.mem) : AnswerWf (execGuardPoisonReturn id s) := by
  unfold execGuardPoisonReturn
  repeat' split
  all_goals simp [h]

/-! ## Fills, walks and windows -/

@[simp] theorem afterFill_mem (s : State) (u : Nat) (w : CacheWait) : (afterFill s u w).mem = s.mem := by
  unfold afterFill
  repeat' split
  all_goals simp

@[simp] theorem State.evictLine_mem (s : State) (u : Nat) (c : Cache) (who : CacheWait) (l : Nat × List (Nat × Word)) :
    (s.evictLine u c who l).mem = s.mem := by
  unfold State.evictLine
  split <;> simp

@[simp] theorem execCacheFillReturn_wf {u idx : Nat} (h : Memory.wf s.mem) :
    AnswerWf (execCacheFillReturn u idx s) := by
  refine inSection_wf h fun x => ?_
  dsimp only
  repeat' split
  all_goals simp [h]

@[simp] theorem execCacheWalkEnd_wf {u idx : Nat} (h : Memory.wf s.mem) : AnswerWf (execCacheWalkEnd u idx s) := by
  refine inSection_wf h fun x => ?_
  dsimp only
  split
  · exact h
  · split
    · exact h
    · split <;> simp [h]

@[simp] theorem execWindowExtend_wf {u idx : Nat} (h : Memory.wf s.mem) : AnswerWf (execWindowExtend u idx s) := by
  refine inSection_wf h fun x => ?_
  dsimp only
  split <;> simp [h]

/-! ## Other packages -/

@[simp] theorem State.endRemote_wf {id : Nat} {r : Remote} {cause : Nat} (h : Memory.wf s.mem) :
    Memory.wf (s.endRemote id r cause).mem := by
  simp [State.endRemote, h]

@[simp] theorem State.releaseAfter_wf {n : Nat} {ok : Bool} {l : List Nat} (h : Memory.wf s.mem) :
    Memory.wf (State.releaseAfter n ok l s).mem := by
  induction n generalizing s ok l with
  | zero => exact h
  | succ n ih =>
    unfold State.releaseAfter
    dsimp only
    repeat' split
    · exact h
    · exact h
    · exact ih (foldl_wf (fun t p ht => State.endRemote_wf ht) _ h)

@[simp] theorem State.answered_wf {id : Nat} {r : Remote} {cause : Nat} (h : Memory.wf s.mem) :
    Memory.wf (s.answered id r cause).mem := by
  simp [State.answered, h]

@[simp] theorem execRemoteAcknowledgement_wf {id : Nat} (h : Memory.wf s.mem) :
    AnswerWf (execRemoteAcknowledgement id s) := by
  unfold execRemoteAcknowledgement
  repeat' split
  all_goals simp [h]

@[simp] theorem execRemoteAckTimeout_wf {id : Nat} (h : Memory.wf s.mem) : AnswerWf (execRemoteAckTimeout id s) := by
  unfold execRemoteAckTimeout
  repeat' split
  all_goals simp [h]

theorem arrivalOf_mem {s t : State} {id k : Nat} {message : Bool} {a : Arrival} (ht : arrivalOf s id message = some (t, k, a)) :
    t.mem = s.mem := by
  unfold arrivalOf at ht
  dsimp only at ht
  split at ht
  · split at ht
    · cases ht; rfl
    · cases ht
  · split at ht
    · cases ht
    · cases ht; rfl

@[simp] theorem execRemoteWriteArrival_wf {id : Nat} (h : Memory.wf s.mem) :
    AnswerWf (execRemoteWriteArrival id s) := by
  unfold execRemoteWriteArrival
  split
  · exact h
  · next t k a ht =>
    have hm : Memory.wf t.mem := arrivalOf_mem ht ▸ h
    dsimp only
    repeat' split
    all_goals simp [hm]

@[simp] theorem joinPoint_mem (s : State) (k : Nat) (a : Arrival) (u : Nat) (x : UnitSt) (t : Nat) :
    (joinPoint s k a u x t).mem = s.mem := rfl

@[simp] theorem moveMessage_mem (s : State) (k : Nat) : (moveMessage s k).mem = s.mem := by
  unfold moveMessage
  repeat' split
  all_goals simp

@[simp] theorem moveMessages_mem (s : State) : (moveMessages s).mem = s.mem := by simp [moveMessages]

@[simp] theorem execMessageArrival_wf {id : Nat} (h : Memory.wf s.mem) : AnswerWf (execMessageArrival id s) := by
  unfold execMessageArrival
  split
  · exact h
  · next t k a ht =>
    have hm : Memory.wf t.mem := arrivalOf_mem ht ▸ h
    simp [hm]

@[simp] theorem execMessageHoldExpiry_wf {id : Nat} (h : Memory.wf s.mem) : AnswerWf (execMessageHoldExpiry id s) := by
  simp only [execMessageHoldExpiry]
  split <;> simp [h]

@[simp] theorem endColl_mem (s : State) (id : Nat) (c : Coll) (status : Nat) (fl : Flags) (cause : Nat) :
    (endColl s id c status fl cause).mem = s.mem := by
  simp [endColl]

@[simp] theorem execCollectiveComplete_wf {id : Nat} (h : Memory.wf s.mem) :
    AnswerWf (execCollectiveComplete id s) := by
  simp only [execCollectiveComplete]
  repeat' split
  all_goals simp [h]

@[simp] theorem execCollectiveMemberTimeout_wf {id : Nat} (h : Memory.wf s.mem) :
    AnswerWf (execCollectiveMemberTimeout id s) := by
  unfold execCollectiveMemberTimeout
  repeat' split
  all_goals simp [h]

/-! ## Links and power -/

@[simp] theorem State.flushAll_wf (h : Memory.wf s.mem) : Memory.wf s.flushAll.mem :=
  foldl_wf (fun _ _ ht => foldl_wf (fun _ _ ht' => State.flushRing_wf ht') _ ht) _ h

@[simp] theorem execHostLinkTrain_wf (h : Memory.wf s.mem) : AnswerWf (execHostLinkTrain s) := by
  unfold execHostLinkTrain
  split <;> simp [h]

@[simp] theorem execHostLinkDown_wf (h : Memory.wf s.mem) : AnswerWf (execHostLinkDown s) := by
  simp [execHostLinkDown, h]

@[simp] theorem execScaleoutPortTrain_wf {port : Nat} (h : Memory.wf s.mem) :
    AnswerWf (execScaleoutPortTrain port s) := by
  unfold execScaleoutPortTrain
  split <;> simp [h]

@[simp] theorem execScaleoutLinkDown_wf {port : Nat} (h : Memory.wf s.mem) :
    AnswerWf (execScaleoutLinkDown port s) := by
  unfold execScaleoutLinkDown
  split <;> simp [h]

@[simp] theorem State.putDescriptor_wf {r : EthRing} {i len code : Nat} (h : Memory.wf s.mem) :
    Memory.wf (s.putDescriptor r i len code).mem := by
  simp [State.putDescriptor, h]

@[simp] theorem execEthFrameSend_wf {port : Nat} (h : Memory.wf s.mem) : AnswerWf (execEthFrameSend port s) := by
  simp only [execEthFrameSend]
  repeat' split
  all_goals simp +contextual [h, foldl_wf]

@[simp] theorem execEthFrameReceive_wf {port : Nat} {bytes : List Byte} (h : Memory.wf s.mem) :
    AnswerWf (execEthFrameReceive port bytes s) := by
  simp only [execEthFrameReceive]
  repeat' split
  · exact h
  · exact h
  · exact h
  · exact foldl_wf (fun t p ht => State.putDescriptor_wf (Memory.wf_writeBytes ht _ _)) _ h

@[simp] theorem State.fresh_wf {on : Bool} (h : Memory.wf s.mem) : Memory.wf (s.fresh on).mem := Memory.wf_filter h _

@[simp] theorem State.initMemory_wf (h : Memory.wf s.mem) : Memory.wf s.initMemory.mem := Memory.wf_filter h _

@[simp] theorem State.bootTo_mem (s : State) (code err : Nat) : (s.bootTo code err).mem = s.mem := rfl

@[simp] theorem runFirmware_mem (s : State) (b : List Byte) : (runFirmware s b).mem = s.mem := rfl

@[simp] theorem execPowerGood_wf (h : Memory.wf s.mem) : AnswerWf (execPowerGood s) := by
  unfold execPowerGood
  split <;> simp [h]

@[simp] theorem execPowerLoss_wf (h : Memory.wf s.mem) : AnswerWf (execPowerLoss s) := by
  unfold execPowerLoss
  split <;> simp [h]

@[simp] theorem execBootStateAdvance_wf (h : Memory.wf s.mem) : AnswerWf (execBootStateAdvance s) := by
  simp only [execBootStateAdvance]
  repeat' split
  all_goals simp [h]

@[simp] theorem execSlotZeroComplete_wf {quarter slot : Nat} (h : Memory.wf s.mem) :
    AnswerWf (execSlotZeroComplete quarter slot s) := by
  unfold execSlotZeroComplete
  repeat' split
  all_goals simp [h]

@[simp] theorem State.setBit_mem (s : State) (n i : Nat) : (s.setBit n i).mem = s.mem := rfl

@[simp] theorem execBankFailure_wf {ring : Nat} (h : Memory.wf s.mem) : AnswerWf (execBankFailure ring s) := by
  simp only [execBankFailure]
  repeat' split
  all_goals simp +contextual [h, foldl_wf]

@[simp] theorem State.rollback_mem (s : State) (job sec rep tenant : Nat) (secure : Bool) (c : SecCfg) :
    (s.rollback job sec rep tenant secure c).mem = s.mem := by
  simp only [State.rollback]
  split <;> simp

@[simp] theorem State.loseUnit_wf {u : Nat} {x : UnitSt} (h : Memory.wf s.mem) : Memory.wf (s.loseUnit u x).mem := by
  unfold State.loseUnit
  split <;> simp [h]

@[simp] theorem execRegionFailure_wf {block : Nat} (h : Memory.wf s.mem) : AnswerWf (execRegionFailure block s) := by
  simp only [execRegionFailure]
  repeat' split
  all_goals simp +contextual [h, foldl_wf]

/-! ## Ingress points -/

@[simp] theorem execIngressToken_wf {u n : Nat} {tok : Token} (h : Memory.wf s.mem) :
    AnswerWf (execIngressToken u n tok s) := by
  unfold execIngressToken
  repeat' split
  all_goals simp [h]

@[simp] theorem State.enter_mem (s : State) (i : Ingress) : (s.enter i).mem = s.mem := by
  unfold State.enter
  repeat' split
  all_goals simp

@[simp] theorem State.refuseToken_mem (s : State) (i : Ingress) : (s.refuseToken i).mem = s.mem := by
  simp [State.refuseToken]

@[simp] theorem execIngressBucketPass_wf {point : Nat} (h : Memory.wf s.mem) :
    AnswerWf (execIngressBucketPass point s) := by
  simp only [execIngressBucketPass]
  repeat' split
  all_goals simp [h]

@[simp] theorem State.setRate_mem (s : State) (k r : Nat) : (s.setRate k r).mem = s.mem := rfl

@[simp] theorem State.rateQuarter_mem (s : State) (q : Nat) : (s.rateQuarter q).mem = s.mem :=
  foldl_mem (fun t j => by rw [State.setRate_mem, State.spendCredit_mem]) _ s

@[simp] theorem execBucketRateRecompute_wf (h : Memory.wf s.mem) : AnswerWf (execBucketRateRecompute s) := by
  unfold execBucketRateRecompute
  extract_lets now t
  have ht : t.mem = s.mem := foldl_mem State.rateQuarter_mem _ _
  clear_value t
  split
  · exact ht ▸ h
  · exact h

/-! ## The loader -/

theorem State.planWord_mem {s t : State} {w : Nat × Nat × Word} (ht : s.planWord w = some t) : t.mem = s.mem := by
  unfold State.planWord at ht
  split at ht
  · cases ht; rfl
  · cases ht

theorem State.planWords_mem {s t : State} {l : List (Nat × Nat × Word)} (ht : State.planWords l s = some t) :
    t.mem = s.mem := by
  induction l generalizing s with
  | nil => cases ht; rfl
  | cons w l ih =>
    unfold State.planWords at ht
    split at ht
    · next t' hw => exact (ih ht).trans (State.planWord_mem hw)
    · cases ht

theorem State.planRoot_mem {s t : State} {tenant : Nat} {r : Option Word} (ht : s.planRoot tenant r = some t) :
    t.mem = s.mem := by
  cases r with
  | none => cases ht; rfl
  | some r =>
    simp only [State.planRoot] at ht
    split at ht
    · cases ht
    · cases ht; rfl

theorem State.mapRegions_mem {s t : State} {tenant : Nat} {secure : Bool} {rings : List (Nat × Nat × Bool)} {plan : LoadPlan}
    {l : List Region} (ht : s.mapRegions tenant secure rings plan = some (t, l)) : t.mem = s.mem := by
  simp only [State.mapRegions] at ht
  split at ht
  · cases ht
  · split at ht
    · cases ht
    · next t1 h1 =>
      split at ht
      · cases ht
      · next t2 h2 =>
        split at ht
        · cases ht; exact (State.planWords_mem h2).trans (State.planRoot_mem h1)
        · cases ht

@[simp] theorem State.fillRegions_mem (s : State) (tenant : Nat) (secure : Bool) (x : ImgSrc) (head : ImgHead) (l : List Region) :
    (s.fillRegions tenant secure x head l).1.mem = s.mem := foldl_mem (fun t _ => t.manItem_mem _ _) _ s.bumpId

theorem State.loadImage_mem {s t : State} {q : Nat} {x : ImgSrc} {size man : Nat} {plan : LoadPlan} {im : Image}
    (ht : s.loadImage q x size plan = .ok (t, im, man)) : t.mem = s.mem := by
  unfold State.loadImage at ht
  extract_lets y at ht
  cases hw : worstFail (s.loadFails x size y.priv) with
  | some f =>
    rw [hw] at ht
    cases ht
  | none =>
    rw [hw] at ht
    dsimp only at ht
    split at ht
    · cases ht
    · cases ht
    · next t1 l _ h1 =>
      have hr : (t1.fillRegions y.tenant y.secure x _ l).1 = t := congrArg (fun r => Prod.fst r) (Except.ok.inj ht)
      rw [← hr, State.fillRegions_mem, State.mapRegions_mem h1]

/-! ## Host queues -/

@[simp] theorem State.reply_wf {q : Nat} {b : List Byte} {status reason value : Nat} {detail : List Byte}
    (h : Memory.wf s.mem) : Memory.wf (s.reply q b status reason value detail).mem := by
  simp [State.reply, h]

@[simp] theorem State.untake_mem (s : State) (q : Nat) : (s.untake q).mem = s.mem := rfl

@[simp] theorem State.answer_wf {q : Nat} {b : List Byte} {status reason value : Nat} {detail : List Byte}
    (h : Memory.wf s.mem) : Memory.wf (s.answer q b status reason value detail).mem := by
  simp [State.answer, h]

@[simp] theorem State.refuse_wf {q : Nat} {b : List Byte} {reason : Nat} (h : Memory.wf s.mem) :
    Memory.wf (s.refuse q b reason).mem := by
  simp [State.refuse, h]

@[simp] theorem execQueueRecordArrival_wf {q : Nat} {rec : List Byte} (h : Memory.wf s.mem) :
    AnswerWf (execQueueRecordArrival q rec s) := by
  simp only [execQueueRecordArrival]
  repeat' split
  all_goals simp [h]

@[simp] theorem execQueueArbiterTake_wf (h : Memory.wf s.mem) : AnswerWf (execQueueArbiterTake s) := by
  simp only [execQueueArbiterTake]
  repeat' split
  all_goals simp [h]

@[simp] theorem execHostOpen_wf (h : Memory.wf s.mem) : AnswerWf (execHostOpen s) := by
  simp only [execHostOpen]
  repeat' split
  all_goals simp [h]

@[simp] theorem execHostClose_wf (h : Memory.wf s.mem) : AnswerWf (execHostClose s) := by
  simp only [execHostClose]
  repeat' split
  all_goals simp [h]

@[simp] theorem execQueueClosed_wf {q : Nat} (h : Memory.wf s.mem) : AnswerWf (execQueueClosed q s) := by
  simp only [execQueueClosed]
  repeat' split
  all_goals simp [h]

@[simp] theorem execRingReadIndexWrite_wf {q ring idx : Nat} (h : Memory.wf s.mem) :
    AnswerWf (execRingReadIndexWrite q ring idx s) := by
  unfold execRingReadIndexWrite
  split <;> simp [h]

@[simp] theorem State.endLoad_wf {q : Nat} {b : List Byte} {im : Image} {man : Nat} (h : Memory.wf s.mem) :
    Memory.wf (s.endLoad q b im man).mem := by
  simp [State.endLoad, h]

@[simp] theorem execHostLoad_wf {plan : LoadPlan} (h : Memory.wf s.mem) : AnswerWf (execHostLoad plan s) := by
  simp only [execHostLoad]
  split
  · exact h
  · split
    · simp [h]
    · split
      · exact h
      · split
        · simp [h]
        · split
          · simp [h]
          · next ht => simp [State.loadImage_mem ht, h]

@[simp] theorem execHostPhase_wf (h : Memory.wf s.mem) : AnswerWf (execHostPhase s) := by
  unfold execHostPhase
  split <;> simp [h]

@[simp] theorem State.clearEntry_mem (s : State) (j : Nat) : (s.clearEntry j).mem = s.mem := rfl

@[simp] theorem execHostRun_wf (h : Memory.wf s.mem) : AnswerWf (execHostRun s) := by
  simp only [execHostRun]
  repeat' split
  all_goals simp [h]

@[simp] theorem execHostWait_wf (h : Memory.wf s.mem) : AnswerWf (execHostWait s) := by
  unfold execHostWait
  repeat' split
  all_goals simp [h]

@[simp] theorem execQueueWaitRelease_wf {q : Nat} (h : Memory.wf s.mem) : AnswerWf (execQueueWaitRelease q s) := by
  unfold execQueueWaitRelease
  repeat' split
  all_goals simp [h]

@[simp] theorem execHostSignal_wf (h : Memory.wf s.mem) : AnswerWf (execHostSignal s) := by
  unfold execHostSignal
  repeat' split
  all_goals simp [h]

@[simp] theorem execHostCancel_wf (h : Memory.wf s.mem) : AnswerWf (execHostCancel s) := by
  simp only [execHostCancel]
  repeat' split
  all_goals simp [h]

end Sys2Proof.Machine
end

section
/-! PROOFS. Every step keeps physical memory canonical (R17, R23; logs 2, 4). -/

namespace Sys2Proof.Machine

variable {s : State}

/-! ## Slot instructions whose beat is written in place -/

/-- A plan that does nothing after its last beat is as good as its beats. -/
theorem Plan.Wf.of_beat {p : Plan} (hf : p.fin = none)
    (hb : ∀ {s : State} (bt : Beat) (c : Carry), Memory.wf s.mem → (p.beat s bt c).Wf) : p.Wf :=
  ⟨hb, by simp [hf]⟩

theorem brdPlan_wf {k : RKind} {t : Fin 64} {n : Fin 32} {a b : Src} : (brdPlan k t n a b).Wf :=
  .of_beat rfl fun _ _ hs => brdBeat_wf hs

theorem geoPlan_wf {p : Pred} {sym : Bool} {t : Fin 64} {d : ODst} {a : Fin 4} {stg nfm : Bool} :
    (geoPlan p sym t d a stg nfm).Wf :=
  .of_beat rfl fun _ _ hs => geoBeat_wf hs

theorem execDrop_wf {t : Fin 64} {a : Src} (h : Memory.wf s.mem) : AnswerWf (execDrop t a s) := by
  refine fire_wf (.of_beat rfl fun bt c hs => ?_) h
  dsimp only
  repeat' split
  all_goals simp [hs]

theorem execMark_wf {t : Fin 64} {d : ODst} {a b : Opd} (h : Memory.wf s.mem) : AnswerWf (execMark t d a b s) := by
  refine fire_wf (.of_beat rfl fun bt c hs => ?_) h
  dsimp only
  repeat' split
  all_goals simp [hs]

theorem execTags_wf {t : Fin 64} {d : Dst} {a : Opd} (h : Memory.wf s.mem) : AnswerWf (execTags t d a s) := by
  refine fire_wf (.of_beat rfl fun bt c hs => ?_) h
  dsimp only
  repeat' split
  all_goals simp [hs]

theorem execMac_wf {t : Fin 64} {d : MacDst} {a : Opd} {wa wb : Fin 8} (h : Memory.wf s.mem) :
    AnswerWf (execMac t d a wa wb s) := by
  refine fire_wf (.of_beat rfl fun bt c hs => ?_) h
  dsimp only
  repeat' split
  all_goals simp [hs]

theorem execQdec_wf {t : Fin 64} {d : Dst} {a b : Opd} (h : Memory.wf s.mem) : AnswerWf (execQdec t d a b s) := by
  refine fire_wf (.of_beat rfl fun bt c hs => ?_) h
  dsimp only
  repeat' split
  all_goals simp [hs]

theorem execPack_wf {t : Fin 64} {d : Dst} {a b : Opd} (h : Memory.wf s.mem) : AnswerWf (execPack t d a b s) := by
  refine fire_wf (.of_beat rfl fun bt c hs => ?_) h
  dsimp only
  repeat' split
  all_goals simp [hs]

theorem execUnpk_wf {t : Fin 64} {d : Dst} {a b : Opd} (h : Memory.wf s.mem) : AnswerWf (execUnpk t d a b s) := by
  refine fire_wf (.of_beat rfl fun bt c hs => ?_) h
  dsimp only
  repeat' split
  all_goals simp [hs]

theorem execScale_wf {t : Fin 64} {d : Dst} {a b : Opd} (h : Memory.wf s.mem) : AnswerWf (execScale t d a b s) := by
  refine fire_wf (.of_beat rfl fun bt c hs => ?_) h
  dsimp only
  repeat' split
  all_goals simp [hs]

theorem execClaim_wf {t : Fin 64} {d : Dst} (h : Memory.wf s.mem) : AnswerWf (execClaim t d s) := by
  refine fire_wf (.of_beat rfl fun bt c hs => ?_) h
  dsimp only
  repeat' split
  all_goals simp [hs]

theorem execRlse_wf {t : Fin 64} {a : Src} (h : Memory.wf s.mem) : AnswerWf (execRlse t a s) := by
  refine fire_wf (.of_beat rfl fun bt c hs => ?_) h
  dsimp only
  repeat' split
  all_goals simp [hs]

theorem execSlq_wf {t : Fin 64} {d : Dst} {a : Src} (h : Memory.wf s.mem) : AnswerWf (execSlq t d a s) := by
  refine fire_wf (.of_beat rfl fun bt c hs => ?_) h
  dsimp only
  repeat' split
  all_goals simp [hs]

theorem execPort_wf {t : Fin 64} {n : Fin 32} {a : Opd} (h : Memory.wf s.mem) : AnswerWf (execPort t n a s) := by
  refine fire_wf (.of_beat rfl fun bt c hs => ?_) h
  dsimp only
  repeat' split
  all_goals simp [hs]

theorem execSndm_wf {t : Fin 64} {n : Fin 32} {a : Fin 4} {b : Src} (h : Memory.wf s.mem) :
    AnswerWf (execSndm t n a b s) := by
  unfold execSndm
  refine fire_wf (.of_beat rfl fun bt c hs => ?_) h
  have hd : (sndmBeat n a _ bt c).Wf := sndmBeat_wf hs
  dsimp only
  split
  · split
    · split
      · next hb => rw [hb] at hd; simpa using hd
      · exact hd
    · exact hs
  · exact hd

theorem execBpos_wf {t : Fin 64} {d : Dst} {a b : Opd} (h : Memory.wf s.mem) : AnswerWf (execBpos t d a b s) := by
  refine fire_wf (.of_beat rfl fun bt c hs => ?_) h
  dsimp only
  repeat' split
  all_goals simp [hs]

theorem execCget_wf {t : Fin 64} {d : Dst} {a b : Opd} (h : Memory.wf s.mem) : AnswerWf (execCget t d a b s) := by
  refine fire_wf (.of_beat rfl fun bt c hs => ?_) h
  dsimp only
  repeat' split
  all_goals simp [hs]

theorem execRte_wf {t : Fin 64} {d : ODst} {a b : Opd} (h : Memory.wf s.mem) : AnswerWf (execRte t d a b s) := by
  refine fire_wf (.of_beat rfl fun bt c hs => ?_) h
  dsimp only
  repeat' split
  all_goals simp [hs]

theorem execCanc_wf {t : Fin 64} {d : Dst} {a : Opd} (h : Memory.wf s.mem) : AnswerWf (execCanc t d a s) := by
  refine fire_wf (.of_beat rfl fun bt c hs => ?_) h
  dsimp only
  repeat' split
  all_goals simp [hs]

theorem execAttn_wf {t : Fin 64} {a : Opd} (h : Memory.wf s.mem) : AnswerWf (execAttn t a s) := by
  refine fire_wf (.of_beat rfl fun bt c hs => ?_) h
  dsimp only
  repeat' split
  all_goals simp [hs]

theorem execLog_wf {t : Fin 64} {a b : Opd} (h : Memory.wf s.mem) : AnswerWf (execLog t a b s) := by
  refine fire_wf (.of_beat rfl fun bt c hs => ?_) h
  dsimp only
  repeat' split
  all_goals simp [hs]

/-! ## Every instruction and event -/

/-- A slot instruction is a firing whose beats keep memory canonical; an event has its own lemma above. -/
theorem exec_wf (i : Instr) (h : Memory.wf s.mem) : AnswerWf (exec i s) := by
  cases i with
  | nop | mov | movt | fork | sel | mrg | split | emit | pset | pclr | ctr | sig | halt | add | sub | adds
  | subs | mul | mulh | mulhu | mad | neg | abs | min | max | minu | maxu | and | or | xor | shl | shr | sar
  | rot | clz | popc | bfx | idx | satn | cmpeq | cmpne | cmplt | cmple | cmpltu | cmpleu | fadd | fsub | fmul
  | ffma | ffms | fmin | fmax | fabs | fneg | fcls | fscl | ffrc | fcmpeq | fcmplt | fcmple | fcmpun | frcp
  | frsq | fsqrt | fdiv | fexp2 | flog2 | fsin | fcos | ftanh | frnd | ftoi | itof | macn | macz | wld | acrd
  | acclr | acmv | cvt | qenc | mxs | shfl | bcst | rmax | rsum | rsex | ld | st | lds | lde | stf | ste | push
  | pop | amoadd | amomin | amomax | amoand | amoor | amoxor | amoswp | amocas | famoadd | famomin | famomax
  | bufq | bufset | fence | ldc | stc | cinv | cwb | chold | cfree | ldw | tblb | ridq | rcan | cpy | coll
  | wrem | drn | cnti | band | ccmp | cmrg | cset | trap | brk | csrr | csrw | frz | thaw | snap | tlbi | cfgw
  | perf | time | idle =>
    exact fire_wf (.of_beat rfl fun _ _ hs => by simp [hs]) h
  | brdRd | brdFl | brdRed | brdUpd | brdGat | brdSca | brdLut =>
    exact fire_wf brdPlan_wf h
  | ori2 | ori2s | ori3 | ori3s | incr | incrs | insp | insps | segx | segxs =>
    exact fire_wf geoPlan_wf h
  | drop => exact execDrop_wf h
  | mark => exact execMark_wf h
  | tags => exact execTags_wf h
  | mac => exact execMac_wf h
  | qdec => exact execQdec_wf h
  | pack => exact execPack_wf h
  | unpk => exact execUnpk_wf h
  | scale => exact execScale_wf h
  | claim t d => exact execClaim_wf (t := t) (d := d) h
  | rlse => exact execRlse_wf h
  | slq => exact execSlq_wf h
  | port => exact execPort_wf h
  | sndm => exact execSndm_wf h
  | bpos => exact execBpos_wf h
  | cget => exact execCget_wf h
  | rte => exact execRte_wf h
  | canc => exact execCanc_wf h
  | attn => exact execAttn_wf h
  | log => exact execLog_wf h
  | peekContinueIdleWake => exact execPeekContinueIdleWake_wf h
  | breakpointResume => exact execBreakpointResume_wf h
  | queueRecordArrival => exact execQueueRecordArrival_wf h
  | queueArbiterTake => exact execQueueArbiterTake_wf h
  | hostOpen => exact execHostOpen_wf h
  | hostLoad => exact execHostLoad_wf h
  | hostPhase => exact execHostPhase_wf h
  | hostRun => exact execHostRun_wf h
  | hostWait => exact execHostWait_wf h
  | hostSignal => exact execHostSignal_wf h
  | hostCancel => exact execHostCancel_wf h
  | hostClose => exact execHostClose_wf h
  | queueClosed => exact execQueueClosed_wf h
  | queueWaitRelease => exact execQueueWaitRelease_wf h
  | ringReadIndexWrite => exact execRingReadIndexWrite_wf h
  | nodeArm => exact execNodeArm_wf h
  | nodeWait => exact execNodeWait_wf h
  | nodeWaitRelease => exact execNodeWaitRelease_wf h
  | nodeSignal => exact execNodeSignal_wf h
  | nodeLoop => exact execNodeLoop_wf h
  | nodeEnd => exact execNodeEnd_wf h
  | unitPlacement => exact execUnitPlacement_wf h
  | sectionRotation => exact execSectionRotation_wf h
  | tileCountExpiry => exact execTileCountExpiry_wf h
  | elementDrainPass => exact execElementDrainPass_wf h
  | cycleDrainInject => exact execCycleDrainInject_wf h
  | portDrainPass => exact execPortDrainPass_wf h
  | unitEnd => exact execUnitEnd_wf h
  | launchComplete => exact execLaunchComplete_wf h
  | graphComplete => exact execGraphComplete_wf h
  | phaseComplete => exact execPhaseComplete_wf h
  | jobComplete => exact execJobComplete_wf h
  | slotZeroComplete => exact execSlotZeroComplete_wf h
  | watchdogExpiry => exact execWatchdogExpiry_wf h
  | starveBitSet => exact execStarveBitSet_wf h
  | configTokenConsume => exact execConfigTokenConsume_wf h
  | pulseArrival => exact execPulseArrival_wf h
  | ingressToken => exact execIngressToken_wf h
  | channelTokenArrival => exact execChannelTokenArrival_wf h
  | lateResultWrite => exact execLateResultWrite_wf h
  | feWaitComplete => exact execFeWaitComplete_wf h
  | guardPoisonReturn => exact execGuardPoisonReturn_wf h
  | stageBResult => exact execStageBResult_wf h
  | exactUnitResult => exact execExactUnitResult_wf h
  | predicateResultSend => exact execPredicateResultSend_wf h
  | systolicTokenProcess => exact execSystolicTokenProcess_wf h
  | southEdgeAdd => exact execSouthEdgeAdd_wf h
  | cornerTurnEmit => exact execCornerTurnEmit_wf h
  | slotStreamRequest => exact execSlotStreamRequest_wf h
  | bufferDeliveryComplete => exact execBufferDeliveryComplete_wf h
  | cacheFillReturn => exact execCacheFillReturn_wf h
  | cacheWalkEnd => exact execCacheWalkEnd_wf h
  | windowExtend => exact execWindowExtend_wf h
  | riderPacketCheck => exact execRiderPacketCheck_wf h
  | riderTranslate => exact execRiderTranslate_wf h
  | translationWalk => exact execTranslationWalk_wf h
  | stepBoundary => exact execStepBoundary_wf h
  | riderAlight => exact execRiderAlight_wf h
  | itemAccept => exact execItemAccept_wf h
  | carriageClose => exact execCarriageClose_wf h
  | budgetWindowBoundary => exact execBudgetWindowBoundary_wf h
  | classStop => exact execClassStop_wf h
  | idlePause => exact execIdlePause_wf h
  | classResume => exact execClassResume_wf h
  | ringClassChange => exact execRingClassChange_wf h
  | copyStart => exact execCopyStart_wf h
  | copyComplete => exact execCopyComplete_wf h
  | collectiveComplete => exact execCollectiveComplete_wf h
  | collectiveMemberTimeout => exact execCollectiveMemberTimeout_wf h
  | remoteWriteArrival => exact execRemoteWriteArrival_wf h
  | remoteAckTimeout => exact execRemoteAckTimeout_wf h
  | messageArrival => exact execMessageArrival_wf h
  | messageHoldExpiry => exact execMessageHoldExpiry_wf h
  | drnCompletion => exact execDrnCompletion_wf h
  | ingressBucketPass => exact execIngressBucketPass_wf h
  | bucketRateRecompute => exact execBucketRateRecompute_wf h
  | gateStateChange => exact execGateStateChange_wf h
  | gateWrite => exact execGateWrite_wf h
  | rclq => exact execRclq_wf h
  | swpcWrite => exact execSwpcWrite_wf h
  | bwldWrite => exact execBwldWrite_wf h
  | fresRetry => exact execFresRetry_wf h
  | fresUnresolvable => exact execFresUnresolvable_wf h
  | hostTlbi => exact execHostTlbi_wf h
  | tlbiComplete => exact execTlbiComplete_wf h
  | sctlFreeze => exact execSctlFreeze_wf h
  | sctlThaw => exact execSctlThaw_wf h
  | sctlMove => exact execSctlMove_wf h
  | translationStoreWrite q addr v => exact execTranslationStoreWrite_wf (q := q) h
  | logdRead => exact execLogdRead_wf h
  | hrefRead => exact execHrefRead_wf h
  | fdropRead => exact execFdropRead_wf h
  | registerWrite => exact execRegisterWrite_wf h
  | soctlWrite => exact execSoctlWrite_wf h
  | attestationReport => exact execAttestationReport_wf h
  | bootc => exact execBootc_wf h
  | hostLinkTrain => exact execHostLinkTrain_wf h
  | hostLinkDown => exact execHostLinkDown_wf h
  | scaleoutPortTrain => exact execScaleoutPortTrain_wf h
  | ethFrameSend => exact execEthFrameSend_wf h
  | ethFrameReceive => exact execEthFrameReceive_wf h
  | powerGood => exact execPowerGood_wf h
  | bootStateAdvance => exact execBootStateAdvance_wf h
  | bankFailure => exact execBankFailure_wf h
  | regionFailure => exact execRegionFailure_wf h
  | remoteAcknowledgement => exact execRemoteAcknowledgement_wf h
  | scaleoutLinkDown => exact execScaleoutLinkDown_wf h
  | elementStatusIdleSet => exact execElementStatusIdleSet_wf h
  | powerLoss => exact execPowerLoss_wf h

/-! ## Happenings -/

@[simp] theorem nextHappening_mem (s : State) : (nextHappening s).2.mem = s.mem := by
  unfold nextHappening
  split <;> rfl

@[simp] theorem elapse_mem (s : State) (n : Nat) : (elapse s n).mem = s.mem := rfl

@[simp] theorem focusOn_mem (s : State) (u e slot : Nat) (defer : Bool) : (focusOn s u e slot defer).mem = s.mem := rfl

@[simp] theorem markAll_wf (h : Memory.wf s.mem) : Memory.wf (markAll s).mem := by simp [markAll, h]

@[simp] theorem firePick_wf {u e : Nat} {defer : Bool} {x : UnitSt} (h : Memory.wf s.mem) :
    (firePick s u e defer x).Wf := by
  simp only [firePick]
  repeat' split
  all_goals simp [h]

@[simp] theorem fireReady_wf {u e : Nat} {defer : Bool} (h : Memory.wf s.mem) : (fireReady s u e defer).Wf := by
  unfold fireReady
  split
  · exact h
  · extract_lets y x' t
    have ht : Memory.wf t.mem := by simpa [t] using h
    clear_value t y x'
    simp [apply_ite Ready.Wf, h, ht]

@[simp] theorem hostStore_wf {pa : Nat} {bytes : List Byte} (h : Memory.wf s.mem) :
    Memory.wf (hostStore s pa bytes).mem := by
  simp [hostStore, h]

@[simp] theorem climate_mem (s : State) (temp : Assoc Nat) (pnow : List Nat) : (climate s temp pnow).mem = s.mem := rfl

@[simp] theorem decay_mem (s : State) (v : Decay) : (decay s v).mem = s.mem := by
  unfold decay
  split <;> simp

@[simp] theorem readyFor_wf {v : What} (h : Memory.wf s.mem) : (readyFor s v).Wf := by
  unfold readyFor
  repeat' split
  all_goals simp [h]

@[simp] theorem ready_wf (h : Memory.wf s.mem) : (ready s).Wf := by simp [ready, h]

@[simp] theorem retryResolved_wf (h : Memory.wf s.mem) : Memory.wf (retryResolved s).mem := by
  refine foldl_wf (fun t p ht => ?_) _ h
  repeat' split
  · exact ht
  · exact foldl_wf (fun t r ht => State.fres_wf ht) _ ht
  · exact ht

@[simp] theorem goOn_wf (h : Memory.wf s.mem) : Memory.wf (goOn s).mem := by
  have hm : (goOn s).mem = (retryResolved s.postLosses).settleImages.mem := by simp [goOn]
  rw [hm]
  exact State.settleImages_wf (retryResolved_wf (State.postLosses_wf h))

@[simp] theorem settle_wf (h : Memory.wf s.mem) : Memory.wf (settle s).mem := by simp [settle, h]

/-- One step: what is taken, run and settled. -/
theorem step_wf (h : Memory.wf s.mem) : AnswerWf (step s) := by
  have hr : (ready s).Wf := ready_wf h
  unfold step
  split
  · next ht => rw [ht] at hr; exact settle_wf hr
  · trivial
  · next i t ht =>
    rw [ht] at hr
    have he : AnswerWf (exec i t) := exec_wf i hr
    split
    · next hx => rw [hx] at he; exact settle_wf he
    · trivial
    · trivial

end Sys2Proof.Machine

namespace Sys2Proof.Spec
open Machine

/-- Settles O57: what is ready, the instruction or event it runs and what settles after it each keep the form. -/
theorem memoryStaysCanonical : Obligations.MemoryStaysCanonical := by
  unfold Obligations.MemoryStaysCanonical
  intro s t ht hs
  have hw : AnswerWf (step s) := step_wf hs
  rw [ht] at hw
  exact hw

end Sys2Proof.Spec
end

section
/-! PROOFS. What the operations of a step boundary leave of time and of how the classes stand (R82, R110). -/

namespace Sys2Proof.Machine

/-- Device time and how the three classes stand. -/
def State.clocks (s : State) : Clk × ClassSt × ClassSt × ClassSt := (s.clk, s.sweep.quick, s.sweep.steady, s.sweep.deep)

@[simp] theorem clocks_ite (c : Prop) [Decidable c] (s t : State) :
    (if c then s else t).clocks = if c then s.clocks else t.clocks := apply_ite State.clocks c s t

@[simp] theorem foldl_clocks {β : Type} {f : State → β → State} (hf : ∀ t b, (f t b).clocks = t.clocks) (l : List β)
    (s : State) : (l.foldl f s).clocks = s.clocks := foldl_keeps State.clocks hf l s

@[simp] theorem State.setUnit_clocks (s : State) (u : Nat) (x : UnitSt) : (s.setUnit u x).clocks = s.clocks := rfl

@[simp] theorem State.modUnit_clocks (s : State) (u : Nat) (f : UnitSt → UnitSt) :
    (s.modUnit u f).clocks = s.clocks := rfl

@[simp] theorem State.modElem_clocks (s : State) (u e : Nat) (f : Elem → Elem) :
    (s.modElem u e f).clocks = s.clocks := rfl

@[simp] theorem State.setReg_clocks (s : State) (n : Nat) (v : Word) : (s.setReg n v).clocks = s.clocks := rfl

@[simp] theorem State.countUp_clocks (s : State) (n : Nat) : (s.countUp n).clocks = s.clocks := rfl

@[simp] theorem State.setQueue_clocks (s : State) (q : Nat) (x : Queue) : (s.setQueue q x).clocks = s.clocks := rfl

@[simp] theorem State.flushRing_clocks (s : State) (q : Nat) (w : RingSel) : (s.flushRing q w).clocks = s.clocks := by
  unfold State.flushRing
  split <;> rfl

@[simp] theorem State.putRecord_clocks (s : State) (q : Nat) (w : RingSel) (rec : List Byte) :
    (s.putRecord q w rec).clocks = s.clocks := by
  simp [State.putRecord]

@[simp] theorem State.modJob_clocks (s : State) (j : Nat) (f : Job → Job) : (s.modJob j f).clocks = s.clocks := rfl

@[simp] theorem State.modLaunch_clocks (s : State) (l : Nat) (f : Launch → Launch) :
    (s.modLaunch l f).clocks = s.clocks := rfl

@[simp] theorem State.putFault_clocks (s : State) (r : FaultRec) : (s.putFault r).clocks = s.clocks := by
  simp [State.putFault]

@[simp] theorem State.putLoss_clocks (s : State) (r : FaultRec) : (s.putLoss r).clocks = s.clocks := by
  unfold State.putLoss
  dsimp only
  split
  · exact s.putFault_clocks r
  · rfl

@[simp] theorem State.deliverFrom_clocks (s : State) (src pt u n : Nat) (ts : List Token) :
    (s.deliverFrom src pt u n ts).clocks = s.clocks := by
  unfold State.deliverFrom
  repeat' split
  all_goals rfl

@[simp] theorem State.deliverTo_clocks (s : State) (pt u n : Nat) (ts : List Token) :
    (s.deliverTo pt u n ts).clocks = s.clocks := by
  simp [State.deliverTo]

@[simp] theorem State.settleSent_clocks (s : State) (u n id : Nat) : (s.settleSent u n id).clocks = s.clocks := rfl

@[simp] theorem State.complete_clocks (s : State) (u n id doneB : Nat) (t : Token) :
    (s.complete u n id doneB t).clocks = s.clocks := by
  simp [State.complete]

@[simp] theorem State.dropRider_clocks (s : State) (id : Nat) : (s.dropRider id).clocks = s.clocks := rfl

@[simp] theorem State.dropItem_clocks (s : State) (id : Nat) : (s.dropItem id).clocks = s.clocks := rfl

@[simp] theorem State.finishRider_clocks (s : State) (id : Nat) (r : Rider) (t : Token) :
    (s.finishRider id r t).clocks = s.clocks := by
  simp [State.finishRider]

@[simp] theorem State.finishCopy_clocks (s : State) (q : Fin 4) (id : Nat) (c : Copy) (t : Token) :
    (s.finishCopy q id c t).clocks = s.clocks := by
  simp only [State.finishCopy]
  simp
  rfl

@[simp] theorem State.cancelRider_clocks (s : State) (id : Nat) : (s.cancelRider id).clocks = s.clocks := by
  simp only [State.cancelRider]
  repeat' split
  all_goals simp
  all_goals rfl

@[simp] theorem State.cancelPackets_clocks (s : State) (u n : Nat) (sel : Packet → Bool) :
    (s.cancelPackets u n sel).clocks = s.clocks := by
  unfold State.cancelPackets
  split <;> simp

@[simp] theorem State.withdrawHeld_clocks (s : State) (u : Nat) : (s.withdrawHeld u).clocks = s.clocks := rfl

@[simp] theorem State.cancelTraffic_clocks (s : State) (u : Nat) : (s.cancelTraffic u).clocks = s.clocks := by
  simp [State.cancelTraffic]

@[simp] theorem State.settleSince_clocks (s : State) (j : Nat) : (s.settleSince j).clocks = s.clocks := by
  simp [State.settleSince]

@[simp] theorem State.cancelUnit_clocks (s : State) (u : Nat) : (s.cancelUnit u).clocks = s.clocks := by
  unfold State.cancelUnit
  repeat' split
  all_goals simp

@[simp] theorem State.cancelLaunch_clocks (s : State) (l : Nat) : (s.cancelLaunch l).clocks = s.clocks := by
  simp [State.cancelLaunch]

@[simp] theorem State.withdrawAside_clocks (s : State) (u e : Nat) : (s.withdrawAside u e).clocks = s.clocks := rfl

@[simp] theorem State.trap_clocks (s : State) (u e slot cause item va detail pa : Nat) (flags : Flags) :
    (s.trap u e slot cause item va detail pa flags).clocks = s.clocks := by
  unfold State.trap
  split <;> simp

@[simp] theorem State.windowTraps_clocks (s : State) (u : Nat) (ws : List (CacheWait × Nat)) :
    (s.windowTraps u ws).clocks = s.clocks := by
  simp [State.windowTraps]

@[simp] theorem State.failOwn_clocks (s : State) (id : Nat) (r : Rider) (cause : Nat) :
    (s.failOwn id r cause).clocks = s.clocks := by
  unfold State.failOwn
  repeat' split
  · rfl
  · rfl
  · rfl
  · rfl
  · simp

@[simp] theorem State.refuseRider_clocks (s : State) (id : Nat) (r : Rider) (cause : Nat) :
    (s.refuseRider id r cause).clocks = s.clocks := by
  simp [State.refuseRider]

@[simp] theorem State.setBalance_clocks (s : State) (t k : Nat) (v : Int) :
    (s.setBalance t k v).clocks = s.clocks := rfl

@[simp] theorem State.charge_clocks (s : State) (t k amount : Nat) : (s.charge t k amount).clocks = s.clocks := by
  simp [State.charge]

@[simp] theorem State.modCache_clocks (s : State) (u : Nat) (f : Cache → Cache) :
    (s.modCache u f).clocks = s.clocks := rfl

@[simp] theorem State.manFail_clocks (s : State) (man : Nat) : (s.manFail man).clocks = s.clocks := rfl

@[simp] theorem State.setRing_clocks (s : State) (ring : Nat) (quick : Bool) :
    (s.setRing ring quick).clocks = s.clocks := rfl

@[simp] theorem State.reseal_clocks (s : State) (key : Option Nat) (row : Nat) :
    (s.reseal key row).clocks = s.clocks := by
  unfold State.reseal State.clocks
  dsimp only
  split <;> rfl

@[simp] theorem State.writeWord_clocks (s : State) (key : Option Nat) (pa : Nat) (w : Word) :
    (s.writeWord key pa w).clocks = s.clocks := s.reseal_clocks key (pa / 2048)

@[simp] theorem State.writeWords_clocks (s : State) (key : Option Nat) (pa : Nat) (ws : List Word) :
    (s.writeWords key pa ws).clocks = s.clocks := by
  have h := foldl_clocks (fun t i => t.writeWord_clocks key (pa + 8 * i) (ws.getD i 0)) (List.range ws.length) s
  exact h

@[simp] theorem State.mergeLines_clocks (s : State) (c : SweepClass) (b : Nat) :
    (s.mergeLines c b).clocks = s.clocks := by
  unfold State.mergeLines
  extract_lets due t whole
  have ht : t.clocks = s.clocks := by
    apply foldl_clocks
    intro _ _
    rfl
  clear_value t
  exact ht

@[simp] theorem State.deliverRider_clocks (s : State) (id : Nat) (r : Rider) (ts : List Token) :
    (s.deliverRider id r ts).1.clocks = s.clocks := by
  unfold State.deliverRider
  repeat' split
  all_goals simp

@[simp] theorem State.serveWindows_clocks (s : State) (u : Nat) : (s.serveWindows u).clocks = s.clocks := by
  unfold State.serveWindows
  split
  · rfl
  · extract_lets ws there due bad good t t' fails
    have ht : t'.clocks = t.clocks := by
      apply foldl_clocks
      intro _ _
      rfl
    replace ht : t'.clocks = s.clocks := ht.trans (s.modCache_clocks u _)
    clear_value t'
    split
    · exact (t'.windowTraps_clocks u fails).trans ht
    · exact ht

@[simp] theorem rdTile_clocks (s : State) (r : Rider) (line : Nat) (ws : List Word) :
    (rdTile s r line ws).clocks = s.clocks := rfl

@[simp] theorem rdSlot_clocks (s : State) (r : Rider) (line : Nat) (ws : List Word) :
    (rdSlot s r line ws).clocks = s.clocks := by
  unfold rdSlot
  split <;> rfl

@[simp] theorem riderLine_clocks (s : State) (id : Nat) (r : Rider) (line pa : Nat) :
    (riderLine s id r line pa).1.clocks = s.clocks := by
  simp only [riderLine]
  repeat' split
  all_goals simp

@[simp] theorem lutAdd_clocks (s : State) (r : Rider) (bank : Nat) (sums scales : List Int) :
    (lutAdd s r bank sums scales).1.clocks = s.clocks := by
  refine foldl_keeps (fun a : State × Rider => a.1.clocks) (fun a o => ?_) _ _
  dsimp only
  split <;> rfl

@[simp] theorem lutRow_clocks (s : State) (r : Rider) (line pa : Nat) : (lutRow s r line pa).1.clocks = s.clocks := by
  simp only [lutRow]
  split
  · refine foldl_keeps (fun a : State × Rider => a.1.clocks) (fun a k => ?_) _ _
    split <;> simp
  · split <;> simp

@[simp] theorem lutDeliver_clocks (s : State) (r : Rider) : (lutDeliver s r).1.clocks = s.clocks := by
  refine foldl_keeps (fun a : State × List Token => a.1.clocks) (fun a k => ?_) _ _
  rfl

@[simp] theorem riderBand_clocks (s : State) (id : Nat) (r : Rider) (b : Nat) :
    (riderBand s id r b).clocks = s.clocks := by
  unfold riderBand
  extract_lets lines a
  have ha : a.1.clocks = s.clocks := by
    unfold a
    split
    · exact foldl_keeps (fun a : State × Rider => a.1.clocks) (fun a _ => lutRow_clocks a.1 a.2 _ _) _ _
    · exact foldl_keeps (fun a : State × Rider => a.1.clocks) (fun a _ => riderLine_clocks a.1 id a.2 _ _) _ _
  exact ha

@[simp] theorem State.setRider_clocks (s : State) (id : Nat) (r : Rider) : (s.setRider id r).clocks = s.clocks := rfl

@[simp] theorem State.itemDone_clocks (s : State) (rid : Nat) (f : Rider → Rider) :
    (s.itemDone rid f).clocks = s.clocks := rfl

@[simp] theorem State.answerPoison_clocks (s : State) (id : Nat) (r : Rider) (cause n : Nat) :
    (s.answerPoison id r cause n).clocks = s.clocks := by
  simp [State.answerPoison]

@[simp] theorem State.readTrap_clocks (s : State) (i : Item) (e slot cause : Nat) :
    (s.readTrap i e slot cause).clocks = s.clocks := by
  simp [State.readTrap]

@[simp] theorem State.loseLates_clocks (s : State) (u e : Nat) (gone : List Nat) :
    (s.loseLates u e gone).clocks = s.clocks := rfl

@[simp] theorem State.fillFails_clocks (s : State) (id : Nat) (i : Item) (cause : Nat) :
    (s.fillFails id i cause).clocks = s.clocks := by
  unfold State.fillFails
  split <;> simp

@[simp] theorem State.itemTrap_clocks (s : State) (id : Nat) (i : Item) (cause : Nat) :
    (s.itemTrap id i cause).clocks = s.clocks := by
  unfold State.itemTrap
  split <;> simp

@[simp] theorem State.zeroRange_clocks (s : State) (key : Option Nat) (pa n : Nat) :
    (s.zeroRange key pa n).clocks = s.clocks := rfl

@[simp] theorem State.putRange_clocks (s : State) (i : Item) (n : Nat) : (s.putRange i n).clocks = s.clocks := by
  simp [State.putRange]

@[simp] theorem State.getRange_clocks (s : State) (i : Item) (n off : Nat) :
    (s.getRange i n off).clocks = s.clocks := by
  unfold State.getRange
  extract_lets pa key
  split
  · rfl
  · rfl

@[simp] theorem State.loseWrite_clocks (s : State) (id : Nat) (i : Item) : (s.loseWrite id i).clocks = s.clocks := by
  unfold State.loseWrite
  split <;> simp

@[simp] theorem State.serveItem_clocks (s : State) (id : Nat) (i : Item) : (s.serveItem id i).clocks = s.clocks := by
  simp only [State.serveItem]
  repeat' split
  all_goals simp

@[simp] theorem State.visitBand_clocks (s : State) (c : SweepClass) (step : Nat) :
    (s.visitBand c step).clocks = s.clocks := by
  refine (foldl_clocks (fun t x => ?_) _ _).trans (s.mergeLines_clocks c _)
  split
  · split
    · simp
    · rfl
  · split
    · simp
    · rfl

@[simp] theorem State.turnBudget_clocks (s : State) (n : Nat) : (s.turnBudget n).clocks = s.clocks := by
  unfold State.turnBudget
  exact (clocks_ite _ _ _).trans (by rw [State.setReg_clocks, State.setBalance_clocks, ite_self]; rfl)

@[simp] theorem State.boardRider_clocks (s : State) (c : SweepClass) (step q id : Nat) (r : Rider) :
    (s.boardRider c step q id r).clocks = s.clocks := by
  simp [State.boardRider]

@[simp] theorem State.boardAll_clocks (c : SweepClass) (step : Nat) (l : List (Nat × Rider)) (a : State × Nat × Option Nat) :
    (State.boardAll c step l a).1.clocks = a.1.clocks := by
  induction l generalizing a with
  | nil => rfl
  | cons p l ih =>
    unfold State.boardAll
    split <;> simp [ih]

@[simp] theorem State.writeTable_clocks (s : State) (r : Rider) (rings : List Nat) :
    (s.writeTable r rings).clocks = s.clocks := rfl

@[simp] theorem State.postRows_clocks (c : SweepClass) (l : List (Nat × Rider)) (busy : List Nat) (a : State × Nat) :
    (State.postRows c l busy a).1.clocks = a.1.clocks := by
  induction l generalizing busy a with
  | nil => rfl
  | cons p l ih =>
    unfold State.postRows
    dsimp only
    repeat' split
    all_goals simp [ih]

@[simp] theorem State.postWrite_clocks (s : State) (i : Item) : (s.postWrite i).clocks = s.clocks := by
  unfold State.postWrite
  extract_lets pa
  split
  · simp
  · exact s.reseal_clocks (s.keyFor i.tenant i.sealed) (pa / 2048)

@[simp] theorem State.stampItems_clocks (s : State) (c : SweepClass) (step q : Nat) :
    (s.stampItems c step q).clocks = s.clocks := by
  refine foldl_clocks (fun t p => ?_) _ s
  extract_lets id i
  split
  · exact ((t.dropItem id).postWrite_clocks i).trans (t.dropItem_clocks id)
  · rfl

@[simp] theorem State.ridqAnswer_clocks (s : State) (c : SweepClass) (k : Ridq) :
    (s.ridqAnswer c k).clocks = s.clocks := by
  unfold State.ridqAnswer
  split <;> simp

@[simp] theorem State.answerRidq_clocks (s : State) (c : SweepClass) : (s.answerRidq c).clocks = s.clocks := by
  simp only [State.answerRidq]
  repeat' split
  all_goals simp
  all_goals rfl

@[simp] theorem State.takeLine_clocks (s : State) (id : Nat) (r : Rider) (who : Nat) :
    (s.takeLine id r who).clocks = s.clocks := by
  unfold State.takeLine
  extract_lets t line
  split <;> rfl

@[simp] theorem State.takeWindow_clocks (s : State) (id : Nat) (r : Rider) : (s.takeWindow id r).clocks = s.clocks := by
  simp [State.takeWindow]

@[simp] theorem State.leaveCar_clocks (s : State) (id : Nat) (r : Rider) : (s.leaveCar id r).clocks = s.clocks := by
  unfold State.leaveCar
  repeat' split
  all_goals simp

@[simp] theorem State.endStep_clocks (s : State) (c : SweepClass) : (s.endStep c).clocks = s.clocks := by
  simp [State.endStep]

@[simp] theorem State.chargeCarriages_clocks (s : State) (c : SweepClass) :
    (s.chargeCarriages c).clocks = s.clocks := by
  simp [State.chargeCarriages]

@[simp] theorem State.dropLost_clocks (s : State) : s.dropLost.clocks = s.clocks :=
  foldl_clocks (fun t k => t.setRing_clocks k false) _ s

@[simp] theorem State.joinRing_clocks (s : State) (c : SweepClass) : (s.joinRing c).clocks = s.clocks := by
  unfold State.joinRing
  repeat' split
  all_goals rfl

end Sys2Proof.Machine
end

section
/-! PROOFS. Step boundaries, budget windows, how classes stop and resume, ring changes, ingress points and rates (R20, R82, R110,
R325, R338-R344). -/

namespace Sys2Proof.Machine

/-! ## Classes and time -/

theorem State.classSt_of_clocks {s t : State} (h : t.clocks = s.clocks) (c : SweepClass) : t.classSt c = s.classSt c := by
  simp only [State.clocks, Prod.mk.injEq] at h
  obtain ⟨-, hq, hs, hd⟩ := h
  cases c with
  | quick => exact hq
  | steady => exact hs
  | deep => exact hd

theorem State.clk_of_clocks {s t : State} (h : t.clocks = s.clocks) : t.clk = s.clk := congrArg Prod.fst h

@[simp] theorem State.classSt_setClass_self (s : State) (c : SweepClass) (x : ClassSt) : (s.setClass c x).classSt c = x := by
  cases c <;> rfl

/-- What a boundary leaves of a class and of time but for the step it counts: how far the class is, whether it stands, and
the time. -/
def State.tick (s : State) (c : SweepClass) : Nat × Bool × Clk := ((s.classSt c).step, (s.classSt c).stopped, s.clk)

theorem State.tick_of_clocks {s t : State} (h : t.clocks = s.clocks) (c : SweepClass) : t.tick c = s.tick c := by
  simp only [State.tick, State.classSt_of_clocks h, State.clk_of_clocks h]

theorem State.tick_setClass (s : State) (c : SweepClass) (x : ClassSt) :
    (s.setClass c x).tick c = (x.step, x.stopped, s.clk) := by
  simp [State.tick]

theorem State.sweepStep_tick (s : State) (c : SweepClass) (step : Nat) : (s.sweepStep c step).tick c = s.tick c := by
  unfold State.sweepStep
  split
  · exact State.tick_of_clocks (s.stampItems_clocks c step 0) c
  · extract_lets b _ t rows p busy v _
    have hb : b.1.tick c = s.tick c := by
      refine State.tick_of_clocks ?_ c
      unfold b
      split
      · rfl
      · exact State.boardAll_clocks c step _ _
    have ht : t.tick c = s.tick c := by
      unfold t
      split
      · exact (State.tick_setClass b.1 c _).trans hb
      · exact hb
    have hv : v.tick c = s.tick c := by
      refine (State.tick_of_clocks ?_ c).trans ht
      have hp : p.1.clocks = t.clocks := by
        unfold p
        split
        · rfl
        · exact State.postRows_clocks c rows [] _
      exact (State.chargeCarriages_clocks _ c).trans ((State.stampItems_clocks _ c step _).trans hp)
    refine (State.tick_of_clocks (State.visitBand_clocks _ c step) c).trans ?_
    exact (State.tick_setClass v c _).trans hv

theorem State.turnWindow_clocks (s : State) (w : Nat) :
    (s.turnWindow w).clocks = { s with clk := { s.clk with win := w } }.clocks :=
  foldl_clocks State.turnBudget_clocks _ _

theorem State.resumeClass_tick (s : State) (c : SweepClass) : (s.resumeClass c).tick c = ((s.classSt c).step, false, s.clk) :=
  s.tick_setClass c _

/-- An instruction or event goes on to a state of which something holds. -/
def AnswerTo (P : State → Prop) : Host.Outcome State Fault Refusal → Prop
  | .next r => P r
  | .fault _ => False
  | .refused _ => False

theorem AnswerTo.exists_next {P : State → Prop} {a : Host.Outcome State Fault Refusal} (h : AnswerTo P a) :
    ∃ r, a = .next r ∧ P r := by
  cases a with
  | next r => exact ⟨r, rfl, h⟩
  | fault _ => exact h.elim
  | refused _ => exact h.elim

/-- The time after a boundary: a window begins at the first quick step of one that has not begun (R340). -/
def State.clkAfter (s : State) (c : SweepClass) : Clk :=
  let step := (s.classSt c).step + 1
  if c = .quick ∧ step % 65536 = 0 ∧ s.clk.win ≠ step / 65536 then { s.clk with win := step / 65536 } else s.clk

/-- A boundary that may fall: the class has counted one step, and has resumed where it was due to. -/
theorem execStepBoundary_tick {s : State} {c : SweepClass} (hm : s.mayStep c = true) :
    AnswerTo (fun r => r.tick c = ((s.classSt c).step + 1, (s.classSt c).stopped && !s.resumeDue c, s.clkAfter c))
      (execStepBoundary c s) := by
  rw [execStepBoundary, if_neg (by simp [hm])]
  extract_lets s0 idle s1 step _ s2 s3 s4 s5 s6 x
  have h0 : s0.tick c = ((s.classSt c).step, (s.classSt c).stopped && !s.resumeDue c, s.clk) := by
    unfold s0
    split
    · next hr => simp [hr, s.resumeClass_tick c]
    · next hr => simp [hr, State.tick]
  have h1 : s1.tick c = s0.tick c := State.tick_of_clocks (s0.endStep_clocks c) c
  rw [h0] at h1
  simp only [State.tick, Prod.mk.injEq] at h1
  obtain ⟨hstep, hstop, hclk⟩ := h1
  have hstep1 : step = (s.classSt c).step + 1 := congrArg (· + 1) hstep
  have h2 : s2.tick c = (step, (s.classSt c).stopped && !s.resumeDue c, s.clk) :=
    (s1.tick_setClass c _).trans (by rw [hstop, hclk])
  have hclk2 : s2.clk = s.clk := hclk
  have h3 : s3.tick c = (step, (s.classSt c).stopped && !s.resumeDue c, s.clkAfter c) := by
    unfold s3 State.clkAfter
    rw [hclk2, ← hstep1]
    dsimp only
    split
    · refine (State.tick_of_clocks (s2.turnWindow_clocks _) c).trans ?_
      simp only [State.tick, Prod.mk.injEq] at h2 ⊢
      obtain ⟨hs, hf, -⟩ := h2
      exact ⟨hs, hf, by rw [hclk2]⟩
    · exact h2
  have h4 : s4.tick c = s3.tick c := by
    refine State.tick_of_clocks ?_ c
    unfold s4
    split
    · exact s3.dropLost_clocks
    · rfl
  have h5 : s5.tick c = s4.tick c := State.tick_of_clocks ((State.answerRidq_clocks _ c).trans (s4.joinRing_clocks c)) c
  have h6 : s6.tick c = s5.tick c := by
    unfold s6
    split
    · rfl
    · exact s5.sweepStep_tick c step
  rw [← hstep1, ← h3, ← h4, ← h5, ← h6]
  change (if x.stopped then s6 else s6.setClass c { x with idle := if idle then x.idle + 1 else 0 }).tick c = s6.tick c
  split
  · rfl
  · exact s6.tick_setClass c _

/-! ## Sorting -/

theorem insertBy_perm {α : Type} (lt : α → α → Bool) (x : α) (l : List α) : (insertBy lt x l).Perm (x :: l) := by
  induction l with
  | nil => exact .refl _
  | cons y l ih =>
    unfold insertBy
    split
    · exact .refl _
    · exact (ih.cons y).trans (.swap x y l)

theorem sortBy_perm {α : Type} (lt : α → α → Bool) (l : List α) : (sortBy lt l).Perm l := by
  suffices h : ∀ acc, (l.foldl (fun acc x => insertBy lt x acc) acc).Perm (acc ++ l) from h []
  induction l with
  | nil => exact fun acc => by simp
  | cons x l ih =>
    exact fun acc => (ih _).trans (((insertBy_perm lt x acc).append_right l).trans List.perm_middle.symm)

theorem nodup_eraseDups (l : List Nat) : l.eraseDups.Nodup := by
  induction hn : l.length using Nat.strong_induction_on generalizing l with
  | _ n ih =>
    cases l with
    | nil => simp
    | cons x l =>
      rw [List.eraseDups_cons, List.nodup_cons]
      refine ⟨by simp, ih _ ?_ _ rfl⟩
      rw [← hn]
      exact Nat.lt_succ_of_le (List.length_filter_le _ l)

/-! ## Keys -/

theorem Assoc.get?_of_not_mem_keys {α : Type} {m : Assoc α} {n : Nat} (h : n ∉ m.keys) : m.get? n = none := by
  induction m with
  | nil => rfl
  | cons p m ih =>
    simp only [Assoc.keys, List.map_cons, List.mem_cons, not_or] at h
    obtain ⟨hp, hm⟩ := h
    rw [Assoc.get?, if_neg (Ne.symm hp)]
    exact ih hm

/-! ## Budgets -/

/-- A balance as its register takes it: 32 bits signed (R340). -/
def clampBalance (v : Int) : Int := max (-(2 ^ 31)) (min v (2 ^ 31 - 1))

theorem sintOf_toBitsN_clamp (v : Int) : sintOf 32 (toBitsN 32 (clampBalance v)) = clampBalance v := by
  unfold sintOf toBitsN clampBalance
  split <;> omega

theorem toBitsN_lt (v : Int) : toBitsN 32 v < 2 ^ 32 := by
  unfold toBitsN
  omega

theorem tbud_of_lt {t : Nat} (ht : t < 1024) (k : Nat) : tbud t k = 0x1000 + (4 * t + k) := by
  unfold tbud
  omega

theorem State.limitOf_of_lt (s : State) {t : Nat} (ht : t < 1024) (k : Nat) :
    s.limitOf t k = s.power.limit.getD (4 * t + k) 0xFFFFFFFF := by
  rw [State.limitOf, Nat.mod_eq_of_lt ht]

theorem State.limitOf_setBalance (s : State) (t k : Nat) (v : Int) (t' k' : Nat) :
    (s.setBalance t k v).limitOf t' k' = s.limitOf t' k' := rfl

theorem State.reg_setBalance_self (s : State) (t k : Nat) (v : Int) : ((s.setBalance t k v).reg (tbud t k)).toNat / 2 ^ 32 =
    toBitsN 32 (clampBalance v) := by
  have hb := toBitsN_lt (clampBalance v)
  have hl : (s.reg (tbud t k)).toNat % 2 ^ 32 < 2 ^ 32 := Nat.mod_lt _ (by decide)
  rw [State.setBalance, State.reg_setReg_self, BitVec.toNat_ofNat, Nat.mod_eq_of_lt]
  · change ((s.reg (tbud t k)).toNat % 2 ^ 32 + 2 ^ 32 * toBitsN 32 (clampBalance v)) / 2 ^ 32 = _
    rw [Nat.add_mul_div_left _ _ (by decide), Nat.div_eq_of_lt hl, Nat.zero_add]
  · change (s.reg (tbud t k)).toNat % 2 ^ 32 + 2 ^ 32 * toBitsN 32 (clampBalance v) < 2 ^ 64
    omega

theorem State.balanceOf_setBalance (s : State) {t k : Nat} (v : Int) (hl : s.limitOf t k ≠ 0xFFFFFFFF) :
    (s.setBalance t k v).balanceOf t k = clampBalance v := by
  rw [State.balanceOf, if_neg (by rwa [State.limitOf_setBalance]), State.reg_setBalance_self, sintOf_toBitsN_clamp]

/-- R339: a charge is taken from a limited balance. -/
theorem State.charge_unlimited {s : State} {t k : Nat} (n : Nat) (h : s.limitOf t k = 0xFFFFFFFF) : s.charge t k n = s :=
  if_pos h

theorem State.charge_limited {s : State} {t k : Nat} (n : Nat) (h : s.limitOf t k ≠ 0xFFFFFFFF) :
    s.charge t k n = s.setBalance t k (s.balanceOf t k - n) :=
  if_neg h

/-! ## The refill -/

/-- What the refill of budget `n` reads: its register, its limit, the write that touched it last, and the cycle. -/
def State.budget (s : State) (n : Nat) : Word × Nat × Option (Nat × Nat) × Nat :=
  (s.reg (0x1000 + n), s.power.limit.getD n 0xFFFFFFFF, s.power.written.get? n, s.clk.cyc)

theorem State.refillLimit_of_budget {s s' : State} {n : Nat} (h : s'.budget n = s.budget n) :
    s'.refillLimit n = s.refillLimit n := by
  simp only [State.budget, Prod.mk.injEq] at h
  obtain ⟨hreg, -, hwritten, hcyc⟩ := h
  simp only [State.refillLimit, hreg, hwritten, hcyc]

theorem State.limitOf_of_budget {s s' : State} {t k : Nat} (ht : t < 1024)
    (h : s'.budget (4 * t + k) = s.budget (4 * t + k)) : s'.limitOf t k = s.limitOf t k := by
  simp only [State.budget, Prod.mk.injEq] at h
  obtain ⟨-, hlimit, -, -⟩ := h
  rw [s'.limitOf_of_lt ht, s.limitOf_of_lt ht, hlimit]

theorem State.balanceOf_of_budget {s s' : State} {t k : Nat} (ht : t < 1024)
    (h : s'.budget (4 * t + k) = s.budget (4 * t + k)) : s'.balanceOf t k = s.balanceOf t k := by
  have hlimit := State.limitOf_of_budget ht h
  simp only [State.budget, Prod.mk.injEq] at h
  obtain ⟨hreg, -, -, -⟩ := h
  rw [State.balanceOf, State.balanceOf, hlimit, tbud_of_lt ht, hreg]

theorem State.budget_setReg_ne (s : State) {m n : Nat} (v : Word) (h : m ≠ 0x1000 + n) :
    (s.setReg m v).budget n = s.budget n := by
  rw [State.budget, State.reg_setReg_ne _ _ h.symm]
  rfl

/-- The refill of one budget leaves the others. -/
theorem State.budget_turnBudget_ne (s : State) {m n : Nat} (hm : m < 0x1000) (h : m ≠ n) :
    (s.turnBudget m).budget n = s.budget n := by
  have hset : { s with power := { s.power with limit := s.power.limit.put m (s.refillLimit m) 0xFFFFFFFF } }.budget n =
      s.budget n := by
    simp [State.budget, Assoc.getD_put_ne _ _ _ _ h.symm, State.reg]
  unfold State.turnBudget
  dsimp only
  split
  · exact (State.budget_setReg_ne _ _ (by omega)).trans hset
  · exact (State.budget_setReg_ne _ _ (by rw [tbud_of_lt (by omega)]; omega)).trans hset

theorem State.budget_foldl_turnBudget (l : List Nat) (s : State) {n : Nat} (hl : ∀ m ∈ l, m < 0x1000 ∧ m ≠ n) :
    (l.foldl State.turnBudget s).budget n = s.budget n := by
  induction l generalizing s with
  | nil => rfl
  | cons m l ih =>
    obtain ⟨hm, hne⟩ := hl m List.mem_cons_self
    exact (ih _ fun m' h => hl m' (List.mem_cons_of_mem m h)).trans (s.budget_turnBudget_ne hm hne)

/-- A balance after its refill: the limit and the deficit it had, clamped, or the greatest value (R340). -/
def refilled (limit : Nat) (old : Int) : Int :=
  if limit = 0xFFFFFFFF then 0x7FFFFFFF else clampBalance (limit + min old 0)

theorem State.balanceOf_unlimited {s : State} {t k : Nat} (h : s.limitOf t k = 0xFFFFFFFF) : s.balanceOf t k = 0x7FFFFFFF :=
  if_pos h

theorem State.limitOf_setReg (s : State) (n : Nat) (v : Word) (t k : Nat) : (s.setReg n v).limitOf t k = s.limitOf t k := rfl

/-- What the refill of a budget leaves: its limit and balance. -/
theorem State.turnBudget_self (s : State) {t k : Nat} (ht : t < 1024) (hk : k < 4) :
    (s.turnBudget (4 * t + k)).limitOf t k = s.refillLimit (4 * t + k) ∧
    (s.turnBudget (4 * t + k)).balanceOf t k = refilled (s.refillLimit (4 * t + k)) (s.balanceOf t k) := by
  unfold State.turnBudget refilled
  extract_lets t' k' old l _ s1
  have hlimit : s1.limitOf t k = s.refillLimit (4 * t + k) := by
    rw [s1.limitOf_of_lt ht]
    exact Assoc.getD_put_self _ _ _ _
  have ht' : t' = t := by omega
  have hk' : k' = k := by omega
  have hold : old = s.balanceOf t k := by rw [← ht', ← hk']
  have hl : l = s.refillLimit (4 * t + k) := rfl
  clear_value t' k' old l s1
  subst ht' hk' hold hl
  split
  · next h =>
    have hset := fun v => (s1.limitOf_setReg (0x1000 + (4 * t' + k')) v t' k').trans hlimit
    exact ⟨hset _, State.balanceOf_unlimited ((hset _).trans h)⟩
  · next h => exact ⟨(s1.limitOf_setBalance _ _ _ _ _).trans hlimit, s1.balanceOf_setBalance _ (hlimit ▸ h)⟩

/-- The budgets that turn when a window begins. -/
def State.turning (s : State) : List Nat :=
  ((s.regs.keys.filter fun n => decide (0x1000 ≤ n) && decide (n < 0x2000)).map fun n => n - 0x1000) ++
    (s.power.limit.keys ++ s.power.written.keys).filter fun n => decide (n < 0x1000)

theorem State.turning_lt {s : State} {n : Nat} (h : n ∈ s.turning) : n < 0x1000 := by
  simp only [State.turning, List.mem_append, List.mem_map, List.mem_filter, Bool.and_eq_true, decide_eq_true_eq] at h
  obtain ⟨m, ⟨-, -, hm⟩, rfl⟩ | ⟨-, h⟩ := h
  · omega
  · exact h

/-- A budget that does not turn stands as at reset: register and limit (R341). -/
theorem State.budget_of_not_turning {s : State} {n : Nat} (hn : n < 0x1000) (h : n ∉ s.turning) :
    s.budget n = (0x7FFFFFFFFFFFFFFF, 0xFFFFFFFF, none, s.clk.cyc) := by
  simp only [State.turning, List.mem_append, List.mem_map, List.mem_filter, Bool.and_eq_true, decide_eq_true_eq, not_or,
    not_and, not_exists] at h
  obtain ⟨hreg, hrest⟩ := h
  have hreg : s.regs.get? (0x1000 + n) = none := by
    refine Assoc.get?_of_not_mem_keys fun hk => hreg (0x1000 + n) ⟨hk, by omega, by omega⟩ (by omega)
  have hlimit : s.power.limit.get? n = none := Assoc.get?_of_not_mem_keys fun hk => hrest (.inl hk) hn
  have hwritten : s.power.written.get? n = none := Assoc.get?_of_not_mem_keys fun hk => hrest (.inr hk) hn
  have hreset : regReset (0x1000 + n) = 0x7FFFFFFFFFFFFFFF := by
    simp (disch := omega) only [regReset, if_neg, if_pos]
  simp only [State.budget, State.reg, Assoc.getD, hreg, hlimit, hwritten, hreset, Option.getD_none]

/-- Of budgets that turn one after another each turns once. -/
theorem State.foldl_turnBudget_self {l : List Nat} (s : State) {t k : Nat} (ht : t < 1024) (hk : k < 4)
    (hl : ∀ m ∈ l, m < 0x1000) (hnd : l.Nodup) (hn : 4 * t + k ∈ l) :
    (l.foldl State.turnBudget s).limitOf t k = s.refillLimit (4 * t + k) ∧
    (l.foldl State.turnBudget s).balanceOf t k = refilled (s.refillLimit (4 * t + k)) (s.balanceOf t k) := by
  obtain ⟨l₁, l₂, rfl⟩ := List.append_of_mem hn
  have hne : ∀ m ∈ l₁ ++ l₂, m < 0x1000 ∧ m ≠ 4 * t + k := fun m hm =>
    ⟨hl m (List.perm_middle.mem_iff.mpr (List.mem_cons_of_mem _ hm)), fun he => (List.nodup_middle.mp hnd).notMem (he ▸ hm)⟩
  have h₁ := State.budget_foldl_turnBudget l₁ s fun m hm => hne m (List.mem_append_left _ hm)
  have h₂ := State.budget_foldl_turnBudget l₂ ((l₁.foldl State.turnBudget s).turnBudget (4 * t + k))
    fun m hm => hne m (List.mem_append_right _ hm)
  obtain ⟨hlimit, hbalance⟩ := (l₁.foldl State.turnBudget s).turnBudget_self ht hk
  rw [List.foldl_append, List.foldl_cons, State.limitOf_of_budget ht h₂, State.balanceOf_of_budget ht h₂, hlimit, hbalance,
    State.refillLimit_of_budget h₁, State.balanceOf_of_budget ht h₁]
  exact ⟨rfl, rfl⟩

/-- A window that begins leaves every budget with its refill, as one that does not turn has it already (R340). -/
theorem State.turnWindow_budget (s : State) (w : Nat) {t k : Nat} (ht : t < 1024) (hk : k < 4) :
    (s.turnWindow w).limitOf t k = s.refillLimit (4 * t + k) ∧
    (s.turnWindow w).balanceOf t k = refilled (s.refillLimit (4 * t + k)) (s.balanceOf t k) := by
  have hn : 4 * t + k < 0x1000 := by omega
  have hp := sortBy_perm (fun a b => decide (a < b)) s.turning.eraseDups
  have hmem : ∀ m, m ∈ sortBy (fun a b => decide (a < b)) s.turning.eraseDups ↔ m ∈ s.turning := fun m =>
    hp.mem_iff.trans List.mem_eraseDups
  have hlt : ∀ m ∈ sortBy (fun a b => decide (a < b)) s.turning.eraseDups, m < 0x1000 := fun m hm =>
    State.turning_lt ((hmem m).mp hm)
  by_cases ht' : 4 * t + k ∈ s.turning
  · exact State.foldl_turnBudget_self { s with clk := { s.clk with win := w } } ht hk hlt
      (hp.nodup_iff.mpr (nodup_eraseDups s.turning)) ((hmem _).mpr ht')
  · have hb : (s.turnWindow w).budget (4 * t + k) = s.budget (4 * t + k) :=
      State.budget_foldl_turnBudget _ { s with clk := { s.clk with win := w } } fun m hm =>
        ⟨hlt m hm, fun he => ht' (he ▸ (hmem m).mp hm)⟩
    have hreset := State.budget_of_not_turning hn ht'
    have hlimit : s.limitOf t k = 0xFFFFFFFF := (s.limitOf_of_lt ht k).trans (congrArg (fun b => b.2.1) hreset)
    have hrefill : s.refillLimit (4 * t + k) = 0xFFFFFFFF := by
      simp only [State.budget, Prod.mk.injEq] at hreset
      obtain ⟨hreg, -, hwritten, -⟩ := hreset
      simp [State.refillLimit, hreg, hwritten]
    rw [State.limitOf_of_budget ht hb, State.balanceOf_of_budget ht hb, hlimit, hrefill, State.balanceOf_unlimited hlimit]
    exact ⟨rfl, (if_pos rfl).symm⟩

/-! ## How a class stops and resumes -/

theorem execBudgetWindowBoundary_due {s : State} (h : s.windowDue = true) :
    execBudgetWindowBoundary s = execStepBoundary .quick s := if_pos h

theorem State.windowDue_of {s : State} (hstep : (s.sweep.quick.step + 1) % 65536 = 0)
    (hwin : s.clk.win ≠ (s.sweep.quick.step + 1) / 65536) : s.windowDue = true := by
  simp [State.windowDue, hstep, hwin]

theorem execClassStop_held {s : State} {c : SweepClass} (hheld : s.classHeld c = true) (haboard : s.aboard c = [])
    (hitems : s.waitingItems c = []) (hstop : (s.classSt c).stopped = false) :
    execClassStop c s = .next (s.setClass c { s.classSt c with stopped := true, idle := 0 }) :=
  if_pos (by simp [hheld, haboard, hitems, hstop])

theorem execIdlePause_due {s : State} {c : SweepClass} (hon : pauseOn s c = true) (hidle : 65536 ≤ (s.classSt c).idle)
    (hnone : s.classIdle c = true) (hstop : (s.classSt c).stopped = false) :
    execIdlePause c s = .next (s.setClass c { s.classSt c with stopped := true }) :=
  if_pos (by simp [hon, hidle, hnone, hstop])

theorem State.resumeDue_of {s : State} {c : SweepClass} (hstop : (s.classSt c).stopped = true) (hheld : s.classHeld c = false)
    (h : s.classIdle c = false ∨ (s.classSt c).idle < 65536) : s.resumeDue c = true := by
  simpa [State.resumeDue, hstop, hheld] using h

theorem execClassResume_due {s : State} {c : SweepClass} (h : s.resumeDue c = true) :
    execClassResume c s = .next (s.resumeClass c) := by
  rw [execClassResume, if_pos h]

/-! ## How a ring changes class -/

theorem execRingClassChange_free {s : State} {k : Nat} {quick : Bool} (hreq : s.sweep.ringReq = some (k, quick))
    (hfree : s.ringFree k = true) :
    execRingClassChange k s = .next { s with sweep := { s.sweep with ringGo := true } } := by
  simp [execRingClassChange, hreq, hfree]

theorem State.ringQuick_setRing (s : State) (k : Nat) (quick : Bool) : (s.setRing k quick).ringQuick k = quick := by
  have hk : k % 64 < 64 := Nat.mod_lt _ (by decide)
  cases quick <;> simp [State.ringQuick, State.setRing, hk]

theorem State.joinRing_granted {s : State} {k : Nat} {quick : Bool} (hreq : s.sweep.ringReq = some (k, quick))
    (hgo : s.sweep.ringGo = true) (hfree : s.ringFree k = true) :
    (s.joinRing (if quick then .quick else .steady)).sweep.ringReq = none ∧
      (s.joinRing (if quick then .quick else .steady)).ringQuick k = quick := by
  unfold State.joinRing
  simp only [hreq, hgo, hfree, BEq.rfl, Bool.and_self, if_true]
  exact ⟨trivial, s.ringQuick_setRing k quick⟩

/-! ## One token at an ingress point -/

theorem nextTenant_singleton (turn t : Nat) : nextTenant turn [t] = some t := by
  by_cases h : turn < t <;> simp [nextTenant, h]

/-- The only token of a point can pass it. -/
def State.passes (s : State) (p : Nat) (i : Ingress) : Bool :=
  s.canEnter i && (s.isOver i || ((s.inBudget i.tenant 1 || s.noBudget i.tenant 1) && decide (256 ≤ s.creditOf p)))

theorem State.fronts_singleton (i : Ingress) : State.fronts [i] = [i] := rfl

theorem execIngressBucketPass_waits {s : State} {p : Nat} {i : Ingress} (hq : (s.ingress.getD p {}).q = [i])
    (h : s.passes p i = false) : execIngressBucketPass p s = .next s := by
  unfold execIngressBucketPass
  extract_lets point can
  have hcan : can = [] := by
    unfold can point
    rw [hq, State.fronts_singleton]
    exact List.filter_singleton.trans (congrArg (fun b => bif b then [i] else []) h)
  rw [hcan]
  rfl

theorem execIngressBucketPass_passes {s : State} {p : Nat} {i : Ingress} (hq : (s.ingress.getD p {}).q = [i])
    (h : s.passes p i = true) :
    let s1 := { s with ingress := s.ingress.set p { q := [], turn := i.tenant } }
    execIngressBucketPass p s = .next (
      if s.isOver i then s1
      else if s.noBudget i.tenant 1 then (s1.spendCredit p 256).refuseToken i
      else ((s1.spendCredit p 256).charge i.tenant 1 1).enter i) := by
  intro s1
  unfold execIngressBucketPass
  extract_lets point can
  have hcan : can = [i] := by
    unfold can point
    rw [hq, State.fronts_singleton]
    exact List.filter_singleton.trans (congrArg (fun b => bif b then [i] else []) h)
  have hpoint : point.q = [i] := hq
  rw [hcan, List.map_singleton, nextTenant_singleton]
  simp only [List.find?_cons, BEq.rfl, hpoint, List.erase_cons_head]
  split <;> rfl

/-! ## The limit that a refill takes -/

theorem State.refillLimit_now {s : State} {n : Nat}
    (h : s.power.written.get? n = none ∨ ∃ c old, s.power.written.get? n = some (c, old) ∧ c ≠ s.clk.cyc) :
    s.refillLimit n = (s.reg (0x1000 + n)).toNat % 2 ^ 32 := by
  unfold State.refillLimit
  obtain h | ⟨c, old, h, hne⟩ := h
  · rw [h]
  · rw [h]
    exact if_neg hne

theorem State.refillLimit_sameCycle {s : State} {n old : Nat} (h : s.power.written.get? n = some (s.clk.cyc, old)) :
    s.refillLimit n = old := by
  unfold State.refillLimit
  rw [h]
  exact if_pos rfl

/-! ## Rates -/

theorem State.units_setRate (s : State) (k r : Nat) : (s.setRate k r).units = s.units := rfl

theorem State.units_rateQuarter (s : State) (q : Nat) : (s.rateQuarter q).units = s.units :=
  foldl_keeps State.units (fun t j => by rw [State.units_setRate, State.spendCredit_units]) _ s

theorem State.rated_answer {s : State} (t : State) (n : Nat) (ht : t.units = s.units) :
    AnswerTo (fun r => r.power.rated = n ∧ r.units = s.units)
      (.next { t with power := { t.power with rated := n } }) := ⟨rfl, ht⟩

theorem execBucketRateRecompute_due {s : State} (h : s.power.rated < s.sweep.quick.step) :
    AnswerTo (fun r => r.power.rated = s.sweep.quick.step ∧ r.units = s.units) (execBucketRateRecompute s) := by
  unfold execBucketRateRecompute
  extract_lets now t
  have ht : t.units = s.units := foldl_keeps State.units State.units_rateQuarter _ s
  clear_value t
  rw [if_pos h]
  exact State.rated_answer t now ht

end Sys2Proof.Machine

namespace Sys2Proof.Spec
open Machine

/-- Settles O41: each event is the operation above that it names. -/
theorem sweepEvents : Obligations.SweepEvents := by
  unfold Obligations.SweepEvents
  refine ⟨?boundary, fun s c => execClassStop_held, fun s c => execIdlePause_due, ?resume,
    fun s k quick => execRingClassChange_free, ?join, ?window, ?refill, ?limit, ?charge, ?ingress,
    fun s h => (execBucketRateRecompute_due h).exists_next⟩
  case boundary =>
    intro s c hm
    obtain ⟨r, hr, ht⟩ := (execStepBoundary_tick hm).exists_next
    simp only [State.tick, Prod.mk.injEq] at ht
    obtain ⟨hstep, hstop, -⟩ := ht
    exact ⟨r, hr, hstep, hstop⟩
  case resume => exact fun s c hstop hheld h => execClassResume_due (State.resumeDue_of hstop hheld h)
  case join =>
    rintro s k quick c hreq hgo hfree - rfl
    exact State.joinRing_granted hreq hgo hfree
  case window =>
    intro s hstep hwin hm
    have hdue := execBudgetWindowBoundary_due (State.windowDue_of hstep hwin)
    obtain ⟨r, hr, ht⟩ := (execStepBoundary_tick hm).exists_next
    simp only [State.tick, Prod.mk.injEq] at ht
    obtain ⟨hcount, -, hclk⟩ := ht
    refine ⟨hdue, r, hdue.trans hr, ?_, hcount⟩
    rw [hclk]
    exact congrArg Clk.win (if_pos ⟨rfl, hstep, hwin⟩)
  case refill =>
    intro s w t k ht hk
    have hclk : (s.turnWindow w).clk = { s.clk with win := w } := State.clk_of_clocks (s.turnWindow_clocks w)
    obtain ⟨hlimit, hbalance⟩ := s.turnWindow_budget w ht hk
    exact ⟨congrArg Clk.win hclk, hlimit, hbalance⟩
  case limit =>
    intro s t k ht hk
    refine ⟨fun h => ?_, fun old h => State.refillLimit_sameCycle h⟩
    rw [tbud_of_lt ht]
    exact State.refillLimit_now h
  case charge =>
    intro s t k n ht hk
    refine ⟨State.charge_unlimited n, fun h => ?_⟩
    rw [State.charge_limited n h]
    exact ⟨s.limitOf_setBalance t k _ t k, s.balanceOf_setBalance _ h⟩
  case ingress =>
    intro s p i hq hcan
    have hpass := execIngressBucketPass_passes (s := s) (p := p) hq
    refine ⟨fun hover hin hno hcred => ?_, fun hover hno hcred => ?_, fun hover h => ?_, fun hover => ?_⟩
    · refine (hpass (by simp [State.passes, hcan, hin, hcred])).trans (congrArg Host.Outcome.next ?_)
      exact (if_neg (by simp [hover])).trans (if_neg (by simp [hno]))
    · refine (hpass (by simp [State.passes, hcan, hno, hcred])).trans (congrArg Host.Outcome.next ?_)
      exact (if_neg (by simp [hover])).trans (if_pos hno)
    · refine execIngressBucketPass_waits hq ?_
      obtain ⟨hin, hno⟩ | hcred := h
      · simp [State.passes, hover, hin, hno]
      · simp [State.passes, hover, hcred]
    · exact (hpass (by simp [State.passes, hcan, hover])).trans (congrArg Host.Outcome.next (if_pos hover))

end Sys2Proof.Spec
end

section
/-! PROOFS. Tokens that land, turn corners, pulse, configure and enter from the host (R28, R57, R61, R62, R134, R191, R318). -/

namespace Sys2Proof.Machine

variable {s : State} {u : Nat} {x : UnitSt}

/-- An event of a placed section takes place. -/
theorem inSection_placed (hx : s.placed? u = some x) (f : UnitSt → State) : inSection s u f = .next (f x) := by
  simp only [inSection, hx]

/-! ## Routes and elements of a unit -/

@[simp] theorem UnitSt.route_setRoute_self (x : UnitSt) (i : Nat) (st : RouteSt) : (x.setRoute i st).route i = st :=
  Assoc.getD_set_self x.flight i st {}

@[simp] theorem UnitSt.elem_setRoute (x : UnitSt) (i e : Nat) (st : RouteSt) : (x.setRoute i st).elem e = x.elem e := rfl

@[simp] theorem UnitSt.route_setElem (x : UnitSt) (i e : Nat) (y : Elem) : (x.setElem e y).route i = x.route i := rfl

@[simp] theorem State.elem_setUnit_self (s : State) (u e : Nat) (x : UnitSt) : (s.setUnit u x).elem u e = x.elem e :=
  State.elem_of_unit (s.unit?_setUnit_self u x) e

/-! ## The head of a route (R28, R57, R318) -/

section head
variable {i : Nat} {r : Route} {t : Token} {y : UnitSt} (hx : s.unit? u = some x) (hr : x.cfg.routes[i]? = some r)
include hx hr

theorem State.arriveRoute_lands (hhead : State.routeHead x i r = some (t, y)) (hadm : State.Route.refuses r t = false)
    (hturn : r.turn = 0) (hroom : State.endRoom x r.dst = true) : s.arriveRoute u i = s.land u y r.dst t := by
  simp [State.arriveRoute, hx, hr, hhead, hadm, hturn, hroom]

theorem State.arriveRoute_diverts (hhead : State.routeHead x i r = some (t, y)) (href : State.Route.refuses r t = true)
    (hroom : State.endRoom x r.divert = true) : s.arriveRoute u i = s.land u y r.divert t := by
  simp [State.arriveRoute, hx, hr, hhead, href, hroom]

/-- A data token joins a corner turn that it does not fill. -/
theorem State.arriveRoute_gathers (hhead : State.routeHead x i r = some (t, y)) (hadm : State.Route.refuses r t = false)
    (hturn : r.turn ≠ 0) (horder : (y.route i).order = []) (hdata : t.isData = true)
    (hfill : (y.route i).turn.length + 1 < r.turn * r.turn) :
    s.arriveRoute u i = s.setUnit u
      { y.setRoute i { y.route i with turn := (y.route i).turn ++ [t] } with quietAt := s.clk.cyc } := by
  simp [State.arriveRoute, hx, hr, hhead, hadm, hturn, horder, hdata, Nat.ne_of_lt hfill]

theorem State.emitTurn_lands {rest : List Token} (horder : (x.route i).order = t :: rest)
    (hroom : State.endRoom x r.dst = true) :
    s.emitTurn u i = s.land u (x.setRoute i { x.route i with order := rest }) r.dst t := by
  simp [State.emitTurn, hx, hr, horder, hroom]

end head

/-! ## Pulses (R62, R134) -/

theorem takePulse_free (r : Route) {st : RouteSt} (h : st.pulses ≠ 0) :
    takePulse s u x r st = some { st with pulses := st.pulses - 1 } := if_pos h

theorem takePulse_fenced {r : Route} {st : RouteSt} {n : Nat} {rest : List Nat} (hfree : st.pulses = 0)
    (hst : st.fenced = n :: rest) (hpast : fencesPast s u x r n = true) :
    takePulse s u x r st = some { st with fenced := rest } := by
  simp [takePulse, hfree, hst, List.findIdx_cons, hpast, listDel]

/-- A pulse taken off a route adds one to its counter. -/
theorem execPulseArrival_taken {i row col ch : Nat} {r : Route} {st : RouteSt} (hx : s.placed? u = some x)
    (hr : x.cfg.routes[i]? = some r) (hdst : r.dst = .chan row col ch) (hch : 8 ≤ ch)
    (htake : takePulse s u x r (x.route i) = some st) :
    execPulseArrival u i s = .next (s.setUnit u ((x.setRoute i st).setElem (x.cfg.elemAt row col)
      ((x.elem (x.cfg.elemAt row col)).addPulse (Fin.ofNat 4 ch) 1))) := by
  rw [execPulseArrival, inSection_placed hx]
  simp [hr, hdst, htake, Nat.not_lt.mpr hch]

/-! ## Configuration tokens (R61, R191) -/

theorem Elem.configure_k (y : Elem) (t : Token) :
    (y.configure t).k =
      if t.coord.toNat < 8 then y.k.set (Fin.ofNat 8 t.coord.toNat) t.payload else y.k := by
  simp only [Elem.configure, Nat.div_eq_zero_iff, OfNat.ofNat_ne_zero, false_or]
  split <;> rfl

theorem execConfigTokenConsume_takes {e ch : Nat} {t : Token} (hx : s.placed? u = some x)
    (hfront : (x.elem e).front (Fin.ofNat 4 ch) = some t) (hcfg : t.isConfig = true) (hfiring : (x.elem e).firing = none)
    (hbusy : (x.elem e).busy ≤ s.clk.cyc) :
    execConfigTokenConsume u e ch s =
      .next (s.setUnit u (x.setElem e (((x.elem e).dropFront (Fin.ofNat 4 ch)).configure t).merge)) := by
  rw [execConfigTokenConsume, inSection_placed hx]
  simp only [hfront, hcfg, hfiring, hbusy, Option.isNone_none, decide_true, Bool.and_self, if_true]

/-! ## Tokens of the host (R72) -/

theorem execIngressToken_waits {n : Nat} {tok : Token} (hx : s.unit? u = some x) (hkind : (x.cfg.bindCfg n).kind = .host)
    (hphase : x.phase = .running ∨ ∃ a, x.phase = .frozen a false) :
    execIngressToken u n tok s = .next (s.deliverTo 13 u n [tok]) := by
  obtain hphase | ⟨a, hphase⟩ := hphase <;> simp [execIngressToken, hx, hkind, hphase]

theorem execIngressToken_held {n : Nat} {tok : Token} (hx : s.unit? u = some x) (hkind : (x.cfg.bindCfg n).kind = .host)
    (hrun : x.phase ≠ .running) (hfrozen : ∀ a, x.phase ≠ .frozen a false) :
    execIngressToken u n tok s =
      .next { s with heldIn := s.heldIn ++ [{ tenant := x.tenant, u := u, n := n, tok := tok }] } := by
  unfold execIngressToken
  rw [hx]
  refine (if_neg (by simp [hkind])).trans ?_
  split
  next hphase => exact absurd hphase hrun
  next a hphase => exact absurd hphase (hfrozen a)
  next => rfl

end Sys2Proof.Machine

namespace Sys2Proof.Spec
open Machine

/-- Settles O36: each event is the operation above that it names. -/
theorem tokenEvents : Obligations.TokenEvents := by
  unfold Obligations.TokenEvents
  refine ⟨?arrival, ?emit, ?pulse, ?config, ?ingress⟩
  case arrival =>
    intro s u i x r t y hx hr hhead
    have hunit := placed_unit hx
    have harrive : exec (.channelTokenArrival u i) s = .next (s.arriveRoute u i) := inSection_placed hx _
    refine ⟨fun hadm hturn hroom => ?_, fun href hroom => ?_, fun hadm hturn horder hdata hfill => ?_⟩
    · rw [harrive, State.arriveRoute_lands hunit hr hhead hadm hturn hroom]
    · rw [harrive, State.arriveRoute_diverts hunit hr hhead href hroom]
    · rw [harrive, State.arriveRoute_gathers hunit hr hhead hadm hturn horder hdata hfill]
  case emit =>
    intro s u i x r t rest hx hr horder hroom
    have hemit : exec (.cornerTurnEmit u i) s = .next (s.emitTurn u i) := inSection_placed hx _
    rw [hemit, State.emitTurn_lands (placed_unit hx) hr horder hroom]
  case pulse =>
    intro s u i x r row col ch hx hr hdst hch
    refine ⟨fun hfree => ?_, fun n rest hnone hfenced hpast => ?_⟩
    · refine ⟨_, execPulseArrival_taken hx hr hdst hch (takePulse_free r hfree), by simp, _,
        State.unit?_setUnit_self _ _ _, ?_, by simp⟩
      simpa using Nat.sub_add_cancel (Nat.pos_of_ne_zero hfree)
    · exact ⟨_, execPulseArrival_taken hx hr hdst hch (takePulse_fenced hnone hfenced hpast), by simp, _,
        State.unit?_setUnit_self _ _ _, by simp⟩
  case config =>
    intro s u e ch x t hx hfront hcfg hfiring hbusy
    refine ⟨_, execConfigTokenConsume_takes hx hfront hcfg hfiring hbusy, ?_⟩
    rw [State.elem_setUnit_self, UnitSt.elem_setElem_self, merge_k, Elem.configure_k, dropFront_k]
  case ingress =>
    intro s u n tok x hx hkind
    exact ⟨fun hphase => execIngressToken_waits hx hkind hphase,
      fun hrun hfrozen => ⟨_, execIngressToken_held hx hkind hrun hfrozen, rfl, rfl⟩⟩

end Sys2Proof.Spec
end

section
/-! PROOFS. How a unit drains, part by part, and ends (R40, R72, R126, R379). -/

namespace Sys2Proof.Machine

variable {s : State} {u : Nat} {x : UnitSt}

/-! ## The tile count (R72) -/

theorem execTileCountExpiry_due (hx : s.unit? u = some x) (hphase : x.phase = .running) (hcount : x.count = some 0) :
    execTileCountExpiry u s = .next (s.beginDrain u) := by
  rw [execTileCountExpiry, hx]
  exact if_pos ⟨hphase, hcount⟩

theorem State.unit?_beginDrain (hx : s.unit? u = some x) :
    (s.beginDrain u).unit? u = some { x with phase := .draining } := by
  rw [State.beginDrain, State.unit?_modUnit_self, hx]
  rfl

/-! ## Elements (R40, R72, R126) -/

/-- An element marked as one that drain has passed, its flags in the unit's flag word. -/
def UnitSt.markDrained (x : UnitSt) (e now : Nat) : UnitSt :=
  { x.setElem e { x.elem e with drained := true } with uflag := x.uflag ||| (x.elem e).fl, quietAt := now }

theorem UnitSt.elem_markDrained (x : UnitSt) (e now : Nat) :
    (x.markDrained e now).elem e = { x.elem e with drained := true } := x.elem_setElem_self e _

theorem State.drained_markDrained (h : (s.unit? u).isSome = true) (e now : Nat) :
    ((s.modUnit u fun y => y.markDrained e now).elem u e).drained = true := by
  obtain ⟨y, hy⟩ := Option.isSome_iff_exists.mp h
  have hmark : (s.modUnit u fun y => y.markDrained e now).unit? u = some (y.markDrained e now) := by
    rw [State.unit?_modUnit_self, hy, Option.map_some]
  rw [State.elem_of_unit hmark, UnitSt.elem_markDrained]

@[simp] theorem State.isSome_unit?_withdraw (s : State) (u e : Nat) :
    ((s.withdraw u e).unit? u).isSome = (s.unit? u).isSome := by
  rw [State.withdraw, State.unit?_modUnit_self, Option.isSome_map]

section element
variable {e : Nat} {x' : UnitSt} (hx : s.placed? u = some x) (hphase : x.phase = .draining)
  (hdrained : (x.elem e).drained = false) (he : e < x.cfg.elemCount) (hx' : x' = x.setElem e (x.elem e).selfTake)
  (hin : inputsPassed x' e = true) (hquiet : elemQuiet s u x' e = true)
include hx hphase hdrained he hx' hin hquiet

/-- Requests that wait at tiles are withdrawn first, where requests stand behind them (log 33). -/
theorem execElementDrainPass_withdraws (hreqs : (x'.reqs.any fun r => r.e == e) = true) :
    execElementDrainPass u e s = .next ((s.setUnit u x').withdrawWaiting u e) := by
  subst hx'
  rw [execElementDrainPass, inSection_placed hx]
  exact congrArg Host.Outcome.next
    ((if_neg (by simp [hphase, hdrained, he])).trans ((if_pos (by simp [hin, hquiet])).trans (if_pos hreqs)))

/-- An element with no request of its own sends drain on and is marked. -/
theorem execElementDrainPass_passes {z : UnitSt} (hreqs : ∀ r ∈ x'.reqs, r.e ≠ e) (hsend : sendDrain x' e = some z) :
    execElementDrainPass u e s =
      .next (((s.setUnit u z).withdraw u e).modUnit u fun y => y.markDrained e s.clk.cyc) := by
  subst hx'
  rw [execElementDrainPass, inSection_placed hx]
  refine congrArg Host.Outcome.next ((if_neg (by simp [hphase, hdrained, he])).trans
    ((if_pos (by simp [hin, hquiet])).trans ((if_neg (by simpa using hreqs)).trans ?_)))
  simp only [hsend]
  rfl

end element

/-! ## Bindings (R72) -/

/-- Drain put on the route that leads out of an endpoint. -/
def UnitSt.drainFrom (x : UnitSt) (ep : Endpoint) : UnitSt :=
  match x.cfg.routeFrom ep with
  | some (i, _) => x.setRoute i { x.route i with toks := (x.route i).toks ++ [Token.drain] }
  | none => x

theorem UnitSt.toks_drainFrom {ep : Endpoint} {i : Nat} {r : Route} (h : x.cfg.routeFrom ep = some (i, r)) :
    ((x.drainFrom ep).route i).toks = (x.route i).toks ++ [Token.drain] := by
  simp [UnitSt.drainFrom, h]

@[simp] theorem UnitSt.bindSt_drainFrom (x : UnitSt) (ep : Endpoint) (n : Nat) : (x.drainFrom ep).bindSt n = x.bindSt n := by
  unfold UnitSt.drainFrom
  split <;> rfl

@[simp] theorem UnitSt.bindSt_setBind_self (x : UnitSt) (n : Nat) (b : BindSt) : (x.setBind n b).bindSt n = b :=
  Assoc.getD_set_self x.bind n b {}

theorem execPortDrainPass_passes {n : Nat} (hx : s.placed? u = some x) (hphase : x.phase = .draining)
    (hpassed : (x.bindSt n).passed = false) (hkind : (x.cfg.bindCfg n).kind ≠ .unbound)
    (hbusy : portBusy s u n x = false) :
    execPortDrainPass u n s =
      .next (s.setUnit u ((x.setBind n { x.bindSt n with passed := true }).drainFrom (.port n))) := by
  rw [execPortDrainPass, inSection_placed hx]
  refine congrArg Host.Outcome.next ((if_neg (by simp [hphase, hpassed, hkind, hbusy])).trans ?_)
  rfl

/-! ## The end of a unit (R40, R72, R379) -/

theorem State.endSnapshot_unasked (hx : s.unit? u = some x) (h : x.snapFlag = false) : s.endSnapshot u = s := by
  simp [State.endSnapshot, hx, h]

theorem snapWaits_none (hx : s.unit? u = some x) (h : x.snapping = none) : snapWaits s u = false := by
  simp only [snapWaits, hx, h]

theorem State.unit?_finishUnit (hx : s.unit? u = some x) : (s.finishUnit u).unit? u =
    some { x with phase := .ended, uflag := x.elems.foldl (fun f p => f ||| p.2.fl) x.uflag } := by
  rw [State.finishUnit, hx]
  exact State.unit?_setUnit_self (s.keepSection x) u _

theorem State.launches_finishUnit (hx : s.unit? u = some x) : (s.finishUnit u).launches =
    s.launches.upd x.launch fun l => { l with ended := l.ended + 1 } := by
  rw [State.finishUnit, hx]
  rfl

section unitEnd
variable (hx : s.placed? u = some x) (hphase : x.phase = .draining) (hdone : State.sectionDone s u x = true)
include hx hphase hdone

/-- A unit whose parts have all drained: it waits for its snapshot's stamps, or ends with or without it. -/
theorem execUnitEnd_drained : execUnitEnd u s = .next (
    let t := s.endSnapshot u
    if snapWaits t u then t
    else match x.snapping with
      | some man => if t.manFailed man then (t.failSnapshot u man).finishUnit u else t.finishUnit u
      | none => t.finishUnit u) := by
  rw [execUnitEnd, inSection_placed hx]
  exact congrArg Host.Outcome.next (if_pos (by simp [hphase, hdone]))

theorem execUnitEnd_waits (h : snapWaits (s.endSnapshot u) u = true) : execUnitEnd u s = .next (s.endSnapshot u) := by
  rw [execUnitEnd_drained hx hphase hdone]
  exact congrArg Host.Outcome.next (if_pos h)

theorem execUnitEnd_noSnapshot (h : snapWaits (s.endSnapshot u) u = false) (hsnap : x.snapping = none) :
    execUnitEnd u s = .next ((s.endSnapshot u).finishUnit u) := by
  rw [execUnitEnd_drained hx hphase hdone]
  simp only [h, hsnap, Bool.false_eq_true, if_false]

theorem execUnitEnd_snapshot {man : Nat} (h : snapWaits (s.endSnapshot u) u = false) (hsnap : x.snapping = some man) :
    execUnitEnd u s = .next ((if (s.endSnapshot u).manFailed man then (s.endSnapshot u).failSnapshot u man
      else s.endSnapshot u).finishUnit u) := by
  rw [execUnitEnd_drained hx hphase hdone]
  simp only [h, hsnap, Bool.false_eq_true, if_false]
  split <;> rfl

end unitEnd

/-! ## Tiles and cycles of routes (R72; logs 39, 56) -/

/-- A drain token behind the tokens of a tile. -/
def UnitSt.drainTile (x : UnitSt) (t : Nat) : UnitSt :=
  x.setTile t { x.tile t with fifo := (x.tile t).fifo ++ [Token.drain] }

theorem drainBehind_tile {i t : Nat} (h : (x.cfg.routes[i]?).map Route.src = some (.tile t)) :
    drainBehind x i = x.drainTile t := by
  simp only [drainBehind, h]
  rfl

theorem drainBehind_other {i : Nat} (h : ∀ t, (x.cfg.routes[i]?).map Route.src ≠ some (.tile t)) :
    drainBehind x i = x.setRoute i { x.route i with toks := (x.route i).toks ++ [Token.drain] } := by
  unfold drainBehind
  split
  next t ht => exact absurd ht (h t)
  next => rfl

/-- The tile of a node beyond the elements, where no route feeds it and one leads out. -/
theorem tileBefore_node {t : Nat} (ch : Nat) (hfed : unfed x t = true) (hout : (x.cfg.routeFrom (.tile t)).isSome = true) :
    tileBefore x (x.cfg.elemCount + t) ch = some t := by
  simp [tileBefore, hfed, hout]

/-- The number of the route that feeds a channel. -/
def UnitSt.feedRoute (x : UnitSt) (e ch : Nat) : Nat := x.cfg.routes.findIdx fun r => r.dst == x.cfg.endAt e ch

/-- No drain has come to a channel, and none is on its way in the tile, the route or the queue before it. -/
structure NoDrainAt (x : UnitSt) (e ch : Nat) : Prop where
  stored : ∀ t, (x.cfg.routes[x.feedRoute e ch]?).map Route.src = some (.tile t) → (x.tile t).fifo.any Token.isDrain = false
  passed : (x.elem e).ins[Fin.ofNat 4 ch].passed = false
  toks : (x.route (x.feedRoute e ch)).toks.any Token.isDrain = false
  order : (x.route (x.feedRoute e ch)).order.any Token.isDrain = false
  queue : ((x.elem e).ins[Fin.ofNat 4 ch].q ++ (x.elem e).ins[Fin.ofNat 4 ch].raw).any Token.isDrain = false

/-- A tile that a route comes from holds a drain token. -/
def drainStored (x : UnitSt) (i : Nat) : Bool :=
  match (x.cfg.routes[i]?).map Route.src with
  | some (.tile t) => (x.tile t).fifo.any Token.isDrain
  | _ => false

/-- Drain has come to the channel or stands before it; a node beyond the elements has no channel. -/
def drainSeen (x : UnitSt) (e ch : Nat) : Bool :=
  decide (e < x.cfg.elemCount) &&
    ((x.elem e).ins[Fin.ofNat 4 ch].passed || drainStored x (x.feedRoute e ch) ||
      (x.route (x.feedRoute e ch)).toks.any Token.isDrain || (x.route (x.feedRoute e ch)).order.any Token.isDrain ||
      ((x.elem e).ins[Fin.ofNat 4 ch].q ++ (x.elem e).ins[Fin.ofNat 4 ch].raw).any Token.isDrain)

theorem drainSeen_node_eq_false {e : Nat} (ch : Nat) (he : x.cfg.elemCount ≤ e) : drainSeen x e ch = false := by
  rw [drainSeen, decide_eq_false (Nat.not_lt.mpr he), Bool.false_and]

theorem NoDrainAt.drainSeen_eq_false {e ch : Nat} (h : NoDrainAt x e ch) : drainSeen x e ch = false := by
  have hstored : drainStored x (x.feedRoute e ch) = false := by
    unfold drainStored
    split
    next t ht => exact h.stored t ht
    next => rfl
  simp only [drainSeen, hstored, h.passed, h.toks, h.order, h.queue, Bool.or_self, Bool.and_false]

/-- A node inside the cycle of `e` feeds the channel. -/
def FedInside (x : UnitSt) (e d ch : Nat) : Prop := ∃ a, feederOf x d ch = some a ∧ a ∈ cycleOf x e

/-- The elements of the cycle of `e` stand still, and drain has passed on what feeds them from outside. -/
def CycleQuiet (x : UnitSt) (e : Nat) : Prop :=
  ∀ d ∈ cycleOf x e, d < x.cfg.elemCount → liveTrigger x d = false ∧ (x.elem d).firing = none ∧
    ∀ c ∈ fedChannels x d, FedInside x e d c.val ∨ ((x.elem d).selfTake).ins[c].passed = true

/-- A channel inside a quiet cycle gets its drain behind what its route brings. -/
theorem execCycleDrainInject_cycle {e ch : Nat} (hx : s.placed? u = some x) (hphase : x.phase = .draining)
    (he : e < x.cfg.elemCount) (hnone : NoDrainAt x e ch) (hcyc : e ∈ cycleOf x e) (hfed : FedInside x e e ch)
    (hquiet : CycleQuiet x e) :
    execCycleDrainInject u e ch s = .next (s.setUnit u (drainBehind x (x.feedRoute e ch))) := by
  rw [execCycleDrainInject, inSection_placed hx]
  extract_lets cyc inside elems ready i st y stored seen
  have hinside : ∀ d c, inside d c = true ↔ FedInside x e d c := by
    intro d c
    simp only [inside, FedInside, cyc]
    cases feederOf x d c <;> simp
  have hready : ready = true := by
    simp only [ready, elems, cyc, List.all_eq_true, List.mem_filter, decide_eq_true_eq]
    rintro d ⟨hd, hlt⟩
    obtain ⟨hlive, hfiring, hins⟩ := hquiet d hd hlt
    simpa [hlive, hfiring, hinside] using hins
  have hseen : seen = false := hnone.drainSeen_eq_false
  exact congrArg Host.Outcome.next (if_pos (by simp [hphase, he, hready, hseen, (hinside e ch).mpr hfed, cyc, hcyc]))

/-- A ready tile that no route feeds gets its drain behind its tokens. -/
theorem execCycleDrainInject_tile {e ch t : Nat} (hx : s.placed? u = some x) (hphase : x.phase = .draining)
    (hcyc : e ∈ cycleOf x e → x.cfg.elemCount ≤ e) (hnone : drainSeen x e ch = false) (htile : tileBefore x e ch = some t)
    (hready : tileReady x t = true) :
    execCycleDrainInject u e ch s = .next (s.setUnit u (x.drainTile t)) := by
  rw [execCycleDrainInject, inSection_placed hx]
  extract_lets cyc inside elems ready i st y stored seen
  have hseen : seen = false := hnone
  refine congrArg Host.Outcome.next ((if_neg ?_).trans ((if_pos (by simp [hphase, hseen])).trans ?_))
  · simp only [Bool.and_eq_true, List.contains_iff_mem, decide_eq_true_eq, cyc]
    rintro ⟨⟨⟨⟨⟨-, hin⟩, hlt⟩, -⟩, -⟩, -⟩
    exact absurd hlt (Nat.not_lt.mpr (hcyc hin))
  · simp only [htile, hready, if_true]
    rfl

end Sys2Proof.Machine

namespace Sys2Proof.Spec
open Machine

/-- Settles O44: each event is the operation above that it names. -/
theorem drainEvents : Obligations.DrainEvents := by
  unfold Obligations.DrainEvents
  refine ⟨fun s u x hx hphase hcount => ⟨_, execTileCountExpiry_due hx hphase hcount, State.unit?_beginDrain hx⟩,
    ?element, ?port, ?unitEnd, ?snapshot, ?node, ?cycle⟩
  case element =>
    intro s u e x hx hphase hdrained he x' hin hquiet
    refine ⟨fun z hreqs hsend => ⟨_, execElementDrainPass_passes hx hphase hdrained he rfl hin hquiet hreqs hsend, ?_⟩,
      execElementDrainPass_withdraws hx hphase hdrained he rfl hin hquiet⟩
    exact State.drained_markDrained (by simp) e _
  case port =>
    intro s u n x hx hphase hpassed hkind hbusy
    refine ⟨_, _, execPortDrainPass_passes hx hphase hpassed hkind hbusy, State.unit?_setUnit_self _ _ _, by simp, ?_⟩
    intro i q hroute
    exact UnitSt.toks_drainFrom hroute
  case unitEnd =>
    intro s u x hx hphase hdone hflag hsnap
    have hunit := placed_unit hx
    have hask : s.endSnapshot u = s := State.endSnapshot_unasked hunit hflag
    have hend := execUnitEnd_noSnapshot hx hphase hdone (by rw [hask, snapWaits_none hunit hsnap]) hsnap
    rw [hask] at hend
    exact ⟨_, hend, State.unit?_finishUnit hunit, State.launches_finishUnit hunit⟩
  case snapshot =>
    intro s u x hx hphase hdone t
    exact ⟨execUnitEnd_waits hx hphase hdone, execUnitEnd_noSnapshot hx hphase hdone,
      fun man => execUnitEnd_snapshot hx hphase hdone⟩
  case node =>
    intro s u t ch x hx hphase hfed hout hready
    have hnode : x.cfg.elemCount ≤ x.cfg.elemCount + t := Nat.le_add_right _ _
    exact execCycleDrainInject_tile hx hphase (fun _ => hnode) (drainSeen_node_eq_false ch hnode)
      (tileBefore_node ch hfed hout) hready
  case cycle =>
    intro s u e ch x hx hphase he i src hstored hpassed htoks horder hqueue
    have hnone : NoDrainAt x e ch := ⟨hstored, hpassed, htoks, horder, hqueue⟩
    refine ⟨fun hcyc hfed hquiet => ?_, fun t hcyc htile hready => ?_⟩
    · have hexec : exec (.cycleDrainInject u e ch) s = .next (s.setUnit u (drainBehind x i)) :=
        execCycleDrainInject_cycle hx hphase he hnone hcyc hfed hquiet
      refine ⟨fun hsrc => ?_, fun t hsrc => ?_⟩
      · rw [hexec, drainBehind_other hsrc]
      · rw [hexec, drainBehind_tile hsrc]
        rfl
    · exact execCycleDrainInject_tile hx hphase (fun hin => absurd hin hcyc) hnone.drainSeen_eq_false htile hready

end Sys2Proof.Spec
end

section
/-! PROOFS. Firings that a plan runs as their form gives them (R65, R66, R152, R182); PORT, DRN and CNTI (R134, R281, R284,
R285, R414). -/

namespace Sys2Proof.Spec
open Machine

/-! ## A plan that runs a form -/

/-- The plan `p` reads, takes and dequeues what the form `m` gives, and does nothing after its last beat. -/
structure Form.RunBy (m : Form) (p : Plan) : Prop where
  t : p.t = m.t
  a : p.a = m.a
  b : p.b = m.b
  dst : p.dst = m.z
  words : p.words = m.words
  taken : p.taken = m.takes
  deqs : p.deqs = m.dq
  fin : p.fin = none
  tokens : ∀ y : Elem, (∀ a ∈ m.srcs, y.tokReady a = true) → p.tokens y = true

/-- The unit that fires is there when its beat has its effect. -/
theorem Form.pre_isSome (m : Form) {s : State} {f : Focus} {n b : Nat} (h : (s.unit? f.u).isSome = true) :
    ((m.pre s f n b).unit? f.u).isSome = true := by
  unfold Form.pre
  split
  · exact clearTaken_unit h
  · exact h

namespace Form.RunBy
variable {m : Form} {p : Plan}

theorem capture_eq (h : m.RunBy p) (y : Elem) (slot : Nat) : p.capture y slot = m.cap y slot := by
  rw [Plan.capture, Form.cap, h.t, h.a, h.b, h.dst, h.words] <;> rfl

/-- Plan and form take a beat's coordinate from the same token. -/
theorem beatOf_eq (h : m.RunBy p) (s : State) (f : Focus) (n b : Nat) (cap : Captured) :
    p.beatOf s f.u f.e f.slot n b cap = m.beat s f n b cap := by
  rw [Plan.beatOf, Form.beat, cx, cxTok, h.a, h.b]
  cases m.a.chan? with
  | some c => rfl
  | none => cases m.b.chan? <;> rfl

/-- A PLAN THAT RUNS A FORM: where each of its beats that may be done goes with the effect `eff` and sends no more than its
outputs have room for, the firing comes to what the form says. -/
theorem fires (h : m.RunBy p) {i : Instr} {ok : State → Beat → Carry → Prop} {cyc : State → Beat → Nat} {eff : Effect}
    (hexec : ∀ s, exec i s = fire p s)
    (hbeat : ∀ s bt c, (s.unit? bt.u).isSome = true → ok s bt c → ∃ need,
      p.beat s bt c = .go { s := (eff s bt c).1, c := (eff s bt c).2.2, sends := (eff s bt c).2.1, need := need, cyc := cyc s bt } ∧
      ∀ o, ((eff s bt c).2.1.filter fun q => q.1 = o).length + (need.filter fun q => q = o).length ≤
        if o ∈ m.outs then m.room bt.last else 0) :
    Fires i m ok cyc eff := by
  intro s f x hfresh n cap at_ hgoes
  have hn : Trig.n ((x.elem f.e).trigger p.t) = n := by rw [h.t]
  have hcap : p.capture (x.elem f.e) f.slot = cap := h.capture_eq _ _
  rw [hexec, fire_go hfresh.focus hfresh.unit hfresh.elem hfresh.fresh h.fin at_ (by rw [h.t]; rfl), hn, hcap]
  rw [hn, hcap, h.taken, h.deqs]
  intro b hb
  obtain ⟨⟨y, hy, hsrcs, hroom⟩, hok⟩ := hgoes b hb
  obtain ⟨need, hgo, hsent⟩ := hbeat _ (m.beat (at_ b).1 f n b cap) (at_ b).2 (m.pre_isSome (by rw [hy]; rfl)) hok
  rw [h.beatOf_eq]
  exact ⟨h.tokens _ (by rwa [State.elem_of_unit hy]), _, hgo, Done.credit_upto hy m.outs hroom hsent, rfl⟩

/-- The same for an effect that sends nothing and carries nothing. -/
theorem runs_quiet (h : m.RunBy p) {i : Instr} {ok : State → Beat → Prop} {eff : State → Beat → State}
    (hexec : ∀ s, exec i s = fire p s)
    (hbeat : ∀ s bt c, (s.unit? bt.u).isSome = true → ok s bt → p.beat s bt c = .go { s := eff s bt, c := c }) :
    Runs i m ok one_ fun s bt => (eff s bt, []) :=
  h.fires hexec fun s bt c hunit hok => ⟨[], hbeat s bt c hunit hok, fun _ => Nat.zero_le _⟩

end Form.RunBy

/-! ## The plan of two sources -/

/-- The plan of an instruction with two sources whose beat is `beat`. -/
def planOf (t : Fin 64) (a b : Opd) (z : Option (Fin 8)) (beat : State → Beat → Carry → Out) : Plan :=
  { t := t, a := a.src, b := b.src, pa := a.peek, pb := b.peek, dst := z, beat := beat }

theorem deqs_planOf (t : Fin 64) (a b : Opd) (z : Option (Fin 8)) (beat : State → Beat → Carry → Out) :
    (planOf t a b z beat).deqs = deqs a b := by
  simp only [Plan.deqs, planOf, deqs, Bool.not_true, Bool.false_eq_true, if_false]
  cases a.src.chan? <;> cases b.src.chan? <;> rfl

theorem form_runBy_planOf (t : Fin 64) (a b : Opd) (z : Option (Fin 8)) (outs : List Nat)
    (beat : State → Beat → Carry → Out) : (form t a b z outs).RunBy (planOf t a b z beat) where
  t := rfl
  a := rfl
  b := rfl
  dst := rfl
  words := rfl
  taken := List.append_nil _
  deqs := deqs_planOf t a b z beat
  fin := rfl
  tokens y hready := by
    simp [Plan.tokens, planOf, hready a.src (.head _), hready b.src (.tail _ (.head _))]

/-! ## PORT, DRN and CNTI -/

/-- Source A reaches the engine behind binding `n`; a request of a slot binding is noted (R134, R281). -/
def ported (n : Nat) (s : State) (bt : Beat) : State :=
  if (bt.fwd bt.a).isDrain then s
  else (portTake s bt.u n (bt.fwd bt.a)).ownRequest bt.u bt.e n (s.stamps bt)

theorem runs_port (t : Fin 64) (n : Fin 32) (a : Opd) :
    Runs (.port t n a) (form t a none_ none []) (fun s bt => ∀ x, s.unit? bt.u = some x → x.portRoom n ≠ 0) one_
      fun s bt => (ported n s bt, []) := by
  refine (form_runBy_planOf t a none_ none [] _).runs_quiet (fun _ => rfl) fun s bt c hunit hroom => ?_
  obtain ⟨x, hx⟩ := Option.isSome_iff_exists.mp hunit
  simp only [planOf, hx, if_neg (hroom x hx), ported]
  split <;> rfl

/-- The completion token that DRN asks for on binding `n`, once what is open there has completed (R284). -/
def drainAsked (n : Nat) (s : State) (bt : Beat) : State :=
  (bt.raise s bt.poisonFlag).modUnit bt.u fun x =>
    x.setBind n { x.bindSt n with
      drn := (x.bindSt n).drn ++ [(bt.a.bits.toNat % 32, bt.a.bits.toNat / 32 % 8, (x.bindSt n).open_)] }

theorem runs_drn (t : Fin 64) (n : Fin 32) (a : Src) :
    Runs (.drn t n a) (oneForm t a []) always one_ fun s bt => (drainAsked n s bt, []) :=
  (form_runBy_planOf t ⟨a, false⟩ none_ none [] _).runs_quiet (fun _ => rfl) fun _ _ _ _ _ => rfl

/-- One off the unit's tile count, where it keeps one (R285). -/
def countedDown (s : State) (bt : Beat) : State :=
  s.modUnit bt.u fun x => { x with count := x.count.map fun k => k - 1 }

theorem runs_cnti (t : Fin 64) :
    Runs (.cnti t) (form t none_ none_ none []) always one_ fun s bt => (countedDown s bt, []) :=
  (form_runBy_planOf t none_ none_ none [] cntiBeat).runs_quiet (fun _ => rfl) fun _ _ _ _ _ => rfl

/-- Settles O26: each instruction's plan runs the form of its sources, and its beat has the effect above. -/
theorem portsDrainsAndCounts : Obligations.PortsDrainsAndCounts := by
  unfold Obligations.PortsDrainsAndCounts
  exact ⟨runs_port, runs_drn, runs_cnti⟩

end Sys2Proof.Spec
end

section
/-! PROOFS. What a firing of a lane instruction of class 1 or 2 keeps (R65, R66, R178, R198, R215). -/

namespace Sys2Proof.Machine

/-! ## What is kept -/

/-- `w` is the element `y` but for the registers in `regs`, flags raised, its channels and its bookkeeping. -/
structure Elem.LaneKept (regs : List (Fin 8)) (y w : Elem) : Prop where
  k : w.k = y.k
  acc : w.acc = y.acc
  mb : w.mb = y.mb
  mx : w.mx = y.mx
  sr : w.sr = y.sr
  cfg : w.cfg = y.cfg
  slots : w.slots = y.slots
  desc : w.desc = y.desc
  trig : w.trig = y.trig
  late : w.late = y.late
  win : w.win = y.win
  p : w.p = y.p
  fl : w.fl &&& y.fl = y.fl
  g : ∀ n : Fin 8, n ∉ regs → w.g[n] = y.g[n]

/-- `z` is the unit `x` but for what is kept of element `e` and for tokens on routes. -/
structure UnitSt.LaneKept (e : Nat) (regs : List (Fin 8)) (x z : UnitSt) : Prop where
  rest : z = { x with elems := z.elems, flight := z.flight }
  others : ∀ d, d ≠ e → z.elem d = x.elem d
  elem : (x.elem e).LaneKept regs (z.elem e)

/-- `t` is the state `s` but for what is kept of element `e` of unit `u`. -/
structure State.LaneKept (u e : Nat) (regs : List (Fin 8)) (s t : State) : Prop where
  rest : t = { s with units := t.units }
  others : ∀ v, v ≠ u → t.unit? v = s.unit? v
  unit : ∀ x, s.unit? u = some x → ∃ z, t.unit? u = some z ∧ x.LaneKept e regs z

section kept
variable {regs : List (Fin 8)} {u e : Nat}

theorem Elem.LaneKept.refl (y : Elem) : y.LaneKept regs y :=
  ⟨rfl, rfl, rfl, rfl, rfl, rfl, rfl, rfl, rfl, rfl, rfl, rfl, by simp, fun _ _ => rfl⟩

theorem Elem.LaneKept.trans {y w v : Elem} (h : y.LaneKept regs w) (h' : w.LaneKept regs v) : y.LaneKept regs v where
  k := h'.k.trans h.k
  acc := h'.acc.trans h.acc
  mb := h'.mb.trans h.mb
  mx := h'.mx.trans h.mx
  sr := h'.sr.trans h.sr
  cfg := h'.cfg.trans h.cfg
  slots := h'.slots.trans h.slots
  desc := h'.desc.trans h.desc
  trig := h'.trig.trans h.trig
  late := h'.late.trans h.late
  win := h'.win.trans h.win
  p := h'.p.trans h.p
  fl := by rw [← h.fl, ← BitVec.and_assoc, h'.fl]
  g n hn := (h'.g n hn).trans (h.g n hn)

theorem UnitSt.LaneKept.trans {x z w : UnitSt} (h : x.LaneKept e regs z) (h' : z.LaneKept e regs w) :
    x.LaneKept e regs w where
  rest := by rw [h'.rest, h.rest]
  others d hd := (h'.others d hd).trans (h.others d hd)
  elem := h.elem.trans h'.elem

theorem UnitSt.LaneKept.setElem (x : UnitSt) {y : Elem} (h : (x.elem e).LaneKept regs y) :
    x.LaneKept e regs (x.setElem e y) where
  rest := rfl
  others _ hd := UnitSt.elem_setElem_ne _ _ hd
  elem := by rwa [UnitSt.elem_setElem_self]

theorem State.LaneKept.refl (s : State) : s.LaneKept u e regs s :=
  ⟨rfl, fun _ _ => rfl, fun x hx => ⟨x, hx, rfl, fun _ _ => rfl, .refl _⟩⟩

theorem State.LaneKept.trans {s t r : State} (h : s.LaneKept u e regs t) (h' : t.LaneKept u e regs r) :
    s.LaneKept u e regs r where
  rest := by rw [h'.rest, h.rest]
  others v hv := (h'.others v hv).trans (h.others v hv)
  unit x hx := by
    obtain ⟨z, hz, hxz⟩ := h.unit x hx
    obtain ⟨w, hw, hzw⟩ := h'.unit z hz
    exact ⟨w, hw, hxz.trans hzw⟩

theorem State.LaneKept.modUnit (s : State) {f : UnitSt → UnitSt} (h : ∀ x : UnitSt, x.LaneKept e regs (f x)) :
    s.LaneKept u e regs (s.modUnit u f) where
  rest := rfl
  others _ hv := State.unit?_modUnit_ne _ _ hv
  unit x hx := ⟨f x, by simp [hx], h x⟩

theorem State.LaneKept.modElem (s : State) {f : Elem → Elem} (h : ∀ y : Elem, y.LaneKept regs (f y)) :
    s.LaneKept u e regs (s.modElem u e f) :=
  .modUnit s fun x => .setElem x (h _)

end kept

/-! ## The operations of an element -/

section elem
variable {regs : List (Fin 8)}

/-- An element changed in its registers of `regs` only. -/
theorem Elem.LaneKept.setG_of_mem (y : Elem) {n : Fin 8} (h : n ∈ regs) (r : GReg) :
    y.LaneKept regs { y with g := y.g.set n r } :=
  { Elem.LaneKept.refl (regs := regs) y with
    g := fun m hm => by
      have hne : n.val ≠ m.val := fun he => hm (Fin.ext he ▸ h)
      exact Vector.getElem_set_ne n.isLt m.isLt hne }

theorem Elem.LaneKept.clearG_foldl {l : List (Fin 8)} (h : l ⊆ regs) (y : Elem) :
    y.LaneKept regs (l.foldl Elem.clearG y) := by
  induction l generalizing y with
  | nil => exact .refl y
  | cons n l ih =>
    obtain ⟨hn, hl⟩ := List.cons_subset.mp h
    exact (setG_of_mem y hn _).trans (ih hl _)

theorem Elem.LaneKept.raise (y : Elem) (f : Flags) : y.LaneKept regs { y with fl := y.fl ||| f } :=
  { Elem.LaneKept.refl y with
    fl := by ext i; simp +contextual }

/-- A merge of a pair changes the channels only. -/
theorem Elem.mergePair_shape (y : Elem) (a b : Fin 4) : ∃ i, y.mergePair a b = { y with ins := i } := by
  unfold Elem.mergePair
  dsimp only
  split
  · exact ⟨_, rfl⟩
  · exact ⟨_, rfl⟩

theorem Elem.merge_shape (y : Elem) : ∃ i, y.merge = { y with ins := i } := by
  obtain ⟨i, hi⟩ := y.mergePair_shape 0 1
  obtain ⟨j, hj⟩ := (y.mergePair 0 1).mergePair_shape 2 3
  exact ⟨j, by rw [Elem.merge, hj, hi]⟩

/-- A head taken off a channel changes the channels and a PERF counter only. -/
theorem Elem.dequeue_shape (y : Elem) (c : Fin 4) : ∃ i q, y.dequeue c = { y with ins := i, perf := q } := by
  unfold Elem.dequeue
  split
  · exact ⟨_, _, rfl⟩
  · obtain ⟨i, hi⟩ := Elem.merge_shape _
    exact ⟨i, _, hi⟩
  · exact ⟨_, _, rfl⟩

theorem Elem.LaneKept.dequeue (y : Elem) (c : Fin 4) : y.LaneKept regs (y.dequeue c) := by
  obtain ⟨i, q, h⟩ := y.dequeue_shape c
  rw [h]
  exact { Elem.LaneKept.refl y with }

theorem Elem.LaneKept.dequeue_foldl (l : List (Fin 4)) (y : Elem) : y.LaneKept regs (l.foldl Elem.dequeue y) := by
  induction l generalizing y with
  | nil => exact .refl y
  | cons c l ih => exact (dequeue y c).trans (ih _)

theorem Elem.LaneKept.hold (y : Elem) (now cyc : Nat) : y.LaneKept regs (y.hold now cyc) := { Elem.LaneKept.refl y with }

theorem Elem.LaneKept.begun (y : Elem) (slot cyc : Nat) (m : BitVec 4) : y.LaneKept regs (y.begun slot cyc m) := by
  obtain ⟨c, h⟩ := y.begun_shape slot cyc m
  rw [h]
  exact { Elem.LaneKept.refl y with }

end elem

/-! ## The steps of a firing -/

section firing
variable {regs : List (Fin 8)}

theorem UnitSt.LaneKept.send (x : UnitSt) (e o : Nat) (t : Token) : x.LaneKept e regs (x.send e o t) := by
  have h : x.LaneKept e regs (x.setElem e ((x.elem e).addPerf 3 1)) := .setElem x { Elem.LaneKept.refl _ with }
  unfold UnitSt.send
  dsimp only
  split
  · exact h
  · exact ⟨rfl, h.others, h.elem⟩

theorem State.LaneKept.sendOut (u e : Nat) (l : List (Nat × Token)) (s : State) :
    s.LaneKept u e regs (sendOut s u e l) := by
  induction l generalizing s with
  | nil => exact .refl s
  | cons p l ih => exact (modUnit s fun x => .send x e p.1 p.2).trans (ih _)

theorem State.LaneKept.clearTaken (s : State) (u e : Nat) {l : List (Fin 8)} (h : l ⊆ regs) :
    s.LaneKept u e regs (clearTaken s u e l) := by
  unfold Machine.clearTaken
  split
  · exact .refl s
  · exact modElem s fun y => .clearG_foldl h y

theorem State.LaneKept.beatRaise (bt : Beat) (s : State) (f : Flags) : s.LaneKept bt.u bt.e regs (bt.raise s f) := by
  unfold Beat.raise
  split
  · exact .refl s
  · exact modElem s fun y => .raise y f

theorem State.LaneKept.deliver (bt : Beat) (s : State) {d : Dst} (hd : ∀ n, d.reg? = some n → n ∈ regs) (v : Word)
    (tag : BitVec 3) (fl : Flags) : s.LaneKept bt.u bt.e regs (bt.deliver s d v tag fl).1 := by
  have h := beatRaise (regs := regs) bt s (fl ||| bt.poisonFlag)
  cases d with
  | g n => exact h.trans (modElem (f := fun y => y.setG n v tag) _ fun y => .setG_of_mem y (hd n rfl) _)
  | out o => exact h
  | z => exact h

theorem State.LaneKept.stopAt (s : State) (u e slot b : Nat) (cap : Captured) (c : Carry) :
    s.LaneKept u e regs (stopAt s u e slot b cap c) :=
  modElem s fun y => { Elem.LaneKept.refl y with }

theorem State.LaneKept.beginFiring (s : State) (u e slot : Nat) (t : Fin 64) :
    s.LaneKept u e regs (beginFiring s u e slot t) :=
  modElem s fun y => .begun y _ _ _

/-- Each beat of a plan goes and keeps all but the registers in `regs`. -/
def Plan.Keeps (regs : List (Fin 8)) (p : Plan) : Prop :=
  ∀ s bt c, ∃ d, p.beat s bt c = .go d ∧ s.LaneKept bt.u bt.e regs d.s

/-- What a firing comes to: it stands stopped with all kept, or it has ended with all kept before its end. -/
def Kept (u e : Nat) (regs : List (Fin 8)) (cap : Captured) (s t : State) : Prop :=
  s.LaneKept u e regs t ∨ ∃ r, s.LaneKept u e regs r ∧ t = endFiring r u e cap

theorem State.LaneKept.kept {u e : Nat} {cap : Captured} {s r t : State} (h : s.LaneKept u e regs r)
    (h' : Kept u e regs cap r t) : Kept u e regs cap s t := by
  rcases h' with h' | ⟨q, hq, rfl⟩
  · exact .inl (h.trans h')
  · exact .inr ⟨q, h.trans hq, rfl⟩

/-- The trigger entry by which a firing of an element ends: that of the firing that stands stopped, else that of its rule. -/
def Elem.entryFor (y : Elem) (t : Fin 64) : BitVec 64 :=
  match y.firing with
  | some st => st.cap.entry
  | none => y.trigger t

variable {p : Plan} (hp : p.Keeps regs) (htaken : p.taken ⊆ regs) (hfin : p.fin = none) (u e slot n : Nat) (cap : Captured)
include hp htaken hfin

/-- THE BEATS OF A FIRING keep all but the registers in `regs`. -/
theorem runBeats_kept (k b : Nat) (s : State) (c : Carry) : Kept u e regs cap s (runBeats p u e slot n cap k b s c) := by
  induction k generalizing b s c with
  | zero => exact .inl (.refl s)
  | succ k ih =>
    have hstop : ∀ c, Kept u e regs cap s (stopAt s u e slot b cap c) := fun c => .inl (.stopAt s u e slot b cap c)
    unfold runBeats
    extract_lets x bt s0
    split
    · exact hstop c
    · have hs0 : s.LaneKept u e regs s0 := by
        unfold s0
        split
        · exact .clearTaken s u e htaken
        · exact .refl s
      obtain ⟨d, hd, hkept⟩ := hp s0 bt c
      rw [hd]
      dsimp only
      split
      · exact hstop c
      · have hs1 := ((hs0.trans hkept).trans (.sendOut u e d.sends d.s)).trans (.modElem _ fun y =>
          (Elem.LaneKept.dequeue_foldl p.deqs y).trans (.hold _ s.clk.cyc d.cyc))
        refine hs1.kept ?_
        split
        · rw [runFin, hfin]
          exact .inr ⟨_, .refl _, rfl⟩
        · exact ih _ _ _

/-- A FIRING of the plan keeps all but the registers in `regs`, and ends, if it does, as its trigger says. -/
theorem fire_kept {s t : State} {f : Focus} {x : UnitSt} (hf : s.focus = some f) (hx : s.unit? f.u = some x)
    (h : fire p s = .next t) :
    ∃ cap : Captured, cap.entry = (x.elem f.e).entryFor p.t ∧ Kept f.u f.e regs cap s t := by
  unfold fire at h
  rw [hf] at h
  dsimp only at h
  split at h
  · cases h
  · rw [State.elem_of_unit hx] at h
    split at h
    next st hst =>
      refine ⟨st.cap, by rw [Elem.entryFor, hst], ?_⟩
      split at h
      · cases h
        exact .inl (.refl s)
      · split at h <;> cases h
        · exact runBeats_kept hp htaken hfin ..
        · rw [runFin, hfin]
          exact .inr ⟨s, .refl s, rfl⟩
    next hst =>
      cases h
      exact ⟨_, by rw [Elem.entryFor, hst]; rfl, (State.LaneKept.beginFiring ..).kept (runBeats_kept hp htaken hfin ..)⟩

end firing

end Sys2Proof.Machine

namespace Sys2Proof.Spec
open Machine

/-! ## The lane instructions -/

/-- Each beat delivers a result to `d`, and does nothing else. -/
def Delivers (d : Dst) (beat : State → Beat → Carry → Out) : Prop :=
  ∀ s bt c, ∃ v tag fl, beat s bt c = goSends c (bt.deliver s d v tag fl)

theorem intBeat_delivers (adm : Fmt → Option IntFmt) (d : Dst) (bc : Bool) (op : LaneArg → Nat × Flags) :
    Delivers d (intBeat adm d bc op) := fun _ _ _ => ⟨_, _, _, rfl⟩

theorem fpBeat_delivers (adm : Fmt → Option FFmt) (d : Dst) (bc : Bool) (op : FCtx → Nat → Nat → Nat → Lane) :
    Delivers d (fpBeat adm d bc op) := fun _ _ _ => ⟨_, _, _, rfl⟩

/-- The instruction is a plan of two sources that delivers a result to `d` at each beat. -/
def LanePlan (i : Instr) (t : Fin 64) (d : Dst) (a b : Opd) : Prop :=
  ∃ z beat, (∀ s, exec i s = fire (planOf t a b z beat) s) ∧ Delivers d beat ∧ (useOf i).t = t

theorem LanePlan.int {i : Instr} {t : Fin 64} {d : Dst} {a b : Opd} {z : Option (Fin 8)} {adm : Fmt → Option IntFmt} {bc : Bool}
    {op : LaneArg → Nat × Flags} (ht : (useOf i).t = t) (h : ∀ s, exec i s = fire (planOf t a b z (intBeat adm d bc op)) s) :
    LanePlan i t d a b := ⟨z, _, h, intBeat_delivers adm d bc op, ht⟩

theorem LanePlan.fp {i : Instr} {t : Fin 64} {d : Dst} {a b : Opd} {z : Option (Fin 8)} {adm : Fmt → Option FFmt} {bc : Bool}
    {op : FCtx → Nat → Nat → Nat → Lane} (ht : (useOf i).t = t)
    (h : ∀ s, exec i s = fire (planOf t a b z (fpBeat adm d bc op)) s) :
    LanePlan i t d a b := ⟨z, _, h, fpBeat_delivers adm d bc op, ht⟩

theorem wideTable_lanePlan : ∀ r ∈ wideTable, ∀ t d a b bc, LanePlan (r.1 t d a b bc) t d a b := by
  simp only [wideTable, List.forall_mem_cons, List.not_mem_nil, false_imp_iff, implies_true, and_true]
  refine ⟨?_, ?_, ?_, ?_, ?_, ?_, ?_, ?_, ?_, ?_, ?_, ?_, ?_, ?_, ?_, ?_, ?_, ?_⟩ <;>
    exact fun t d a b bc => .int rfl fun _ => rfl

theorem oneTable_lanePlan : ∀ r ∈ oneTable, ∀ t d a, LanePlan (r.1 t d a) t d a none_ := by
  simp only [oneTable, List.forall_mem_cons, List.not_mem_nil, false_imp_iff, implies_true, and_true]
  refine ⟨?_, ?_, ?_, ?_⟩ <;> exact fun t d a => .int rfl fun _ => rfl

theorem floatTable_lanePlan : ∀ r ∈ floatTable, ∀ t d a b bc, LanePlan (r.1 t d a b bc) t d a b := by
  simp only [floatTable, List.forall_mem_cons, List.not_mem_nil, false_imp_iff, implies_true, and_true]
  refine ⟨?_, ?_, ?_, ?_, ?_⟩ <;> exact fun t d a b bc => .fp rfl fun _ => rfl

theorem floatOne_lanePlan : ∀ r ∈ floatOne, ∀ t d a, LanePlan (r.1 t d a) t d a none_ := by
  simp only [floatOne, List.forall_mem_cons, List.not_mem_nil, false_imp_iff, implies_true, and_true]
  refine ⟨?_, ?_, ?_, ?_, ?_⟩ <;> exact fun t d a => .fp rfl fun _ => rfl

theorem LaneInstr.lanePlan {i : Instr} {d : Dst} {a b : Opd} (h : LaneInstr i d a b) : LanePlan i (useOf i).t d a b := by
  have key : ∃ t, LanePlan i t d a b := by
    cases h with
    | wide r hr t d a b bc => exact ⟨t, wideTable_lanePlan r hr t d a b bc⟩
    | one r hr t d a => exact ⟨t, oneTable_lanePlan r hr t d a⟩
    | float r hr t d a b bc => exact ⟨t, floatTable_lanePlan r hr t d a b bc⟩
    | floatOne r hr t d a => exact ⟨t, floatOne_lanePlan r hr t d a⟩
    | mad t d a b bc => exact ⟨t, .int rfl fun _ => rfl⟩
    | ffma t d a b bc => exact ⟨t, .fp rfl fun _ => rfl⟩
    | ffms t d a b bc => exact ⟨t, .fp rfl fun _ => rfl⟩
    | fscl t d a b bc => exact ⟨t, none, _, fun _ => rfl, fun _ _ _ => ⟨_, _, _, rfl⟩, rfl⟩
    | bfx t d a b => exact ⟨t, none, _, fun _ => rfl, fun _ _ _ => ⟨_, _, _, rfl⟩, rfl⟩
    | idx t d a b => exact ⟨t, none, _, fun _ => rfl, fun _ _ _ => ⟨_, _, _, rfl⟩, rfl⟩
    | satn t d a b => exact ⟨t, .int rfl fun _ => rfl⟩
    | ftoi t d a b => exact ⟨t, none, _, fun _ => rfl, fun _ _ _ => ⟨_, _, _, rfl⟩, rfl⟩
    | itof t d a b => exact ⟨t, none, _, fun _ => rfl, fun _ _ _ => ⟨_, _, _, rfl⟩, rfl⟩
  obtain ⟨t, z, beat, hexec, hdel, rfl⟩ := key
  exact ⟨z, beat, hexec, hdel, rfl⟩

/-- The registers that a lane instruction may write: its destination and those it takes (R66). -/
def laneRegs (d : Dst) (a b : Opd) : List (Fin 8) := d.reg?.toList ++ taken a.src b.src

theorem not_mem_laneRegs {d : Dst} {a b : Opd} {n : Fin 8} (hd : d.reg? ≠ some n) (ht : n ∉ taken a.src b.src) :
    n ∉ laneRegs d a b := by
  simpa [laneRegs, hd] using ht

theorem planOf_keeps (t : Fin 64) {d : Dst} (a b : Opd) (z : Option (Fin 8)) {beat : State → Beat → Carry → Out}
    (h : Delivers d beat) : (planOf t a b z beat).Keeps (laneRegs d a b) := by
  intro s bt c
  obtain ⟨v, tag, fl, hbeat⟩ := h s bt c
  exact ⟨_, hbeat, .deliver bt s (fun n hn => by simp [laneRegs, hn]) v tag fl⟩

theorem planOf_taken_subset (t : Fin 64) (d : Dst) (a b : Opd) (z : Option (Fin 8)) (beat : State → Beat → Carry → Out) :
    (planOf t a b z beat).taken ⊆ laneRegs d a b := by
  rw [(form_runBy_planOf t a b z [] beat).taken]
  exact List.subset_append_right _ _

/-- Settles O59: each beat only delivers its result, so that a firing keeps all but its registers, and only its end, if it
comes to it, writes predicates. -/
theorem laneFrame : Obligations.LaneFrame := by
  unfold Obligations.LaneFrame
  intro i d a b tr s t f x hlane htr hfocus hx hexec
  obtain ⟨z, beat, hplan, hdel, -⟩ := hlane.lanePlan
  rw [hplan, htr] at hexec
  obtain ⟨cap, hentry, hkept⟩ := fire_kept (planOf_keeps tr a b z hdel) (planOf_taken_subset tr d a b z beat) rfl hfocus hx hexec
  rcases hkept with hkept | ⟨r, hkept, rfl⟩
  · obtain ⟨w, hw, hxw⟩ := hkept.unit x hx
    have he := hxw.elem
    exact ⟨hkept.rest, hkept.others, w, hw, hxw.rest, hxw.others, he.k, he.acc, he.mb, he.mx, he.sr, he.cfg, he.slots, he.desc,
      he.trig, he.late, he.win, he.fl, .inl he.p, fun n hd hn => he.g n (not_mem_laneRegs hd hn)⟩
  · obtain ⟨w, hw, hxw⟩ := hkept.unit x hx
    have he := hxw.elem
    refine ⟨by rw [endFiring, State.modElem, State.modUnit, hkept.rest],
      fun v hv => (State.unit?_modElem_ne _ _ _ hv).trans (hkept.others v hv), _,
      (State.unit?_modElem_self ..).trans (by rw [hw]; rfl), by rw [hxw.rest]; rfl,
      fun e hne => (UnitSt.elem_setElem_ne _ _ hne).trans (hxw.others e hne), ?_⟩
    rw [UnitSt.elem_setElem_self]
    refine ⟨he.k, he.acc, he.mb, he.mx, he.sr, he.cfg, he.slots, he.desc, he.trig, he.late, he.win, he.fl, .inr ?_,
      fun n hd hn => he.g n (not_mem_laneRegs hd hn)⟩
    dsimp only
    rw [he.p, hentry]
    rfl

end Sys2Proof.Spec
end

section
/-! PROOFS. What power-good leaves (R76, R110, R324, R325, R340-R345, R360, R380, R391, R402). -/

namespace Sys2Proof.Machine

/-! ## Registers at reset -/

/-- At reset a register holds its reset value. -/
theorem State.reg_reset (n : Nat) : State.reset.reg n = regReset n := rfl

/-- Temperature limits and throttling (R345). -/
theorem regReset_thermal (q : Fin 4) :
    regReset (0x0300 + q) = BitVec.ofNat 64 (300 + 95 * 2 ^ 12 + 5 * 2 ^ 20 + 2 ^ 24) := by
  simp (disch := omega) only [regReset, if_neg, if_pos]

theorem regReset_budget {n : Nat} (h : n < 0x1000) : regReset (0x1000 + n) = 0x7FFFFFFFFFFFFFFF := by
  simp (disch := omega) only [regReset, if_neg, if_pos]

theorem regReset_bucket {n : Nat} (h : n < 64) :
    regReset (0x2000 + n) = BitVec.ofNat 64 (0xFFFF + 4096 * 2 ^ 16 + 0xFFFF * 2 ^ 32) := by
  simp (disch := omega) only [regReset, if_neg, if_pos]

/-- The registers without a reset value of their own hold zero. -/
theorem regReset_zero {n : Nat} (h : 0x0107 ≤ n ∧ n < 0x0300 ∨ 0x0304 ≤ n ∧ n < 0x0500 ∨ 0x0501 ≤ n ∧ n < 0x1000 ∨ 0x2040 ≤ n) :
    regReset n = 0 := by
  simp (disch := omega) only [regReset, if_neg]

theorem State.quickRings_reset : State.reset.quickRings = [] := by
  refine List.filter_eq_nil_iff.mpr fun ring hring => ?_
  have hlt := List.mem_range.mp hring
  have hreg : State.reset.reg (0x0108 + ring / 64) = 0 := regReset_zero (by omega)
  simp [State.ringQuick, hreg]

theorem State.linkUp_reset : State.reset.linkUp = false := by
  have hreg : State.reset.reg 0x0601 = 0 := regReset_zero (n := 0x0601) (by omega)
  simp [State.linkUp, hreg]

end Sys2Proof.Machine

namespace Sys2Proof.Spec
open Machine

/-- Settles O58: the state at reset holds nothing, and each register its reset value. -/
theorem resetState : Obligations.ResetState := by
  unfold Obligations.ResetState
  refine ⟨rfl, rfl, rfl, rfl, rfl, State.quickRings_reset, rfl, rfl, fun q => ⟨regReset_thermal q, ?low, ?gate⟩, ?budget, ?bucket,
    ?tables, State.linkUp_reset, rfl, rfl, rfl, rfl, fun _ => rfl, rfl, rfl⟩
  case low => exact regReset_zero (by omega)
  case gate => exact regReset_zero (by omega)
  case budget => exact fun n h => regReset_budget h
  case bucket => exact fun n h => regReset_bucket h
  case tables => exact fun n h => ⟨regReset_zero (by omega), regReset_zero (by omega)⟩

end Sys2Proof.Spec
end

section
/-! PROOFS. What a step runs: the rule of the element picked, or the event that stands next (R62-R65, R182). -/

namespace Sys2Proof.Machine

/-! ## The next happening -/

theorem ready_of_agenda {s : State} {n : Nat} {what : What} {rest : List Happening}
    (h : s.agenda = { wait := n, what := what } :: rest) : ready s = readyFor (elapse { s with agenda := rest } n) what := by
  simp only [ready, nextHappening, h]

/-! ## The slots the picker looks at (R64) -/

section picker
variable {turn : Instr → Bool} {s : State} {u e slot : Nat} {x : UnitSt} {i : Instr}

/-- A slot whose word and whose trigger can be read, whose trigger holds, whose resources are free and whose turn it is, is a rule to
fire. -/
theorem lookAt_rule {w : BitVec 32} {t : BitVec 64} (hword : (x.elem e).slots.get? slot = some w) (hdec : decode w = .ok i)
    (htrig : (x.elem e).trig.get? (useOf i).t = some t) (hholds : holds x e (useOf i) t = true)
    (hwave : waveAdmits (x.elem e) slot = true) (hres : resources s u x e slot i (useOf i) t = true) (hturn : turn i = true)
    (hport : portTakes s u e slot i = true) (hslot : (x.elem e).broken (.slot slot) = false)
    (hentry : (x.elem e).broken (.trig (useOf i).t.val) = false) (hdesc : (x.elem e).broken (.desc slot) = false)
    (hk : ∀ n ∈ kRegs (useOf i), (x.elem e).broken (.k n) = false) :
    lookAt turn s u e x slot = .rule i := by
  have hany : ((kRegs (useOf i)).any fun n => (x.elem e).broken (.k n)) = false := by simpa using hk
  simp only [lookAt, hword, hslot, hdec, htrig, hentry, hdesc, hany, hholds, hwave, hres, hturn, hport, Bool.or_self, Bool.and_self,
    Bool.false_eq_true, if_false, if_true]

/-- The picker takes the lowest slot that has something for it. -/
theorem pickFrom_lowest {p : SlotPick} (hp : lookAt turn s u e x slot = p) (hne : p ≠ .no) (n a : Nat) (ha : a ≤ slot)
    (hn : slot < a + n) (hlow : ∀ k, a ≤ k → k < slot → lookAt turn s u e x k = .no) :
    pickFrom turn s u e x n a = some (slot, p) := by
  induction n generalizing a with
  | zero => omega
  | succ n ih =>
    rcases Nat.eq_or_lt_of_le ha with rfl | hlt
    · unfold pickFrom
      split
      · next hno => exact absurd (hp.symm.trans hno) hne
      · rw [hp]
    · simp only [pickFrom, hlow a (Nat.le_refl a) hlt]
      exact ih (a + 1) hlt (by omega) fun k hk => hlow k (by omega)

/-- A firing that stands stopped goes on, once its turn has come. -/
theorem firePick_stopped {defer : Bool} {st : Firing} {w : BitVec 32} (hst : (x.elem e).firing = some st)
    (hword : (x.elem e).slots.get? st.slot = some w) (hdec : decode w = .ok i) (hturn : claimTurn s x e i = true) :
    firePick s u e defer x = .run i (focusOn s u e st.slot defer) := by
  simp only [firePick, hst, hword, hdec, hturn, if_true]

/-- Else the lowest slot that is a rule to fire begins. -/
theorem firePick_fresh {defer : Bool} (hfree : (x.elem e).firing = none) (hlt : slot < 32)
    (hrule : lookAt (claimTurn s x e) s u e x slot = .rule i) (hlow : ∀ k < slot, lookAt (claimTurn s x e) s u e x k = .no) :
    firePick s u e defer x = .run i (focusOn s u e slot defer) := by
  have hpick := pickFrom_lowest hrule SlotPick.noConfusion 32 0 (Nat.zero_le _) (by omega) fun k _ hk => hlow k hk
  simp only [firePick, hfree, hpick]

end picker

/-- The picker of a placed element that is free to fire. -/
theorem fireReady_free {s : State} {u e : Nat} {x : UnitSt} (defer : Bool) (hx : s.placed? u = some x) (he : e < x.cfg.elemCount)
    (hpick : (x.elem e).selfTake.pick = .run) (hbusy : (x.elem e).selfTake.busy ≤ s.clk.cyc)
    (hheld : (x.elem e).selfTake.heldBy = none) (hdrained : (x.elem e).selfTake.drained = false) :
    fireReady s u e defer = firePick (s.setUnit u (x.setElem e (x.elem e).selfTake)) u e defer (x.setElem e (x.elem e).selfTake) := by
  simp only [fireReady, hx, if_neg (Nat.not_le.mpr he), State.setUnit_clk, hpick, hbusy, hheld, hdrained, beq_self_eq_true,
    decide_true, Option.isNone_none, Bool.not_false, Bool.and_self, if_true]

end Sys2Proof.Machine

namespace Sys2Proof.Spec
open Machine

/-- A step that has something to run is exec of it, settled. -/
theorem step_of_run {s t : State} {i : Instr} (h : ready s = .run i t) : step s = settled (exec i t) := by
  rw [step, h]
  dsimp only
  cases exec i t <;> rfl

/-- Settles O55: what is ready is the picker's rule, or the event. -/
theorem aStepRunsTheDecodedWord : Obligations.AStepRunsTheDecodedWord := by
  unfold Obligations.AStepRunsTheDecodedWord
  refine ⟨?picker, ?event⟩
  case picker =>
    intro s n u e slot defer rest x0 w i hagenda hpow s1 hx he y x s2 hpick hbusy hheld hdrained hword hdec
    have hy : x.elem e = y := UnitSt.elem_setElem_self _ _ _
    have hready : ready s = firePick s2 u e defer x :=
      (ready_of_agenda hagenda).trans ((if_pos hpow).trans (fireReady_free defer hx he hpick hbusy hheld hdrained))
    rw [← hy] at hword
    refine ⟨?_, ?_⟩
    · rintro st hst rfl hturn
      exact step_of_run (hready.trans (firePick_stopped (hy ▸ hst) hword hdec hturn))
    · intro t hfree hlt htrig hholds hwave hres hturn hport hlow hslot hentry hdesc hk
      rw [← hy] at hfree htrig hwave hslot hentry hdesc hk
      exact step_of_run (hready.trans (firePick_fresh hfree hlt
        (lookAt_rule hword hdec htrig hholds hwave hres hturn hport hslot hentry hdesc hk) hlow))
  case event =>
    intro s n rest i hagenda hevent hpow
    refine step_of_run ((ready_of_agenda hagenda).trans (if_neg ?_))
    rcases hpow with hpow | rfl
    · have hpow' : (elapse { s with agenda := rest } n).boot.powered = true := hpow
      simp [hevent, hpow']
    · simp [hevent]

end Sys2Proof.Spec
end

section
/-! PROOFS. The events of one element: wake, resume, starve, idle, gate and watchdog (R73-R76, R351, R355). -/

namespace Sys2Proof.Machine

variable {s : State} {u e : Nat} {x : UnitSt}

/-! ## Pickers that run again (R351, R355) -/

/-- An idled picker, or one that BRK stopped, runs after a resume. -/
theorem State.pick_resume (hx : s.unit? u = some x) (h : (x.elem e).pick = .brk ∨ ∃ lim sig, (x.elem e).pick = .idle lim sig) :
    ((s.resume u e).elem u e).pick = .run := by
  rw [State.resume, State.elem_modElem_self hx]
  rcases h with h | ⟨lim, sig, h⟩ <;> simp only [h]

/-- Only an idled picker has something to wake for. -/
theorem State.idle_of_wakes (h : s.wakes x e = true) : ∃ lim sig, (x.elem e).pick = .idle lim sig := by
  unfold State.wakes at h
  split at h
  next lim sig hpick => exact ⟨lim, sig, hpick⟩
  next => cases h

theorem execPeekContinueIdleWake_wakes (hx : s.unit? u = some x) (h : s.wakes x e = true) :
    execPeekContinueIdleWake u e s = .next (s.resume u e) := by
  simp only [execPeekContinueIdleWake, hx, h, if_true]

/-- The section's quiet time begins anew with the resume (R73). -/
theorem execBreakpointResume_brk (hp : s.boot.powered = true) (hl : s.linkUp = true) (hx : s.unit? u = some x)
    (h : (x.elem e).pick = .brk) :
    execBreakpointResume u e s = .next ((s.resume u e).modUnit u fun x => { x with quietAt := s.clk.cyc }) := by
  rw [execBreakpointResume, State.whenReached_of_up hp hl]
  simp [State.writeLocal, State.elem_of_unit hx, h]

/-- Only a unit's quiet time changed leaves its elements. -/
theorem State.elem_modUnit_quietAt (s : State) (u e c : Nat) :
    (s.modUnit u fun x => { x with quietAt := c }).elem u e = s.elem u e := by
  rw [State.elem, State.elem, State.unit?_modUnit_self]
  cases s.unit? u <;> rfl

/-! ## Status bits (R74, R75) -/

theorem execStarveBitSet_due {k c : Nat} (hx : s.placed? u = some x) (hsince : (x.elem e).starveAt.get? k = some c)
    (hholds : slotHolds x e k = true) (hdue : c + 2 ^ 20 ≤ s.clk.cyc) :
    execStarveBitSet u e k s = .next (s.setUnit u (x.setElem e { x.elem e with
      starve := (x.elem e).starve ||| (1#32 <<< (k % 32))
      starveNow := (s.clk.cyc, (x.elem e).starvedIn s.clk.cyc ||| (1#32 <<< (k % 32))) })) := by
  rw [execStarveBitSet, inSection_placed hx]
  simp only [hsince, hholds, hdue, decide_true, Bool.and_self, if_true]

theorem execElementStatusIdleSet_due (hx : s.placed? u = some x) (hlast : (x.elem e).lastFire + 2 ^ 24 ≤ s.clk.cyc)
    (harmed : x.armedAt + 2 ^ 24 ≤ s.clk.cyc) :
    execElementStatusIdleSet u e s = .next (s.setUnit u (x.setElem e { x.elem e with idleBit := true })) := by
  rw [execElementStatusIdleSet, inSection_placed hx]
  exact congrArg Host.Outcome.next (if_pos (by omega))

/-! ## Gated halves (R76) -/

/-- A half leaves off only to on. -/
theorem moveGate_gate (y : Elem) (want : Gate) :
    (moveGate y want).gate = if y.gate = .off ∧ want ≠ .on then .off else want := by
  unfold moveGate
  split
  next hgate => simp [hgate]
  next hgate hon => exact hgate.trans (if_pos ⟨hgate, hon⟩).symm
  next => simp [State.halfOff]
  next hgate _ => exact (if_neg fun h => hgate h.1).symm

/-- Its registers are lost where it comes from off or goes there. -/
theorem moveGate_g (y : Elem) (want : Gate) (i : Fin 8) :
    (moveGate y want).g[i] =
      if 4 ≤ i.val ∧ y.gate ≠ want ∧ (y.gate = .off ∧ want = .on ∨ want = .off) then {} else y.g[i] := by
  unfold moveGate
  split
  next hgate => simp [State.halfOff, hgate]
  next hgate hon =>
    refine (if_neg ?_).symm
    rintro ⟨-, hne, ⟨-, h⟩ | h⟩
    · exact hon h
    · exact hne (hgate.trans h.symm)
  next hgate =>
    have hne : y.gate ≠ .off := hgate
    simp [State.halfOff, hne]
  next hoff hgate hon =>
    refine (if_neg ?_).symm
    rintro ⟨-, -, ⟨h, -⟩ | h⟩
    · exact hgate h
    · exact hoff h

theorem execGateStateChange_moves (hx : s.placed? u = some x) (hgated : (x.elem e).cfg.gated = true)
    (hfiring : (x.elem e).firing = none) (hbusy : (x.elem e).busy ≤ s.clk.cyc) :
    execGateStateChange u e s =
      .next (s.setUnit u (x.setElem e (moveGate (x.elem e) (s.gateWanted (x.quarterOf e) true)))) := by
  rw [execGateStateChange, inSection_placed hx]
  simp only [hgated, hfiring, hbusy, Option.isNone_none, decide_true, Bool.and_self, if_true]

end Sys2Proof.Machine

namespace Sys2Proof.Spec
open Machine

/-- Settles O35: each event is the operation above that it names. -/
theorem elementEvents : Obligations.ElementEvents := by
  unfold Obligations.ElementEvents
  refine ⟨?wake, ?resume, ?starve, ?idle, ?gate, ?watchdog⟩
  case wake =>
    exact fun s u e x hx h => ⟨_, execPeekContinueIdleWake_wakes hx h, State.pick_resume hx (.inr (State.idle_of_wakes h))⟩
  case resume =>
    intro s u e x hp hl hx h
    refine ⟨_, execBreakpointResume_brk hp hl hx h, ?_⟩
    rw [State.elem_modUnit_quietAt]
    exact State.pick_resume hx (.inl h)
  case starve =>
    intro s u e k x c hx hsince hholds hk hdue
    exact ⟨_, execStarveBitSet_due hx hsince hholds hdue, by simp [Nat.mod_eq_of_lt hk]⟩
  case idle => exact fun s u e x hx hlast harmed => ⟨_, execElementStatusIdleSet_due hx hlast harmed, by simp⟩
  case gate =>
    intro s u e x hx hgated hfiring hbusy
    refine ⟨_, execGateStateChange_moves hx hgated hfiring hbusy, ?_⟩
    rw [State.elem_setUnit_self, UnitSt.elem_setElem_self]
    exact ⟨moveGate_gate _ _, moveGate_g _ _⟩
  case watchdog =>
    intro s u x hx hbrk hquiet
    refine (inSection_placed hx _).trans (congrArg Host.Outcome.next (if_neg ?_))
    simp only [hbrk, Bool.false_or, decide_eq_true_eq]
    omega

end Sys2Proof.Spec
end

section
/-! PROOFS. The systolic grid: tokens that meet vectors or go east alone, and additions at the south edge (R68, R70, R81, R232-R235,
R247, R305). -/

namespace Sys2Proof.Machine

/-! ## Kinds of tokens (R26) -/

theorem Token.isDrain_of_isData {t : Token} (h : t.isData = true) : t.isDrain = false := by
  simp only [Token.isData, decide_eq_true_eq] at h
  simp only [Token.isDrain, beq_eq_false_iff_ne, ne_eq]
  rintro heq
  simp [heq] at h

theorem Token.mark_of_isPoison {t : Token} (h : t.isPoison = true) : t.isData = false ∧ t.isDrain = false := by
  simp only [Token.isPoison, beq_iff_eq] at h
  simp [Token.isData, Token.isDrain, h]

/-! ## A token taken by a systolic element (R68, R70, R232, R234, R305) -/

section token
variable {s : State} {u e : Nat} {x x1 x2 : UnitSt} {t : Token} {p : PsVec} (hx : s.placed? u = some x)
  (hsys : (x.elem e).cfg.systolic = true) (hstop : (x.elem e).stopped = false) (hbusy : (x.elem e).sysBusy ≤ s.clk.cyc)
  (hbrick : (x.elem e).brickBusy ≤ s.clk.cyc) (hwld : wldFirst s u x e = false) (hhead : ((x.elem e).visible 0).head? = some t)
include hx hsys hstop hbusy hbrick hwld hhead

/-- A data token meets the next vector and passes east and south. -/
theorem execSystolicTokenProcess_data (hdata : t.isData = true) (hnorth : northVec x e = some (p, x1)) :
    let r := sysMeet x1.cfg.pal x1.cfg.flush (RMode.ofCode x1.cfg.mode) (x.elem e).mb t p
    passEast (x1.setElem e { (x1.elem e).dequeue 0 with sysBusy := s.clk.cyc + r.2.2, fl := (x1.elem e).fl ||| r.2.1 }) e t
      = some x2 →
    execSystolicTokenProcess u e s = .next (s.setUnit u { passSouth x2 e r.1 t with quietAt := s.clk.cyc }) := by
  intro r heast
  have hfree : ¬ s.clk.cyc < max (x.elem e).sysBusy (x.elem e).brickBusy := by omega
  rw [execSystolicTokenProcess, inSection_placed hx]
  simp only [hsys, hstop, hfree, hwld, hhead, Token.isDrain_of_isData hdata, hdata, hnorth, Bool.not_true, Bool.or_self,
    decide_false, Bool.false_eq_true, if_false, if_true]
  rw [heast]

/-- A poison token takes a vector and poisons it. -/
theorem execSystolicTokenProcess_poison (hpoison : t.isPoison = true) (hnorth : northVec x e = some (p, x1))
    (heast : passEast (x1.setElem e { (x1.elem e).dequeue 0 with sysBusy := s.clk.cyc + 1 }) e t = some x2) :
    execSystolicTokenProcess u e s =
      .next (s.setUnit u { passSouth x2 e { p with poison := true } t with quietAt := s.clk.cyc }) := by
  have hfree : ¬ s.clk.cyc < max (x.elem e).sysBusy (x.elem e).brickBusy := by omega
  obtain ⟨hdata, hdrain⟩ := Token.mark_of_isPoison hpoison
  rw [execSystolicTokenProcess, inSection_placed hx]
  simp only [hsys, hstop, hfree, hwld, hhead, hdrain, hdata, hpoison, hnorth, heast, Bool.not_true, Bool.or_self, decide_false,
    Bool.false_eq_true, if_false, if_true]

/-- Another mark goes east alone. -/
theorem execSystolicTokenProcess_mark (hdata : t.isData = false) (hpoison : t.isPoison = false) (hdrain : t.isDrain = false)
    (heast : passEast (x.setElem e ((x.elem e).dequeue 0)) e t = some x2) :
    execSystolicTokenProcess u e s = .next (s.setUnit u { x2 with quietAt := s.clk.cyc }) := by
  have hfree : ¬ s.clk.cyc < max (x.elem e).sysBusy (x.elem e).brickBusy := by omega
  rw [execSystolicTokenProcess, inSection_placed hx]
  simp only [hsys, hstop, hfree, hwld, hhead, hdrain, hdata, hpoison, heast, Bool.not_true, Bool.or_self, decide_false,
    Bool.false_eq_true, if_false]

end token

/-! ## Lanes of an accumulator of 32-bit lanes (R225) -/

section lanes
variable {a b : Acc}

@[simp] theorem Acc.ty_setLane (a : Acc) (i bits : Nat) : (a.setLane i bits).ty = a.ty := by
  unfold Acc.setLane
  dsimp only
  split <;> rfl

theorem Acc.setLane_lanes (h : a.ty ≠ .fp64) (i bits : Nat) :
    (a.setLane i bits).lanes = a.lanes.put i (BitVec.ofNat 32 bits) 0 := by
  unfold Acc.setLane
  dsimp only
  split
  · next h64 => exact absurd h64 h
  · rfl

theorem Acc.raw_setLane_self (h : a.ty ≠ .fp64) (i bits : Nat) : (a.setLane i bits).raw i = bits % 2 ^ 32 := by
  rw [Acc.raw, Acc.setLane_lanes h, Assoc.getD_put_self, BitVec.toNat_ofNat]

theorem Acc.raw_setLane_ne (h : a.ty ≠ .fp64) {i j : Nat} (bits : Nat) (hj : j ≠ i) : (a.setLane i bits).raw j = a.raw j := by
  rw [Acc.raw, Acc.setLane_lanes h, Assoc.getD_put_ne _ _ _ _ hj, Acc.raw]

/-- The value of a 32-bit lane is that of its bits. -/
theorem Acc.val_of_raw (hty : b.ty = a.ty) (h : a.ty ≠ .fp64) {i : Nat} (hraw : b.raw i = a.raw i) (flush : Bool) :
    b.val flush i = a.val flush i := by
  have hlane : b.lane i = a.lane i := by
    unfold Acc.lane
    rw [hty]
    split
    · next h64 => exact absurd h64 h
    · exact hraw
  simp only [Acc.val, hty, hlane, hraw]

/-- An accumulator that a write finds has the type of the write (R230). -/
theorem Acc.ty_retype (a : Acc) (ty : AccTy) (warn : Bool) : (a.retype ty warn).1.ty = ty := by
  unfold Acc.retype
  split
  · next h => exact h
  · rfl

end lanes

end Sys2Proof.Machine

namespace Sys2Proof.Spec
open Machine

/-! ## A vector added at the south edge (R233) -/

/-- The type in which a vector is added: FP32 when the vector or the accumulator is, else INT32. -/
def southTy (p : PsVec) (a : Acc) : AccTy := if p.fp = true ∨ a.ty = .fp32 then .fp32 else .int32

theorem southTy_ne_fp64 (p : PsVec) (a : Acc) : southTy p a ≠ .fp64 := by
  unfold southTy
  split <;> exact AccTy.noConfusion

theorem southOld_ty (p : PsVec) (a : Acc) : (southOld p a).1.ty = southTy p a := Acc.ty_retype _ _ _

/-- One lane of an accumulator of type `ty` with lane `c` of the vector added, and the flags so far. -/
def southStep (p : PsVec) (ty : AccTy) (flush : Bool) (mode : RMode) (base : Nat) (a : Acc × Flags) (c : Nat) : Acc × Flags :=
  let l := storeLane ty flush mode (sumT mode [Term.of (a.1.val flush (base + c)), Term.of (vecVal p flush c)])
  (a.1.setLane (base + c) l.bits, a.2 ||| l.fl)

/-- `n` lanes from `base` on with the vector added. -/
def southSum (p : PsVec) (ty : AccTy) (flush : Bool) (mode : RMode) (base n : Nat) (old : Acc × Flags) : Acc × Flags :=
  (List.range n).foldl (southStep p ty flush mode base) old

/-- What an accumulator is after its first `n` lanes from `base` on took a vector. -/
structure SouthSummed (p : PsVec) (flush : Bool) (mode : RMode) (base n : Nat) (old new : Acc × Flags) : Prop where
  ty : new.1.ty = old.1.ty
  added : ∀ c < n, new.1.raw (base + c) = (southLane p flush mode old.1 (base + c) c).bits % 2 ^ 32
  others : ∀ i, i < base ∨ base + n ≤ i → new.1.raw i = old.1.raw i
  flags : new.2 = (List.range n).foldl (fun f c => f ||| (southLane p flush mode old.1 (base + c) c).fl) old.2

section sum
variable {p : PsVec} {ty : AccTy} {flush : Bool} {mode : RMode} {base : Nat} {old : Acc × Flags}

theorem southSum_succ (n : Nat) : southSum p ty flush mode base (n + 1) old =
    southStep p ty flush mode base (southSum p ty flush mode base n old) n := by
  simp [southSum, List.range_succ]

/-- Each lane takes its own lane of the vector: none has changed before it is taken. -/
theorem southSum_summed (hty : old.1.ty = ty) (h64 : ty ≠ .fp64) (n : Nat) :
    SouthSummed p flush mode base n old (southSum p ty flush mode base n old) := by
  induction n with
  | zero => exact ⟨rfl, fun c hc => absurd hc (Nat.not_lt_zero c), fun _ _ => rfl, rfl⟩
  | succ n ih =>
    rw [southSum_succ]
    generalize southSum p ty flush mode base n old = m at ih
    have hm64 : m.1.ty ≠ .fp64 := by rwa [ih.ty, hty]
    have hval : m.1.val flush (base + n) = old.1.val flush (base + n) :=
      Acc.val_of_raw ih.ty (by rwa [hty]) (ih.others _ (.inr (Nat.le_refl _))) flush
    have hstep : southStep p ty flush mode base m n = (m.1.setLane (base + n) (southLane p flush mode old.1 (base + n) n).bits,
        m.2 ||| (southLane p flush mode old.1 (base + n) n).fl) := by
      rw [southStep, southLane, hval, hty]
    rw [hstep]
    refine ⟨by simp [ih.ty], fun c hc => ?_, fun i hi => ?_, by simp [List.range_succ, ih.flags]⟩
    · rcases Nat.lt_succ_iff_lt_or_eq.mp hc with hlt | rfl
      · exact (Acc.raw_setLane_ne hm64 _ (by omega)).trans (ih.added c hlt)
      · exact Acc.raw_setLane_self hm64 _ _
    · exact (Acc.raw_setLane_ne hm64 _ (by omega)).trans (ih.others i (by omega))

end sum

/-! ## The event (R233, R235, R247) -/

/-- A tail pulses c3. -/
def tailPulsed (y : Elem) (t : Token) : Elem := if t.isTail then y.addPulse 3 1 else y

/-- It changes nothing but that counter. -/
theorem tailPulsed_shape (y : Elem) (t : Token) : tailPulsed y t =
    { y with ctl := if t.isTail then y.ctl.set 3 (min 32 (y.ctl[3] + 1)) else y.ctl } := by
  unfold tailPulsed
  split <;> rfl

/-- The element after a vector of it at the south edge was added. -/
def southAdded (x : UnitSt) (y : Elem) (p : PsVec) (t : Token) : Elem :=
  let k := Fin.ofNat 4 (t.coord.toNat / 64)
  let n := max p.n 1
  let m := southSum p (southTy p y.acc[k]) x.cfg.flush (RMode.ofCode x.cfg.mode) (n * (t.coord.toNat / 256 % (256 / n))) n
    (southOld p y.acc[k])
  { y.setAcc k m.1 with fl := y.fl ||| m.2 }

section edge
variable {s : State} {u e : Nat} {x : UnitSt} {p : PsVec} {t : Token} {rest : List (PsVec × Token)} (hx : s.placed? u = some x)
  (hsouth : (x.elem e).south = (p, t) :: rest)
include hx hsouth

theorem execSouthEdgeAdd_poison (hp : p.poison = true) :
    execSouthEdgeAdd u e s = .next (s.setUnit u (x.setElem e
      (tailPulsed { x.elem e with south := rest, fl := (x.elem e).fl ||| Flags.invalid } t))) := by
  rw [execSouthEdgeAdd, inSection_placed hx]
  simp only [hsouth, hp, Bool.not_true, Bool.false_and, Bool.false_eq_true, if_false, if_true]
  rfl

theorem execSouthEdgeAdd_adds (hp : p.poison = false)
    (hfree : additionWaits (x.elem e) (Fin.ofNat 4 (t.coord.toNat / 64)) = false) :
    execSouthEdgeAdd u e s = .next (s.setUnit u (x.setElem e
      (tailPulsed (southAdded x { x.elem e with south := rest } p t) t))) := by
  have hty : ∀ a : Acc, (if (p.fp || a.ty == .fp32) = true then AccTy.fp32 else .int32) = southTy p a := by
    simp [southTy]
  rw [execSouthEdgeAdd, inSection_placed hx]
  simp only [hsouth, hp, hfree, hty, Bool.and_false, Bool.false_eq_true, if_false]
  rfl

end edge

/-- Settles O38: a token goes as its mark says, and each lane at the south edge takes its own lane of the vector. -/
theorem systolicEvents : Obligations.SystolicEvents := by
  unfold Obligations.SystolicEvents
  refine ⟨?token, ?edge⟩
  case token =>
    intro s u e x t hx hsys hstop hbusy hbrick hwld hhead
    exact ⟨fun p x1 x2 => execSystolicTokenProcess_data hx hsys hstop hbusy hbrick hwld hhead,
      fun p x1 x2 => execSystolicTokenProcess_poison hx hsys hstop hbusy hbrick hwld hhead,
      fun x2 => execSystolicTokenProcess_mark hx hsys hstop hbusy hbrick hwld hhead⟩
  case edge =>
    intro s u e x p t rest hx hsouth hready
    cases hp : p.poison with
    | true =>
      refine ⟨_, execSouthEdgeAdd_poison hx hsouth hp, ?_⟩
      rw [State.elem_setUnit_self, UnitSt.elem_setElem_self, tailPulsed_shape]
      exact ⟨rfl, rfl, fun _ => ⟨rfl, rfl⟩, fun _ _ => rfl, fun h => absurd h (by simp)⟩
    | false =>
      have hfree := hready.resolve_left (by simp [hp])
      refine ⟨_, execSouthEdgeAdd_adds hx hsouth hp hfree, ?_⟩
      rw [State.elem_setUnit_self, UnitSt.elem_setElem_self, tailPulsed_shape]
      refine ⟨rfl, rfl, fun h => absurd h (by simp), fun k hk => ?_, fun _ => ?_⟩
      · exact Vector.getElem_set_ne (Fin.isLt _) k.isLt fun h => hk (Fin.ext h.symm)
      · intro k n j old lane
        have hsum := southSum_summed (p := p) (flush := x.cfg.flush) (mode := RMode.ofCode x.cfg.mode) (base := n * j)
          (southOld_ty p (x.elem e).acc[k]) (southTy_ne_fp64 p (x.elem e).acc[k]) n
        have hacc : ∀ m : Acc, ((x.elem e).acc.set k m)[k] = m := fun m => Vector.getElem_set_self _
        refine ⟨?_, fun c hc => ?_, fun i hi => ?_, ?_⟩
        · exact (congrArg Acc.ty (hacc _)).trans hsum.ty
        · exact (congrArg (fun a => Acc.raw a (n * j + c)) (hacc _)).trans (hsum.added c hc)
        · exact (congrArg (fun a => Acc.raw a i) (hacc _)).trans (hsum.others i hi)
        · exact congrArg ((x.elem e).fl ||| ·) hsum.flags

end Sys2Proof.Spec
end

section
/-! PROOFS. The nodes that a sequencer takes (R77, R330, R331). -/

namespace Sys2Proof.Machine

/-! ## Walks (R77, R331) -/

theorem State.job_of_walkAt {s : State} {j : Nat} {x : Job} {w : Walk} {im : Image} {g : Graph}
    (h : s.walkAt j = some (x, w, im, g)) : s.job j = some x := by
  unfold State.walkAt at h
  split at h
  · cases h
  · next y hy =>
    split at h
    · split at h
      · split at h <;> simp_all
      · cases h
    · cases h

@[simp] theorem State.job_modJob_self (s : State) (j : Nat) (f : Job → Job) : (s.modJob j f).job j = (s.job j).map f := by
  simp [State.job, State.modJob]

end Sys2Proof.Machine

namespace Sys2Proof.Spec
open Machine

section node
variable {s : State} {j kind : Nat} {x : Job} {w : Walk} {im : Image} {g : Graph} {b : List Byte}

/-- The sequencer takes a node of the kind that an event is for. -/
theorem AtNode.withNode_eq (h : AtNode s j kind x w im g b) (f : Job → Walk → Image → Graph → List Byte → State) :
    s.withNode j kind f = .next ((f x w im g b).tookNode g.quarter j) := by
  simp [State.withNode, h.walk, h.turn, h.node, h.good, h.kind]

theorem walkOf_setWalk (hjob : s.job j = some x) (w : Walk) : walkOf (s.setWalk j w) j = some w := by
  simp [walkOf, State.setWalk, hjob]

/-- A job changed in other fields keeps its walk. -/
theorem walkOf_modJob {f : Job → Job} (hf : ∀ y, (f y).walk = y.walk) (s : State) (j : Nat) :
    walkOf (s.modJob j f) j = walkOf s j := by
  simp only [walkOf, State.job_modJob_self]
  cases s.job j <;> simp [hf]

/-! ### ARM (R77) -/

/-- The launch that an ARM node arms. -/
def launched (j : Nat) (w : Walk) (b : List Byte) : Launch := { job := j, graph := w.graph, node := w.node, units := recField b 4 2 }

/-- The state in which the units of an ARM node are armed: its launch has a number, and the walk has gone on. -/
def armedAt (s : State) (j : Nat) (w : Walk) (b : List Byte) : State :=
  { s with launches := s.launches.set s.nextId (launched j w b), nextId := s.nextId + 1 }.setWalk j
    { w with node := w.node + 1, armed := w.armed.set w.node s.nextId, launches := w.launches ++ [s.nextId] }

/-- The units armed for replicas. -/
def armUnits (j : Nat) (x : Job) (g : Graph) (c : SecCfg) (l : Nat) (b : List Byte) (reps : List Nat) (s : State) : State :=
  reps.foldl (fun t r =>
    t.addUnit j x g c l (recField b 2 2) (recField b 8 4) (g.args.getD (recField b 12 4 / 32) []) (recField b 1 1 == 1) r) s

theorem launches_armUnits (c : SecCfg) (l : Nat) (reps : List Nat) (s : State) :
    (armUnits j x g c l b reps s).launches = s.launches := by
  refine foldl_keeps State.launches (fun t r => ?_) reps s
  rfl

theorem walkOf_armUnits (c : SecCfg) (l : Nat) (reps : List Nat) (s : State) :
    walkOf (armUnits j x g c l b reps s) j = walkOf s j := by
  refine foldl_keeps (fun t => walkOf t j) (fun t r => ?_) reps s
  refine walkOf_modJob ?_ _ j
  exact fun _ => rfl

theorem nextId_armUnits (c : SecCfg) (l : Nat) (reps : List Nat) (s : State) :
    (armUnits j x g c l b reps s).nextId = s.nextId + reps.length := by
  induction reps generalizing s with
  | nil => rfl
  | cons r reps ih =>
    rw [List.length_cons, Nat.add_comm reps.length, ← Nat.add_assoc]
    exact ih _

theorem AtNode.exec_arm {c : SecCfg} (h : AtNode s j 1 x w im g b) (hsec : im.secs[recField b 2 2]? = some c) :
    exec (.nodeArm j) s = .next
      ((armUnits j x g c s.nextId b (List.range (recField b 4 2)) (armedAt s j w b)).tookNode g.quarter j) := by
  refine (h.withNode_eq _).trans ?_
  simp only [hsec]
  rfl

/-! ### LOOP (R77) -/

/-- Where a LOOP node sends its walk. -/
def looped (w : Walk) (b : List Byte) : Walk :=
  let left := w.loops.getD w.node (recField b 4 4 - 1)
  if left = 0 then { w with node := w.node + 1, loops := w.loops.erase w.node }
  else { w with node := recField b 2 2, loops := w.loops.set w.node (left - 1) }

theorem looped_node (w : Walk) (b : List Byte) : (looped w b).node =
    if w.loops.getD w.node (recField b 4 4 - 1) = 0 then w.node + 1 else recField b 2 2 := by
  unfold looped
  dsimp only
  split <;> rfl

theorem AtNode.exec_loop (h : AtNode s j 4 x w im g b) :
    exec (.nodeLoop j) s = .next ((s.setWalk j (looped w b)).tookNode g.quarter j) := by
  refine (h.withNode_eq _).trans ?_
  unfold looped
  dsimp only
  split <;> rfl

end node

/-- Settles O45: each event takes the node of its kind. -/
theorem sequencerNodes : Obligations.SequencerNodes := by
  unfold Obligations.SequencerNodes
  refine ⟨?arm, ?wait, ?signal, ?loop, ?finish⟩
  case arm =>
    intro s j x w im g b c h hsec
    refine ⟨_, h.exec_arm hsec, ?_, ?_, ?_⟩
    · exact (nextId_armUnits ..).trans (by rw [List.length_range]; rfl)
    · refine (congrArg (Assoc.get? · s.nextId) (launches_armUnits ..)).trans ?_
      exact Assoc.get?_set_self _ _ _
    · exact (walkOf_armUnits ..).trans (walkOf_setWalk (State.job_of_walkAt h.walk) _)
  case wait =>
    intro s j x w im g b h hholds
    have hwait := h.withNode_eq fun x w _ _ b => if waitHolds s x w b then s.setWalk j { w with node := w.node + 1 } else s
    rw [if_pos hholds] at hwait
    exact ⟨hwait, hwait⟩
  case signal =>
    intro s j x w im g b h
    refine ⟨fun hmode => (h.withNode_eq _).trans ?_, fun hmode => (h.withNode_eq _).trans ?_⟩
    · rw [if_pos hmode]
    · rw [if_neg hmode]
  case loop =>
    intro s j x w im g b h
    refine ⟨_, h.exec_loop, ?_⟩
    have hwalk : walkOf ((s.setWalk j (looped w b)).tookNode g.quarter j) j = some (looped w b) :=
      walkOf_setWalk (State.job_of_walkAt h.walk) _
    rw [hwalk, Option.map_some, looped_node]
  case finish => exact fun s j x w im g b h => h.withNode_eq _

end Sys2Proof.Spec
end
section
/-! PROOFS. How launches, graphs, phases and jobs complete, and what a job gives back (R78, R79, R118, R276, R329, R372). -/

namespace Sys2Proof.Machine

/-! ## The worst of several statuses (R78) -/

/-- Cancelled or failed: no later status makes that done. -/
def Status.bad (a : Status) : Prop := a = .cancelled ∨ a = .failed

theorem Status.bad_worse {a : Status} (h : a.bad) (b : Status) : (a.worse b).bad := by
  rcases h with rfl | rfl
  · cases b
    case failed => exact .inr rfl
    all_goals exact .inl rfl
  · exact .inr rfl

@[simp] theorem Status.worse_failed (a : Status) : a.worse .failed = .failed := by cases a <;> rfl

theorem Status.foldl_worse_bad {a : Status} (h : a.bad) (l : List Status) : (l.foldl Status.worse a).bad :=
  foldl_inv (P := Status.bad) (fun _ b ha => bad_worse ha b) l h

theorem Status.foldl_worse_failed (l : List Status) : l.foldl Status.worse .failed = .failed := by
  induction l with
  | nil => rfl
  | cons b l ih => exact ih

theorem Status.foldl_worse_of_mem {l : List Status} (h : Status.failed ∈ l) (a : Status) :
    l.foldl Status.worse a = .failed := by
  induction l generalizing a with
  | nil => cases h
  | cons b l ih =>
    rw [List.foldl_cons]
    rcases List.mem_cons.mp h with rfl | h
    · rw [Status.worse_failed, Status.foldl_worse_failed]
    · exact ih h _

/-! ## Launches, graphs and phases (R78) -/

theorem execLaunchComplete_ended {s : State} {l : Nat} {x : Launch} (hl : s.launch? l = some x) (hrun : x.status = .running)
    (hunits : x.units ≤ x.ended) :
    ∃ r, execLaunchComplete l s = .next r ∧ r.launch? l =
      some { x with status := if x.fail then .failed else if x.cancel then .cancelled else .done } := by
  simp only [execLaunchComplete, hl, hrun, hunits, and_self, if_true]
  refine ⟨_, rfl, ?_⟩
  exact (Assoc.get?_upd_self s.launches l _).trans (by rw [show s.launches.get? l = some x from hl, Option.map_some])

/-- The status of a launch; one that is gone counts as done. -/
def State.launchStatus (s : State) (l : Nat) : Status := ((s.launch? l).map Launch.status).getD .done

/-- The outcome of a walk by itself. -/
def Walk.own (w : Walk) : Status := if w.bad then .failed else if w.cancel then .cancelled else .done

/-- The outcome of a graph: the worst of its walk's own and its launches'. -/
def State.graphOutcome (s : State) (w : Walk) : Status := (w.launches.map s.launchStatus).foldl Status.worse w.own

theorem State.graphOutcome_bad {s : State} {w : Walk} (h : w.bad = true) : s.graphOutcome w = .failed := by
  simp [State.graphOutcome, Walk.own, h, Status.foldl_worse_failed]

theorem State.graphOutcome_cancelled {s : State} {w : Walk} (hbad : w.bad = false) (h : w.cancel = true) : s.graphOutcome w ≠ .done := by
  have hown : w.own.bad := .inl (by simp [Walk.own, hbad, h])
  rcases Status.foldl_worse_bad hown (w.launches.map s.launchStatus) with h | h
  all_goals
    rw [State.graphOutcome, h]
    exact Status.noConfusion

theorem State.graphOutcome_failed {s : State} {w : Walk} {l : Nat} {y : Launch} (hl : l ∈ w.launches) (hy : s.launch? l = some y)
    (h : y.status = .failed) : s.graphOutcome w = .failed :=
  Status.foldl_worse_of_mem (List.mem_map.mpr ⟨l, hl, by simp [State.launchStatus, hy, h]⟩) _

theorem execGraphComplete_over {s : State} {j : Nat} {x : Job} {w : Walk} (hjob : s.job j = some x) (hwalk : x.walk = some w)
    (hover : (w.ended || w.cancel || w.bad) = true)
    (hdone : ∀ l ∈ w.launches, ∀ y, s.launch? l = some y → y.status ≠ .running) :
    execGraphComplete j s = .next (s.modJob j fun y => { y with
        walk := none, pos := y.pos + 1, graphStatus := s.graphOutcome w, graphsDone := y.graphsDone + 1
        phaseWorst := y.phaseWorst.worse (s.graphOutcome w) }).startGraphs := by
  have hnone : (w.launches.map s.launchStatus).contains .running = false := by
    refine Bool.eq_false_iff.mpr fun hmem => ?_
    obtain ⟨l, hl, hrun⟩ := List.mem_map.mp (List.contains_iff_mem.mp hmem)
    unfold State.launchStatus at hrun
    cases hy : s.launch? l with
    | none => simp [hy] at hrun
    | some y => exact hdone l hl y hy (by simpa [hy] using hrun)
  unfold execGraphComplete
  rw [hjob]
  dsimp -zeta only
  rw [hwalk]
  dsimp -zeta only
  extract_lets sts own st
  have hsts : sts = w.launches.map s.launchStatus := by
    refine List.map_congr_left fun l _ => ?_
    unfold State.launchStatus
    cases s.launch? l <;> rfl
  have hst : st = s.graphOutcome w := by rw [State.graphOutcome, ← hsts]; rfl
  rw [hsts, hover, hnone, hst]
  rfl

theorem execPhaseComplete_last {s : State} {j : Nat} {x : Job} {gs : List Nat} (hjob : s.job j = some x)
    (hphase : x.phases[x.phase]? = some gs) (hactive : x.active = true) (hwalk : x.walk = none) (hpos : gs.length ≤ x.pos) :
    execPhaseComplete j s = .next (s.modJob j fun y => { y with
      phaseStatus := if x.phases.length ≤ x.phase + 1 then y.phaseWorst else .running
      phasesDone := y.phasesDone + 1, phase := y.phase + 1, pos := 0
      graphsDone := if x.phases.length ≤ x.phase + 1 then y.graphsDone else 0
      phaseCancel := y.jobCancel, phaseWorst := .done, graphWorst := y.graphWorst.worse y.phaseWorst }).startGraphs := by
  simp only [execPhaseComplete, hjob, hphase, hactive, hwalk, hpos, Option.isNone_none, decide_true, Bool.and_self, if_true]

/-! ## Operand slots given back (R118, R276) -/

@[simp] theorem Assoc.get?_mapVals {α : Type} (m : Assoc α) (f : Nat → α → α) (n : Nat) :
    Assoc.get? (m.mapVals f) n = (m.get? n).map (f n) := by
  induction m with
  | nil => rfl
  | cons p m ih =>
    obtain ⟨k, v⟩ := p
    by_cases hk : k = n
    · subst hk
      simp [Assoc.mapVals, Assoc.get?]
    · simpa [Assoc.mapVals, Assoc.get?, hk] using ih

theorem Assoc.mem_of_get? {α : Type} {m : Assoc α} {n : Nat} {v : α} (h : m.get? n = some v) : (n, v) ∈ m := by
  induction m with
  | nil => cases h
  | cons p m ih =>
    obtain ⟨k, w⟩ := p
    by_cases hk : k = n
    · subst hk
      simp [Assoc.get?] at h
      simp [h]
    · simp only [Assoc.get?, hk, if_false] at h
      exact List.mem_cons_of_mem _ (ih h)

section slots
variable {s : State} {q n : Nat}

@[simp] theorem State.slotOf_setSlot_self (s : State) (q n : Nat) (x : OpSlot) : (s.setSlot q n x).slotOf q n = x :=
  Assoc.getD_put_self _ _ _ _

theorem State.slotOf_setSlot_ne (s : State) {q n q' n' : Nat} (x : OpSlot) (h : 512 * q + n ≠ 512 * q' + n') :
    (s.setSlot q' n' x).slotOf q n = s.slotOf q n :=
  Assoc.getD_put_ne _ _ _ _ h

@[simp] theorem startZero_clk (s : State) (q n : Nat) : (startZero s q n).clk = s.clk := by
  unfold startZero
  dsimp only
  split <;> rfl

@[simp] theorem startZero_jobs (s : State) (q n : Nat) : (startZero s q n).jobs = s.jobs := by
  unfold startZero
  dsimp only
  split <;> rfl

/-- What is aimed at a slot does not depend on the slots. -/
@[simp] theorem slotBusy_startZero (s : State) (q n q' n' : Nat) : slotBusy (startZero s q' n') q n = slotBusy s q n := by
  unfold startZero
  dsimp only
  split <;> rfl

theorem startZero_ne {q' n' : Nat} (h : 512 * q + n ≠ 512 * q' + n') : (startZero s q' n').slotOf q n = s.slotOf q n := by
  unfold startZero
  dsimp only
  split
  · exact State.slotOf_setSlot_ne s _ h
  · rfl

/-- A slot as the zeroing finds it that begins in cycle `c`. -/
def OpSlot.zeroing (x : OpSlot) (c : Nat) : OpSlot := { x with job := none, release := false, zeroAt := some (c + 1024) }

theorem startZero_self (s : State) (q n : Nat) : (startZero s q n).slotOf q n =
    if ((s.slotOf q n).release && !slotBusy s q n) = true then (s.slotOf q n).zeroing s.clk.cyc else s.slotOf q n := by
  unfold startZero
  dsimp only
  split
  · exact State.slotOf_setSlot_self s q n _
  · rfl

/-- Slots looked at one after the other, by number. -/
def zeroEach (l : List (Nat × OpSlot)) (s : State) : State := l.foldl (fun t p => startZero t (p.1 / 512) (p.1 % 512)) s

theorem zeroEach_cons (p : Nat × OpSlot) (l : List (Nat × OpSlot)) (s : State) :
    zeroEach (p :: l) s = zeroEach l (startZero s (p.1 / 512) (p.1 % 512)) := rfl

@[simp] theorem zeroEach_jobs (l : List (Nat × OpSlot)) (s : State) : (zeroEach l s).jobs = s.jobs := by
  refine foldl_keeps State.jobs (fun t p => ?_) l s
  exact startZero_jobs t _ _

/-- A slot that is aimed at or was not released stays as it is. -/
theorem zeroEach_stays (hn : n < 512) (l : List (Nat × OpSlot)) (h : slotBusy s q n = true ∨ (s.slotOf q n).release = false) :
    (zeroEach l s).slotOf q n = s.slotOf q n := by
  induction l generalizing s with
  | nil => rfl
  | cons p l ih =>
    have hstep : (startZero s (p.1 / 512) (p.1 % 512)).slotOf q n = s.slotOf q n := by
      by_cases hkey : 512 * q + n = p.1
      · obtain ⟨rfl, rfl⟩ : p.1 / 512 = q ∧ p.1 % 512 = n := by omega
        rw [startZero_self, if_neg]
        rcases h with h | h <;> simp [h]
      · exact startZero_ne (by omega)
    rw [zeroEach_cons, ih (by rwa [slotBusy_startZero, hstep]), hstep]

/-- A released slot of the list that nothing is aimed at begins to be zeroed. -/
theorem zeroEach_zeroes (hn : n < 512) {l : List (Nat × OpSlot)} {x : OpSlot} (hmem : (512 * q + n, x) ∈ l)
    (hbusy : slotBusy s q n = false) (hrel : (s.slotOf q n).release = true) :
    (zeroEach l s).slotOf q n = (s.slotOf q n).zeroing s.clk.cyc := by
  induction l generalizing s with
  | nil => cases hmem
  | cons p l ih =>
    rw [zeroEach_cons]
    by_cases hkey : 512 * q + n = p.1
    · obtain ⟨hq, hn'⟩ : p.1 / 512 = q ∧ p.1 % 512 = n := by omega
      have hstep : (startZero s q n).slotOf q n = (s.slotOf q n).zeroing s.clk.cyc := by
        rw [startZero_self, if_pos (by simp [hrel, hbusy])]
      rw [hq, hn', zeroEach_stays hn l (.inr (by rw [hstep]; rfl)), hstep]
    · have hstep : (startZero s (p.1 / 512) (p.1 % 512)).slotOf q n = s.slotOf q n := startZero_ne (by omega)
      have hmem' : (512 * q + n, x) ∈ l := by
        rcases List.mem_cons.mp hmem with rfl | h
        · exact absurd rfl hkey
        · exact h
      rw [ih hmem' (by rwa [slotBusy_startZero]) (by rwa [hstep]), hstep, startZero_clk]

/-! ## A job that gives back what it holds (R118, R329) -/

/-- The operand slots of job `j` released, nothing looked at yet. -/
def State.slotsReleased (s : State) (j : Nat) : Assoc OpSlot :=
  s.slots.mapVals fun _ x => if x.job = some j then { x with release := true } else x

/-- The state in which the slots of job `j` are looked at. -/
def State.givenBack (s : State) (j : Nat) : State :=
  { s with slots := s.slotsReleased j
           residents := s.residents.filter fun r => r.job != j
           heldIn := s.heldIn.filter fun i => match s.unit? i.u with
             | some x => x.job != j
             | none => false
           sweep := { s.sweep with reads := s.sweep.reads.filter fun p => match p.2.use with
             | .rollback k _ _ => k != j
             | .thaw _ _ _ => true } }

theorem State.releaseJob_eq (s : State) (j : Nat) : s.releaseJob j =
    zeroEach ((s.slotsReleased j).filter fun p => p.2.release) (s.givenBack j) := rfl

section job
variable {j : Nat} (hjob : (s.slotOf q n).job = some j)
include hjob

/-- A slot that a job holds is listed. -/
theorem State.get?_slotsReleased : (s.slotsReleased j).get? (512 * q + n) = some { s.slotOf q n with release := true } := by
  have hget : s.slots.get? (512 * q + n) = some (s.slotOf q n) := by
    unfold State.slotOf Assoc.getD at hjob ⊢
    cases h : s.slots.get? (512 * q + n) with
    | none => simp [h] at hjob
    | some x => rfl
  simp [State.slotsReleased, hget, hjob]

theorem State.slotOf_givenBack : (s.givenBack j).slotOf q n = { s.slotOf q n with release := true } := by
  have h := State.get?_slotsReleased hjob
  simp only [State.slotOf, Assoc.getD] at h ⊢
  exact congrArg (Option.getD · {}) h

/-- A slot of the job that is still aimed at waits, released. -/
theorem State.slotOf_releaseJob_busy (hn : n < 512) (hbusy : slotBusy s q n = true) :
    (s.releaseJob j).slotOf q n = { s.slotOf q n with release := true } := by
  rw [State.releaseJob_eq, zeroEach_stays (s := s.givenBack j) hn _ (.inl hbusy), State.slotOf_givenBack hjob]

/-- Any other slot of the job begins to be zeroed. -/
theorem State.slotOf_releaseJob_free (hn : n < 512) (hbusy : slotBusy s q n = false) :
    (s.releaseJob j).slotOf q n = { s.slotOf q n with job := none, release := false, zeroAt := some (s.clk.cyc + 1024) } := by
  have hmem : (512 * q + n, { s.slotOf q n with release := true }) ∈ (s.slotsReleased j).filter fun p => p.2.release :=
    List.mem_filter.mpr ⟨Assoc.mem_of_get? (State.get?_slotsReleased hjob), rfl⟩
  have hslot := State.slotOf_givenBack hjob
  rw [State.releaseJob_eq, zeroEach_zeroes (s := s.givenBack j) hn hmem hbusy (by rw [hslot]), hslot]
  rfl

end job

theorem State.job_releaseJob (s : State) (j k : Nat) : (s.releaseJob j).job k = s.job k := by
  rw [State.releaseJob_eq, State.job, zeroEach_jobs]
  rfl

end slots

/-- The state in which a job has ended, its completion record still to be posted. -/
def State.jobEnded (s : State) (j : Nat) (x : Job) : State :=
  let t := (s.releaseJob j).modJob j fun y => { y with active := false, status := x.graphWorst, since := none }
  t.setQueue x.queue { t.queue x.queue with jobs := (t.queue x.queue).jobs.filter fun n => n != j }

theorem execJobComplete_last {s : State} {j : Nat} {x : Job} (hjob : s.job j = some x) (hactive : x.active = true)
    (hwalk : x.walk = none) (hphase : x.phases.length ≤ x.phase) (hfaults : s.faultsWait x.queue j = false) :
    execJobComplete j s = .next ((s.jobEnded j x).putRecord x.queue .comp
      (compRecord 0x83 (State.recStatus x.graphWorst) 0 0 j [])) := by
  simp only [execJobComplete, hjob, hactive, hwalk, hphase, hfaults, Option.isNone_none, decide_true, Bool.not_false, Bool.and_self,
    if_true]
  rfl

theorem State.job_jobEnded {s : State} {j : Nat} {x : Job} (hjob : s.job j = some x) :
    (s.jobEnded j x).job j = some { x with active := false, status := x.graphWorst, since := none } := by
  refine (State.job_modJob_self _ j _).trans ?_
  rw [State.job_releaseJob, hjob, Option.map_some]

theorem State.not_mem_jobs_jobEnded (s : State) (j : Nat) (x : Job) : j ∉ ((s.jobEnded j x).queue x.queue).jobs := by
  simp [State.jobEnded, State.queue, State.setQueue]

end Sys2Proof.Machine

namespace Sys2Proof.Spec
open Machine

/-- Settles O46: each level ends with its outcome, and a job gives its slots back. -/
theorem completionEvents : Obligations.CompletionEvents := by
  unfold Obligations.CompletionEvents
  refine ⟨fun s l x => execLaunchComplete_ended, ?graph, fun s j x gs => execPhaseComplete_last, ?job⟩
  case graph =>
    intro s j x w hjob hwalk hover hdone own st
    exact ⟨execGraphComplete_over hjob hwalk hover hdone, State.graphOutcome_bad, State.graphOutcome_cancelled,
      fun ⟨l, hl, y, hy, hfailed⟩ => State.graphOutcome_failed hl hy hfailed⟩
  case job =>
    intro s j x hjob hactive hwalk hphase hfaults
    refine ⟨s.jobEnded j x, _, execJobComplete_last hjob hactive hwalk hphase hfaults, State.job_jobEnded hjob, rfl, rfl,
      State.not_mem_jobs_jobEnded s j x, fun q n _ hn hslot => ⟨?_, ?_⟩⟩
    · exact State.slotOf_releaseJob_busy hslot hn
    · exact State.slotOf_releaseJob_free hslot hn

end Sys2Proof.Spec
end
section
/-! PROOFS. Every instruction answers a next state (R62, R63). -/

namespace Sys2Proof.Machine

/-- An outcome that is a next state: no fault and no refusal. -/
def Answers (a : Host.Outcome State Fault Refusal) : Prop := ∃ t, a = .next t

theorem answers_next (s : State) : Answers (.next s) := ⟨s, rfl⟩

/-! ## Slot instructions -/

/-- A firing of an element that exists answers a next state, whatever its plan. -/
theorem fire_answers (p : Plan) {s : State} {f : Focus} (hf : s.focus = some f) (hex : s.elemExists f.u f.e = true) :
    Answers (fire p s) := by
  simp only [fire, hf, hex, Bool.not_true, Bool.false_eq_true, if_false]
  repeat' split
  all_goals exact answers_next _

/-- Every instruction that has a word is a firing of one plan. -/
theorem exec_slot_fire (i : Instr) (h : i.hasWord = true) : ∃ p, ∀ s, exec i s = fire p s := by
  cases i <;> simp only [Instr.hasWord, Bool.false_eq_true] at h <;> exact ⟨_, fun _ => rfl⟩

/-! ## Events -/
theorem inSection_answers (s : State) (u : Nat) (f : UnitSt → State) : Answers (inSection s u f) := by
  unfold inSection
  split <;> exact answers_next _

theorem State.whenReached_answers (s t : State) : Answers (s.whenReached t) := by
  unfold State.whenReached
  split <;> exact answers_next _

theorem State.withNode_answers (s : State) (j kind : Nat) (f : Job → Walk → Image → Graph → List Byte → State) :
    Answers (s.withNode j kind f) := by
  fun_cases State.withNode s j kind f <;> exact answers_next _

theorem execCarriageClose_answers (id : Nat) (s : State) : Answers (execCarriageClose id s) := by
  unfold execCarriageClose
  split
  · exact answers_next _
  · exact inSection_answers _ _ _

theorem execStepBoundary_answers (c : SweepClass) (s : State) : Answers (execStepBoundary c s) := by
  fun_cases execStepBoundary c s <;> exact answers_next _

theorem execBudgetWindowBoundary_answers (s : State) : Answers (execBudgetWindowBoundary s) := by
  unfold execBudgetWindowBoundary
  split
  · exact execStepBoundary_answers .quick s
  · exact answers_next _

theorem execCopyComplete_answers (quarter : Nat) (s : State) : Answers (execCopyComplete quarter s) := by
  fun_cases execCopyComplete quarter s <;> exact answers_next _

/-- The events have four shapes: an update at once, one where a register write reaches the device, one in a placed section,
one at the node where a walk stands; the others are trees of cases whose every leaf is a next state. -/
theorem exec_event_answers (i : Instr) (h : i.hasWord = false) (s : State) : Answers (exec i s) := by
  cases i
  case tlbiComplete | classResume | hostLinkDown =>
    exact answers_next _
  case breakpointResume | gateWrite | rclq | swpcWrite | bwldWrite | fresRetry | fresUnresolvable | hostTlbi |
      sctlFreeze | sctlThaw | sctlMove | translationStoreWrite | logdRead | hrefRead | fdropRead | registerWrite |
      soctlWrite | bootc =>
    exact State.whenReached_answers _ _
  case channelTokenArrival | cornerTurnEmit | pulseArrival | configTokenConsume | lateResultWrite | feWaitComplete |
      stageBResult | predicateResultSend | systolicTokenProcess | southEdgeAdd | starveBitSet | elementStatusIdleSet |
      gateStateChange | watchdogExpiry | slotStreamRequest | elementDrainPass | cycleDrainInject | portDrainPass |
      unitEnd | riderPacketCheck | itemAccept | bufferDeliveryComplete | cacheFillReturn | cacheWalkEnd | windowExtend
      =>
    exact inSection_answers _ _ _
  case nodeArm | nodeWait | nodeWaitRelease | nodeSignal | nodeLoop | nodeEnd =>
    exact State.withNode_answers _ _ _ _
  case carriageClose => exact execCarriageClose_answers _ s
  case stepBoundary => exact execStepBoundary_answers _ s
  case budgetWindowBoundary => exact execBudgetWindowBoundary_answers s
  case copyComplete => exact execCopyComplete_answers _ s
  case attestationReport | peekContinueIdleWake | exactUnitResult | tileCountExpiry =>
    simp only [exec, execAttestationReport, execPeekContinueIdleWake, execExactUnitResult, execTileCountExpiry]
    repeat' split
    all_goals exact answers_next _
  case launchComplete | graphComplete | phaseComplete | jobComplete | unitPlacement | sectionRotation =>
    simp only [exec, execLaunchComplete, execGraphComplete, execPhaseComplete, execJobComplete, execUnitPlacement,
      execSectionRotation]
    repeat' split
    all_goals exact answers_next _
  case riderTranslate | translationWalk | riderAlight =>
    simp only [exec, execRiderTranslate, execTranslationWalk, execRiderAlight]
    repeat' split
    all_goals exact answers_next _
  case classStop | idlePause | ringClassChange =>
    simp only [exec, execClassStop, execIdlePause, execRingClassChange]
    repeat' split
    all_goals exact answers_next _
  case copyStart | drnCompletion | guardPoisonReturn =>
    simp only [exec, execCopyStart, execDrnCompletion, execGuardPoisonReturn]
    repeat' split
    all_goals exact answers_next _
  case remoteAcknowledgement | remoteAckTimeout | remoteWriteArrival | messageArrival | messageHoldExpiry |
      collectiveComplete | collectiveMemberTimeout =>
    simp only [exec, execRemoteAcknowledgement, execRemoteAckTimeout, execRemoteWriteArrival, execMessageArrival,
      execMessageHoldExpiry, execCollectiveComplete, execCollectiveMemberTimeout]
    repeat' split
    all_goals exact answers_next _
  case hostLinkTrain | scaleoutPortTrain | scaleoutLinkDown | ethFrameSend | ethFrameReceive | powerGood | powerLoss |
      bootStateAdvance | slotZeroComplete | bankFailure | regionFailure =>
    simp only [exec, execHostLinkTrain, execScaleoutPortTrain, execScaleoutLinkDown, execEthFrameSend,
      execEthFrameReceive, execPowerGood, execPowerLoss, execBootStateAdvance, execSlotZeroComplete, execBankFailure,
      execRegionFailure]
    repeat' split
    all_goals exact answers_next _
  case ingressToken | ingressBucketPass | bucketRateRecompute =>
    simp only [exec, execIngressToken, execIngressBucketPass, execBucketRateRecompute]
    repeat' split
    all_goals exact answers_next _
  case queueRecordArrival | queueArbiterTake | hostOpen | hostClose | queueClosed | ringReadIndexWrite | hostLoad |
      hostPhase | hostRun | hostWait | queueWaitRelease | hostSignal | hostCancel =>
    simp only [exec, execQueueRecordArrival, execQueueArbiterTake, execHostOpen, execHostClose, execQueueClosed,
      execRingReadIndexWrite, execHostLoad, execHostPhase, execHostRun, execHostWait, execQueueWaitRelease,
      execHostSignal, execHostCancel]
    repeat' split
    all_goals exact answers_next _
  all_goals cases h

end Sys2Proof.Machine

namespace Sys2Proof.Spec
open Machine

/-- Settles O56: a slot instruction is a firing, and every leaf of a firing and of an event is a next state. -/
theorem everyInstructionAnswers : Obligations.EveryInstructionAnswers := by
  unfold Obligations.EveryInstructionAnswers
  intro i s hword
  cases hi : i.hasWord with
  | false => exact exec_event_answers i hi s
  | true =>
    obtain ⟨f, hf, hex⟩ := hword hi
    obtain ⟨p, hp⟩ := exec_slot_fire i hi
    rw [hp]
    exact fire_answers p hf hex

end Sys2Proof.Spec
end
section
/-! PROOFS. Firings that end or trap as a plan has them (R65, R66, R181, R255, R369, R371); BUFQ, BUFSET and FENCE (R114, R134, R261,
R262); CLAIM, RLSE and SLQ (R118, R275-R277). -/

namespace Sys2Proof.Machine

/-! ## A beat that traps -/

theorem runBeats_trap {p : Plan} {u e slot n k b cause item va : Nat} {cap : Captured} {s s' : State} {c : Carry}
    (htok : p.tokens (s.elem u e) = true)
    (hbeat : p.beat (if b + 1 = n then clearTaken s u e p.taken else s) (p.beatOf s u e slot n b cap) c = .trap s' cause item va)
    (hcan : s'.canTrap u = true) : runBeats p u e slot n cap (k + 1) b s c =
      s'.trap u e slot cause item va 0 0 (raisedBy (fun t => p.beat t (p.beatOf s u e slot n b cap) c) s u e) := by
  have hlast : (p.beatOf s u e slot n b cap).last = (b + 1 == n) := rfl
  simp only [runBeats, htok, Bool.not_true, Bool.false_eq_true, if_false, hlast, beq_iff_eq, hbeat, beatTrap, hcan, if_true]

/-- A NEW FIRING whose first `k` beats go and whose beat `k` traps. -/
theorem fire_trap {p : Plan} {s s' : State} {f : Focus} {x : UnitSt} {n k cause item va : Nat} {cap : Captured}
    (hf : s.focus = some f) (hx : s.unit? f.u = some x) (he : f.e < x.cfg.elemCount) (hnew : (x.elem f.e).firing = none)
    (hn : Trig.n ((x.elem f.e).trigger p.t) = n) (hcap : p.capture (x.elem f.e) f.slot = cap) (r : Nat → State × Carry)
    (h0 : r 0 = (beginFiring s f.u f.e f.slot p.t, {})) (hk : k < n)
    (h : ∀ b < k, p.tokens ((r b).1.elem f.u f.e) = true ∧ ∃ d,
      p.beat (if b + 1 = n then clearTaken (r b).1 f.u f.e p.taken else (r b).1) (p.beatOf (r b).1 f.u f.e f.slot n b cap)
        (r b).2 = .go d ∧
      d.credit (r b).1 f.u f.e = true ∧
      r (b + 1) = ((sendOut d.s f.u f.e d.sends).modElem f.u f.e fun y =>
        (p.deqs.foldl Elem.dequeue y).hold (r b).1.clk.cyc d.cyc, d.c))
    (htok : p.tokens ((r k).1.elem f.u f.e) = true)
    (hbeat : p.beat (if k + 1 = n then clearTaken (r k).1 f.u f.e p.taken else (r k).1) (p.beatOf (r k).1 f.u f.e f.slot n k cap)
      (r k).2 = .trap s' cause item va)
    (hcan : s'.canTrap f.u = true) : fire p s = .next (s'.trap f.u f.e f.slot cause item va 0 0
      (raisedBy (fun t => p.beat t (p.beatOf (r k).1 f.u f.e f.slot n k cap) (r k).2) (r k).1 f.u f.e)) := by
  obtain ⟨j, hj⟩ : ∃ j, n - k = j + 1 := ⟨n - k - 1, by omega⟩
  have hupto := runBeats_upto r k hk h
  rw [hj, runBeats_trap htok hbeat hcan, h0] at hupto
  simp only [fire, hf, State.elemExists, hx, he, decide_true, Bool.not_true, Bool.false_eq_true, if_false, State.elem_of_unit hx,
    hnew, hn, hcap, hupto]

end Sys2Proof.Machine

namespace Sys2Proof.Spec
open Machine

/-! ## What the beats of a plan do -/

/-- Where a beat of `p` may be done and meets `ok`, it goes with the effect `eff` and sends and takes credit on no more than the
outputs of the form have room for. -/
def Form.Does (m : Form) (p : Plan) (ok : State → Beat → Carry → Prop) (cyc : State → Beat → Nat) (eff : Effect) : Prop :=
  ∀ s bt c, (s.unit? bt.u).isSome = true → ok s bt c → ∃ need,
    p.beat s bt c = .go { s := (eff s bt c).1, c := (eff s bt c).2.2, sends := (eff s bt c).2.1, need := need, cyc := cyc s bt } ∧
    ∀ o, ((eff s bt c).2.1.filter fun q => q.1 = o).length + (need.filter fun q => q = o).length ≤
      if o ∈ m.outs then m.room bt.last else 0

theorem lateNeed_sub (bt : Beat) (d : Dst) : (bt.lateNeed d).Sublist d.outs := by
  unfold Beat.lateNeed
  split
  · exact List.nil_sublist _
  · exact List.Sublist.refl _

/-- A beat that sends nothing itself and whose late results take credit on outputs of their destination. -/
theorem does_late {t : Fin 64} {a b : Opd} {z : Option (Fin 8)} {d : Dst} {p : Plan} {ok : State → Beat → Prop}
    {eff : State → Beat → State × List (Nat × Token)}
    (hbeat : ∀ s bt c x, s.unit? bt.u = some x → ok s bt →
      p.beat s bt c = .go { s := (eff s bt).1, c := c, need := bt.lateNeed d } ∧ (eff s bt).2 = []) :
    (form t a b z d.outs).Does p (plainly ok) one_ (each eff) := by
  intro s bt c hunit hok
  obtain ⟨x, hx⟩ := Option.isSome_iff_exists.mp hunit
  obtain ⟨hgo, hsends⟩ := hbeat s bt c x hx hok
  refine ⟨bt.lateNeed d, ?_, ?_⟩
  · simp only [each, hsends]
    exact hgo
  · simp only [each, hsends]
    exact count_ok (dst_nodup d) (lateNeed_sub bt d)

/-- A beat that neither sends nor takes credit. -/
theorem does_quiet {m : Form} {p : Plan} {ok : State → Beat → Prop} {eff : State → Beat → State × List (Nat × Token)}
    (hbeat : ∀ s bt c x, s.unit? bt.u = some x → ok s bt →
      p.beat s bt c = .go { s := (eff s bt).1, c := c } ∧ (eff s bt).2 = []) :
    m.Does p (plainly ok) one_ (each eff) := by
  intro s bt c hunit hok
  obtain ⟨x, hx⟩ := Option.isSome_iff_exists.mp hunit
  obtain ⟨hgo, hsends⟩ := hbeat s bt c x hx hok
  refine ⟨[], ?_, ?_⟩
  · simp only [each, hsends]
    exact hgo
  · simp [each, hsends]

/-! ## A firing that traps -/

/-- The element of a beat whose flags were cleared has the flags raised in it and no others. -/
theorem fl_raise_of_cleared {s : State} {bt : Beat} (h : (s.unit? bt.u).isSome = true) (fl : Flags) :
    ((bt.raise (s.modElem bt.u bt.e fun y => { y with fl := 0 }) fl).elem bt.u bt.e).fl = fl := by
  obtain ⟨x, hx⟩ := Option.isSome_iff_exists.mp h
  unfold Beat.raise
  split
  · simp_all [State.elem]
  · simp [State.elem, State.raise, hx]

/-- A trap condition that looks at no element. -/
def Unmoved (bad : State → Beat → Option (Nat × Nat)) : Prop :=
  ∀ s bt (g : Elem → Elem), bad (s.modElem bt.u bt.e g) bt = bad s bt

/-- Such a condition holds of the state before a beat as of the one in which the beat has its effect. -/
theorem Unmoved.pre {bad : State → Beat → Option (Nat × Nat)} (h : Unmoved bad) {m : Form} {s : State} {f : Focus} {n b : Nat}
    {bt : Beat} (hu : bt.u = f.u) (he : bt.e = f.e) : bad (m.pre s f n b) bt = bad s bt := by
  unfold Form.pre clearTaken
  repeat' split
  · rfl
  · rw [← hu, ← he, h]
  · rfl

/-- Where `bad` names a cause and an address, a beat of `p` traps with them and leaves the flag of a poison operand only. -/
def TrapsAt (p : Plan) (bad : State → Beat → Option (Nat × Nat)) : Prop :=
  ∀ s bt c cause va, (s.unit? bt.u).isSome = true → bad s bt = some (cause, va) →
    p.beat s bt c = .trap (bt.raise s bt.poisonFlag) cause bt.b va

namespace Form.RunBy
variable {m : Form} {p : Plan}

theorem runs_of_does (h : m.RunBy p) {i : Instr} {ok : State → Beat → Prop} {eff : State → Beat → State × List (Nat × Token)}
    (hexec : ∀ s, exec i s = fire p s) (hdo : m.Does p (plainly ok) one_ (each eff)) : Runs i m ok one_ eff :=
  h.fires hexec hdo

/-- The flags that a trap of a beat reports are those of its poison operand (R369). -/
theorem raisedBy_eq {bad : State → Beat → Option (Nat × Nat)} (hbad : TrapsAt p bad) (hun : Unmoved bad) {s : State} {bt : Beat}
    {c : Carry} {cause va : Nat} (hunit : (s.unit? bt.u).isSome = true) (hb : bad s bt = some (cause, va)) :
    raisedBy (fun t => p.beat t bt c) s bt.u bt.e = bt.poisonFlag := by
  have hclear : p.beat (s.modElem bt.u bt.e fun y => { y with fl := 0 }) bt c = _ :=
    hbad _ bt c cause va (by simpa using hunit) (by rw [hun]; exact hb)
  simp only [raisedBy, hclear]
  exact fl_raise_of_cleared hunit _

/-- A PLAN THAT TRAPS AS A FORM HAS IT: its earlier beats go, the beat that `bad` names traps. -/
theorem traps (h : m.RunBy p) {i : Instr} {ok : State → Beat → Carry → Prop} {cyc : State → Beat → Nat} {eff : Effect}
    {bad : State → Beat → Option (Nat × Nat)} (hexec : ∀ s, exec i s = fire p s) (hdo : m.Does p ok cyc eff)
    (hbad : TrapsAt p bad) (hun : Unmoved bad) : Traps i m ok cyc eff (trapped bad) := by
  intro s s' f x y k cause va fl hfresh n cap at_ hk hgoes hy hready hb hcan
  have hn : Trig.n ((x.elem f.e).trigger p.t) = n := by rw [h.t]
  have hcap : p.capture (x.elem f.e) f.slot = cap := h.capture_eq _ _
  obtain ⟨⟨cause', va'⟩, hbk, heq⟩ := Option.map_eq_some_iff.mp hb
  simp only [Prod.mk.injEq] at heq
  obtain ⟨rfl, rfl, rfl, rfl⟩ := heq
  have hunit : ((at_ k).1.unit? f.u).isSome = true := by rw [hy]; rfl
  have hraised : raisedBy (fun t => p.beat t (m.beat (at_ k).1 f n k cap) (at_ k).2) (at_ k).1 f.u f.e =
      (m.beat (at_ k).1 f n k cap).poisonFlag :=
    raisedBy_eq (bt := m.beat (at_ k).1 f n k cap) hbad hun hunit (by rwa [hun.pre rfl rfl] at hbk)
  have htrap := hbad _ (m.beat (at_ k).1 f n k cap) (at_ k).2 cause' va' (m.pre_isSome hunit) hbk
  rw [hexec, fire_trap hfresh.focus hfresh.unit hfresh.elem hfresh.fresh hn hcap at_ (by rw [h.t]; rfl) hk ?_
    (h.tokens _ (by rwa [State.elem_of_unit hy])) (by rw [h.beatOf_eq, h.taken]; exact htrap) hcan, h.beatOf_eq, hraised]
  · rfl
  · intro b hlt
    obtain ⟨⟨z, hz, hsrcs, hroom⟩, hok⟩ := hgoes b hlt
    obtain ⟨need, hgo, hsent⟩ := hdo _ (m.beat (at_ b).1 f n b cap) (at_ b).2 (m.pre_isSome (by rw [hz]; rfl)) hok
    rw [h.beatOf_eq, h.taken, h.deqs]
    exact ⟨h.tokens _ (by rwa [State.elem_of_unit hz]), _, hgo, Done.credit_upto hz m.outs hroom hsent, rfl⟩

end Form.RunBy
end Sys2Proof.Spec

namespace Sys2Proof.Machine

/-! ## What a write of an element leaves of its unit -/

@[simp] theorem State.cfgOf_modElem (s : State) (u e v : Nat) (g : Elem → Elem) : (s.modElem u e g).cfgOf v = s.cfgOf v := by
  by_cases hv : v = u
  · subst hv
    simp only [State.cfgOf, State.unit?_modElem_self]
    cases s.unit? v <;> rfl
  · simp only [State.cfgOf, State.unit?_modElem_ne _ _ _ hv]

@[simp] theorem Beat.cfgOf_raise (bt : Beat) (s : State) (fl : Flags) (v : Nat) : (bt.raise s fl).cfgOf v = s.cfgOf v := by
  unfold Beat.raise
  split
  · rfl
  · exact State.cfgOf_modElem s _ _ v _

/-- The unit of a beat is there after the beat raised flags. -/
theorem Beat.exists_unit?_raise {bt : Beat} {s : State} {x : UnitSt} (h : s.unit? bt.u = some x) (fl : Flags) :
    ∃ z, (bt.raise s fl).unit? bt.u = some z := by
  unfold Beat.raise
  split
  · exact ⟨x, h⟩
  · exact ⟨_, by rw [State.raise, State.unit?_modElem_self, h]; rfl⟩

end Sys2Proof.Machine

namespace Sys2Proof.Spec
open Machine

/-! ## BUFQ and BUFSET (R114, R261) -/

theorem named_raise {s : State} {bt : Beat} (h : named s bt) (fl : Flags) : named (bt.raise s fl) bt := by
  simpa [named] using h

/-- BUFQ where its address names a buffer or is in raw form. -/
theorem bufq_does (t : Fin 64) (d : Dst) (a : Opd) :
    (form t a none_ none d.outs).Does (planOf t a none_ none (bufqBeat d)) (plainly named) one_ (each (bufferState d)) := by
  refine does_late fun s bt c x hx hnamed => ?_
  rw [named, State.cfgOf_of_unit hx] at hnamed
  simp only [planOf, bufqBeat, bufferState, tileAddr, hx] at hnamed ⊢
  cases hbuf : bufOf (bt.a.bits.toNat % 2 ^ 32) with
  | none => exact ⟨rfl, rfl⟩
  | some n =>
    rw [hbuf] at hnamed
    simp only [hnamed.resolve_left nofun]
    exact ⟨trivial, trivial⟩

theorem bufset_does (t : Fin 64) (a b : Opd) :
    (form t a b none []).Does (planOf t a b none bufsetBeat) (plainly named) one_ (each bufferChange) := by
  refine does_quiet fun s bt c x hx hnamed => ?_
  have hr := named_raise hnamed bt.poisonFlag
  obtain ⟨z, hz⟩ := Beat.exists_unit?_raise hx bt.poisonFlag
  rw [named, State.cfgOf_of_unit hz] at hr
  simp only [planOf, bufsetBeat, bufferChange, tileAddr, hz] at hr ⊢
  cases hbuf : bufOf (bt.a.bits.toNat % 2 ^ 32) with
  | none => exact ⟨rfl, rfl⟩
  | some n =>
    rw [hbuf] at hr
    simp only [hr.resolve_left nofun]
    cases (z.buf n).request (bt.bb.bits.toNat % 4) <;> exact ⟨rfl, rfl⟩

theorem noBuffer_unmoved : Unmoved noBuffer := fun s bt g => by simp [noBuffer]

theorem noBuffer_cause {s : State} {bt : Beat} {cause va : Nat} (h : noBuffer s bt = some (cause, va)) :
    ∃ n, bufOf (bt.a.bits.toNat % 2 ^ 32) = some n ∧ (s.cfgOf bt.u).bufTrap (bt.a.bits.toNat % 2 ^ 32) = some cause ∧
      va = bt.a.bits.toNat % 2 ^ 32 := by
  unfold noBuffer at h
  split at h
  · cases h
  · rename_i n hbuf
    obtain ⟨cause', htrap, heq⟩ := Option.map_eq_some_iff.mp h
    cases heq
    exact ⟨n, hbuf, htrap, rfl⟩

theorem bufq_trapsAt (t : Fin 64) (d : Dst) (a : Opd) : TrapsAt (planOf t a none_ none (bufqBeat d)) noBuffer := by
  intro s bt c cause va hunit hbad
  obtain ⟨x, hx⟩ := Option.isSome_iff_exists.mp hunit
  obtain ⟨n, hbuf, htrap, rfl⟩ := noBuffer_cause hbad
  rw [State.cfgOf_of_unit hx] at htrap
  simp only [planOf, bufqBeat, hx, hbuf, htrap]

theorem bufset_trapsAt (t : Fin 64) (a b : Opd) : TrapsAt (planOf t a b none bufsetBeat) noBuffer := by
  intro s bt c cause va hunit hbad
  obtain ⟨x, hx⟩ := Option.isSome_iff_exists.mp hunit
  obtain ⟨n, hbuf, htrap, rfl⟩ := noBuffer_cause hbad
  obtain ⟨z, hz⟩ := Beat.exists_unit?_raise hx bt.poisonFlag
  rw [← bt.cfgOf_raise s bt.poisonFlag, State.cfgOf_of_unit hz] at htrap
  simp only [planOf, bufsetBeat, hz, hbuf, htrap]

/-- BUFSET grants what R114's table has and nothing else. -/
theorem BufSt.request_eq_some_iff (b c : BufSt) (want : Nat) : b.request want = some c ↔
    (b.phase = .empty ∧ want = 1 ∧ c = { b with phase := .filling, byCmd := true }) ∨
    (b.phase = .filling ∧ b.count = 0 ∧ want = 2 ∧ c = { b with phase := .ready, byCmd := false }) ∨
    (b.phase = .ready ∧ want = 3 ∧ c = { b with phase := .draining }) ∨
    (b.phase = .draining ∧ want = 0 ∧ c = { b with phase := .empty }) := by
  fun_cases BufSt.request b want <;> simp_all [eq_comm]

/-- Settles O17: each plan's beat has the effect above, and BUFSET grants the changes of the table of R114. -/
theorem buffersAndFences : Obligations.BuffersAndFences := by
  unfold Obligations.BuffersAndFences
  refine ⟨fun t d a => ?_, fun t a b => ?_, fun t scope => ?_, BufSt.request_eq_some_iff⟩
  · exact (form_runBy_planOf t a none_ none d.outs _).runs_of_does (fun _ => rfl) (bufq_does t d a)
  · exact (form_runBy_planOf t a b none [] _).runs_of_does (fun _ => rfl) (bufset_does t a b)
  · exact (form_runBy_planOf t none_ none_ none [] _).runs_quiet (fun _ => rfl) fun _ _ _ _ _ => rfl

/-! ## CLAIM, RLSE and SLQ (R118, R275-R277) -/

/-- Settles O24: each plan looks at the slots of its element's quarter and has the effect above. -/
theorem operandSlots : Obligations.OperandSlots := by
  unfold Obligations.OperandSlots
  refine ⟨fun t d x n => ?_, fun t d x => ?_, fun t a x => ?_, fun t d a x => ?_⟩
  · refine (form_runBy_planOf t none_ none_ none d.outs _).runs_of_does (fun _ => rfl) (does_late fun s bt c y hy hok => ?_)
    obtain ⟨hx, hn, hfree, hmin⟩ := hok
    have hx : s.unit? bt.u = some x := hx
    have hfind : (List.range 512).find? (fun m => (s.slotOf (x.quarterOf bt.e) m).free) = some n :=
      List.find?_range_eq_some.mpr ⟨hfree, List.mem_range.mpr hn, fun m hm => by rw [hmin m hm]; rfl⟩
    simp only [planOf, hx, hfind]
    exact ⟨rfl, trivial⟩
  · refine (form_runBy_planOf t none_ none_ none d.outs _).runs_of_does (fun _ => rfl) (does_late fun s bt c y hy hok => ?_)
    obtain ⟨hx, hnone⟩ := hok
    have hx : s.unit? bt.u = some x := hx
    have hfind : (List.range 512).find? (fun n => (s.slotOf (x.quarterOf bt.e) n).free) = none := by
      simpa using hnone
    simp only [planOf, hx, hfind]
    exact ⟨trivial, trivial⟩
  · refine (form_runBy_planOf t ⟨a, false⟩ none_ none [] _).runs_of_does (fun _ => rfl) (does_quiet fun s bt c y hy hok => ?_)
    have hx : s.unit? bt.u = some x := hok
    simp only [planOf, hx]
    split <;> exact ⟨rfl, trivial⟩
  · refine (form_runBy_planOf t ⟨a, false⟩ none_ none d.outs _).runs_of_does (fun _ => rfl) (does_late fun s bt c y hy hok => ?_)
    have hx : s.unit? bt.u = some x := hok
    simp only [planOf, hx, List.countP_eq_length_filter]
    exact ⟨rfl, trivial⟩

end Sys2Proof.Spec
end
section
/-! PROOFS. Accesses to memory tiles: what their beats do where the address leads to a word, and where they trap (R113, R250-R260,
R383). -/

namespace Sys2Proof.Machine

/-! ## What flags and a late result leave alone -/

@[simp] theorem Beat.focus_raise (bt : Beat) (s : State) (fl : Flags) : (bt.raise s fl).focus = s.focus := by
  unfold Beat.raise
  split <;> rfl

@[simp] theorem Beat.focus_promise (bt : Beat) (s : State) (d : Dst) (tag : BitVec 3) (lat id : Nat) :
    (bt.promise s d tag lat id).focus = s.focus := by
  cases d <;> rfl

@[simp] theorem Beat.nextId_raise (bt : Beat) (s : State) (fl : Flags) : (bt.raise s fl).nextId = s.nextId := by
  unfold Beat.raise
  split <;> rfl

theorem State.deferring_of_focus {s t : State} (h : t.focus = s.focus) : t.deferring = s.deferring := by
  unfold State.deferring
  rw [h]

/-- The network behind a port looks at tiles and requests, not at elements. -/
@[simp] theorem State.portBacked_setElem (x : UnitSt) (e d port : Nat) (y : Elem) :
    State.portBacked (x.setElem e y) d port = State.portBacked x d port := rfl

end Sys2Proof.Machine

namespace Sys2Proof.Spec
open Machine

/-! ## Where the address leads -/

theorem access_of_spot {op : MemOp} {a : Src} {s : State} {bt : Beat} {p : Nat × Nat} (h : spot op a s bt = some p) :
    (s.cfgOf bt.u).access op (bt.a.bits.toNat % 2 ^ 32) (bt.step8 a) = .at_ p.1 p.2 := by
  unfold spot at h
  split at h
  · rename_i hacc
    cases h
    exact hacc
  · cases h

theorem access_of_misplaced {op : MemOp} {a : Src} {s : State} {bt : Beat} {cause va : Nat} (h : misplaced op a s bt = some (cause, va)) :
    (s.cfgOf bt.u).access op (bt.a.bits.toNat % 2 ^ 32) (bt.step8 a) = .bad cause ∧ va = bt.a.bits.toNat % 2 ^ 32 := by
  unfold misplaced at h
  split at h
  · cases h
  · rename_i hacc
    cases h
    exact ⟨hacc, rfl⟩

theorem misplaced_unmoved (op : MemOp) (a : Src) : Unmoved (misplaced op a) := fun s bt g => by simp [misplaced]

theorem unread_unmoved (op : MemOp) (a : Src) : Unmoved (unread op a) := by
  intro s bt g
  have hspot : spot op a (s.modElem bt.u bt.e g) bt = spot op a s bt := by simp [spot]
  have hdefer : (s.modElem bt.u bt.e g).deferring = s.deferring := State.deferring_of_focus rfl
  simp only [unread, hspot, hdefer, State.unit?_modElem_self]
  cases spot op a s bt <;> cases s.unit? bt.u <;> rfl

/-! ## A request -/

/-- A request as an access completes it still names the operation, the tile and the word. -/
def Aims (mk : State → Beat → MemReq → MemReq) : Prop :=
  ∀ s bt r, (mk s bt r).op = r.op ∧ (mk s bt r).tile = r.tile ∧ (mk s bt r).word = r.word

theorem plainReq_aims : Aims plainReq := fun _ _ _ => ⟨rfl, rfl, rfl⟩
theorem withData_aims : Aims withData := fun _ _ _ => ⟨rfl, rfl, rfl⟩
theorem pushTok_aims : Aims pushTok := fun _ _ _ => ⟨rfl, rfl, rfl⟩
theorem amoReq_aims (f : Fmt) : Aims (amoReq f) := fun _ _ _ => ⟨rfl, rfl, rfl⟩

/-- The request reads something that has failed if its access does: PUSH and POP read no word. -/
theorem badWord_request {mk : State → Beat → MemReq → MemReq} (hmk : Aims mk) (op : MemOp) (port : Nat) (dst : Bool) (x : UnitSt)
    (s : State) (bt : Beat) (p : Nat × Nat) :
    State.badWord x (mk s bt (request op port dst p.1 (wordOf op p.2) s bt)) = broken op x p := by
  obtain ⟨hop, htile, hword⟩ := hmk s bt (request op port dst p.1 (wordOf op p.2) s bt)
  simp only [State.badWord, broken, hop, htile, hword]
  cases op <;> rfl

theorem wordOf_eq (op : MemOp) (w : Nat) : (if (op == .push || op == .pop) = true then 0 else w) = wordOf op w := by
  cases op <;> rfl

section access
variable {op : MemOp} {port : Nat} {a : Src} {s : State} {bt : Beat} {mk : State → Beat → MemReq → MemReq}

/-! ## A beat whose address leads to a word -/

/-- An access that returns a value. -/
theorem memBeat_some {x : UnitSt} {p : Nat × Nat} (hx : s.unit? bt.u = some x) (hspot : spot op a s bt = some p) (d : Dst)
    (tag : Beat → BitVec 3) (lat : Nat) (c : Carry) : memBeat op port a (some d) tag lat mk s bt c =
      let r := fun s bt => mk s bt (request op port (wants d) p.1 (wordOf op p.2) s bt)
      if State.portBacked x bt.e port = true then .hold s c
      else if (State.badWord x (r s bt) && !s.deferring) = true then .trap (bt.raise s bt.poisonFlag) 0x0D bt.b (tileAddr bt)
      else .go { s := (reading d tag lat p.1 r s bt).1, c := c, need := bt.lateNeed d } := by
  have hacc := access_of_spot hspot
  rw [State.cfgOf_of_unit hx] at hacc
  have hdefer (lat' : Nat) : (bt.promise (bt.raise s.bumpId bt.poisonFlag) d (tag bt) lat' s.nextId).deferring =
      s.deferring := State.deferring_of_focus (by simp)
  simp only [memBeat, hx, hacc, wordOf_eq, reading, latencyTo, hdefer]
  cases d <;> rfl

/-- An access that returns none. -/
theorem memBeat_none {x : UnitSt} {p : Nat × Nat} (hx : s.unit? bt.u = some x) (hspot : spot op a s bt = some p)
    (tag : Beat → BitVec 3) (lat : Nat) (c : Carry) : memBeat op port a none tag lat mk s bt c =
      let r := fun s bt => mk s bt (request op port false p.1 (wordOf op p.2) s bt)
      if State.portBacked x bt.e port = true then .hold s c
      else if (State.badWord x (r s bt) && !s.deferring) = true then .trap (bt.raise s bt.poisonFlag) 0x0D bt.b (tileAddr bt)
      else .go { s := (storing r s bt).1, c := c } := by
  have hacc := access_of_spot hspot
  rw [State.cfgOf_of_unit hx] at hacc
  have hdefer : (bt.raise s.bumpId bt.poisonFlag).deferring = s.deferring := State.deferring_of_focus (by simp)
  simp only [memBeat, hx, hacc, wordOf_eq, storing, hdefer]
  rfl

/-! ## Beats that go -/

theorem memBeat_reading (hmk : Aims mk) (hlead : leads op port a s bt) (d : Dst) (tag : Beat → BitVec 3) (lat : Nat) (c : Carry) :
    ∃ p, spot op a s bt = some p ∧ memBeat op port a (some d) tag lat mk s bt c =
      .go { s := (reading d tag lat p.1 (fun s bt => mk s bt (request op port (wants d) p.1 (wordOf op p.2) s bt)) s bt).1
            c := c, need := bt.lateNeed d } := by
  obtain ⟨p, x, hspot, hx, hport, hread⟩ := hlead
  refine ⟨p, hspot, ?_⟩
  rw [memBeat_some hx hspot]
  simp only [hport, badWord_request hmk, hread, Bool.false_and, Bool.false_eq_true, if_false]

theorem memBeat_storing (hmk : Aims mk) (hlead : leads op port a s bt) (tag : Beat → BitVec 3) (lat : Nat) (c : Carry) :
    ∃ p, spot op a s bt = some p ∧ memBeat op port a none tag lat mk s bt c =
      .go { s := (storing (fun s bt => mk s bt (request op port false p.1 (wordOf op p.2) s bt)) s bt).1, c := c } := by
  obtain ⟨p, x, hspot, hx, hport, hread⟩ := hlead
  refine ⟨p, hspot, ?_⟩
  rw [memBeat_none hx hspot]
  simp only [hport, badWord_request hmk, hread, Bool.false_and, Bool.false_eq_true, if_false]

/-! ## Beats that trap -/

theorem memBeat_misplaced {cause va : Nat} (hunit : (s.unit? bt.u).isSome = true) (h : misplaced op a s bt = some (cause, va))
    (d : Option Dst) (tag : Beat → BitVec 3) (lat : Nat) (c : Carry) :
    memBeat op port a d tag lat mk s bt c = .trap (bt.raise s bt.poisonFlag) cause bt.b va := by
  obtain ⟨x, hx⟩ := Option.isSome_iff_exists.mp hunit
  obtain ⟨hacc, rfl⟩ := access_of_misplaced h
  rw [State.cfgOf_of_unit hx] at hacc
  simp only [memBeat, hx, hacc]

theorem memBeat_unread {cause va : Nat} (hmk : Aims mk) (h : unread op a s bt = some (cause, va)) (d : Dst)
    (tag : Beat → BitVec 3) (lat : Nat) (c : Carry) :
    memBeat op 0 a (some d) tag lat mk s bt c = .trap (bt.raise s bt.poisonFlag) cause bt.b va := by
  unfold unread at h
  split at h
  · rename_i p x hspot hx
    obtain ⟨⟨hport, hread, hdefer⟩, heq⟩ := Option.ite_none_right_eq_some.mp h
    cases heq
    rw [memBeat_some hx hspot]
    simp only [hport, badWord_request hmk, hread, hdefer, Bool.not_false, Bool.and_self, Bool.false_eq_true, if_false, if_true]
  · cases h

end access

/-! ## Loads, stores and PUSH -/

theorem access_trapsAt {op : MemOp} {port : Nat} {d : Option Dst} {tag : Beat → BitVec 3} {lat : Nat}
    {mk : State → Beat → MemReq → MemReq} (t : Fin 64) (a b : Opd) (z : Option (Fin 8)) :
    TrapsAt (planOf t a b z (memBeat op port a.src d tag lat mk)) (misplaced op a.src) :=
  fun _ _ c _ _ hunit hbad => memBeat_misplaced hunit hbad d tag lat c

theorem load_does (op : MemOp) (t : Fin 64) (d : Dst) (a : Opd) : (form t a none_ none d.outs).Does
    (planOf t a none_ none (memBeat op 0 a.src (some d) addrTag 4 plainReq)) (plainly (leads op 0 a.src)) one_
    (each (loading op d a.src)) :=
  does_late fun s bt c x _ hlead => by
    obtain ⟨p, hspot, hgo⟩ := memBeat_reading plainReq_aims hlead d addrTag 4 c
    simp only [planOf, hgo, loading, atSpot, hspot]
    exact ⟨rfl, rfl⟩

theorem store_does {op : MemOp} (hop : op ≠ .push ∧ op ≠ .pop) (t : Fin 64) (n : Fin 4) (a b : Opd) : (form t a b none []).Does
    (planOf t a b none (memBeat op n.val a.src none addrTag 0 withData)) (plainly (leads op n.val a.src)) one_
    (each (wordStore op n.val a.src)) :=
  does_quiet fun s bt c x _ hlead => by
    obtain ⟨p, hspot, hgo⟩ := memBeat_storing withData_aims hlead addrTag 0 c
    have hword : wordOf op p.2 = p.2 := if_neg (by simp [hop])
    simp only [planOf, hgo, wordStore, atSpot, hspot, hword]
    exact ⟨rfl, rfl⟩

theorem push_does (t : Fin 64) (n : Fin 4) (a b : Opd) : (form t a b none []).Does
    (planOf t a b none (memBeat .push n.val a.src none addrTag 0 pushTok)) (plainly (leads .push n.val a.src)) one_
    (each (pushing n.val a.src)) :=
  does_quiet fun s bt c x _ hlead => by
    obtain ⟨p, hspot, hgo⟩ := memBeat_storing pushTok_aims hlead addrTag 0 c
    simp only [planOf, hgo, pushing, atSpot, hspot]
    exact ⟨rfl, rfl⟩

/-! ## Atomics -/

theorem filter_eq_bind (o : Option Fmt) (adm : Fmt → Bool) :
    (o.bind fun f => if adm f then some f else none) = o.filter adm := by
  cases o <;> rfl

theorem wholeB_eq (op : MemOp) : op.wholeB = (whole op || op == .amoCas) := by
  cases op <;> rfl

theorem atomic_does {op : MemOp} (hop : op ≠ .push ∧ op ≠ .pop) (adm : Fmt → Bool) (t : Fin 64) (d : Dst) (a b : Opd)
    (z : Option (Fin 8)) : (form t a b z d.outs).Does (planOf t a b z (amoBeat op adm a.src d))
    (plainly (atomicGoes op adm a.src)) one_ (each (atomic op adm d a.src)) :=
  does_late fun s bt c x hx hgoes => by
    obtain ⟨⟨p, hspot⟩, hleads⟩ := hgoes
    simp only [planOf, amoBeat, filter_eq_bind, atomic]
    cases hf : bt.F.filter adm with
    | some f =>
      obtain ⟨q, hq, hgo⟩ := memBeat_reading (amoReq_aims f) (hleads (by simp [hf])) d (fun bt => bt.T) 6 c
      have hword : wordOf op q.2 = q.2 := if_neg (by simp [hop])
      simp only [hgo, atomicIn, atSpot, hq, hword]
      simp only [amoReq, request, wholeB_eq]
      exact ⟨trivial, rfl⟩
    | none =>
      simp only [access_of_spot hspot, atomicZero, atSpot, hspot, latencyTo, hx]
      exact ⟨trivial, trivial⟩

theorem atomic_trapsAt (op : MemOp) (adm : Fmt → Bool) (t : Fin 64) (d : Dst) (a b : Opd) (z : Option (Fin 8)) :
    TrapsAt (planOf t a b z (amoBeat op adm a.src d)) (misplaced op a.src) := by
  intro s bt c cause va hunit hbad
  simp only [planOf, amoBeat, filter_eq_bind]
  cases bt.F.filter adm with
  | some f => exact memBeat_misplaced hunit hbad _ _ _ c
  | none =>
    obtain ⟨hacc, rfl⟩ := access_of_misplaced hbad
    simp only [hacc]

/-- What every atomic of the table is: a firing of one plan, and no operation on a FIFO. -/
theorem atomics_plan : ∀ r ∈ atomics, (∀ (t : Fin 64) (d : Dst) (a b : Opd) (s : State),
    exec (r.1 t d a b) s = fire (planOf t a b none (amoBeat r.2.1 r.2.2 a.src d)) s) ∧ r.2.1 ≠ .push ∧ r.2.1 ≠ .pop := by
  intro r hr
  simp only [atomics, List.mem_cons, List.not_mem_nil, or_false] at hr
  rcases hr with rfl | rfl | rfl | rfl | rfl | rfl | rfl | rfl | rfl | rfl <;> exact ⟨fun _ _ _ _ _ => rfl, by decide, by decide⟩

end Sys2Proof.Spec
end
section
/-! PROOFS. LDC and STC: hits, misses, windows and traps (R109, R115, R116, R255, R263-R267, R383); the statements of the accesses of
class 4. -/

namespace Sys2Proof.Spec
open Machine

/-! ## A section that caches (R115, R263, R264) -/

/-- The line is held by a way and not still under way, or it is not held. -/
theorem held?_eq_some {x : UnitSt} {va : Nat} {w : Way} (h : held? x va = some w) :
    x.cache.filling? (lineOf va) = none ∧ x.cache.hit? va = some w := by
  unfold held? at h
  split at h
  · cases h
  · rename_i hfill
    exact ⟨hfill, h⟩

theorem held?_eq_none {x : UnitSt} {va : Nat} (h : held? x va = none) :
    x.cache.filling? (lineOf va) ≠ none ∨ x.cache.hit? va = none := by
  unfold held? at h
  split at h
  · rename_i hfill
    exact .inl (by rw [hfill]; nofun)
  · exact .inr h

section caching
variable {s : State} {bt : Beat} {x : UnitSt} {a : Src} (ef : Bool)

/-- LDC where the section caches. -/
theorem ldcBeat_caching (hx : s.unit? bt.u = some x) (hok : caching a s bt) (hread : readable x (virtAddr a bt)) (d : Dst) (c : Carry) :
    ldcBeat a d ef s bt c = .go { s := (cacheLoad d a ef s bt).1, c := c, need := bt.lateNeed d } ∧
      (cacheLoad d a ef s bt).2 = [] := by
  obtain ⟨htiles, hwin, halign⟩ := hok
  rw [State.cfgOf_of_unit hx] at htiles hwin
  have hlen : ¬ x.cfg.cbTiles.length = 0 := fun h => htiles (List.length_eq_zero_iff.mp h)
  have hva : vaOf bt.a.bits (bt.step8 a) = virtAddr a bt := rfl
  simp only [ldcBeat, cacheLoad, hx, hva, halign, hlen, hwin, ne_eq, not_true_eq_false, Bool.false_eq_true, if_false]
  cases hheld : held? x (virtAddr a bt) with
  | some w =>
    obtain ⟨hfill, hhit⟩ := held?_eq_some hheld
    have hgood : Cache.badAt w (virtAddr a bt) = false := hread w hheld
    simp only [hfill, hhit, hgood, Bool.false_eq_true, if_false]
    exact ⟨rfl, trivial⟩
  | none =>
    have hmiss := held?_eq_none hheld
    split
    · rename_i w hfill hhit
      simp [hfill, hhit] at hmiss
    · simp only [Beat.nextId_raise, crowded]
      split
      all_goals
        rename_i hcrowd
        simp only [hcrowd]
        exact ⟨rfl, rfl⟩

/-- STC where the section caches. -/
theorem stcBeat_caching (hx : s.unit? bt.u = some x) (hok : caching a s bt) (c : Carry) :
    stcBeat a ef s bt c = .go { s := (cacheStore a ef s bt).1, c := c } ∧ (cacheStore a ef s bt).2 = [] := by
  obtain ⟨htiles, hwin, halign⟩ := hok
  rw [State.cfgOf_of_unit hx] at htiles hwin
  have hlen : ¬ x.cfg.cbTiles.length = 0 := fun h => htiles (List.length_eq_zero_iff.mp h)
  have hva : vaOf bt.a.bits (bt.step8 a) = virtAddr a bt := rfl
  simp only [stcBeat, cacheStore, hx, hva, halign, hlen, hwin, ne_eq, not_true_eq_false, Bool.false_eq_true, if_false]
  cases hheld : held? x (virtAddr a bt) with
  | some w =>
    obtain ⟨hfill, hhit⟩ := held?_eq_some hheld
    simp only [hfill, hhit]
    exact ⟨trivial, trivial⟩
  | none =>
    have hmiss := held?_eq_none hheld
    split
    · rename_i w hfill hhit
      simp [hfill, hhit] at hmiss
    · simp only [Beat.nextId_raise, crowded]
      split <;> exact ⟨rfl, rfl⟩

end caching

/-! ## Window mode (R116, R267) -/

theorem winFind_lt {ws : List CbWin} {va i : Nat} (h : winFind ws va = some i) : i < ws.length := by
  unfold winFind at h
  obtain ⟨hlt, heq⟩ := Option.ite_none_right_eq_some.mp h
  cases heq
  exact hlt

section windows
variable {s : State} {bt : Beat} {x : UnitSt} {a : Src}

/-- What LDC does with the window that takes its address. -/
theorem ldcBeat_window (hx : s.unit? bt.u = some x) (htiles : x.cfg.cbTiles ≠ []) (hwin : x.cfg.window = true)
    (halign : virtAddr a bt % 8 = 0) {w : CbWin} (hw : windowOf? x (virtAddr a bt) s.nextId = some w) (d : Dst) (ef : Bool) (c : Carry) :
    ldcBeat a d ef s bt c =
      if virtAddr a bt < w.tail then .trap (bt.raise s bt.poisonFlag) 0x23 bt.b (virtAddr a bt)
      else if virtAddr a bt < w.head ∧ (w.bad.find? fun p => p.1 == virtAddr a bt).isSome = true then
        .trap (bt.raise s bt.poisonFlag) (((w.bad.find? fun p => p.1 == virtAddr a bt).map Prod.snd).getD 0x0D) bt.b (virtAddr a bt)
      else .go { s := (windowLoad d a s bt).1, c := c, need := bt.lateNeed d } := by
  have hlen : ¬ x.cfg.cbTiles.length = 0 := fun h => htiles (List.length_eq_zero_iff.mp h)
  have hva : vaOf bt.a.bits (bt.step8 a) = virtAddr a bt := rfl
  obtain ⟨⟨ws, i⟩, hfor, hget⟩ := Option.bind_eq_some_iff.mp hw
  have hget : ws[i]? = some w := hget
  simp only [ldcBeat, hx, hva, halign, hlen, hwin, ne_eq, not_true_eq_false, if_false, if_true]
  unfold windowFor at hfor
  simp only [windowRead, hx, hfor, hget, Option.getD_some, windowLoad, windowFor, hw]
  rfl

/-- LDC whose window holds its address or waits for it at the head. -/
theorem ldcBeat_windowed (hok : windowed a s bt) (d : Dst) (ef : Bool) (c : Carry) :
    ldcBeat a d ef s bt c = .go { s := (windowLoad d a s bt).1, c := c, need := bt.lateNeed d } := by
  obtain ⟨htiles, hwin, halign, x, w, hx, hw, htail, hgood⟩ := hok
  rw [State.cfgOf_of_unit hx] at htiles hwin
  rw [ldcBeat_window hx htiles hwin halign hw, if_neg (by omega), if_neg]
  rintro ⟨hhead, hbad⟩
  rw [hgood hhead] at hbad
  cases hbad

end windows

theorem windowLoad_sends (d : Dst) (a : Src) (s : State) (bt : Beat) : (windowLoad d a s bt).2 = [] := by
  unfold windowLoad
  dsimp only
  split
  · rfl
  · split <;> rfl

theorem ldc_does_window (t : Fin 64) (d : Dst) (a : Opd) (ef : Bool) : (form t a none_ none d.outs).Does
    (planOf t a none_ none (ldcBeat a.src d ef)) (plainly (windowed a.src)) one_ (each (windowLoad d a.src)) :=
  does_late fun s bt c _ _ hok => ⟨ldcBeat_windowed hok d ef c, windowLoad_sends d a.src s bt⟩

theorem ldc_does_caching (t : Fin 64) (d : Dst) (a : Opd) (ef : Bool) : (form t a none_ none d.outs).Does
    (planOf t a none_ none (ldcBeat a.src d ef))
    (plainly fun s bt => caching a.src s bt ∧ ∀ x, s.unit? bt.u = some x → readable x (virtAddr a.src bt)) one_
    (each (cacheLoad d a.src ef)) :=
  does_late fun _ _ c x hx hok => ldcBeat_caching ef hx hok.1 (hok.2 x hx) d c

theorem stc_does_caching (t : Fin 64) (a b : Opd) (ef : Bool) : (form t a b none []).Does
    (planOf t a b none (stcBeat a.src ef)) (plainly (caching a.src)) one_ (each (cacheStore a.src ef)) :=
  does_quiet fun _ _ c _ hx hok => stcBeat_caching ef hx hok c

/-- Settles O18: LDC through a cache or a window and STC through a cache have the effects above. -/
theorem cacheAccesses : Obligations.CacheAccesses := by
  unfold Obligations.CacheAccesses
  refine ⟨fun t d a ef => ?_, fun t n a b ef => ?_, fun t d a ef => ?_⟩
  · exact (form_runBy_planOf t a none_ none d.outs _).runs_of_does (fun _ => rfl) (ldc_does_caching t d a ef)
  · exact (form_runBy_planOf t a b none [] _).runs_of_does (fun _ => rfl) (stc_does_caching t a b ef)
  · exact (form_runBy_planOf t a none_ none d.outs _).runs_of_does (fun _ => rfl) (ldc_does_window t d a ef)

/-! ## Traps of LDC and STC -/

theorem uncached_unmoved (store : Bool) (a : Src) : Unmoved (uncached store a) := fun s bt g => by simp [uncached]

theorem windowMiss_unmoved (a : Src) : Unmoved (windowMiss a) := by
  intro s bt g
  simp only [windowMiss, State.cfgOf_modElem, State.unit?_modElem_self]
  cases s.unit? bt.u <;> rfl

theorem cacheMissing_unmoved (a : Src) : Unmoved (cacheMissing a) := by
  intro s bt g
  simp only [cacheMissing, State.cfgOf_modElem, State.unit?_modElem_self]
  cases s.unit? bt.u <;> rfl

theorem ldc_trapsAt_uncached (t : Fin 64) (d : Dst) (a : Opd) (ef : Bool) :
    TrapsAt (planOf t a none_ none (ldcBeat a.src d ef)) (uncached false a.src) := by
  intro s bt c cause va hunit hbad
  obtain ⟨x, hx⟩ := Option.isSome_iff_exists.mp hunit
  have hva : vaOf bt.a.bits (bt.step8 a.src) = virtAddr a.src bt := rfl
  simp only [uncached, State.cfgOf_of_unit hx, Bool.false_eq_true, false_and, if_false] at hbad
  simp only [planOf, ldcBeat, hx, hva]
  split at hbad
  · rename_i halign
    cases hbad
    rw [if_pos halign]
  · rename_i halign
    obtain ⟨htiles, heq⟩ := Option.ite_none_right_eq_some.mp hbad
    cases heq
    rw [if_neg halign, if_pos (List.length_eq_zero_iff.mpr htiles)]

theorem stc_trapsAt (t : Fin 64) (a b : Opd) (ef : Bool) :
    TrapsAt (planOf t a b none (stcBeat a.src ef)) (uncached true a.src) := by
  intro s bt c cause va hunit hbad
  obtain ⟨x, hx⟩ := Option.isSome_iff_exists.mp hunit
  have hva : vaOf bt.a.bits (bt.step8 a.src) = virtAddr a.src bt := rfl
  simp only [uncached, State.cfgOf_of_unit hx, true_and] at hbad
  simp only [planOf, stcBeat, hx, hva]
  split at hbad
  · rename_i halign
    cases hbad
    rw [if_pos halign]
  · rename_i halign
    rw [if_neg halign]
    split at hbad
    · rename_i htiles
      cases hbad
      rw [if_pos (List.length_eq_zero_iff.mpr htiles)]
    · rename_i htiles
      obtain ⟨hwin, heq⟩ := Option.ite_none_right_eq_some.mp hbad
      cases heq
      rw [if_neg fun h => htiles (List.length_eq_zero_iff.mp h), if_pos hwin]

theorem ldc_trapsAt_window (t : Fin 64) (d : Dst) (a : Opd) (ef : Bool) :
    TrapsAt (planOf t a none_ none (ldcBeat a.src d ef)) (windowMiss a.src) := by
  intro s bt c cause va hunit hbad
  obtain ⟨x, hx⟩ := Option.isSome_iff_exists.mp hunit
  unfold windowMiss at hbad
  rw [State.cfgOf_of_unit hx] at hbad
  obtain ⟨hin, hbad⟩ := Option.ite_none_left_eq_some.mp hbad
  simp only [not_or, Bool.not_eq_false, Decidable.not_not] at hin
  obtain ⟨hwin, htiles, halign⟩ := hin
  simp only [hx, Option.bind_some] at hbad
  cases hw : windowOf? x (virtAddr a.src bt) s.nextId with
  | none => simp only [hw] at hbad; cases hbad
  | some w =>
    simp only [hw] at hbad
    simp only [planOf, ldcBeat_window hx htiles hwin halign hw]
    split at hbad
    · rename_i htail
      cases hbad
      rw [if_pos htail]
    · rename_i htail
      obtain ⟨hhead, hbad⟩ := Option.ite_none_right_eq_some.mp hbad
      obtain ⟨p, hfind, heq⟩ := Option.map_eq_some_iff.mp hbad
      cases heq
      rw [if_neg htail, if_pos ⟨hhead, by rw [hfind]; rfl⟩, hfind]
      rfl

theorem ldc_trapsAt_cache (t : Fin 64) (d : Dst) (a : Opd) (ef : Bool) :
    TrapsAt (planOf t a none_ none (ldcBeat a.src d ef)) (cacheMissing a.src) := by
  intro s bt c cause va hunit hbad
  obtain ⟨x, hx⟩ := Option.isSome_iff_exists.mp hunit
  have hva : vaOf bt.a.bits (bt.step8 a.src) = virtAddr a.src bt := rfl
  unfold cacheMissing at hbad
  rw [State.cfgOf_of_unit hx] at hbad
  obtain ⟨hin, hbad⟩ := Option.ite_none_left_eq_some.mp hbad
  simp only [not_or, Bool.not_eq_true, Decidable.not_not] at hin
  obtain ⟨hwin, htiles, halign⟩ := hin
  simp only [hx, Option.bind_some] at hbad
  cases hheld : held? x (virtAddr a.src bt) with
  | none => simp only [hheld] at hbad; cases hbad
  | some w =>
    simp only [hheld] at hbad
    obtain ⟨hfailed, heq⟩ := Option.ite_none_right_eq_some.mp hbad
    cases heq
    obtain ⟨hfill, hhit⟩ := held?_eq_some hheld
    have hlen : ¬ x.cfg.cbTiles.length = 0 := fun h => htiles (List.length_eq_zero_iff.mp h)
    have hfailed : Cache.badAt w (virtAddr a.src bt) = true := hfailed
    simp only [planOf, ldcBeat, hx, hva, halign, hlen, hwin, hfill, hhit, hfailed, ne_eq, not_true_eq_false, Bool.false_eq_true,
      if_false, if_true]

/-- Settles O20: each plan traps where its address leads nowhere or to what cannot be read, and its earlier beats go. -/
theorem addressTraps : Obligations.AddressTraps := by
  unfold Obligations.AddressTraps
  refine ⟨fun r hr bad hbad t d a => ?_, fun r hr t n a b => ?_, fun t n a b => ?_, fun r hr t d a b => ?_, fun t n a b => ?_,
    fun t d a => ?_, fun t a b => ?_, fun bad hbad t d a ef => ?_, fun bad hbad t d a ef => ?_, fun t n a b ef => ?_⟩
  · have hexec : ∀ s, exec (r.1 t d a) s = fire (planOf t a none_ none (memBeat r.2 0 a.src (some d) addrTag 4 plainReq)) s := by
      simp only [List.mem_cons, List.not_mem_nil, or_false] at hr
      rcases hr with rfl | rfl | rfl | rfl <;> exact fun _ => rfl
    simp only [List.mem_cons, List.not_mem_nil, or_false] at hbad
    rcases hbad with rfl | rfl
    · exact (form_runBy_planOf t a none_ none d.outs _).traps hexec (load_does r.2 t d a)
        (access_trapsAt t a none_ none) (misplaced_unmoved r.2 a.src)
    · exact (form_runBy_planOf t a none_ none d.outs _).traps hexec (load_does r.2 t d a)
        (fun s bt c cause va _ hb => memBeat_unread plainReq_aims hb d addrTag 4 c) (unread_unmoved r.2 a.src)
  · obtain ⟨hexec, hop⟩ : (∀ s, exec (r.1 t n a b) s =
        fire (planOf t a b none (memBeat r.2 n.val a.src none addrTag 0 withData)) s) ∧ r.2 ≠ .push ∧ r.2 ≠ .pop := by
      simp only [List.mem_cons, List.not_mem_nil, or_false] at hr
      rcases hr with rfl | rfl | rfl <;> exact ⟨fun _ => rfl, by decide, by decide⟩
    exact (form_runBy_planOf t a b none [] _).traps hexec (store_does hop t n a b)
      (access_trapsAt t a b none) (misplaced_unmoved r.2 a.src)
  · exact (form_runBy_planOf t a b none [] _).traps (fun _ => rfl) (push_does t n a b)
      (access_trapsAt t a b none) (misplaced_unmoved .push a.src)
  · obtain ⟨hexec, hop⟩ := atomics_plan r hr
    exact (form_runBy_planOf t a b none d.outs _).traps (hexec t d a b) (atomic_does hop r.2.2 t d a b none)
      (atomic_trapsAt r.2.1 r.2.2 t d a b none) (misplaced_unmoved r.2.1 a.src)
  · exact (form_runBy_planOf t a b (some n) [] _).traps (fun _ => rfl) (atomic_does (d := .g n) (by decide) (fun _ => true) t a b (some n))
      (atomic_trapsAt .amoCas (fun _ => true) t (.g n) a b (some n)) (misplaced_unmoved .amoCas a.src)
  · exact (form_runBy_planOf t a none_ none d.outs _).traps (fun _ => rfl) (bufq_does t d a) (bufq_trapsAt t d a) noBuffer_unmoved
  · exact (form_runBy_planOf t a b none [] _).traps (fun _ => rfl) (bufset_does t a b) (bufset_trapsAt t a b) noBuffer_unmoved
  · simp only [List.mem_cons, List.not_mem_nil, or_false] at hbad
    rcases hbad with rfl | rfl
    · exact (form_runBy_planOf t a none_ none d.outs _).traps (fun _ => rfl) (ldc_does_caching t d a ef)
        (ldc_trapsAt_uncached t d a ef) (uncached_unmoved false a.src)
    · exact (form_runBy_planOf t a none_ none d.outs _).traps (fun _ => rfl) (ldc_does_caching t d a ef)
        (ldc_trapsAt_cache t d a ef) (cacheMissing_unmoved a.src)
  · simp only [List.mem_cons, List.not_mem_nil, or_false] at hbad
    rcases hbad with rfl | rfl
    · exact (form_runBy_planOf t a none_ none d.outs _).traps (fun _ => rfl) (ldc_does_window t d a ef)
        (ldc_trapsAt_uncached t d a ef) (uncached_unmoved false a.src)
    · exact (form_runBy_planOf t a none_ none d.outs _).traps (fun _ => rfl) (ldc_does_window t d a ef)
        (ldc_trapsAt_window t d a ef) (windowMiss_unmoved a.src)
  · exact (form_runBy_planOf t a b none [] _).traps (fun _ => rfl) (stc_does_caching t a b ef) (stc_trapsAt t a b ef)
      (uncached_unmoved true a.src)

end Sys2Proof.Spec
end
section
/-! PROOFS. Where an address of class 4 leads (R111, R113, R251, R255). -/

namespace Sys2Proof.Machine

/-! ## The place of an address (R113) -/

theorem SecCfg.place_misaligned (c : SecCfg) {a : Nat} (off : Nat) (h : a % 8 ≠ 0) : c.place false a off = .bad 0x22 := by
  simp only [SecCfg.place, Bool.false_eq_true, if_false, if_pos h]

/-- An address in raw form; FIFO operations take offset zero. -/
theorem SecCfg.place_raw (c : SecCfg) {fifo : Bool} {a : Nat} (off : Nat) (halign : fifo = true ∨ a % 8 = 0)
    (hraw : a / 2 ^ 31 % 2 = 0) : c.place fifo a off =
      let o := if fifo then 0 else a % 2 ^ 18 + off
      if a / 2 ^ 30 % 2 = 1 ∨ c.tileCount ≤ a / 2 ^ 18 % 4096 ∨ 2 ^ 18 ≤ o then .bad 0x20
      else .at_ (a / 2 ^ 18 % 4096) (o / 8) := by
  cases fifo with
  | true => simp only [SecCfg.place, if_true, hraw, Nat.zero_mod, Nat.add_zero, ne_eq, not_true_eq_false, if_false]
  | false =>
    have halign : ¬ a % 8 ≠ 0 := fun h => h (halign.resolve_left nofun)
    simp only [SecCfg.place, Bool.false_eq_true, if_false, hraw, if_neg halign, if_true]

/-- An address in buffer form. -/
theorem SecCfg.place_buffer (c : SecCfg) {fifo : Bool} {a : Nat} (off : Nat) (halign : fifo = true ∨ a % 8 = 0)
    (hbuf : a / 2 ^ 31 % 2 = 1) : c.place fifo a off =
      let b := (c.bufs[a / 2 ^ 25 % 64]?).getD {}
      let o := if fifo then 0 else a % 2 ^ 25 + off
      if b.valid = false ∨ (b.size ≤ o ∧ fifo = false) then .bad 0x20
      else if c.tileCount ≤ c.rectTile b ((b.base + o) / 2 ^ 18) then .bad 0x20
      else .at_ (c.rectTile b ((b.base + o) / 2 ^ 18)) ((b.base + o) % 2 ^ 18 / 8) := by
  have hne : ¬ a / 2 ^ 31 % 2 = 0 := by omega
  cases fifo with
  | true =>
    simp only [SecCfg.place, if_true, if_neg hne, Nat.zero_mod, Nat.add_zero, ne_eq, not_true_eq_false, if_false,
      Bool.not_eq_true']
  | false =>
    have halign : ¬ a % 8 ≠ 0 := fun h => h (halign.resolve_left nofun)
    simp only [SecCfg.place, Bool.false_eq_true, if_false, if_neg hne, if_neg halign, Bool.not_eq_true']

/-- An address leads to tiles of the section only. -/
theorem SecCfg.place_lt {c : SecCfg} {fifo : Bool} {a off t w : Nat} (h : c.place fifo a off = .at_ t w) : t < c.tileCount := by
  unfold SecCfg.place at h
  dsimp only at h
  repeat' split at h
  all_goals cases h
  all_goals omega

/-! ## The role of its tile (R255) -/

/-- PUSH or POP. -/
def MemOp.onFifo (op : MemOp) : Bool := op == .push || op == .pop

theorem MemOp.onFifo_iff (op : MemOp) : op.onFifo = true ↔ op = .push ∨ op = .pop := by
  simp [MemOp.onFifo]

/-- The role that admits an operation. -/
def MemOp.role (op : MemOp) : Role := if op.onFifo then .tf else .ab

theorem roleAdmits_iff (op : MemOp) (r : Role) : roleAdmits r op = true ↔ r = op.role := by
  cases op <;> simp [roleAdmits, MemOp.role, MemOp.onFifo]

theorem SecCfg.access_bad {c : SecCfg} {op : MemOp} {a off cause : Nat} (h : c.place op.onFifo a off = .bad cause) :
    c.access op a off = .bad cause := by
  have h : c.place (op == .push || op == .pop) a off = .bad cause := h
  simp only [SecCfg.access, h]

theorem SecCfg.access_at {c : SecCfg} {op : MemOp} {a off t w : Nat} (h : c.place op.onFifo a off = .at_ t w) :
    c.access op a off = if c.role t = op.role then .at_ t w else .bad 0x21 := by
  have h : c.place (op == .push || op == .pop) a off = .at_ t w := h
  simp only [SecCfg.access, h, roleAdmits_iff]

/-- An access goes to a tile of the section whose role admits it. -/
theorem SecCfg.access_admitted {c : SecCfg} {op : MemOp} {a off t w : Nat} (h : c.access op a off = .at_ t w) :
    roleAdmits (c.role t) op = true ∧ t < c.tileCount := by
  cases hp : c.place op.onFifo a off with
  | bad cause => rw [SecCfg.access_bad hp] at h; cases h
  | at_ t' w' =>
    rw [SecCfg.access_at hp] at h
    split at h
    · rename_i hrole
      cases h
      exact ⟨(roleAdmits_iff op _).mpr hrole, SecCfg.place_lt hp⟩
    · cases h

end Sys2Proof.Machine

namespace Sys2Proof.Spec
open Machine

/-- Settles O21: the place of an address by its form, then the role of its tile. -/
theorem whereAnAddressLeads : Obligations.WhereAnAddressLeads := by
  unfold Obligations.WhereAnAddressLeads
  intro c op a off fifo tl o b bo bt
  have hfifo : fifo → op.onFifo = true ∧ op.role = .tf := fun h => by
    have h := op.onFifo_iff.mpr h
    exact ⟨h, by rw [MemOp.role, h]; rfl⟩
  have hword : ¬fifo → op.onFifo = false ∧ op.role = .ab := fun h => by
    have h := Bool.eq_false_iff.mpr fun h' => h (op.onFifo_iff.mp h')
    exact ⟨h, by rw [MemOp.role, h]; rfl⟩
  have haligned : fifo ∨ a % 8 = 0 → op.onFifo = true ∨ a % 8 = 0 := Or.imp_left fun h => (hfifo h).1
  refine ⟨fun hop hlow => ?_, fun _ _ => SecCfg.access_admitted, fun hres hal => ?_, fun hraw hal htl => ?_,
    fun hraw hop hlow ho => ?_, fun hraw hop hlow htl ho => ?_, fun hraw hop htl => ?_, fun hbuf hal hvalid => ?_,
    fun hbuf hop hlow ho => ?_, fun hbuf hop hlow hvalid ho hbt => ?_, fun hbuf hop hvalid hbt => ?_⟩
  · exact SecCfg.access_bad (by rw [(hword hop).1]; exact c.place_misaligned off hlow)
  · apply SecCfg.access_bad
    rw [c.place_raw off (haligned hal) (by omega)]
    exact if_pos (.inl (by omega))
  · apply SecCfg.access_bad
    rw [c.place_raw off (haligned hal) (by omega)]
    exact if_pos (.inr (.inl htl))
  · apply SecCfg.access_bad
    rw [c.place_raw off (.inr hlow) (by omega), (hword hop).1]
    exact if_pos (.inr (.inr ho))
  · rw [SecCfg.access_at (t := tl) (w := o / 8), (hword hop).2]
    rw [c.place_raw off (.inr hlow) (by omega), (hword hop).1]
    refine if_neg ?_
    rintro (h | h | h)
    · omega
    · exact absurd htl (Nat.not_lt.mpr h)
    · exact absurd ho (Nat.not_lt.mpr h)
  · rw [SecCfg.access_at (t := tl) (w := 0), (hfifo hop).2]
    rw [c.place_raw off (.inl (hfifo hop).1) (by omega), (hfifo hop).1]
    refine (if_neg ?_).trans (by rw [if_pos rfl])
    rintro (h | h | h)
    · omega
    · exact absurd htl (Nat.not_lt.mpr h)
    · cases h
  · apply SecCfg.access_bad
    rw [c.place_buffer off (haligned hal) hbuf]
    exact if_pos (.inl hvalid)
  · apply SecCfg.access_bad
    rw [c.place_buffer off (.inr hlow) hbuf, (hword hop).1]
    exact if_pos (.inr ⟨ho, rfl⟩)
  · rw [SecCfg.access_at (t := bt) (w := bo % 2 ^ 18 / 8), (hword hop).2]
    rw [c.place_buffer off (.inr hlow) hbuf, (hword hop).1]
    refine (if_neg ?_).trans (if_neg (Nat.not_le.mpr hbt))
    rintro (h | ⟨h, _⟩)
    · exact absurd (hvalid.symm.trans h) nofun
    · exact absurd ho (Nat.not_lt.mpr h)
  · rw [SecCfg.access_at (t := c.rectTile b (b.base / 2 ^ 18)) (w := b.base % 2 ^ 18 / 8), (hfifo hop).2]
    rw [c.place_buffer off (.inl (hfifo hop).1) hbuf, (hfifo hop).1]
    refine (if_neg ?_).trans (if_neg (Nat.not_le.mpr hbt))
    rintro (h | ⟨_, h⟩)
    · exact absurd (hvalid.symm.trans h) nofun
    · cases h

end Sys2Proof.Spec
end
section
/-! PROOFS. Slot streams, deliveries to buffers, zeroed slots, line fills, tag walks and windows that are extended (R84, R114-R116,
R118, R119, R122, R133, R263-R265). -/

namespace Sys2Proof.Machine

variable {s : State} {u i : Nat} {x : UnitSt}

@[simp] theorem UnitSt.buf_setBuf_self (x : UnitSt) (b : Nat) (y : BufSt) : (x.setBuf b y).buf b = y :=
  Assoc.getD_set_self x.bufs b y {}

@[simp] theorem State.unit?_bumpId (s : State) (u : Nat) : s.bumpId.unit? u = s.unit? u := rfl

@[simp] theorem State.unit?_setRider (s : State) (u id : Nat) (r : Rider) : (s.setRider id r).unit? u = s.unit? u := rfl

@[simp] theorem State.unit?_modCache_self (s : State) (u : Nat) (g : Cache → Cache) :
    (s.modCache u g).unit? u = (s.unit? u).map fun x => { x with cache := g x.cache } :=
  State.unit?_modUnit_self s u _

/-! ## Slot streams and buffers (R114, R119) -/

theorem execSlotStreamRequest_served {n : Nat} {k : Token} {rest : List Token} (hx : s.placed? u = some x)
    (hq : (x.bindSt n).inq = k :: rest) (hkind : (x.cfg.bindCfg n).kind = .slot) (hturn : slotTurn x n = true) :
    execSlotStreamRequest u n s =
      .next ((s.setUnit u (x.setBind n { (x.bindSt n).ownNext with inq := rest })).deliverTo 14 u n (slotStream s x k)) := by
  simp only [execSlotStreamRequest, inSection_placed hx, hq, hkind, hturn, and_self, if_true]

theorem execBufferDeliveryComplete_landed {b : Nat} (hx : s.placed? u = some x) (hlanded : (x.buf b).landed ≠ 0) :
    execBufferDeliveryComplete u b s =
      .next (s.setUnit u (x.setBuf b (bufferDone { x.buf b with landed := (x.buf b).landed - 1 }))) := by
  simp only [execBufferDeliveryComplete, inSection_placed hx, if_neg hlanded]

theorem bufferDone_count (b : BufSt) : (bufferDone b).count = b.count - 1 := by
  unfold bufferDone
  dsimp only
  split <;> rfl

theorem bufferDone_landed (b : BufSt) : (bufferDone b).landed = b.landed := by
  unfold bufferDone
  dsimp only
  split <;> rfl

theorem bufferDone_ready {b : BufSt} (hcount : b.count = 1) (hphase : b.phase = .filling) (hcmd : b.byCmd = false) :
    (bufferDone b).phase = .ready := by
  simp [bufferDone, hcount, hphase, hcmd]

/-! ## Slots (R118) -/

theorem execSlotZeroComplete_over {q n c : Nat} (hzero : (s.slotOf q n).zeroAt = some c) (hc : c ≤ s.clk.cyc) :
    execSlotZeroComplete q n s = .next (s.setSlot q n {}) := by
  simp only [execSlotZeroComplete, hzero, hc, if_true]

/-! ## Line fills (R115, R263, R264) -/

section fill
variable {item line : Nat} {ws : List Word}

/-- A cache without fill `i` and without the accesses that waited for item `item`. -/
def Cache.returned (c : Cache) (i item : Nat) : Cache :=
  { c with fills := listDel c.fills i, waits := c.waits.filter fun w => !(w.item == item && !w.direct) }

/-- A line that returns where the cache holds its superblock: no way is evicted. -/
theorem execCacheFillReturn_held (hx : s.placed? u = some x) (hfill : x.cache.fills[i]? = some (item, line, ws))
    (hway : (x.cache.way? (sbOf line)).isSome = true) :
    let s1 := s.modCache u fun c => c.returned i item
    execCacheFillReturn u i s = .next ((x.cache.waits.filter fun w => w.item == item && !w.direct).foldl
      (fun t w => afterFill t u w)
      (s1.modCache u fun _ => (x.cache.returned i item).fillLine (sbOf line) line ws s1.nextId).bumpId) := by
  have hway' : ((x.cache.returned i item).way? (sbOf line)).isSome = true := hway
  unfold Cache.returned at hway'
  simp only [execCacheFillReturn, inSection_placed hx, hfill, hway', if_true]
  rfl

/-- A line filled into a way of the cache leaves its fills and waits. -/
theorem Cache.fillLine_held {c : Cache} {sb used : Nat} (h : (c.way? sb).isSome = true) :
    (c.fillLine sb line ws used).fills = c.fills ∧ (c.fillLine sb line ws used).waits = c.waits := by
  have h' : (({ c with unpin := c.unpin.filter fun l => l != line } : Cache).way? sb).isSome = true := h
  simp only [Cache.fillLine, h', if_true]
  exact ⟨rfl, rfl⟩

/-- No access waited for the line: nothing else happens. -/
theorem execCacheFillReturn_unawaited (hx : s.placed? u = some x) (hfill : x.cache.fills[i]? = some (item, line, ws))
    (hway : (x.cache.way? (sbOf line)).isSome = true)
    (hnone : (x.cache.waits.filter fun w => w.item == item && !w.direct) = []) :
    ∃ r y, execCacheFillReturn u i s = .next r ∧ r.unit? u = some y ∧
      y.cache = { x.cache with fills := listDel x.cache.fills i }.fillLine (sbOf line) line ws s.nextId := by
  have hwaits : (x.cache.waits.filter fun w => !(w.item == item && !w.direct)) = x.cache.waits := by
    rw [List.filter_eq_nil_iff] at hnone
    exact List.filter_eq_self.mpr fun w hw => by rw [Bool.not_eq_true', Bool.eq_false_iff]; exact hnone w hw
  have hrun := execCacheFillReturn_held hx hfill hway
  rw [hnone] at hrun
  refine ⟨_, _, hrun, by simp [placed_unit hx]; rfl, ?_⟩
  simp only [Cache.returned, hwaits]
  rfl

end fill

/-! ## Tag walks (R133, R265) -/

section walk
variable {w : CacheWalk}

theorem execCacheWalkEnd_invalidates (hx : s.placed? u = some x) (hw : x.cache.walks[i]? = some w) (hfin : w.fin ≤ s.clk.cyc)
    (hwaits : walkWaits x.cache w = false) (hwb : w.wb = false) : execCacheWalkEnd u i s =
      .next ((s.modCache u fun c => { c with walks := listDel c.walks i }).modCache u fun c => c.invalidate w.lo w.hi) := by
  simp [execCacheWalkEnd, inSection_placed hx, hw, hfin, hwaits, hwb]

theorem execCacheWalkEnd_writesBack (hx : s.placed? u = some x) (hw : x.cache.walks[i]? = some w) (hfin : w.fin ≤ s.clk.cyc)
    (hwaits : walkWaits x.cache w = false) (hwb : w.wb = true) : execCacheWalkEnd u i s =
      .next (((s.modCache u fun c => { c with walks := listDel c.walks i }).modCache u
        fun c => { c with ways := (x.cache.clean w.lo w.hi).1.ways }).sendLines u w.e w.slot w.wave w.num
          (x.cache.clean w.lo w.hi).2) := by
  simp [execCacheWalkEnd, inSection_placed hx, hw, hfin, hwaits, hwb]

end walk

/-! ## Windows (R84, R116) -/

/-- The transport rider that brings the 32 KiB after address `va` for a window of a unit. -/
def windowRider (s : State) (u : Nat) (x : UnitSt) (va : Nat) : Rider where
  u := u
  e := 0
  slot := 0
  bind := 32
  port := s.portOfVa x.tenant va
  job := x.job
  tenant := x.tenant
  secure := x.secure
  kind := .rd
  op := 3
  base := va
  len := 512
  doneB := 32
  delivB := 32
  tag := 0
  aux3 := 0
  aux16 := 0
  par := []
  what := .window

theorem execWindowExtend_due {w : CbWin} (hx : s.placed? u = some x) (hw : (x.cache.wins.getD 0 [])[i]? = some w)
    (hahead : w.head < w.lastRead + 32768) (hext : w.ext = none) :
    let s1 := s.serveWindows u
    execWindowExtend u i s = .next ((s1.bumpId.setRider s1.nextId (windowRider s1 u x w.head)).modCache u fun c =>
      { c with wins := c.wins.set 0 (listUpd (x.cache.wins.getD 0 []) i fun w => { w with ext := some s1.nextId }) }) := by
  have hno : ¬ (w.lastRead + 32768 ≤ w.head ∨ w.ext.isSome = true) := by
    rw [hext]
    rintro (h | h)
    · omega
    · cases h
  simp only [execWindowExtend, inSection_placed hx, hw, if_neg hno]
  rfl

end Sys2Proof.Machine

namespace Sys2Proof.Spec
open Machine

/-- Settles O39: each event is the operation above that it names. -/
theorem storageEvents : Obligations.StorageEvents := by
  unfold Obligations.StorageEvents
  refine ⟨fun s u n x k rest hx hq hkind hturn => execSlotStreamRequest_served hx hq hkind hturn,
    fun s u b x hx hlanded => ?_, fun s q n c hzero hc => ?_,
    fun s u i x item line ws hx hfill hway => execCacheFillReturn_held hx hfill hway,
    fun s u i x item line ws hx hfill hway hnone => ?_,
    fun s u i x w hx hw hfin hwaits => ⟨execCacheWalkEnd_invalidates hx hw hfin hwaits,
      execCacheWalkEnd_writesBack hx hw hfin hwaits⟩,
    fun s u i x w hx hw hahead hext => ?_⟩
  · refine ⟨_, _, execBufferDeliveryComplete_landed hx hlanded, State.unit?_setUnit_self _ _ _, ?_, ?_, fun hcount hphase hcmd => ?_⟩
    · rw [UnitSt.buf_setBuf_self, bufferDone_count]
    · rw [UnitSt.buf_setBuf_self, bufferDone_landed]
    · rw [UnitSt.buf_setBuf_self]
      exact bufferDone_ready hcount hphase hcmd
  · exact ⟨_, execSlotZeroComplete_over hzero hc, State.slotOf_setSlot_self s q n {}⟩
  · obtain ⟨r, y, hrun, hy, hcache⟩ := execCacheFillReturn_unawaited hx hfill hway hnone
    obtain ⟨hfills, hwaits⟩ := Cache.fillLine_held (c := { x.cache with fills := listDel x.cache.fills i }) (line := line)
      (ws := ws) (used := s.nextId) hway
    exact ⟨r, y, hrun, hy, by rw [hcache, hfills], by rw [hcache, hwaits], by rw [hcache]⟩
  · refine ⟨_, windowRider (s.serveWindows u) u x w.head, execWindowExtend_due hx hw hahead hext, Assoc.get?_set_self _ _ _, rfl, rfl,
      rfl, rfl, rfl, rfl, fun z hz => ⟨_, by simp [hz]; rfl, Assoc.getD_set_self _ _ _ _⟩⟩

end Sys2Proof.Spec
end
section
/-! PROOFS. Riders and requests at their ports: checked, translated, accepted, closed, alighted (R86-R88, R92, R99, R105, R106, R131,
R269, R363). -/

namespace Sys2Proof.Machine

variable {s s1 : State} {u n i : Nat} {x : UnitSt} {r : Rider}

/-! ## Packets (R86, R271) -/

section packet
variable {p : Packet} {rest : List Packet} {k : RKind}

/-- A packet that its port accepts becomes a rider; the carriage of a GAT or SCA is the binding's. -/
theorem execRiderPacketCheck_accepted (hx : s.placed? u = some x) (hq : (x.bindSt n).packets = p :: rest)
    (hport : isPort x.cfg n = true) (hkind : packetKind p = some k) (hgood : packetRefused x.cfg p (riderOf x u n p k) = none) :
    let s1 := (s.setUnit u (x.setBind n { x.bindSt n with packets := rest })).setRider p.id (riderOf x u n p k)
    execRiderPacketCheck u n s = .next (if k = .gat ∨ k = .sca then
      s1.modUnit u fun x => x.setBind n { x.bindSt n with carriage := some p.id } else s1) := by
  simp only [execRiderPacketCheck, inSection_placed hx, hq, hport, hkind, hgood, Bool.not_true, Bool.false_eq_true, if_false,
    Option.getD_some]

theorem execRiderPacketCheck_refused {cause : Nat} (hx : s.placed? u = some x) (hq : (x.bindSt n).packets = p :: rest)
    (hport : isPort x.cfg n = true) (hkind : packetKind p = some k)
    (hbad : packetRefused x.cfg p (riderOf x u n p k) = some cause) : execRiderPacketCheck u n s =
      .next ((s.setUnit u (x.setBind n { x.bindSt n with packets := rest })).complete u n p.id
        (riderOf x u n p k).doneB (State.compTok 2 0 cause 0 0 (riderOf x u n p k).tag)) := by
  simp only [execRiderPacketCheck, inSection_placed hx, hq, hport, hkind, hbad, Bool.not_true, Bool.false_eq_true, if_false,
    Option.getD_some]

end packet

/-! ## Translation (R88, R106, R363) -/

/-- A span that lies in one class makes its rider ready. -/
theorem translateRider_ready {ps : List Page} {c : SweepClass}
    (hpages : s.spanPages r.port (riderAsk i r) r.base (64 * r.firstLines) = (s1, .ok ps))
    (hclass : spanClasses (s1.endWalk i) { r with pages := ps, len := r.firstLines } = [c]) (hdeep : c ≠ .deep ∨ r.kind ≠ .tblb) :
    translateRider s i r = (s1.endWalk i).setRider i { r with pages := ps, phase := .ready, cls := c } := by
  have hno : ¬ (c = .deep ∧ r.kind = .tblb) := fun h => hdeep.elim (· h.1) (· h.2)
  have hclass : spanClasses (s1.endWalk i) { r with pages := ps, len := ({ r with pages := ps } : Rider).firstLines } = [c] := hclass
  simp only [translateRider, hpages, hclass, if_neg hno]

theorem translateRider_fetches {va line : Nat}
    (hpages : s.spanPages r.port (riderAsk i r) r.base (64 * r.firstLines) = (s1, .error (va, .fetch line))) :
    translateRider s i r = s1.fetchLine (riderAsk i r) r.u r.job r.port va line := by
  simp only [translateRider, hpages]

theorem execTranslationWalk_rider (hr : s.sweep.riders.get? i = some r) (hphase : r.phase = .arrived)
    (hfirst : firstToTranslate s i r = true) : execTranslationWalk i s = .next (translateRider s i r) := by
  simp only [execTranslationWalk, hr, hphase, hfirst, and_self, if_true]

theorem execRiderTranslate_pages {ps : List Page} (hr : s.sweep.riders.get? i = some r) (hphase : r.phase = .arrived)
    (hfirst : firstToTranslate s i r = true)
    (hpages : s.spanPages r.port (riderAsk i r) r.base (64 * r.firstLines) = (s1, .ok ps)) :
    execRiderTranslate i s = .next (translateRider s i r) := by
  have hneeds : needsLine s i r = false := by simp only [needsLine, hpages]
  simp only [execRiderTranslate, hr, hphase, hfirst, hneeds, Bool.false_eq_true, not_false_eq_true, and_self, if_true]

/-! ## Requests of elements and of the management path (R105, R269, R364) -/

section item
variable {k : Item} {p : Page}

theorem execTranslationWalk_item (hr : s.sweep.riders.get? i = none) (hk : s.sweep.items.get? i = some k) (hpa : k.pa = none)
    (hheld : k.held = none) (hfirst : itemFirst s i k = true) (hruns : itemRuns s k = true) :
    execTranslationWalk i s = .next (if k.man = 0 then translateItem s i k else translateMan s i k) := by
  simp only [execTranslationWalk, hr, hk, hpa, hheld, hfirst, hruns, Option.isNone_none, Bool.and_self, if_true]

/-- A write-back of a line. -/
def Item.isWriteBack (k : Item) : Bool :=
  match k.kind with
  | .wb => true
  | _ => false

/-- A write of the management path. -/
def Item.isPut (k : Item) : Bool :=
  match k.kind with
  | .mput _ => true
  | _ => false

/-- What request `i` asks of its page. -/
def itemAsk (i : Nat) (k : Item) (write : Bool) : Ask where
  tenant := k.tenant
  secure := k.secure
  write := write
  host := false
  who := i

theorem translateItem_accepts
    (hpage : s.translate (s.portOfVa k.tenant k.va) (itemAsk i k k.isWriteBack) k.va = (s1, .page p))
    (hclass : s1.classHeld (s1.classAt (p.at_ k.va)) = false)
    (htakes : windowTakes s1 (portAt (p.at_ k.va)) (entryOf s1 { k with pa := some (p.at_ k.va) }) = true) :
    translateItem s i k = acceptItem s1 i k p k.va := by
  unfold translateItem
  dsimp only
  split
  · rename_i h
    cases h.symm.trans hpage
  · rename_i h
    cases h.symm.trans hpage
    simp only [hclass, htakes, Bool.not_true, Bool.or_self, Bool.false_eq_true, if_false]
  · rename_i h
    cases h.symm.trans hpage

theorem translateMan_accepts
    (hpage : s.translate (s.portOfVa k.tenant k.va) (itemAsk i k k.isPut) k.va = (s1, .page p))
    (hdeep : k.deepOnly = true → targetOf (p.at_ k.va) = .deep) (hsize : k.size ≠ 0) (hbytes : manBytes s1 k p = k.size) :
    translateMan s i k = acceptItem s1 i k p k.va := by
  have hno : (k.deepOnly && decide (targetOf (p.at_ k.va) ≠ .deep)) = false := by
    cases hd : k.deepOnly with
    | false => rfl
    | true => simp [hdeep hd]
  unfold translateMan
  dsimp only
  split
  · rename_i h
    cases h.symm.trans hpage
  · rename_i h
    cases h.symm.trans hpage
  · rename_i h
    cases h.symm.trans hpage
    simp only [hno, hbytes, hsize, Bool.false_eq_true, if_false, if_true]

end item

/-! ## Carriages (R99, R105, R271) -/

section carriage
variable {k : Token} {rest : List Token}

theorem execItemAccept_offers (hx : s.placed? u = some x) (hcar : (x.bindSt n).carriage = some i) (hq : (x.bindSt n).inq = k :: rest)
    (hr : s.sweep.riders.get? i = some r) (htakes : takesItems s i r = true) (heos : k.isEos = false) :
    execItemAccept u n s = .next (acceptFrom s i r k) := by
  simp only [execItemAccept, inSection_placed hx, hcar, hq, hr, htakes, heos, Bool.not_false, Bool.and_self, if_true]

/-- A data token is none of the other marks. -/
theorem Token.marks_of_isData (h : k.isData = true) : k.isPoison = false ∧ k.isEos = false := by
  simp only [Token.isData, decide_eq_true_eq] at h
  simp only [Token.isPoison, Token.isEos, beq_eq_false_iff_ne, ne_eq]
  exact ⟨fun heq => by simp [heq] at h, fun heq => by simp [heq] at h⟩

/-- The window item that a data token of a GAT carriage becomes (R99, R105). -/
def gatItem (i : Nat) (r : Rider) (k : Token) : Item where
  u := r.u
  e := r.e
  slot := r.slot
  wave := false
  kind := .gat i r.nextItem (k.payload.setWidth 32)
  va := r.base + 8 * k.coord.toNat
  tenant := r.tenant
  secure := r.secure

theorem acceptFrom_gat {p : Page} (hdata : k.isData = true) (hkind : r.kind = .gat) (hroom : answerRoom s i r = true)
    (hin : k.coord.toNat < 8 * r.len)
    (hpage : s.translate r.port (riderAsk i r) (r.base + 8 * k.coord.toNat) = (s1, .page p))
    (hclass : (s1.endWalk i).classAt (p.at_ (r.base + 8 * k.coord.toNat)) = r.cls)
    (htakes : windowTakes (s1.endWalk i) (portAt (p.at_ (gatItem i r k).va))
      (entryOf (s1.endWalk i) { gatItem i r k with pa := some (p.at_ (gatItem i r k).va) }) = true) :
    acceptFrom s i r k = acceptItem ((takeHead (s1.endWalk i).bumpId r).setRider i
      { r with nextItem := r.nextItem + 1, waiting := r.waiting + 1 }) (s1.endWalk i).nextId (gatItem i r k) p (gatItem i r k).va := by
  have hpoison := (Token.marks_of_isData hdata).1
  have hseal : (p.sealed && RKind.gat == .sca) = false := Bool.and_false _
  unfold gatItem at htakes
  simp only [acceptFrom, hpoison, hdata, hkind, hroom, if_neg (Nat.not_le.mpr hin), hpage, hclass, hseal, htakes, decide_true,
    Bool.true_and, Bool.not_true, Bool.false_eq_true, ne_eq, not_true_eq_false, if_false, if_true]
  rfl

theorem execCarriageClose_ends (hr : s.sweep.riders.get? i = some r) (hx : s.placed? r.u = some x)
    (hq : (x.bindSt r.bind).inq = k :: rest) (heos : k.isEos = true) (hon : streamOn s i r = true) :
    execCarriageClose i s = .next ((takeHead s r).setRider i { r with closed := true }) := by
  simp only [execCarriageClose, hr, inSection_placed hx, hq, heos, hon, Bool.and_self, if_true]

/-- What stands in a binding's queue once its head is taken off. -/
theorem unit?_takeHead (hx : s.unit? r.u = some x) (hq : (x.bindSt r.bind).inq = k :: rest) :
    ∃ y, (takeHead s r).unit? r.u = some y ∧ (y.bindSt r.bind).inq = rest :=
  ⟨_, by rw [takeHead, State.unit?_modUnit_self, hx]; rfl, by rw [UnitSt.bindSt_setBind_self, hq]; rfl⟩

end carriage

/-! ## Riders that alight (R92, R131) -/

/-- A rider whose visits are over and whose data find room. -/
theorem execRiderAlight_alighted (hr : s.sweep.riders.get? i = some r) (hphase : r.phase = .alighted) :
    let put := s.deliverRider i r (alightData r).1
    let q := { r with fl := r.fl ||| (alightData r).2 }
    (alightData r).1.length ≤ put.2 → execRiderAlight i s =
      .next (if dataAway put.1 i q = true then endRide put.1 i q else put.1.setRider i { q with phase := .leaving, out := [] }) := by
  intro put q hroom
  have hroom : ¬ (s.deliverRider i r (alightData r).1).2 < (alightData r).1.length := Nat.not_lt.mpr hroom
  simp only [execRiderAlight, hr, hphase, if_neg hroom]
  rfl

theorem execRiderAlight_leaving (hr : s.sweep.riders.get? i = some r) (hphase : r.phase = .leaving) (haway : dataAway s i r = true) :
    execRiderAlight i s = .next (endRide s i r) := by
  simp only [execRiderAlight, hr, hphase, haway, if_true]

theorem endRide_unbuffered (h : r.buffer = none) : endRide s i r = startZeros (s.finishRider i r
    (State.compTok (alightStatus r) r.fl (alightCause r) r.count (r.firstBad.getD (itemsOf r)) r.tag)) := by
  simp only [endRide, h]

end Sys2Proof.Machine

namespace Sys2Proof.Spec
open Machine

/-- Settles O40: each event is the operation above that it names. -/
theorem riderEvents : Obligations.RiderEvents := by
  unfold Obligations.RiderEvents
  refine ⟨fun s u n x p rest k hx hq hport hkind hgood => ?_,
    fun s u n x p rest k cause hx hq hport hkind hbad => execRiderPacketCheck_refused hx hq hport hkind hbad,
    fun s i r s1 ps c hr hphase hfirst hpages hclass hdeep => ?_,
    fun s i r s1 va line hr hphase hfirst hpages => ?_,
    fun s i k s1 p hr hk hpa hheld hfirst hruns hman hpage hclass htakes => ?_,
    fun s i k s1 p hr hk hpa hheld hfirst hruns hman hsize hpage hdeep hbytes => ?_,
    fun s u n x i k rest r hx hcar hq hr htakes heos => execItemAccept_offers hx hcar hq hr htakes heos,
    fun s u n x i k rest r s1 p hx hcar hq hr htakes hdata hkind hroom hin hpage hclass => ?_,
    fun s i r x k rest hr hx hq heos hon => ?_,
    fun s i r hr hphase => ?_,
    fun s i r hr hphase haway => execRiderAlight_leaving hr hphase haway,
    fun s i r hbuffer => endRide_unbuffered hbuffer⟩
  · refine ⟨_, execRiderPacketCheck_accepted hx hq hport hkind hgood, ?_, ?_⟩
    · split <;> exact Assoc.get?_set_self _ _ _
    · split
      · exact ⟨_, by rw [State.unit?_modUnit_self, State.unit?_setRider, State.unit?_setUnit_self]; rfl, by simp, by simp⟩
      · rename_i hno
        exact ⟨_, by rw [State.unit?_setRider, State.unit?_setUnit_self], by simp, fun h => absurd h hno⟩
  · have hready := translateRider_ready hpages hclass hdeep
    exact ⟨(execRiderTranslate_pages hr hphase hfirst hpages).trans (by rw [hready]),
      (execTranslationWalk_rider hr hphase hfirst).trans (by rw [hready])⟩
  · exact (execTranslationWalk_rider hr hphase hfirst).trans (by rw [translateRider_fetches hpages])
  · exact (execTranslationWalk_item hr hk hpa hheld hfirst hruns).trans
      (by rw [if_pos hman, translateItem_accepts hpage hclass htakes])
  · exact (execTranslationWalk_item hr hk hpa hheld hfirst hruns).trans
      (by rw [if_neg hman, translateMan_accepts hpage hdeep hsize hbytes])
  · intro item hwin
    exact (execItemAccept_offers hx hcar hq hr htakes (Token.marks_of_isData hdata).2).trans
      (congrArg Host.Outcome.next (acceptFrom_gat hdata hkind hroom hin hpage hclass hwin))
  · obtain ⟨y, hy, hrest⟩ := unit?_takeHead (placed_unit hx) hq
    exact ⟨_, execCarriageClose_ends hr hx hq heos hon, Assoc.get?_set_self _ _ _, y, hy, hrest⟩
  · intro put q hroom
    have hrun := execRiderAlight_alighted hr hphase hroom
    exact ⟨fun haway => hrun.trans (by rw [if_pos haway]), fun haway => hrun.trans (by rw [if_neg (by rw [haway]; nofun)])⟩

end Sys2Proof.Spec
end
section
/-! PROOFS. The commands of the host: OPEN, LOAD, PHASE, RUN, WAIT, SIGNAL, CANCEL, CLOSE (R94, R329, R330, R336, R354, R401). -/

namespace Sys2Proof.Machine

variable {s : State} {q : Nat} {b : List Byte}

/-! ## Queues -/

@[simp] theorem State.queue_setQueue_self (s : State) (q : Nat) (x : Queue) : (s.setQueue q x).queue q = x :=
  Assoc.getD_set_self s.host.queues q x {}

@[simp] theorem State.queue_untake (s : State) (q k : Nat) : (s.untake q).queue k = s.queue k := rfl

@[simp] theorem State.markSince_taken (s : State) : s.markSince.host.taken = s.host.taken := rfl

/-- Marking how long queues have waited changes nothing else of a queue. -/
theorem State.queue_markSince (s : State) (q : Nat) :
    ∃ since aged, s.markSince.queue q = { s.queue q with since := since, aged := aged } := by
  unfold State.queue State.markSince
  dsimp only
  rw [Assoc.getD, Assoc.get?_mapVals, Assoc.getD]
  cases s.host.queues.get? q with
  | none => exact ⟨none, 0, rfl⟩
  | some x =>
    dsimp only [Option.map_some, Option.getD_some]
    split <;> exact ⟨_, _, rfl⟩

/-! ## OPEN and CLOSE (R329, R401) -/

/-- The queue that an OPEN record opens. -/
def openedQueue (b : List Byte) : Queue where
  st := .opened
  tenant := recField b 8 2
  prio := recField b 10 1 % 8
  secure := recField b 10 1 / 8 % 2 == 1
  priv := recField b 10 1 / 16 % 2 == 1
  debug := recField b 10 1 / 32 % 2 == 1
  credit := recField b 11 1
  comp := { base := recField b 16 8, size := recField b 24 4 }
  log := { base := recField b 32 8, size := recField b 40 4 }
  fault := { base := recField b 48 8, size := recField b 56 4 }

theorem execHostOpen_opens (hopen : s.openWaits = some (q, b, true)) (hgood : recGood b = true)
    (hsecure : ((s.queuesOf (recField b 8 2)).any fun x => x.secure != (recField b 10 1 / 8 % 2 == 1)) = false) :
    ∃ r : State, execHostOpen s = .next (r.putRecord q .comp (compRecord 1 0 0 (recTag b) 0 [])) ∧ r.queue q = openedQueue b := by
  refine ⟨State.setQueue (if (s.queuesOf (recField b 8 2)).isEmpty then
      { s with keys := s.keys.set (recField b 8 2) s.keyNext, keyNext := s.keyNext + 1 } else s) q (openedQueue b), ?_, ?_⟩
  · simp only [execHostOpen, hopen, hgood, hsecure, Bool.not_true, Bool.or_self, Bool.false_eq_true, if_false]
    rfl
  · exact State.queue_setQueue_self _ q _

theorem execHostClose_closing (htaken : s.takenCmd 8 = some (q, b)) (hclose : (s.queue q).close = none) : execHostClose s =
    .next ((s.setQueue q { s.queue q with st := .closing, close := some b }).untake q).markSince := by
  simp only [execHostClose, htaken, hclose, Option.isSome_none, Bool.false_eq_true, if_false]

/-! ## LOAD (R94, R329) -/

section load
variable {plan : LoadPlan} {im : Image} {man : Nat}

theorem execHostLoad_continues (htaken : s.takenCmd 2 = some (q, b)) (hload : s.host.loads.get? q = some (im, man)) :
    execHostLoad plan s = .next (s.endLoad q b im man) := by
  simp only [execHostLoad, htaken, hload]

theorem State.endLoad_done (hfailed : s.manFailed man = false) (hstamped : s.unstamped man = false) : s.endLoad q b im man =
    State.answer { s with host := { s.host with
      images := s.host.images.set (imageKey q (recField b 24 2)) im, loads := s.host.loads.erase q } } q b 0 0 (recField b 24 2) [] := by
  simp only [State.endLoad, hfailed, hstamped, Bool.false_eq_true, if_false]

theorem State.endLoad_failed (hfailed : s.manFailed man = true) : s.endLoad q b im man =
    (State.manOver { s with host := { s.host with loads := s.host.loads.erase q } } man).answer q b 2 0x10 (recField b 24 2)
      ({ off := 0, reason := 0x10 } : Fail).bytes := by
  simp only [State.endLoad, hfailed, if_true]

section new
variable (htaken : s.takenCmd 2 = some (q, b)) (hload : s.host.loads.get? q = none) (hlink : s.linkUp = true)
  (hfree : s.imageUsed q (recField b 24 2) = false)
include htaken hload hlink hfree

theorem execHostLoad_loads {t : State} (hok : s.loadImage q { mem := s.mem, base := State.hostAddr (recField b 8 8) }
    (recField b 16 8) plan = .ok (t, im, man)) : execHostLoad plan s = .next (t.endLoad q b im man) := by
  simp only [execHostLoad, htaken, hload, hlink, hfree, hok, Bool.not_true, Bool.false_eq_true, if_false]

theorem execHostLoad_refuses {f : Fail} (herr : s.loadImage q { mem := s.mem, base := State.hostAddr (recField b 8 8) }
    (recField b 16 8) plan = .error f) : execHostLoad plan s = .next (State.answer { s with host := { s.host with
      images := s.host.images.erase (imageKey q (recField b 24 2)) } } q b 2 f.reason (recField b 24 2) f.bytes) := by
  simp only [execHostLoad, htaken, hload, hlink, hfree, herr, Bool.not_true, Bool.false_eq_true, if_false]

end new

end load

/-! ## PHASE and RUN (R329, R331, R335) -/

theorem execHostPhase_appends (htaken : s.takenCmd 4 = some (q, b)) : execHostPhase s = .next ((s.setQueue q { s.queue q with
    pending := (s.queue q).pending ++ [(List.range (recField b 8 1)).map fun i => recField b (16 + 2 * i) 2] }).answer q b 0 0 0 []) := by
  simp only [execHostPhase, htaken]

/-- The entries of the job table that no active job has. -/
def State.spareJobs (s : State) : List Nat :=
  (List.range 4096).filter fun n => match s.job n with
    | some j => !j.active
    | none => true

theorem State.mem_spareJobs {n : Nat} : n ∈ s.spareJobs ↔ n < 4096 ∧ ∀ j, s.job n = some j → j.active = false := by
  unfold State.spareJobs
  rw [List.mem_filter, List.mem_range]
  cases s.job n <;> simp

/-- The phases of the job that a RUN makes: those that were appended, else all graphs of its image as one. -/
def State.runPhases (s : State) (q : Nat) (im : Image) : List (List Nat) :=
  if (s.queue q).pending = [] then [List.range im.graphs.length] else (s.queue q).pending

/-- Each of them names graphs of the image. -/
theorem State.runPhases_within {im : Image} (h : ∀ p ∈ (s.queue q).pending, ∀ g ∈ p, g < im.graphs.length) :
    ∀ p ∈ s.runPhases q im, ∀ g ∈ p, g < im.graphs.length := by
  unfold State.runPhases
  split
  · intro p hp g hg
    rw [List.mem_singleton] at hp
    exact List.mem_range.mp (hp ▸ hg)
  · exact h

/-- The job that a RUN makes. -/
def State.runJob (s : State) (q : Nat) (b : List Byte) (im : Image) : Job where
  tenant := (s.queue q).tenant
  secure := (s.queue q).secure
  priv := (s.queue q).priv
  debug := (s.queue q).debug
  queue := q
  hostTag := recTag b
  prio := recField b 10 1
  image := imageKey q (recField b 8 2)
  phases := s.runPhases q im
  order := s.nextId

/-- The state in which the job of a RUN stands in entry `n`. -/
def State.withRun (s : State) (q n : Nat) (b : List Byte) (im : Image) : State :=
  State.setQueue { (s.clearEntry n).bumpId with jobs := s.jobs.set n (s.runJob q b im), freeCtr := s.freeCtr + 1 } q
    { s.queue q with pending := [], jobs := (s.queue q).jobs ++ [n] }

theorem execHostRun_makes {im : Image} (htaken : s.takenCmd 3 = some (q, b))
    (himage : s.host.images.get? (imageKey q (recField b 8 2)) = some im) (hprio : recField b 10 1 ≤ (s.queue q).prio)
    (hphases : ∀ p ∈ (s.queue q).pending, ∀ g ∈ p, g < im.graphs.length) (hspare : s.spareJobs ≠ []) :
    ∃ n ∈ s.spareJobs, execHostRun s = .next ((s.withRun q n b im).answer q b 0 0 n []).startGraphs := by
  have hpos : 0 < s.spareJobs.length := List.length_pos_iff.mpr hspare
  have hlt : Config.free s.freeCtr % s.spareJobs.length < s.spareJobs.length := Nat.mod_lt _ hpos
  obtain ⟨n, hmem, hpick⟩ : ∃ n ∈ s.spareJobs, s.spareJobs[Config.free s.freeCtr % s.spareJobs.length]? = some n :=
    ⟨_, List.getElem_mem hlt, List.getElem?_eq_getElem hlt⟩
  have hempty : (s.queue q).pending.isEmpty = decide ((s.queue q).pending = []) := by
    cases (s.queue q).pending <;> rfl
  have hok : (decide ((s.queue q).prio < recField b 10 1) ||
      (s.runPhases q im).any fun p => p.any fun g => decide (im.graphs.length ≤ g)) = false := by
    rw [Bool.or_eq_false_iff, decide_eq_false_iff_not, List.any_eq_false]
    refine ⟨by omega, fun p hp => ?_⟩
    rw [List.any_eq_true]
    rintro ⟨g, hg, hout⟩
    exact absurd (State.runPhases_within hphases p hp g hg) (Nat.not_lt.mpr (of_decide_eq_true hout))
  refine ⟨n, hmem, ?_⟩
  unfold State.runPhases at hok
  simp only [execHostRun, htaken, himage, hempty, decide_eq_true_eq, hok, Bool.false_eq_true, if_false]
  split
  · rename_i hnone
    cases hpick.symm.trans hnone
  · rename_i hsome
    cases hpick.symm.trans hsome
    rfl

/-! ## WAIT, SIGNAL and CANCEL (R329, R336, R354) -/

section named
variable {j : Job}

theorem State.job_of_recJob (h : s.recJob q b = some j) : s.job (recField b 12 2) = some j := by
  unfold State.recJob at h
  split at h
  · rename_i k hk
    obtain ⟨_, heq⟩ := Option.ite_none_right_eq_some.mp h
    cases heq
    exact hk
  · cases h

theorem execHostWait_holds (htaken : s.takenCmd 5 = some (q, b)) (hjob : s.recJob q b = some j) :
    execHostWait s = .next ((s.setQueue q { s.queue q with wait := some b }).untake q).markSince := by
  simp only [execHostWait, htaken, hjob]

/-- SIGNAL of mode 0 adds to the counter. -/
theorem execHostSignal_adds (htaken : s.takenCmd 6 = some (q, b)) (hjob : s.recJob q b = some j) (hmode : recField b 8 1 = 0) :
    let t := s.addCounter (recField b 12 2) (recField b 14 1) (BitVec.ofNat 64 (recField b 16 8))
    ∃ v, execHostSignal s = .next (t.answer q b 0 0 v []) := by
  simp only [execHostSignal, htaken, hjob, hmode, if_true]
  exact ⟨_, rfl⟩

/-- SIGNAL of another mode returns the counter. -/
theorem execHostSignal_reads (htaken : s.takenCmd 6 = some (q, b)) (hjob : s.recJob q b = some j) (hmode : recField b 8 1 ≠ 0) :
    execHostSignal s = .next (s.answer q b 0 0 (j.counters.getD (recField b 14 1) 0).toNat []) := by
  simp only [execHostSignal, htaken, hjob, if_neg hmode, State.job_of_recJob hjob]

theorem execHostCancel_own (htaken : s.takenCmd 7 = some (q, b))
    (hown : ∀ j, s.job (recField b 12 2) = some j → j.tenant = (s.queue q).tenant) :
    let r := s.cancelNamed (recField b 12 2) (recField b 8 1) (recField b 14 2) (recField b 16 2)
    execHostCancel s = .next (State.answer { r.1 with host := { r.1.host with cancelAt := some r.1.clk.cyc } } q b 0 0 r.2
      []).startGraphs := by
  simp only [execHostCancel, htaken]
  cases hjob : s.job (recField b 12 2) with
  | none => rfl
  | some j => simp only [hown j hjob, bne_self_eq_false, Bool.false_eq_true, if_false]

end named

end Sys2Proof.Machine

namespace Sys2Proof.Spec
open Machine

/-- Settles O49: each command has the effect of its code. -/
theorem hostCommands : Obligations.HostCommands := by
  unfold Obligations.HostCommands
  refine ⟨fun s q b hopen hgood hsecure => ?_, fun s q b plan im man htaken hload hfailed hstamped => ?_,
    fun s q b plan im man htaken hload hfailed => ?_, fun s q b plan htaken hload hlink hfree => ⟨fun t im man hok => ?_, fun f herr => ?_⟩,
    fun s q b htaken => execHostPhase_appends htaken, fun s q b im htaken himage hprio hphases hspare => ?_,
    fun s q b j htaken hjob => ?_,
    fun s q b j htaken hjob => ⟨execHostSignal_adds htaken hjob, execHostSignal_reads htaken hjob⟩,
    fun s q b htaken hown => execHostCancel_own htaken hown, fun s q b htaken hclose => ?_⟩
  · obtain ⟨r, hrun, hq⟩ := execHostOpen_opens hopen hgood hsecure
    exact ⟨r, hrun, by rw [hq]; rfl, by rw [hq]; rfl, by rw [hq]; rfl, by rw [hq]; rfl⟩
  · exact (execHostLoad_continues htaken hload).trans (congrArg _ (State.endLoad_done hfailed hstamped))
  · exact ⟨State.manOver { s with host := { s.host with loads := s.host.loads.erase q } } man, _,
      (execHostLoad_continues htaken hload).trans (congrArg _ (State.endLoad_failed hfailed)), rfl, rfl⟩
  · exact execHostLoad_loads htaken hload hlink hfree hok
  · exact execHostLoad_refuses htaken hload hlink hfree herr
  · obtain ⟨m, hm, hidle⟩ := hspare
    obtain ⟨n, hn, hrun⟩ := execHostRun_makes htaken himage hprio hphases
      (List.ne_nil_of_mem (State.mem_spareJobs.mpr ⟨hm, hidle⟩))
    obtain ⟨hlt, hfree⟩ := State.mem_spareJobs.mp hn
    exact ⟨n, s.withRun q n b im, s.runJob q b im, hlt, hfree, Assoc.get?_set_self _ _ _, rfl, rfl, rfl, rfl, rfl, rfl, hrun⟩
  · obtain ⟨since, aged, hq⟩ := ((s.setQueue q { s.queue q with wait := some b }).untake q).queue_markSince q
    exact ⟨_, execHostWait_holds htaken hjob, by rw [hq, State.queue_untake, State.queue_setQueue_self], rfl⟩
  · obtain ⟨since, aged, hq⟩ :=
      ((s.setQueue q { s.queue q with st := .closing, close := some b }).untake q).queue_markSince q
    exact ⟨_, execHostClose_closing htaken hclose, by rw [hq, State.queue_untake, State.queue_setQueue_self],
      by rw [hq, State.queue_untake, State.queue_setQueue_self], rfl⟩

end Sys2Proof.Spec
end
section
/-! PROOFS. The parts of a slot word: the codes of the operands, and fields that fit their bits (R151-R155, R213). -/

namespace Sys2Proof

/-! ## Operand codes (R152, R153, R155, R213) -/

theorem Src.code_lt (s : Src) : s.code < 32 := by
  cases s <;> simp only [code] <;> omega

@[simp] theorem Src.ofCode_code (s : Src) : ofCode s.code = s := by
  cases s with
  | g n | take n | k n | ch n => revert n; decide
  | z | one | bt | cx => rfl

theorem Src.code_ofCode {c : Nat} (h : c < 32) : (ofCode c).code = c := by
  revert c; decide

theorem ODst.code_lt (d : ODst) : d.code < 32 := by
  cases d <;> simp only [code] <;> omega

@[simp] theorem ODst.ofCode_code (d : ODst) : ofCode d.code = some d := by
  cases d with
  | o n => revert n; decide
  | o01 | o23 | oall => rfl

theorem ODst.code_of_ofCode {c : Nat} {d : ODst} (h : ofCode c = some d) : d.code = c := by
  unfold ofCode at h
  split_ifs at h <;> cases h <;> simp only [code, Fin.val_ofNat] <;> omega

theorem Dst.code_lt (d : Dst) : d.code < 32 := by
  cases d with
  | g n => exact n.isLt.trans (by decide)
  | out d => exact d.code_lt
  | z => decide

@[simp] theorem Dst.ofCode_code (d : Dst) : ofCode d.code = some d := by
  cases d with
  | g n => revert n; decide
  | out d => cases d with
    | o n => revert n; decide
    | o01 | o23 | oall => rfl
  | z => rfl

theorem Dst.code_of_ofCode {c : Nat} {d : Dst} (h : ofCode c = some d) : d.code = c := by
  unfold ofCode at h
  split_ifs at h with hg hz
  · cases h; exact Nat.mod_eq_of_lt hg
  · cases h; exact hz.symm
  · obtain ⟨d, hd, rfl⟩ := Option.map_eq_some_iff.mp h
    exact ODst.code_of_ofCode hd

theorem MacDst.code_lt (d : MacDst) : d.code < 32 := by
  cases d with
  | acc n => simp only [code]; omega
  | out d => exact d.code_lt

@[simp] theorem MacDst.ofCode_code (d : MacDst) : ofCode d.code = some d := by
  cases d with
  | acc n => revert n; decide
  | out d => cases d with
    | o n => revert n; decide
    | o01 | o23 | oall => rfl

theorem MacDst.code_of_ofCode {c : Nat} {d : MacDst} (h : ofCode c = some d) : d.code = c := by
  unfold ofCode at h
  split_ifs at h with ho ha
  · obtain ⟨d, hd, rfl⟩ := Option.map_eq_some_iff.mp h
    exact ODst.code_of_ofCode hd
  · cases h; simp only [code, Fin.val_ofNat]; omega

@[simp] theorem finOfCode_add {n : Nat} [NeZero n] (lo : Nat) (d : Fin n) : finOfCode n lo (lo + d.val) = some d := by
  simp [finOfCode]

@[simp] theorem finOfCode_val {n : Nat} [NeZero n] (d : Fin n) : finOfCode n 0 d.val = some d := by
  simpa using finOfCode_add 0 d

theorem add_val_of_finOfCode {n : Nat} [NeZero n] {lo c : Nat} {d : Fin n} (h : finOfCode n lo c = some d) : lo + d.val = c := by
  unfold finOfCode at h
  split_ifs at h with hc
  cases h
  rw [Fin.val_ofNat, Nat.mod_eq_of_lt (by omega)]
  omega

theorem val_of_finOfCode {n : Nat} [NeZero n] {c : Nat} {d : Fin n} (h : finOfCode n 0 c = some d) : d.val = c :=
  (Nat.zero_add _).symm.trans (add_val_of_finOfCode h)

@[simp] theorem Scope.ofCode_code (s : Scope) : ofCode s.code = some s := by
  cases s <;> rfl

theorem Scope.code_lt (s : Scope) : s.code < 8 := by
  cases s <;> decide

theorem Scope.code_of_ofCode {c : Nat} {s : Scope} (h : ofCode c = some s) : s.code = c := by
  unfold ofCode at h
  split at h <;> cases h <;> rfl

theorem bitNat_lt (b : Bool) : bitNat b < 2 := by
  cases b <;> decide

namespace Fields

/-! ## Fields that fit a word, and the word as a number (R151) -/

/-- Each field is within its bits of the slot word (R151). -/
structure Fits (f : Fields) : Prop where
  t : f.t < 64
  op : f.op < 256
  d : f.d < 32
  a : f.a < 32
  b : f.b < 32
  m : f.m < 8

theorem ofWord_fits (w : Nat) : (ofWord w).Fits := by
  constructor <;> exact Nat.mod_lt _ (by decide)

theorem ofWord_toWord {f : Fields} (hf : f.Fits) : ofWord f.toWord = f := by
  obtain ⟨t, op, d, a, b, m⟩ := f
  obtain ⟨ht, hop, hd, ha, hb, hm⟩ := hf
  dsimp only at ht hop hd ha hb hm
  simp only [ofWord, toWord, bitsAt, mk.injEq]
  norm_num only
  omega

theorem toWord_ofWord {w : Nat} (hw : w < 2 ^ 32) : (ofWord w).toWord = w := by
  simp only [ofWord, toWord, bitsAt]
  norm_num only at hw ⊢
  omega

theorem toWord_lt {f : Fields} (hf : f.Fits) : f.toWord < 2 ^ 32 := by
  obtain ⟨ht, hop, hd, ha, hb, hm⟩ := hf
  simp only [toWord]
  norm_num only
  omega

end Fields
end Sys2Proof
end
section
/-! PROOFS. From the fields to the instruction: an instruction that a word gives has the word's fields (R156-R163). -/

namespace Sys2Proof.Fields

/-! ## What a reading gives has the fields read -/

/-- Whatever instruction the reading gives, its modifier admitted, has these fields. -/
def ReadsBack (f : Fields) (r : Option Read) : Prop :=
  ∀ i, r = some ⟨some i, true⟩ → i.fields = some f

namespace ReadsBack
variable {f : Fields} {ok : Bool} {δ : Type}

/-- An unassigned opcode reads as nothing (R161). -/
theorem none : f.ReadsBack none :=
  fun _ h => nomatch h

theorem some {i : Instr} (h : ok = true → i.fields = some f) : f.ReadsBack (some ⟨some i, ok⟩) := by
  rintro _ ⟨⟩
  exact h rfl

theorem map {o : Option δ} {g : δ → Instr} (h : ∀ x, o = .some x → ok = true → (g x).fields = .some f) :
    f.ReadsBack (.some ⟨o.map g, ok⟩) := by
  cases o with
  | none => exact fun _ h => nomatch h
  | some x => exact .some (h x rfl)

theorem bind {o : Option δ} {g : δ → Option Instr} (h : ∀ x, o = .some x → f.ReadsBack (.some ⟨g x, ok⟩)) :
    f.ReadsBack (.some ⟨o.bind g, ok⟩) := by
  cases o with
  | none => exact fun _ h => nomatch h
  | some x => exact h x rfl

theorem only {c : Bool} {o : Option Instr} (h : c = true → f.ReadsBack (.some ⟨o, ok⟩)) :
    f.ReadsBack (.some ⟨Fields.only c o, ok⟩) := by
  cases c with
  | false => exact fun _ h => nomatch h
  | true => exact h rfl

end ReadsBack

section back
variable {f : Fields} {op : Nat} (hf : f.Fits) (hop : f.op = op)

theorem modifier_bits (hm : f.m < 8) : bitNat f.m2 * 4 + bitNat f.m1 * 2 + bitNat f.m0 = f.m := by
  have : ∀ m < 8, bitNat (m / 4 % 2 == 1) * 4 + bitNat (m / 2 % 2 == 1) * 2 + bitNat (m % 2 == 1) = m := by decide
  exact this f.m hm

theorem m0_of_no0 (h : f.no0 = true) : f.m0 = false := by
  simpa [no0] using h

theorem m0_m1_of_no10 (h : f.no10 = true) : f.m0 = false ∧ f.m1 = false := by
  simpa [no10] using h

theorem m_of_noM (h : f.noM = true) : f.m = 0 :=
  beq_iff_eq.mp h

include hf

theorem val_ti : f.ti.val = f.t :=
  Nat.mod_eq_of_lt hf.t

theorem val_bind : f.bind.val = f.d :=
  Nat.mod_eq_of_lt hf.d

theorem code_sa : f.sa.code = f.a :=
  Src.code_ofCode hf.a

theorem code_sb : f.sb.code = f.b :=
  Src.code_ofCode hf.b

include hop

variable {d a b m : Nat} {m0 : Bool}

theorem mk_ti_eq (hd : d = f.d) (ha : a = f.a) (hb : b = f.b) (hm : m = f.m) : ⟨f.ti.val, op, d, a, b, m⟩ = f := by
  rw [val_ti hf, ← hop, hd, ha, hb, hm]

theorem wCAB_eq (hd : d = f.d) (h0 : m0 = f.m0) : wCAB op f.ti d f.pa f.pb m0 = f :=
  mk_ti_eq hf hop hd (code_sa hf) (code_sb hf) (h0 ▸ modifier_bits hf.m)

theorem wCA_eq (hd : d = f.d) (hb : f.b = 28) (h1 : f.m1 = false) (h0 : m0 = f.m0) : wCA op f.ti d f.pa m0 = f := by
  refine mk_ti_eq hf hop hd (code_sa hf) hb.symm ?_
  have hm := modifier_bits hf.m
  rwa [h1, ← h0] at hm

theorem wCAB_eq_of_no0 (hd : d = f.d) (h : f.no0 = true) : wCAB op f.ti d f.pa f.pb false = f :=
  wCAB_eq hf hop hd (m0_of_no0 h).symm

theorem wCA_eq_of_no10 (hd : d = f.d) (hb : f.b = 28) (h : f.no10 = true) : wCA op f.ti d f.pa false = f :=
  wCA_eq hf hop hd hb (m0_m1_of_no10 h).2 (m0_m1_of_no10 h).1.symm

theorem wM_eq (hd : d = f.d) (h0 : f.m0 = false) : wM op f.ti d ⟨f.sa, f.m1⟩ f.wa f.wb = f := by
  have hm := modifier_bits hf.m
  have h1 := bitNat_lt f.m1
  have hb := hf.b
  have hm8 := hf.m
  rw [h0, show bitNat false = 0 from rfl] at hm
  refine mk_ti_eq hf hop hd (code_sa hf) ?_ ?_
  · simp only [wa, wb, Fin.val_ofNat]
    omega
  · simp only [wb, Fin.val_ofNat]
    omega

/-! Each shape of the tables: the fields of an instruction it gives are the fields read. -/

theorem rT_readsBack {mk : Fin 64 → Instr} (h : ∀ t, (mk t).fields = some (wT op t) := by intros; rfl) :
    f.ReadsBack (some (f.rT mk)) :=
  .only fun hc => .some fun hm => by
    simp only [Bool.and_eq_true, beq_iff_eq] at hc
    obtain ⟨⟨hd, ha⟩, hb⟩ := hc
    exact (h _).trans (congrArg some (mk_ti_eq hf hop hd.symm ha.symm hb.symm (m_of_noM hm).symm))

theorem rA_readsBack {mk : Fin 64 → Opd → Instr} (h : ∀ t a, (mk t a).fields = some (wA op t a) := by intros; rfl) :
    f.ReadsBack (some (f.rA mk)) :=
  .only fun hc => .some fun hm => by
    simp only [Bool.and_eq_true, beq_iff_eq] at hc
    obtain ⟨hd, hb⟩ := hc
    exact (h _ _).trans (congrArg some (wCA_eq_of_no10 hf hop hd.symm hb hm))

theorem rAs_readsBack {mk : Fin 64 → Src → Instr} (h : ∀ t a, (mk t a).fields = some (wAs op t a) := by intros; rfl) :
    f.ReadsBack (some (f.rAs mk)) :=
  .only fun hc => .some fun hm => by
    simp only [Bool.and_eq_true, beq_iff_eq] at hc
    obtain ⟨hd, hb⟩ := hc
    exact (h _ _).trans (congrArg some (mk_ti_eq hf hop hd.symm (code_sa hf) hb.symm (m_of_noM hm).symm))

theorem rAB_readsBack {mk : Fin 64 → Opd → Opd → Instr}
    (h : ∀ t a b, (mk t a b).fields = some (wAB op t a b) := by intros; rfl) :
    f.ReadsBack (some (f.rAB mk)) :=
  .only fun hd => .some fun hm =>
    (h _ _ _).trans (congrArg some (wCAB_eq_of_no0 hf hop (beq_iff_eq.mp hd).symm hm))

theorem rDA_readsBack {mk : Fin 64 → Dst → Opd → Instr}
    (h : ∀ t d a, (mk t d a).fields = some (wDA op t d a) := by intros; rfl) :
    f.ReadsBack (some (f.rDA mk)) :=
  .only fun hb => .map fun _ hd hm =>
    (h _ _ _).trans (congrArg some (wCA_eq_of_no10 hf hop (Dst.code_of_ofCode hd) (beq_iff_eq.mp hb) hm))

theorem rRA_readsBack {mk : Fin 64 → Fin 8 → Opd → Instr}
    (h : ∀ t d a, (mk t d a).fields = some (wRA op t d a) := by intros; rfl) :
    f.ReadsBack (some (f.rRA mk)) :=
  .only fun hb => .map fun _ hd hm =>
    (h _ _ _).trans (congrArg some (wCA_eq_of_no10 hf hop (val_of_finOfCode hd) (beq_iff_eq.mp hb) hm))

theorem rDAm_readsBack {mk : Fin 64 → Dst → Opd → Bool → Instr}
    (h : ∀ t d a m0, (mk t d a m0).fields = some (wDAm op t d a m0) := by intros; rfl) :
    f.ReadsBack (some (f.rDAm mk)) :=
  .only fun hb => .map fun _ hd hm =>
    (h _ _ _ _).trans (congrArg some (wCA_eq hf hop (Dst.code_of_ofCode hd) (beq_iff_eq.mp hb) (Bool.eq_false_of_not_eq_true' hm) rfl))

theorem rDAs_readsBack {mk : Fin 64 → Dst → Src → Instr}
    (h : ∀ t d a, (mk t d a).fields = some (wDAs op t d a) := by intros; rfl) :
    f.ReadsBack (some (f.rDAs mk)) :=
  .only fun hb => .map fun _ hd hm =>
    (h _ _ _).trans (congrArg some (mk_ti_eq hf hop (Dst.code_of_ofCode hd) (code_sa hf) (beq_iff_eq.mp hb).symm (m_of_noM hm).symm))

theorem rD_readsBack {mk : Fin 64 → Dst → Instr} (h : ∀ t d, (mk t d).fields = some (wD op t d) := by intros; rfl) :
    f.ReadsBack (some (f.rD mk)) :=
  .only fun hc => .map fun _ hd hm => by
    simp only [Bool.and_eq_true, beq_iff_eq] at hc
    obtain ⟨ha, hb⟩ := hc
    exact (h _ _).trans (congrArg some (mk_ti_eq hf hop (Dst.code_of_ofCode hd) ha.symm hb.symm (m_of_noM hm).symm))

theorem rDAB_readsBack {mk : Fin 64 → Dst → Opd → Opd → Instr}
    (h : ∀ t d a b, (mk t d a b).fields = some (wDAB op t d a b) := by intros; rfl) :
    f.ReadsBack (some (f.rDAB mk)) :=
  .map fun _ hd hm => (h _ _ _ _).trans (congrArg some (wCAB_eq_of_no0 hf hop (Dst.code_of_ofCode hd) hm))

theorem rDABm_readsBack {mk : Fin 64 → Dst → Opd → Opd → Bool → Instr}
    (h : ∀ t d a b m0, (mk t d a b m0).fields = some (wDABm op t d a b m0) := by intros; rfl) :
    f.ReadsBack (some (f.rDABm mk)) :=
  .map fun _ hd _ => (h _ _ _ _ _).trans (congrArg some (wCAB_eq hf hop (Dst.code_of_ofCode hd) rfl))

theorem rOAB_readsBack {mk : Fin 64 → ODst → Opd → Opd → Instr}
    (h : ∀ t d a b, (mk t d a b).fields = some (wOAB op t d a b) := by intros; rfl) :
    f.ReadsBack (some (f.rOAB mk)) :=
  .map fun _ hd hm => (h _ _ _ _).trans (congrArg some (wCAB_eq_of_no0 hf hop (ODst.code_of_ofCode hd) hm))

theorem rOABm_readsBack {mk : Fin 64 → ODst → Opd → Opd → Bool → Instr}
    (h : ∀ t d a b m0, (mk t d a b m0).fields = some (wOABm op t d a b m0) := by intros; rfl) :
    f.ReadsBack (some (f.rOABm mk)) :=
  .map fun _ hd _ => (h _ _ _ _ _).trans (congrArg some (wCAB_eq hf hop (ODst.code_of_ofCode hd) rfl))

theorem rRAB_readsBack {mk : Fin 64 → Fin 8 → Opd → Opd → Instr}
    (h : ∀ t d a b, (mk t d a b).fields = some (wRAB op t d a b) := by intros; rfl) :
    f.ReadsBack (some (f.rRAB mk)) :=
  .map fun _ hd hm => (h _ _ _ _).trans (congrArg some (wCAB_eq_of_no0 hf hop (val_of_finOfCode hd) hm))

theorem rRABm_readsBack {mk : Fin 64 → Fin 8 → Opd → Opd → Bool → Instr}
    (h : ∀ t d a b m0, (mk t d a b m0).fields = some (wRABm op t d a b m0) := by intros; rfl) :
    f.ReadsBack (some (f.rRABm mk)) :=
  .map fun _ hd _ => (h _ _ _ _ _).trans (congrArg some (wCAB_eq hf hop (val_of_finOfCode hd) rfl))

theorem rNAB_readsBack {lo : Nat} {mk : Fin 64 → Fin 4 → Opd → Opd → Instr}
    (h : ∀ t d a b, (mk t d a b).fields = some (wNAB lo op t d a b) := by intros; rfl) :
    f.ReadsBack (some (f.rNAB lo mk)) :=
  .map fun _ hd hm => (h _ _ _ _).trans (congrArg some (wCAB_eq_of_no0 hf hop (add_val_of_finOfCode hd) hm))

theorem rNABm_readsBack {lo : Nat} {mk : Fin 64 → Fin 4 → Opd → Opd → Bool → Instr}
    (h : ∀ t d a b m0, (mk t d a b m0).fields = some (wNABm lo op t d a b m0) := by intros; rfl) :
    f.ReadsBack (some (f.rNABm lo mk)) :=
  .map fun _ hd _ => (h _ _ _ _ _).trans (congrArg some (wCAB_eq hf hop (add_val_of_finOfCode hd) rfl))

theorem rDCC_readsBack {mk : Fin 64 → Dst → Fin 4 → Fin 4 → Instr}
    (h : ∀ t d a b, (mk t d a b).fields = some (wDCC op t d a b) := by intros; rfl) :
    f.ReadsBack (some (f.rDCC mk)) :=
  .bind fun _ hd => .bind fun _ ha => .map fun _ hb hm => (h _ _ _ _).trans (congrArg some (
    mk_ti_eq hf hop (Dst.code_of_ofCode hd) (add_val_of_finOfCode ha) (add_val_of_finOfCode hb) (m_of_noM hm).symm))

theorem rMac_readsBack {mk : Fin 64 → MacDst → Opd → Fin 8 → Fin 8 → Instr}
    (h : ∀ t d a wa wb, (mk t d a wa wb).fields = some (wMac op t d a wa wb) := by intros; rfl) :
    f.ReadsBack (some (f.rMac mk)) :=
  .map fun _ hd hm => (h _ _ _ _ _).trans (congrArg some (wM_eq hf hop (MacDst.code_of_ofCode hd) (m0_of_no0 hm)))

theorem rMacN_readsBack {mk : Fin 64 → Fin 4 → Opd → Fin 8 → Fin 8 → Instr}
    (h : ∀ t d a wa wb, (mk t d a wa wb).fields = some (wMacN op t d a wa wb) := by intros; rfl) :
    f.ReadsBack (some (f.rMacN mk)) :=
  .map fun _ hd hm => (h _ _ _ _ _).trans (congrArg some (wM_eq hf hop (add_val_of_finOfCode hd) (m0_of_no0 hm)))

theorem rAcrd_readsBack {mk : Fin 64 → Dst → Fin 4 → Opd → Bool → Instr}
    (h : ∀ t d a b sr, (mk t d a b sr).fields = some (wAcrd op t d a b sr) := by intros; rfl) :
    f.ReadsBack (some (f.rAcrd mk)) :=
  .bind fun _ hd => .map fun _ ha h2 => by
    have hm := modifier_bits hf.m
    rw [Bool.eq_false_of_not_eq_true' h2, show bitNat false * 4 = 0 from rfl, Nat.zero_add] at hm
    exact (h _ _ _ _ _).trans (congrArg some (mk_ti_eq hf hop (Dst.code_of_ofCode hd) (val_of_finOfCode ha) (code_sb hf) hm))

theorem rAcclr_readsBack {mk : Fin 64 → Fin 4 → Instr} (h : ∀ t d, (mk t d).fields = some (wAcclr op t d) := by intros; rfl) :
    f.ReadsBack (some (f.rAcclr mk)) :=
  .only fun hc => .map fun _ hd hm => by
    simp only [Bool.and_eq_true, beq_iff_eq] at hc
    obtain ⟨ha, hb⟩ := hc
    exact (h _ _).trans (congrArg some (mk_ti_eq hf hop (add_val_of_finOfCode hd) ha.symm hb.symm (m_of_noM hm).symm))

theorem rAcmv_readsBack {mk : Fin 64 → Fin 4 → Fin 4 → Instr}
    (h : ∀ t d a, (mk t d a).fields = some (wAcmv op t d a) := by intros; rfl) :
    f.ReadsBack (some (f.rAcmv mk)) :=
  .only fun hb => .bind fun _ hd => .map fun _ ha hm => (h _ _ _).trans (congrArg some (
    mk_ti_eq hf hop (add_val_of_finOfCode hd) (val_of_finOfCode ha) (beq_iff_eq.mp hb).symm (m_of_noM hm).symm))

theorem rMxs_readsBack {mk : Fin 64 → Dst → Fin 4 → Bool → Instr}
    (h : ∀ t d a pk, (mk t d a pk).fields = some (wMxs op t d a pk) := by intros; rfl) :
    f.ReadsBack (some (f.rMxs mk)) :=
  .only fun hb => .bind fun _ hd => .map fun _ ha h10 => by
    have hm := modifier_bits hf.m
    obtain ⟨h0, h1⟩ := m0_m1_of_no10 h10
    rw [h0, h1] at hm
    exact (h _ _ _ _).trans (congrArg some
      (mk_ti_eq hf hop (Dst.code_of_ofCode hd) (add_val_of_finOfCode ha) (beq_iff_eq.mp hb).symm hm))

theorem rFence_readsBack {mk : Fin 64 → Scope → Instr} (h : ∀ t s, (mk t s).fields = some (wFence op t s) := by intros; rfl) :
    f.ReadsBack (some (f.rFence mk)) :=
  .only fun hc => .some fun hs => by
    simp only [Bool.and_eq_true, beq_iff_eq] at hc
    obtain ⟨⟨hd, ha⟩, hb⟩ := hc
    obtain ⟨s, hs⟩ := Option.isSome_iff_exists.mp hs
    rw [h, hs]
    exact congrArg some (mk_ti_eq hf hop hd.symm ha.symm hb.symm (Scope.code_of_ofCode hs))

theorem rP2_readsBack {mk : Fin 64 → Fin 32 → Src → Src → Instr}
    (h : ∀ t n a b, (mk t n a b).fields = some (wP2 op t n a b) := by intros; rfl) :
    f.ReadsBack (some (f.rP2 mk)) :=
  .some fun hm => (h _ _ _ _).trans (congrArg some (mk_ti_eq hf hop (val_bind hf) (code_sa hf) (code_sb hf) (m_of_noM hm).symm))

theorem rP1_readsBack {mk : Fin 64 → Fin 32 → Src → Instr}
    (h : ∀ t n a, (mk t n a).fields = some (wP1 op t n a) := by intros; rfl) :
    f.ReadsBack (some (f.rP1 mk)) :=
  .only fun hb => .some fun hm =>
    (h _ _ _).trans (congrArg some (mk_ti_eq hf hop (val_bind hf) (code_sa hf) (beq_iff_eq.mp hb).symm (m_of_noM hm).symm))

theorem rPort_readsBack {mk : Fin 64 → Fin 32 → Opd → Instr}
    (h : ∀ t n a, (mk t n a).fields = some (wPort op t n a) := by intros; rfl) :
    f.ReadsBack (some (f.rPort mk)) :=
  .only fun hb => .some fun hm =>
    (h _ _ _).trans (congrArg some (wCA_eq_of_no10 hf hop (val_bind hf) (beq_iff_eq.mp hb) hm))

theorem rWrem_readsBack {mk : Fin 64 → Fin 32 → Opd → Opd → Bool → Instr}
    (h : ∀ t n a b m0, (mk t n a b m0).fields = some (wWrem op t n a b m0) := by intros; rfl) :
    f.ReadsBack (some (f.rWrem mk)) :=
  .some fun _ => (h _ _ _ _ _).trans (congrArg some (wCAB_eq hf hop (val_bind hf) rfl))

theorem rSndm_readsBack {mk : Fin 64 → Fin 32 → Fin 4 → Src → Instr}
    (h : ∀ t n a b, (mk t n a b).fields = some (wSndm op t n a b) := by intros; rfl) :
    f.ReadsBack (some (f.rSndm mk)) :=
  .map fun _ ha hm => (h _ _ _ _).trans (congrArg some (
    mk_ti_eq hf hop (val_bind hf) (add_val_of_finOfCode ha) (code_sb hf) (m_of_noM hm).symm))

theorem rGeo_readsBack {mk : Fin 64 → ODst → Fin 4 → Bool → Bool → Instr}
    (h : ∀ t d a stg nfm, (mk t d a stg nfm).fields = some (wGeo op t d a stg nfm) := by intros; rfl) :
    f.ReadsBack (some (f.rGeo mk)) :=
  .bind fun _ hd => .map fun _ ha hc => by
    obtain ⟨hb, h0⟩ := Bool.and_eq_true_iff.mp hc
    have hm := modifier_bits hf.m
    rw [m0_of_no0 h0] at hm
    exact (h _ _ _ _ _).trans (congrArg some
      (mk_ti_eq hf hop (ODst.code_of_ofCode hd) (add_val_of_finOfCode ha) (beq_iff_eq.mp hb).symm hm))

end back

/-! ## The opcode map, from the fields to the instruction (R159) -/

section classes
variable {f : Fields} (hf : f.Fits)
include hf

theorem readClass0_readsBack : ∀ {n : Nat}, f.op = 32 * 0 + n → f.ReadsBack (readClass0 f n)
  | 0, hop => rAB_readsBack hf hop
  | 1, hop | 10, hop => rDA_readsBack hf hop
  | 2, hop | 4, hop | 13, hop => rDAB_readsBack hf hop
  | 3, hop | 6, hop | 8, hop | 9, hop => rOAB_readsBack hf hop
  | 5, hop => rDCC_readsBack hf hop
  | 7, hop => rAs_readsBack hf hop
  | 11, hop | 12, hop => rRAB_readsBack hf hop
  | 14, hop => rNAB_readsBack hf hop
  | 15, hop => rT_readsBack hf hop
  | _ + 16, _ => .none

theorem readClass1_readsBack : ∀ {n : Nat}, f.op = 32 * 1 + n → f.ReadsBack (readClass1 f n)
  | 0, hop | 1, hop | 2, hop | 3, hop | 4, hop | 5, hop | 6, hop | 10, hop | 11, hop | 12, hop | 13, hop | 14, hop | 15, hop
  | 16, hop | 17, hop | 18, hop | 19, hop | 20, hop => rDABm_readsBack hf hop
  | 7, hop | 26, hop | 27, hop | 28, hop | 29, hop | 30, hop | 31, hop => rRABm_readsBack hf hop
  | 8, hop | 9, hop | 21, hop | 22, hop => rDA_readsBack hf hop
  | 23, hop | 24, hop | 25, hop => rDAB_readsBack hf hop
  | _ + 32, _ => .none

theorem readClass2_readsBack : ∀ {n : Nat}, f.op = 32 * 2 + n → f.ReadsBack (readClass2 f n)
  | 0, hop | 1, hop | 2, hop | 5, hop | 6, hop | 10, hop | 19, hop => rDABm_readsBack hf hop
  | 3, hop | 4, hop | 12, hop | 13, hop | 14, hop | 15, hop => rRABm_readsBack hf hop
  | 7, hop | 8, hop | 9, hop | 11, hop | 16, hop | 17, hop | 18, hop | 20, hop | 21, hop | 22, hop | 23, hop | 24, hop
  | 25, hop => rDA_readsBack hf hop
  | 26, hop | 27, hop => rDAB_readsBack hf hop
  | _ + 28, _ => .none

theorem readClass3_readsBack : ∀ {n : Nat}, f.op = 32 * 3 + n → f.ReadsBack (readClass3 f n)
  | 0, hop => rMac_readsBack hf hop
  | 1, hop | 2, hop => rMacN_readsBack hf hop
  | 3, hop => rAB_readsBack hf hop
  | 4, hop => rAcrd_readsBack hf hop
  | 5, hop => rAcclr_readsBack hf hop
  | 6, hop => rAcmv_readsBack hf hop
  | 7, hop => rDABm_readsBack hf hop
  | 8, hop | 11, hop | 12, hop | 13, hop | 14, hop | 18, hop => rDAB_readsBack hf hop
  | 9, hop => rOABm_readsBack hf hop
  | 10, hop => rMxs_readsBack hf hop
  | 15, hop | 16, hop => rDA_readsBack hf hop
  | 17, hop => rRA_readsBack hf hop
  | _ + 19, _ => .none

theorem readClass4_readsBack : ∀ {n : Nat}, f.op = 32 * 4 + n → f.ReadsBack (readClass4 f n)
  | 0, hop | 2, hop | 3, hop | 7, hop | 19, hop | 28, hop => rDA_readsBack hf hop
  | 1, hop | 4, hop | 5, hop | 6, hop => rNAB_readsBack hf hop
  | 8, hop | 9, hop | 10, hop | 11, hop | 12, hop | 13, hop | 14, hop | 16, hop | 17, hop | 18, hop => rDAB_readsBack hf hop
  | 15, hop => rRAB_readsBack hf hop
  | 20, hop | 24, hop | 25, hop | 26, hop => rAB_readsBack hf hop
  | 21, hop => rFence_readsBack hf hop
  | 22, hop => rDAm_readsBack hf hop
  | 23, hop => rNABm_readsBack hf hop
  | 27, hop => rA_readsBack hf hop
  | _ + 29, _ => .none

theorem readClass5_readsBack : ∀ {n : Nat}, f.op = 32 * 5 + n → f.ReadsBack (readClass5 f n)
  | 0, hop | 1, hop | 2, hop | 3, hop | 4, hop | 5, hop | 6, hop | 7, hop | 13, hop | 14, hop => rP2_readsBack hf hop
  | 8, hop | 9, hop | 18, hop => rP1_readsBack hf hop
  | 10, hop => rD_readsBack hf hop
  | 11, hop => rAs_readsBack hf hop
  | 12, hop => rDAs_readsBack hf hop
  | 15, hop => rPort_readsBack hf hop
  | 16, hop => rWrem_readsBack hf hop
  | 17, hop => rSndm_readsBack hf hop
  | 19, hop => rT_readsBack hf hop
  | _ + 20, _ => .none

theorem readClass6_readsBack : ∀ {n : Nat}, f.op = 32 * 6 + n → f.ReadsBack (readClass6 f n)
  | 0, hop | 1, hop | 2, hop | 3, hop | 4, hop | 5, hop | 6, hop | 7, hop | 8, hop | 9, hop => rGeo_readsBack hf hop
  | 10, hop | 11, hop | 14, hop | 15, hop => rDAB_readsBack hf hop
  | 12, hop => rRAB_readsBack hf hop
  | 13, hop => rDCC_readsBack hf hop
  | 16, hop => rOAB_readsBack hf hop
  | _ + 17, _ => .none

theorem readClass7_readsBack : ∀ {n : Nat}, f.op = 32 * 7 + n → f.ReadsBack (readClass7 f n)
  | 0, hop | 12, hop | 13, hop => rA_readsBack hf hop
  | 1, hop => rT_readsBack hf hop
  | 2, hop | 6, hop | 9, hop | 10, hop | 11, hop => rDA_readsBack hf hop
  | 3, hop | 14, hop => rAB_readsBack hf hop
  | 4, hop | 5, hop | 7, hop | 8, hop => rDAB_readsBack hf hop
  | _ + 15, _ => .none

/-- Whatever the reader gives has the fields it was read from. -/
theorem readFields_readsBack : f.ReadsBack (readFields f) := by
  have hop : f.op = 32 * (f.op / 32) + f.op % 32 := (Nat.div_add_mod _ _).symm
  unfold readFields
  split <;> rename_i hk
  · exact readClass0_readsBack hf (hk ▸ hop)
  · exact readClass1_readsBack hf (hk ▸ hop)
  · exact readClass2_readsBack hf (hk ▸ hop)
  · exact readClass3_readsBack hf (hk ▸ hop)
  · exact readClass4_readsBack hf (hk ▸ hop)
  · exact readClass5_readsBack hf (hk ▸ hop)
  · exact readClass6_readsBack hf (hk ▸ hop)
  · exact readClass7_readsBack hf (hk ▸ hop)
  · exact .none

end classes

end Sys2Proof.Fields
end
section
/-! PROOFS. From the instruction to the fields: what an instruction's fields read as (R156-R163). -/

namespace Sys2Proof.Fields

/-! ## The opcode map, row by row (R159) -/

/-- The reading of fields at an opcode. -/
def readAt (op : Nat) (f : Fields) : Option Read :=
  match op / 32 with
  | 0 => readClass0 f (op % 32)
  | 1 => readClass1 f (op % 32)
  | 2 => readClass2 f (op % 32)
  | 3 => readClass3 f (op % 32)
  | 4 => readClass4 f (op % 32)
  | 5 => readClass5 f (op % 32)
  | 6 => readClass6 f (op % 32)
  | 7 => readClass7 f (op % 32)
  | _ => none

theorem readFields_eq_readAt (f : Fields) : readFields f = readAt f.op f := rfl

/-- A row of the opcode map: words of the opcode are read in this shape. -/
def Row (op : Nat) (r : Fields → Read) : Prop :=
  ∀ f, readAt op f = some (r f)

theorem readAt_of_le {op : Nat} (h : 256 ≤ op) (f : Fields) : readAt op f = none := by
  obtain ⟨k, hk⟩ : ∃ k, op / 32 = k + 8 := ⟨op / 32 - 8, by omega⟩
  simp only [readAt, hk]

theorem Row.lt {op : Nat} {r : Fields → Read} (h : Row op r) : op < 256 := by
  by_contra hop
  exact nomatch (readAt_of_le (Nat.le_of_not_lt hop) (ofWord 0)).symm.trans (h (ofWord 0))

/-- The fields fit a word and read as the instruction, its modifier admitted. -/
structure Yields (f : Fields) (i : Instr) : Prop where
  fits : f.Fits
  reads : readFields f = some ⟨some i, true⟩

theorem Row.yields {f : Fields} {i : Instr} {r : Fields → Read} (hrow : Row f.op r) (hf : f.Fits) (h : r f = ⟨some i, true⟩) :
    f.Yields i :=
  ⟨hf, by rw [readFields_eq_readAt, hrow, h]⟩

/-! The operands, read from the fields that were written. -/

section written
variable (op : Nat) (t : Fin 64) (d : Nat) (a b : Opd) (m0 : Bool) (ca cb m : Nat)

theorem bits_two (x y z : Bool) : ((bitNat x * 4 + bitNat y * 2 + bitNat z) / 4 % 2 == 1) = x := by
  revert x y z; decide

theorem bits_one (x y z : Bool) : ((bitNat x * 4 + bitNat y * 2 + bitNat z) / 2 % 2 == 1) = y := by
  revert x y z; decide

theorem bits_zero (x y z : Bool) : ((bitNat x * 4 + bitNat y * 2 + bitNat z) % 2 == 1) = z := by
  revert x y z; decide

theorem bits_lt (x y z : Bool) : bitNat x * 4 + bitNat y * 2 + bitNat z < 8 := by
  revert x y z; decide

@[simp] theorem ti_mk : (⟨t.val, op, d, ca, cb, m⟩ : Fields).ti = t :=
  Fin.ext (Nat.mod_eq_of_lt t.isLt)

@[simp] theorem bind_mk (n : Fin 32) : (⟨t.val, op, n.val, ca, cb, m⟩ : Fields).bind = n :=
  Fin.ext (Nat.mod_eq_of_lt n.isLt)

@[simp] theorem sa_mk (x : Src) : (⟨t.val, op, d, x.code, cb, m⟩ : Fields).sa = x :=
  Src.ofCode_code x

@[simp] theorem sb_mk (x : Src) : (⟨t.val, op, d, ca, x.code, m⟩ : Fields).sb = x :=
  Src.ofCode_code x

theorem mk_fits {op : Nat} {t : Fin 64} {d ca cb m : Nat}
    (hop : op < 256) (hd : d < 32) (ha : ca < 32) (hb : cb < 32) (hm : m < 8) : Fits ⟨t.val, op, d, ca, cb, m⟩ :=
  ⟨t.isLt, hop, hd, ha, hb, hm⟩

theorem wCA_eq_wCAB : wCA op t d a m0 = wCAB op t d a ⟨.z, false⟩ m0 := rfl

theorem wA_eq_wCAB : wA op t a = wCAB op t 15 a ⟨.z, false⟩ false := rfl

@[simp] theorem wCAB_ti : (wCAB op t d a b m0).ti = t :=
  ti_mk ..

@[simp] theorem wCAB_bind (n : Fin 32) : (wCAB op t n.val a b m0).bind = n :=
  bind_mk ..

@[simp] theorem wCAB_d : (wCAB op t d a b m0).d = d := rfl

@[simp] theorem wCAB_b : (wCAB op t d a b m0).b = b.src.code := rfl

@[simp] theorem wCAB_m0 : (wCAB op t d a b m0).m0 = m0 :=
  bits_zero ..

@[simp] theorem wCAB_m1 : (wCAB op t d a b m0).m1 = b.peek :=
  bits_one ..

@[simp] theorem wCAB_pa : (wCAB op t d a b m0).pa = a := by
  simp only [pa, m2, wCAB, Src.ofCode_code, bits_two]

@[simp] theorem wCAB_pb : (wCAB op t d a b m0).pb = b := by
  simp only [pb, m1, wCAB, Src.ofCode_code, bits_one]

theorem wCAB_fits {op : Nat} {t : Fin 64} {d : Nat} {a b : Opd} {m0 : Bool}
    (hop : op < 256) (hd : d < 32) : (wCAB op t d a b m0).Fits :=
  mk_fits hop hd a.src.code_lt b.src.code_lt (bits_lt ..)

theorem wCA_fits {op : Nat} {t : Fin 64} {d : Nat} {a : Opd} {m0 : Bool} (hop : op < 256) (hd : d < 32) : (wCA op t d a m0).Fits :=
  wCAB_fits (a := a) (b := ⟨.z, false⟩) (m0 := m0) hop hd

variable (wa wb : Fin 8)

@[simp] theorem wM_ti : (wM op t d a wa wb).ti = t :=
  ti_mk ..

@[simp] theorem wM_sa : (wM op t d a wa wb).sa = a.src :=
  sa_mk ..

@[simp] theorem wM_d : (wM op t d a wa wb).d = d := rfl

@[simp] theorem wM_wa : (wM op t d a wa wb).wa = wa := by
  ext
  simp only [Fields.wa, wM, Fin.val_ofNat]
  omega

@[simp] theorem wM_wb : (wM op t d a wa wb).wb = wb := by
  have := bitNat_lt a.peek
  ext
  simp only [Fields.wb, wM, Fin.val_ofNat]
  omega

@[simp] theorem wM_m0 : (wM op t d a wa wb).m0 = false := by
  simp only [Fields.m0, wM, beq_eq_false_iff_ne]
  omega

@[simp] theorem wM_m1 : (wM op t d a wa wb).m1 = a.peek := by
  have h2 : (wb.val % 2 * 4 + bitNat a.peek * 2) / 2 % 2 = bitNat a.peek := by
    have := bitNat_lt a.peek
    omega
  simp only [m1, wM, h2]
  cases a.peek <;> rfl

theorem wM_fits {op : Nat} {t : Fin 64} {d : Nat} {a : Opd} {wa wb : Fin 8}
    (hop : op < 256) (hd : d < 32) : (wM op t d a wa wb).Fits := by
  have := bitNat_lt a.peek
  exact mk_fits hop hd a.src.code_lt (by omega) (by omega)

end written

/-! Each shape of the tables: the fields of an instruction read as that instruction. -/

section yields
variable {op : Nat}

theorem wT_yields {mk : Fin 64 → Instr} {t : Fin 64}
    (hrow : Row op (rT mk) := by exact fun _ => rfl) : (wT op t).Yields (mk t) :=
  hrow.yields (mk_fits hrow.lt (by decide) (by decide) (by decide) (by decide)) (by simp [rT, wT, only, noM])

theorem wAs_yields {mk : Fin 64 → Src → Instr} {t : Fin 64} {a : Src}
    (hrow : Row op (rAs mk) := by exact fun _ => rfl) : (wAs op t a).Yields (mk t a) :=
  hrow.yields (mk_fits hrow.lt (by decide) a.code_lt (by decide) (by decide)) (by simp [rAs, wAs, only, noM])

theorem wA_yields {mk : Fin 64 → Opd → Instr} {t : Fin 64} {a : Opd}
    (hrow : Row op (rA mk) := by exact fun _ => rfl) : (wA op t a).Yields (mk t a) :=
  hrow.yields (wCA_fits (a := a) (m0 := false) hrow.lt (by decide)) (by simp [rA, wA_eq_wCAB, only, Src.code, no10])

theorem wAB_yields {mk : Fin 64 → Opd → Opd → Instr} {t : Fin 64} {a b : Opd}
    (hrow : Row op (rAB mk) := by exact fun _ => rfl) : (wAB op t a b).Yields (mk t a b) :=
  hrow.yields (wCAB_fits hrow.lt (by decide)) (by simp [rAB, wAB, only, no0])

theorem wDA_yields {mk : Fin 64 → Dst → Opd → Instr} {t : Fin 64} {d : Dst} {a : Opd}
    (hrow : Row op (rDA mk) := by exact fun _ => rfl) : (wDA op t d a).Yields (mk t d a) :=
  hrow.yields (wCA_fits hrow.lt d.code_lt) (by simp [rDA, wDA, wCA_eq_wCAB, only, Src.code, dst, no10])

theorem wRA_yields {mk : Fin 64 → Fin 8 → Opd → Instr} {t : Fin 64} {d : Fin 8} {a : Opd}
    (hrow : Row op (rRA mk) := by exact fun _ => rfl) : (wRA op t d a).Yields (mk t d a) :=
  hrow.yields (wCA_fits hrow.lt (by omega)) (by simp [rRA, wRA, wCA_eq_wCAB, only, Src.code, no10])

theorem wDAm_yields {mk : Fin 64 → Dst → Opd → Bool → Instr} {t : Fin 64} {d : Dst} {a : Opd} {m0 : Bool}
    (hrow : Row op (rDAm mk) := by exact fun _ => rfl) : (wDAm op t d a m0).Yields (mk t d a m0) :=
  hrow.yields (wCA_fits hrow.lt d.code_lt) (by simp [rDAm, wDAm, wCA_eq_wCAB, only, Src.code, dst])

theorem wDAs_yields {mk : Fin 64 → Dst → Src → Instr} {t : Fin 64} {d : Dst} {a : Src}
    (hrow : Row op (rDAs mk) := by exact fun _ => rfl) : (wDAs op t d a).Yields (mk t d a) :=
  hrow.yields (mk_fits hrow.lt d.code_lt a.code_lt (by decide) (by decide)) (by simp [rDAs, wDAs, only, dst, noM])

theorem wD_yields {mk : Fin 64 → Dst → Instr} {t : Fin 64} {d : Dst}
    (hrow : Row op (rD mk) := by exact fun _ => rfl) : (wD op t d).Yields (mk t d) :=
  hrow.yields (mk_fits hrow.lt d.code_lt (by decide) (by decide) (by decide)) (by simp [rD, wD, only, dst, noM])

theorem wDAB_yields {mk : Fin 64 → Dst → Opd → Opd → Instr} {t : Fin 64} {d : Dst} {a b : Opd}
    (hrow : Row op (rDAB mk) := by exact fun _ => rfl) : (wDAB op t d a b).Yields (mk t d a b) :=
  hrow.yields (wCAB_fits hrow.lt d.code_lt) (by simp [rDAB, wDAB, dst, no0])

theorem wDABm_yields {mk : Fin 64 → Dst → Opd → Opd → Bool → Instr} {t : Fin 64} {d : Dst} {a b : Opd} {m0 : Bool}
    (hrow : Row op (rDABm mk) := by exact fun _ => rfl) : (wDABm op t d a b m0).Yields (mk t d a b m0) :=
  hrow.yields (wCAB_fits hrow.lt d.code_lt) (by simp [rDABm, wDABm, dst])

theorem wOAB_yields {mk : Fin 64 → ODst → Opd → Opd → Instr} {t : Fin 64} {d : ODst} {a b : Opd}
    (hrow : Row op (rOAB mk) := by exact fun _ => rfl) : (wOAB op t d a b).Yields (mk t d a b) :=
  hrow.yields (wCAB_fits hrow.lt d.code_lt) (by simp [rOAB, wOAB, odst, no0])

theorem wOABm_yields {mk : Fin 64 → ODst → Opd → Opd → Bool → Instr} {t : Fin 64} {d : ODst} {a b : Opd} {m0 : Bool}
    (hrow : Row op (rOABm mk) := by exact fun _ => rfl) : (wOABm op t d a b m0).Yields (mk t d a b m0) :=
  hrow.yields (wCAB_fits hrow.lt d.code_lt) (by simp [rOABm, wOABm, odst])

theorem wRAB_yields {mk : Fin 64 → Fin 8 → Opd → Opd → Instr} {t : Fin 64} {d : Fin 8} {a b : Opd}
    (hrow : Row op (rRAB mk) := by exact fun _ => rfl) : (wRAB op t d a b).Yields (mk t d a b) :=
  hrow.yields (wCAB_fits hrow.lt (by omega)) (by simp [rRAB, wRAB, no0])

theorem wRABm_yields {mk : Fin 64 → Fin 8 → Opd → Opd → Bool → Instr} {t : Fin 64} {d : Fin 8} {a b : Opd} {m0 : Bool}
    (hrow : Row op (rRABm mk) := by exact fun _ => rfl) : (wRABm op t d a b m0).Yields (mk t d a b m0) :=
  hrow.yields (wCAB_fits hrow.lt (by omega)) (by simp [rRABm, wRABm])

theorem wNAB_yields {lo : Nat} {mk : Fin 64 → Fin 4 → Opd → Opd → Instr}
    {t : Fin 64} {d : Fin 4} {a b : Opd} (hlo : lo ≤ 20 := by decide)
    (hrow : Row op (rNAB lo mk) := by exact fun _ => rfl) : (wNAB lo op t d a b).Yields (mk t d a b) :=
  hrow.yields (wCAB_fits hrow.lt (by omega)) (by simp [rNAB, wNAB, no0])

theorem wNABm_yields {lo : Nat} {mk : Fin 64 → Fin 4 → Opd → Opd → Bool → Instr}
    {t : Fin 64} {d : Fin 4} {a b : Opd} {m0 : Bool} (hlo : lo ≤ 20 := by decide)
    (hrow : Row op (rNABm lo mk) := by exact fun _ => rfl) : (wNABm lo op t d a b m0).Yields (mk t d a b m0) :=
  hrow.yields (wCAB_fits hrow.lt (by omega)) (by simp [rNABm, wNABm])

theorem wDCC_yields {mk : Fin 64 → Dst → Fin 4 → Fin 4 → Instr} {t : Fin 64} {d : Dst} {a b : Fin 4}
    (hrow : Row op (rDCC mk) := by exact fun _ => rfl) : (wDCC op t d a b).Yields (mk t d a b) :=
  hrow.yields (mk_fits hrow.lt d.code_lt (by omega) (by omega) (by decide)) (by simp [rDCC, wDCC, dst, noM])

theorem wMac_yields {mk : Fin 64 → MacDst → Opd → Fin 8 → Fin 8 → Instr} {t : Fin 64} {d : MacDst} {a : Opd} {wa wb : Fin 8}
    (hrow : Row op (rMac mk) := by exact fun _ => rfl) : (wMac op t d a wa wb).Yields (mk t d a wa wb) :=
  hrow.yields (wM_fits hrow.lt d.code_lt) (by simp [rMac, wMac, no0])

theorem wMacN_yields {mk : Fin 64 → Fin 4 → Opd → Fin 8 → Fin 8 → Instr} {t : Fin 64} {d : Fin 4} {a : Opd} {wa wb : Fin 8}
    (hrow : Row op (rMacN mk) := by exact fun _ => rfl) : (wMacN op t d a wa wb).Yields (mk t d a wa wb) :=
  hrow.yields (wM_fits hrow.lt (by omega)) (by simp [rMacN, wMacN, no0])

theorem wAcrd_yields {mk : Fin 64 → Dst → Fin 4 → Opd → Bool → Instr} {t : Fin 64} {d : Dst} {a : Fin 4} {b : Opd} {sr : Bool}
    (hrow : Row op (rAcrd mk) := by exact fun _ => rfl) : (wAcrd op t d a b sr).Yields (mk t d a b sr) :=
  have hm : bitNat b.peek * 2 + bitNat sr = bitNat false * 4 + bitNat b.peek * 2 + bitNat sr := by simp [bitNat]
  hrow.yields (mk_fits hrow.lt d.code_lt (by omega) b.src.code_lt (hm ▸ bits_lt ..)) (by
    simp [rAcrd, wAcrd, dst, pb, m0, m1, m2, hm, bits_zero, bits_one, bits_two])

theorem wAcclr_yields {mk : Fin 64 → Fin 4 → Instr} {t : Fin 64} {d : Fin 4}
    (hrow : Row op (rAcclr mk) := by exact fun _ => rfl) : (wAcclr op t d).Yields (mk t d) :=
  hrow.yields (mk_fits hrow.lt (by omega) (by decide) (by decide) (by decide)) (by simp [rAcclr, wAcclr, only, noM])

theorem wAcmv_yields {mk : Fin 64 → Fin 4 → Fin 4 → Instr} {t : Fin 64} {d a : Fin 4}
    (hrow : Row op (rAcmv mk) := by exact fun _ => rfl) : (wAcmv op t d a).Yields (mk t d a) :=
  hrow.yields (mk_fits hrow.lt (by omega) (by omega) (by decide) (by decide)) (by simp [rAcmv, wAcmv, only, noM])

theorem wMxs_yields {mk : Fin 64 → Dst → Fin 4 → Bool → Instr} {t : Fin 64} {d : Dst} {a : Fin 4} {pk : Bool}
    (hrow : Row op (rMxs mk) := by exact fun _ => rfl) : (wMxs op t d a pk).Yields (mk t d a pk) :=
  hrow.yields (mk_fits hrow.lt d.code_lt (by omega) (by decide) (bits_lt pk false false)) (by
    cases pk <;> simp [rMxs, wMxs, only, dst, no10, m0, m1, m2, bitNat])

theorem wFence_yields {mk : Fin 64 → Scope → Instr} {t : Fin 64} {s : Scope}
    (hrow : Row op (rFence mk) := by exact fun _ => rfl) : (wFence op t s).Yields (mk t s) :=
  hrow.yields (mk_fits hrow.lt (by decide) (by decide) (by decide) s.code_lt) (by simp [rFence, wFence, only])

theorem wP2_yields {mk : Fin 64 → Fin 32 → Src → Src → Instr} {t : Fin 64} {n : Fin 32} {a b : Src}
    (hrow : Row op (rP2 mk) := by exact fun _ => rfl) : (wP2 op t n a b).Yields (mk t n a b) :=
  hrow.yields (mk_fits hrow.lt n.isLt a.code_lt b.code_lt (by decide)) (by simp [rP2, wP2, noM])

theorem wP1_yields {mk : Fin 64 → Fin 32 → Src → Instr} {t : Fin 64} {n : Fin 32} {a : Src}
    (hrow : Row op (rP1 mk) := by exact fun _ => rfl) : (wP1 op t n a).Yields (mk t n a) :=
  hrow.yields (mk_fits hrow.lt n.isLt a.code_lt (by decide) (by decide)) (by simp [rP1, wP1, only, noM])

theorem wPort_yields {mk : Fin 64 → Fin 32 → Opd → Instr} {t : Fin 64} {n : Fin 32} {a : Opd}
    (hrow : Row op (rPort mk) := by exact fun _ => rfl) : (wPort op t n a).Yields (mk t n a) :=
  hrow.yields (wCA_fits hrow.lt n.isLt) (by simp [rPort, wPort, wCA_eq_wCAB, only, Src.code, no10])

theorem wWrem_yields {mk : Fin 64 → Fin 32 → Opd → Opd → Bool → Instr} {t : Fin 64} {n : Fin 32} {a b : Opd} {m0 : Bool}
    (hrow : Row op (rWrem mk) := by exact fun _ => rfl) : (wWrem op t n a b m0).Yields (mk t n a b m0) :=
  hrow.yields (wCAB_fits hrow.lt n.isLt) (by simp [rWrem, wWrem])

theorem wSndm_yields {mk : Fin 64 → Fin 32 → Fin 4 → Src → Instr} {t : Fin 64} {n : Fin 32} {a : Fin 4} {b : Src}
    (hrow : Row op (rSndm mk) := by exact fun _ => rfl) : (wSndm op t n a b).Yields (mk t n a b) :=
  hrow.yields (mk_fits hrow.lt n.isLt (by omega) b.code_lt (by decide)) (by simp [rSndm, wSndm, noM])

theorem wGeo_yields {mk : Fin 64 → ODst → Fin 4 → Bool → Bool → Instr} {t : Fin 64} {d : ODst} {a : Fin 4} {stg nfm : Bool}
    (hrow : Row op (rGeo mk) := by exact fun _ => rfl) : (wGeo op t d a stg nfm).Yields (mk t d a stg nfm) :=
  hrow.yields (mk_fits hrow.lt d.code_lt (by omega) (by decide) (bits_lt stg nfm false)) (by
    cases stg <;> cases nfm <;> simp [rGeo, wGeo, odst, no0, m0, m1, m2, bitNat])

end yields

/-- An instruction's fields fit the word and read as that instruction. -/
theorem yields_of_fields : ∀ {i : Instr} {f : Fields}, i.fields = some f → f.Yields i
  | .nop .., _, rfl | .wld .., _, rfl | .bufset .., _, rfl | .cinv .., _, rfl | .cwb .., _, rfl | .chold .., _, rfl
  | .csrw .., _, rfl | .log .., _, rfl => wAB_yields
  | .mov .., _, rfl | .tags .., _, rfl | .neg .., _, rfl | .abs .., _, rfl | .clz .., _, rfl | .popc .., _, rfl
  | .fabs .., _, rfl | .fneg .., _, rfl | .fcls .., _, rfl | .ffrc .., _, rfl | .frcp .., _, rfl | .frsq .., _, rfl
  | .fsqrt .., _, rfl | .fexp2 .., _, rfl | .flog2 .., _, rfl | .fsin .., _, rfl | .fcos .., _, rfl | .ftanh .., _, rfl
  | .frnd .., _, rfl | .rmax .., _, rfl | .rsum .., _, rfl | .ld .., _, rfl | .lds .., _, rfl | .lde .., _, rfl
  | .pop .., _, rfl | .bufq .., _, rfl | .ldw .., _, rfl | .csrr .., _, rfl | .snap .., _, rfl | .canc .., _, rfl
  | .perf .., _, rfl | .time .., _, rfl => wDA_yields
  | .movt .., _, rfl | .sel .., _, rfl | .ctr .., _, rfl | .bfx .., _, rfl | .idx .., _, rfl | .satn .., _, rfl
  | .ftoi .., _, rfl | .itof .., _, rfl | .qdec .., _, rfl | .pack .., _, rfl | .unpk .., _, rfl | .shfl .., _, rfl
  | .bcst .., _, rfl | .scale .., _, rfl | .amoadd .., _, rfl | .amomin .., _, rfl | .amomax .., _, rfl | .amoand .., _, rfl
  | .amoor .., _, rfl | .amoxor .., _, rfl | .amoswp .., _, rfl | .famoadd .., _, rfl | .famomin .., _, rfl
  | .famomax .., _, rfl | .band .., _, rfl | .bpos .., _, rfl | .cset .., _, rfl | .cget .., _, rfl | .frz .., _, rfl
  | .thaw .., _, rfl | .tlbi .., _, rfl | .cfgw .., _, rfl => wDAB_yields
  | .fork .., _, rfl | .split .., _, rfl | .mark .., _, rfl | .emit .., _, rfl | .rte .., _, rfl => wOAB_yields
  | .mrg .., _, rfl | .cmrg .., _, rfl => wDCC_yields
  | .drop .., _, rfl | .rlse .., _, rfl => wAs_yields
  | .pset .., _, rfl | .pclr .., _, rfl | .amocas .., _, rfl | .ccmp .., _, rfl => wRAB_yields
  | .sig .., _, rfl | .st .., _, rfl | .stf .., _, rfl | .ste .., _, rfl | .push .., _, rfl => wNAB_yields
  | .halt .., _, rfl | .cnti .., _, rfl | .brk .., _, rfl => wT_yields
  | .add .., _, rfl | .sub .., _, rfl | .adds .., _, rfl | .subs .., _, rfl | .mul .., _, rfl | .mulh .., _, rfl
  | .mulhu .., _, rfl | .min .., _, rfl | .max .., _, rfl | .minu .., _, rfl | .maxu .., _, rfl | .and .., _, rfl
  | .or .., _, rfl | .xor .., _, rfl | .shl .., _, rfl | .shr .., _, rfl | .sar .., _, rfl | .rot .., _, rfl
  | .fadd .., _, rfl | .fsub .., _, rfl | .fmul .., _, rfl | .fmin .., _, rfl | .fmax .., _, rfl | .fscl .., _, rfl
  | .fdiv .., _, rfl | .cvt .., _, rfl => wDABm_yields
  | .mad .., _, rfl | .cmpeq .., _, rfl | .cmpne .., _, rfl | .cmplt .., _, rfl | .cmple .., _, rfl | .cmpltu .., _, rfl
  | .cmpleu .., _, rfl | .ffma .., _, rfl | .ffms .., _, rfl | .fcmpeq .., _, rfl | .fcmplt .., _, rfl | .fcmple .., _, rfl
  | .fcmpun .., _, rfl => wRABm_yields
  | .mac .., _, rfl => wMac_yields
  | .macn .., _, rfl | .macz .., _, rfl => wMacN_yields
  | .acrd .., _, rfl => wAcrd_yields
  | .acclr .., _, rfl => wAcclr_yields
  | .acmv .., _, rfl => wAcmv_yields
  | .qenc .., _, rfl => wOABm_yields
  | .mxs .., _, rfl => wMxs_yields
  | .rsex .., _, rfl => wRA_yields
  | .fence .., _, rfl => wFence_yields
  | .ldc .., _, rfl => wDAm_yields
  | .stc .., _, rfl => wNABm_yields
  | .cfree .., _, rfl | .trap .., _, rfl | .idle .., _, rfl | .attn .., _, rfl => wA_yields
  | .brdRd .., _, rfl | .brdFl .., _, rfl | .brdRed .., _, rfl | .brdUpd .., _, rfl | .brdGat .., _, rfl
  | .brdSca .., _, rfl | .brdLut .., _, rfl | .tblb .., _, rfl | .cpy .., _, rfl | .coll .., _, rfl => wP2_yields
  | .ridq .., _, rfl | .rcan .., _, rfl | .drn .., _, rfl => wP1_yields
  | .claim .., _, rfl => wD_yields
  | .slq .., _, rfl => wDAs_yields
  | .port .., _, rfl => wPort_yields
  | .wrem .., _, rfl => wWrem_yields
  | .sndm .., _, rfl => wSndm_yields
  | .ori2 .., _, rfl | .ori2s .., _, rfl | .ori3 .., _, rfl | .ori3s .., _, rfl | .incr .., _, rfl | .incrs .., _, rfl
  | .insp .., _, rfl | .insps .., _, rfl | .segx .., _, rfl | .segxs .., _, rfl => wGeo_yields

end Sys2Proof.Fields
end
section
/-! PROOFS. Decoding and encoding agree, both ways (R151-R163, R173). -/

namespace Sys2Proof

/-! ## The slot word (R151, R173) -/

theorem Instr.hasWord_eq_isSome_fields (i : Instr) : i.hasWord = i.fields.isSome := by
  cases i <;> rfl

theorem decodeFields_eq_ok {f : Fields} {i : Instr} :
    decodeFields f = .ok i ↔ readFields f = some ⟨some i, true⟩ ∧ i.wellFormed = true := by
  constructor
  · intro h
    unfold decodeFields at h
    split at h
    next => cases h
    next r hr =>
      split at h
      next => cases h
      next j hj =>
        split_ifs at h with hops hmod
        cases h
        simp only [Bool.or_eq_true, Bool.not_eq_true', not_or, Bool.not_eq_false] at hops hmod
        obtain ⟨hok, hpeeks⟩ := hmod
        exact ⟨by rw [hr, ← hj, ← hok], by rw [Instr.wellFormed, hops, hpeeks]; rfl⟩
  · rintro ⟨hr, hwf⟩
    obtain ⟨hops, hpeeks⟩ := Bool.and_eq_true_iff.mp hwf
    simp only [decodeFields, hr, hops, hpeeks]
    rfl

/-- Decoding the word of an admitted instruction gives it back. -/
theorem decode_encode {i : Instr} (hword : i.hasWord = true) (hwf : i.wellFormed = true) :
    ∃ w, encode i = some w ∧ decode w = .ok i := by
  rw [Instr.hasWord_eq_isSome_fields] at hword
  obtain ⟨f, hf⟩ := Option.isSome_iff_exists.mp hword
  obtain ⟨hfits, hreads⟩ := Fields.yields_of_fields hf
  refine ⟨_, by rw [encode, hf]; rfl, ?_⟩
  rw [decode, BitVec.toNat_ofNat, Nat.mod_eq_of_lt (Fields.toWord_lt hfits), Fields.ofWord_toWord hfits]
  exact decodeFields_eq_ok.mpr ⟨hreads, hwf⟩

/-- A word that decodes is the encoding of what it decodes to. -/
theorem encode_of_decode {w : BitVec 32} {i : Instr} (h : decode w = .ok i) :
    i.hasWord = true ∧ i.wellFormed = true ∧ encode i = some w := by
  obtain ⟨hreads, hwf⟩ := decodeFields_eq_ok.mp h
  have hf : i.fields = some (.ofWord w.toNat) := Fields.readFields_readsBack (Fields.ofWord_fits _) i hreads
  refine ⟨by rw [Instr.hasWord_eq_isSome_fields, hf]; rfl, hwf, ?_⟩
  rw [encode, hf, Option.map_some, Fields.toWord_ofWord w.isLt, BitVec.ofNat_toNat, BitVec.setWidth_eq]

end Sys2Proof

namespace Sys2Proof.Spec

/-- Settles O53: an instruction's fields read as the instruction, and what a word reads as has the word's fields. -/
theorem decodeEncodeRoundTrip : Obligations.DecodeEncodeRoundTrip := by
  unfold Obligations.DecodeEncodeRoundTrip
  exact ⟨fun _ => decode_encode, fun _ _ => encode_of_decode⟩

/-- Settles O54: the listed words are closed terms, each decoded by evaluation. -/
theorem knownWordsDecode : Obligations.KnownWordsDecode := by
  unfold Obligations.KnownWordsDecode
  decide

end Sys2Proof.Spec
end

section
/-! PROOFS. Firings whose beats send their result at once or write a predicate at the end; class 0: forwarding, marks, predicates
and counters (R184-R197); the merges MRG and CMRG (R182, R189, R309). -/

namespace Sys2Proof.Spec
open Machine

/-! ## Beats that send at once, and beats that send nothing -/

/-- A plan each of whose beats sends its tokens at once, at most one on each output its form names. -/
theorem Form.RunBy.runs_of_sends {m : Form} {p : Plan} (h : m.RunBy p) (hroom : m.room = fun _ => 1) (hnodup : m.outs.Nodup)
    {i : Instr} {ok : State → Beat → Prop} {eff : State → Beat → State × List (Nat × Token)} (hexec : ∀ s, exec i s = fire p s)
    (hbeat : ∀ s bt c, ok s bt → p.beat s bt c = goSends c (eff s bt))
    (hsub : ∀ s bt, ((eff s bt).2.map Prod.fst).Sublist m.outs) : Runs i m ok one_ eff := by
  refine h.fires hexec fun s bt c _ hok => ⟨[], hbeat s bt c hok, ?_⟩
  rw [hroom]
  exact count_ok hnodup (by rw [List.append_nil]; exact hsub s bt)

/-- An instruction with two sources whose every beat sends its tokens at once. -/
theorem completes_of_sends {i : Instr} {t : Fin 64} {a b : Opd} {z : Option (Fin 8)} {outs : List Nat}
    {beat : State → Beat → Carry → Out} {eff : State → Beat → State × List (Nat × Token)} (hnodup : outs.Nodup)
    (hexec : ∀ s, exec i s = fire (planOf t a b z beat) s) (hbeat : ∀ s bt c, beat s bt c = goSends c (eff s bt))
    (hsub : ∀ s bt, ((eff s bt).2.map Prod.fst).Sublist outs) : Completes i t a b z outs one_ eff :=
  (form_runBy_planOf t a b z outs beat).runs_of_sends rfl hnodup hexec (fun s bt c _ => hbeat s bt c) hsub

/-- An instruction with two sources and no output whose every beat changes the state only. -/
theorem completes_of_quiet {i : Instr} {t : Fin 64} {a b : Opd} {z : Option (Fin 8)} {beat : State → Beat → Carry → Out}
    {eff : State → Beat → State} (hexec : ∀ s, exec i s = fire (planOf t a b z beat) s)
    (hbeat : ∀ s bt c, beat s bt c = .go { s := eff s bt, c := c }) :
    Completes i t a b z [] one_ fun s bt => (eff s bt, []) :=
  (form_runBy_planOf t a b z [] beat).runs_quiet hexec fun s bt c _ _ => hbeat s bt c

/-- An instruction with two sources and no output whose beats carry what its last beat needs. -/
theorem completesAtLast_of_quiet {i : Instr} {t : Fin 64} {a b : Opd} {beat : State → Beat → Carry → Out} {eff : Effect}
    (hexec : ∀ s, exec i s = fire (planOf t a b none beat) s)
    (hbeat : ∀ s bt c, beat s bt c = .go { s := (eff s bt c).1, c := (eff s bt c).2.2 })
    (hquiet : ∀ s bt c, (eff s bt c).2.1 = []) : CompletesAtLast i t a b none [] eff := by
  obtain ⟨ht, ha, hb, hdst, hwords, htaken, hdeqs, hfin, htokens⟩ := form_runBy_planOf t a b none [] beat
  have hform : { form t a b none [] with room := fun last => if last then 1 else 0 : Form }.RunBy (planOf t a b none beat) :=
    ⟨ht, ha, hb, hdst, hwords, htaken, hdeqs, hfin, htokens⟩
  refine hform.fires hexec fun s bt c _ _ => ⟨[], ?_, fun o => ?_⟩
  · rw [hquiet]
    exact hbeat s bt c
  · simp [hquiet]

/-! ## Forwarding (R184-R188, R190) -/

theorem runs_nop (t : Fin 64) (a b : Opd) : Completes (.nop t a b) t a b none [] one_ fun s _ => (s, []) :=
  completes_of_quiet (fun _ => rfl) fun _ _ _ => rfl

theorem runs_mov (t : Fin 64) (d : Dst) (a : Opd) :
    Completes (.mov t d a) t a none_ none d.outs one_ fun s bt => bt.forward s d bt.a :=
  completes_of_sends (dst_nodup d) (fun _ => rfl) (fun _ _ _ => rfl) fun _ _ => forward_sub ..

theorem runs_movt (t : Fin 64) (d : Dst) (a b : Opd) : Completes (.movt t d a b) t a b none d.outs one_ fun s bt =>
    bt.forward (bt.raise s (if (retag bt).2 then Flags.invalid else 0)) d (retag bt).1 :=
  completes_of_sends (dst_nodup d) (fun _ => rfl) (fun _ _ _ => rfl) fun _ _ => forward_sub ..

theorem runs_sel (t : Fin 64) (d : Dst) (a b : Opd) :
    Completes (.sel t d a b) t a b none d.outs one_ fun s bt => bt.forward s d (if bt.cap.p0 then bt.a else bt.bb) :=
  completes_of_sends (dst_nodup d) (fun _ => rfl) (fun _ _ _ => rfl) fun _ _ => forward_sub ..

theorem runs_fork (t : Fin 64) (d : ODst) (a b : Opd) : Completes (.fork t d a b) t a b none (outsOf d) one_ fun s bt =>
    (s, sendFwd ((outsOf d).filter fun j => bt.bb.bits.getLsbD j) (bt.fwd bt.a)) :=
  completes_of_sends (outs_nodup d) (fun _ => rfl) (fun _ _ _ => rfl) fun _ _ =>
    (sendFwd_sub ..).trans List.filter_sublist

/-- The one output SPLIT picks stands in the list of its outputs at the place of its selector. -/
theorem outsOf_getElem?_eq_splitOut (d : ODst) (sel : Word) :
    (outsOf d)[sel.toNat % (outsOf d).length]? = some (splitOut d sel) := by
  have hmod2 : sel.toNat % 2 = 0 ∨ sel.toNat % 2 = 1 := Nat.mod_two_eq_zero_or_one _
  have hmod4 : sel.toNat % 4 = 0 ∨ sel.toNat % 4 = 1 ∨ sel.toNat % 4 = 2 ∨ sel.toNat % 4 = 3 := by omega
  cases d with
  | o n => simp [outsOf, splitOut, Nat.mod_one]
  | o01 => rcases hmod2 with h | h <;> simp [outsOf, splitOut, h]
  | o23 => rcases hmod2 with h | h <;> simp [outsOf, splitOut, h]
  | oall => rcases hmod4 with h | h | h | h <;> simp [outsOf, splitOut, h]

theorem runs_split (t : Fin 64) (d : ODst) (a b : Opd) : Completes (.split t d a b) t a b none (outsOf d) one_ fun s bt =>
    (s, sendFwd ((outsOf d)[bt.bb.bits.toNat % (outsOf d).length]?.toList) (bt.fwd bt.a)) := by
  refine completes_of_sends (outs_nodup d) (fun _ => rfl) (fun s bt c => ?_) fun s bt => (sendFwd_sub ..).trans ?_
  · rw [outsOf_getElem?_eq_splitOut]
    rfl
  · rw [outsOf_getElem?_eq_splitOut]
    exact List.singleton_sublist.mpr (List.mem_of_getElem? (outsOf_getElem?_eq_splitOut d bt.bb.bits))

theorem runs_drop (t : Fin 64) (a : Src) : Completes (.drop t a) t ⟨a, false⟩ none_ none [] one_ fun s bt =>
    (match a.reg? with
     | some n => bt.mod s fun y => y.clearG n
     | none => s, []) :=
  completes_of_quiet (fun _ => rfl) fun _ _ _ => rfl

/-- Settles O1: each instruction's plan runs the form of its sources, and each of its beats forwards what the rules say. -/
theorem forwardingInstructions : Obligations.ForwardingInstructions := by
  unfold Obligations.ForwardingInstructions
  exact ⟨runs_nop, runs_mov, runs_movt, runs_sel, runs_fork, runs_split, runs_drop⟩

/-! ## Marks, predicates and counters (R191-R197) -/

/-- MARK sends what the code of source B gives: no token for code 5 (R191). -/
theorem marked_eq (d : ODst) (s : State) (bt : Beat) :
    marked d s bt = match markTok bt (bt.bb.bits.toNat % 8) with
      | some k => (bt.raise s bt.poisonFlag, sendAll d (bt.outTok k))
      | none => (bt.raise s Flags.invalid, sendAll d bt.poison?) := by
  unfold marked markTok
  by_cases h5 : bt.bb.bits.toNat % 8 = 5
  · simp [h5]
  · simp only [h5, if_false]
    split_ifs <;> rfl

theorem marked_sub (d : ODst) (s : State) (bt : Beat) : ((marked d s bt).2.map Prod.fst).Sublist (outsOf d) := by
  rw [marked_eq]
  split <;> exact sendAll_sub ..

theorem runs_mark (t : Fin 64) (d : ODst) (a b : Opd) :
    Completes (.mark t d a b) t a b none (outsOf d) one_ fun s bt => marked d s bt := by
  refine completes_of_sends (outs_nodup d) (fun _ => rfl) (fun s bt c => ?_) fun s bt => marked_sub d s bt
  rw [marked_eq]
  cases markTok bt (bt.bb.bits.toNat % 8) <;> rfl

theorem runs_emit (t : Fin 64) (d : ODst) (a b : Opd) :
    Completes (.emit t d a b) t a b none (outsOf d) one_ fun s _ => (s, sendAll d (some Token.eos)) :=
  completes_of_sends (outs_nodup d) (fun _ => rfl) (fun _ _ _ => rfl) fun _ _ => sendAll_sub d (some Token.eos)

theorem runs_tags (t : Fin 64) (d : Dst) (a : Opd) : Completes (.tags t d a) t a none_ none d.outs one_ fun s bt =>
    match d with
    | .g n => (bt.mod s fun y => y.setG n (tagsOf bt.a) bt.T, [])
    | .out o => (s, sendAll o (if bt.drain? then none else some (bt.result (tagsOf bt.a) bt.T)))
    | .z => (s, []) := by
  refine completes_of_sends (dst_nodup d) (fun _ => rfl) (fun s bt c => ?_) fun s bt => ?_
  · cases d <;> rfl
  · cases d with
    | g n => exact List.nil_sublist _
    | out o => exact sendAll_sub ..
    | z => exact List.nil_sublist _

/-- After the last beat PSET and PCLR write what their beats have carried to it (R181, R194, R209). -/
theorem predTest_eq_predSet (v : Bool) (d : Fin 8) (s : State) (bt : Beat) (c : Carry) :
    predTest v d s bt c = .go { s := (predSet d v s bt c).1, c := (predSet d v s bt c).2.2 } := by
  unfold predTest predSet
  cases bt.last <;> cases (c.ok && bt.poison?.isNone) <;> rfl

theorem runs_pset (t : Fin 64) (d : Fin 8) (a b : Opd) : CompletesAtLast (.pset t d a b) t a b none [] (predSet d true) :=
  completesAtLast_of_quiet (fun _ => rfl) (predTest_eq_predSet true d) fun _ _ _ => rfl

theorem runs_pclr (t : Fin 64) (d : Fin 8) (a b : Opd) : CompletesAtLast (.pclr t d a b) t a b none [] (predSet d false) :=
  completesAtLast_of_quiet (fun _ => rfl) (predTest_eq_predSet false d) fun _ _ _ => rfl

theorem runs_ctr (t : Fin 64) (d : Dst) (a b : Opd) : Completes (.ctr t d a b) t a b none d.outs one_ fun s bt =>
    plain d (if bt.bb.bits.toNat ≤ bt.a.bits.toNat + 1 then 0 else bt.a.bits + 1) s bt :=
  completes_of_sends (dst_nodup d) (fun _ => rfl) (fun _ _ _ => rfl) fun _ _ => deliver_sub ..

/-- A pulse sent behind a fence goes under a number of its own (R145, log 55). -/
theorem sendPulse_eq (s : State) (u e n : Nat) :
    sendPulse s u e n =
      if (s.elem u e).fences ≠ [] then (s.modUnit u fun x => x.pulse e n (some s.nextId)).bumpId
      else s.modUnit u fun x => x.pulse e n none := by
  unfold sendPulse
  cases (s.elem u e).fences <;> rfl

theorem runs_sig (t : Fin 64) (d : Fin 4) (a b : Opd) : Completes (.sig t d a b) t a b none [] one_ fun s bt =>
    (if (s.elem bt.u bt.e).fences ≠ [] then (s.modUnit bt.u fun x => x.pulse bt.e d.val (some s.nextId)).bumpId
     else s.modUnit bt.u fun x => x.pulse bt.e d.val none, []) :=
  completes_of_quiet (fun _ => rfl) fun s bt c => by rw [sendPulse_eq]

theorem runs_halt (t : Fin 64) : Completes (.halt t) t none_ none_ none [] one_ fun s bt =>
    (bt.mod s fun y => { y with pick := .halted }, []) :=
  completes_of_quiet (fun _ => rfl) fun _ _ _ => rfl

/-- Settles O2: each instruction's plan runs the form of its sources, and each of its beats has the effect above. -/
theorem marksPredicatesAndCounters : Obligations.MarksPredicatesAndCounters := by
  unfold Obligations.MarksPredicatesAndCounters
  exact ⟨runs_mark, runs_emit, runs_tags, runs_pset, runs_pclr, runs_ctr, runs_sig, runs_halt⟩

/-! ## Merges (R182, R189, R309) -/

/-- What a beat that can be done always has need not be asked of it. -/
theorem Fires.of_goes {i : Instr} {m : Form} {ok ok' : State → Beat → Carry → Prop} {cyc : State → Beat → Nat} {eff : Effect}
    (h : Fires i m ok' cyc eff)
    (hgoes : ∀ s f n b cap c, m.Goes s f n b → ok (m.pre s f n b) (m.beat s f n b cap) c →
      ok' (m.pre s f n b) (m.beat s f n b cap) c) : Fires i m ok cyc eff :=
  fun s f x hfresh hall => h s f x hfresh fun b hb =>
    have ⟨hgo, hok⟩ := hall b hb
    ⟨hgo, hgoes _ _ _ _ _ _ hgo hok⟩

/-- The operand of a channel on which a token stands is that token. -/
theorem operand_isSome_of_tokReady {y : Elem} {ch : Fin 4} (h : y.tokReady (.ch ch) = true) (cap : OpVal) (b : Nat)
    (cx : BitVec 32) : (y.operand cap b cx (.ch ch)).tok.isSome = true := by
  have hne : (y.visible ch).isEmpty = false := by simpa [Elem.tokReady, Src.chan?] using h
  cases hvis : y.visible ch with
  | nil => simp [hvis] at hne
  | cons k rest => simp [Elem.operand, hvis, OpVal.ofTok]

/-- The plan of a merge: its beat itself decides which of the two channels is dequeued (R189, R309). -/
def mergePlan (t : Fin 64) (a b : Fin 4) (beat : State → Beat → Carry → Out) : Plan :=
  { t := t, a := .ch a, b := .ch b, auto := false, beat := beat }

/-- The form of a merge that waits for a token on the channels `srcs`. -/
def mergeForm (t : Fin 64) (d : Dst) (a b : Fin 4) (srcs : List Src) : Form :=
  { t := t, a := .ch a, b := .ch b, srcs := srcs, outs := d.outs }

theorem mergeForm_runBy_mergePlan (t : Fin 64) (d : Dst) (a b : Fin 4) (srcs : List Src) (beat : State → Beat → Carry → Out) :
    (mergeForm t d a b srcs).RunBy (mergePlan t a b beat) :=
  ⟨rfl, rfl, rfl, rfl, rfl, rfl, rfl, rfl, fun _ _ => rfl⟩

theorem runs_mrg (t : Fin 64) (d : Dst) (a b : Fin 4) :
    Runs (.mrg t d a b) (mergeForm t d a b []) (fun _ bt => bt.a.isData = true ∨ bt.bb.isData = true) one_ fun s bt =>
      if bt.a.isData then bt.forward (bt.mod s fun y => y.dequeue a) d bt.a
      else bt.forward (bt.mod s fun y => y.dequeue b) d bt.bb := by
  refine (mergeForm_runBy_mergePlan t d a b [] _).runs_of_sends rfl (dst_nodup d) (fun _ => rfl) (fun s bt c hdata => ?_)
    fun s bt => ?_
  · cases ha : bt.a.isData with
    | true => simp only [mergePlan, ha, if_true]
    | false => simp only [mergePlan, ha, hdata.resolve_left (ha ▸ nofun), if_true, Bool.false_eq_true, if_false]
  · split <;> exact forward_sub ..

/-- CMRG as its beats run it: once a token stands on both channels. -/
theorem runs_cmrg_of_tokens (t : Fin 64) (d : Dst) (a b : Fin 4) :
    Runs (.cmrg t d a b) (mergeForm t d a b [.ch a, .ch b])
      (fun _ bt => (bt.a.tok.isSome = true ∧ bt.bb.tok.isSome = true) ∧ (bt.a.isData = true ∨ bt.bb.isData = true)) one_
      fun s bt =>
        if bt.a.isData = true ∧ (bt.bb.isData = true → bt.a.coord ≤ bt.bb.coord) then
          bt.forward (bt.mod s fun y => y.dequeue a) d bt.a
        else bt.forward (bt.mod s fun y => y.dequeue b) d bt.bb := by
  refine (mergeForm_runBy_mergePlan t d a b [.ch a, .ch b] _).runs_of_sends rfl (dst_nodup d) (fun _ => rfl)
    (fun s bt c hok => ?_) fun s bt => ?_
  · obtain ⟨⟨htokA, htokB⟩, hdata⟩ := hok
    have hwait : (bt.a.tok.isNone || bt.bb.tok.isNone) = false := by
      simp [htokA, htokB]
    simp only [mergePlan, hwait, Bool.false_eq_true, if_false]
    cases ha : bt.a.isData with
    | true => cases hb : bt.bb.isData <;> by_cases hle : bt.a.coord ≤ bt.bb.coord <;> simp [hle]
    | false => simp [hdata.resolve_left (ha ▸ nofun)]
  · split <;> exact forward_sub ..

theorem runs_cmrg (t : Fin 64) (d : Dst) (a b : Fin 4) :
    Runs (.cmrg t d a b) (mergeForm t d a b [.ch a, .ch b]) (fun _ bt => bt.a.isData = true ∨ bt.bb.isData = true) one_
      fun s bt =>
        if bt.a.isData = true ∧ (bt.bb.isData = true → bt.a.coord ≤ bt.bb.coord) then
          bt.forward (bt.mod s fun y => y.dequeue a) d bt.a
        else bt.forward (bt.mod s fun y => y.dequeue b) d bt.bb := by
  refine (runs_cmrg_of_tokens t d a b).of_goes fun s f n k cap c hgo hdata => ⟨?_, hdata⟩
  obtain ⟨x, hx, hready, -⟩ := hgo
  simp only [Form.beat, State.elem_of_unit hx]
  exact ⟨operand_isSome_of_tokReady (hready _ (.head _)) .., operand_isSome_of_tokReady (hready _ (.tail _ (.head _))) ..⟩

/-- Settles O3: where a beat can be done the head that the rule names is a data head, forwarded and dequeued alone. -/
theorem mergesForwardOneHead : Obligations.MergesForwardOneHead := by
  unfold Obligations.MergesForwardOneHead
  exact ⟨runs_mrg, runs_cmrg⟩

end Sys2Proof.Spec
end

section
/-! PROOFS. The integer lane instructions and the compares of classes 1 and 2 (R178-R181, R198-R209, R220). -/

namespace Sys2Proof.Machine

/-! ## Lane results (R199-R206) -/

/-- A lane value within the lane's range is itself when clamped, and only such a value is (R199). -/
theorem clamp_eq_self_iff {lo hi : Int} (h : lo ≤ hi) (v : Int) : max lo (min v hi) = v ↔ lo ≤ v ∧ v ≤ hi := by
  omega

/-- Saturation is raised where the value is out of range (R199). -/
theorem clampLane_eq (l : LaneArg) {lo hi : Int} (h : lo ≤ hi) (v : Int) : clampLane l lo hi v =
    (toBitsN l.w (max lo (min v hi)), if lo ≤ v ∧ v ≤ hi then 0 else Flags.saturation) := by
  by_cases hin : lo ≤ v ∧ v ≤ hi
  · simp only [clampLane, Flags.when, (clamp_eq_self_iff h v).mpr hin, bne_self_eq_false, Bool.false_eq_true, if_false,
      if_pos hin]
  · have hne := mt (clamp_eq_self_iff h v).mp hin
    simp only [clampLane, Flags.when, bne_iff_ne.mpr hne, if_true, if_neg hin]

/-- The range of signed numbers of `n` bits is not empty. -/
theorem signedRange_nonempty (n : Nat) : -(2 ^ n : Int) ≤ 2 ^ n - 1 := by
  have hpos : (0 : Int) < 2 ^ n := by positivity
  omega

/-- The range of unsigned numbers of `n` bits is not empty. -/
theorem unsignedRange_nonempty (n : Nat) : (0 : Int) ≤ 2 ^ n - 1 := by
  have hpos : (0 : Int) < 2 ^ n := by positivity
  omega

theorem LaneArg.lo_le_hi (l : LaneArg) : l.lo ≤ l.hi := by
  unfold LaneArg.lo LaneArg.hi
  split
  · exact signedRange_nonempty _
  · exact unsignedRange_nonempty _

/-- POPC counts the set bits (R203). -/
theorem lanePopc_eq (l : LaneArg) : lanePopc l = ((List.range l.w).countP fun i => l.x.testBit i, 0) := by
  have hcount (ns : List Nat) (n : Nat) :
      ns.foldl (fun n i => n + (if l.x.testBit i then 1 else 0)) n = n + ns.countP fun i => l.x.testBit i := by
    induction ns generalizing n with
    | nil => rfl
    | cons i ns ih => rw [List.foldl_cons, ih, List.countP_cons]; omega
  rw [lanePopc, hcount, Nat.zero_add]

end Sys2Proof.Machine

namespace Sys2Proof.Spec
open Machine

theorem clampLane_eq_clamped (v : LaneArg → Int) : (fun l => clampLane l l.lo l.hi (v l)) = clamped v :=
  funext fun l => clampLane_eq l l.lo_le_hi (v l)

theorem laneAbs_eq : laneAbs = fun l => if l.sgn then clamped (fun l => |l.vx|) l else (l.x, 0) := by
  rw [← clampLane_eq_clamped]
  rfl

theorem laneSatn_eq : laneSatn = satn := by
  funext l
  unfold laneSatn satn
  by_cases hw : l.w ≤ l.y
  · simp only [if_pos hw]
  by_cases h0 : l.y = 0
  · simp [h0, Flags.when]
  · simp only [if_neg hw, if_neg h0, clampLane_eq l (signedRange_nonempty (l.y - 1)),
      clampLane_eq l (unsignedRange_nonempty l.y)]
    cases l.sgn <;> rfl

/-! ## The instructions run their lane results (R199-R206) -/

/-- An instruction whose beat is a lane result completes with it. -/
theorem completes_lanes {i : Instr} {t : Fin 64} {d : Dst} {a b : Opd} {z : Option (Fin 8)} {bc : Bool}
    {adm : Fmt → Option IntFmt} {op : LaneArg → Nat × Flags}
    (hexec : ∀ s, exec i s = fire (planOf t a b z (intBeat adm d bc op)) s) :
    Completes i t a b z d.outs one_ (lanes adm d bc op) :=
  completes_of_sends (dst_nodup d) hexec (fun _ _ _ => rfl) fun _ _ => deliver_sub ..

/-- Each row of the table with a broadcast modifier runs its lane result. -/
theorem exec_wideTable : ∀ r ∈ wideTable, ∀ t d a b bc s,
    exec (r.1 t d a b bc) s = fire (planOf t a b none (intBeat r.2.1 d bc r.2.2)) s := by
  have hadds : laneAdds = clamped fun l => l.vx + l.vy := clampLane_eq_clamped _
  have hsubs : laneSubs = clamped fun l => l.vx - l.vy := clampLane_eq_clamped _
  unfold wideTable
  rw [← hadds, ← hsubs]
  simp only [List.forall_mem_cons, List.not_mem_nil, false_imp_iff, implies_true, and_true]
  and_intros <;> exact fun _ _ _ _ _ _ => rfl

/-- Each row of the table with source A only runs its lane result. -/
theorem exec_oneTable : ∀ r ∈ oneTable, ∀ t d a s,
    exec (r.1 t d a) s = fire (planOf t a none_ none (intBeat r.2.1 d false r.2.2)) s := by
  unfold oneTable
  rw [← laneAbs_eq, ← funext lanePopc_eq]
  simp only [List.forall_mem_cons, List.not_mem_nil, false_imp_iff, implies_true, and_true]
  and_intros <;> exact fun _ _ _ _ => rfl

theorem runs_mad (t : Fin 64) (d : Fin 8) (a b : Opd) (bc : Bool) : Completes (.mad t d a b bc) t a b (some d) [] one_
    (lanes intFmt (.g d) bc (cut fun l => l.vx * l.vy + l.vz)) :=
  completes_lanes (d := .g d) fun _ => rfl

theorem runs_satn (t : Fin 64) (d : Dst) (a b : Opd) :
    Completes (.satn t d a b) t a b none d.outs one_ (lanes intFmt d false satn) :=
  completes_lanes fun s => by rw [← laneSatn_eq]; rfl

theorem runs_bfx (t : Fin 64) (d : Dst) (a b : Opd) : Completes (.bfx t d a b) t a b none d.outs one_ fun s bt =>
    let v := bt.intResult intFmt false (laneBfx bt.bb.bits)
    bt.deliver s d v.1 bt.T v.2 :=
  completes_of_sends (dst_nodup d) (fun _ => rfl) (fun _ _ _ => rfl) fun _ _ => deliver_sub ..

/-- The beat of IDX: in lane i, x + i y of lane 0; zeros and invalid where F is not admitted (R179, R205). -/
def idxEffect (d : Dst) (s : State) (bt : Beat) : State × List (Nat × Token) :=
  match bt.F.bind intFmt, bt.F with
  | some g, some f =>
    let l := bt.laneArg f g false 0
    bt.deliver s d (ofLanes g.w ((List.range g.lanes).map fun (i : Nat) => toBitsN g.w (l.vx + i * l.vy))) bt.T bt.mismatchFlag
  | _, _ => bt.deliver s d 0 bt.T (Flags.invalid ||| bt.mismatchFlag)

theorem deliver_idxResult (d : Dst) (s : State) (bt : Beat) :
    bt.deliver s d bt.idxResult.1 bt.T (bt.idxResult.2 ||| bt.mismatchFlag) = idxEffect d s bt := by
  unfold Beat.idxResult idxEffect
  cases bt.F with
  | none => rfl
  | some f => cases hg : intFmt f <;> simp [hg]

theorem runs_idx (t : Fin 64) (d : Dst) (a b : Opd) : Completes (.idx t d a b) t a b none d.outs one_ (idxEffect d) := by
  refine completes_of_sends (dst_nodup d) (fun _ => rfl) (fun s bt c => ?_) fun s bt => ?_
  · rw [← deliver_idxResult]
  · rw [← deliver_idxResult]
    exact deliver_sub ..

/-- Settles O4: each instruction's plan runs the form of its sources with the lane result of its table. -/
theorem integerLaneResults : Obligations.IntegerLaneResults := by
  unfold Obligations.IntegerLaneResults
  exact ⟨fun r hr t d a b bc => completes_lanes (exec_wideTable r hr t d a b bc),
    fun r hr t d a => completes_lanes (exec_oneTable r hr t d a), runs_mad, runs_satn, runs_bfx, runs_idx⟩

/-! ## Compares (R179, R181, R207, R209, R220) -/

/-- An instruction whose beat is a compare writes its predicate after the last beat. -/
theorem completes_compared {i : Instr} {t : Fin 64} {d : Fin 8} {a b : Opd} {r : Beat → Bool × Flags}
    (hexec : ∀ s, exec i s = fire (planOf t a b none fun s bt c => cmpBeat d (r bt) s bt c) s) :
    CompletesAtLast i t a b none [] (compared d r) :=
  completesAtLast_of_quiet hexec (fun _ _ _ => rfl) fun _ _ _ => rfl

theorem runs_cmpTable : ∀ r ∈ cmpTable, ∀ t d a b bc, CompletesAtLast (r.1 t d a b bc) t a b none []
    (compared d fun bt => bt.intTest r.2.1 bc r.2.2) := by
  simp only [cmpTable, List.forall_mem_cons, List.not_mem_nil, false_imp_iff, implies_true, and_true]
  and_intros <;> exact fun _ _ _ _ _ => completes_compared fun _ => rfl

theorem runs_fcmp : ∀ r ∈ ([(Instr.fcmpeq, FCmp.eq), (.fcmplt, .lt), (.fcmple, .le), (.fcmpun, .un)] :
      List ((Fin 64 → Fin 8 → Opd → Opd → Bool → Instr) × FCmp)),
    ∀ t d a b bc, CompletesAtLast (r.1 t d a b bc) t a b none [] (compared d fun bt => bt.fpTest bc r.2) := by
  simp only [List.forall_mem_cons, List.not_mem_nil, false_imp_iff, implies_true, and_true]
  and_intros <;> exact fun _ _ _ _ _ => completes_compared fun _ => rfl

/-- Settles O6: each compare's plan runs the form of its sources and writes its predicate after the last beat. -/
theorem compares : Obligations.Compares := by
  unfold Obligations.Compares
  exact ⟨runs_cmpTable, runs_fcmp⟩

end Sys2Proof.Spec
end

section
/-! PROOFS. TRAP, and what taking a trap saves and changes (R197, R255, R348, R369, R371, R372). -/

namespace Sys2Proof.Machine

/-! ## What ends being pending (R67, R371) -/

/-- `z` is `y` but for its late results and for which of its registers are pending. -/
def Elem.SameButPending (y z : Elem) : Prop :=
  ∃ g late, z = { y with g := g, late := late } ∧
    ∀ n : Fin 8, g[n].val = y.g[n].val ∧ g[n].tag = y.g[n].tag ∧ g[n].present = y.g[n].present

namespace Elem.SameButPending
variable {x y z : Elem}

theorem refl (y : Elem) : y.SameButPending y := ⟨_, _, rfl, fun _ => ⟨rfl, rfl, rfl⟩⟩

theorem trans (hxy : x.SameButPending y) (hyz : y.SameButPending z) : x.SameButPending z := by
  obtain ⟨g, late, rfl, hg⟩ := hxy
  obtain ⟨g', late', rfl, hg'⟩ := hyz
  refine ⟨g', late', rfl, fun n => ?_⟩
  obtain ⟨hval, htag, hpresent⟩ := hg n
  obtain ⟨hval', htag', hpresent'⟩ := hg' n
  exact ⟨hval'.trans hval, htag'.trans htag, hpresent'.trans hpresent⟩

theorem foldl {α : Type} {f : Elem → α → Elem} (hf : ∀ (y : Elem) (a : α), y.SameButPending (f y a)) (l : List α) (y : Elem) :
    y.SameButPending (l.foldl f y) := by
  induction l generalizing y with
  | nil => exact refl y
  | cons a l ih => exact (hf y a).trans (ih _)

theorem of_late (y : Elem) (late : List Late) : y.SameButPending { y with late := late } :=
  ⟨_, _, rfl, fun _ => ⟨rfl, rfl, rfl⟩⟩

theorem pendG (y : Elem) (n : Fin 8) (b : Bool) : y.SameButPending (y.pendG n b) := by
  refine ⟨_, _, rfl, fun k => ?_⟩
  by_cases hk : k = n
  · subst hk
    simp
  · have hne : n.val ≠ k.val := fun h => hk (Fin.ext h.symm)
    simp [Vector.getElem_set_ne, hne]

theorem endPending (y : Elem) (n : Fin 8) : y.SameButPending (State.endPending y n) := by
  unfold State.endPending
  dsimp only
  split
  · exact pendG y n false
  · exact of_late y _

theorem dropLates (y : Elem) (gone : List Nat) : y.SameButPending (State.dropLates y gone) := by
  refine (of_late y _).trans (foldl (fun z l => ?_) _ _)
  split
  · split
    · exact endPending z _
    · exact refl z
  · exact refl z

end Elem.SameButPending

/-! ## What an element has that trapped (R255, R371) -/

/-- The element as a trap leaves it to its later results: stopped, its firing over, the status word showing the slot. -/
def Elem.trappedAt (y : Elem) (slot : Nat) : Elem := { y with pick := .trapped, firing := none, last := BitVec.ofNat 5 slot }

/-- Element `e` of unit `u` stopped by a trap at `slot`, its requests that wait at tiles withdrawn and nothing pending but what
its earlier beats still bring. -/
def State.trapStop (s : State) (u e slot : Nat) : State :=
  ((s.modElem u e fun y => y.trappedAt slot).withdrawAside u e).modElem u e fun y => (List.finRange 8).foldl State.endPending y

/-- The unit as it is once requests of element `e` that wait at its tiles are withdrawn. -/
theorem State.exists_unit?_withdrawAside {s : State} {u : Nat} {x : UnitSt} (hx : s.unit? u = some x) (e : Nat) :
    ∃ v, (s.withdrawAside u e).unit? u = some v ∧ v.reqs = x.reqs ∧ (x.elem e).SameButPending (v.elem e) ∧
      ∀ t, (v.tile t).waiting = (x.tile t).waiting.filter fun r => !decide (r.e = e) := by
  rw [State.withdrawAside, State.unit?_modUnit_self, hx]
  refine ⟨_, rfl, rfl, ?_, fun t => ?_⟩
  · simpa [UnitSt.elem, UnitSt.setElem] using Elem.SameButPending.dropLates (x.elem e) _
  · simp only [UnitSt.tile, Assoc.getD, Assoc.get?_mapVals]
    cases x.mem.get? t <;> rfl

/-- A STOPPED ELEMENT: its unit keeps its requests under way, those that waited at tiles are withdrawn, and the element
differs from what it was in nothing else than what ends with its firing. -/
theorem State.exists_unit?_trapStop {s : State} {u : Nat} {x : UnitSt} (hx : s.unit? u = some x) (e slot : Nat) :
    ∃ v, (s.trapStop u e slot).unit? u = some v ∧ v.reqs = x.reqs ∧ ((x.elem e).trappedAt slot).SameButPending (v.elem e) ∧
      ∀ t, (v.tile t).waiting = (x.tile t).waiting.filter fun r => !decide (r.e = e) := by
  have htrapped : (s.modElem u e fun y => y.trappedAt slot).unit? u = some (x.setElem e ((x.elem e).trappedAt slot)) := by
    rw [State.unit?_modElem_self, hx]
    rfl
  obtain ⟨v, hv, hreqs, hsame, hwaiting⟩ := State.exists_unit?_withdrawAside htrapped e
  rw [State.trapStop, State.unit?_modElem_self, hv]
  refine ⟨_, rfl, hreqs, ?_, hwaiting⟩
  rw [UnitSt.elem_setElem_self] at hsame ⊢
  exact hsame.trans (.foldl Elem.SameButPending.endPending _ _)

/-- TAKING A TRAP: the element stops, its record is written, its launch has failed and is cancelled (R371, R372). -/
theorem State.trap_eq {s : State} {u : Nat} {x : UnitSt} (hx : s.unit? u = some x) (e slot cause item va : Nat) (fl : Flags) :
    s.trap u e slot cause item va 0 0 fl =
      ((((s.trapStop u e slot).putFault
        { State.elemRec x e slot with cause := cause, item := item, va := va, flags := fl.toNat }).modUnit u
        fun y => { y with failed := true }).modLaunch x.launch fun l => { l with fail := true }).cancelLaunch x.launch := by
  unfold State.trap
  rw [hx]
  rfl

end Sys2Proof.Machine

namespace Sys2Proof.Spec
open Machine

/-! ## TRAP (R348) -/

/-- The plan of TRAP: its beat traps, and raises the flag of a poison operand (R181). -/
def trapPlan (t : Fin 64) (a : Opd) : Plan :=
  planOf t a none_ none fun s bt _ => .trap (bt.raise s bt.poisonFlag) 0x26 0 bt.a.bits.toNat

theorem exec_trap (t : Fin 64) (a : Opd) (s : State) : exec (.trap t a) s = fire (trapPlan t a) s := rfl

theorem raisedBy_trapPlan (t : Fin 64) (a : Opd) {s : State} {bt : Beat} (h : (s.unit? bt.u).isSome = true) (c : Carry) :
    raisedBy (fun s => (trapPlan t a).beat s bt c) s bt.u bt.e = bt.poisonFlag :=
  fl_raise_of_cleared h _

/-- No beat of a TRAP goes, so that it is the first one that traps. -/
theorem traps_trap (t : Fin 64) (a : Opd) : Traps (.trap t a) (form t a none_ none []) (fun _ _ _ => False) one_
    (each fun s _ => (s, [])) (trapped fun _ bt => some (0x26, bt.a.bits.toNat)) := by
  intro s s' f x y k cause va fl hfresh n cap at_ hk hgoes hy hready hbad hcan
  obtain rfl : k = 0 := Nat.eq_zero_of_not_pos fun hpos => (hgoes 0 hpos).2
  have hrun : (form t a none_ none []).RunBy (trapPlan t a) := form_runBy_planOf t a none_ none [] _
  simp only [trapped, Option.map_some, Option.some.injEq, Prod.mk.injEq] at hbad
  obtain ⟨rfl, rfl, rfl, rfl⟩ := hbad
  have hraised := raisedBy_trapPlan t a (bt := (form t a none_ none []).beat (at_ 0).1 f n 0 cap) (by rw [Form.beat, hy]; rfl)
    (at_ 0).2
  rw [exec_trap, fire_trap hfresh.focus hfresh.unit hfresh.elem hfresh.fresh rfl (hrun.capture_eq _ _) at_ rfl hk
    (fun b hb => absurd hb (Nat.not_lt_zero b)) (hrun.tokens _ (by rwa [State.elem_of_unit hy]))
    (by rw [hrun.beatOf_eq, hrun.taken]; rfl) hcan, hrun.beatOf_eq]
  exact congrArg _ (congrArg _ hraised)

/-- Settles O34: TRAP's first beat traps, and a trap is the stop of its element, its record and the cancel of its launch. -/
theorem trapsAreTaken : Obligations.TrapsAreTaken := by
  unfold Obligations.TrapsAreTaken
  refine ⟨traps_trap, fun s u e slot x hx => ?_,
    fun s u e slot cause item va fl x hx => State.trap_eq hx e slot cause item va fl⟩
  obtain ⟨v, hv, hreqs, hsame, hwaiting⟩ := State.exists_unit?_trapStop hx e slot
  intro y s1 s2 z
  have hv : s2.unit? u = some v := hv
  have hz : z = v.elem e := State.elem_of_unit hv e
  refine ⟨⟨v, hv, hreqs, fun t r hr => ?_⟩, ?_⟩
  · rw [hwaiting, List.mem_filter] at hr
    exact ⟨hr.1, by simpa using hr.2⟩
  · obtain ⟨g, late, heq, hg⟩ := hsame
    rw [hz, heq]
    exact ⟨rfl, rfl, rfl, rfl, rfl, rfl, rfl, rfl, rfl, hg⟩

end Sys2Proof.Spec
end

section
/-! PROOFS. The float lane instructions of class 2: results at once, results under way for their latency, conversions between
floats and integers (R178, R180, R181, R214, R217-R219, R221-R224). -/

namespace Sys2Proof.Machine

/-- FABS keeps the bits below the sign, and a flushed operand is +0 (R36, R219). -/
theorem laneFabs_eq (k : FCtx) (x : Nat) : laneFabs k x = ⟨if (k.dec x).isZero then 0 else x % 2 ^ (k.f.w - 1), 0⟩ := by
  rw [laneFabs, signLane, FFmt.signBit, if_neg Bool.false_ne_true, Nat.zero_add]

end Sys2Proof.Machine

namespace Sys2Proof.Spec
open Machine

/-! ## Results at once (R217-R219) -/

/-- An instruction whose beat is a float lane result completes with it. -/
theorem completes_flanes {i : Instr} {t : Fin 64} {d : Dst} {a b : Opd} {z : Option (Fin 8)} {bc : Bool}
    {adm : Fmt → Option FFmt} {op : FCtx → Nat → Nat → Nat → Lane}
    (hexec : ∀ s, exec i s = fire (planOf t a b z (fpBeat adm d bc op)) s) :
    Completes i t a b z d.outs one_ (flanes adm d bc op) :=
  completes_of_sends (dst_nodup d) hexec (fun _ _ _ => rfl) fun _ _ => deliver_sub ..

/-- Each row of the table of two sources runs its lane result. -/
theorem exec_floatTable : ∀ r ∈ floatTable, ∀ t d a b bc s,
    exec (r.1 t d a b bc) s = fire (planOf t a b none (fpBeat wideFmt d bc r.2)) s := by
  simp only [floatTable, List.forall_mem_cons, List.not_mem_nil, false_imp_iff, implies_true, and_true]
  and_intros <;> exact fun _ _ _ _ _ _ => rfl

/-- Each row of the table of one source runs its lane result. -/
theorem exec_floatOne : ∀ r ∈ floatOne, ∀ t d a s,
    exec (r.1 t d a) s = fire (planOf t a none_ none (fpBeat wideFmt d false fun k x _ _ => r.2 k x)) s := by
  have hfabs : (fun k x => ⟨if (k.dec x).isZero then 0 else x % 2 ^ (k.f.w - 1), 0⟩) = laneFabs :=
    funext₂ fun k x => (laneFabs_eq k x).symm
  unfold floatOne
  rw [hfabs]
  simp only [List.forall_mem_cons, List.not_mem_nil, false_imp_iff, implies_true, and_true]
  and_intros <;> exact fun _ _ _ _ => rfl

theorem runs_ffma (t : Fin 64) (d : Fin 8) (a b : Opd) (bc : Bool) : Completes (.ffma t d a b bc) t a b (some d) [] one_
    (flanes wideFmt (.g d) bc (laneFma Config.fmaZeroInfNaN false)) :=
  completes_flanes (d := .g d) fun _ => rfl

theorem runs_ffms (t : Fin 64) (d : Fin 8) (a b : Opd) (bc : Bool) : Completes (.ffms t d a b bc) t a b (some d) [] one_
    (flanes wideFmt (.g d) bc (laneFma Config.fmaZeroInfNaN true)) :=
  completes_flanes (d := .g d) fun _ => rfl

theorem runs_fscl (t : Fin 64) (d : Dst) (a b : Opd) (bc : Bool) : Completes (.fscl t d a b bc) t a b none d.outs one_
    fun s bt =>
      let v := bt.fpResult wideFmt bc (fun _ => bt.bb.bits) fun k x y _ => laneFscl k x (sintOf k.f.w y)
      bt.deliver s d v.1 bt.T v.2 :=
  completes_of_sends (dst_nodup d) (fun _ => rfl) (fun _ _ _ => rfl) fun _ _ => deliver_sub ..

/-- Settles O5: each instruction's plan runs the form of its sources with the lane result of its table. -/
theorem floatLaneResults : Obligations.FloatLaneResults := by
  unfold Obligations.FloatLaneResults
  exact ⟨fun r hr t d a b bc => completes_flanes (exec_floatTable r hr t d a b bc),
    fun r hr t d a => completes_flanes (exec_floatOne r hr t d a), runs_ffma, runs_ffms, runs_fscl⟩

/-! ## Results under way (R222-R224) -/

/-- An instruction with two sources whose every beat puts a result under way, its credit taken on the outputs it goes to. -/
theorem completes_of_late {i : Instr} {t : Fin 64} {a b : Opd} {z : Option (Fin 8)} {d : Dst} {cyc : State → Beat → Nat}
    {beat : State → Beat → Carry → Out} {eff : State → Beat → State × List (Nat × Token)}
    (hexec : ∀ s, exec i s = fire (planOf t a b z beat) s)
    (hbeat : ∀ s bt c, beat s bt c = .go { s := (eff s bt).1, c := c, need := bt.lateNeed d, cyc := cyc s bt })
    (hquiet : ∀ s bt, (eff s bt).2 = []) : Completes i t a b z d.outs cyc eff := by
  refine (form_runBy_planOf t a b z d.outs beat).fires hexec fun s bt c _ _ => ⟨bt.lateNeed d, ?_, ?_⟩
  · simp only [each, hquiet]
    exact hbeat s bt c
  · simp only [each, hquiet]
    exact count_ok (dst_nodup d) (lateNeed_sub bt d)

/-- An instruction whose beat is a late lane result completes with it under way. -/
theorem completes_lateResult {i : Instr} {t : Fin 64} {d : Dst} {a b : Opd} {bc : Bool} {adm : Fmt → Option FFmt}
    {lat : Option Fmt → Nat × Nat} {op : FCtx → Nat → Nat → Nat → Lane}
    (hexec : ∀ s, exec i s = fire (planOf t a b none (fpLateBeat adm d bc lat op)) s) :
    Completes i t a b none d.outs (fun _ bt => (lat bt.F).2) fun s bt => late adm d bc (lat bt.F).1 op s bt :=
  completes_of_late hexec (fun _ _ _ => rfl) fun _ _ => rfl

theorem runs_fn1Table : ∀ r ∈ fn1Table, ∀ t d a, Completes (r.1 t d a) t a none_ none d.outs one_
    (late narrowFmt d false r.2.2 fun k x _ _ => fn1Lane r.2.1 k.f k.flush k.mode x) := by
  simp only [fn1Table, List.forall_mem_cons, List.not_mem_nil, false_imp_iff, implies_true, and_true]
  and_intros <;> exact fun _ _ _ => completes_lateResult (lat := latOf _) fun _ => rfl

/-- The latency of FSQRT and FDIV by the format, and their datapath cycles (R224). -/
theorem latWide_fst (n n64 : Nat) (f : Option Fmt) : (latWide n n64 f).1 = if f = some .fp64 then n64 else n := by
  unfold latWide
  split <;> rfl

theorem latWide_snd (n n64 : Nat) : (fun (_ : State) (bt : Beat) => (latWide n n64 bt.F).2) = four64 := by
  funext s bt
  unfold latWide four64
  split <;> rfl

theorem runs_fsqrt (t : Fin 64) (d : Dst) (a : Opd) : Completes (.fsqrt t d a) t a none_ none d.outs four64 fun s bt =>
    late wideFmt d false (if bt.F = some .fp64 then 36 else 12) (fun k x _ _ => fn1Lane .sqrt k.f k.flush k.mode x) s bt := by
  simp only [← latWide_snd 12 36, ← latWide_fst 12 36]
  exact completes_lateResult fun _ => rfl

theorem runs_fdiv (t : Fin 64) (d : Dst) (a b : Opd) (bc : Bool) : Completes (.fdiv t d a b bc) t a b none d.outs four64
    fun s bt => late wideFmt d bc (if bt.F = some .fp64 then 40 else 14) (fun k x y _ => laneFdiv k x y) s bt := by
  simp only [← latWide_snd 14 40, ← latWide_fst 14 40]
  exact completes_lateResult fun _ => rfl

/-- Settles O7: each instruction's plan runs the form of its sources and puts its lane result under way. -/
theorem lateFloatResults : Obligations.LateFloatResults := by
  unfold Obligations.LateFloatResults
  exact ⟨runs_fn1Table, runs_fsqrt, runs_fdiv⟩

/-! ## Floats and integers (R221) -/

/-- One beat of FTOI or ITOF for the pairs of formats `ok`: the lanes of F in the format of palette entry B[2:0]. -/
def convEffect (ok : Fmt → Fmt → Bool) (d : Dst) (s : State) (bt : Beat) : State × List (Nat × Token) :=
  let tt : BitVec 3 := bt.bb.bits.setWidth 3
  match bt.F, palFmt bt.pal tt.toNat with
  | some f, some g =>
    if ok f g then
      let ls := (List.range f.lanes).map fun i =>
        convertLane f g bt.flush bt.mode 0 (laneBits (bt.a.inFmt f) f.laneW i)
      bt.deliver s d (ofLanes g.laneW (ls.map Lane.bits)) tt (ls.foldl (fun fl r => fl ||| r.fl) 0)
    else bt.deliver s d 0 bt.T Flags.invalid
  | _, _ => bt.deliver s d 0 bt.T Flags.invalid

theorem deliver_convResult (ok : Fmt → Fmt → Bool) (d : Dst) (s : State) (bt : Beat) :
    bt.deliver s d (bt.convResult ok).1 (bt.convResult ok).2.1 (bt.convResult ok).2.2 = convEffect ok d s bt := by
  unfold Beat.convResult convEffect
  dsimp only
  cases bt.F with
  | none => rfl
  | some f =>
    cases palFmt bt.pal (bt.bb.bits.setWidth 3).toNat with
    | none => rfl
    | some g => dsimp only; cases ok f g <;> rfl

/-- An instruction whose beat is a conversion result completes with it. -/
theorem completes_conv {i : Instr} {t : Fin 64} {d : Dst} {a b : Opd} {ok : Fmt → Fmt → Bool}
    (hexec : ∀ s, exec i s = fire (planOf t a b none fun s bt c =>
      goSends c (bt.deliver s d (bt.convResult ok).1 (bt.convResult ok).2.1 (bt.convResult ok).2.2)) s) :
    Completes i t a b none d.outs one_ (convEffect ok d) := by
  refine completes_of_sends (dst_nodup d) hexec (fun s bt c => ?_) fun s bt => ?_
  · rw [deliver_convResult]
  · rw [← deliver_convResult]
    exact deliver_sub ..

/-- Settles O8: both plans run the form of their sources and deliver the conversion's result. -/
theorem floatIntegerConversions : Obligations.FloatIntegerConversions := by
  unfold Obligations.FloatIntegerConversions
  simp only [List.forall_mem_cons, List.not_mem_nil, false_imp_iff, implies_true, and_true]
  exact ⟨fun _ _ _ _ => completes_conv fun _ => rfl, fun _ _ _ _ => completes_conv fun _ => rfl⟩

end Sys2Proof.Spec
end

section
/-! PROOFS. The bricks: MAC, MACN and MACZ into accumulators and to the grid, loads of the micro-block, accumulators read out,
cleared and copied (R181, R214, R226-R231, R235, R236). -/

namespace Sys2Proof.Spec
open Machine

/-! ## MAC, MACN, MACZ (R227, R229, R231) -/

/-- One beat of MAC, MACN or MACZ works source A into its accumulator and holds the datapath for the cycles of its pairing. -/
theorem macBeat_eq (op : MacOp) (n : Fin 4) (wa wb : Fin 8) (s : State) (bt : Beat) (c : Carry) :
    macBeat op n wa wb s bt c = .go { s := (brick op n wa wb s bt).1, c := c, cyc := brickCycles wa wb s bt } := by
  unfold macBeat brick brickCycles
  cases bt.F with
  | none => rfl
  | some f => dsimp only; cases macFmt f <;> rfl

theorem brick_quiet (op : MacOp) (n : Fin 4) (wa wb : Fin 8) (s : State) (bt : Beat) : (brick op n wa wb s bt).2 = [] := by
  unfold brick
  repeat' split
  all_goals rfl

/-- An instruction whose beat is a brick operation completes with it. -/
theorem completes_brick {i : Instr} {t : Fin 64} {a : Opd} {op : MacOp} {n : Fin 4} {wa wb : Fin 8}
    (hexec : ∀ s, exec i s = fire (planOf t a none_ none (macBeat op n wa wb)) s) :
    Completes i t a none_ none [] (brickCycles wa wb) (brick op n wa wb) := by
  refine (form_runBy_planOf t a none_ none [] _).fires hexec fun s bt c _ _ => ⟨[], ?_, ?_⟩
  · simp only [planOf, each, brick_quiet, macBeat_eq]
  · simp [each, brick_quiet]

theorem runs_mac_acc (t : Fin 64) (n : Fin 4) (a : Opd) (wa wb : Fin 8) :
    Completes (.mac t (.acc n) a wa wb) t a none_ none [] (brickCycles wa wb) (brick .mac n wa wb) :=
  completes_brick fun _ => rfl

theorem runs_mac_out (t : Fin 64) (o : ODst) (a : Opd) (wa wb : Fin 8) :
    Completes (.mac t (.out o) a wa wb) t a none_ none (outsOf o) one_ fun s bt =>
      let k := bt.fwd bt.a
      (s, sendFwd (outsOf o)
        (if k.isData then { k with coord := (k.coord &&& 0xFFFFFFC0) ||| BitVec.ofNat 32 (8 * wa.val + wb.val) } else k)) :=
  completes_of_sends (outs_nodup o) (fun _ => rfl) (fun _ _ _ => rfl) fun _ _ => sendFwd_sub ..

theorem runs_macn (t : Fin 64) (n : Fin 4) (a : Opd) (wa wb : Fin 8) :
    Completes (.macn t n a wa wb) t a none_ none [] (brickCycles wa wb) (brick .macn n wa wb) :=
  completes_brick fun _ => rfl

theorem runs_macz (t : Fin 64) (n : Fin 4) (a : Opd) (wa wb : Fin 8) :
    Completes (.macz t n a wa wb) t a none_ none [] (brickCycles wa wb) (brick .macz n wa wb) :=
  completes_brick fun _ => rfl

/-! ## The micro-block (R228) -/

theorem wldBeat_eq (s : State) (bt : Beat) (c : Carry) :
    wldBeat s bt c = .go { s := (loaded s bt c).1, c := (loaded s bt c).2.2 } := by
  unfold wldBeat loaded
  by_cases h : bt.b = 0
  · simp only [h, decide_true, if_true]
    rfl
  · simp only [h, decide_false, Bool.false_eq_true, if_false]
    rfl

theorem runs_wld (t : Fin 64) (a b : Opd) : CompletesAtLast (.wld t a b) t a b none [] loaded :=
  completesAtLast_of_quiet (fun _ => rfl) wldBeat_eq fun _ _ _ => rfl

/-! ## Accumulators read out, cleared and copied (R235, R236) -/

theorem acrdBeat_eq (d : Dst) (n : Fin 4) (sr : Bool) (s : State) (bt : Beat) (c : Carry) :
    acrdBeat d n sr s bt c = .go { s := (readOut d n sr s bt).1, c := c, need := bt.lateNeed d } := by
  unfold acrdBeat readOut
  dsimp only
  cases palFmt bt.pal (BitVec.ofNat 3 (bt.bb.bits.toNat / 2 ^ 32)).toNat with
  | none => rfl
  | some g => dsimp only; cases acrdFmt g <;> rfl

theorem readOut_quiet (d : Dst) (n : Fin 4) (sr : Bool) (s : State) (bt : Beat) : (readOut d n sr s bt).2 = [] := by
  unfold readOut
  dsimp only
  repeat' split
  all_goals rfl

theorem runs_acrd (t : Fin 64) (d : Dst) (n : Fin 4) (b : Opd) (sr : Bool) :
    Completes (.acrd t d n b sr) t none_ b none d.outs one_ (readOut d n sr) :=
  completes_of_late (fun _ => rfl) (acrdBeat_eq d n sr) (readOut_quiet d n sr)

theorem runs_acclr (t : Fin 64) (n : Fin 4) :
    Completes (.acclr t n) t none_ none_ none [] one_ fun s bt => (bt.mod s fun y => y.setAcc n {}, []) :=
  completes_of_quiet (fun _ => rfl) fun _ _ _ => rfl

theorem runs_acmv (t : Fin 64) (n m : Fin 4) :
    Completes (.acmv t n m) t none_ none_ none [] one_ fun s bt => (bt.mod s fun y => y.setAcc n y.acc[m], []) :=
  completes_of_quiet (fun _ => rfl) fun _ _ _ => rfl

/-- Settles O9: each instruction's plan runs the form of its sources, and each of its beats has the effect of its rule. -/
theorem brickInstructions : Obligations.BrickInstructions := by
  unfold Obligations.BrickInstructions
  exact ⟨runs_mac_acc, runs_mac_out, runs_macn, runs_macz, runs_wld, runs_acrd, runs_acclr, runs_acmv⟩

end Sys2Proof.Spec
end

section
/-! PROOFS. Beats that deliver once or carry something to their firing's end; conversions and lanes that move: CVT, SCALE, QDEC,
PACK, UNPK, SHFL and BCST (R179, R181, R214, R237, R238, R240, R242, R243, R246). -/

namespace Sys2Proof.Spec
open Machine

/-! ## Beats that send, with what they carry -/

/-- What a beat comes to that sends and goes on carrying something. -/
def goes (r : State × List (Nat × Token) × Carry) : Out := .go { s := r.1, c := r.2.2, sends := r.2.1 }

theorem goSends_eq_goes (c : Carry) (r : State × List (Nat × Token)) : goSends c r = goes (andThen r c) := rfl

/-- How many tokens a beat may send at once is the form's affair; its plan is the same. -/
theorem Form.RunBy.withRoom {m : Form} {p : Plan} (h : m.RunBy p) (room : Bool → Nat) : { m with room := room : Form }.RunBy p where
  t := h.t
  a := h.a
  b := h.b
  dst := h.dst
  words := h.words
  taken := h.taken
  deqs := h.deqs
  fin := h.fin
  tokens := h.tokens

/-- An instruction with two sources that sends, after its last beat only, at most one token on each output. -/
theorem completesAtLast_of_sends {i : Instr} {t : Fin 64} {a b : Opd} {z : Option (Fin 8)} {outs : List Nat}
    {beat : State → Beat → Carry → Out} {eff : Effect} (hnodup : outs.Nodup)
    (hexec : ∀ s, exec i s = fire (planOf t a b z beat) s) (hbeat : ∀ s bt c, beat s bt c = goes (eff s bt c))
    (hsub : ∀ s bt c, ((eff s bt c).2.1.map Prod.fst).Sublist outs)
    (hlast : ∀ s bt c, bt.last = false → (eff s bt c).2.1 = []) : CompletesAtLast i t a b z outs eff := by
  refine ((form_runBy_planOf t a b z outs beat).withRoom _).fires hexec fun s bt c _ _ => ⟨[], hbeat s bt c, fun o => ?_⟩
  cases h : bt.last with
  | true => exact count_ok hnodup (by rw [List.append_nil]; exact hsub s bt c) o
  | false => simp [hlast s bt c h]

/-! ## The delivery of a firing that delivers once (R181, R246) -/

theorem seen_eq (bt : Beat) (c : Carry) : bt.seen c = { c with poison := firstPoison bt c } := by
  unfold Beat.seen firstPoison
  cases c.poison <;> rfl

theorem deliverOnce_eq (bt : Beat) (s : State) (d : Dst) (c : Carry) (v : Word) (tag : BitVec 3) (fl : Flags) :
    bt.deliverOnce s d c v tag fl = deliverLast d c.poison v tag fl s bt := by
  unfold Beat.deliverOnce deliverLast
  cases d <;> cases c.poison <;> rfl

theorem deliverLast_sub (d : Dst) (p : Option Token) (v : Word) (tag : BitVec 3) (fl : Flags) (s : State) (bt : Beat) :
    ((deliverLast d p v tag fl s bt).2.map Prod.fst).Sublist d.outs := by
  unfold deliverLast
  split
  · exact sendAll_sub _ (some _)
  · exact deliver_sub ..

/-- An instruction with two sources whose every beat delivers a result: its payload, tag and flags by the beat's case. -/
theorem completes_of_deliver {i : Instr} {t : Fin 64} {a b : Opd} {z : Option (Fin 8)} {d : Dst}
    {beat : State → Beat → Carry → Out} {eff : State → Beat → State × List (Nat × Token)}
    (hexec : ∀ s, exec i s = fire (planOf t a b z beat) s)
    (hbeat : ∀ s bt c, ∃ v tag fl, beat s bt c = goSends c (bt.deliver s d v tag fl) ∧ eff s bt = bt.deliver s d v tag fl) :
    Completes i t a b z d.outs one_ eff := by
  refine completes_of_sends (dst_nodup d) hexec (fun s bt c => ?_) fun s bt => ?_
  · obtain ⟨v, tag, fl, hgo, heff⟩ := hbeat s bt c
    rw [hgo, heff]
  · obtain ⟨v, tag, fl, -, heff⟩ := hbeat s bt {}
    rw [heff]
    exact deliver_sub ..

/-! ## CVT (R237) -/

/-- The delivery of a beat of CVT, of what its lanes came to: payload, tag, flags, state, and the payload under way. -/
def cvtDelivery (d : Dst) (bt : Beat) (c : Carry) (v : Word × BitVec 3 × Flags × State × List Word) :
    State × List (Nat × Token) × Carry :=
  let step := (CvtCtl.of bt.bb.bits).step
  let c := { c with ws := v.2.2.2.2, poison := if step = 1 then firstPoison bt c else c.poison }
  if step ≠ 1 then andThen (bt.deliver v.2.2.2.1 d v.1 v.2.1 v.2.2.1) c
  else if bt.last then andThen (deliverLast d c.poison v.1 v.2.1 v.2.2.1 v.2.2.2.1 bt) c
  else (bt.raise v.2.2.2.1 (v.2.2.1 ||| bt.poisonFlag), [], c)

theorem converted_eq (d : Dst) (sr : Bool) (s : State) (bt : Beat) (c : Carry) :
    converted d sr s bt c = cvtDelivery d bt c (cvtLanesOf d sr s bt c) := rfl

/-- The payload a beat goes on from: what its firing has gathered, under step 1 after the first beat. -/
theorem cvt_start (step b : Nat) (x y : Word) :
    (if (decide (step ≠ 1) || b == 0) = true then x else y) = if step = 1 ∧ b ≠ 0 then y else x := by
  by_cases h : step = 1 <;> by_cases h' : b = 0 <;> simp [h, h']

/-- The model's delivery of a beat of CVT, the first poison operand noted under step 1. -/
def cvtGive (d : Dst) (bt : Beat) (s : State) (c : Carry) (v : Word) (tag : BitVec 3) (fl : Flags) : Out :=
  if (CvtCtl.of bt.bb.bits).step ≠ 1 then goSends c (bt.deliver s d v tag fl)
  else if bt.last then goSends c (bt.deliverOnce s d c v tag fl)
  else .go { s := bt.raise s (fl ||| bt.poisonFlag), c := c }

theorem cvtGive_eq (d : Dst) (bt : Beat) (s : State) (c : Carry) (v : Word) (tag : BitVec 3) (fl : Flags) (ws : List Word) :
    cvtGive d bt s { (if (CvtCtl.of bt.bb.bits).step = 1 then bt.seen c else c) with ws := ws } v tag fl =
      goes (cvtDelivery d bt c (v, tag, fl, s, ws)) := by
  unfold cvtGive cvtDelivery
  by_cases hstep : (CvtCtl.of bt.bb.bits).step = 1
  · cases hlast : bt.last <;> simp [hstep, deliverOnce_eq, seen_eq, goSends_eq_goes, goes]
  · simp [hstep, goSends_eq_goes]

/-- What a firing has gathered stands there whether or not it notes a poison operand. -/
theorem cvt_carry_ws (bt : Beat) (c : Carry) (step : Nat) : (if step = 1 then bt.seen c else c).ws = c.ws := by
  split <;> rfl

theorem cvtBeat_eq (d : Dst) (sr : Bool) (s : State) (bt : Beat) (c : Carry) :
    cvtBeat d sr s bt c = goes (converted d sr s bt c) := by
  have hkept (v : Word) (tag : BitVec 3) (fl : Flags) :
      cvtGive d bt s (if (CvtCtl.of bt.bb.bits).step = 1 then bt.seen c else c) v tag fl =
        goes (cvtDelivery d bt c (v, tag, fl, s, c.ws)) := by
    rw [← cvtGive_eq, ← cvt_carry_ws bt c (CvtCtl.of bt.bb.bits).step]
  rw [converted_eq]
  unfold cvtBeat cvtLanesOf
  simp only [cvt_carry_ws, cvt_start]
  cases bt.F with
  | none => exact hkept ..
  | some f =>
    cases palFmt bt.pal (CvtCtl.of bt.bb.bits).t.toNat with
    | none => exact hkept ..
    | some g =>
      by_cases hstep : (CvtCtl.of bt.bb.bits).step = 3
      · simp only [if_pos hstep]
        exact hkept ..
      by_cases hraw : f = .raw64 ∨ g = .raw64
      · simp only [if_neg hstep, if_pos hraw]
        exact cvtGive_eq ..
      by_cases hpair : cvtPair f g = true
      · simp only [if_neg hstep, if_neg hraw, if_pos hpair]
        exact cvtGive_eq ..
      · simp only [if_neg hstep, if_neg hraw, if_neg hpair]
        exact hkept ..

theorem converted_sub (d : Dst) (sr : Bool) (s : State) (bt : Beat) (c : Carry) :
    ((converted d sr s bt c).2.1.map Prod.fst).Sublist d.outs := by
  rw [converted_eq]
  unfold cvtDelivery
  dsimp only
  split
  · exact deliver_sub ..
  split
  · exact deliverLast_sub ..
  · exact List.nil_sublist _

theorem runs_cvt (t : Fin 64) (d : Dst) (a b : Opd) (sr : Bool) :
    Fires (.cvt t d a b sr) (form t a b d.reg? d.outs) (fun _ _ _ => True) one_ (converted d sr) := by
  refine (form_runBy_planOf t a b d.reg? d.outs (cvtBeat d sr)).fires (fun _ => rfl) fun s bt c _ _ => ⟨[], cvtBeat_eq .., ?_⟩
  exact count_ok (dst_nodup d) (by rw [List.append_nil]; exact converted_sub ..)

/-! ## SCALE (R238) -/

/-- One beat of SCALE: every lane times a power of two, where F is admitted. -/
def scaled (d : Dst) (s : State) (bt : Beat) : State × List (Nat × Token) :=
  match bt.F with
  | some f =>
    if scaleFmt f then
      let ls := (laneList bt f).map (scaleLane f bt.flush bt.mode (bt.bb.bits.toNat % 256))
      give d (ofLanes f.laneW (ls.map Lane.bits)) bt.T (ls.foldl (fun fl r => fl ||| r.fl) 0) s bt
    else refused d s bt
  | none => refused d s bt

/-- The lanes of source A scaled, as a list. -/
theorem scaleAll_eq (f : Fmt) (e : Nat) (bt : Beat) : scaleAll f bt.flush bt.mode e (bt.a.inFmt f) =
    let ls := (laneList bt f).map (scaleLane f bt.flush bt.mode e)
    (ofLanes f.laneW (ls.map Lane.bits), ls.foldl (fun fl r => fl ||| r.fl) 0) := by
  simp only [scaleAll, laneList, List.map_map]
  rfl

theorem runs_scale (t : Fin 64) (d : Dst) (a b : Opd) : Completes (.scale t d a b) t a b none d.outs one_ (scaled d) := by
  refine completes_of_deliver (fun _ => rfl) fun s bt c => ?_
  unfold scaled
  cases bt.F with
  | none => exact ⟨_, _, _, rfl, rfl⟩
  | some f =>
    simp only [scaleAll_eq]
    cases scaleFmt f <;> exact ⟨_, _, _, rfl, rfl⟩

/-! ## QDEC (R240) -/

/-- One beat of QDEC: sixteen bits for each of the four codes that source B names. -/
def qdecoded (d : Dst) (s : State) (bt : Beat) : State × List (Nat × Token) :=
  match bt.F, twinTag bt.pal .int16 with
  | some .qn4, some tw =>
    give d (ofLanes 16 ((List.range 4).map fun j =>
      toBitsN 16 (qn4 (laneBits (bt.a.inFmt .qn4) 4 (4 * (bt.bb.bits.toNat % 4) + j))))) tw 0 s bt
  | _, _ => refused d s bt

theorem runs_qdec (t : Fin 64) (d : Dst) (a b : Opd) : Completes (.qdec t d a b) t a b none d.outs one_ (qdecoded d) := by
  refine completes_of_deliver (fun _ => rfl) fun s bt c => ?_
  unfold qdecoded
  cases bt.F with
  | none => exact ⟨_, _, _, rfl, rfl⟩
  | some f => cases twinTag bt.pal .int16 <;> cases f <;> exact ⟨_, _, _, rfl, rfl⟩

/-! ## PACK and UNPK (R242) -/

theorem loVal_le_hiVal (f : Fmt) : f.loVal ≤ f.hiVal := by
  unfold Fmt.loVal Fmt.hiVal
  split
  · exact unsignedRange_nonempty _
  · exact signedRange_nonempty _

/-- A whole number needs no rounding: it is clamped, with saturation where that changes it (R39). -/
theorem roundClamp_int {lo hi : Int} (h : lo ≤ hi) (v : Int) : roundClamp .rne 0 (decide (v < 0)) v.natAbs 0 0 lo hi =
    (max lo (min v hi), if lo ≤ v ∧ v ≤ hi then 0 else Flags.saturation) := by
  have hexact : (if v.natAbs = 0 then (0, false) else roundAt .rne (decide (v < 0)) 0 v.natAbs 0 0) = (v.natAbs, false) := by
    by_cases h0 : v.natAbs = 0 <;> simp [h0, roundAt]
  have hsign : (if decide (v < 0) = true then -(v.natAbs : Int) else v.natAbs) = v := by
    simp only [decide_eq_true_eq]
    omega
  simp only [roundClamp, hexact, hsign]
  by_cases hin : lo ≤ v ∧ v ≤ hi
  · simp [hin, Flags.when]
  · simp [mt (clamp_eq_self_iff h v).mp hin, if_neg hin, Flags.when]

/-- A flag that any of some values raises is raised once. -/
theorem foldl_flag_unless {α : Type} (p : α → Bool) (x : Flags) (l : List α) (fl : Flags) :
    l.foldl (fun fl v => fl ||| if p v then 0 else x) fl = fl ||| if l.all p then 0 else x := by
  induction l generalizing fl with
  | nil => simp
  | cons v l ih =>
    rw [List.foldl_cons, ih, List.all_cons, BitVec.or_assoc]
    cases p v <;> cases l.all p <;> simp

/-- One beat of PACK: the lanes of both sources clamped into lanes of half the width. -/
def packed (d : Dst) (s : State) (bt : Beat) : State × List (Nat × Token) :=
  match bt.F.bind fun f => (packTo f).bind fun g => (twinTag bt.pal g).map fun tw => (f, g, tw) with
  | none => refused d s bt
  | some (f, g, tw) =>
    let vs := ([bt.a, bt.bb].map fun o => (List.range f.lanes).map fun i => intLane f (laneBits (o.inFmt f) f.laneW i)).flatten
    give d (ofLanes g.laneW (vs.map fun v => toBitsN g.laneW (max g.loVal (min v g.hiVal)))) tw
      (bt.mismatchFlag ||| if vs.all fun v => decide (g.loVal ≤ v ∧ v ≤ g.hiVal) then 0 else Flags.saturation) s bt

theorem runs_pack (t : Fin 64) (d : Dst) (a b : Opd) : Completes (.pack t d a b) t a b none d.outs one_ (packed d) := by
  refine completes_of_deliver (fun _ => rfl) fun s bt c => ?_
  unfold packed
  cases bt.F.bind fun f => (packTo f).bind fun g => (twinTag bt.pal g).map fun tw => (f, g, tw) with
  | none => exact ⟨_, _, _, rfl, rfl⟩
  | some r =>
    obtain ⟨f, g, tw⟩ := r
    refine ⟨_, _, _, ?_, rfl⟩
    have hflag := foldl_flag_unless (fun v : Int => decide (g.loVal ≤ v ∧ v ≤ g.hiVal)) Flags.saturation
    simp only [roundClamp_int (loVal_le_hiVal g)]
    simp only [← hflag, decide_eq_true_eq, List.map_cons, List.map_nil, List.flatten_cons, List.flatten_nil, List.append_nil,
      List.map_append, List.foldl_append, List.map_map, List.foldl_map]
    rfl

/-- One beat of UNPK: one half of the lanes of source A in lanes of twice the width. -/
def unpacked (d : Dst) (s : State) (bt : Beat) : State × List (Nat × Token) :=
  match bt.F.bind fun f => (unpkTo f).bind fun g => (twinTag bt.pal g).map fun tw => (f, g, tw) with
  | none => refused d s bt
  | some (f, g, tw) =>
    give d (ofLanes g.laneW ((List.range (f.lanes / 2)).map fun i => toBitsN g.laneW
      (intLane f (laneBits (bt.a.inFmt f) f.laneW (bt.bb.bits.toNat % 2 * (f.lanes / 2) + i))))) tw 0 s bt

theorem runs_unpk (t : Fin 64) (d : Dst) (a b : Opd) : Completes (.unpk t d a b) t a b none d.outs one_ (unpacked d) := by
  refine completes_of_deliver (fun _ => rfl) fun s bt c => ?_
  unfold unpacked
  cases bt.F.bind fun f => (unpkTo f).bind fun g => (twinTag bt.pal g).map fun tw => (f, g, tw) <;> exact ⟨_, _, _, rfl, rfl⟩

/-! ## SHFL and BCST (R243) -/

/-- One beat that moves lanes of source A to where `idx` says, an index past the lanes giving zero. -/
def moved (d : Dst) (idx : Word → Nat → Nat) (s : State) (bt : Beat) : State × List (Nat × Token) :=
  match bt.F with
  | none => refused d s bt
  | some f =>
    let wl := moveLanes f
    give d (ofLanes wl.1 ((List.range wl.2).map fun i =>
      if idx bt.bb.bits i < wl.2 then laneBits (bt.a.inFmt f) wl.1 (idx bt.bb.bits i) else 0)) bt.T 0 s bt

/-- An instruction whose beat moves lanes completes with them. -/
theorem completes_moved {i : Instr} {t : Fin 64} {d : Dst} {a b : Opd} {idx : Word → Nat → Nat}
    (hexec : ∀ s, exec i s = fire (planOf t a b none (moveBeat d idx)) s) :
    Completes i t a b none d.outs one_ (moved d idx) := by
  refine completes_of_deliver hexec fun s bt c => ?_
  unfold moveBeat moved
  cases bt.F <;> exact ⟨_, _, _, rfl, rfl⟩

theorem runs_moves : ∀ r ∈ ([(Instr.shfl, fun w i => laneBits w 4 i), (.bcst, fun w _ => laneBits w 4 0)] :
    List ((Fin 64 → Dst → Opd → Opd → Instr) × (Word → Nat → Nat))),
    ∀ t d a b, Completes (r.1 t d a b) t a b none d.outs one_ (moved d r.2) := by
  simp only [List.forall_mem_cons, List.not_mem_nil, false_imp_iff, implies_true, and_true]
  exact ⟨fun _ _ _ _ => completes_moved fun _ => rfl, fun _ _ _ _ => completes_moved fun _ => rfl⟩

/-- Settles O10: each instruction's plan runs the form of its sources, and each of its beats delivers the lanes of its rule. -/
theorem conversionsAndLaneMoves : Obligations.ConversionsAndLaneMoves := by
  unfold Obligations.ConversionsAndLaneMoves
  exact ⟨runs_cvt, runs_scale, runs_qdec, runs_pack, runs_unpk, runs_moves⟩

end Sys2Proof.Spec
end

section
/-! PROOFS. Reductions, shared exponents and block codes: RMAX, RSUM, RSEX, MXS and QENC (R181, R214, R239, R241, R244-R246). -/

namespace Sys2Proof.Spec
open Machine

/-! ## RMAX and RSUM (R244, R246) -/

theorem redBeat_eq (adm : Fmt → Bool) (step : Fmt → Bool → RMode → Option Nat → Nat → Lane) (d : Dst) (s : State) (bt : Beat)
    (c : Carry) : redBeat adm step d s bt c = goes (reduced adm step d s bt c) := by
  unfold redBeat reduced
  simp only [seen_eq, deliverOnce_eq, filter_eq_bind, ite_not]
  cases bt.F.filter adm with
  | none => cases bt.last <;> rfl
  | some f => cases bt.last <;> cases c.ok <;> rfl

theorem reduced_sub (adm : Fmt → Bool) (step : Fmt → Bool → RMode → Option Nat → Nat → Lane) (d : Dst) (s : State) (bt : Beat)
    (c : Carry) : ((reduced adm step d s bt c).2.1.map Prod.fst).Sublist d.outs := by
  unfold reduced
  cases bt.F.filter adm with
  | none =>
    cases bt.last with
    | true => exact deliverLast_sub ..
    | false => exact List.nil_sublist _
  | some f =>
    cases bt.last with
    | true => cases c.ok <;> exact deliverLast_sub ..
    | false => exact List.nil_sublist _

theorem reduced_quiet (adm : Fmt → Bool) (step : Fmt → Bool → RMode → Option Nat → Nat → Lane) (d : Dst) (s : State) (bt : Beat)
    (c : Carry) (h : bt.last = false) : (reduced adm step d s bt c).2.1 = [] := by
  unfold reduced
  rw [h]
  cases bt.F.filter adm <;> rfl

/-- An instruction whose beat reduces lanes completes with one delivery. -/
theorem completes_reduced {i : Instr} {t : Fin 64} {d : Dst} {a : Opd} {adm : Fmt → Bool}
    {step : Fmt → Bool → RMode → Option Nat → Nat → Lane}
    (hexec : ∀ s, exec i s = fire (planOf t a none_ d.reg? (redBeat adm step d)) s) :
    CompletesAtLast i t a none_ d.reg? d.outs (reduced adm step d) :=
  completesAtLast_of_sends (dst_nodup d) hexec (redBeat_eq adm step d) (reduced_sub adm step d) (reduced_quiet adm step d)

theorem runs_rmax (t : Fin 64) (d : Dst) (a : Opd) :
    CompletesAtLast (.rmax t d a) t a none_ d.reg? d.outs (reduced (fun f => f.isWide || f.isInt) rmaxStep d) :=
  completes_reduced fun _ => rfl

theorem runs_rsum (t : Fin 64) (d : Dst) (a : Opd) :
    CompletesAtLast (.rsum t d a) t a none_ d.reg? d.outs (reduced Fmt.isWide rsumStep d) :=
  completes_reduced fun _ => rfl

/-! ## RSEX (R245) -/

/-- A format is admitted to FP32 arithmetic if it is narrow. -/
theorem narrow_eq_filter (o : Option Fmt) :
    (o.bind fun f => (narrowFmt f).map fun _ => f) = o.filter fun f => (narrowFmt f).isSome := by
  cases o with
  | none => rfl
  | some f => cases h : narrowFmt f <;> simp [Option.filter, h]

theorem rsexBeat_eq (n : Fin 8) (s : State) (bt : Beat) (c : Carry) : rsexBeat n s bt c = goes (softmax n s bt c) := by
  unfold rsexBeat softmax
  simp only [narrow_eq_filter, ite_not, laneList, List.map_map]
  cases bt.F.filter fun f => (narrowFmt f).isSome with
  | none => cases bt.last <;> rfl
  | some f =>
    cases twinTag bt.pal .fp32 with
    | none => cases bt.last <;> rfl
    | some tw => cases bt.last <;> cases c.ok <;> rfl

theorem softmax_quiet (n : Fin 8) (s : State) (bt : Beat) (c : Carry) : (softmax n s bt c).2.1 = [] := by
  unfold softmax
  dsimp only
  repeat' split
  all_goals rfl

theorem runs_rsex (t : Fin 64) (n : Fin 8) (a : Opd) : CompletesAtLast (.rsex t n a) t a none_ (some n) [] (softmax n) :=
  completesAtLast_of_sends List.nodup_nil (fun _ => rfl) (rsexBeat_eq n)
    (fun s bt c => by rw [softmax_quiet]; exact List.nil_sublist _) fun s bt c _ => softmax_quiet n s bt c

/-- Settles O11: each reduction's plan runs the form of its source and delivers after its last beat only. -/
theorem reductions : Obligations.Reductions := by
  unfold Obligations.Reductions
  exact ⟨runs_rmax, runs_rsum, runs_rsex⟩

/-! ## MXS (R239) -/

/-- A data head `k` of format `f` scaled by the shared exponent of its channel, which a burst head brings. -/
def mxScaled (d : Dst) (ch : Fin 4) (k : Token) (f : Fmt) (s : State) (bt : Beat) : State × List (Nat × Token) :=
  let s := if k.isHead then bt.mod s fun y => { y with mx := y.mx.set ch (k.coord.setWidth 8) } else s
  let ls := (List.range f.lanes).map fun i =>
    scaleLane f bt.flush bt.mode ((s.elem bt.u bt.e).mx[ch]).toNat (laneBits k.payload f.laneW i)
  let v := ofLanes f.laneW (ls.map Lane.bits)
  let s := bt.raise s (ls.foldl (fun fl r => fl ||| r.fl) 0)
  match d with
  | .g n => (bt.mod s fun y => y.setG n v bt.T, [])
  | .out o => (s, (outsOf o).map fun j => (j, ⟨k.mark, bt.T, k.coord &&& 0xFFFFFF00, v⟩))
  | .z => (s, [])

/-- One beat of MXS on channel `ch`. -/
def mxsEffect (d : Dst) (ch : Fin 4) (s : State) (bt : Beat) : State × List (Nat × Token) :=
  match bt.a.tok with
  | none => (s, [])
  | some k =>
    if k.isData = false then bt.forward s d bt.a
    else
      match bt.F with
      | none => refused d s bt
      | some f => if mxsEntry bt.pal bt.T.toNat then mxScaled d ch k f s bt else refused d s bt

theorem mxScaled_sub (d : Dst) (ch : Fin 4) (k : Token) (f : Fmt) (s : State) (bt : Beat) :
    ((mxScaled d ch k f s bt).2.map Prod.fst).Sublist d.outs := by
  cases d with
  | g n => exact List.nil_sublist _
  | out o => exact sendAll_sub o (some _)
  | z => exact List.nil_sublist _

theorem mxsEffect_sub (d : Dst) (ch : Fin 4) (s : State) (bt : Beat) :
    ((mxsEffect d ch s bt).2.map Prod.fst).Sublist d.outs := by
  unfold mxsEffect
  split
  · exact List.nil_sublist _
  split
  · exact forward_sub ..
  split
  · exact deliver_sub ..
  split
  · exact mxScaled_sub ..
  · exact deliver_sub ..

/-- A beat of MXS whose channel has a head goes. -/
theorem mxsBeat_eq (d : Dst) (ch : Fin 4) (s : State) (bt : Beat) (c : Carry) (h : bt.a.tok.isSome = true) :
    mxsBeat d ch s bt c = goSends c (mxsEffect d ch s bt) := by
  obtain ⟨k, hk⟩ := Option.isSome_iff_exists.mp h
  unfold mxsBeat mxsEffect
  simp only [hk]
  cases k.isData with
  | false => rfl
  | true =>
    cases bt.F with
    | none => rfl
    | some f => cases mxsEntry bt.pal bt.T.toNat <;> cases d <;> rfl

theorem runs_mxs (t : Fin 64) (d : Dst) (a : Fin 4) (pk : Bool) :
    Runs (.mxs t d a pk) (form t ⟨.ch a, pk⟩ none_ none d.outs) (fun _ bt => bt.a.tok.isSome = true) one_ (mxsEffect d a) :=
  (form_runBy_planOf t ⟨.ch a, pk⟩ none_ none d.outs (mxsBeat d a)).runs_of_sends rfl (dst_nodup d) (fun _ => rfl)
    (fun s bt c h => mxsBeat_eq d a s bt c h) (mxsEffect_sub d a)

/-- Settles O12: MXS's plan runs the form of its channel; each of its beats scales a data head and forwards a mark head. -/
theorem sharedExponentScaling : Obligations.SharedExponentScaling := by
  unfold Obligations.SharedExponentScaling
  exact runs_mxs

/-! ## QENC (R241, R246) -/

/-- The formats of weights (R241). -/
theorem narrowFmt_isSome_iff (f : Fmt) : (narrowFmt f).isSome = true ↔ f = .fp32 ∨ f = .fp16 ∨ f = .bf16 := by
  cases f <;> decide

/-- Tokens sent each on all of some outputs. -/
theorem count_sendAll {outs : List Nat} (hnodup : outs.Nodup) (toks : List Token) (o : Nat) :
    (((toks.map fun k => outs.map fun o => (o, k)).flatten).filter fun q => q.1 = o).length ≤
      if o ∈ outs then toks.length else 0 := by
  induction toks with
  | nil => simp
  | cons k toks ih =>
    have hone := count_ok (l := outs.map fun o => (o, k)) (n := []) hnodup (by simp [Function.comp_def]) o
    simp only [List.filter_nil, List.length_nil, Nat.add_zero] at hone
    rw [List.map_cons, List.flatten_cons, List.filter_append, List.length_append, List.length_cons]
    by_cases ho : o ∈ outs
    · rw [if_pos ho] at hone ih ⊢
      omega
    · rw [if_neg ho] at hone ih ⊢
      omega

theorem qencBeat_eq {f : Fmt} {tw : BitVec 3} (d : ODst) (sr : Bool) (s : State) (bt : Beat) (c : Carry) (hf : bt.F = some f)
    (hadm : f = .fp32 ∨ f = .fp16 ∨ f = .bf16) (htw : twinTag bt.pal .qn4 = some tw) : qencBeat d sr s bt c =
      .go { s := (coded d sr f tw s bt c).1, c := (coded d sr f tw s bt c).2.2, sends := (coded d sr f tw s bt c).2.1,
            cyc := if bt.last then 5 else 1 } := by
  have hnarrow : (bt.F.bind fun f => (narrowFmt f).map fun _ => f) = some f := by
    rw [narrow_eq_filter, hf]
    simp [(narrowFmt_isSome_iff f).mpr hadm]
  have hsame (n : Nat) (tok : Option Token) : firstPoison bt { c with n := n, tok := tok } = firstPoison bt c := rfl
  have hodd : Flags.when (decide (bt.n * f.lanes ≠ 64)) Flags.invalid = if bt.n * f.lanes = 64 then 0 else Flags.invalid := by
    by_cases h : bt.n * f.lanes = 64 <;> simp [Flags.when, h]
  unfold qencBeat coded
  simp only [hnarrow, htw, seen_eq, hodd, laneList, List.map_map]
  cases bt.last with
  | false => by_cases hb : bt.b = 0 <;> simp only [hb, if_true, if_false, hsame] <;> rfl
  | true =>
    by_cases hb : bt.b = 0 <;> simp only [hb, if_true, if_false, hsame] <;> cases firstPoison bt c <;> rfl

theorem coded_room (d : ODst) (sr : Bool) (f : Fmt) (tw : BitVec 3) (s : State) (bt : Beat) (c : Carry) (o : Nat) :
    ((coded d sr f tw s bt c).2.1.filter fun q => q.1 = o).length ≤
      if o ∈ outsOf d then (if bt.last then 4 else 0) else 0 := by
  unfold coded
  cases bt.last with
  | false => simp
  | true => exact count_sendAll (outs_nodup d) _ o

theorem runs_qenc (t : Fin 64) (d : ODst) (a b : Opd) (sr : Bool) (f : Fmt) (tw : BitVec 3) :
    Fires (.qenc t d a b sr) { form t a b none (outsOf d) with room := fun last => if last then 4 else 0 }
      (fun _ bt _ => bt.F = some f ∧ (f = .fp32 ∨ f = .fp16 ∨ f = .bf16) ∧ twinTag bt.pal .qn4 = some tw)
      (fun _ bt => if bt.last then 5 else 1) (coded d sr f tw) := by
  refine ((form_runBy_planOf t a b none (outsOf d) (qencBeat d sr)).withRoom _).fires (fun _ => rfl) fun s bt c _ hok => ?_
  obtain ⟨hf, hadm, htw⟩ := hok
  exact ⟨[], qencBeat_eq d sr s bt c hf hadm htw, coded_room d sr f tw s bt c⟩

theorem runs_qenc_refused (t : Fin 64) (d : ODst) (a b : Opd) (sr : Bool) :
    Runs (.qenc t d a b sr) (form t a b none (outsOf d))
      (fun _ bt => (∀ f, bt.F = some f → ¬(f = .fp32 ∨ f = .fp16 ∨ f = .bf16)) ∨ twinTag bt.pal .qn4 = none) one_
      (refused (.out d)) := by
  refine (form_runBy_planOf t a b none (outsOf d) (qencBeat d sr)).runs_of_sends rfl (outs_nodup d) (fun _ => rfl)
    (fun s bt c hbad => ?_) fun s bt => deliver_sub bt s (.out d) 0 bt.T Flags.invalid
  simp only [planOf, qencBeat, narrow_eq_filter]
  rcases hbad with hfmt | htw
  · have hnone : (bt.F.filter fun f => (narrowFmt f).isSome) = none := by
      rw [Option.filter_eq_none_iff]
      exact fun f hf => mt (narrowFmt_isSome_iff f).mp (hfmt f hf)
    simp only [hnone]
    rfl
  · simp only [htw]
    cases bt.F.filter fun f => (narrowFmt f).isSome <;> rfl

/-- Settles O13: QENC's plan runs the form of its sources; a block leaves after the last beat, or each beat is refused. -/
theorem blockCoding : Obligations.BlockCoding := by
  unfold Obligations.BlockCoding
  exact ⟨runs_qenc, runs_qenc_refused⟩

end Sys2Proof.Spec
end

section
/-! PROOFS. Results that come later: late results, requests set aside at tiles, predicates in stages B and C and in the reorder
window, the poison of a dropped copy (R67, R224, R253, R297, R298, R304, R315, R316, R406). -/

namespace Sys2Proof.Machine

/-! ## Late results (R67, R224) -/

/-- Register `n` after a write of it that ends its being pending (R66, R67). -/
theorem Elem.g_pendG_setG_self (y : Elem) (n : Fin 8) (v : Word) (tag : BitVec 3) :
    ((y.setG n v tag).pendG n false).g[n] = { y.g[n] with val := v, tag := tag, present := true, pending := false } := by
  simp [Elem.pendG, Elem.setG]

theorem Elem.g_pendG_setG_ne (y : Elem) {n m : Fin 8} (h : m ≠ n) (v : Word) (tag : BitVec 3) :
    ((y.setG n v tag).pendG n false).g[m] = y.g[m] := by
  have hne : n.val ≠ m.val := fun heq => h (Fin.ext heq.symm)
  simp [Elem.pendG, Elem.setG, hne]

/-- The last late result of a register is written there, with its flags, and the register is pending no more. -/
theorem State.writeLate_reg {l : Late} {k : Token} {n : Fin 8} (htok : l.tok = some k) (hdst : l.dst = .reg n)
    (hlast : l.last = true) (x : UnitSt) (e : Nat) : State.writeLate x e l =
      x.setElem e (({ x.elem e with fl := (x.elem e).fl ||| l.fl }.setG n k.payload k.tag).pendG n false) := by
  simp only [State.writeLate, htok, hdst, hlast, if_true]

section inUnit
variable {s : State} {u e i : Nat} {x : UnitSt}

theorem execLateResultWrite_due {l : Late} {k : Token} (hx : s.placed? u = some x) (hl : (x.elem e).late[i]? = some l)
    (htok : l.tok = some k) (hdue : l.due ≤ s.clk.cyc) (hfirst : firstThere (x.elem e).late i l.dst = true) :
    execLateResultWrite u e i s =
      .next (s.setUnit u (State.writeLate (x.setElem e { x.elem e with late := listDel (x.elem e).late i }) e l)) := by
  simp [execLateResultWrite, inSection_placed hx, hl, htok, hdue, hfirst]

/-! ## Requests set aside (R253) -/

theorem execFeWaitComplete_ready {t : Nat} {w : MemReq} (hx : s.placed? u = some x) (hw : (x.tile t).waiting[i]? = some w)
    (hready : w.op.ready (x.tile t) w.word = true) (hahead : aheadOf (x.tile t) i w = false)
    (hgood : State.badWord x w = false) : execFeWaitComplete u t i s =
      .next ((s.setUnit u (x.setTile t { x.tile t with waiting := listDel (x.tile t).waiting i })).perform u w) := by
  simp [execFeWaitComplete, inSection_placed hx, hw, hready, hahead, hgood]

/-! ## Predicates (R297, R298, R304, R315, R316) -/

section stageB
variable {g : GeoInst} (hx : s.placed? u = some x) (hg : (x.elem e).win[i]? = some g) (hstage : g.stage = .inB)
  (hdue : g.due ≤ s.clk.cyc) (hfirst : (((x.elem e).win.take i).any fun h => h.stage == .inB) = false)

include hstage hdue hfirst in
/-- Nothing keeps the first predicate in stage B there once its time is over (R297, R315). -/
theorem stageB_over :
    (g.stage != .inB || decide (s.clk.cyc < g.due) || (((x.elem e).win.take i).any fun h => h.stage == .inB)) = false := by
  rw [hfirst, hstage, decide_eq_false (Nat.not_lt.mpr hdue)]
  rfl

include hx hg hstage hdue hfirst

/-- The first predicate in stage B, its time over, is settled where stage B decides it. -/
theorem execStageBResult_decided {v : Int × Nat} (hv : decideInst g.pred g.sym .b g.pts = some v) :
    execStageBResult u e i s = .next (s.setUnit u (settleInst x e i g s.clk.cyc v)) := by
  simp only [execStageBResult, inSection_placed hx, hg, stageB_over hstage hdue hfirst, hv, Bool.false_eq_true, if_false]

/-- Where stage B does not decide it, its request joins the queue of the exact unit. -/
theorem execStageBResult_escalated (hv : decideInst g.pred g.sym .b g.pts = none) : execStageBResult u e i s =
    .next (exactJoin (s.setUnit u (x.setElem e { x.elem e with
      win := listUpd (x.elem e).win i fun h => { h with stage := .inC } })) (x.blockOf e) u e g.due) := by
  simp only [execStageBResult, inSection_placed hx, hg, stageB_over hstage hdue hfirst, hv, Bool.false_eq_true, if_false]

end stageB

theorem execExactUnitResult_head {b at_ : Nat} {rest : List (Nat × Nat × Nat)} {g : GeoInst} {v : Int × Nat}
    (hq : s.exact.getD b [] = (u, e, at_) :: rest) (hx : s.placed? u = some x)
    (hg : (x.elem e).win[(x.elem e).win.findIdx fun (g : GeoInst) => g.stage == GeoStage.inC]? = some g)
    (hv : decideInst g.pred g.sym .c g.pts = some v) (hbefore : exactBefore s b u e at_ = false) :
    execExactUnitResult b s = .next ({ s with exact := s.exact.put b rest [] }.setUnit u
      (settleInst x e ((x.elem e).win.findIdx fun (g : GeoInst) => g.stage == GeoStage.inC) g s.clk.cyc v)) := by
  simp only [execExactUnitResult, hq, hbefore, Bool.false_eq_true, if_false, hx, hg, hv]

/-- The window without its oldest predicate: the next one's token leaves in a later cycle (R304). -/
def windowRest (now : Nat) (rest : List GeoInst) : List GeoInst :=
  match rest with
  | h :: q => { h with due := max h.due (now + 1) } :: q
  | [] => []

theorem execPredicateResultSend_due {g : GeoInst} {t : Token} {rest : List GeoInst} (hx : s.placed? u = some x)
    (hwin : (x.elem e).win = g :: rest) (hstage : g.stage = .known t) (hdue : g.due ≤ s.clk.cyc)
    (hcredit : ∀ o ∈ outsOf g.dst, x.credit e o 1 = true) : execPredicateResultSend u e s =
      .next (s.setUnit u ((outsOf g.dst).foldl (fun z o => z.send e o t)
        (x.setElem e { x.elem e with win := windowRest s.clk.cyc rest }))) := by
  have hnow : ¬ s.clk.cyc < g.due := Nat.not_lt.mpr hdue
  have hall : ((outsOf g.dst).all fun o => x.credit e o 1) = true := List.all_eq_true.mpr hcredit
  simp only [execPredicateResultSend, inSection_placed hx, hwin, hstage, hnow, hall, decide_false, Bool.not_true, Bool.or_self,
    Bool.false_eq_true, if_false]
  rfl

end inUnit

/-! ## Poison of a dropped copy (R406) -/

theorem execGuardPoisonReturn_due {s : State} {i : Nat} {g : GuardPoison} (hg : s.guards.get? i = some g) (hdue : g.due ≤ s.clk.cyc) :
    execGuardPoisonReturn i s =
      .next ({ s with guards := s.guards.erase i }.complete g.u g.bind g.num g.doneB (Token.poison 0x29 0)) := by
  simp only [execGuardPoisonReturn, hg, if_neg (Nat.not_lt.mpr hdue)]

end Sys2Proof.Machine

namespace Sys2Proof.Spec
open Machine

/-- A late result of a register, written: the register, the flags, and the other registers as they were. -/
theorem execLateResultWrite_reg {s : State} {u e i : Nat} {x : UnitSt} {l : Late} {k : Token} {n : Fin 8}
    (hx : s.placed? u = some x) (hl : (x.elem e).late[i]? = some l) (htok : l.tok = some k) (hdue : l.due ≤ s.clk.cyc)
    (hfirst : firstThere (x.elem e).late i l.dst = true) (hdst : l.dst = .reg n) (hlast : l.last = true) :
    ∃ r, exec (.lateResultWrite u e i) s = .next r ∧
      (r.elem u e).g[n].val = k.payload ∧ (r.elem u e).g[n].present = true ∧ (r.elem u e).g[n].pending = false ∧
      (r.elem u e).g[n].tag = k.tag ∧ (r.elem u e).fl = (x.elem e).fl ||| l.fl ∧
      ∀ m : Fin 8, m ≠ n → (r.elem u e).g[m] = (x.elem e).g[m] := by
  refine ⟨_, execLateResultWrite_due hx hl htok hdue hfirst, ?_⟩
  rw [State.elem_of_unit (State.unit?_setUnit_self ..), State.writeLate_reg htok hdst hlast, UnitSt.elem_setElem_self,
    UnitSt.elem_setElem_self, Elem.g_pendG_setG_self]
  exact ⟨rfl, rfl, rfl, rfl, rfl, fun m hm => Elem.g_pendG_setG_ne _ hm _ _⟩

/-- Settles O37: each event does what its rule says where its conditions hold. -/
theorem resultEvents : Obligations.ResultEvents := by
  unfold Obligations.ResultEvents
  refine ⟨fun s u e i x l k n => execLateResultWrite_reg, fun s u e i x l k => execLateResultWrite_due,
    fun s u t i x w => execFeWaitComplete_ready, fun s u e i x g hx hg hstage hdue hfirst => ?_,
    fun s b u e at_ rest x g v => execExactUnitResult_head, fun s u e x g t rest hx hwin hstage hdue hcredit => ?_,
    fun s i g => execGuardPoisonReturn_due⟩
  · exact ⟨fun v => execStageBResult_decided hx hg hstage hdue hfirst, execStageBResult_escalated hx hg hstage hdue hfirst⟩
  · exact execPredicateResultSend_due hx hwin hstage hdue hcredit

end Sys2Proof.Spec
end
section
/-! PROOFS. Accesses to memory tiles that complete (R250-R260); CINV, CWB, CHOLD, CFREE and LDW (R255, R265-R268). -/

namespace Sys2Proof.Spec
open Machine

/-! ## Loads, stores and PUSH where their address leads (R250-R256) -/

/-- What every load of class 4, and POP, is: a firing of one plan. -/
theorem loads_plan : ∀ r ∈ ([(Instr.ld, MemOp.ld), (.lds, .lds), (.lde, .lde), (.pop, .pop)] :
      List ((Fin 64 → Dst → Opd → Instr) × MemOp)),
    ∀ (t : Fin 64) (d : Dst) (a : Opd) (s : State),
      exec (r.1 t d a) s = fire (planOf t a none_ none (memBeat r.2 0 a.src (some d) addrTag 4 plainReq)) s := by
  intro r hr
  simp only [List.mem_cons, List.not_mem_nil, or_false] at hr
  rcases hr with rfl | rfl | rfl | rfl <;> exact fun _ _ _ _ => rfl

/-- What every store of class 4 is: a firing of one plan, and no operation on a FIFO. -/
theorem stores_plan : ∀ r ∈ ([(Instr.st, MemOp.st), (.stf, .stf), (.ste, .ste)] :
      List ((Fin 64 → Fin 4 → Opd → Opd → Instr) × MemOp)),
    (∀ (t : Fin 64) (n : Fin 4) (a b : Opd) (s : State),
      exec (r.1 t n a b) s = fire (planOf t a b none (memBeat r.2 n.val a.src none addrTag 0 withData)) s) ∧
    r.2 ≠ .push ∧ r.2 ≠ .pop := by
  intro r hr
  simp only [List.mem_cons, List.not_mem_nil, or_false] at hr
  rcases hr with rfl | rfl | rfl <;> exact ⟨fun _ _ _ _ _ => rfl, by decide, by decide⟩

/-- Settles O14: each plan runs the form of its sources, and its beat has the effect of its operation at its spot. -/
theorem tileAccessesComplete : Obligations.TileAccessesComplete := by
  unfold Obligations.TileAccessesComplete
  refine ⟨fun r hr t d a => ?_, fun r hr t n a b => ?_, fun t n a b => ?_⟩
  · exact (form_runBy_planOf t a none_ none d.outs _).runs_of_does (loads_plan r hr t d a) (load_does r.2 t d a)
  · obtain ⟨hexec, hop⟩ := stores_plan r hr
    exact (form_runBy_planOf t a b none [] _).runs_of_does (hexec t n a b) (store_does hop t n a b)
  · exact (form_runBy_planOf t a b none [] _).runs_of_does (fun _ => rfl) (push_does t n a b)

/-! ## Atomics in one format (R258-R260) -/

theorem Form.Does.congr {m : Form} {p : Plan} {ok ok' : State → Beat → Prop}
    {eff eff' : State → Beat → State × List (Nat × Token)}
    (h : m.Does p (plainly ok) one_ (each eff)) (hok : ∀ s bt, ok' s bt → ok s bt ∧ eff s bt = eff' s bt) :
    m.Does p (plainly ok') one_ (each eff') := by
  intro s bt c hunit hok'
  obtain ⟨hold, heff⟩ := hok s bt hok'
  have hdo := h s bt c hunit hold
  simp only [each, heff] at hdo
  exact hdo

theorem admitted_iff {adm : Fmt → Bool} {f : Fmt} {bt : Beat} : admitted adm f bt ↔ bt.F.filter adm = some f := by
  rw [admitted, Option.filter_eq_some_iff]

/-- An atomic in a format it admits. -/
theorem atomic_admitted {op : MemOp} {adm : Fmt → Bool} {f : Fmt} {s : State} {bt : Beat}
    (h : admitted adm f bt) (d : Dst) (a : Src) :
    atomic op adm d a s bt = atomicIn op f d a s bt := by
  simp only [atomic, admitted_iff.mp h]

theorem atomic_refused {op : MemOp} {adm : Fmt → Bool} {s : State} {bt : Beat}
    (h : ¬∃ f, admitted adm f bt) (d : Dst) (a : Src) :
    atomic op adm d a s bt = atomicZero op d a s bt := by
  have hnone : bt.F.filter adm = none := Option.eq_none_iff_forall_ne_some.mpr fun f hf => h ⟨f, admitted_iff.mpr hf⟩
  simp only [atomic, hnone]

section atomicDoes
variable {op : MemOp} (hop : op ≠ .push ∧ op ≠ .pop) (adm : Fmt → Bool) (t : Fin 64) (d : Dst) (a b : Opd)
  (z : Option (Fin 8))
include hop

theorem atomicIn_does (f : Fmt) : (form t a b z d.outs).Does (planOf t a b z (amoBeat op adm a.src d))
    (plainly fun s bt => leads op 0 a.src s bt ∧ admitted adm f bt) one_ (each (atomicIn op f d a.src)) :=
  (atomic_does hop adm t d a b z).congr fun s bt ⟨hlead, hadm⟩ => by
    obtain ⟨p, x, hspot, hrest⟩ := hlead
    exact ⟨⟨⟨p, hspot⟩, fun _ => ⟨p, x, hspot, hrest⟩⟩, atomic_admitted hadm d a.src⟩

theorem atomicZero_does : (form t a b z d.outs).Does (planOf t a b z (amoBeat op adm a.src d))
    (plainly fun s bt => (∃ p, spot op a.src s bt = some p) ∧ ¬∃ f, admitted adm f bt) one_ (each (atomicZero op d a.src)) :=
  (atomic_does hop adm t d a b z).congr fun _ _ ⟨hspot, hadm⟩ =>
    ⟨⟨hspot, fun hne => (hadm <| (Option.ne_none_iff_exists'.mp hne).imp fun _ => admitted_iff.mpr).elim⟩,
      atomic_refused hadm d a.src⟩

end atomicDoes

/-- Settles O15: every atomic is a firing of one plan, whose beat goes by whether its format is admitted. -/
theorem tileAtomicsComplete : Obligations.TileAtomicsComplete := by
  unfold Obligations.TileAtomicsComplete
  have hcas : MemOp.amoCas ≠ .push ∧ MemOp.amoCas ≠ .pop := by decide
  refine ⟨fun r hr t d a b f => ?_, fun t n a b f => ?_, fun r hr t d a b => ?_, fun t n a b => ?_⟩
  · obtain ⟨hexec, hop⟩ := atomics_plan r hr
    exact (form_runBy_planOf t a b none d.outs _).runs_of_does (hexec t d a b) (atomicIn_does hop r.2.2 t d a b none f)
  · refine (form_runBy_planOf t a b (some n) [] _).runs_of_does (fun _ => rfl)
      ((atomicIn_does hcas (fun _ => true) t (.g n) a b (some n) f).congr fun _ _ ⟨hlead, hf⟩ => ?_)
    exact ⟨⟨hlead, hf, rfl⟩, rfl⟩
  · obtain ⟨hexec, hop⟩ := atomics_plan r hr
    exact (form_runBy_planOf t a b none d.outs _).runs_of_does (hexec t d a b) (atomicZero_does hop r.2.2 t d a b none)
  · refine (form_runBy_planOf t a b (some n) [] _).runs_of_does (fun _ => rfl)
      ((atomicZero_does hcas (fun _ => true) t (.g n) a b (some n)).congr fun _ _ ⟨hspot, hf⟩ => ?_)
    exact ⟨⟨hspot, fun ⟨f, hsome, _⟩ => by rw [hf] at hsome; cases hsome⟩, rfl⟩

/-! ## CINV, CWB, CHOLD, CFREE and LDW (R265-R268) -/

theorem rangeAddr_eq (bt : Beat) : vaOf bt.a.bits 0 = rangeAddr bt := by
  simp [vaOf, rangeAddr]

theorem windowTrap_unmoved (aligned : Bool) : Unmoved (windowTrap aligned) := fun s bt g => by simp [windowTrap]

section walk
variable (wb : Bool) (t : Fin 64) (a b : Opd)

theorem walk_does : (form t a b none []).Does (planOf t a b none (walkBeat wb))
    (plainly fun s bt => noWindow s bt ∧ rangeAddr bt % 8 = 0) one_ (each (walking wb)) :=
  does_quiet fun s bt c x hx ⟨hwin, halign⟩ => by
    have hwin : (s.cfgOf bt.u).window = false := hwin
    simp only [planOf, walkBeat, rangeAddr_eq, halign, Beat.cfgOf_raise, hwin, ne_eq, not_true_eq_false,
      Bool.false_eq_true, if_false]
    exact ⟨rfl, rfl⟩

theorem walk_trapsAt : TrapsAt (planOf t a b none (walkBeat wb)) (windowTrap true) := by
  intro s bt c cause va _ hbad
  simp only [planOf, walkBeat, rangeAddr_eq, Beat.cfgOf_raise]
  unfold windowTrap at hbad
  split at hbad
  · rename_i halign
    cases hbad
    rw [if_pos halign.2]
  · rename_i halign
    obtain ⟨hwin, heq⟩ := Option.ite_none_right_eq_some.mp hbad
    cases heq
    rw [if_neg fun h => halign ⟨rfl, h⟩, if_pos hwin]

end walk

section retain
variable (len : Beat → Nat) (t : Fin 64) (a b : Opd)

theorem retain_does : (form t a b none []).Does (planOf t a b none (retainBeat len)) (plainly noWindow) one_
    (each (retaining len)) :=
  does_quiet fun s bt c x hx hwin => by
    have hwin : (s.cfgOf bt.u).window = false := hwin
    simp only [planOf, retainBeat, rangeAddr_eq, Beat.cfgOf_raise, hwin, Bool.false_eq_true, if_false]
    exact ⟨rfl, rfl⟩

theorem retain_trapsAt : TrapsAt (planOf t a b none (retainBeat len)) (windowTrap false) := by
  intro s bt c cause va _ hbad
  simp only [windowTrap, Bool.false_eq_true, false_and, if_false] at hbad
  obtain ⟨hwin, heq⟩ := Option.ite_none_right_eq_some.mp hbad
  cases heq
  simp only [planOf, retainBeat, rangeAddr_eq, Beat.cfgOf_raise, hwin, if_true]

end retain

/-- A virtual address that is not aligned (R268). -/
def unaligned (a : Src) (_ : State) (bt : Beat) : Option (Nat × Nat) :=
  if virtAddr a bt % 8 ≠ 0 then some (0x22, virtAddr a bt) else none

section ldw
variable (t : Fin 64) (d : Dst) (a : Opd)

theorem ldw_does : (form t a none_ none d.outs).Does (planOf t a none_ none (ldwBeat a.src d))
    (plainly fun _ bt => virtAddr a.src bt % 8 = 0) one_ (each (wordLoad d a.src)) :=
  does_late fun s bt c x hx halign => by
    have hva : vaOf bt.a.bits (bt.step8 a.src) = virtAddr a.src bt := rfl
    simp only [planOf, ldwBeat, hva, halign, ne_eq, not_true_eq_false, if_false]
    exact ⟨rfl, rfl⟩

theorem ldw_trapsAt : TrapsAt (planOf t a none_ none (ldwBeat a.src d)) (unaligned a.src) := by
  intro s bt c cause va _ hbad
  have hva : vaOf bt.a.bits (bt.step8 a.src) = virtAddr a.src bt := rfl
  obtain ⟨halign, heq⟩ := Option.ite_none_right_eq_some.mp hbad
  cases heq
  simp only [planOf, ldwBeat, hva, if_pos halign]

end ldw

/-- Settles O19: each plan runs the form of its sources; its beat has the effect above or traps where the section is in window
mode or its address is misaligned. -/
theorem cacheControl : Obligations.CacheControl := by
  unfold Obligations.CacheControl
  refine ⟨fun r hr t a b => ?_, fun t a b => ?_, fun t a => ?_, fun t d a => ?_⟩
  · have hexec : ∀ s, exec (r.1 t a b) s = fire (planOf t a b none (walkBeat r.2)) s := by
      simp only [List.mem_cons, List.not_mem_nil, or_false] at hr
      rcases hr with rfl | rfl <;> exact fun _ => rfl
    have hrun := form_runBy_planOf t a b none [] (walkBeat r.2)
    exact ⟨hrun.runs_of_does hexec (walk_does r.2 t a b),
      hrun.traps hexec (walk_does r.2 t a b) (walk_trapsAt r.2 t a b) (windowTrap_unmoved true)⟩
  · have hrun := form_runBy_planOf t a b none [] (retainBeat fun bt => bt.bb.bits.toNat % 2 ^ 40)
    exact ⟨hrun.runs_of_does (fun _ => rfl) (retain_does _ t a b),
      hrun.traps (fun _ => rfl) (retain_does _ t a b) (retain_trapsAt _ t a b) (windowTrap_unmoved false)⟩
  · have hrun := form_runBy_planOf t a none_ none [] (retainBeat fun _ => 0)
    exact ⟨hrun.runs_of_does (fun _ => rfl) (retain_does _ t a none_),
      hrun.traps (fun _ => rfl) (retain_does _ t a none_) (retain_trapsAt _ t a none_) (windowTrap_unmoved false)⟩
  · have hrun := form_runBy_planOf t a none_ none d.outs (ldwBeat a.src d)
    exact ⟨hrun.runs_of_does (fun _ => rfl) (ldw_does t d a),
      hrun.traps (fun _ => rfl) (ldw_does t d a) (ldw_trapsAt t d a) fun _ _ _ => rfl⟩

end Sys2Proof.Spec
end
section
/-! PROOFS. BRD, TBLB, RIDQ and RCAN (R252, R270-R274); CPY and COLL (R279, R280, R405, R406); WREM and SNDM (R282, R283, R339,
R394). -/

namespace Sys2Proof.Spec
open Machine

/-! ## A trap that leaves what its plan says -/

/-- Where `bad` names a state, a cause, an address and flags, a beat of `p` traps with them, and raises those flags from the state
before the beat as from the one in which the beat has its effect. -/
structure TrapsWith (m : Form) (p : Plan) (bad : State → Beat → Carry → Option (State × Nat × Nat × Flags)) : Prop where
  trap : ∀ s bt c s' cause va fl, bad s bt c = some (s', cause, va, fl) → p.beat s bt c = .trap s' cause bt.b va
  raised : ∀ s f n b bt c s' cause va fl, (s.unit? f.u).isSome = true → bt.u = f.u → bt.e = f.e →
    bad (m.pre s f n b) bt c = some (s', cause, va, fl) → raisedBy (fun t => p.beat t bt c) s f.u f.e = fl

/-- A PLAN THAT TRAPS WITH WHAT `bad` NAMES: its earlier beats go. -/
theorem Form.RunBy.traps_with {m : Form} {p : Plan} (h : m.RunBy p) {i : Instr} {ok : State → Beat → Carry → Prop}
    {cyc : State → Beat → Nat} {eff : Effect} {bad : State → Beat → Carry → Option (State × Nat × Nat × Flags)}
    (hexec : ∀ s, exec i s = fire p s) (hdo : m.Does p ok cyc eff) (hbad : TrapsWith m p bad) : Traps i m ok cyc eff bad := by
  intro s s' f x y k cause va fl hfresh n cap at_ hk hgoes hy hready hb hcan
  have hn : Trig.n ((x.elem f.e).trigger p.t) = n := by rw [h.t]
  have hcap : p.capture (x.elem f.e) f.slot = cap := h.capture_eq _ _
  have hunit : ((at_ k).1.unit? f.u).isSome = true := by rw [hy]; rfl
  have hraised := hbad.raised _ f n k (m.beat (at_ k).1 f n k cap) _ s' cause va fl hunit rfl rfl hb
  have htrap := hbad.trap _ _ _ _ _ _ _ hb
  rw [hexec, fire_trap hfresh.focus hfresh.unit hfresh.elem hfresh.fresh hn hcap at_ (by rw [h.t]; rfl) hk ?_
    (h.tokens _ (by rwa [State.elem_of_unit hy])) (by rw [h.beatOf_eq, h.taken]; exact htrap) hcan, h.beatOf_eq, hraised]
  · rfl
  · intro b hlt
    obtain ⟨⟨z, hz, hsrcs, hroom⟩, hok⟩ := hgoes b hlt
    obtain ⟨need, hgo, hsent⟩ := hdo _ (m.beat (at_ b).1 f n b cap) (at_ b).2 (m.pre_isSome (by rw [hz]; rfl)) hok
    rw [h.beatOf_eq, h.taken, h.deqs]
    exact ⟨h.tokens _ (by rwa [State.elem_of_unit hz]), _, hgo, Done.credit_upto hz m.outs hroom hsent, rfl⟩

/-! ## BRD (R252, R270, R271) -/

theorem brdForm_runBy (k : RKind) (t : Fin 64) (n : Fin 32) (a b : Src) : (brdForm t a b).RunBy (brdPlan k t n a b) where
  t := rfl
  a := rfl
  b := rfl
  dst := rfl
  words := rfl
  taken := rfl
  deqs := rfl
  fin := rfl
  tokens _ _ := rfl

theorem withKind_eq (k : RKind) (bt : Beat) : withKind (bt.cap.words.getD 0 0) k = riderWord k bt := rfl

/-- A BRD whose packet can go: it goes. -/
theorem brd_does (k : RKind) (t : Fin 64) (n : Fin 32) (a b : Src) :
    (brdForm t a b).Does (brdPlan k t n a b) (plainly (boards k n)) one_ (each (packetSent k n)) :=
  does_quiet fun s bt c x _ ⟨hdone, hdeliv, hfree⟩ => by
    have hdeliv : (k.delivers ((riderWord k bt).toNat / 2 ^ 60) &&
        (s.cfgOf bt.u).unbound ((bt.cap.words.getD 1 0).toNat / 2 ^ 37 % 32)) = false := by
      cases hk : k.delivers ((riderWord k bt).toNat / 2 ^ 60) with
      | false => rfl
      | true => exact hdeliv hk
    simp only [brdPlan, brdBeat, withKind_eq, hfree, hdone, hdeliv, Bool.not_true, Bool.or_self, Bool.false_eq_true, if_false]
    exact ⟨rfl, rfl⟩

/-- Whether a BRD may send looks at no element. -/
@[simp] theorem brdFree_modElem (s : State) (u e v n : Nat) (k : RKind) (g : Elem → Elem) :
    brdFree (s.modElem u e g) v n k = brdFree s v n k := by
  by_cases hv : v = u
  · subst hv
    unfold brdFree
    rw [State.unit?_modElem_self]
    cases s.unit? v <;> rfl
  · unfold brdFree
    rw [State.unit?_modElem_ne _ _ _ hv]
    rfl

@[simp] theorem strays_modElem (s : State) (bt : Beat) (u e : Nat) (k : RKind) (g : Elem → Elem) :
    strays k (s.modElem u e g) bt = strays k s bt := by simp [strays]

/-- A BRD that names a binding that is not bound traps where it could be sent. -/
theorem brdBeat_strays {k : RKind} {n : Fin 32} {s : State} {bt : Beat} (hfree : brdFree s bt.u n k = true)
    (hstrays : strays k s bt = true) (c : Carry) : brdBeat k n s bt c = .trap s 0x24 bt.b 0 := by
  simp only [strays] at hstrays
  simp only [brdBeat, withKind_eq, hfree, hstrays, Bool.not_true, Bool.false_eq_true, if_false, if_true]

/-- The trap of a BRD that names a binding that is not bound (R270). -/
def strayTrap (k : RKind) (n : Fin 32) (s : State) (bt : Beat) (_ : Carry) : Option (State × Nat × Nat × Flags) :=
  if brdFree s bt.u n k = true ∧ strays k s bt = true then some (s, 0x24, 0, 0) else none

theorem strayTrap_eq_some {k : RKind} {n : Fin 32} {s s' : State} {bt : Beat} {c : Carry} {cause va : Nat} {fl : Flags}
    (h : strayTrap k n s bt c = some (s', cause, va, fl)) :
    brdFree s bt.u n k = true ∧ strays k s bt = true ∧ s' = s ∧ cause = 0x24 ∧ va = 0 ∧ fl = 0 := by
  obtain ⟨⟨hfree, hstrays⟩, heq⟩ := Option.ite_none_right_eq_some.mp h
  cases heq
  exact ⟨hfree, hstrays, rfl, rfl, rfl, rfl⟩

theorem strays_pre (k : RKind) (n : Fin 32) (m : Form) (s : State) (f : Focus) (len b : Nat) (bt : Beat) :
    brdFree (m.pre s f len b) bt.u n k = brdFree s bt.u n k ∧ strays k (m.pre s f len b) bt = strays k s bt := by
  unfold Form.pre clearTaken
  repeat' split
  all_goals simp

theorem brd_trapsWith (k : RKind) (t : Fin 64) (n : Fin 32) (a b : Src) :
    TrapsWith (brdForm t a b) (brdPlan k t n a b) (strayTrap k n) where
  trap s bt c s' cause va fl h := by
    obtain ⟨hfree, hstrays, rfl, rfl, rfl, rfl⟩ := strayTrap_eq_some h
    exact brdBeat_strays hfree hstrays c
  raised s f len i bt c s' cause va fl hunit hu he h := by
    obtain ⟨hfree, hstrays, -, -, -, rfl⟩ := strayTrap_eq_some h
    rw [(strays_pre k n _ s f len i bt).1] at hfree
    rw [(strays_pre k n _ s f len i bt).2] at hstrays
    obtain ⟨x, hx⟩ := Option.isSome_iff_exists.mp hunit
    have htrap : brdBeat k n (s.modElem f.u f.e fun y => { y with fl := 0 }) bt c = _ :=
      brdBeat_strays (by simpa using hfree) (by simpa using hstrays) c
    simp only [raisedBy, brdPlan, htrap, State.elem_modElem_self hx]

theorem brdTable_plan : ∀ r ∈ brdTable, ∀ (t : Fin 64) (n : Fin 32) (a b : Src) (s : State),
    exec (r.1 t n a b) s = fire (brdPlan r.2 t n a b) s := by
  intro r hr
  simp only [brdTable, List.mem_cons, List.not_mem_nil, or_false] at hr
  rcases hr with rfl | rfl | rfl | rfl | rfl | rfl | rfl <;> exact fun _ _ _ _ _ => rfl

/-- Settles O22: each BRD is a firing of one plan, whose beat sends its packet or traps for a binding that is not bound. -/
theorem ridersBoard : Obligations.RidersBoard := by
  unfold Obligations.RidersBoard
  intro r hr t n a b
  have hexec := brdTable_plan r hr t n a b
  have hrun := brdForm_runBy r.2 t n a b
  exact ⟨hrun.runs_of_does hexec (brd_does r.2 t n a b),
    hrun.traps_with hexec (brd_does r.2 t n a b) (brd_trapsWith r.2 t n a b)⟩

/-! ## Instructions with a register pair in source A (R252) -/

/-- The plan of an instruction with a register pair in source A, whose beat is `beat`. -/
def pairPlan (t : Fin 64) (a b : Src) (beat : State → Beat → Carry → Out) : Plan :=
  { t := t, b := b, words := regRun 2 a, takes := (a.take?).toList ++ pairTakes a, beat := beat }

theorem pairForm_runBy (t : Fin 64) (a b : Src) (beat : State → Beat → Carry → Out) :
    (pairForm t a b).RunBy (pairPlan t a b beat) where
  t := rfl
  a := rfl
  b := rfl
  dst := rfl
  words := rfl
  taken := rfl
  deqs := by cases b <;> rfl
  fin := rfl
  tokens y hready := by
    have hb : y.tokReady b = true := hready b (.head _)
    simp only [Plan.tokens, pairPlan, hb]
    rfl

/-! ## TBLB, RIDQ and RCAN (R272-R274) -/

/-- A list of answers, all of them given, is the list of what they are. -/
theorem mapM_range_ok {ε α : Type} {f : Nat → Except ε α} {l : List α} {d : α}
    (h : ∀ i < l.length, f i = .ok (l.getD i d)) : (List.range l.length).mapM f = .ok l := by
  have key : ∀ (m : List α) (k : Nat), (∀ i < m.length, f (k + i) = .ok (m.getD i d)) →
      (List.range' k m.length).mapM f = .ok m := by
    intro m
    induction m with
    | nil => exact fun _ _ => rfl
    | cons v m ih =>
      intro k hm
      have h0 : f k = .ok v := hm 0 (Nat.succ_pos _)
      have hrest := ih (k + 1) fun i hi => by
        rw [Nat.add_assoc, Nat.add_comm 1 i]
        exact hm (i + 1) (Nat.succ_lt_succ hi)
      simp only [List.length_cons, List.range'_succ, List.mapM_cons, h0, hrest]
      rfl
  rw [List.range_eq_range']
  exact key l 0 fun i hi => by rw [Nat.zero_add]; exact h i hi

theorem wordsAt_ok {c : SecCfg} {a : Nat} {ps : List (Nat × Nat)}
    (h : ∀ i < ps.length, c.access .ld a (8 * i) = .at_ (ps.getD i (0, 0)).1 (ps.getD i (0, 0)).2) :
    c.wordsAt a ps.length = .ok ps :=
  mapM_range_ok (d := (0, 0)) fun i hi => by simp only [h i hi]

/-- A TBLB whose row leads to words that can be read and to which nothing of its element is under way: the row is sent. -/
theorem tblbBeat_row {n : Fin 32} {s : State} {bt : Beat} {x : UnitSt} {ps : List (Nat × Nat)} (hx : s.unit? bt.u = some x)
    (hlen : ps.length = 256)
    (hat : ∀ i < 256, x.cfg.access .ld (bt.bb.bits.toNat % 2 ^ 32) (8 * i) = .at_ (ps.getD i (0, 0)).1 (ps.getD i (0, 0)).2)
    (hgood : ∀ p ∈ ps, (x.tile p.1).bad.contains p.2 = false ∧ tileBusy x bt.e p.1 = false)
    (hroom : (x.bindSt n).packets.length < 16) (c : Carry) : tblbBeat n s bt c =
      .go { s := (bt.raise s bt.poisonFlag).sendPacket bt.u n
              { id := 0, e := bt.e, slot := bt.slot, tblb := true, w0 := bt.cap.words.getD 0 0, w1 := bt.cap.words.getD 1 0
                par := [], row := ps.map fun p => (x.tile p.1).word p.2 }, c := c, cyc := 256 } := by
  have hwords : x.cfg.wordsAt (bt.bb.bits.toNat % 2 ^ 32) 256 = .ok ps := hlen ▸ wordsAt_ok (hlen ▸ hat)
  have hidle : ((ps.map Prod.fst).eraseDups.any fun t => tileBusy x bt.e t) = false := by
    refine List.any_eq_false.mpr fun t ht => ?_
    obtain ⟨p, hp, rfl⟩ := List.mem_map.mp (List.mem_eraseDups.mp ht)
    simp [(hgood p hp).2]
  have hread : (ps.any fun p => (x.tile p.1).bad.contains p.2) = false :=
    List.any_eq_false.mpr fun p hp => by rw [(hgood p hp).1]; exact Bool.false_ne_true
  simp only [tblbBeat, hx, if_neg (Nat.not_le.mpr hroom), hwords, hidle, hread, Bool.false_eq_true, if_false]

/-- A request for an answer at the next boundary of a class; class 3 there is none (R273). -/
def answerAsked (s : State) (bt : Beat) : State :=
  let v := bt.a.bits.toNat
  let s := bt.raise s bt.poisonFlag
  if v / 2 ^ 8 % 4 = 3 then bt.raise s Flags.invalid
  else { s with sweep := { s.sweep with ridq := s.sweep.ridq ++
    [{ u := bt.u, bind := v % 32, tag := BitVec.ofNat 3 (v / 32), cls := v / 2 ^ 8 % 4 }] } }

theorem runs_ridq (t : Fin 64) (n : Fin 32) (a : Src) :
    Runs (.ridq t n a) (oneForm t a []) always one_ fun s bt => (answerAsked s bt, []) := by
  refine (form_runBy_planOf t ⟨a, false⟩ none_ none [] _).runs_quiet (fun _ => rfl) fun s bt c _ _ => ?_
  simp only [planOf, answerAsked]
  split <;> rfl

theorem runs_rcan (t : Fin 64) (n : Fin 32) (a : Src) :
    Runs (.rcan t n a) (oneForm t a []) always one_ fun s bt =>
      (rcan (bt.raise s bt.poisonFlag) bt.u n.val (bt.a.bits.toNat % 32), []) :=
  (form_runBy_planOf t ⟨a, false⟩ none_ none [] _).runs_quiet (fun _ => rfl) fun _ _ _ _ _ => rfl

/-- Settles O23: TBLB's plan reads its row in its one beat, RIDQ's and RCAN's have the effects above. -/
theorem riderControl : Obligations.RiderControl := by
  unfold Obligations.RiderControl
  refine ⟨fun t n a b x ps => ?_, runs_ridq, runs_rcan⟩
  refine (pairForm_runBy t a b (tblbBeat n)).fires (fun _ => rfl) fun s bt c _ hok => ⟨[], ?_, fun _ => Nat.zero_le _⟩
  obtain ⟨hx, hlen, hat, hgood, hroom⟩ := hok
  exact tblbBeat_row hx hlen hat hgood hroom c

/-! ## CPY and COLL (R279, R280, R405, R406) -/

/-- A beat that neither sends nor takes credit, of a plan that runs a form. -/
theorem Form.RunBy.runs_idle {m : Form} {p : Plan} (h : m.RunBy p) {i : Instr} {ok : State → Beat → Prop}
    {cyc : State → Beat → Nat} {eff : State → Beat → State × List (Nat × Token)} (hexec : ∀ s, exec i s = fire p s)
    (hbeat : ∀ s bt c, ok s bt → p.beat s bt c = .go { s := (eff s bt).1, c := c, cyc := cyc s bt } ∧ (eff s bt).2 = []) :
    Runs i m ok cyc eff :=
  h.fires hexec fun s bt c _ hok => by
    obtain ⟨hgo, hsends⟩ := hbeat s bt c hok
    refine ⟨[], ?_, ?_⟩
    · simp only [each, hsends]
      exact hgo
    · simp [each, hsends]

/-- Settles O25: each plan runs a pair and a source; its beat looks at the guard or the budget and sends. -/
theorem copiesAndCollectives : Obligations.CopiesAndCollectives := by
  unfold Obligations.CopiesAndCollectives
  refine ⟨fun t n a b x => ?_, fun t n a b x => ?_⟩
  · refine (pairForm_runBy t a b (cpyBeat n)).runs_idle (fun _ => rfl) fun s bt c hx => ⟨?_, rfl⟩
    have hx : s.unit? bt.u = some x := hx
    simp only [pairPlan, cpyBeat, hx]
    split
    · rename_i w hbad
      split at hbad
      · rename_i hsrc
        cases hbad
        rw [if_pos hsrc]
        rfl
      · rename_i hsrc
        obtain ⟨hdst, heq⟩ := Option.ite_none_right_eq_some.mp hbad
        cases heq
        rw [if_neg hsrc, if_pos hdst]
        rfl
    · rename_i hgood
      split at hgood
      · cases hgood
      · rename_i hsrc
        split at hgood
        · cases hgood
        · rename_i hdst
          rw [if_neg hsrc, if_neg hdst]
          rfl
  · refine (pairForm_runBy t a b (collBeat n)).runs_idle (fun _ => rfl) fun s bt c ⟨hx, hready⟩ => ⟨?_, rfl⟩
    have hx : s.unit? bt.u = some x := hx
    simp only [pairPlan, collBeat, hx, hready, Bool.not_true, Bool.false_eq_true, if_false]
    split <;> rfl

/-! ## WREM (R251, R282, R339, R394) -/

/-- A WREM whose budget is not used up goes, or is reported. -/
theorem wremBeat_go {n : Fin 32} {a : Src} {full : Bool} {s : State} {bt : Beat} {x : UnitSt} (hx : s.unit? bt.u = some x)
    (hready : farReady (bt.raise s bt.poisonFlag) x.tenant = true) (c : Carry) :
    wremBeat n a full s bt c = .go { s := (farWrite n a full s bt).1, c := c } := by
  have hlow : bt.a.bits.toNat % 2 ^ 32 / 2 ^ 31 = 0 ↔ bt.a.bits.toNat % 2 ^ 32 < 2 ^ 31 := by omega
  have hstride : bt.step8 a = stride a bt := rfl
  simp only [wremBeat, farWrite, hx, hready, hlow, hstride, farPackage, Bool.or_eq_true, Bool.and_eq_true, decide_eq_true_eq,
    List.contains_iff_mem, Bool.not_true, Bool.false_eq_true, if_false]
  generalize (if bt.a.bits.toNat % 2 ^ 32 < 2 ^ 31 then 2 ^ 18 else 2 ^ 25) = size
  split
  · rfl
  · split
    · rfl
    · split <;> rfl

theorem farWrite_sends (n : Fin 32) (a : Src) (full : Bool) (s : State) (bt : Beat) : (farWrite n a full s bt).2 = [] := by
  unfold farWrite
  split <;> rfl

/-! ## SNDM (R70, R283, R339) -/

/-- Registers taken leave the channels as they are. -/
theorem Elem.clearG_foldl_visible (l : List (Fin 8)) (y : Elem) (c : Fin 4) : (l.foldl Elem.clearG y).visible c = y.visible c := by
  induction l generalizing y with
  | nil => rfl
  | cons n l ih => exact ih _

/-- The tokens a beat reads stand there still when it has its effect. -/
theorem Form.tokReady_pre (m : Form) {s : State} {f : Focus} {x : UnitSt} (hx : s.unit? f.u = some x) (n b : Nat) (a : Src) :
    ((m.pre s f n b).elem f.u f.e).tokReady a = (x.elem f.e).tokReady a := by
  unfold Form.pre clearTaken
  split
  · split
    · rw [State.elem_of_unit hx]
    · rw [State.elem_modElem_self hx]
      unfold Elem.tokReady
      simp only [Elem.clearG_foldl_visible]
  · rw [State.elem_of_unit hx]

/-- A firing may count on the tokens that its beats wait for. -/
theorem Fires.of_ready {i : Instr} {m : Form} {ok : State → Beat → Carry → Prop} {cyc : State → Beat → Nat} {eff : Effect}
    (h : Fires i m (fun s bt c => ok s bt c ∧ ∀ a ∈ m.srcs, (s.elem bt.u bt.e).tokReady a = true) cyc eff) :
    Fires i m ok cyc eff := by
  intro s f x hfresh n cap at_ hgoes
  refine h s f x hfresh fun b hb => ?_
  obtain ⟨hgo, hok⟩ := hgoes b hb
  refine ⟨hgo, hok, fun a ha => ?_⟩
  obtain ⟨y, hy, hsrcs, -⟩ := hgo
  exact (m.tokReady_pre hy n b a).trans (hsrcs a ha)

/-- The form of SNDM: its burst goes whole, its source B waits for a token. -/
def messageForm (t : Fin 64) (a : Fin 4) (b : Src) : Form := { t := t, a := .ch a, b := b, srcs := [b], takes := b.take?.toList }

/-- The beat of SNDM with a channel in source B dequeues that channel too. -/
def messageBeat (n : Fin 32) (a : Fin 4) (b : Src) (s : State) (bt : Beat) (c : Carry) : Out :=
  match b.chan? with
  | some ch =>
    if (s.elem bt.u bt.e).tokReady b then
      match sndmBeat n a s bt c with
      | .go d => .go { d with s := bt.mod d.s fun x => if ch = a then x else x.dequeue ch }
      | o => o
    else .hold s c
  | none => sndmBeat n a s bt c

def messagePlan (t : Fin 64) (n : Fin 32) (a : Fin 4) (b : Src) : Plan :=
  { t := t, a := .ch a, b := b, auto := false, beat := messageBeat n a b }

theorem messageForm_runBy (t : Fin 64) (n : Fin 32) (a : Fin 4) (b : Src) : (messageForm t a b).RunBy (messagePlan t n a b) where
  t := rfl
  a := rfl
  b := rfl
  dst := rfl
  words := rfl
  taken := List.append_nil _
  deqs := rfl
  fin := rfl
  tokens _ _ := rfl

/-- The burst at the head of a channel leaves through a window, or is refused (R283, R339). -/
def messageSent (n : Fin 32) (a : Fin 4) (x : UnitSt) (burst : List Token) (s : State) (bt : Beat) : State :=
  let w := bt.bb.bits.toNat
  let entry := s.windowOf x.tenant (w / 2 ^ 32 % 64)
  let tag : BitVec 3 := BitVec.ofNat 3 (w / 2 ^ 45)
  let doneB := w / 2 ^ 40 % 32
  let s1 := bt.mod (bt.raise s bt.poisonFlag) fun y => burst.foldl (fun z _ => z.dequeue a) y
  let id := s1.nextId
  let s2 := s1.bumpId.openSent bt.u n id
  if s2.noBudget x.tenant 3 then s2.complete bt.u n id doneB (State.compTok 2 0 0x12 0 0 tag)
  else if entry.toNat % 2 = 0 then s2.complete bt.u n id doneB (State.compTok 2 0 0x14 0 0 tag)
  else
    let s3 := s2.charge x.tenant 3 (kibOf (16 * burst.length))
    let r : Remote := { u := bt.u, e := bt.e, slot := bt.slot, bind := n, message := true, full := false
                        window := w / 2 ^ 32 % 64, entry := entry, addr := w % 2 ^ 32, toks := burst, doneB := doneB
                        tag := tag, sentAt := s2.clk.cyc, wave := s2.stamps bt }
    { s3 with remotes := s3.remotes.set id r }

theorem sndmBeat_go {n : Fin 32} {a : Fin 4} {s : State} {bt : Beat} {x : UnitSt} {burst : List Token}
    (hx : s.unit? bt.u = some x) (hburst : (s.elem bt.u bt.e).headBurst a = burst) (hsome : burst ≠ [])
    (hready : farReady s x.tenant = true) (c : Carry) :
    sndmBeat n a s bt c = .go { s := messageSent n a x burst s bt, c := c, cyc := burst.length } := by
  have hempty : burst.isEmpty = false := by simpa using hsome
  have hcyc : max 1 burst.length = burst.length := Nat.max_eq_right (List.length_pos_iff.mpr hsome)
  simp only [sndmBeat, hx, hburst, hempty, hready, hcyc, messageSent, Bool.not_true, Bool.or_self, Bool.false_eq_true, if_false]
  split
  · rfl
  · split <;> rfl

theorem messageBeat_go {n : Fin 32} {a : Fin 4} {b : Src} {s : State} {bt : Beat} {x : UnitSt} {burst : List Token}
    (hx : s.unit? bt.u = some x) (hburst : (s.elem bt.u bt.e).headBurst a = burst) (hsome : burst ≠ [])
    (hready : farReady s x.tenant = true) (htok : (s.elem bt.u bt.e).tokReady b = true) (c : Carry) :
    messageBeat n a b s bt c = .go {
      s := match b.chan? with
        | some ch => bt.mod (messageSent n a x burst s bt) fun y => if ch = a then y else y.dequeue ch
        | none => messageSent n a x burst s bt
      c := c, cyc := burst.length } := by
  simp only [messageBeat, sndmBeat_go hx hburst hsome hready, htok, if_true]
  cases b.chan? <;> rfl

/-- Settles O27: WREM's plan runs the form of its sources, SNDM's takes its burst itself; each beat goes out or is refused. -/
theorem remoteWritesAndMessages : Obligations.RemoteWritesAndMessages := by
  unfold Obligations.RemoteWritesAndMessages
  refine ⟨fun t n a b full => ?_, fun t n a b x burst => ?_⟩
  · refine (form_runBy_planOf t a b none [] (wremBeat n a.src full)).runs_of_does (fun _ => rfl)
      (does_quiet fun s bt c x hx hready => ?_)
    exact ⟨wremBeat_go hx (hready x hx) c, farWrite_sends n a.src full s bt⟩
  · refine Fires.of_ready ((messageForm_runBy t n a b).fires (fun _ => rfl)
      fun s bt c _ hok => ⟨[], ?_, fun _ => Nat.zero_le _⟩)
    obtain ⟨⟨hx, hburst, hsome, hready⟩, htok⟩ := hok
    exact messageBeat_go hx hburst hsome hready (htok b (.head _)) c

end Sys2Proof.Spec
end
section
/-! PROOFS. What a memory tile does with a request (R254, R256, R258-R260). -/

namespace Sys2Proof.Machine

/-! ## Words and full bits of a tile (R111, R112) -/

namespace Tile
variable (t : Tile)

@[simp] theorem word_setWord_self (w : Nat) (v : Word) : (t.setWord w v).word w = v := Assoc.getD_put_self ..

theorem word_setWord_ne {w k : Nat} (v : Word) (h : k ≠ w) : (t.setWord w v).word k = t.word k := Assoc.getD_put_ne _ _ _ _ h

@[simp] theorem isFull_setWord (w k : Nat) (v : Word) : (t.setWord w v).isFull k = t.isFull k := rfl

@[simp] theorem fifo_setWord (w : Nat) (v : Word) : (t.setWord w v).fifo = t.fifo := rfl

@[simp] theorem word_setFull (w k : Nat) (b : Bool) : (t.setFull w b).word k = t.word k := rfl

@[simp] theorem isFull_setFull_self (w : Nat) (b : Bool) : (t.setFull w b).isFull w = b := by
  cases b <;> simp [isFull, setFull]

theorem isFull_setFull_ne {w k : Nat} (b : Bool) (h : k ≠ w) : (t.setFull w b).isFull k = t.isFull k := by
  cases b with
  | false => simp [isFull, setFull, Assoc.get?_erase_ne _ h]
  | true => simp [isFull, setFull, Assoc.get?_set_ne _ _ h]

@[simp] theorem fifo_setFull (w : Nat) (b : Bool) : (t.setFull w b).fifo = t.fifo := rfl

@[simp] theorem fifo_dropHead : t.dropHead.fifo = t.fifo.drop 1 := rfl

@[simp] theorem words_dropHead : t.dropHead.words = t.words := rfl

end Tile

/-! ## Lanes (R29, R258) -/

theorem laneBits_lt (x : Word) (w i : Nat) : laneBits x w i < 2 ^ w := Nat.mod_lt _ (Nat.two_pow_pos w)

/-- An integer lane read and written back. -/
theorem toBitsN_intLane {f : Fmt} {n : Nat} (h : n < 2 ^ f.laneW) : toBitsN f.laneW (intLane f n) = n := by
  have hself : ((n : Int) % 2 ^ f.laneW).toNat = n := by
    rw [Int.emod_eq_of_lt (Int.natCast_nonneg n) (by exact_mod_cast h), Int.toNat_natCast]
  unfold toBitsN intLane sintOf
  split
  · split
    · exact hself
    · rw [Int.sub_emod_right, hself]
  · exact hself

end Sys2Proof.Machine

namespace Sys2Proof.Spec
open Machine

/-- A lane of an integer atomic is its operation's result, modulo its width (R258). -/
theorem amoLane_eq {p : MemOp × (Int → Int → Int)} (hp : p ∈ intAtomics) {f : Fmt} {o b : Nat} (ho : o < 2 ^ f.laneW)
    (hb : b < 2 ^ f.laneW) : amoLane p.1 f o b = toBitsN f.laneW (p.2 (intLane f o) (intLane f b)) := by
  have hold := toBitsN_intLane ho
  have harg := toBitsN_intLane hb
  simp only [intAtomics, List.mem_cons, List.not_mem_nil, or_false] at hp
  rcases hp with rfl | rfl | rfl
  · rfl
  · simp only [amoLane]
    split
    · rename_i hlt
      rw [Int.min_eq_right (Int.le_of_lt hlt), harg]
    · rename_i hle
      rw [Int.min_eq_left (Int.not_lt.mp hle), hold]
  · simp only [amoLane]
    split
    · rename_i hlt
      rw [Int.max_eq_right (Int.le_of_lt hlt), harg]
    · rename_i hle
      rw [Int.max_eq_left (Int.not_lt.mp hle), hold]

theorem nanLane2_eq_none {f : FFmt} {x y : FVal} (hx : x.isNaN = false) (hy : y.isNaN = false) : nanLane2 f x y = none := by
  unfold nanLane2
  dsimp only
  split
  · cases hx
  · cases hy
  · rfl

/-- A lane of a floating atomic, by its NaN rule. -/
theorem atomicLane_eq (op : FCtx → Nat → Nat → Lane) (f : FFmt) (o b : Nat) :
    atomicLane op f o b = nanDefault f (f.decode false o) (f.decode false b) (op ⟨f, false, .rne⟩ o b) := by
  simp only [atomicLane, nanDefault, Flags.when, Bool.or_eq_true]
  rfl

theorem nanDefault_congr {f : FFmt} {x y : FVal} {l l' : Lane} (h : x.isNaN = false → y.isNaN = false → l = l') :
    nanDefault f x y l = nanDefault f x y l' := by
  unfold nanDefault
  split
  · rfl
  · rename_i hnum
    simp only [Bool.or_eq_true, not_or, Bool.not_eq_true] at hnum
    exact h hnum.1 hnum.2

/-- A lane of a floating atomic is its operation's result, of a NaN the default NaN (R260). -/
theorem famoLane_eq {p : MemOp × (FCtx → Nat → Nat → Lane)} (hp : p ∈ floatAtomics) (f : FFmt) (o b : Nat) :
    famoLane p.1 f o b = atomicLane p.2 f o b := by
  rw [atomicLane_eq]
  simp only [floatAtomics, List.mem_cons, List.not_mem_nil, or_false] at hp
  rcases hp with rfl | rfl | rfl
  · refine nanDefault_congr fun hx hy => ?_
    simp only [laneFadd, FCtx.dec, nanLane2_eq_none hx hy, Option.getD_none]
  · rfl
  · rfl

/-! ## What a tile does with a request (R254-R260) -/

/-- The atomics of class 4. -/
def atomicOps : List MemOp := .amoCas :: atomics.map fun r => r.2.1

theorem wordOps_eq : wordOps = .st :: .stf :: .ste :: atomicOps := rfl

section tileApply
variable {r : MemReq} {t : Tile}

/-- An atomic returns the old word and leaves the new one. -/
theorem tileApply_atomic (h : r.op ∈ atomicOps) :
    tileApply r t = (t.setWord r.word (memNew r (t.word r.word)).1, t.word r.word, none, (memNew r (t.word r.word)).2) := by
  simp only [atomicOps, atomics, List.map_cons, List.map_nil, List.mem_cons, List.not_mem_nil, or_false] at h
  rcases h with hop | hop | hop | hop | hop | hop | hop | hop | hop | hop | hop <;> simp only [tileApply, hop]

/-- The tile after a request: as it was but for the word, the full bit or the FIFO of its operation. -/
inductive TileAfter (r : MemReq) (t : Tile) : Tile → Prop
  | read (h : r.op = .ld ∨ r.op = .lds) : TileAfter r t t
  | emptied (h : r.op = .lde) : TileAfter r t (t.setFull r.word false)
  | written (v : Word) (h : r.op ∈ .st :: atomicOps) : TileAfter r t (t.setWord r.word v)
  | filled (h : r.op = .stf ∨ r.op = .ste) : TileAfter r t ((t.setWord r.word r.data).setFull r.word true)
  | pushed (h : r.op = .push) : TileAfter r t { t with fifo := t.fifo ++ [r.tok] }
  | popped (h : r.op = .pop) : TileAfter r t t.dropHead
  | starved (h : r.op = .pop) : TileAfter r t t

theorem tileApply_after (r : MemReq) (t : Tile) : TileAfter r t (tileApply r t).1 := by
  by_cases hat : r.op ∈ atomicOps
  · rw [tileApply_atomic hat]
    exact .written _ (.tail _ hat)
  · cases hop : r.op
    case ld => simp only [tileApply, hop]; exact .read (.inl hop)
    case lds => simp only [tileApply, hop]; exact .read (.inr hop)
    case lde => simp only [tileApply, hop]; exact .emptied hop
    case st => simp only [tileApply, hop]; exact .written _ (hop ▸ .head _)
    case stf => simp only [tileApply, memNew, hop]; exact .filled (.inl hop)
    case ste => simp only [tileApply, memNew, hop]; exact .filled (.inr hop)
    case push => simp only [tileApply, hop]; exact .pushed hop
    case pop =>
      simp only [tileApply, hop]
      split
      · exact .starved hop
      · exact .popped hop
    all_goals exact absurd (by rw [hop]; decide) hat

theorem TileAfter.word {t' : Tile} (h : TileAfter r t t') {w : Nat} (hw : r.op ∈ wordOps → w ≠ r.word) :
    t'.word w = t.word w := by
  cases h with
  | written v hop => exact t.word_setWord_ne v (hw (by
      rw [wordOps_eq]
      exact (List.mem_cons.mp hop).elim (fun h => h ▸ .head _) fun h => .tail _ (.tail _ (.tail _ h))))
  | filled hop =>
    rw [Tile.word_setFull]
    exact t.word_setWord_ne r.data (hw (by simp [wordOps_eq, ← or_assoc, hop]))
  | read | emptied | pushed | popped | starved => rfl

theorem TileAfter.isFull {t' : Tile} (h : TileAfter r t t') {w : Nat} (hw : r.op ∈ fullOps → w ≠ r.word) :
    t'.isFull w = t.isFull w := by
  cases h with
  | emptied hop => exact t.isFull_setFull_ne false (hw (by simp [fullOps, hop]))
  | filled hop =>
    rw [Tile.isFull_setFull_ne _ true (hw (by simpa [fullOps] using .inr hop)), Tile.isFull_setWord]
  | read | written | pushed | popped | starved => rfl

theorem TileAfter.fifo {t' : Tile} (h : TileAfter r t t') (hop : r.op ∉ fifoOps) : t'.fifo = t.fifo := by
  cases h with
  | pushed h => exact absurd (by simp [fifoOps, h]) hop
  | popped h => exact absurd (by simp [fifoOps, h]) hop
  | read | emptied | written | filled | starved => rfl

/-- What an integer atomic leaves, lane by lane (R258). -/
theorem memNew_int {p : MemOp × (Int → Int → Int)} (hp : p ∈ intAtomics) (hop : r.op = p.1) {f : Fmt} (hfmt : r.fmt = some f)
    (old : Word) : memNew r old =
      (genLanes f fun i => toBitsN f.laneW (p.2 (intLane f (laneBits old f.laneW i)) (intLane f (laneBits r.data f.laneW i))),
        0) := by
  have hnew : memNew r old =
      (genLanes f fun i => amoLane p.1 f (laneBits old f.laneW i) (laneBits r.data f.laneW i), 0) := by
    have hp := hp
    simp only [intAtomics, List.mem_cons, List.not_mem_nil, or_false] at hp
    rcases hp with rfl | rfl | rfl <;> simp only [memNew, hop, hfmt, Option.getD_some]
  rw [hnew]
  simp only [amoLane_eq hp (laneBits_lt _ _ _) (laneBits_lt _ _ _)]

/-- The lanes that a floating atomic leaves. -/
def floatLanes (op : FCtx → Nat → Nat → Lane) (f : Fmt) (g : FFmt) (old arg : Word) : List Lane :=
  (List.range f.lanes).map fun i => atomicLane op g (laneBits old f.laneW i) (laneBits arg f.laneW i)

/-- What a floating atomic leaves, lane by lane, and its flags (R260). -/
theorem memNew_float {p : MemOp × (FCtx → Nat → Nat → Lane)} (hp : p ∈ floatAtomics) (hop : r.op = p.1) {f : Fmt} {g : FFmt}
    (hfmt : r.fmt = some f) (hfloat : f.float? = some g) (old : Word) : memNew r old =
      (ofLanes f.laneW ((floatLanes p.2 f g old r.data).map Lane.bits),
        (floatLanes p.2 f g old r.data).foldl (fun a l => a ||| l.fl) 0) := by
  have hnew : memNew r old = memNew.fl r old f := by
    have hp := hp
    simp only [floatAtomics, List.mem_cons, List.not_mem_nil, or_false] at hp
    rcases hp with rfl | rfl | rfl <;> simp only [memNew, hop, hfmt, Option.getD_some]
  rw [hnew]
  simp only [memNew.fl, hfloat, hop, famoLane_eq hp, floatLanes]

theorem mem_atomicOps_of_int {p : MemOp × (Int → Int → Int)} (hp : p ∈ intAtomics) : p.1 ∈ atomicOps := by
  simp only [intAtomics, List.mem_cons, List.not_mem_nil, or_false] at hp
  rcases hp with rfl | rfl | rfl <;> decide

theorem mem_atomicOps_of_float {p : MemOp × (FCtx → Nat → Nat → Lane)} (hp : p ∈ floatAtomics) : p.1 ∈ atomicOps := by
  simp only [floatAtomics, List.mem_cons, List.not_mem_nil, or_false] at hp
  rcases hp with rfl | rfl | rfl <;> decide

/-- An atomic whole, by what it leaves (R258, R259). -/
theorem tileApply_leaves {v : Word} (h : r.op ∈ atomicOps) (hnew : (memNew r (t.word r.word)).1 = v) :
    (tileApply r t).1.word r.word = v ∧ (tileApply r t).2.1 = t.word r.word := by
  rw [tileApply_atomic h, hnew]
  exact ⟨t.word_setWord_self r.word v, rfl⟩

end tileApply

/-- Settles O16: the tile after a request is as it was but for its operation's word, full bit or FIFO, and an atomic leaves
what its lanes or its bits come to. -/
theorem tileOperations : Obligations.TileOperations := by
  unfold Obligations.TileOperations
  intro r t o old arg
  have hafter : TileAfter r t o.1 := tileApply_after r t
  refine ⟨fun w hw => ⟨hafter.word fun _ => hw, hafter.isFull fun _ => hw⟩,
    fun hlde hstf hste => hafter.isFull fun h => ?_,
    ?int, ?float, ?load, ?lde, ?st, ?fill, ?swp, ?cas, ?and, ?or, ?xor, ?push, ?pop⟩
  · simp only [fullOps, List.mem_cons, List.not_mem_nil, or_false] at h
    exact (h.elim hlde fun h => h.elim hstf hste).elim
  case int =>
    intro p hp f hop hfmt _
    have hat : r.op ∈ atomicOps := hop ▸ mem_atomicOps_of_int hp
    obtain ⟨hword, hold⟩ := tileApply_leaves (t := t) hat (congrArg Prod.fst (memNew_int hp hop hfmt _))
    refine ⟨hword, hold, ?_⟩
    simp only [o, tileApply_atomic hat, memNew_int hp hop hfmt]
  case float =>
    intro p hp f g hop hfmt hfloat ls
    have hat : r.op ∈ atomicOps := hop ▸ mem_atomicOps_of_float hp
    obtain ⟨hword, hold⟩ := tileApply_leaves (t := t) hat (congrArg Prod.fst (memNew_float hp hop hfmt hfloat _))
    refine ⟨hword, hold, ?_⟩
    simp only [o, tileApply_atomic hat, memNew_float hp hop hfmt hfloat]
    rfl
  case load =>
    rintro (hop | hop) <;> simp only [o, tileApply, hop, and_self]
  case lde =>
    intro hop
    simp [o, tileApply, hop]
  case st =>
    intro hop
    simp [o, tileApply, memNew, hop]
  case fill =>
    rintro (hop | hop) <;> simp [o, tileApply, memNew, hop]
  case swp => exact fun hop => tileApply_leaves (by rw [hop]; decide) (by simp only [memNew, hop])
  case cas => exact fun hop => tileApply_leaves (by rw [hop]; decide) (by simp only [memNew, hop])
  case and => exact fun hop => tileApply_leaves (by rw [hop]; decide) (by simp only [memNew, hop])
  case or => exact fun hop => tileApply_leaves (by rw [hop]; decide) (by simp only [memNew, hop])
  case xor => exact fun hop => tileApply_leaves (by rw [hop]; decide) (by simp only [memNew, hop])
  case push =>
    intro hop
    simp only [o, tileApply, hop, and_self]
  case pop =>
    intro hop k rest hfifo
    simp [o, tileApply, hop, hfifo]

end Sys2Proof.Spec
end
section
/-! PROOFS. What a firing of an access to memory tiles keeps (R65, R66, R250-R260). -/

namespace Sys2Proof.Machine

/-! ## What is kept -/

/-- The words, full bits and FIFOs of tiles that accesses may change. -/
structure Reach where
  word : Nat → Nat → Prop
  full : Nat → Nat → Prop
  fifo : Nat → Prop

/-- `w` is the element `y` in its k-registers, accumulators, micro-block, configuration and program, and in every register but
those in `regs`. -/
structure Elem.AccessKept (regs : List (Fin 8)) (y w : Elem) : Prop where
  k : w.k = y.k
  acc : w.acc = y.acc
  mb : w.mb = y.mb
  cfg : w.cfg = y.cfg
  slots : w.slots = y.slots
  trig : w.trig = y.trig
  desc : w.desc = y.desc
  g : ∀ n : Fin 8, n ∉ regs → w.g[n] = y.g[n]

/-- `z` is the tile `y`, of number `tl`, in what is out of reach. -/
structure Tile.AccessKept (T : Reach) (tl : Nat) (y z : Tile) : Prop where
  word : ∀ w, ¬T.word tl w → z.word w = y.word w
  full : ∀ w, ¬T.full tl w → z.isFull w = y.isFull w
  fifo : ¬T.fifo tl → z.fifo = y.fifo

/-- `z` is the unit `x` in its other elements, and in what is kept of element `e` and of its tiles. -/
structure UnitSt.AccessKept (e : Nat) (regs : List (Fin 8)) (T : Reach) (x z : UnitSt) : Prop where
  others : ∀ d, d ≠ e → z.elem d = x.elem d
  elem : (x.elem e).AccessKept regs (z.elem e)
  tile : ∀ tl, (x.tile tl).AccessKept T tl (z.tile tl)

/-- `t` is the state `s` in physical memory, in the registers of the device, in its other units, and in what is kept of unit `u`. -/
structure State.AccessKept (u e : Nat) (regs : List (Fin 8)) (T : Reach) (s t : State) : Prop where
  mem : t.mem = s.mem
  device : t.regs = s.regs
  others : ∀ v, v ≠ u → t.unit? v = s.unit? v
  unit : ∀ x, s.unit? u = some x → ∃ z, t.unit? u = some z ∧ x.AccessKept e regs T z

section kept
variable {regs : List (Fin 8)} {T : Reach} {u e : Nat}

theorem Elem.LaneKept.accessKept {y w : Elem} (h : y.LaneKept regs w) : y.AccessKept regs w :=
  ⟨h.k, h.acc, h.mb, h.cfg, h.slots, h.trig, h.desc, h.g⟩

theorem Elem.AccessKept.refl (y : Elem) : y.AccessKept regs y := (Elem.LaneKept.refl y).accessKept

theorem Elem.AccessKept.trans {y w v : Elem} (h : y.AccessKept regs w) (h' : w.AccessKept regs v) : y.AccessKept regs v where
  k := h'.k.trans h.k
  acc := h'.acc.trans h.acc
  mb := h'.mb.trans h.mb
  cfg := h'.cfg.trans h.cfg
  slots := h'.slots.trans h.slots
  trig := h'.trig.trans h.trig
  desc := h'.desc.trans h.desc
  g n hn := (h'.g n hn).trans (h.g n hn)

theorem Tile.AccessKept.refl (tl : Nat) (y : Tile) : y.AccessKept T tl y := ⟨fun _ _ => rfl, fun _ _ => rfl, fun _ => rfl⟩

theorem Tile.AccessKept.trans {tl : Nat} {y z w : Tile} (h : y.AccessKept T tl z) (h' : z.AccessKept T tl w) :
    y.AccessKept T tl w where
  word k hk := (h'.word k hk).trans (h.word k hk)
  full k hk := (h'.full k hk).trans (h.full k hk)
  fifo hk := (h'.fifo hk).trans (h.fifo hk)

theorem UnitSt.LaneKept.accessKept {x z : UnitSt} (h : x.LaneKept e regs z) : x.AccessKept e regs T z where
  others := h.others
  elem := h.elem.accessKept
  tile tl := by
    rw [h.rest]
    exact .refl tl _

theorem UnitSt.AccessKept.refl (x : UnitSt) : x.AccessKept e regs T x := ⟨fun _ _ => rfl, .refl _, fun tl => .refl tl _⟩

theorem UnitSt.AccessKept.trans {x z w : UnitSt} (h : x.AccessKept e regs T z) (h' : z.AccessKept e regs T w) :
    x.AccessKept e regs T w where
  others d hd := (h'.others d hd).trans (h.others d hd)
  elem := h.elem.trans h'.elem
  tile tl := (h.tile tl).trans (h'.tile tl)

theorem UnitSt.AccessKept.setElem (x : UnitSt) {y : Elem} (h : (x.elem e).AccessKept regs y) :
    x.AccessKept e regs T (x.setElem e y) where
  others _ hd := UnitSt.elem_setElem_ne _ _ hd
  elem := by rwa [UnitSt.elem_setElem_self]
  tile tl := .refl tl _

@[simp] theorem UnitSt.tile_setTile_self (x : UnitSt) (t : Nat) (y : Tile) : (x.setTile t y).tile t = y := Assoc.getD_set_self ..

theorem UnitSt.tile_setTile_ne (x : UnitSt) {t k : Nat} (y : Tile) (h : k ≠ t) : (x.setTile t y).tile k = x.tile k :=
  Assoc.getD_set_ne _ _ _ h

/-- A tile changed within reach. -/
theorem UnitSt.AccessKept.setTile (x : UnitSt) {t : Nat} {y : Tile} (h : (x.tile t).AccessKept T t y) :
    x.AccessKept e regs T (x.setTile t y) where
  others _ _ := rfl
  elem := .refl _
  tile tl := by
    by_cases htl : tl = t
    · subst htl
      rwa [UnitSt.tile_setTile_self]
    · rw [UnitSt.tile_setTile_ne _ _ htl]
      exact .refl tl _

theorem State.LaneKept.accessKept {s t : State} (h : s.LaneKept u e regs t) : s.AccessKept u e regs T t where
  mem := by rw [h.rest]
  device := by rw [h.rest]
  others := h.others
  unit x hx := by
    obtain ⟨z, hz, hkept⟩ := h.unit x hx
    exact ⟨z, hz, hkept.accessKept⟩

theorem State.AccessKept.refl (s : State) : s.AccessKept u e regs T s := (State.LaneKept.refl s).accessKept

theorem State.AccessKept.trans {s t r : State} (h : s.AccessKept u e regs T t) (h' : t.AccessKept u e regs T r) :
    s.AccessKept u e regs T r where
  mem := h'.mem.trans h.mem
  device := h'.device.trans h.device
  others v hv := (h'.others v hv).trans (h.others v hv)
  unit x hx := by
    obtain ⟨z, hz, hxz⟩ := h.unit x hx
    obtain ⟨w, hw, hzw⟩ := h'.unit z hz
    exact ⟨w, hw, hxz.trans hzw⟩

theorem State.AccessKept.modUnit (s : State) {f : UnitSt → UnitSt} (h : ∀ x : UnitSt, x.AccessKept e regs T (f x)) :
    s.AccessKept u e regs T (s.modUnit u f) where
  mem := rfl
  device := rfl
  others _ hv := State.unit?_modUnit_ne _ _ hv
  unit x hx := ⟨f x, by simp [hx], h x⟩

theorem State.AccessKept.modElem (s : State) {f : Elem → Elem} (h : ∀ y : Elem, y.AccessKept regs (f y)) :
    s.AccessKept u e regs T (s.modElem u e f) :=
  .modUnit s fun x => .setElem x (h _)

theorem State.AccessKept.bumpId (s : State) : s.AccessKept u e regs T s.bumpId where
  mem := rfl
  device := rfl
  others _ _ := rfl
  unit x hx := ⟨x, hx, .refl x⟩

/-- The end of a firing writes predicates and the wave counter only. -/
theorem State.AccessKept.endFiring (s : State) (u e : Nat) (cap : Captured) : s.AccessKept u e regs T (endFiring s u e cap) :=
  .modElem s fun y => { Elem.AccessKept.refl (regs := regs) y with }

/-! ## Late results (R180, R181, R253) -/

theorem Elem.AccessKept.lates (y : Elem) (l : List Late) : y.AccessKept regs { y with late := l } :=
  { Elem.AccessKept.refl (regs := regs) y with }

theorem Elem.AccessKept.pendG (y : Elem) {n : Fin 8} (h : n ∈ regs) (l : List Late) :
    y.AccessKept regs { y.pendG n true with late := l } :=
  { (Elem.LaneKept.setG_of_mem y h _).accessKept with }

theorem State.AccessKept.promise (bt : Beat) (s : State) {d : Dst} (hd : ∀ n, d.reg? = some n → n ∈ regs) (tag : BitVec 3)
    (lat id : Nat) : s.AccessKept bt.u bt.e regs T (bt.promise s d tag lat id) := by
  cases d with
  | g n =>
    simp only [Beat.promise, Beat.mod]
    exact .modElem s fun y => .pendG y (hd n rfl) _
  | out o =>
    simp only [Beat.promise, Beat.mod]
    exact .modElem s fun y => .lates y _
  | z => exact .refl s

theorem State.AccessKept.addLate (bt : Beat) (s : State) {d : Dst} (hd : ∀ n, d.reg? = some n → n ∈ regs) (tok : Option Token)
    (send : Bool) (due req : Nat) (last : Bool) (acc : Option (Fin 4)) :
    s.AccessKept bt.u bt.e regs T (bt.addLate s d tok send due req last acc) := by
  cases d with
  | g n =>
    simp only [Beat.addLate, Beat.mod]
    exact .modElem s fun y => .pendG y (hd n rfl) _
  | out o =>
    simp only [Beat.addLate, Beat.mod]
    exact .modElem s fun y => .lates y _
  | z => exact .refl s

theorem State.AccessKept.raise (bt : Beat) (s : State) (fl : Flags) : s.AccessKept bt.u bt.e regs T (bt.raise s fl) :=
  (State.LaneKept.beatRaise bt s fl).accessKept

theorem State.AccessKept.deliverLate (bt : Beat) (s : State) {d : Dst} (hd : ∀ n, d.reg? = some n → n ∈ regs) (v : Word)
    (tag : BitVec 3) (fl : Flags) (lat : Nat) : s.AccessKept bt.u bt.e regs T (bt.deliverLate s d v tag fl lat) := by
  refine (State.AccessKept.raise bt s (fl ||| bt.poisonFlag)).trans ?_
  unfold Beat.deliverLate
  dsimp only
  split
  · split
    · exact .addLate bt _ hd ..
    · exact .refl _
  · exact .addLate bt _ hd ..

end kept

/-! ## A request at its tile (R125, R253, R254) -/

/-- What a request changes is in reach. -/
def Reach.Covers (T : Reach) (r : MemReq) : Prop :=
  (r.op ∈ Spec.wordOps → T.word r.tile r.word) ∧ (r.op ∈ Spec.fullOps → T.full r.tile r.word) ∧
    (r.op ∈ Spec.fifoOps → T.fifo r.tile)

section request
variable {regs : List (Fin 8)} {T : Reach} {u : Nat} {r : MemReq}

theorem UnitSt.AccessKept.tileApply (hr : T.Covers r) (x : UnitSt) :
    x.AccessKept r.e regs T (x.setTile r.tile (tileApply r (x.tile r.tile)).1) := by
  obtain ⟨hword, hfull, hfifo⟩ := hr
  have hafter := Spec.tileApply_after r (x.tile r.tile)
  exact .setTile x ⟨fun w hw => hafter.word fun hop heq => hw (heq ▸ hword hop),
    fun w hw => hafter.isFull fun hop heq => hw (heq ▸ hfull hop), fun ht => hafter.fifo fun hop => ht (hfifo hop)⟩

theorem State.AccessKept.perform (hr : T.Covers r) (s : State) : s.AccessKept u r.e regs T (s.perform u r) := by
  refine .modUnit s fun x => (UnitSt.AccessKept.tileApply hr x).trans ?_
  dsimp only
  split
  · exact .setElem _ { Elem.AccessKept.refl (regs := regs) _ with }
  · exact .setElem _ { Elem.AccessKept.refl (regs := regs) _ with }

theorem State.AccessKept.arrive (hr : T.Covers r) {s t : State} {x : UnitSt} (h : s.arrive u x r = some t) :
    s.AccessKept u r.e regs T t := by
  unfold State.arrive at h
  dsimp only at h
  split at h
  · cases h
  · split at h
    · cases h
      exact .perform hr s
    · obtain ⟨-, heq⟩ := Option.ite_none_right_eq_some.mp h
      cases heq
      exact .modUnit s fun y => .setTile y ⟨fun _ _ => rfl, fun _ _ => rfl, fun _ => rfl⟩

/-- A request issued, whether it stays under way or reaches its tile. -/
theorem State.AccessKept.issue (hr : T.Covers r) {e : Nat} (he : r.e = e) (s : State) (defer : Bool) :
    s.AccessKept u e regs T (s.issue u r defer) := by
  subst he
  have hunder : s.AccessKept u r.e regs T (s.modUnit u fun y => { y with reqs := y.reqs ++ [r] }) :=
    .modUnit s fun y => ⟨fun _ _ => rfl, .refl _, fun tl => .refl tl _⟩
  unfold State.issue
  split
  · exact .refl s
  · dsimp only
    split
    · exact hunder
    · rename_i x _ _
      cases harrive : s.arrive u x r with
      | none => exact hunder
      | some t => exact .arrive hr harrive

end request
end Sys2Proof.Machine

namespace Sys2Proof.Spec
open Machine

/-! ## A beat of an access -/

/-- What accesses by `op` at the spots in `P` may change. -/
def reachOf (op : MemOp) (P : Nat × Nat → Prop) : Reach where
  word tl w := op ∈ wordOps ∧ P (tl, w)
  full tl w := op ∈ fullOps ∧ P (tl, w)
  fifo tl := op ∈ fifoOps ∧ ∃ v, P (tl, v)

/-- A beat of an access by `op` keeps all but the registers in `regs` and what is at its spot. -/
def BeatKeeps (op : MemOp) (a : Src) (regs : List (Fin 8)) (eff : State → Beat → State × List (Nat × Token)) : Prop :=
  ∀ (P : Nat × Nat → Prop) (s : State) (bt : Beat), (∀ p, spot op a s bt = some p → P p) →
    s.AccessKept bt.u bt.e regs (reachOf op P) (eff s bt).1

section beat
variable {op : MemOp} {a : Src} {regs : List (Fin 8)} {P : Nat × Nat → Prop}

/-- A request for a spot changes nothing else. -/
theorem reachOf_covers {r : MemReq} {tl w : Nat} (hP : P (tl, w)) (hop : r.op = op) (htile : r.tile = tl)
    (hword : r.word = wordOf op w) : (reachOf op P).Covers r := by
  have hsame : op ∉ fifoOps → r.word = w := fun h => by
    rw [hword, wordOf, if_neg (by simpa [fifoOps] using h)]
  subst htile
  refine ⟨fun h => ?_, fun h => ?_, fun h => ⟨hop ▸ h, w, hP⟩⟩
  · rw [hop] at h
    have hno : op ∉ fifoOps := by revert h; cases op <;> decide
    exact ⟨h, by rw [hsame hno]; exact hP⟩
  · rw [hop] at h
    have hno : op ∉ fifoOps := by revert h; cases op <;> decide
    exact ⟨h, by rw [hsame hno]; exact hP⟩

theorem reading_kept {d : Dst} (hd : ∀ n, d.reg? = some n → n ∈ regs) {tl w : Nat} (hP : P (tl, w)) (tag : Beat → BitVec 3)
    (lat : Nat) {r : State → Beat → MemReq} {s : State} {bt : Beat} (he : (r s bt).e = bt.e) (hop : (r s bt).op = op)
    (htile : (r s bt).tile = tl) (hword : (r s bt).word = wordOf op w) :
    s.AccessKept bt.u bt.e regs (reachOf op P) (reading d tag lat tl r s bt).1 :=
  (((State.AccessKept.bumpId s).trans (.raise bt _ _)).trans (.promise bt _ hd ..)).trans
    (.issue (reachOf_covers hP hop htile hword) he _ _)

theorem storing_kept {tl w : Nat} (hP : P (tl, w)) {r : State → Beat → MemReq} {s : State} {bt : Beat} (he : (r s bt).e = bt.e)
    (hop : (r s bt).op = op) (htile : (r s bt).tile = tl) (hword : (r s bt).word = wordOf op w) :
    s.AccessKept bt.u bt.e regs (reachOf op P) (storing r s bt).1 :=
  ((State.AccessKept.bumpId s).trans (.raise bt _ _)).trans (.issue (reachOf_covers hP hop htile hword) he _ _)

/-- An access keeps what its effect at a spot keeps. -/
theorem atSpot_keeps {eff : Nat → Nat → State → Beat → State × List (Nat × Token)}
    (h : ∀ (P : Nat × Nat → Prop) (tl w : Nat) (s : State) (bt : Beat), P (tl, w) →
      s.AccessKept bt.u bt.e regs (reachOf op P) (eff tl w s bt).1) :
    BeatKeeps op a regs (atSpot op a eff) := by
  intro P s bt hP
  unfold atSpot
  split
  · rename_i tl w hspot
    exact h P tl w s bt (hP _ hspot)
  · exact .refl s

theorem loading_keeps {d : Dst} (hd : ∀ n, d.reg? = some n → n ∈ regs) : BeatKeeps op a regs (loading op d a) := by
  refine atSpot_keeps fun P tl w s bt hP => ?_
  exact reading_kept hd hP addrTag 4 rfl rfl rfl rfl

theorem wordOf_of_word (hop : op ≠ .push ∧ op ≠ .pop) (w : Nat) : wordOf op w = w := if_neg (by simp [hop])

theorem wordStore_keeps (hop : op ≠ .push ∧ op ≠ .pop) (n : Nat) : BeatKeeps op a regs (wordStore op n a) := by
  refine atSpot_keeps fun P tl w s bt hP => ?_
  exact storing_kept hP rfl rfl rfl (wordOf_of_word hop w).symm

theorem pushing_keeps (n : Nat) : BeatKeeps .push a regs (pushing n a) := by
  refine atSpot_keeps fun P tl w s bt hP => ?_
  exact storing_kept hP rfl rfl rfl rfl

theorem atomicIn_keeps (hop : op ≠ .push ∧ op ≠ .pop) (f : Fmt) {d : Dst} (hd : ∀ n, d.reg? = some n → n ∈ regs) :
    BeatKeeps op a regs (atomicIn op f d a) := by
  refine atSpot_keeps fun P tl w s bt hP => ?_
  exact reading_kept hd hP Beat.T 6 rfl rfl rfl (wordOf_of_word hop w).symm

theorem atomicZero_keeps {d : Dst} (hd : ∀ n, d.reg? = some n → n ∈ regs) : BeatKeeps op a regs (atomicZero op d a) := by
  refine atSpot_keeps fun P tl w s bt _ => ?_
  exact .deliverLate bt s hd ..

theorem atomic_keeps (hop : op ≠ .push ∧ op ≠ .pop) (adm : Fmt → Bool) {d : Dst} (hd : ∀ n, d.reg? = some n → n ∈ regs) :
    BeatKeeps op a regs (atomic op adm d a) := by
  intro P s bt hP
  unfold atomic
  split
  · exact atomicIn_keeps hop _ hd P s bt hP
  · exact atomicZero_keeps hd P s bt hP

end beat

/-! ## A firing of an access -/

/-- The registers that a firing of a form may write: its destination and those it takes (R66). -/
def Form.writes (m : Form) (d : Option (Fin 8)) : List (Fin 8) := d.toList ++ m.takes

/-- THE BEATS OF A FIRING keep all but the registers it writes and what is at the spots its beats lead to. -/
theorem upTo_kept {m : Form} {op : MemOp} {a : Src} {d : Option (Fin 8)} {eff : State → Beat → State × List (Nat × Token)}
    (heff : BeatKeeps op a (m.writes d) eff) (s : State) (f : Focus) (n : Nat) (cap : Captured) (P : Nat × Nat → Prop) (k : Nat)
    (hP : ∀ b < k, ∀ p, spot op a (m.pre (m.upTo s f n cap one_ (each eff) b).1 f n b)
      (m.beat (m.upTo s f n cap one_ (each eff) b).1 f n b cap) = some p → P p) :
    s.AccessKept f.u f.e (m.writes d) (reachOf op P) (m.upTo s f n cap one_ (each eff) k).1 := by
  induction k with
  | zero => exact (State.LaneKept.beginFiring ..).accessKept
  | succ k ih =>
    have hbefore := ih fun b hb => hP b (by omega)
    have hpre : State.AccessKept f.u f.e (m.writes d) (reachOf op P) (m.upTo s f n cap one_ (each eff) k).1
        (m.pre (m.upTo s f n cap one_ (each eff) k).1 f n k) := by
      unfold Form.pre
      split
      · exact (State.LaneKept.clearTaken _ f.u f.e (List.subset_append_right _ _)).accessKept
      · exact .refl _
    have hbeat := heff P _ (m.beat (m.upTo s f n cap one_ (each eff) k).1 f n k cap) (hP k (Nat.lt_succ_self k))
    refine ((hbefore.trans hpre).trans hbeat).trans (State.LaneKept.accessKept ?_)
    exact (State.LaneKept.sendOut f.u f.e _ _).trans
      (.modElem _ fun y => (Elem.LaneKept.dequeue_foldl m.dq y).trans (.hold _ _ _))

/-- A firing that runs to its end, each of whose beats keeps all but what is at its spot, has the frame. -/
theorem keeps_of_runs {i : Instr} {op : MemOp} {m : Form} {a : Src} {d : Option (Fin 8)} {ok : State → Beat → Prop}
    {eff : State → Beat → State × List (Nat × Token)} (hruns : Runs i m ok one_ eff)
    (heff : BeatKeeps op a (m.writes d) eff) :
    Keeps i op m a d ok eff := by
  intro s t f x z hfresh n cap at_ goal hgoes hexec hz
  have hend : exec i s = .next (endFiring (at_ n).1 f.u f.e cap) := hruns s f x hfresh hgoes
  rw [hend] at hexec
  cases hexec
  have hkept := (upTo_kept heff s f n cap (fun p => ∃ b < n, goal b = some p) n fun b hb p hp => ⟨b, hb, hp⟩).trans
    (.endFiring _ f.u f.e cap)
  obtain ⟨z', hz', hunit⟩ := hkept.unit x hfresh.unit
  obtain rfl : z' = z := Option.some.inj (hz'.symm.trans hz)
  refine ⟨hkept.mem, hkept.device, hkept.others, hunit.others, ?_, fun tl w => ⟨fun h => ?_, fun h => ?_, fun h => ?_⟩⟩
  · obtain ⟨hk, hacc, hmb, hcfg, hslots, htrig, hdesc, hg⟩ := hunit.elem
    exact ⟨hk, hacc, hmb, hcfg, hslots, htrig, hdesc, fun r hd hr => hg r (by simp [Form.writes, hd, hr])⟩
  · exact (hunit.tile tl).word w fun ⟨hop, b, hb, hgoal⟩ => h hop b hb hgoal
  · exact (hunit.tile tl).full w fun ⟨hop, b, hb, hgoal⟩ => h hop b hb hgoal
  · exact (hunit.tile tl).fifo fun ⟨hop, v, b, hb, hgoal⟩ => h hop b hb v hgoal

/-- The destination of an access is among the registers its form writes. -/
theorem mem_writes (m : Form) (d : Dst) : ∀ n, d.reg? = some n → n ∈ m.writes d.reg? := by
  intro n hn
  simp [Form.writes, hn]

/-- Settles O60: each access runs as its form says, and each of its beats keeps all but its registers and its spot. -/
theorem storeFrame : Obligations.StoreFrame := by
  unfold Obligations.StoreFrame
  obtain ⟨hload, hstore, hpush⟩ := tileAccessesComplete
  refine ⟨fun r hr t d a => ?_, fun r hr t n a b => ?_, fun t n a b => ?_, fun r hr t d a b => ?_, fun t n a b => ?_⟩
  · exact keeps_of_runs (hload r hr t d a) (loading_keeps (mem_writes _ d))
  · exact keeps_of_runs (hstore r hr t n a b) (wordStore_keeps (stores_plan r hr).2 n.val)
  · exact keeps_of_runs (hpush t n a b) (pushing_keeps n.val)
  · obtain ⟨hexec, hop⟩ := atomics_plan r hr
    exact keeps_of_runs ((form_runBy_planOf t a b none d.outs _).runs_of_does (hexec t d a b) (atomic_does hop r.2.2 t d a b none))
      (atomic_keeps hop r.2.2 (mem_writes _ d))
  · have hcas : MemOp.amoCas ≠ .push ∧ MemOp.amoCas ≠ .pop := by decide
    exact keeps_of_runs ((form_runBy_planOf t a b (some n) [] _).runs_of_does (fun _ => rfl)
      (atomic_does hcas (fun _ => true) t (.g n) a b (some n))) (atomic_keeps hcas (fun _ => true) (mem_writes _ (.g n)))

end Sys2Proof.Spec
end
section
/-! PROOFS. The copy engines, drain answers and collectives (R279, R280, R284, R374, R390, R392, R393, R395). -/

namespace Sys2Proof.Machine

/-! ## What another package answers (R393) -/

theorem strange_iff {entry : Word} {tenant : Nat} : Spec.strange entry tenant = true ↔
    bitsOf entry.toNat 47 38 ≠ tenant ∧ bitsOf entry.toNat 11 11 = 0 := by
  simp [Spec.strange]

/-- What another package answers is one of the causes, or 0x14 where the window's entry names another tenant and is not shared; one
free value is taken. -/
theorem State.farAnswer_spec (s : State) (entry : Word) (tenant : Nat) {causes : List Nat} (h14 : 0x14 ∈ causes) :
    ∃ cause ∈ causes, s.farAnswer entry tenant causes = ({ s with freeCtr := s.freeCtr + 1 }, cause) ∧
      (Spec.strange entry tenant = true → cause = 0x14) := by
  by_cases hstrange : Spec.strange entry tenant = true
  · exact ⟨0x14, h14, by rw [State.farAnswer, if_pos (strange_iff.mp hstrange)]; rfl, fun _ => rfl⟩
  · have hlt : Config.free s.freeCtr % causes.length < causes.length := Nat.mod_lt _ (List.length_pos_of_mem h14)
    refine ⟨causes[Config.free s.freeCtr % causes.length], List.getElem_mem hlt, ?_, fun h => absurd h hstrange⟩
    rw [State.farAnswer, if_neg (mt strange_iff.mpr hstrange)]
    simp only [State.draw, List.getD_eq_getElem?_getD, List.getElem?_eq_getElem hlt, Option.getD_some]

/-! ## Copies begin (R279) -/

section copyStart
variable {s : State} {q : Fin 4} {i : Nat} {c : Copy} {x : UnitSt}

theorem execCopyStart_refused (hidle : State.moving (s.copies[q]).copies = none) (hnext : s.nextCopy q = some (i, c))
    (hx : s.unit? c.u = some x) {cause : Nat} (hrefused : s.copyRefused x c = some cause) :
    execCopyStart q s = .next (s.endCopy q i c 2 cause) := by
  simp only [execCopyStart, Fin.ofNat_val_eq_self, hidle, Option.isSome_none, Bool.false_eq_true, if_false, hnext, hx, hrefused]

theorem State.setCopy_get (s : State) (q : Fin 4) (i : Nat) (c : Copy) : ((s.setCopy q i c).copies[q]).copies.get? i = some c := by
  simp [State.setCopy]

theorem execCopyStart_starts (hidle : State.moving (s.copies[q]).copies = none) (hnext : s.nextCopy q = some (i, c))
    (hx : s.unit? c.u = some x) (hgood : s.copyRefused x c = none) : ∃ r, execCopyStart q s = .next r ∧
      (r.copies[q]).copies.get? i = some { c with started := true, buffer := State.copyBuffer c } := by
  simp only [execCopyStart, Fin.ofNat_val_eq_self, hidle, Option.isSome_none, Bool.false_eq_true, if_false, hnext, hx, hgood]
  refine ⟨_, rfl, ?_⟩
  split
  · rw [State.modUnit_copies]
    exact State.setCopy_get ..
  · exact State.setCopy_get ..

end copyStart

/-! ## Copies end (R131, R279, R374, R390, R392, R393) -/

/-- One side of a copy asked of another package, where it is a window and no other side has refused. -/
def askSide (c : Copy) (a : State × Nat) (w : Word) : State × Nat :=
  if descKind w = 3 ∧ a.2 = 0 then a.1.farAnswer (a.1.descWindow c.tenant w) c.tenant [0, 0x14, 0x05] else a

/-- What other packages answer to a copy that has moved nothing yet. -/
def asked (s : State) (c : Copy) : State × Nat := askSide c (askSide c (s, 0) c.src) c.dst

section copyComplete
variable {s : State} {q : Fin 4} {i : Nat} {c : Copy}

/-- What a copy whose path is there comes to, once other packages have answered. -/
theorem execCopyComplete_eq (hmoving : State.moving (s.copies[q]).copies = some (i, c))
    (hpath : ∀ x, s.unit? c.u = some x → s.copyPath x c = true) {t : State} {cause : Nat}
    (hasked : (if c.sector = 0 ∧ c.pages.isEmpty = true then asked s c else (s, 0)) = (t, cause)) :
    (cause ≠ 0 → execCopyComplete q s = .next (t.endCopy q i c 2 cause)) ∧
    (cause = 0 → ∀ r c', State.moveSectors q i (c.len / 32 + 1) (t, c) = (r, c', .done) →
      execCopyComplete q s = .next (r.endCopy q i c' 0 0)) := by
  simp only [asked, askSide] at hasked
  cases hx : s.unit? c.u with
  | none =>
    simp only [execCopyComplete, Fin.ofNat_val_eq_self, hmoving, hx, hasked, Bool.false_eq_true, if_false]
    exact ⟨fun hcause => if_pos hcause, fun hcause r c' hmoved => by rw [if_neg (not_not.mpr hcause), hmoved]⟩
  | some x =>
    simp only [execCopyComplete, Fin.ofNat_val_eq_self, hmoving, hx, hasked, hpath x hx, Bool.not_true,
      Bool.false_eq_true, if_false]
    exact ⟨fun hcause => if_pos hcause, fun hcause r c' hmoved => by rw [if_neg (not_not.mpr hcause), hmoved]⟩

theorem askSide_local {a : State × Nat} {w : Word} (h : descKind w ≠ 3) : askSide c a w = a := if_neg fun h' => h h'.1

theorem askSide_refused {a : State × Nat} {w : Word} (h : a.2 ≠ 0) : askSide c a w = a := if_neg fun h' => h h'.2

/-- A window asked: one free value taken, one of three causes, 0x14 where the entry is another tenant's. -/
theorem askSide_window (s : State) (c : Copy) {w : Word} (h : descKind w = 3) : ∃ cause ∈ [0, 0x14, 0x05],
    askSide c (s, 0) w = ({ s with freeCtr := s.freeCtr + 1 }, cause) ∧
      (Spec.strange (s.descWindow c.tenant w) c.tenant = true → cause = 0x14) := by
  rw [askSide, if_pos ⟨h, rfl⟩]
  exact s.farAnswer_spec _ _ (by decide)

/-- The answers to a copy through a window or two. -/
theorem asked_spec (s : State) (c : Copy) (h : descKind c.src = 3 ∨ descKind c.dst = 3) :
    ∃ n cause, n ≤ 2 ∧ cause ∈ [0, 0x14, 0x05] ∧
    (descKind c.src = 3 → Spec.strange (s.descWindow c.tenant c.src) c.tenant = true → cause = 0x14) ∧
    (descKind c.dst = 3 → Spec.strange (s.descWindow c.tenant c.dst) c.tenant = true → cause ≠ 0) ∧
    asked s c = ({ s with freeCtr := s.freeCtr + n }, cause) := by
  unfold asked
  by_cases hsrc : descKind c.src = 3
  · obtain ⟨cause, hmem, hask, hstrange⟩ := askSide_window s c hsrc
    rw [hask]
    by_cases hcause : cause = 0
    · subst hcause
      by_cases hdst : descKind c.dst = 3
      · obtain ⟨cause, hmem', hask', hstrange'⟩ := askSide_window { s with freeCtr := s.freeCtr + 1 } c hdst
        refine ⟨2, cause, le_rfl, hmem', fun _ h => absurd (hstrange h) (by decide), fun _ h => ?_, hask'⟩
        rw [hstrange' h]
        decide
      · exact ⟨1, 0, by decide, hmem, fun _ => hstrange, fun h => absurd h hdst, askSide_local hdst⟩
    · exact ⟨1, cause, by decide, hmem, fun _ => hstrange, fun _ _ => hcause, askSide_refused hcause⟩
  · have hdst := h.resolve_left hsrc
    obtain ⟨cause, hmem, hask, hstrange⟩ := askSide_window s c hdst
    rw [askSide_local hsrc, hask]
    refine ⟨1, cause, by decide, hmem, fun h => absurd h hsrc, fun _ h => ?_, rfl⟩
    rw [hstrange h]
    decide

end copyComplete

/-! ## DRN (R284) -/

theorem execDrnCompletion_head {s : State} {u n : Nat} {x : UnitSt} {d : Nat × Nat × List Nat}
    {rest : List (Nat × Nat × List Nat)}
    (hx : s.unit? u = some x) (hdrn : (x.bindSt n).drn = d :: rest) (hdone : ∀ i ∈ d.2.2, i ∉ (x.bindSt n).open_) :
    execDrnCompletion u n s = .next ((s.setUnit u (x.setBind n { x.bindSt n with drn := rest })).deliverTo
      (State.pointOf x.cfg n) u d.1 [State.compTok 0 0 0 0 0 (BitVec.ofNat 3 d.2.1)]) := by
  have hall : (d.2.2.all fun id => !(x.bindSt n).open_.contains id) = true := by simpa using hdone
  simp only [execDrnCompletion, hx, hdrn, List.findIdx_cons, hall, cond_true, List.getElem?_cons_zero, listDel]

/-! ## Collectives (R280, R395) -/

section coll
variable {s : State} {i : Nat} {c : Coll} {x : UnitSt}

theorem execCollectiveComplete_refused (hc : s.colls.get? i = some c) (hx : s.unit? c.u = some x)
    (hold : oldestColl s i c = true) {cause : Nat} (hrefused : collRefused s x c = some cause) :
    execCollectiveComplete i s = .next (endColl s i c 2 0 cause) := by
  simp only [execCollectiveComplete, hc, hx, hold, hrefused, Bool.not_true, Bool.false_eq_true, if_false]

theorem execCollectiveComplete_goes (hc : s.colls.get? i = some c) (hx : s.unit? c.u = some x)
    (hold : oldestColl s i c = true) (hgood : collRefused s x c = none) (hplaced : x.placed = true) (hup : s.domainUp = true) :
    ∃ r st fl cause, execCollectiveComplete i s = .next (endColl r i c st fl cause) ∧ r.colls = s.colls ∧
      (st = 0 ∧ cause = 0 ∨ st = 2 ∧ fl = 0 ∧ cause = 0x09 ∧ r.units = s.units) := by
  simp only [execCollectiveComplete, hc, hx, hold, hgood, hplaced, hup, Bool.not_true, Bool.or_self, Bool.false_eq_true, if_false]
  split
  · exact ⟨_, _, _, _, rfl, rfl, .inr ⟨rfl, rfl, rfl, rfl⟩⟩
  · exact ⟨_, _, _, _, rfl, rfl, .inl ⟨rfl, rfl⟩⟩

theorem execCollectiveMemberTimeout_due (hc : s.colls.get? i = some c) (hold : oldestColl s i c = true)
    (hdue : c.sentAt + 270000 ≤ s.clk.cyc) : execCollectiveMemberTimeout i s = .next (endColl s i c 4 0 0x15) := by
  have hdue : c.sentAt + State.farLimit ≤ s.clk.cyc := hdue
  simp only [execCollectiveMemberTimeout, hc, hold, hdue, decide_true, Bool.and_self, if_true]

theorem oldestColl_of {s : State} {i : Nat} {c : Coll}
    (h : (s.colls.any fun p => decide (p.1 < i) && p.2.group == c.group) = false) : oldestColl s i c = true := by
  rw [oldestColl, h]
  rfl

end coll
end Sys2Proof.Machine

namespace Sys2Proof.Spec
open Machine

/-- Settles O42: each event is the operation above that it names. -/
theorem engineEvents : Obligations.EngineEvents := by
  unfold Obligations.EngineEvents
  refine ⟨fun s q i c x hidle hnext hx => ?_, fun s q i c t c' hmoving hpath hlocal hmoved => ?_,
    fun s q i c hmoving hpath hwindow hsector hpages => ?_, fun s u n x d rest => execDrnCompletion_head,
    fun s i c x hc hx hold => ?_, fun s i c hc hold => execCollectiveMemberTimeout_due hc (oldestColl_of hold)⟩
  · exact ⟨fun cause => execCopyStart_refused hidle hnext hx, execCopyStart_starts hidle hnext hx⟩
  · refine (execCopyComplete_eq hmoving hpath (t := s) (cause := 0) ?_).2 rfl t c' hmoved
    split
    · rename_i hfirst
      obtain ⟨hsector, hpages⟩ := hfirst
      have hno : descKind c.src ≠ 3 ∧ descKind c.dst ≠ 3 :=
        hlocal.resolve_right fun h => h.elim (absurd hsector) (absurd (List.isEmpty_iff.mp hpages))
      rw [asked, askSide_local hno.1, askSide_local hno.2]
    · rfl
  · obtain ⟨n, cause, hn, hmem, hsrc, hdst, hasked⟩ := asked_spec s c hwindow
    have hfirst : c.sector = 0 ∧ c.pages.isEmpty = true := ⟨hsector, by rw [hpages]; rfl⟩
    exact ⟨n, cause, hn, hmem, hsrc, hdst, execCopyComplete_eq hmoving hpath (by rw [if_pos hfirst, hasked])⟩
  · exact ⟨fun cause => execCollectiveComplete_refused hc hx (oldestColl_of hold),
      execCollectiveComplete_goes hc hx (oldestColl_of hold)⟩

end Sys2Proof.Spec
end
section
/-! PROOFS. What comes from other packages and what they acknowledge (R257, R282, R283, R342, R343, R392-R394). -/

namespace Sys2Proof.Machine

/-- An entry written and then removed is an entry removed. -/
theorem Assoc.erase_set_self {α : Type} (m : Assoc α) (n : Nat) (v : α) : (m.set n v).erase n = m.erase n := by
  induction m with
  | nil => simp [Assoc.set, Assoc.erase]
  | cons p m ih =>
    obtain ⟨k, w⟩ := p
    unfold Assoc.set
    split
    · simp [Assoc.erase]
    · split
      · rename_i hk
        simp [Assoc.erase, hk]
      · rename_i hk
        simp only [Assoc.erase, if_neg (Ne.symm hk), ih]

/-! ## Arrivals (R257, R342, R343, R393) -/

section arrival
variable {s : State} {i : Nat} {a : Arrival} {u : Nat} {x : UnitSt} {t w : Nat}

/-- An arrival that waits under its number is looked at again. -/
theorem arrivalOf_waiting (ha : s.arrivals.get? i = some a) {message : Bool} (hm : a.message = message) :
    arrivalOf s i message = some (s, i, a) := by
  simp only [arrivalOf, ha, hm, if_true]

/-- The tile after a remote write. -/
def farWritten (y : Tile) (w : Nat) (full : Bool) (v : Word) : Tile :=
  if full then (y.setWord w v).setFull w true else y.setWord w v

theorem farWritten_word (y : Tile) (w : Nat) (full : Bool) (v : Word) : (farWritten y w full v).word w = v := by
  unfold farWritten
  split
  · rw [Tile.word_setFull, Tile.word_setWord_self]
  · rw [Tile.word_setWord_self]

theorem farWritten_isFull (y : Tile) (w : Nat) (full : Bool) (v : Word) :
    (farWritten y w full v).isFull w = (full || y.isFull w) := by
  cases full <;> simp [farWritten]

/-- A write that its window and its tile take is performed (R282, R393). -/
theorem execRemoteWriteArrival_performed (ha : s.arrivals.get? i = some a) (hm : a.message = false)
    (hu : s.farUnit a.entry.toNat = some (u, x)) (hadmit : farAdmits x a.entry.toNat a.tenant = true) (hthawed : x.frozen = false)
    (hat : x.cfg.access .st a.addr 0 = .at_ t w) {k : Token} (hk : a.toks.head? = some k) :
    execRemoteWriteArrival i s = .next ({ s with arrivals := s.arrivals.erase i }.setUnit u
      (x.setTile t (farWritten (x.tile t) w a.full k.payload))) := by
  simp only [execRemoteWriteArrival, arrivalOf_waiting ha hm, hu, hadmit, hthawed, hat, hk, Bool.not_true, Bool.false_eq_true,
    if_false, Option.map_some, Option.getD_some]
  rfl

/-- MESSAGE_ARRIVAL moves a message that waits. -/
theorem execMessageArrival_waiting (ha : s.arrivals.get? i = some a) (hm : a.message = true) :
    execMessageArrival i s = .next (moveMessage { s with arrivals := s.arrivals.set i a } i) := by
  simp only [execMessageArrival, arrivalOf_waiting ha hm]

section message
variable (ha : s.arrivals.get? i = some a) (hm : a.message = true) (hu : s.farUnit a.entry.toNat = some (u, x))
  (hadmit : farAdmits x a.entry.toNat a.tenant = true) (hthawed : x.frozen = false)
  (hat : x.cfg.access .push a.addr 0 = .at_ t w)
include ha hm hu hadmit hthawed hat

/-- A message that has just come joins its ingress point (R342, R343). -/
theorem moveMessage_joins (hnew : a.passed = none) : moveMessage s i = joinPoint s i a u x t := by
  simp only [moveMessage, ha, hm, hu, hadmit, hthawed, hat, hnew, Bool.not_true, Bool.false_eq_true, if_false]

/-- What a message all of whose tokens have passed comes to (R257). -/
theorem moveMessage_passed {n : Nat} (hpassed : a.passed = some n) (hall : a.toks.length ≤ n) : moveMessage s i =
    if (x.tile t).fifo.length + a.toks.length ≤ 16384 ∧ s.clk.cyc ≤ a.since + 10800 then
      { s with arrivals := s.arrivals.erase i }.setUnit u
        { x.setTile t { x.tile t with fifo := (x.tile t).fifo ++ a.toks.map (State.admitTok x.cfg) } with quietAt := s.clk.cyc }
    else s := by
  simp only [moveMessage, ha, hm, hu, hadmit, hthawed, hat, hpassed, hall, Bool.not_true, Bool.not_false, Bool.false_eq_true,
    if_false, decide_true, Bool.true_and, Bool.and_eq_true, decide_eq_true_eq]

/-- A message all of whose tokens have passed joins its FIFO whole, where that has room and it has not been held too long (R257). -/
theorem execMessageArrival_lands {n : Nat} (hpassed : a.passed = some n) (hall : a.toks.length ≤ n)
    (hroom : (x.tile t).fifo.length + a.toks.length ≤ 16384) (hdue : s.clk.cyc ≤ a.since + 10800) :
    execMessageArrival i s = .next ({ s with arrivals := s.arrivals.erase i }.setUnit u
      { x.setTile t { x.tile t with fifo := (x.tile t).fifo ++ a.toks.map (State.admitTok x.cfg) } with
        quietAt := s.clk.cyc }) := by
  rw [execMessageArrival_waiting ha hm, moveMessage_passed (s := { s with arrivals := s.arrivals.set i a })
    (Assoc.get?_set_self ..) hm hu hadmit hthawed hat hpassed hall, if_pos ⟨hroom, hdue⟩]
  simp only [Assoc.erase_set_self]

/-- A message that still does not fit after 10,800 cycles is refused (R257). -/
theorem execMessageHoldExpiry_full {n : Nat} (hpassed : a.passed = some n) (hall : a.toks.length ≤ n)
    (hdue : a.since + 10800 ≤ s.clk.cyc) (hfull : 16384 < (x.tile t).fifo.length + a.toks.length) :
    execMessageHoldExpiry i s = .next { s with arrivals := s.arrivals.erase i } := by
  have hstays : moveMessage s i = s := by
    rw [moveMessage_passed ha hm hu hadmit hthawed hat hpassed hall, if_neg fun h => Nat.not_lt.mpr h.1 hfull]
  have hover : holdOver s a = true := by
    simp only [holdOver, hu, hm, hthawed, hdue, hpassed, hall, Bool.not_false, decide_true, Bool.and_self]
  simp only [execMessageHoldExpiry, hstays, ha, hover, if_true]

end message

/-- A message without a section that takes it is gone (R393). -/
theorem moveMessage_noUnit (ha : s.arrivals.get? i = some a) (hm : a.message = true) (hu : s.farUnit a.entry.toNat = none) :
    moveMessage s i = { s with arrivals := s.arrivals.erase i } := by
  simp only [moveMessage, ha, hm, hu, Bool.not_true, Bool.false_eq_true, if_false]

theorem execMessageHoldExpiry_noUnit (ha : s.arrivals.get? i = some a) (hm : a.message = true)
    (hu : s.farUnit a.entry.toNat = none) : execMessageHoldExpiry i s = .next { s with arrivals := s.arrivals.erase i } := by
  simp only [execMessageHoldExpiry, moveMessage_noUnit ha hm hu, Assoc.get?_erase_self]

/-- A token of a message that passes its point is counted by its message (R342, R343). -/
theorem State.enter_message {j : Ingress} (hj : j.msg ≠ 0) (ha : s.arrivals.get? j.msg = some a) {n : Nat}
    (hpassed : a.passed = some n) :
    s.canEnter j = true ∧ (s.enter j).units = s.units ∧
      (s.enter j).arrivals.get? j.msg = some { a with passed := some (n + 1), since := s.clk.cyc } := by
  simp only [State.canEnter, State.enter, if_pos hj, Assoc.get?_upd_self, ha, Option.map_some, hpassed, and_self]

end arrival

/-! ## Acknowledgements (R134, R282, R283, R393, R394) -/

section acknowledgement
variable {s : State} {i : Nat} {w : Remote}

theorem execRemoteAcknowledgement_answer (hw : s.remotes.get? i = some w) (hafter : w.after = []) (hup : s.domainUp = true)
    {x : UnitSt} (hx : s.unit? w.u = some x) :
    ∃ cause, cause ∈ (if w.message then [0, 0x14, 0x13, 0x05] else [0, 0x14, 0x05]) ∧
      (Spec.strange w.entry x.tenant = true → cause = 0x14) ∧
      execRemoteAcknowledgement i s = .next ({ s with freeCtr := s.freeCtr + 1 }.answered i w cause) := by
  have h14 : 0x14 ∈ (if w.message then [0, 0x14, 0x13, 0x05] else [0, 0x14, 0x05]) := by
    split <;> decide
  obtain ⟨cause, hmem, hanswer, hstrange⟩ := s.farAnswer_spec w.entry x.tenant h14
  refine ⟨cause, hmem, hstrange, ?_⟩
  simp only [execRemoteAcknowledgement, hw, hafter, hup, hx, hanswer, List.isEmpty_nil, Bool.not_true, Bool.or_self,
    Bool.false_eq_true, if_false]

theorem execRemoteAckTimeout_due (hw : s.remotes.get? i = some w) (hafter : w.after = []) (hdue : w.sentAt + 270000 ≤ s.clk.cyc) :
    execRemoteAckTimeout i s = .next (s.answered i w 0x14) := by
  have hdue : w.sentAt + State.farLimit ≤ s.clk.cyc := hdue
  simp only [execRemoteAckTimeout, hw, hafter, hdue, List.isEmpty_nil, decide_true, Bool.and_self, if_true]

end acknowledgement
end Sys2Proof.Machine

namespace Sys2Proof.Spec
open Machine

/-- Settles O43: each event is the operation above that it names. -/
theorem remoteEvents : Obligations.RemoteEvents := by
  unfold Obligations.RemoteEvents
  refine ⟨?write, ?joins, fun s j a n hj ha hpassed => State.enter_message hj ha hpassed, ?lands, ?full, ?noUnit,
    fun s i w x hw hafter hup hx => execRemoteAcknowledgement_answer hw hafter hup hx,
    fun s i w => execRemoteAckTimeout_due⟩
  case write =>
    intro s i a u x t w k ha hm hu hadmit hthawed hat hk
    refine ⟨_, _, execRemoteWriteArrival_performed ha hm hu hadmit hthawed hat hk, State.unit?_setUnit_self .., ?_, ?_, rfl⟩
    · rw [UnitSt.tile_setTile_self, farWritten_word]
    · rw [UnitSt.tile_setTile_self, farWritten_isFull]
  case joins =>
    intro s i a u x t w ha hm hu hadmit hthawed hat hnew p
    refine ⟨_, execMessageArrival_waiting ha hm, ?_⟩
    rw [moveMessage_joins (s := { s with arrivals := s.arrivals.set i a }) (Assoc.get?_set_self ..) hm hu hadmit hthawed hat hnew]
    exact ⟨rfl, Assoc.get?_set_self .., by simp only [joinPoint, p, Assoc.getD_set_self]⟩
  case lands =>
    intro s i a u x t w n ha hm hu hadmit hthawed hat hpassed hall hroom hdue
    exact ⟨_, _, execMessageArrival_lands ha hm hu hadmit hthawed hat hpassed hall hroom hdue, State.unit?_setUnit_self ..,
      congrArg Tile.fifo (UnitSt.tile_setTile_self x t _), rfl⟩
  case full =>
    exact fun s i a u x t w n ha hm hpassed hall hdue hu hadmit hthawed hat hfull =>
      execMessageHoldExpiry_full ha hm hu hadmit hthawed hat hpassed hall hdue hfull
  case noUnit => exact fun s i a => execMessageHoldExpiry_noUnit

end Sys2Proof.Spec
end

section
/-! PROOFS. The exact predicates: an instance that stands whole is judged, or traps where it is infinite and not masked
(R291-R305). -/

namespace Sys2Proof.Machine

/-! ## The tokens of an instance (R293) -/

theorem Elem.dequeue_fl (y : Elem) (ch : Fin 4) : (y.dequeue ch).fl = y.fl := by
  obtain ⟨i, q, h⟩ := y.dequeue_shape ch
  rw [h]

/-- Taking the tokens of an instance raises no flag. -/
theorem takeInst_fl (ch : Fin 4) (k : Nat) (y : Elem) (l : List Token) : (takeInst ch k y l).2.1.fl = y.fl := by
  induction k generalizing y l with
  | zero => rfl
  | succ k ih =>
    unfold takeInst
    split
    · rfl
    split
    · rw [ih, Elem.dequeue_fl]
    · rfl

section beat
variable {p : Machine.Pred} {sym stg nfm : Bool} {d : ODst} {ch : Fin 4} {s : State} {bt : Beat} {c : Carry}

/-- A beat of a predicate that traps has taken tokens of its instance and done nothing else (R302). -/
theorem geoBeat_trap_state {s' : State} {cause item va : Nat}
    (h : geoBeat p sym d ch stg nfm s bt c = .trap s' cause item va) :
    s' = bt.mod s fun _ => (takeInst ch (p.dim * p.points - c.toks.length) (s.elem bt.u bt.e) c.toks).2.1 := by
  unfold geoBeat at h
  dsimp only at h
  repeat' split at h
  all_goals cases h
  rfl

/-- A predicate's trap reports no flag (R302, R369). -/
theorem raisedBy_geoBeat (hunit : (s.unit? bt.u).isSome = true) :
    raisedBy (fun s => geoBeat p sym d ch stg nfm s bt c) s bt.u bt.e = 0 := by
  obtain ⟨x, hx⟩ := Option.isSome_iff_exists.mp hunit
  unfold raisedBy
  split
  · rename_i s' cause item va htrap
    have hcleared : (s.modElem bt.u bt.e fun y => { y with fl := 0 }).unit? bt.u =
        some (x.setElem bt.e { x.elem bt.e with fl := 0 }) := by
      rw [State.unit?_modElem_self, hx]
      rfl
    rw [geoBeat_trap_state htrap, Beat.mod, State.elem_modElem_self hcleared, takeInst_fl, State.elem_of_unit hcleared,
      UnitSt.elem_setElem_self]
  · rfl

end beat

theorem FVal.isInf_or_isNaN (v : FVal) : (v.isInf || v.isNaN) = !v.isFinite := by
  cases v <;> rfl

end Sys2Proof.Machine

namespace Sys2Proof.Spec
open Machine

/-! ## One instance (R291-R305) -/

section standing
variable {p : Machine.Pred} {a : Fin 4} {s : State} {bt : Beat} {c : Carry}

/-- The reorder window has a place for the result of an instance that begins (R304). -/
theorem standing.has_place (h : standing p a s bt c) : (c.n = 0 && decide (8 ≤ (s.elem bt.u bt.e).win.length)) = false := by
  obtain ⟨-, -, hwin, -, -⟩ := h
  simp [hwin]

/-- A firing that begins an instance carries nothing of one. -/
theorem standing.carry_eq (h : standing p a s bt c) : { c with n := 0, toks := [] } = c := by
  obtain ⟨hn, htoks, -, -, -⟩ := h
  rw [← hn, ← htoks]

theorem standing.takeInst_eq (h : standing p a s bt c) :
    takeInst a (p.dim * p.points - c.toks.length) (s.elem bt.u bt.e) c.toks = instanceAt p a s bt := by
  obtain ⟨-, htoks, -, -, -⟩ := h
  rw [htoks]
  rfl

/-- An instance has a first token. -/
theorem standing.exists_cons (h : standing p a s bt c) : ∃ k rest, (instanceAt p a s bt).1 = k :: rest := by
  obtain ⟨-, -, -, -, hlen⟩ := h
  have hpos : 0 < (instanceAt p a s bt).1.length := by
    rw [hlen]
    cases p <;> decide
  exact List.exists_cons_of_length_pos hpos

theorem judged_quiet (p : Machine.Pred) (sym : Bool) (d : ODst) (a : Fin 4) (stg : Bool) (s : State) (bt : Beat) :
    (judged p sym d a stg s bt).2 = [] := by
  unfold judged
  dsimp only
  repeat' split
  all_goals rfl

/-- An instance that stands whole is judged, its coordinates finite or masked (R296, R302-R304). -/
theorem geoBeat_judged (h : standing p a s bt c) (sym : Bool) (d : ODst) (stg : Bool) {nfm : Bool}
    (hmask : nfm = true ∨ ¬infinite p a s bt) : geoBeat p sym d a stg nfm s bt c =
      .go { s := (judged p sym d a stg s bt).1, c := c, cyc := p.cyclesA } := by
  have hplace := h.has_place
  have hcarry := h.carry_eq
  have htake := h.takeInst_eq
  obtain ⟨k, rest, htoks⟩ := h.exists_cons
  obtain ⟨-, -, -, hmark, hlen⟩ := h
  have hvalues : (k :: rest).mapM (coordVal bt.pal) = valuesOf p a s bt := by
    rw [valuesOf, htoks]
  rw [htoks] at hlen
  simp only [geoBeat, hplace, hcarry, htake, hmark, hlen, htoks, hvalues, Nat.lt_irrefl, Bool.false_eq_true, if_false,
    FVal.isInf_or_isNaN]
  simp only [judged, htoks]
  cases hpoison : (k :: rest).find? Token.isPoison with
  | some t => rfl
  | none =>
    cases hvals : valuesOf p a s bt with
    | none => rfl
    | some vs =>
      cases hany : vs.any fun v => !v.isFinite with
      | true =>
        have hinf : infinite p a s bt :=
          ⟨by simpa [htoks] using hpoison, vs, hvals, by simpa using hany⟩
        have hnfm := hmask.resolve_right (not_not_intro hinf)
        simp only [hany, hnfm, if_true]
        rfl
      | false =>
        simp only [hany, Bool.false_eq_true, if_false, pointsOf]
        cases decideInst p sym .a (geoPoints p.dim (k :: rest) (vs.map FVal.dy) p.points) <;> rfl

/-- An infinite instance that is not masked traps once its tokens are taken (R302). -/
theorem geoBeat_infinite (h : standing p a s bt c) (sym : Bool) (d : ODst) (stg : Bool) (hinf : infinite p a s bt) :
    geoBeat p sym d a stg false s bt c = .trap (bt.mod s fun _ => (instanceAt p a s bt).2.1) 0x25 bt.b 0 := by
  have hplace := h.has_place
  have htake := h.takeInst_eq
  obtain ⟨-, -, -, hmark, hlen⟩ := h
  obtain ⟨hclean, vs, hvals, hany⟩ := hinf
  have hpoison : (instanceAt p a s bt).1.find? Token.isPoison = none := by simpa using hclean
  have hvals : (instanceAt p a s bt).1.mapM (coordVal bt.pal) = some vs := hvals
  have hany : (vs.any fun v => !v.isFinite) = true := by simpa using hany
  simp only [geoBeat, hplace, htake, hmark, hlen, hpoison, hvals, hany, Nat.lt_irrefl, Bool.false_eq_true, if_false, if_true,
    FVal.isInf_or_isNaN]

end standing

/-! ## A firing that traps at its first beat -/

/-- A PLAN WHOSE FIRST BEAT TRAPS: the state in which its form has that beat, and the beat, decide the trap. -/
theorem Form.RunBy.fire_first_trap {m : Form} {p : Plan} (h : m.RunBy p) {s s0 s' : State} {f : Focus} {x : UnitSt} {bt : Beat}
    {n cause item va : Nat} (hfresh : Fresh s f x) (hs0 : s0 = beginFiring s f.u f.e f.slot m.t)
    (hn : n = Trig.n ((x.elem f.e).trigger m.t)) (hbt : bt = m.beat s0 f n 0 (m.cap (x.elem f.e) f.slot))
    (htokens : p.tokens (s0.elem f.u f.e) = true) (hbeat : p.beat (m.pre s0 f n 0) bt {} = .trap s' cause item va)
    (hcan : s'.canTrap f.u = true) : fire p s = .next (s'.trap f.u f.e f.slot cause item va 0 0
      (raisedBy (fun t => p.beat t bt {}) s0 f.u f.e)) := by
  subst hs0 hn hbt
  rw [fire_trap hfresh.focus hfresh.unit hfresh.elem hfresh.fresh
    (congrArg (fun t : Fin 64 => Trig.n ((x.elem f.e).trigger t)) h.t) (h.capture_eq ..)
    (fun _ => (beginFiring s f.u f.e f.slot m.t, {})) (by rw [h.t]) (Trig.n_pos _) (fun b hlt => absurd hlt b.not_lt_zero) htokens
    (by rw [h.beatOf_eq, h.taken]; exact hbeat) hcan, h.beatOf_eq]

/-! ## The predicates (R291-R305) -/

/-- Each predicate of the table is a firing of its plan. -/
theorem exec_predTable : ∀ r ∈ predTable, ∀ t d a stg nfm s,
    exec (r.1 t d a stg nfm) s = fire (geoPlan r.2.1 r.2.2 t d a stg nfm) s := by
  simp only [predTable, List.forall_mem_cons, List.not_mem_nil, false_imp_iff, implies_true, and_true]
  and_intros <;> exact fun _ _ _ _ _ _ => rfl

section predicate
variable (p : Machine.Pred) (sym : Bool) (t : Fin 64) (d : ODst) (a : Fin 4) (stg : Bool)

theorem geoForm_runBy_geoPlan (nfm : Bool) : (geoForm t a).RunBy (geoPlan p sym t d a stg nfm) :=
  ⟨rfl, rfl, rfl, rfl, rfl, rfl, rfl, rfl, fun _ _ => rfl⟩

theorem predicate_does (nfm : Bool) : (geoForm t a).Does (geoPlan p sym t d a stg nfm)
    (fun s bt c => standing p a s bt c ∧ (nfm = true ∨ ¬infinite p a s bt)) (fun _ _ => p.cyclesA)
    (each (judged p sym d a stg)) := by
  intro s bt c _ hok
  obtain ⟨hstands, hmask⟩ := hok
  refine ⟨[], ?_, ?_⟩
  · simp only [each, judged_quiet]
    exact geoBeat_judged hstands sym d stg hmask
  · simp [each, judged_quiet]

/-- A predicate takes no register, so that its beat has its effect in the state it begins in (R66). -/
theorem geoForm_pre (s : State) (f : Focus) (n b : Nat) : (geoForm t a).pre s f n b = s := by
  unfold Form.pre
  split <;> rfl

/-- A new firing whose first instance is infinite and not masked traps at it, with no flag (R302, R369). -/
theorem fire_geoPlan_infinite {s s0 s' : State} {f : Focus} {x : UnitSt} {bt : Beat} (hfresh : Fresh s f x)
    (hs0 : s0 = beginFiring s f.u f.e f.slot t)
    (hbt : bt = (geoForm t a).beat s0 f (Trig.n ((x.elem f.e).trigger t)) 0 ((geoForm t a).cap (x.elem f.e) f.slot))
    (hstands : standing p a s0 bt {}) (hinf : infinite p a s0 bt) (hs' : s' = bt.mod s0 fun _ => (instanceAt p a s0 bt).2.1)
    (hcan : s'.canTrap f.u = true) :
    fire (geoPlan p sym t d a stg false) s = .next (s'.trap f.u f.e f.slot 0x25 0 0 0 0) := by
  have hb : bt.b = 0 := by rw [hbt]; rfl
  have htrap : geoBeat p sym d a stg false s0 bt {} = .trap s' 0x25 0 0 := by
    rw [geoBeat_infinite hstands sym d stg hinf, hs', hb]
  have hunit : (s0.unit? f.u).isSome = true := by
    rw [hs0]
    exact Option.isSome_of_eq_some (beginFiring_unit hfresh.unit ..)
  have hraised : raisedBy (fun t => geoBeat p sym d a stg false t bt {}) s0 f.u f.e = 0 := by
    rw [hbt]
    exact raisedBy_geoBeat hunit
  rw [(geoForm_runBy_geoPlan p sym t d a stg false).fire_first_trap hfresh hs0 rfl hbt rfl (by rwa [geoForm_pre]) hcan]
  exact congrArg (fun fl => Host.Outcome.next (s'.trap f.u f.e f.slot 0x25 0 0 0 0 fl)) hraised

end predicate

/-- Settles O28: an instance that stands whole is judged by its plan's beat, or traps at the first one. -/
theorem predicatesComplete : Obligations.PredicatesComplete := by
  unfold Obligations.PredicatesComplete
  intro r hr t d a stg nfm
  refine ⟨(geoForm_runBy_geoPlan ..).fires (exec_predTable r hr t d a stg nfm)
    (predicate_does r.2.1 r.2.2 t d a stg nfm), ?_⟩
  rintro s s' f x hfresh rfl m n s0 bt hstands hinf hs' hcan
  rw [exec_predTable r hr]
  exact fire_geoPlan_infinite r.2.1 r.2.2 t d a stg hfresh (geoForm_pre ..) (by rw [geoForm_pre]) hstands hinf hs' hcan

end Sys2Proof.Spec
end

section
/-! PROOFS. The coordinate streams BAND, BPOS, CCMP, CSET, CGET and RTE (R306-R311). -/

namespace Sys2Proof.Spec
open Machine

/-- A bitmap aligned by 64 places or more is empty, as the shift itself has it (R306). -/
theorem alignBits_eq (b : Word) (ca cb : Nat) :
    alignBits b ca cb = if ca ≤ cb then b <<< (cb - ca) else b >>> (ca - cb) := by
  unfold alignBits
  split <;> split
  · rename_i hfar
    exact (BitVec.shiftLeft_eq_zero hfar).symm
  · rfl
  · rename_i hfar
    exact (BitVec.ushiftRight_eq_zero hfar).symm
  · rfl

theorem deliverAt_sub (bt : Beat) (n : Nat) (s : State) (d : Dst) (v : Word) (tag : BitVec 3) (fl : Flags) :
    ((bt.deliverAt n s d v tag fl).2.map Prod.fst).Sublist d.outs :=
  deliver_sub ..

theorem forwardAt_sub (bt : Beat) (n : Nat) (s : State) (d : Dst) (o : OpVal) :
    ((bt.forwardAt n s d o).2.map Prod.fst).Sublist d.outs := by
  cases d with
  | out dd => exact sendFwd_sub ..
  | g n => exact forward_sub ..
  | z => exact forward_sub ..

/-- A beat of BAND: source A and source B aligned to its coordinate; refused where F is no BITMAP64 (R306). -/
def bandEffect (d : Dst) (b : Opd) (s : State) (bt : Beat) : State × List (Nat × Token) :=
  if bt.F = some .bitmap then
    let ca := bt.a.coord
    let cb := if b.src.chan?.isSome then bt.bb.coord else ca
    bt.deliverAt ca s d (bt.a.inFmt .bitmap &&&
      (if ca ≤ cb then bt.bb.inFmt .bitmap <<< (cb - ca) else bt.bb.inFmt .bitmap >>> (ca - cb))) bt.T bt.mismatchFlag
  else refused d s bt

theorem runs_band (t : Fin 64) (d : Dst) (a b : Opd) : Completes (.band t d a b) t a b none d.outs one_ (bandEffect d b) := by
  refine completes_of_sends (dst_nodup d) (fun _ => rfl) (fun s bt c => ?_) fun s bt => ?_
  · unfold bandEffect
    split
    · simp only [alignBits_eq]
    · rfl
  · unfold bandEffect
    split
    · exact deliverAt_sub ..
    · exact deliver_sub ..

/-- A beat of BPOS: the number of the next set bit by its coordinate and by its place, or the word for none (R307). -/
def bposEffect (d : Dst) (s : State) (bt : Beat) : State × List (Nat × Token) :=
  match twinTag bt.pal .int32 with
  | none => refused d s bt
  | some tw =>
    match nextBit (bt.a.inFmt .bitmap) (bt.bb.bits.toNat % 64) with
    | some j =>
      let n := (bt.a.coord + j) % 2 ^ 32
      bt.deliverAt n s d (BitVec.ofNat 64 (n + 2 ^ 32 * (j + 1))) tw 0
    | none => bt.deliverAt bt.a.coord s d 0x00000040FFFFFFFF tw 0

theorem runs_bpos (t : Fin 64) (d : Dst) (a b : Opd) : Completes (.bpos t d a b) t a b none d.outs one_ (bposEffect d) := by
  refine completes_of_sends (dst_nodup d) (fun _ => rfl) (fun s bt c => ?_) fun s bt => ?_
  · unfold bposEffect
    cases twinTag bt.pal .int32 with
    | none => rfl
    | some tw =>
      dsimp only
      cases nextBit (bt.a.inFmt .bitmap) (bt.bb.bits.toNat % 64) <;> rfl
  · unfold bposEffect
    split
    · exact deliver_sub ..
    split <;> exact deliverAt_sub ..

theorem runs_ccmp (t : Fin 64) (d : Fin 8) (a b : Opd) : CompletesAtLast (.ccmp t d a b) t a b none []
    (compared d fun bt => (decide (bt.a.coord < bt.bb.coord), 0)) :=
  completes_compared fun _ => rfl

theorem runs_cset (t : Fin 64) (d : Dst) (a b : Opd) : Completes (.cset t d a b) t a b none d.outs one_ fun s bt =>
    bt.forwardAt (bt.bb.bits.toNat % 2 ^ 32) s d bt.a :=
  completes_of_sends (dst_nodup d) (fun _ => rfl) (fun _ _ _ => rfl) fun _ _ => forwardAt_sub ..

/-- A beat of CGET: source A's coordinate split by the width in source B, as row and column (R310). -/
def cgetEffect (d : Dst) (s : State) (bt : Beat) : State × List (Nat × Token) :=
  match twinTag bt.pal .coord with
  | none => refused d s bt
  | some tw =>
    let k := bt.a.coord
    let w := bt.bb.bits.toNat % 2 ^ 32
    bt.deliverAt k s d (ofLanes 32 [(if w = 0 then 0 else k / w) % 2 ^ 32, (if w = 0 then k else k % w) % 2 ^ 32]) tw 0

theorem runs_cget (t : Fin 64) (d : Dst) (a b : Opd) : Completes (.cget t d a b) t a b none d.outs one_ (cgetEffect d) := by
  refine completes_of_sends (dst_nodup d) (fun _ => rfl) (fun s bt c => ?_) fun s bt => ?_
  · unfold cgetEffect
    cases twinTag bt.pal .coord <;> rfl
  · unfold cgetEffect
    split
    · exact deliver_sub ..
    · exact deliverAt_sub ..

/-- A beat of RTE: a data operand leaves on the output its coordinate picks, a mark head on all; no output is invalid (R311). -/
def rteEffect (d : ODst) (s : State) (bt : Beat) : State × List (Nat × Token) :=
  let k := bt.fwd bt.a
  if k.isData = false then (s, sendFwd (outsOf d) k)
  else
    let v := (bt.a.coord + 2 ^ 32 - bt.bb.bits.toNat % 2 ^ 32) % 2 ^ 32
    match (outsOf d)[v / 2 ^ (bt.bb.bits.toNat / 2 ^ 32 % 32)]? with
    | none => (bt.raise s Flags.invalid, [])
    | some o => (s, sendFwd [o] (if bt.bb.bits.getLsbD 37 then { k with coord := BitVec.ofNat 32 v } else k))

theorem rteEffect_sub (d : ODst) (s : State) (bt : Beat) : ((rteEffect d s bt).2.map Prod.fst).Sublist (outsOf d) := by
  unfold rteEffect
  dsimp only
  split
  · exact sendFwd_sub ..
  split
  · exact List.nil_sublist _
  · rename_i o hpick
    exact (sendFwd_sub ..).trans (List.singleton_sublist.mpr (List.mem_of_getElem? hpick))

theorem runs_rte (t : Fin 64) (d : ODst) (a b : Opd) : Completes (.rte t d a b) t a b none (outsOf d) one_ (rteEffect d) := by
  refine completes_of_sends (outs_nodup d) (fun _ => rfl) (fun s bt c => ?_) (rteEffect_sub d)
  simp only [rteEffect, rtePick]
  cases (bt.fwd bt.a).isData with
  | false => rfl
  | true =>
    cases (outsOf d)[(bt.a.coord + 2 ^ 32 - bt.bb.bits.toNat % 2 ^ 32) % 2 ^ 32 /
        2 ^ (bt.bb.bits.toNat / 2 ^ 32 % 32)]? <;> rfl

/-- Settles O29: each instruction's plan runs the form of its sources, and each of its beats has the effect of its rule. -/
theorem coordinateStreams : Obligations.CoordinateStreams := by
  unfold Obligations.CoordinateStreams
  exact ⟨runs_band, runs_bpos, runs_ccmp, runs_cset, runs_cget, runs_rte⟩

end Sys2Proof.Spec
end

section
/-! PROOFS. Class 7: registers, freezing, snapshots, invalidations, configuration writes, cancels, breakpoints, counters, IDLE,
attention and log records (R347, R349-R356). -/

namespace Sys2Proof.Spec
open Machine

/-! ## Results of class 7 (R347) -/

/-- A beat that gives a result of class 7 goes. -/
theorem sysResult_eq_go (s : State) (bt : Beat) (c : Carry) (d : Dst) (v : Word) (tag : BitVec 3) (fl : Flags) :
    sysResult s bt c d v tag fl = .go { s := (answer d v tag fl s bt).1, c := c, need := bt.lateNeed d } := rfl

theorem when_not_invalid (ok : Bool) : Flags.when (!ok) Flags.invalid = if ok then 0 else Flags.invalid := by
  cases ok <;> rfl

/-- An instruction with two sources whose every beat that meets `ok` gives one late result for its destination. -/
theorem runs_of_late {i : Instr} {t : Fin 64} {a b : Opd} {d : Dst} {beat : State → Beat → Carry → Out}
    {ok : State → Beat → Prop} {eff : State → Beat → State × List (Nat × Token)}
    (hexec : ∀ s, exec i s = fire (planOf t a b none beat) s)
    (hbeat : ∀ s bt c, ok s bt → beat s bt c = .go { s := (eff s bt).1, c := c, need := bt.lateNeed d })
    (hquiet : ∀ s bt, (eff s bt).2 = []) : Runs i (form t a b none d.outs) ok one_ eff :=
  (form_runBy_planOf t a b none d.outs beat).runs_of_does hexec
    (does_late fun s bt c _ _ hok => ⟨hbeat s bt c hok, hquiet s bt⟩)

/-! ## CSRR and CSRW (R349) -/

theorem runs_csrr (t : Fin 64) (d : Dst) (a : Opd) : Completes (.csrr t d a) t a none_ none d.outs one_ fun s bt =>
    let r := s.readReg (.elem bt.u bt.e) (bt.a.bits.toNat % 65536)
    answer d r.2.1 ((bt.a.bits >>> 16).setWidth 3) (if r.2.2 then 0 else Flags.invalid) r.1 bt :=
  completes_of_late (d := d) (fun _ => rfl) (fun s bt c => by dsimp only; rw [when_not_invalid]; rfl) fun _ _ => rfl

theorem runs_csrw (t : Fin 64) (a b : Opd) : Completes (.csrw t a b) t a b none [] one_ fun s bt =>
    let r := (bt.raise s bt.poisonFlag).writeReg (.elem bt.u bt.e) (bt.a.bits.toNat % 65536) bt.bb.bits
    (bt.raise r.1 (if r.2 then 0 else Flags.invalid), []) :=
  completes_of_quiet (fun _ => rfl) fun s bt c => by dsimp only; rw [when_not_invalid]

/-- Settles O30: each instruction's plan runs the form of its sources and reads or writes the register its operand names. -/
theorem registerAccess : Obligations.RegisterAccess := by
  unfold Obligations.RegisterAccess
  exact ⟨runs_csrr, runs_csrw⟩

/-! ## FRZ, THAW, SNAP and TLBI (R350, R352) -/

/-- A code known at once and one promised both come as late results: the beat itself sends no token (R350). -/
theorem promised_snd (d : Dst) (id : Nat) (r : State × Option Nat × Flags) (bt : Beat) : (promised d id r bt).2 = [] := by
  obtain ⟨s, code, fl⟩ := r
  cases code <;> rfl

theorem runs_frz (t : Fin 64) (d : Dst) (a b : Opd) : Completes (.frz t d a b) t a b none d.outs one_ fun s bt =>
    let r := s.bumpId.freezeOp (FrzWord.of (bt.a.bits.toNat % 2 ^ 32)) (bt.bb.bits.toNat % 2 ^ 56) (some bt.u) (bt.secure s)
      (some (bt.u, bt.e, s.nextId))
    promised d s.nextId r bt := by
  refine completes_of_late (d := d) (beat := frzBeat d) (fun _ => rfl) (fun s bt c => ?_) fun s bt => promised_snd ..
  unfold frzBeat
  dsimp only
  generalize s.bumpId.freezeOp _ _ _ _ _ = r
  obtain ⟨s', code, fl⟩ := r
  cases code <;> rfl

theorem runs_thaw (t : Fin 64) (d : Dst) (a b : Opd) : Completes (.thaw t d a b) t a b none d.outs one_ fun s bt =>
    let r := s.bumpId.thawOp (FrzWord.of (bt.a.bits.toNat % 2 ^ 32)) (bt.bb.bits.toNat % 2 ^ 56) (bt.secure s)
      (some (bt.u, bt.e, s.nextId))
    promised d s.nextId r bt := by
  refine completes_of_late (d := d) (beat := thawBeat d) (fun _ => rfl) (fun s bt c => ?_) fun s bt => promised_snd ..
  unfold thawBeat
  dsimp only
  generalize s.bumpId.thawOp _ _ _ _ = r
  obtain ⟨s', code, fl⟩ := r
  cases code <;> rfl

theorem runs_snap (t : Fin 64) (d : Dst) (a : Opd) : Completes (.snap t d a) t a none_ none d.outs one_ fun s bt =>
    answer d (BitVec.ofNat 64 (s.askSnap bt.u).2) bt.T 0 (s.askSnap bt.u).1 bt :=
  completes_of_late (d := d) (fun _ => rfl) (fun _ _ _ => rfl) fun _ _ => rfl

/-- What TLBI does for its range: 3 where it names none, else an invalidation whose result is promised (R350, R365). -/
def tlbiEffect (d : Dst) (x : UnitSt) (s : State) (bt : Beat) : State × List (Nat × Token) :=
  match tlbiRange bt.a.bits.toNat bt.bb.bits.toNat with
  | none => answer d 3 bt.T 0 s bt
  | some (lo, hi) =>
    let s1 := bt.promise (bt.raise s.bumpId bt.poisonFlag) d bt.T 0 s.nextId
    (s1.tlbiStart { tenant := x.tenant, lo := lo, hi := hi, u := bt.u, e := bt.e, late := some s.nextId }, [])

theorem runs_tlbi (t : Fin 64) (d : Dst) (a b : Opd) (x : UnitSt) :
    Runs (.tlbi t d a b) (form t a b none d.outs) (inUnit x) one_ (tlbiEffect d x) := by
  refine runs_of_late (beat := tlbiBeat d) (fun _ => rfl) (fun s bt c hx => ?_) fun s bt => ?_
  · unfold inUnit at hx
    simp only [tlbiBeat, tlbiEffect, hx]
    cases tlbiRange bt.a.bits.toNat bt.bb.bits.toNat <;> rfl
  · unfold tlbiEffect
    cases tlbiRange bt.a.bits.toNat bt.bb.bits.toNat <;> rfl

/-- Settles O31: each plan runs the form of its sources; its code is known at once or promised. -/
theorem freezeThawSnapInvalidate : Obligations.FreezeThawSnapInvalidate := by
  unfold Obligations.FreezeThawSnapInvalidate
  exact ⟨runs_frz, runs_thaw, runs_snap, runs_tlbi⟩

/-! ## CFGW and CANC (R353, R354) -/

/-- A CFGW whose target is not in the middle of a firing and whose words can be corrected writes, or is refused (R353). -/
theorem cfgwBeat_checked {d : Dst} {s : State} {bt : Beat} {v e : Nat}
    (htarget : s.cfgwTarget bt.u bt.a.bits.toNat = some (v, e))
    (hidle : (s.elem v e).firing = none ∨ (v = bt.u ∧ e = bt.e))
    (hwhole : cfgwBroken (s.elem v e) (bitsOf bt.a.bits.toNat 17 16) bt.bb.bits = false) (c : Carry) :
    cfgwBeat d s bt c =
      let item := bitsOf bt.a.bits.toNat 17 16
      let idx := bitsOf bt.a.bits.toNat 23 18
      let code := cfgwReason (s.cfgOf v) (((s.unit? v).map UnitSt.priv).getD false) (s.elem v e) item idx bt.bb.bits
      sysResult (if code = 0 then s.modElem v e fun y => cfgwWrite y item idx bt.bb.bits else s) bt c d
        (BitVec.ofNat 64 code) bt.T 0 := by
  have hgoes : ((s.elem v e).firing.isSome && !(v == bt.u && e == bt.e)) = false := by
    rcases hidle with hnone | ⟨rfl, rfl⟩
    · rw [hnone]; rfl
    · simp
  simp only [cfgwBeat, htarget, hgoes, hwhole, Bool.false_eq_true, if_false]

/-- A CFGW to another element whose words cannot be corrected traps that element (R174, R353). -/
theorem cfgwBeat_broken {d : Dst} {s : State} {bt : Beat} {v e : Nat}
    (htarget : s.cfgwTarget bt.u bt.a.bits.toNat = some (v, e)) (hidle : (s.elem v e).firing = none)
    (hother : ¬(v = bt.u ∧ e = bt.e))
    (hbroken : cfgwBroken (s.elem v e) (bitsOf bt.a.bits.toNat 17 16) bt.bb.bits = true) (hcan : s.canTrap v = true)
    (c : Carry) :
    cfgwBeat d s bt c = sysResult (({ s with freeCtr := s.freeCtr + 1 } : State).trap v e
      (if bitsOf bt.a.bits.toNat 17 16 = 2 then 0 else bitsOf bt.a.bits.toNat 23 18) 0x27 0 0 0 0) bt c d
        (BitVec.ofNat 64 (Config.free s.freeCtr % 256)) bt.T 0 := by
  have hself : (v == bt.u && e == bt.e) = false := by simpa using hother
  simp only [cfgwBeat, htarget, hidle, hself, hbroken, hcan, Option.isSome_none, Bool.false_and, Bool.not_true,
    Bool.false_eq_true, if_false, if_true]

theorem runs_cfgw_checked (t : Fin 64) (d : Dst) (a b : Opd) (v e : Nat) : Runs (.cfgw t d a b) (form t a b none d.outs)
    (fun s bt => s.cfgwTarget bt.u bt.a.bits.toNat = some (v, e) ∧ ((s.elem v e).firing = none ∨ (v = bt.u ∧ e = bt.e)) ∧
      cfgwBroken (s.elem v e) (bitsOf bt.a.bits.toNat 17 16) bt.bb.bits = false) one_
    fun s bt =>
      let item := bitsOf bt.a.bits.toNat 17 16
      let idx := bitsOf bt.a.bits.toNat 23 18
      let code := cfgwReason (s.cfgOf v) (((s.unit? v).map UnitSt.priv).getD false) (s.elem v e) item idx bt.bb.bits
      answer d (BitVec.ofNat 64 code) bt.T 0 (if code = 0 then s.modElem v e fun y => cfgwWrite y item idx bt.bb.bits else s)
        bt :=
  runs_of_late (beat := cfgwBeat d) (fun _ => rfl) (fun _ _ c ⟨htarget, hidle, hwhole⟩ => cfgwBeat_checked htarget hidle hwhole c)
    fun _ _ => rfl

theorem runs_cfgw_broken (t : Fin 64) (d : Dst) (a b : Opd) (v e : Nat) : Runs (.cfgw t d a b) (form t a b none d.outs)
    (fun s bt => s.cfgwTarget bt.u bt.a.bits.toNat = some (v, e) ∧ (s.elem v e).firing = none ∧ ¬(v = bt.u ∧ e = bt.e) ∧
      cfgwBroken (s.elem v e) (bitsOf bt.a.bits.toNat 17 16) bt.bb.bits = true ∧ s.canTrap v = true) one_
    fun s bt =>
      let slot := if bitsOf bt.a.bits.toNat 17 16 = 2 then 0 else bitsOf bt.a.bits.toNat 23 18
      answer d (BitVec.ofNat 64 (Config.free s.freeCtr % 256)) bt.T 0
        (({ s with freeCtr := s.freeCtr + 1 } : State).trap v e slot 0x27 0 0 0 0) bt :=
  runs_of_late (beat := cfgwBeat d) (fun _ => rfl)
    (fun _ _ c ⟨htarget, hidle, hother, hbroken, hcan⟩ => cfgwBeat_broken htarget hidle hother hbroken hcan c) fun _ _ => rfl

theorem runs_cfgw_noTarget (t : Fin 64) (d : Dst) (a b : Opd) : Runs (.cfgw t d a b) (form t a b none d.outs)
    (fun s bt => s.cfgwTarget bt.u bt.a.bits.toNat = none) one_ fun s bt => answer d 0x11 bt.T 0 s bt :=
  runs_of_late (beat := cfgwBeat d) (fun _ => rfl) (fun _ _ _ hnone => by simp only [cfgwBeat, hnone]; rfl) fun _ _ => rfl

/-- Outside the cycle of a host's CANCEL a CANC cancels at its level, a refusal with invalid (R354). -/
theorem runs_canc (t : Fin 64) (d : Dst) (a : Opd) (x : UnitSt) : Runs (.canc t d a) (form t a none_ none d.outs)
    (fun s bt => inUnit x s bt ∧ s.host.cancelAt ≠ some s.clk.cyc) one_ fun s bt =>
    let r := cancOp s x bt.a.bits.toNat
    answer d (BitVec.ofNat 64 r.2) bt.T (if r.2 = 2 then Flags.invalid else 0) r.1 bt := by
  refine runs_of_late (fun _ => rfl) (fun s bt c ⟨hx, hnoCancel⟩ => ?_) fun _ _ => rfl
  unfold inUnit at hx
  simp only [hx, hnoCancel, if_false, sysResult_eq_go, Flags.when, beq_iff_eq]

/-- Settles O32: CFGW's plan looks at its target first and CANC's at the host; each gives one result. -/
theorem configurationWritesAndCancels : Obligations.ConfigurationWritesAndCancels := by
  unfold Obligations.ConfigurationWritesAndCancels
  exact ⟨runs_cfgw_checked, runs_cfgw_broken, runs_cfgw_noTarget, runs_canc⟩

/-! ## Counts (R355) -/

/-- A count that the model looks up by its code is one that the rule lists. -/
theorem perfCount_eq_perfOf {s : State} {bt : Beat} {x : UnitSt} (hx : s.unit? bt.u = some x) :
    perfCount s x bt.e (bt.a.bits.toNat % 256) = perfOf s bt := by
  unfold perfOf
  rw [hx]
  dsimp only
  generalize bt.a.bits.toNat % 256 = n
  fun_cases perfCount s x bt.e n
  case case8 h0 h1 h2 h3 h4 h5 h6 =>
    have hge : ¬n < 4 := by grind
    rw [if_neg h1, dif_neg hge, if_neg h4, if_neg h5, if_neg h6]
  all_goals rfl

theorem timeCount_eq_timeOf (s : State) (bt : Beat) : timeCount s bt.u (bt.a.bits.toNat % 8) = timeOf s bt := by
  unfold timeOf
  dsimp only
  generalize bt.a.bits.toNat % 8 = n
  fun_cases timeCount s bt.u n
  case case7 h0 h1 h2 h3 h4 h5 => rw [if_neg h0, if_neg h1, if_neg h2, if_neg h3, if_neg h4, if_neg h5]
  all_goals rfl

theorem counted_snd (d : Dst) (n : Option Nat) (s : State) (bt : Beat) : (counted d n s bt).2 = [] := by
  cases n <;> rfl

theorem countResult_eq_go (s : State) (bt : Beat) (c : Carry) (d : Dst) (n : Option Nat) :
    countResult s bt c d n = .go { s := (counted d n s bt).1, c := c, need := bt.lateNeed d } := by
  cases n <;> rfl

theorem runs_perf (t : Fin 64) (d : Dst) (a : Opd) :
    Completes (.perf t d a) t a none_ none d.outs one_ fun s bt => counted d (perfOf s bt) s bt := by
  refine runs_of_late (fun _ => rfl) (fun s bt c _ => ?_) fun s bt => counted_snd ..
  rw [countResult_eq_go]
  cases hx : s.unit? bt.u with
  | none => simp only [perfOf, hx]
  | some x => rw [← perfCount_eq_perfOf hx]

theorem runs_time (t : Fin 64) (d : Dst) (a : Opd) :
    Completes (.time t d a) t a none_ none d.outs one_ fun s bt => counted d (timeOf s bt) s bt :=
  runs_of_late (fun _ => rfl) (fun s bt c _ => by rw [countResult_eq_go, timeCount_eq_timeOf])
    fun s bt => counted_snd ..

/-! ## BRK, IDLE, ATTN and LOG (R351, R355, R356) -/

/-- An instruction with two sources and no output whose every beat that meets `ok` changes the state only. -/
theorem runs_of_quiet {i : Instr} {t : Fin 64} {a b : Opd} {beat : State → Beat → Carry → Out} {ok : State → Beat → Prop}
    {eff : State → Beat → State} (hexec : ∀ s, exec i s = fire (planOf t a b none beat) s)
    (hbeat : ∀ s bt c, ok s bt → beat s bt c = .go { s := eff s bt, c := c }) :
    Runs i (form t a b none []) ok one_ fun s bt => (eff s bt, []) :=
  (form_runBy_planOf t a b none [] beat).runs_quiet hexec fun s bt c _ => hbeat s bt c

theorem runs_brk (t : Fin 64) (x : UnitSt) : Runs (.brk t) (form t none_ none_ none []) (inUnit x) one_ fun s bt =>
    (if x.debug then
       (bt.mod s fun y => { y with pick := .brk }).putFault { State.elemRec x bt.e bt.slot with kind := 2, cause := 0x28 }
     else s, []) := by
  refine runs_of_quiet (a := none_) (b := none_) (beat := brkBeat) (fun _ => rfl) fun s bt c hx => ?_
  unfold inUnit at hx
  simp only [brkBeat, hx]
  split <;> rfl

theorem runs_idle (t : Fin 64) (a : Opd) (x : UnitSt) : Runs (.idle t a) (form t a none_ none []) (inUnit x) one_ fun s bt =>
    let n := bt.a.bits.toNat % 2 ^ 24
    (bt.mod (bt.raise s bt.poisonFlag) fun y =>
      { y with pick := .idle (if n = 0 then none else some (s.clk.cyc + n)) (match a.src.chan? with
        | some ch => if a.peek then idleSig x bt.e else listUpd (idleSig x bt.e) ch.val fun _ => 0
        | none => idleSig x bt.e) }, []) := by
  refine runs_of_quiet (fun _ => rfl) fun s bt c hx => ?_
  unfold inUnit at hx
  cases a.src.chan? <;> simp only [hx]

theorem runs_attn (t : Fin 64) (a : Opd) (x : UnitSt) : Runs (.attn t a) (form t a none_ none [])
    (fun s bt => inUnit x s bt ∧ s.waitingRecs (s.queueOf x.job) < 64) one_
    fun s bt => ((bt.raise s bt.poisonFlag).putRecord (s.queueOf x.job) .comp (attnRecord bt.a.bits), []) := by
  refine runs_of_quiet (fun _ => rfl) fun s bt c ⟨hx, hroom⟩ => ?_
  unfold inUnit at hx
  simp only [hx, if_neg (Nat.not_le.mpr hroom)]

theorem runs_log (t : Fin 64) (a b : Opd) (x : UnitSt) : Runs (.log t a b) (form t a b none []) (inUnit x) one_ fun s bt =>
    let q := s.queueOf x.job
    let r := (s.queue q).log
    let s1 := bt.raise s bt.poisonFlag
    (if ({ r with wr := (r.wr + r.waiting.length) % 2 ^ 32 } : Ring).room then
       s1.putRecord q .log (bytesOfNat 8 bt.a.bits.toNat ++ bytesOfNat 8 bt.bb.bits.toNat)
     else s1.countUp 0x0501, []) := by
  refine runs_of_quiet (fun _ => rfl) fun s bt c hx => ?_
  unfold inUnit at hx
  simp only [hx]

/-- Settles O33: each plan runs the form of its sources and its beat has the effect of its rule. -/
theorem controlAndCounters : Obligations.ControlAndCounters := by
  unfold Obligations.ControlAndCounters
  exact ⟨runs_brk, runs_perf, runs_time, runs_idle, runs_attn, runs_log⟩

end Sys2Proof.Spec
end

section
/-! PROOFS. Units that are placed, thawed and rotated (R337, R346, R376, R381, R411). -/

namespace Sys2Proof.Machine

variable {s : State} {u : Nat} {x : UnitSt}

/-! ## Placement (R61, R337) -/

/-- A unit armed on a rectangle runs there from this cycle on, its tile count afresh. -/
theorem State.armUnit_runs (hx : s.unit? u = some x) (k : Rect) :
    ∃ y, (s.armUnit u k).unit? u = some y ∧ y.phase = .running ∧ y.nw = k.nw ∧ y.armedAt = s.clk.cyc ∧
      y.count = (if x.tiles0 = 0 then none else some x.tiles0) := by
  unfold State.armUnit
  simp only [hx]
  refine ⟨_, State.unit?_setUnit_self _ _ _, ?_⟩
  cases s.resident? x with
  | none => exact ⟨rfl, rfl, rfl, rfl⟩
  | some r =>
    dsimp only
    split <;> exact ⟨rfl, rfl, rfl, rfl⟩

theorem execUnitPlacement_arms {k : Rect} (hx : s.unit? u = some x) (hwaits : x.phase = .waiting)
    (hfirst : ((s.before u x).any fun y => (s.rectFor y).isSome && !s.rollsBack y) = false) (hstays : s.rotation? x = none)
    (hwhole : s.rollsBack x = false) (hrect : s.rectFor x = some k) :
    execUnitPlacement u s = .next (((s.armUnit u k).settleSince x.job).admitHeld u) := by
  simp only [execUnitPlacement, hx, hwaits, hfirst, hstays, hwhole, hrect, Option.isSome_none, Bool.or_self,
    Bool.false_eq_true, if_false]

/-! ## Thawing (R376, R411) -/

section thaw
variable {man : Nat} {m : ImgRead} {q : Option Nat} {who : Option (Nat × Nat × Nat)} {y : UnitSt}
  (hread : Spec.thawRead s u = some (man, m)) (huse : m.use = .thaw u q who) (himage : imageInto m.words m.len x false = some y)
include hread huse himage

theorem State.placeThaw_of_room {k : Rect} (hroom : s.thawRect y.cfg x.secure x.job (imageQuarter m.words) q = some k) :
    s.placeThaw u x = ((s.manOver man).thawInto u k (some y)).outcome who 0 0 := by
  unfold Spec.thawRead at hread
  simp only [State.placeThaw, hread, huse, himage, hroom]

theorem State.placeThaw_of_full (hfull : s.thawRect y.cfg x.secure x.job (imageQuarter m.words) q = none) :
    s.placeThaw u x = if q.isSome then (s.manOver man).outcome who 3 0 else s := by
  unfold Spec.thawRead at hread
  simp only [State.placeThaw, hread, huse, himage, hfull, State.readFailed]

end thaw

/-! ## Rotation (R346) -/

/-- What is kept of the section of `x` stands on rectangle `k`; what other sections kept there is gone. -/
def State.rotated (s : State) (x : UnitSt) (k : Rect) : State :=
  { s.evict x k with residents := (s.evict x k).residents.map fun r =>
      if r.job == x.job && r.section_ == x.section_ && r.replica == x.replica then { r with nw := some k.nw } else r }

theorem execSectionRotation_moves {k : Rect} (hx : s.unit? u = some x) (hwaits : x.phase = .waiting)
    (hrotate : s.rotation? x = some k) : execSectionRotation u s = .next (s.rotated x k) := by
  simp only [execSectionRotation, hx, hwaits, hrotate, bne_self_eq_false, Bool.false_eq_true, if_false]
  rfl

/-- A section that was rotated is kept on its new rectangle. -/
theorem State.nw_of_mem_rotated {k : Rect} {r : Resident} (hr : r ∈ (s.rotated x k).residents) (hjob : r.job = x.job)
    (hsection : r.section_ = x.section_) (hreplica : r.replica = x.replica) : r.nw = some k.nw := by
  obtain ⟨old, -, rfl⟩ := List.mem_map.mp hr
  split
  · rfl
  · rename_i hother
    rw [if_neg hother] at hjob hsection hreplica
    simp [hjob, hsection, hreplica] at hother

end Sys2Proof.Machine

namespace Sys2Proof.Spec
open Machine

/-- Settles O47: a unit is armed or thawed where it has a rectangle, and a section rotated to its cooler one. -/
theorem placementEvents : Obligations.PlacementEvents := by
  unfold Obligations.PlacementEvents
  refine ⟨fun s u x k hx hwaits hfirst hstays hwhole hrect => ?_,
    fun s u x img dr man m q who y hx hfrozen hread huse himage => ?_, fun s u x k hx hwaits hrotate => ?_⟩
  · exact ⟨execUnitPlacement_arms hx hwaits hfirst hstays hwhole hrect, State.armUnit_runs hx k⟩
  · have hexec : exec (.unitPlacement u) s = .next (s.placeThaw u x) := by
      simp only [exec, execUnitPlacement, hx, hfrozen]
    exact ⟨fun k hroom => hexec.trans (congrArg _ (State.placeThaw_of_room hread huse himage hroom)),
      fun hfull => hexec.trans (congrArg _ (State.placeThaw_of_full hread huse himage hfull))⟩
  · exact ⟨s.rotated x k, execSectionRotation_moves hx hwaits hrotate, rfl, fun r hr => State.nw_of_mem_rotated hr⟩

end Sys2Proof.Spec
end

section
/-! PROOFS. The host's queues: records that arrive, the arbiter's take, queues that close, waits that end, read indices that move
(R326-R334, R357, R388, R390). -/

namespace Sys2Proof.Machine

variable {s : State} {q : Nat} {rec : List Byte}

/-! ## A queue after marks and writes -/

@[simp] theorem State.queue_markSince_recs (s : State) (q : Nat) : (s.markSince.queue q).recs = (s.queue q).recs := by
  obtain ⟨since, aged, h⟩ := s.queue_markSince q
  rw [h]

@[simp] theorem State.queue_markSince_used (s : State) (q : Nat) : (s.markSince.queue q).used = (s.queue q).used := by
  obtain ⟨since, aged, h⟩ := s.queue_markSince q
  rw [h]

/-! ## A record behind those of its queue (R326, R357) -/

theorem Queue.store_used (x : Queue) (now : Nat) (rec : List Byte) (mgmt : Bool) : (x.store now rec mgmt).used = x.used := by
  unfold Queue.store
  cases mgmt <;> rfl

theorem Queue.store_user_recs (x : Queue) (now : Nat) (rec : List Byte) : (x.store now rec false).recs = x.recs ++ [(rec, false)] := by
  simp only [Queue.store, Bool.false_eq_true, if_false]

/-- A record of the management view stands last where none came through the user view in its cycle. -/
theorem Queue.store_mgmt_recs {x : Queue} {now : Nat} (h : x.userNow.1 ≠ now) (rec : List Byte) :
    (x.store now rec true).recs = x.recs ++ [(rec, true)] := by
  simp only [Queue.store, if_neg h, if_true, Nat.sub_zero, List.take_length, List.drop_length]

theorem Queue.mem_store_mgmt (x : Queue) (now : Nat) (rec : List Byte) : (rec, true) ∈ (x.store now rec true).recs := by
  simp [Queue.store]

/-! ## Arrival (R323, R326, R327) -/

/-- The window of a queue in a view: the management view below 131,072, the user view from there on (R323, R326). -/
def windowOf (q : Nat) (mgmt : Bool) : Nat := if mgmt then q else q + 131072

/-- What queue `q` does with a record that reaches it (R326, R327). -/
def State.queueAnswers (s : State) (q : Nat) (rec : List Byte) (mgmt : Bool) : Host.Outcome State Fault Refusal :=
  let x := s.queue q
  match x.st with
  | .opened =>
    if x.credit ≤ x.used ∨ 16384 ≤ s.stored then .next (s.putRecord q .comp (compRecord (recCmd rec) 4 0 (recTag rec) 0 []))
    else .next (s.setQueue q { x.store s.clk.cyc rec mgmt with used := x.used + 1 }).markSince
  | .closed =>
    if recCmd rec = 1 ∧ x.recs.isEmpty then .next (s.setQueue q { x with recs := [(rec, mgmt)] }) else .next (s.countUp 0x0502)
  | .closing => .next (s.countUp 0x0502)

section arrival
variable (hpower : s.boot.powered = true) (hlink : s.linkUp = true) (hq : q < 131072) (mgmt : Bool)
include hpower hlink hq

/-- A record that is no command, reaches a device that takes none, or finds its queue closing, or closed where it is no OPEN, is
discarded and counted (R323, R326). -/
theorem execQueueRecordArrival_discards (h : rec.length ≠ 64 ∨ s.boot.code ≠ 4 ∨ (s.queue q).st = .closing ∨
    ((s.queue q).st = .closed ∧ recCmd rec ≠ 1)) : execQueueRecordArrival q rec s = .next (s.countUp 0x0502) := by
  have hwindow : ¬262144 ≤ q := by omega
  simp only [execQueueRecordArrival, Nat.mod_eq_of_lt hq, hpower, hlink, decide_eq_false hwindow, Bool.not_true, Bool.or_self,
    Bool.false_eq_true, if_false]
  by_cases hbad : rec.length ≠ 64 ∨ s.boot.code ≠ 4
  · rw [if_pos hbad]
  rw [if_neg hbad]
  rcases h with h | h | hclosing | ⟨hclosed, hcmd⟩
  · exact absurd (.inl h) hbad
  · exact absurd (.inr h) hbad
  · rw [hclosing]
  · rw [hclosed]
    simp only [hcmd, false_and, if_false]

variable (hlen : rec.length = 64) (hcode : s.boot.code = 4)
include hlen hcode

/-- A record that reaches a device that takes commands goes by the state of its queue. -/
theorem execQueueRecordArrival_goes : execQueueRecordArrival (windowOf q mgmt) rec s = s.queueAnswers q rec mgmt := by
  have hqueue : windowOf q mgmt % 131072 = q := by cases mgmt <;> simp [windowOf, Nat.mod_eq_of_lt hq]
  have hview : decide (windowOf q mgmt < 131072) = mgmt := by cases mgmt <;> simp [windowOf, hq]
  have hwindow : ¬262144 ≤ windowOf q mgmt := by cases mgmt <;> simp [windowOf] <;> omega
  simp only [execQueueRecordArrival, hqueue, hview, hpower, hlink, decide_eq_false hwindow, hlen, hcode, Bool.not_true,
    Bool.or_self, Bool.false_eq_true, ne_eq, not_true_eq_false, or_self, if_false]
  rfl

theorem execQueueRecordArrival_queues (hopen : (s.queue q).st = .opened) (hcredit : (s.queue q).used < (s.queue q).credit)
    (hroom : s.stored < 16384) : execQueueRecordArrival (windowOf q mgmt) rec s =
      .next (s.setQueue q { (s.queue q).store s.clk.cyc rec mgmt with used := (s.queue q).used + 1 }).markSince := by
  have hfits : ¬((s.queue q).credit ≤ (s.queue q).used ∨ 16384 ≤ s.stored) := by omega
  rw [execQueueRecordArrival_goes hpower hlink hq mgmt hlen hcode]
  simp only [State.queueAnswers, hopen, if_neg hfits]

theorem execQueueRecordArrival_overruns (hopen : (s.queue q).st = .opened)
    (hfull : (s.queue q).credit ≤ (s.queue q).used ∨ 16384 ≤ s.stored) : execQueueRecordArrival (windowOf q mgmt) rec s =
      .next (s.putRecord q .comp (compRecord (recCmd rec) 4 0 (recTag rec) 0 [])) := by
  rw [execQueueRecordArrival_goes hpower hlink hq mgmt hlen hcode]
  simp only [State.queueAnswers, hopen, if_pos hfull]

theorem execQueueRecordArrival_opens (hclosed : (s.queue q).st = .closed) (hopen : recCmd rec = 1) (hnone : (s.queue q).recs = []) :
    execQueueRecordArrival (windowOf q mgmt) rec s = .next (s.setQueue q { s.queue q with recs := [(rec, mgmt)] }) := by
  rw [execQueueRecordArrival_goes hpower hlink hq mgmt hlen hcode]
  simp [State.queueAnswers, hclosed, hopen, hnone]

end arrival

/-! ## The arbiter (R332) -/

/-- The arbiter's turns change no queue. -/
theorem State.queues_of_serveTurn {qs : List Nat} {n : Nat} {h h' : HostPort}
    (hturn : s.serveTurn qs n h = some (q, h')) : h'.queues = h.queues := by
  fun_induction State.serveTurn s qs n h
  case case1 => cases hturn
  case case2 => cases hturn; rfl
  all_goals
    rename_i hrest
    dsimp +zetaDelta only at hturn
    split at hturn
    · exact hrest _ hturn
    · cases hturn

theorem State.queues_of_pickQueue {h : HostPort} (hpick : s.pickQueue = some (q, h)) : h.queues = s.host.queues :=
  State.queues_of_serveTurn hpick

/-- The device once the arbiter, come to state `h`, has taken record `b` of queue `q`, whose other records are `rest`. -/
def State.tookRecord (s : State) (h : HostPort) (q : Nat) (b : List Byte) (mgmt : Bool) (rest : List (List Byte × Bool)) : State :=
  let t := State.setQueue { s with host := { h with nextTake := s.clk.cyc + 8 } } q
    { s.queue q with recs := rest, since := none, aged := 0 }
  { t with host := { t.host with taken := t.host.taken ++ [(q, b, mgmt)] } }.markSince

/-- The arbiter takes the head record of the queue whose turn it is, where the record is good and came through its view (R328,
R332). -/
theorem execQueueArbiterTake_takes {h : HostPort} {b : List Byte} {mgmt : Bool} {rest : List (List Byte × Bool)}
    (hdue : s.host.nextTake ≤ s.clk.cyc) (hpick : s.markSince.pickQueue = some (q, h))
    (hrecs : (s.markSince.queue q).recs = (b, mgmt) :: rest) (hgood : recGood b = true) (hopen : recCmd b ≠ 1)
    (hview : mgmtOnly (recCmd b) = true → mgmt = true) :
    execQueueArbiterTake s = .next (s.markSince.tookRecord h q b mgmt rest) := by
  have hadmitted : (!recGood b || (mgmtOnly (recCmd b) && !mgmt) || recCmd b == 1) = false := by
    cases hm : mgmtOnly (recCmd b) with
    | false => simp [hgood, hopen]
    | true => simp [hgood, hopen, hview hm]
  have hnow : ¬s.markSince.clk.cyc < s.markSince.host.nextTake := Nat.not_lt.mpr hdue
  unfold execQueueArbiterTake
  generalize s.markSince = t at *
  have hqueues : h.queues = t.host.queues := State.queues_of_pickQueue hpick
  have hqueue : State.queue { t with host := { h with nextTake := t.clk.cyc + 8 } } q = t.queue q :=
    congrArg (fun m : Assoc Queue => m.getD q {}) hqueues
  simp only [if_neg hnow, hpick, hqueue, hrecs, hadmitted, Bool.false_eq_true, if_false]
  rfl

theorem State.recs_tookRecord (s : State) (h : HostPort) (q : Nat) (b : List Byte) (mgmt : Bool) (rest : List (List Byte × Bool)) :
    ((s.tookRecord h q b mgmt rest).queue q).recs = rest := by
  rw [State.tookRecord, State.queue_markSince_recs]
  exact congrArg Queue.recs (State.queue_setQueue_self _ q _)

/-! ## Queues that close (R329, R401) -/

/-- A closing queue with nothing left to do or to write. -/
structure State.Closable (s : State) (q : Nat) (b : List Byte) : Prop where
  close : (s.queue q).close = some b
  closing : (s.queue q).st = .closing
  jobs : (s.queue q).jobs = []
  recs : (s.queue q).recs = []
  wait : (s.queue q).wait = none
  taken : (s.host.taken.any fun t => t.1 == q) = false
  comp : (s.queue q).comp.waiting = []
  log : (s.queue q).log.waiting = []
  fault : (s.queue q).fault.waiting = []
  room : (s.queue q).comp.room = true
  link : s.linkUp = true

theorem execQueueClosed_closes {b : List Byte} (h : s.Closable q b) :
    ∃ r, execQueueClosed q s = .next r ∧ (r.queue q).st = .closed ∧ ∀ p ∈ r.host.images, p.2.queue ≠ q := by
  simp only [execQueueClosed, h.close, h.closing, h.jobs, h.recs, h.wait, h.taken, h.comp, h.log, h.fault, h.room, h.link,
    bne_self_eq_false, List.isEmpty_nil, Option.isSome_none, Bool.and_self, Bool.not_true, Bool.or_self, Bool.false_eq_true,
    if_false]
  refine ⟨_, rfl, ?_, fun p hp => ?_⟩
  · split <;> exact congrArg Queue.st (State.queue_setQueue_self _ q _)
  · have hkept : p ∈ (s.reply q b 0 0 0 []).host.images.filter fun p => p.2.queue != q := by
      split at hp <;> exact hp
    simpa using (List.mem_filter.mp hkept).2

/-! ## Waits that end, and read indices (R329, R388) -/

theorem execQueueWaitRelease_replies {b : List Byte} {j : Job} (hwait : (s.queue q).wait = some b)
    (hjob : s.job (recField b 12 2) = some j) (hdone : waitDone j b = true) :
    execQueueWaitRelease q s = .next ((s.setQueue q { s.queue q with wait := none }).reply q b 0 0
      (if recField b 8 1 = 0 then recField b 12 2 else (j.counters.getD (recField b 14 1) 0).toNat) []) := by
  simp only [execQueueWaitRelease, hwait, hjob, hdone, if_true]

/-- A read index that the host writes lets records land that waited for room. -/
theorem execRingReadIndexWrite_moves {p : Nat × RingSel} (hring : p ∈ [(0, RingSel.comp), (1, .log), (2, .fault)])
    (hpower : s.boot.powered = true) (hlink : s.linkUp = true) (hcode : s.boot.code ≠ 5) (hq : q < 131072) (idx : Nat) :
    execRingReadIndexWrite q p.1 idx s =
      .next (((s.setQueue q ((s.queue q).setRing p.2 { (s.queue q).ring p.2 with rd := idx % 2 ^ 32 })).flushRing q p.2).markSince) := by
  have hanswers : (!s.boot.powered || !s.linkUp || s.boot.code == 5 || decide (131072 ≤ q)) = false := by
    simp [hpower, hlink, hcode, hq]
  simp only [List.mem_cons, List.not_mem_nil, or_false] at hring
  rcases hring with rfl | rfl | rfl <;> simp [execRingReadIndexWrite, hanswers]

end Sys2Proof.Machine

namespace Sys2Proof.Spec
open Machine

/-- Settles O48: each event is the operation above that it names. -/
theorem queueEvents : Obligations.QueueEvents := by
  unfold Obligations.QueueEvents
  refine ⟨fun s q rec hpower hlink hq h => execQueueRecordArrival_discards hpower hlink hq h,
    fun s q rec hpower hlink hq hlen hcode hopen hcredit hroom => ?_,
    fun s q rec hpower hlink hq hlen hcode hopen hcredit hroom => ?_,
    fun s q rec mgmt hpower hlink hq hlen hcode =>
      ⟨execQueueRecordArrival_overruns hpower hlink hq mgmt hlen hcode, execQueueRecordArrival_opens hpower hlink hq mgmt hlen hcode⟩,
    fun s q h b mgmt rest hdue hpick hrecs hgood hopen hview => ?_,
    fun s q b hclose hclosing hjobs hrecs hwait htaken hcomp hlog hfault hroom hlink =>
      execQueueClosed_closes ⟨hclose, hclosing, hjobs, hrecs, hwait, htaken, hcomp, hlog, hfault, hroom, hlink⟩,
    fun s q b j hwait hjob hdone => execQueueWaitRelease_replies hwait hjob hdone,
    fun s q idx p hring hpower hlink hcode hq => execRingReadIndexWrite_moves hring hpower hlink hcode hq idx⟩
  · refine ⟨_, execQueueRecordArrival_queues hpower hlink hq true hlen hcode hopen hcredit hroom, fun hnone => ?_, ?_, ?_⟩
    · rw [State.queue_markSince_recs, State.queue_setQueue_self]
      exact Queue.store_mgmt_recs hnone rec
    · rw [State.queue_markSince_recs, State.queue_setQueue_self]
      exact Queue.mem_store_mgmt (s.queue q) s.clk.cyc rec
    · rw [State.queue_markSince_used, State.queue_setQueue_self]
  · refine ⟨_, execQueueRecordArrival_queues hpower hlink hq false hlen hcode hopen hcredit hroom, ?_, ?_⟩
    · rw [State.queue_markSince_recs, State.queue_setQueue_self]
      exact Queue.store_user_recs (s.queue q) s.clk.cyc rec
    · rw [State.queue_markSince_used, State.queue_setQueue_self]
  · exact ⟨_, execQueueArbiterTake_takes hdue hpick hrecs hgood hopen hview, rfl, rfl, State.recs_tookRecord _ h q b mgmt rest⟩

end Sys2Proof.Spec
end

section
/-! PROOFS. FRES, TLBC, SCTL and AREQ and what they lead to (R350, R358, R365, R372-R374, R376, R378, R400). -/

namespace Sys2Proof.Machine

variable {s : State}

/-! ## Which operation a host write to a register is (R322, R358, R373) -/

theorem State.writeReg_fres (s : State) (v : Word) : s.writeReg .host 0x0504 v = (s.writeFres v, true) := by
  simp [State.writeReg, State.writeDevice]

theorem State.writeReg_tlbc (s : State) (v : Word) : s.writeReg .host 0x0531 v = (s.hostTlbiStart v, true) := by
  simp [State.writeReg, State.writeDevice]

theorem State.writeReg_sctl (s : State) (v : Word) : s.writeReg .host 0x0540 v = (s.writeSctl v, true) := by
  simp [State.writeReg, State.writeDevice]

/-! ## FRES (R372-R374) -/

theorem State.writeFres_retry (s : State) {n : Nat} (hn : n < 2 ^ 32) : s.writeFres (BitVec.ofNat 64 n) = s.fres n false := by
  have hval : (BitVec.ofNat 64 n).toNat = n := by rw [BitVec.toNat_ofNat, Nat.mod_eq_of_lt (by omega)]
  have haction : n / 2 ^ 32 % 2 ^ 2 = 0 := by omega
  simp only [State.writeFres, bitsOf, hval, haction, Nat.mod_eq_of_lt hn]
  rfl

theorem State.writeFres_unresolvable (s : State) {n : Nat} (hn : n < 2 ^ 32) :
    s.writeFres (BitVec.ofNat 64 (n + 2 ^ 32)) = s.fres n true := by
  have hval : (BitVec.ofNat 64 (n + 2 ^ 32)).toNat = n + 2 ^ 32 := by
    rw [BitVec.toNat_ofNat, Nat.mod_eq_of_lt (by omega)]
  have haction : (n + 2 ^ 32) / 2 ^ 32 % 2 ^ 2 = 1 := by omega
  have hserial : (n + 2 ^ 32) % 2 ^ 32 = n := by omega
  simp only [State.writeFres, bitsOf, hval, haction, hserial]
  rfl

section held
variable {n : Nat} {f : FaultSt} (hf : s.faults.get? n = some f) (himage : s.heldInImage f = false)
include hf himage

theorem State.fres_retry : s.fres n false = { s.retryHeld f.what with faults := s.faults.erase n } := by
  simp only [State.fres, hf, himage, Bool.false_eq_true, if_false]

/-- What a fault holds is given up where its record, if its element traps, finds a place. -/
theorem State.fres_unresolvable (hplace : s.canTrap f.u = true ∨ ∀ i, f.what ≠ .item i) :
    s.fres n true = { s.unresolveHeld f with faults := (s.unresolveHeld f).faults.erase n } := by
  simp only [State.fres, hf, himage, Bool.false_eq_true, if_false, if_true]
  rcases hplace with hcan | hitem
  · simp [hcan]
  · cases hwhat : f.what with
    | item i => exact absurd hwhat (hitem i)
    | rider _ => rfl
    | carriage _ => rfl
    | copy _ _ => rfl

end held

/-! ## TLBC (R350, R365) -/

theorem State.hostTlbiStart_begins {v : Word} {lo hi : Nat} (hidle : (s.reg 0x0532).getLsbD 0 = false)
    (hrange : tlbiRange (s.reg 0x0530).toNat v.toNat = some (lo, hi)) :
    s.hostTlbiStart v = (s.setReg 0x0532 1).tlbiStart { tenant := bitsOf v.toNat 49 40, lo := lo, hi := hi } := by
  simp only [State.hostTlbiStart, hidle, hrange, Bool.false_eq_true, if_false]

/-- An invalidation whose write-backs have been served gives its result and is over. -/
theorem State.tlbiStep_of_served {i : Nat} {x : Tlbi} (hx : s.tlbis.get? i = some x) (hwrote : x.wrote = true)
    (hserved : ∀ k ∈ x.wbs, s.sweep.items.get? k = none) :
    s.tlbiStep i = { s.tlbiResult x 0 with tlbis := s.tlbis.erase i } := by
  have hnone : (x.wbs.any fun k => (s.sweep.items.get? k).isSome) = false :=
    List.any_eq_false.mpr fun k hk => by simp [hserved k hk]
  simp only [State.tlbiStep, hx, hwrote, hnone, Bool.not_true, Bool.false_eq_true, if_false]

theorem State.tlbiStep_of_none {i : Nat} (h : s.tlbis.get? i = none) : s.tlbiStep i = s := by
  simp only [State.tlbiStep, h]

theorem execTlbiComplete_ends {i : Nat} {x : Tlbi} (hx : s.tlbis.get? i = some x) (hwrote : x.wrote = true)
    (hserved : ∀ k ∈ x.wbs, s.sweep.items.get? k = none) :
    execTlbiComplete i s = .next { s.tlbiResult x 0 with tlbis := s.tlbis.erase i } := by
  rw [execTlbiComplete, State.tlbiStep_of_served hx hwrote hserved, State.tlbiStep_of_none (Assoc.get?_erase_self s.tlbis i)]

/-- The result of the host's own invalidation stands in TLBS. -/
theorem State.reg_tlbiResult {x : Tlbi} (hhost : x.late = none) : (s.tlbiResult x 0).reg 0x0532 = 0 := by
  simp only [State.tlbiResult, hhost]
  exact State.reg_setReg_self s 0x0532 _

/-! ## SCTL (R358, R374, R376, R378) -/

/-- SRES shows the result code where there is one, else busy (R358). -/
def sresShown (r : State × Option Nat × Flags) : State :=
  match r.2.1 with
  | some code => r.1.setSres code 0
  | none => r.1.setReg 0x0542 0x100

/-- A word below 2^62 has operation 0. -/
theorem sctlWord_zero {v : Word} (h : v.toNat / 2 ^ 62 = 0) : sctlWord v 0 = v := by
  unfold sctlWord
  bv_omega

theorem sctlWord_one {v : Word} (h : v.toNat / 2 ^ 62 = 1) : sctlWord v 1 = v := by
  unfold sctlWord
  bv_omega

/-- The move bit of a word that has it not. -/
theorem and_not_moveBit {v : Word} (h : v.getLsbD 26 = false) : v &&& ~~~(0x4000000 : Word) = v := by
  rw [show (0x4000000 : Word) = BitVec.twoPow 64 26 from rfl]
  refine BitVec.eq_of_getLsbD_eq fun i hi => ?_
  by_cases hmove : i = 26
  · rw [hmove, BitVec.getLsbD_and, h, Bool.false_and]
  · simp [hi, hmove]

theorem or_moveBit {v : Word} (h : v.getLsbD 26 = true) : v ||| (0x4000000 : Word) = v := by
  rw [show (0x4000000 : Word) = BitVec.twoPow 64 26 from rfl]
  refine BitVec.eq_of_getLsbD_eq fun i hi => ?_
  by_cases hmove : i = 26
  · rw [hmove, BitVec.getLsbD_or, h, Bool.true_or]
  · simp [BitVec.getLsbD_twoPow, Ne.symm hmove]

section sctl
variable {v : Word} (hready : (s.reg 0x0542).getLsbD 8 = false)
include hready

theorem State.writeSctl_freezes (hop : v.toNat / 2 ^ 62 = 0) : s.writeSctl v =
    sresShown (s.freezeOp (FrzWord.of (v.toNat % 2 ^ 32)) ((s.reg 0x0541).toNat % 2 ^ 56) none true none) := by
  have hcode : bitsOf v.toNat 63 62 = 0 := by rw [bitsOf, hop]; rfl
  simp only [State.writeSctl, hready, hcode, Bool.false_eq_true, if_false]
  generalize s.freezeOp _ _ _ _ _ = r
  obtain ⟨t, code, fl⟩ := r
  cases code <;> rfl

theorem State.writeSctl_thaws (hop : v.toNat / 2 ^ 62 = 1) : s.writeSctl v =
    sresShown (s.thawOp (FrzWord.of (v.toNat % 2 ^ 32)) ((s.reg 0x0541).toNat % 2 ^ 56) true none) := by
  have hcode : bitsOf v.toNat 63 62 = 1 := by rw [bitsOf, hop]; rfl
  simp only [State.writeSctl, hready, hcode, Bool.false_eq_true, if_false]
  generalize s.thawOp _ _ _ _ = r
  obtain ⟨t, code, fl⟩ := r
  cases code <;> rfl

end sctl

/-! ## AREQ (R400) -/

theorem State.reg_withMem (s : State) (m : Memory) (n : Nat) : State.reg { s with mem := m } n = s.reg n := rfl

theorem State.mem_withMem (s : State) (m : Memory) : State.mem { s with mem := m } = m := rfl

/-- A report that AREQ asked for lands at its address, and AREQ shows it ready. -/
theorem execAttestationReport_lands (hasked : (s.reg 0x0705).getLsbD 0 = true) (hlink : s.linkUp = true) :
    execAttestationReport s = .next { s.setReg 0x0705 2 with
      mem := Memory.writeBytes s.mem (State.hostAddr (s.reg 0x0704).toNat) ((List.range 3885).map
        (Config.attest (reportOver s) s.boot.firmware ((List.range 8).map s.keyOf))) } := by
  simp only [execAttestationReport, hasked, hlink, Bool.and_self, if_true]

end Sys2Proof.Machine

namespace Sys2Proof.Spec
open Machine

section reached
variable {s : State} (hp : s.boot.powered = true) (hl : s.linkUp = true)
include hp hl

/-! ## The host's writes while the device has power and its link is up (R390, R402) -/

theorem exec_fresRetry {n : Nat} (hn : n < 2 ^ 32) : exec (.fresRetry n) s = .next (s.fres n false) := by
  rw [show exec (.fresRetry n) s = s.whenReached (s.writeReg .host 0x0504 (BitVec.ofNat 64 (n % 2 ^ 32))).1 from rfl,
    Nat.mod_eq_of_lt hn, State.whenReached_of_up hp hl, State.writeReg_fres, State.writeFres_retry s hn]

theorem exec_fresUnresolvable {n : Nat} (hn : n < 2 ^ 32) : exec (.fresUnresolvable n) s = .next (s.fres n true) := by
  rw [show exec (.fresUnresolvable n) s = s.whenReached (s.writeReg .host 0x0504 (BitVec.ofNat 64 (n % 2 ^ 32 + 2 ^ 32))).1
    from rfl, Nat.mod_eq_of_lt hn, State.whenReached_of_up hp hl, State.writeReg_fres, State.writeFres_unresolvable s hn]

theorem exec_hostTlbi (v : Word) : exec (.hostTlbi v) s = .next (s.hostTlbiStart v) := by
  rw [show exec (.hostTlbi v) s = s.whenReached (s.writeReg .host 0x0531 v).1 from rfl,
    State.whenReached_of_up hp hl, State.writeReg_tlbc]

theorem exec_sctlFreeze {v : Word} (hop : v.toNat / 2 ^ 62 = 0) (hstay : v.getLsbD 26 = false) :
    exec (.sctlFreeze v) s = .next (s.writeSctl v) := by
  rw [show exec (.sctlFreeze v) s = s.whenReached (s.writeReg .host 0x0540 (sctlWord v 0 &&& ~~~(0x4000000 : Word))).1 from rfl,
    sctlWord_zero hop, and_not_moveBit hstay, State.whenReached_of_up hp hl, State.writeReg_sctl]

theorem exec_sctlMove {v : Word} (hop : v.toNat / 2 ^ 62 = 0) (hmove : v.getLsbD 26 = true) :
    exec (.sctlMove v) s = .next (s.writeSctl v) := by
  rw [show exec (.sctlMove v) s = s.whenReached (s.writeReg .host 0x0540 (sctlWord v 0 ||| 0x4000000)).1 from rfl,
    sctlWord_zero hop, or_moveBit hmove, State.whenReached_of_up hp hl, State.writeReg_sctl]

theorem exec_sctlThaw {v : Word} (hop : v.toNat / 2 ^ 62 = 1) : exec (.sctlThaw v) s = .next (s.writeSctl v) := by
  rw [show exec (.sctlThaw v) s = s.whenReached (s.writeReg .host 0x0540 (sctlWord v 1)).1 from rfl,
    sctlWord_one hop, State.whenReached_of_up hp hl, State.writeReg_sctl]

end reached

/-- Settles O51: each write is one of the operations above on the register it names, and what it led to ends as it says. -/
theorem faultAndFreezeEvents : Obligations.FaultAndFreezeEvents := by
  unfold Obligations.FaultAndFreezeEvents
  intro s hp hl sres
  refine ⟨?retry, ?unresolvable, ?tlbi, ?tlbiEnds, ?freeze, ?move, ?thaw, ?report⟩
  case retry =>
    intro n f hn hf himage
    exact ⟨_, exec_fresRetry hp hl hn, by rw [State.fres_retry hf himage]; exact Assoc.get?_erase_self s.faults n⟩
  case unresolvable =>
    intro n f hn hf himage hplace
    rw [exec_fresUnresolvable hp hl hn, State.fres_unresolvable hf himage hplace]
  case tlbi =>
    intro v lo hi hidle hrange
    rw [exec_hostTlbi hp hl, State.hostTlbiStart_begins hidle hrange]
  case tlbiEnds =>
    intro i x hx hwrote hserved
    exact ⟨_, execTlbiComplete_ends hx hwrote hserved, Assoc.get?_erase_self s.tlbis i, fun hhost => State.reg_tlbiResult hhost⟩
  case freeze => exact fun v hready hop hstay => by rw [exec_sctlFreeze hp hl hop hstay, State.writeSctl_freezes hready hop]; rfl
  case move => exact fun v hready hop hmove => by rw [exec_sctlMove hp hl hop hmove, State.writeSctl_freezes hready hop]; rfl
  case thaw => exact fun v hready hop => by rw [exec_sctlThaw hp hl hop, State.writeSctl_thaws hready hop]; rfl
  case report =>
    intro hasked
    exact ⟨_, execAttestationReport_lands hasked hl,
      (State.reg_withMem (s.setReg 0x0705 2) _ 0x0705).trans (State.reg_setReg_self s 0x0705 2), State.mem_withMem (s.setReg 0x0705 2) _⟩

end Sys2Proof.Spec
end
